-- ==== Sys2Proof/Word.lean ====
section
/-! DEFINITION. The word types of the VL-8400 (00 R2, 01 R22, R24): a byte, a 128-bit token value, a 64-bit
address operand, and the identifiers whose widths the token tag fixes. -/

namespace Sys2Proof

/-- One byte of memory. -/
abbrev Byte := BitVec 8
/-- A token's value (R22, R24). -/
abbrev Value := BitVec 128
/-- A virtual address as an operand holds it (R24, R77). -/
abbrev Addr := BitVec 64
/-- Context number (R12). -/
abbrev CtxId := BitVec 12
/-- Thread number (R19). -/
abbrev ThreadId := BitVec 16
/-- Wave number, modulo 2^24 (R20). -/
abbrev WaveId := BitVec 24

end Sys2Proof
end

