-- ==== Sys2Proof/Syntax.lean ====
section
/-! DEFINITION. The instruction type of the VL-8400: one constructor per row of the opcode table. An
encoded instruction carries its template (10 R265) and its side word split into the fields of its form
(10 R270 to R274); every bit of the side word is kept, so that nothing of an encoding is lost. A row
without an encoding is a step of the machine itself; its arguments are what the outside world or a free
choice of the device supplies to that step (log entry 1). -/

namespace Sys2Proof

/-- Tag actions of R267; codes 0xB to 0xF are reserved and never decode. -/
inductive TagAction where
  | pass | wave | out2 | out1 | outb | waveOut2 | keepA | keepB | eor | seq | waveKeepA
  deriving DecidableEq, Repr, Inhabited

/-- Source selects of R268: a token, the side word's literal, a constant-file entry, or the tag word
(operand A) and operand A's value (operand B). -/
inductive Sel where
  | tok | lit | cf | tagDup
  deriving DecidableEq, Repr, Inhabited

/-- The template of R265 without its opcode, which the constructor of `Instr` is. -/
structure Tmpl where
  act : TagAction
  sa : Sel
  sb : Sel
  d1 : BitVec 8
  d2 : BitVec 8
  deriving DecidableEq, Repr, Inhabited

/-- Form G (R270). -/
structure FormG where
  ty : BitVec 4
  rm : BitVec 3
  sat : Bool
  cfx : BitVec 4
  lmask : BitVec 4
  imm : BitVec 16
  deriving DecidableEq, Repr, Inhabited

/-- Form L (R271): one 32-bit word. -/
structure FormL where
  word : BitVec 32
  deriving DecidableEq, Repr, Inhabited

/-- Form M (R272). -/
structure FormM where
  pred : BitVec 8
  own : BitVec 8
  succ : BitVec 8
  sz : BitVec 3
  ord : BitVec 2
  scp : BitVec 2
  q : Bool
  deriving DecidableEq, Repr, Inhabited

/-- Form X (R273). -/
structure FormX where
  var : BitVec 4
  cfx : BitVec 4
  ring : BitVec 5
  tile : BitVec 6
  chin : BitVec 5
  chen : Bool
  ord : BitVec 2
  scp : BitVec 2
  rsv : BitVec 3
  deriving DecidableEq, Repr, Inhabited

/-- Form S (R274). -/
structure FormS where
  deflt : Bool
  z1 : BitVec 7
  base : BitVec 4
  defport : BitVec 4
  z2 : BitVec 11
  len : BitVec 5
  deriving DecidableEq, Repr, Inhabited

/-- The XARG slot that follows a three-input instruction (R269): its own template, whose operand A is
operand C and whose destinations are dest3 and dest4, and its own form-L side word. -/
structure XArg where
  t : Tmpl
  l : FormL
  deriving DecidableEq, Repr, Inhabited

/-- A hardware error in a matrix array: what it adds, ±mant × 2^exp, to the output of column `col`, in the integer class to
that of segment `seg` (R218). -/
structure Glitch where
  col : Nat
  seg : Nat
  neg : Bool
  mant : Nat
  exp : Int
  deriving DecidableEq, Repr, Inhabited

/-- A structure of the module in which an uncorrectable error escalates (R220): the L2 tags or the directory of a slice, the
store buffer of a cluster, the key table, the placement table, the fabric manager of a die, or the link between two dies. -/
inductive Failing where
  | slice (n : Nat)
  | storeBuffer (clu : Nat)
  | keyTable
  | placementTable
  | fabricManager (die : Nat)
  | dieLink (a b : Nat)
  deriving DecidableEq, Repr, Inhabited

/-- What a steal handshake moves or reports (R126, R146): nothing more than an acquire; a launch record or an interval of a
range task's iterations that arrives; or word from the thief that stolen iterations are done, or a stolen child has ended. -/
inductive Stolen where
  | nothing
  | record (b : List Byte)
  | interval (ln : BitVec 32) (lo hi : Nat)
  | done (ln : BitVec 32) (n : Nat)
  | ended (ln : BitVec 32)
  deriving DecidableEq, Repr, Inhabited

/-- A translation miss (R81): the cluster whose access missed, and the address. -/
structure Walk where
  clu : Nat
  va : Addr
  deriving DecidableEq, Repr, Inhabited

/-- How a unit is retired (R194, R195): the reason, and whether it could be scrubbed. -/
structure RetireHow where
  reason : BitVec 8
  scrubbed : Bool
  deriving DecidableEq, Repr, Inhabited

/-- What a start sequence does next (R231): whether a cold start is requested first, the last step it completes, and whether an
error stops it in the one after that. -/
structure StartRun where
  request : Bool
  last : BitVec 4
  error : Bool
  deriving DecidableEq, Repr, Inhabited

/-- What a power interval ends with (R207, R452): the house's proposal of the next grant of each domain. -/
structure PowerTurn where
  grants : List (BitVec 16)
  deriving DecidableEq, Repr, Inhabited

/-- A retirable unit (R194): cluster, VL link, pseudo-channel or link lane. -/
structure RetUnit where
  kind : BitVec 8
  unit : BitVec 16
  deriving DecidableEq, Repr, Inhabited

/-- The gondola token (R146). -/
structure GondolaTok where
  seq : BitVec 32
  load : List (BitVec 8)
  req : List (BitVec 32)
  deriving DecidableEq, Repr, Inhabited

/-- A management firmware image offered for update (R451): its measurement, its security version and
whether its signature verifies under Welvon's firmware key. -/
structure FirmwareImage where
  digest : BitVec 256
  version : Nat
  signed : Bool
  deriving DecidableEq, Repr, Inhabited

/-- The integer atomics and reductions (R361). -/
inductive AtomOp where
  | add | and | or | xor | min | max | minn | maxn | xchg | cas
  deriving DecidableEq, Repr, Inhabited

/-- What an access arriving over a VL link asks for: a load, a store, an atomic or reduction of n bytes with the operands B and C,
or a REDFADD (R449, R97, R361, R362). -/
inductive PeerReq where
  | load (va : Addr) (n : Nat)
  | store (va : Addr) (bytes : List Byte)
  | rmw (va : Addr) (n : Nat) (op : AtomOp) (b c : BitVec 128)
  | redFadd (va : Addr) (b : BitVec 32)
  deriving DecidableEq, Repr, Inhabited

/-- Registers that the house, the host or the debug port writes with no behaviour but their field rules
(R4, R71, R75, R439, R450), and the context fields the house writes (R65). The last five are the house's choices that the
manual gives no register for: the exposed range and its key slot, the TSP lock, a route to a peer module, a binding of a
context and a peer module, and the key slot of a link (R438, R445, R447, R449; log entry 15). -/
inductive WReg where
  | spineFreq (die spine : Nat)
  | spsel (clu dom : Nat)
  | pwrCtl (die : Nat)
  | leaseCtl (die : Nat)
  | hostBiasReq
  | sysBiasReq
  | sysLink (n : Nat)
  | sysModnum
  | dbgCtl
  | dbgBkpt (n : Nat)
  | dbgStat
  | dbgDsel
  | dbgDdata
  | dbgDreg (row : Nat) (high : Bool)
  | dbgGen (ln : BitVec 32) (lcl : Nat) (blk : Addr)
  | dbgSlot (clu pe slot : Nat)
  | ctxStatus (c : CtxId)
  | ctxFqb (c : CtxId)
  | ctxCapqb (c : CtxId)
  | ctxLclust (c : CtxId)
  | ctxSpine (c : CtxId)
  | ctxOvf (c : CtxId)
  | pageEntry (pa : Nat)
  | sysEvseq
  | sysStart
  | score (kind unit : Nat)
  | pwrDom (clu dom : Nat)
  | sysTemp (clu : Nat)
  | hostBiasCnt
  | hdmRange (key : BitVec 12)
  | tspLock
  | peerRoute (peer : Nat)
  | peerBind (c : CtxId) (peer : Nat)
  | linkKey (n : Nat)
  deriving DecidableEq, Repr, Inhabited

/-- The context descriptor the house writes at creation (R79, R140, R143, R159, R175, R438). -/
structure CtxDescr where
  rootPA : Nat
  share : Nat
  pqQuota : List Nat
  pinQuota : Nat
  cmdBase : Nat
  cmdLog2 : Nat
  evBase : Nat
  evLog2 : Nat
  lcount : Nat
  prioMax : BitVec 4
  phys : List Nat
  granted : List Nat
  fqb : BitVec 64
  capqb : BitVec 64
  ovf : BitVec 64
  spine : BitVec 3
  podLaunches : Bool
  deriving DecidableEq, Repr, Inhabited

/-- Every row of the opcode table. The first group is encoded instructions in opcode order; the second is
the machine's own steps in the table's order. -/
inductive Instr where
  /-- MOV (0x01, R288). -/
  | mov (t : Tmpl) (l : FormL)
  /-- STEER (0x02, R288). -/
  | steer (t : Tmpl) (l : FormL)
  /-- FILTER (0x03, R288). -/
  | filter (t : Tmpl) (l : FormL)
  /-- GATE (0x04, R288). -/
  | gate (t : Tmpl) (l : FormL)
  /-- SINK (0x05, R288). -/
  | sink (t : Tmpl) (l : FormL)
  /-- SEL (0x06, R288). -/
  | sel (t : Tmpl) (l : FormL) (xa : XArg)
  /-- FORK (0x07, R288). -/
  | fork (t : Tmpl) (l : FormL) (xa : XArg)
  /-- WADV (0x08, R290). -/
  | wadv (t : Tmpl) (l : FormL)
  /-- WSET (0x09, R291). -/
  | wset (t : Tmpl) (l : FormL)
  /-- WRD (0x0A, R292). -/
  | wrd (t : Tmpl) (l : FormL)
  /-- TRD (0x0B, R292). -/
  | trd (t : Tmpl) (l : FormL)
  /-- TNEW (0x0C, R293). -/
  | tnew (t : Tmpl) (l : FormL)
  /-- TEND (0x0D, R295). -/
  | tend (t : Tmpl) (l : FormL)
  /-- SEQT (0x0E, R296). -/
  | seqt (t : Tmpl) (l : FormL)
  /-- SWITCH (0x10, R298). -/
  | switch (t : Tmpl) (f : FormS)
  /-- CALL (0x11, R301). -/
  | call (t : Tmpl) (l : FormL)
  /-- RET (0x12, R302). -/
  | ret (t : Tmpl) (l : FormL)
  /-- BJUMP (0x13, R300). -/
  | bjump (t : Tmpl) (l : FormL)
  /-- TRAP (0x14, R303). -/
  | trap (t : Tmpl) (g : FormG)
  /-- ADD (0x18, R305). -/
  | add (t : Tmpl) (g : FormG)
  /-- SUB (0x19, R305). -/
  | sub (t : Tmpl) (g : FormG)
  /-- MUL (0x1A, R306). -/
  | mul (t : Tmpl) (g : FormG)
  /-- MULH (0x1B, R306). -/
  | mulh (t : Tmpl) (g : FormG)
  /-- MULHN (0x1C, R306). -/
  | mulhn (t : Tmpl) (g : FormG)
  /-- MAD (0x1D, R306). -/
  | mad (t : Tmpl) (g : FormG) (xa : XArg)
  /-- DIV (0x1E, R307). -/
  | div (t : Tmpl) (g : FormG)
  /-- DIVN (0x1F, R307). -/
  | divn (t : Tmpl) (g : FormG)
  /-- REM (0x20, R307). -/
  | rem (t : Tmpl) (g : FormG)
  /-- REMN (0x21, R307). -/
  | remn (t : Tmpl) (g : FormG)
  /-- NEG (0x22, R308). -/
  | neg (t : Tmpl) (g : FormG)
  /-- ABS (0x23, R308). -/
  | abs (t : Tmpl) (g : FormG)
  /-- MIN (0x24, R305). -/
  | min (t : Tmpl) (g : FormG)
  /-- MAX (0x25, R305). -/
  | max (t : Tmpl) (g : FormG)
  /-- MINN (0x26, R305). -/
  | minn (t : Tmpl) (g : FormG)
  /-- MAXN (0x27, R305). -/
  | maxn (t : Tmpl) (g : FormG)
  /-- ADDSAT (0x28, R308). -/
  | addsat (t : Tmpl) (g : FormG)
  /-- SUBSAT (0x29, R308). -/
  | subsat (t : Tmpl) (g : FormG)
  /-- CLAMP (0x2A, R308). -/
  | clamp (t : Tmpl) (g : FormG) (xa : XArg)
  /-- AND (0x2B, R309). -/
  | and (t : Tmpl) (g : FormG)
  /-- OR (0x2C, R309). -/
  | or (t : Tmpl) (g : FormG)
  /-- XOR (0x2D, R309). -/
  | xor (t : Tmpl) (g : FormG)
  /-- ANDN (0x2E, R309). -/
  | andn (t : Tmpl) (g : FormG)
  /-- NOT (0x2F, R309). -/
  | not (t : Tmpl) (g : FormG)
  /-- SHL (0x30, R310). -/
  | shl (t : Tmpl) (g : FormG)
  /-- SHR (0x31, R310). -/
  | shr (t : Tmpl) (g : FormG)
  /-- SRA (0x32, R310). -/
  | sra (t : Tmpl) (g : FormG)
  /-- ROT (0x33, R310). -/
  | rot (t : Tmpl) (g : FormG)
  /-- CLZ (0x34, R311). -/
  | clz (t : Tmpl) (g : FormG)
  /-- CTZ (0x35, R311). -/
  | ctz (t : Tmpl) (g : FormG)
  /-- POPC (0x36, R311). -/
  | popc (t : Tmpl) (g : FormG)
  /-- BREV (0x37, R311). -/
  | brev (t : Tmpl) (g : FormG)
  /-- BFX (0x38, R312). -/
  | bfx (t : Tmpl) (g : FormG)
  /-- BFI (0x39, R312). -/
  | bfi (t : Tmpl) (g : FormG) (xa : XArg)
  /-- SEXT (0x3A, R313). -/
  | sext (t : Tmpl) (g : FormG)
  /-- ZEXT (0x3B, R313). -/
  | zext (t : Tmpl) (g : FormG)
  /-- LEA (0x3C, R314). -/
  | lea (t : Tmpl) (g : FormG)
  /-- CMP (0x3D, R315). -/
  | cmp (t : Tmpl) (g : FormG)
  /-- VADD (0x40, R321). -/
  | vadd (t : Tmpl) (g : FormG)
  /-- VSUB (0x41, R321). -/
  | vsub (t : Tmpl) (g : FormG)
  /-- VMUL (0x42, R321). -/
  | vmul (t : Tmpl) (g : FormG)
  /-- VFMA (0x43, R322). -/
  | vfma (t : Tmpl) (g : FormG) (xa : XArg)
  /-- VFMS (0x44, R322). -/
  | vfms (t : Tmpl) (g : FormG) (xa : XArg)
  /-- VFNMA (0x45, R322). -/
  | vfnma (t : Tmpl) (g : FormG) (xa : XArg)
  /-- VFNMS (0x46, R322). -/
  | vfnms (t : Tmpl) (g : FormG) (xa : XArg)
  /-- VDIV (0x47, R321). -/
  | vdiv (t : Tmpl) (g : FormG)
  /-- VSQRT (0x48, R321). -/
  | vsqrt (t : Tmpl) (g : FormG)
  /-- VRSQE (0x49, R323). -/
  | vrsqe (t : Tmpl) (g : FormG)
  /-- VRCPE (0x4A, R323). -/
  | vrcpe (t : Tmpl) (g : FormG)
  /-- VEXPE (0x4B, R323). -/
  | vexpe (t : Tmpl) (g : FormG)
  /-- VLOGE (0x4C, R323). -/
  | vloge (t : Tmpl) (g : FormG)
  /-- VMIN (0x4D, R324). -/
  | vmin (t : Tmpl) (g : FormG)
  /-- VMAX (0x4E, R324). -/
  | vmax (t : Tmpl) (g : FormG)
  /-- VABS (0x4F, R325). -/
  | vabs (t : Tmpl) (g : FormG)
  /-- VNEG (0x50, R325). -/
  | vneg (t : Tmpl) (g : FormG)
  /-- VCPYS (0x51, R325). -/
  | vcpys (t : Tmpl) (g : FormG)
  /-- VCMP (0x52, R326). -/
  | vcmp (t : Tmpl) (g : FormG)
  /-- VSEL (0x53, R327). -/
  | vsel (t : Tmpl) (g : FormG) (xa : XArg)
  /-- VCLASS (0x54, R328). -/
  | vclass (t : Tmpl) (g : FormG)
  /-- VROUND (0x55, R329). -/
  | vround (t : Tmpl) (g : FormG)
  /-- VCVT (0x56, R332). -/
  | vcvt (t : Tmpl) (g : FormG)
  /-- VCVTI (0x57, R332). -/
  | vcvti (t : Tmpl) (g : FormG)
  /-- VCVTF (0x58, R332). -/
  | vcvtf (t : Tmpl) (g : FormG)
  /-- VSCALE (0x59, R330). -/
  | vscale (t : Tmpl) (g : FormG)
  /-- VDOT (0x5A, R333). -/
  | vdot (t : Tmpl) (g : FormG)
  /-- VHADD (0x5B, R334). -/
  | vhadd (t : Tmpl) (g : FormG)
  /-- VHMAX (0x5C, R334). -/
  | vhmax (t : Tmpl) (g : FormG)
  /-- VHMIN (0x5D, R334). -/
  | vhmin (t : Tmpl) (g : FormG)
  /-- VSHUF (0x5E, R335). -/
  | vshuf (t : Tmpl) (g : FormG)
  /-- VBCAST (0x5F, R335). -/
  | vbcast (t : Tmpl) (g : FormG)
  /-- VPACK (0x60, R336). -/
  | vpack (t : Tmpl) (g : FormG)
  /-- VUNPK (0x61, R336). -/
  | vunpk (t : Tmpl) (g : FormG)
  /-- VIADD (0x62, R337). -/
  | viadd (t : Tmpl) (g : FormG)
  /-- VISUB (0x63, R337). -/
  | visub (t : Tmpl) (g : FormG)
  /-- VIMUL (0x64, R337). -/
  | vimul (t : Tmpl) (g : FormG)
  /-- VIMIN (0x65, R337). -/
  | vimin (t : Tmpl) (g : FormG)
  /-- VIMAX (0x66, R337). -/
  | vimax (t : Tmpl) (g : FormG)
  /-- VIABS (0x67, R337). -/
  | viabs (t : Tmpl) (g : FormG)
  /-- VSHL (0x68, R338). -/
  | vshl (t : Tmpl) (g : FormG)
  /-- VSHR (0x69, R338). -/
  | vshr (t : Tmpl) (g : FormG)
  /-- VSRA (0x6A, R338). -/
  | vsra (t : Tmpl) (g : FormG)
  /-- VNARROW (0x6B, R332). -/
  | vnarrow (t : Tmpl) (g : FormG)
  /-- VQUANT (0x6C, R339). -/
  | vquant (t : Tmpl) (g : FormG)
  /-- VDEQ (0x6D, R340). -/
  | vdeq (t : Tmpl) (g : FormG)
  /-- VRED (0x6E, R342). -/
  | vred (t : Tmpl) (g : FormG)
  /-- LD (0x70, R350). -/
  | ld (t : Tmpl) (m : FormM)
  /-- ST (0x71, R350). -/
  | st (t : Tmpl) (m : FormM)
  /-- LDC (0x72, R352). -/
  | ldc (t : Tmpl) (m : FormM)
  /-- STF (0x73, R354). -/
  | stf (t : Tmpl) (m : FormM)
  /-- LDI (0x74, R353). -/
  | ldi (t : Tmpl) (m : FormM)
  /-- STI (0x75, R355). -/
  | sti (t : Tmpl) (m : FormM)
  /-- MNOP (0x76, R358). -/
  | mnop (t : Tmpl) (m : FormM)
  /-- PREF (0x77, R359). -/
  | pref (t : Tmpl) (m : FormM)
  /-- ATADD (0x78, R361). -/
  | atadd (t : Tmpl) (m : FormM)
  /-- ATAND (0x79, R361). -/
  | atand (t : Tmpl) (m : FormM)
  /-- ATOR (0x7A, R361). -/
  | ator (t : Tmpl) (m : FormM)
  /-- ATXOR (0x7B, R361). -/
  | atxor (t : Tmpl) (m : FormM)
  /-- ATMIN (0x7C, R361). -/
  | atmin (t : Tmpl) (m : FormM)
  /-- ATMAX (0x7D, R361). -/
  | atmax (t : Tmpl) (m : FormM)
  /-- ATMINN (0x7E, R361). -/
  | atminn (t : Tmpl) (m : FormM)
  /-- ATMAXN (0x7F, R361). -/
  | atmaxn (t : Tmpl) (m : FormM)
  /-- ATXCHG (0x80, R361). -/
  | atxchg (t : Tmpl) (m : FormM)
  /-- ATCAS (0x81, R361). -/
  | atcas (t : Tmpl) (m : FormM) (xa : XArg)
  /-- REDADD (0x82, R361). -/
  | redadd (t : Tmpl) (m : FormM)
  /-- REDMIN (0x83, R361). -/
  | redmin (t : Tmpl) (m : FormM)
  /-- REDMAX (0x84, R361). -/
  | redmax (t : Tmpl) (m : FormM)
  /-- REDFADD (0x85, R362). -/
  | redfadd (t : Tmpl) (m : FormM)
  /-- FENCE (0x86, R117). -/
  | fence (t : Tmpl) (m : FormM)
  /-- OWN (0x87, R364). -/
  | own (t : Tmpl) (m : FormM)
  /-- FEQ (0x88, R356). -/
  | feq (t : Tmpl) (m : FormM)
  /-- FESET (0x89, R357). -/
  | feset (t : Tmpl) (m : FormM)
  /-- CLEAN (0x8A, R365). -/
  | clean (t : Tmpl) (m : FormM)
  /-- FLUSH (0x8B, R365). -/
  | flush (t : Tmpl) (m : FormM)
  /-- INVL (0x8C, R365). -/
  | invl (t : Tmpl) (m : FormM)
  /-- WLOAD (0x90, R374). -/
  | wload (t : Tmpl) (x : FormX)
  /-- MMA (0x91, R376). -/
  | mma (t : Tmpl) (x : FormX)
  /-- MMASP (0x92, R256). -/
  | mmasp (t : Tmpl) (x : FormX)
  /-- ACCCFG (0x93, R380). -/
  | acccfg (t : Tmpl) (x : FormX)
  /-- ACCRD (0x94, R381). -/
  | accrd (t : Tmpl) (x : FormX)
  /-- ACCSPL (0x95, R381). -/
  | accspl (t : Tmpl) (x : FormX)
  /-- ACCRST (0x96, R381). -/
  | accrst (t : Tmpl) (x : FormX)
  /-- SCACC (0x97, R382). -/
  | scacc (t : Tmpl) (x : FormX)
  /-- SCACCV (0x98, R382). -/
  | scaccv (t : Tmpl) (x : FormX)
  /-- RINIT (0x99, R383). -/
  | rinit (t : Tmpl) (x : FormX)
  /-- RSTAT (0x9A, R384). -/
  | rstat (t : Tmpl) (x : FormX)
  /-- RADV (0x9B, R385). -/
  | radv (t : Tmpl) (x : FormX)
  /-- CPY (0x9C, R387). -/
  | cpy (t : Tmpl) (x : FormX)
  /-- CPY2D (0x9D, R387). -/
  | cpy2d (t : Tmpl) (x : FormX)
  /-- GATH (0x9E, R387). -/
  | gath (t : Tmpl) (x : FormX)
  /-- SCAT (0x9F, R387). -/
  | scat (t : Tmpl) (x : FormX)
  /-- COLL (0xA0, R388). -/
  | coll (t : Tmpl) (x : FormX)
  /-- ECAN (0xA1, R390). -/
  | ecan (t : Tmpl) (x : FormX)
  /-- STRCFG (0xA2, R391). -/
  | strcfg (t : Tmpl) (x : FormX)
  /-- STRGO (0xA3, R392). -/
  | strgo (t : Tmpl) (x : FormX)
  /-- STRSTOP (0xA4, R392). -/
  | strstop (t : Tmpl) (x : FormX)
  /-- SQCFG (0xA5, R393). -/
  | sqcfg (t : Tmpl) (x : FormX)
  /-- SQGO (0xA6, R394). -/
  | sqgo (t : Tmpl) (x : FormX)
  /-- CHWIRE (0xA7, R395). -/
  | chwire (t : Tmpl) (x : FormX)
  /-- CHSET (0xA8, R396). -/
  | chset (t : Tmpl) (x : FormX)
  /-- CHPULSE (0xA9, R396). -/
  | chpulse (t : Tmpl) (x : FormX)
  /-- LAUNCH (0xB0, R402). -/
  | launch (t : Tmpl) (m : FormM)
  /-- LSTAT (0xB1, R403). -/
  | lstat (t : Tmpl) (m : FormM)
  /-- LBAR (0xB2, R404). -/
  | lbar (t : Tmpl) (m : FormM)
  /-- PQPUT (0xB3, R406). -/
  | pqput (t : Tmpl) (m : FormM)
  /-- PQGET (0xB4, R406). -/
  | pqget (t : Tmpl) (m : FormM)
  /-- RTGET (0xB5, R407). -/
  | rtget (t : Tmpl) (m : FormM)
  /-- RTDONE (0xB6, R408). -/
  | rtdone (t : Tmpl) (m : FormM)
  /-- QPUT (0xB7, R410). -/
  | qput (t : Tmpl) (m : FormM)
  /-- QGET (0xB8, R410). -/
  | qget (t : Tmpl) (m : FormM)
  /-- QBIND (0xB9, R410). -/
  | qbind (t : Tmpl) (m : FormM)
  /-- QUNBIND (0xBA, R410). -/
  | qunbind (t : Tmpl) (m : FormM)
  /-- IQPUT (0xBB, R412). -/
  | iqput (t : Tmpl) (m : FormM)
  /-- IQGET (0xBC, R413). -/
  | iqget (t : Tmpl) (m : FormM)
  /-- IQLOOK (0xBD, R414). -/
  | iqlook (t : Tmpl) (m : FormM)
  /-- IQCONS (0xBE, R415). -/
  | iqcons (t : Tmpl) (m : FormM)
  /-- IQADV (0xBF, R412). -/
  | iqadv (t : Tmpl) (m : FormM)
  /-- IQQUIET (0xC0, R416). -/
  | iqquiet (t : Tmpl) (m : FormM)
  /-- STEAL (0xC1, R409). -/
  | steal (t : Tmpl) (g : FormG)
  /-- CAPGET (0xC2, R417). -/
  | capget (t : Tmpl) (m : FormM)
  /-- CFGREQ (0xC3, R418). -/
  | cfgreq (t : Tmpl) (g : FormG)
  /-- JOINW (0xC4, R405). -/
  | joinw (t : Tmpl) (m : FormM)
  /-- DSWITCH (0xD0, R419). -/
  | dswitch (t : Tmpl) (g : FormG)
  /-- DFENCE (0xD1, R420). -/
  | dfence (t : Tmpl) (g : FormG)
  /-- DPUT (0xD2, R421). -/
  | dput (t : Tmpl) (m : FormM)
  /-- DGET (0xD3, R421). -/
  | dget (t : Tmpl) (m : FormM)
  /-- IPIN (0xD4, R422). -/
  | ipin (t : Tmpl) (g : FormG)
  /-- IUNPIN (0xD5, R422). -/
  | iunpin (t : Tmpl) (g : FormG)
  /-- YIELD (0xD6, R423). -/
  | yield (t : Tmpl) (g : FormG)
  /-- CTXST (0xD7, R424). -/
  | ctxst (t : Tmpl) (g : FormG)
  /-- CNTRD (0xD8, R425). -/
  | cntrd (t : Tmpl) (g : FormG)
  /-- ENRD (0xD9, R425). -/
  | enrd (t : Tmpl) (g : FormG)
  /-- SUSRD (0xDA, R426). -/
  | susrd (t : Tmpl) (g : FormG)
  /-- LOGSET (0xDB, R429). -/
  | logset (t : Tmpl) (m : FormM)
  /-- LOGRD (0xDC, R427). -/
  | logrd (t : Tmpl) (g : FormG)
  /-- KEYSET (0xDD, R428). -/
  | keyset (t : Tmpl) (m : FormM)
  /-- PATTR (0xDE, R432). -/
  | pattr (t : Tmpl) (m : FormM)
  /-- XLINV (0xDF, R430). -/
  | xlinv (t : Tmpl) (m : FormM)
  /-- SYSCALL (0xE0, R433). -/
  | syscall (t : Tmpl) (g : FormG)
  /-- BRK (0xE1, R434). -/
  | brk (t : Tmpl) (g : FormG)
  /-- MIGRQ (0xE2, R435). -/
  | migrq (t : Tmpl) (g : FormG)
  /-- LEASEQ (0xE3, R431). -/
  | leaseq (t : Tmpl) (g : FormG)
  /-- FRESUME (0xE4, R436). -/
  | fresume (t : Tmpl) (g : FormG)
  /-- FABORT (0xE5, R436). -/
  | fabort (t : Tmpl) (g : FormG)
  /-- BLOCK_PLACEMENT (R27). -/
  | blockPlacement (c : CtxId) (l : Nat) (b : Addr) (at_ : List (Nat × Nat))
  /-- BLOCK_MOVE (R32). -/
  | blockMove (c : CtxId) (l : Nat) (b : Addr) (at_ : List (Nat × Nat))
  /-- TOKEN_FORWARD (R32). -/
  | tokenForward (c : CtxId) (l : Nat) (b : Addr)
  /-- STALE_BLOCK_EVICTION (R168). -/
  | staleBlockEviction (c : CtxId) (l : Nat) (b : Addr)
  /-- MEMORY_ORDER_ENTRY (R348). -/
  | memoryOrderEntry (c : CtxId) (th : ThreadId) (w : WaveId) (own : BitVec 8)
  /-- LOAD_BIND (R106). -/
  | loadBind (c : CtxId) (th : ThreadId) (w : WaveId) (own : BitVec 8) (pick : Nat) (ecc : Option (BitVec 2))
  /-- STORE_PERFORM (R106). -/
  | storePerform (c : CtxId) (th : ThreadId) (k pick : Nat) (ecc : Option (BitVec 2))
  /-- WAVE_COMMIT (R37). -/
  | waveCommit (c : CtxId) (th : ThreadId)
  /-- COMMITTED_OPERATION_WAIT_END (R137). -/
  | committedOperationWaitEnd (c : CtxId) (th : ThreadId) (pick : Nat)
  /-- PAGE_WALK (R81). -/
  | pageWalk (c : CtxId) (w : Walk)
  /-- FAULT_DELIVERY (R213). -/
  | faultDelivery (c : CtxId) (th : ThreadId)
  /-- STALL_SWEEP (R49). -/
  | stallSweep (pe slot : Nat)
  /-- LAUNCH_ADMISSION (R139). -/
  | launchAdmission (die : Nat)
  /-- THREAD_CREATION (R139). -/
  | threadCreation (c : CtxId) (ln : BitVec 32)
  /-- LAUNCH_COMPLETION (R135). -/
  | launchCompletion (c : CtxId) (ln : BitVec 32)
  /-- LAUNCH_ABORT (R135). -/
  | launchAbort (c : CtxId) (ln : BitVec 32)
  /-- GRANT_INTERVAL (R140). -/
  | grantInterval (die : Nat)
  /-- PREEMPTION_GATE (R222). -/
  | preemptionGate (c : CtxId)
  /-- QUIESCENCE_REPORT (R222). -/
  | quiescenceReport (c : CtxId)
  /-- CONTEXT_SAVE_REPORT (R222). -/
  | contextSaveReport (c : CtxId)
  /-- PREEMPTION_FORCE (R223). -/
  | preemptionForce (c : CtxId)
  /-- RESTORE (R224). -/
  | restore (c : CtxId) (phys : List Nat)
  /-- MIGRATION_GATE (R225). -/
  | migrationGate (c : CtxId) (l : Nat) (cause : BitVec 8)
  /-- MIGRATION_MOVE (R225). -/
  | migrationMove (c : CtxId) (l : Nat)
  /-- THERMAL_HOT (R456). -/
  | thermalHot (clu : Nat) (temp : BitVec 12)
  /-- THROTTLE_TICK (R456). -/
  | throttleTick (clu : Nat) (temp : BitVec 12)
  /-- THERMAL_TRIP (R227). -/
  | thermalTrip (clu : Nat) (temp : BitVec 12)
  /-- COOLANT_FAULT (R457). -/
  | coolantFault (flow inlet : Nat)
  /-- LEASE_START (R193). -/
  | leaseStart (die : Nat) (u : RetUnit)
  /-- LEASE_TESTING (R193). -/
  | leaseTesting (die entry : Nat) (failed : Bool)
  /-- LEASE_VERDICT (R193). -/
  | leaseVerdict (die entry : Nat)
  /-- LEASE_RETURN (R193). -/
  | leaseReturn (die entry : Nat)
  /-- RETIREMENT (R228). -/
  | retirement (u : RetUnit) (how : RetireHow)
  /-- CONTROL_LOGIC_ERROR (R220). -/
  | controlLogicError (u : RetUnit)
  /-- ESCALATING_ERROR (R220). -/
  | escalatingError (f : Failing) (more : List Failing)
  /-- WARM_RESET (R230). -/
  | warmReset
  /-- L2_WRITEBACK_TIMEOUT (R230). -/
  | l2WritebackTimeout (lost : List Nat)
  /-- COLD_START (R231). -/
  | coldStart (run : StartRun) (failed : List RetUnit)
  /-- TEARDOWN (R232). -/
  | teardown (c : CtxId)
  /-- PATROL_SCRUB (R95). -/
  | patrolScrub (corrected : List Nat)
  /-- POWER_INTERVAL (R207). -/
  | powerInterval (clu spine cycles : Nat) (turn : PowerTurn)
  /-- BALLAST_FIRING (R453). -/
  | ballastFiring (clu dom : Nat)
  /-- CHIME_EVALUATION (R184). -/
  | chimeEvaluation (c : CtxId) (l : Nat)
  /-- CHIME_COUNTER_FIRE (R181). -/
  | chimeCounterFire (c : CtxId) (l n : Nat)
  /-- DRUM_EMIT (R62). -/
  | drumEmit (c : CtxId) (l : Nat) (drum : BitVec 13)
  /-- DRUM_END (R61). -/
  | drumEnd (c : CtxId) (l : Nat) (drum : BitVec 13)
  /-- STREAM_ELEMENT (R64). -/
  | streamElement (c : CtxId) (l n pick : Nat)
  /-- STREAM_END (R392). -/
  | streamEnd (c : CtxId) (l n : Nat)
  /-- WLOAD_EXECUTE (R374). -/
  | wloadExecute (c : CtxId) (l d : Nat) (ecc : Option (BitVec 2))
  /-- MATRIX_ACCEPTANCE (R377). -/
  | matrixAcceptance (c : CtxId) (l d : Nat)
  /-- MATRIX_ROW (R377). -/
  | matrixRow (c : CtxId) (l d : Nat) (glitch : Option Glitch) (ecc : Option (BitVec 2))
  /-- ACCUMULATOR_RELEASE (R378). -/
  | accumulatorRelease (c : CtxId) (l d tile : Nat)
  /-- ENGINE_UNIT (R387). -/
  | engineUnit (c : CtxId) (l k pick : Nat) (ecc : Option (BitVec 2))
  /-- COMMAND_COMPLETION (R122). -/
  | commandCompletion (c : CtxId) (l k : Nat)
  /-- COLLECTIVE_START (R388). -/
  | collectiveStart (c : CtxId) (collid : BitVec 16)
  /-- QUEUE_DISPATCH (R150). -/
  | queueDispatch (c : CtxId) (desc : Addr)
  /-- PARKED_QUEUE_SERVE (R148). -/
  | parkedQueueServe (c : CtxId) (th : ThreadId) (pick : Nat)
  /-- BARRIER_RELEASE (R206). -/
  | barrierRelease (c : CtxId) (ln : BitVec 32) (level inst : Nat)
  /-- GONDOLA_VISIT (R146). -/
  | gondolaVisit (g : GondolaTok)
  /-- STEAL_HANDSHAKE (R126). -/
  | stealHandshake (c : CtxId) (thief : BitVec 8) (work : Stolen)
  /-- HOST_DOORBELL (R439). -/
  | hostDoorbell (c : CtxId) (prod : BitVec 32)
  /-- HOST_COMMAND (R160). -/
  | hostCommand (c : CtxId)
  /-- HOST_EVENT_WRITE (R160). -/
  | hostEventWrite (c : CtxId) (cons : BitVec 32)
  /-- BIAS_TO_HOST (R442). -/
  | biasToHost (byHouse : Bool) (page : BitVec 40) (hostData : List (Nat × List Byte))
  /-- BIAS_TO_DEVICE (R443). -/
  | biasToDevice (byHouse : Bool) (page : BitVec 40) (hostData : List (Nat × List Byte))
  /-- HOST_MEMORY_REQUEST (R440). -/
  | hostMemoryRequest (pa : Nat) (cacheable : Bool) (write : Option (List Byte)) (n : Nat)
  /-- HOST_SNOOP_RESPONSE (R441). -/
  | hostSnoopResponse (line : Nat) (dirty : Option (List Byte)) (keepShared : Bool)
  /-- SPDM_REQUEST (R445). -/
  | spdmRequest (req : BitVec 8) (index : BitVec 8) (nonce : BitVec 256)
  /-- PEER_REQUEST (R449). -/
  | peerRequest (peer : BitVec 8) (c : CtxId) (req : PeerReq)
  /-- LINK_WIDTH_CHANGE (R448). -/
  | linkWidthChange (link : Nat) (lanes : BitVec 4)
  /-- LINK_CORRECTED_ERROR (R203). -/
  | linkCorrectedError (link : Nat) (lane : Option Nat)
  /-- SPINEFREQ_WRITE (R72). -/
  | spinefreqWrite (die spine : Nat) (code : BitVec 7)
  /-- SPSEL_WRITE (R454). -/
  | spselWrite (clu dom : Nat) (spine : BitVec 3)
  /-- DBG_HALT (R75). -/
  | dbgHalt
  /-- DBG_RESUME (R75). -/
  | dbgResume
  /-- DBG_STEP (R75). -/
  | dbgStep
  /-- DFENCE_COMPLETION (R170). -/
  | dfenceCompletion (c : CtxId)
  /-- FIRMWARE_UPDATE (R451). -/
  | firmwareUpdate (img : FirmwareImage)
  /-- REGISTER_WRITE (R4). -/
  | registerWrite (r : WReg) (v : BitVec 64)
  /-- ACCUMULATOR_COMMAND_EXECUTE (R381). -/
  | accumulatorCommandExecute (c : CtxId) (l d : Nat) (ecc : Option (BitVec 2))
  /-- CONTEXT_CREATION (R205). -/
  | contextCreation (c : CtxId) (d : CtxDescr)
  /-- SWITCH_OUT_RESIDENT (R14). -/
  | switchOutResident (c : CtxId)
  /-- SWITCH_IN_RESIDENT (R14). -/
  | switchInResident (c : CtxId)
  /-- ORDERLY_POWER_DOWN (R204). -/
  | orderlyPowerDown
  /-- HOT_CLEAR (R456). -/
  | hotClear (clu : Nat) (temp : BitVec 12)
  /-- COOLANT_CONDITION_CLEAR (R457). -/
  | coolantConditionClear (flow inlet : Nat)
  /-- FAR_MODULE_CONNECT (R450). -/
  | farModuleConnect (link : Nat) (peer : Option (BitVec 8)) (lanes : BitVec 4)
  /-- CXL_LINK_TRAINING (R438). -/
  | cxlLinkTraining (up : Bool) (lanes rate : Nat)
  /-- HOST_CACHE_SNOOP (R97). -/
  | hostCacheSnoop (line : Nat) (invalidate : Bool)
  deriving DecidableEq, Repr, Inhabited

end Sys2Proof
end

