-- ==== Sys2Proof/Config.lean ====
section
/-! DEFINITION. What one VL-8400 fixes once and the manual leaves open, and who moves next. Every opaque
constant below is a free value: it has no body, so no proof can learn what it is. -/

namespace Sys2Proof

/-- One firing site: a slot of a placed block, on behalf of one thread and one wave (R23, R33). The
logical cluster and the launch follow from the thread (R462). -/
structure Site where
  ctx : CtxId
  blk : Addr
  slot : Nat
  thread : ThreadId
  wave : WaveId
  deriving DecidableEq, Repr, Inhabited

/-- A hardware error that meets the next firing: none, a shadow mismatch (R217), or a damaged slot or
matching-store entry (R220). -/
inductive Upset where
  | none | shadow | damaged
  deriving DecidableEq, Repr, Inhabited

/-- One choice of what moves next: a PE fires the instruction that R33 puts first, at a site, or a step of the machine takes
place. `late` are sites of which a token is still on its way to its slot, or whose firing must wait, so that they are not
among the ready ones; a site that has once stood ready is so no more (log entry 133). Model's own (log entry 1). -/
inductive Choice where
  | fire (s : Site) (u : Upset) (late : List Site)
  | event (i : Instr)
  deriving DecidableEq, Repr, Inhabited

namespace Config

/-- Which agent moves when the agenda is empty: nothing constrains it (log entry 1). -/
opaque schedule : Nat → Choice
/-- Energy weight, in units of 2^-10 microjoule, of an event of an energy class: set at manufacture for
each device and not given by the manual (R200; log entry 7). -/
opaque energyWeight : Nat → Nat → Nat
/-- The byte read at a physical address when a line written under one key slot is read under another:
the decryption of foreign ciphertext (R96; log entry 8). -/
opaque garble : Nat → Nat → Nat → Byte
/-- RSASSA-3072 over a SHA-256 digest under the device identity key (R194, R196, R445; log entry 8). -/
opaque rsaSign : BitVec 256 → BitVec 256 → BitVec 3072
/-- SHA-256 of the identity public key derived from the firmware measurement (R445; log entry 8). -/
opaque identityKey : BitVec 256 → BitVec 256
/-- Measurement blocks 1, 3 and 4 of R446: fixed content the manual does not give (log entry 8). -/
opaque fixedMeasurement : Nat → BitVec 256
/-- Measurement block 6: the exposed range, its key slot and the TSP lock, in an encoding the manual does not give (R446; log
entry 8). -/
opaque rangeMeasurement : Nat → Nat → Nat → Bool → BitVec 256
/-- The signature of an SPDM answer, over a transcript the manual leaves to SPDM 1.3: identity key, request code, measurement
and nonce (R445; log entry 8). -/
opaque spdmSign : BitVec 256 → BitVec 8 → BitVec 256 → BitVec 256 → BitVec 3072
/-- SHA-256 of the certificate chain in slot 0, for an identity key (R445; log entry 8). -/
opaque certChain : BitVec 256 → BitVec 256
/-- What the module answers to an SPDM request of a code, and for an index, that the manual says nothing of (R445; log entry 70). -/
opaque spdmAnswer : BitVec 8 → BitVec 8 → BitVec 256
/-- The dirty data, if any, with which the host answers the back-invalidation of a line at the n-th free choice: an input from
outside (R444; log entry 148). -/
opaque hostDirty : Nat → Nat → Option (BitVec 512)
/-- Whether a unit that is being retired can be scrubbed, at the n-th free choice (06 R195; log entry 149). -/
opaque scrubs : Nat → RetUnit → Bool
/-- Where in house memory the n-th scrub receipt is written: the management firmware's choice (R196; log entry 14). -/
opaque receiptAddress : Nat → Nat
/-- Bytes that the manual says depend on timing, and those of a value it does not state, at the n-th free choice (R372, R387,
R407; log entries 9 and 101). -/
opaque freeByte : Nat → Byte

/-- Abstract and physical sizes of R6. -/
abbrev dies : Nat := 4
abbrev clustersPerDie : Nat := 24
abbrev clusters : Nat := 96
abbrev domainsPerCluster : Nat := 16
abbrev slotsPerCluster : Nat := 8192
abbrev hbmBytes : Nat := 0x10000000000
abbrev scratchBytes : Nat := 0x800000

end Config

end Sys2Proof
end

