-- ==== Sys2Proof/Decode.lean ====
section
/-! DEFINITION. Decoding and encoding: templates and side words (10 R265 to R275), the XARG pair (R269),
parcels and dictionary holes (R264, R276, 06 R165), the legality of an instruction's words (10 R278 step
3 and the rules it gathers), and the encoder written from the same tables. -/

namespace Sys2Proof

/-- Why four words are no instruction: the ILLEGAL details 1, 2 and 6 of R278. -/
inductive DecodeErr where
  | illegalOpcode | illegalTagAction | xargMissing
  deriving DecidableEq, Repr, Inhabited

/-- What a slot holds: its template and side word, and those of the slot after it, which matter only to a
three-input instruction. -/
structure Words where
  tmpl : BitVec 32
  side : BitVec 32
  xtmpl : BitVec 32
  xside : BitVec 32
  deriving DecidableEq, Repr, Inhabited

/-- R267. -/
def TagAction.dec (b : BitVec 4) : Option TagAction :=
  match b.toNat with
  | 0 => some .pass | 1 => some .wave | 2 => some .out2 | 3 => some .out1 | 4 => some .outb
  | 5 => some .waveOut2 | 6 => some .keepA | 7 => some .keepB | 8 => some .eor | 9 => some .seq
  | 10 => some .waveKeepA | _ => none

def TagAction.enc : TagAction → BitVec 4
  | .pass => 0 | .wave => 1 | .out2 => 2 | .out1 => 3 | .outb => 4 | .waveOut2 => 5
  | .keepA => 6 | .keepB => 7 | .eor => 8 | .seq => 9 | .waveKeepA => 10

/-- R268. -/
def Sel.dec (b : BitVec 2) : Sel :=
  match b.toNat with
  | 0 => .tok | 1 => .lit | 2 => .cf | _ => .tagDup

def Sel.enc : Sel → BitVec 2
  | .tok => 0 | .lit => 1 | .cf => 2 | .tagDup => 3

/-- R265 without the opcode. -/
def Tmpl.dec (w : BitVec 32) : Option Tmpl :=
  (TagAction.dec (w.extractLsb' 20 4)).map fun a =>
    { act := a, sa := Sel.dec (w.extractLsb' 18 2), sb := Sel.dec (w.extractLsb' 16 2),
      d1 := w.extractLsb' 8 8, d2 := w.extractLsb' 0 8 }

def Tmpl.enc (t : Tmpl) (op : BitVec 8) : BitVec 32 :=
  op ++ t.act.enc ++ t.sa.enc ++ t.sb.enc ++ t.d1 ++ t.d2

/-- One bit of a word as a Boolean, and back. -/
def bit (w : BitVec 32) (i : Nat) : Bool := w.getLsbD i
def ofBit (b : Bool) : BitVec 1 := BitVec.ofBool b

/-- R270. -/
def FormG.dec (w : BitVec 32) : FormG :=
  { ty := w.extractLsb' 28 4, rm := w.extractLsb' 25 3, sat := bit w 24, cfx := w.extractLsb' 20 4,
    lmask := w.extractLsb' 16 4, imm := w.extractLsb' 0 16 }

def FormG.enc (g : FormG) : BitVec 32 :=
  g.ty ++ g.rm ++ ofBit g.sat ++ g.cfx ++ g.lmask ++ g.imm

/-- R272. -/
def FormM.dec (w : BitVec 32) : FormM :=
  { pred := w.extractLsb' 24 8, own := w.extractLsb' 16 8, succ := w.extractLsb' 8 8,
    sz := w.extractLsb' 5 3, ord := w.extractLsb' 3 2, scp := w.extractLsb' 1 2, q := bit w 0 }

def FormM.enc (m : FormM) : BitVec 32 :=
  m.pred ++ m.own ++ m.succ ++ m.sz ++ m.ord ++ m.scp ++ ofBit m.q

/-- R273. -/
def FormX.dec (w : BitVec 32) : FormX :=
  { var := w.extractLsb' 28 4, cfx := w.extractLsb' 24 4, ring := w.extractLsb' 19 5,
    tile := w.extractLsb' 13 6, chin := w.extractLsb' 8 5, chen := bit w 7,
    ord := w.extractLsb' 5 2, scp := w.extractLsb' 3 2, rsv := w.extractLsb' 0 3 }

def FormX.enc (x : FormX) : BitVec 32 :=
  x.var ++ x.cfx ++ x.ring ++ x.tile ++ x.chin ++ ofBit x.chen ++ x.ord ++ x.scp ++ x.rsv

/-- R274. -/
def FormS.dec (w : BitVec 32) : FormS :=
  { deflt := bit w 31, z1 := w.extractLsb' 24 7, base := w.extractLsb' 20 4,
    defport := w.extractLsb' 16 4, z2 := w.extractLsb' 5 11, len := w.extractLsb' 0 5 }

def FormS.enc (f : FormS) : BitVec 32 :=
  ofBit f.deflt ++ f.z1 ++ f.base ++ f.defport ++ f.z2 ++ f.len

/-- The XARG slot (R269): opcode 0x0F. -/
def XArg.dec (tmpl side : BitVec 32) : Option XArg :=
  if tmpl.extractLsb' 24 8 = 0x0F#8 then (Tmpl.dec tmpl).map fun t => ⟨t, ⟨side⟩⟩ else none

def withXArg (x : Option XArg) (k : XArg → Instr) : Except DecodeErr Instr :=
  match x with
  | none => .error .xargMissing
  | some xa => .ok (k xa)

/-- The opcodes of R269. -/
def threeInput (op : Nat) : Bool :=
  [0x06, 0x07, 0x1D, 0x2A, 0x39, 0x43, 0x44, 0x45, 0x46, 0x53, 0x81].contains op

/-- The opcode map of R277, XARG left out: an XARG slot is part of the instruction before it. -/
def knownOpcode (op : BitVec 8) : Bool :=
  let n := op.toNat
  (1 ≤ n && n ≤ 0x14 && n != 0x0F) || (0x18 ≤ n && n ≤ 0x3D) || (0x40 ≤ n && n ≤ 0x6E)
    || (0x70 ≤ n && n ≤ 0x8C) || (0x90 ≤ n && n ≤ 0xA9) || (0xB0 ≤ n && n ≤ 0xC4)
    || (0xD0 ≤ n && n ≤ 0xE5)

/-- The opcode an instruction carries (R277); a step of the machine carries none. -/
def Instr.opcode : Instr → Option (BitVec 8)
  | .mov _ _ => some 0x01#8
  | .steer _ _ => some 0x02#8
  | .filter _ _ => some 0x03#8
  | .gate _ _ => some 0x04#8
  | .sink _ _ => some 0x05#8
  | .sel _ _ _ => some 0x06#8
  | .fork _ _ _ => some 0x07#8
  | .wadv _ _ => some 0x08#8
  | .wset _ _ => some 0x09#8
  | .wrd _ _ => some 0x0A#8
  | .trd _ _ => some 0x0B#8
  | .tnew _ _ => some 0x0C#8
  | .tend _ _ => some 0x0D#8
  | .seqt _ _ => some 0x0E#8
  | .switch _ _ => some 0x10#8
  | .call _ _ => some 0x11#8
  | .ret _ _ => some 0x12#8
  | .bjump _ _ => some 0x13#8
  | .trap _ _ => some 0x14#8
  | .add _ _ => some 0x18#8
  | .sub _ _ => some 0x19#8
  | .mul _ _ => some 0x1A#8
  | .mulh _ _ => some 0x1B#8
  | .mulhn _ _ => some 0x1C#8
  | .mad _ _ _ => some 0x1D#8
  | .div _ _ => some 0x1E#8
  | .divn _ _ => some 0x1F#8
  | .rem _ _ => some 0x20#8
  | .remn _ _ => some 0x21#8
  | .neg _ _ => some 0x22#8
  | .abs _ _ => some 0x23#8
  | .min _ _ => some 0x24#8
  | .max _ _ => some 0x25#8
  | .minn _ _ => some 0x26#8
  | .maxn _ _ => some 0x27#8
  | .addsat _ _ => some 0x28#8
  | .subsat _ _ => some 0x29#8
  | .clamp _ _ _ => some 0x2A#8
  | .and _ _ => some 0x2B#8
  | .or _ _ => some 0x2C#8
  | .xor _ _ => some 0x2D#8
  | .andn _ _ => some 0x2E#8
  | .not _ _ => some 0x2F#8
  | .shl _ _ => some 0x30#8
  | .shr _ _ => some 0x31#8
  | .sra _ _ => some 0x32#8
  | .rot _ _ => some 0x33#8
  | .clz _ _ => some 0x34#8
  | .ctz _ _ => some 0x35#8
  | .popc _ _ => some 0x36#8
  | .brev _ _ => some 0x37#8
  | .bfx _ _ => some 0x38#8
  | .bfi _ _ _ => some 0x39#8
  | .sext _ _ => some 0x3A#8
  | .zext _ _ => some 0x3B#8
  | .lea _ _ => some 0x3C#8
  | .cmp _ _ => some 0x3D#8
  | .vadd _ _ => some 0x40#8
  | .vsub _ _ => some 0x41#8
  | .vmul _ _ => some 0x42#8
  | .vfma _ _ _ => some 0x43#8
  | .vfms _ _ _ => some 0x44#8
  | .vfnma _ _ _ => some 0x45#8
  | .vfnms _ _ _ => some 0x46#8
  | .vdiv _ _ => some 0x47#8
  | .vsqrt _ _ => some 0x48#8
  | .vrsqe _ _ => some 0x49#8
  | .vrcpe _ _ => some 0x4A#8
  | .vexpe _ _ => some 0x4B#8
  | .vloge _ _ => some 0x4C#8
  | .vmin _ _ => some 0x4D#8
  | .vmax _ _ => some 0x4E#8
  | .vabs _ _ => some 0x4F#8
  | .vneg _ _ => some 0x50#8
  | .vcpys _ _ => some 0x51#8
  | .vcmp _ _ => some 0x52#8
  | .vsel _ _ _ => some 0x53#8
  | .vclass _ _ => some 0x54#8
  | .vround _ _ => some 0x55#8
  | .vcvt _ _ => some 0x56#8
  | .vcvti _ _ => some 0x57#8
  | .vcvtf _ _ => some 0x58#8
  | .vscale _ _ => some 0x59#8
  | .vdot _ _ => some 0x5A#8
  | .vhadd _ _ => some 0x5B#8
  | .vhmax _ _ => some 0x5C#8
  | .vhmin _ _ => some 0x5D#8
  | .vshuf _ _ => some 0x5E#8
  | .vbcast _ _ => some 0x5F#8
  | .vpack _ _ => some 0x60#8
  | .vunpk _ _ => some 0x61#8
  | .viadd _ _ => some 0x62#8
  | .visub _ _ => some 0x63#8
  | .vimul _ _ => some 0x64#8
  | .vimin _ _ => some 0x65#8
  | .vimax _ _ => some 0x66#8
  | .viabs _ _ => some 0x67#8
  | .vshl _ _ => some 0x68#8
  | .vshr _ _ => some 0x69#8
  | .vsra _ _ => some 0x6A#8
  | .vnarrow _ _ => some 0x6B#8
  | .vquant _ _ => some 0x6C#8
  | .vdeq _ _ => some 0x6D#8
  | .vred _ _ => some 0x6E#8
  | .ld _ _ => some 0x70#8
  | .st _ _ => some 0x71#8
  | .ldc _ _ => some 0x72#8
  | .stf _ _ => some 0x73#8
  | .ldi _ _ => some 0x74#8
  | .sti _ _ => some 0x75#8
  | .mnop _ _ => some 0x76#8
  | .pref _ _ => some 0x77#8
  | .atadd _ _ => some 0x78#8
  | .atand _ _ => some 0x79#8
  | .ator _ _ => some 0x7A#8
  | .atxor _ _ => some 0x7B#8
  | .atmin _ _ => some 0x7C#8
  | .atmax _ _ => some 0x7D#8
  | .atminn _ _ => some 0x7E#8
  | .atmaxn _ _ => some 0x7F#8
  | .atxchg _ _ => some 0x80#8
  | .atcas _ _ _ => some 0x81#8
  | .redadd _ _ => some 0x82#8
  | .redmin _ _ => some 0x83#8
  | .redmax _ _ => some 0x84#8
  | .redfadd _ _ => some 0x85#8
  | .fence _ _ => some 0x86#8
  | .own _ _ => some 0x87#8
  | .feq _ _ => some 0x88#8
  | .feset _ _ => some 0x89#8
  | .clean _ _ => some 0x8A#8
  | .flush _ _ => some 0x8B#8
  | .invl _ _ => some 0x8C#8
  | .wload _ _ => some 0x90#8
  | .mma _ _ => some 0x91#8
  | .mmasp _ _ => some 0x92#8
  | .acccfg _ _ => some 0x93#8
  | .accrd _ _ => some 0x94#8
  | .accspl _ _ => some 0x95#8
  | .accrst _ _ => some 0x96#8
  | .scacc _ _ => some 0x97#8
  | .scaccv _ _ => some 0x98#8
  | .rinit _ _ => some 0x99#8
  | .rstat _ _ => some 0x9A#8
  | .radv _ _ => some 0x9B#8
  | .cpy _ _ => some 0x9C#8
  | .cpy2d _ _ => some 0x9D#8
  | .gath _ _ => some 0x9E#8
  | .scat _ _ => some 0x9F#8
  | .coll _ _ => some 0xA0#8
  | .ecan _ _ => some 0xA1#8
  | .strcfg _ _ => some 0xA2#8
  | .strgo _ _ => some 0xA3#8
  | .strstop _ _ => some 0xA4#8
  | .sqcfg _ _ => some 0xA5#8
  | .sqgo _ _ => some 0xA6#8
  | .chwire _ _ => some 0xA7#8
  | .chset _ _ => some 0xA8#8
  | .chpulse _ _ => some 0xA9#8
  | .launch _ _ => some 0xB0#8
  | .lstat _ _ => some 0xB1#8
  | .lbar _ _ => some 0xB2#8
  | .pqput _ _ => some 0xB3#8
  | .pqget _ _ => some 0xB4#8
  | .rtget _ _ => some 0xB5#8
  | .rtdone _ _ => some 0xB6#8
  | .qput _ _ => some 0xB7#8
  | .qget _ _ => some 0xB8#8
  | .qbind _ _ => some 0xB9#8
  | .qunbind _ _ => some 0xBA#8
  | .iqput _ _ => some 0xBB#8
  | .iqget _ _ => some 0xBC#8
  | .iqlook _ _ => some 0xBD#8
  | .iqcons _ _ => some 0xBE#8
  | .iqadv _ _ => some 0xBF#8
  | .iqquiet _ _ => some 0xC0#8
  | .steal _ _ => some 0xC1#8
  | .capget _ _ => some 0xC2#8
  | .cfgreq _ _ => some 0xC3#8
  | .joinw _ _ => some 0xC4#8
  | .dswitch _ _ => some 0xD0#8
  | .dfence _ _ => some 0xD1#8
  | .dput _ _ => some 0xD2#8
  | .dget _ _ => some 0xD3#8
  | .ipin _ _ => some 0xD4#8
  | .iunpin _ _ => some 0xD5#8
  | .yield _ _ => some 0xD6#8
  | .ctxst _ _ => some 0xD7#8
  | .cntrd _ _ => some 0xD8#8
  | .enrd _ _ => some 0xD9#8
  | .susrd _ _ => some 0xDA#8
  | .logset _ _ => some 0xDB#8
  | .logrd _ _ => some 0xDC#8
  | .keyset _ _ => some 0xDD#8
  | .pattr _ _ => some 0xDE#8
  | .xlinv _ _ => some 0xDF#8
  | .syscall _ _ => some 0xE0#8
  | .brk _ _ => some 0xE1#8
  | .migrq _ _ => some 0xE2#8
  | .leaseq _ _ => some 0xE3#8
  | .fresume _ _ => some 0xE4#8
  | .fabort _ _ => some 0xE5#8
  | _ => none

/-- The instruction of an opcode with its decoded template, its side word and its XARG slot; the opcode
map of R277. -/
def decodeOp (op : BitVec 8) (t : Tmpl) (side : BitVec 32) (x : Option XArg) : Except DecodeErr Instr :=
  match op.toNat with
  | 0x01 => .ok (.mov t ⟨side⟩)
  | 0x02 => .ok (.steer t ⟨side⟩)
  | 0x03 => .ok (.filter t ⟨side⟩)
  | 0x04 => .ok (.gate t ⟨side⟩)
  | 0x05 => .ok (.sink t ⟨side⟩)
  | 0x06 => withXArg x fun xa => .sel t ⟨side⟩ xa
  | 0x07 => withXArg x fun xa => .fork t ⟨side⟩ xa
  | 0x08 => .ok (.wadv t ⟨side⟩)
  | 0x09 => .ok (.wset t ⟨side⟩)
  | 0x0A => .ok (.wrd t ⟨side⟩)
  | 0x0B => .ok (.trd t ⟨side⟩)
  | 0x0C => .ok (.tnew t ⟨side⟩)
  | 0x0D => .ok (.tend t ⟨side⟩)
  | 0x0E => .ok (.seqt t ⟨side⟩)
  | 0x10 => .ok (.switch t (FormS.dec side))
  | 0x11 => .ok (.call t ⟨side⟩)
  | 0x12 => .ok (.ret t ⟨side⟩)
  | 0x13 => .ok (.bjump t ⟨side⟩)
  | 0x14 => .ok (.trap t (FormG.dec side))
  | 0x18 => .ok (.add t (FormG.dec side))
  | 0x19 => .ok (.sub t (FormG.dec side))
  | 0x1A => .ok (.mul t (FormG.dec side))
  | 0x1B => .ok (.mulh t (FormG.dec side))
  | 0x1C => .ok (.mulhn t (FormG.dec side))
  | 0x1D => withXArg x fun xa => .mad t (FormG.dec side) xa
  | 0x1E => .ok (.div t (FormG.dec side))
  | 0x1F => .ok (.divn t (FormG.dec side))
  | 0x20 => .ok (.rem t (FormG.dec side))
  | 0x21 => .ok (.remn t (FormG.dec side))
  | 0x22 => .ok (.neg t (FormG.dec side))
  | 0x23 => .ok (.abs t (FormG.dec side))
  | 0x24 => .ok (.min t (FormG.dec side))
  | 0x25 => .ok (.max t (FormG.dec side))
  | 0x26 => .ok (.minn t (FormG.dec side))
  | 0x27 => .ok (.maxn t (FormG.dec side))
  | 0x28 => .ok (.addsat t (FormG.dec side))
  | 0x29 => .ok (.subsat t (FormG.dec side))
  | 0x2A => withXArg x fun xa => .clamp t (FormG.dec side) xa
  | 0x2B => .ok (.and t (FormG.dec side))
  | 0x2C => .ok (.or t (FormG.dec side))
  | 0x2D => .ok (.xor t (FormG.dec side))
  | 0x2E => .ok (.andn t (FormG.dec side))
  | 0x2F => .ok (.not t (FormG.dec side))
  | 0x30 => .ok (.shl t (FormG.dec side))
  | 0x31 => .ok (.shr t (FormG.dec side))
  | 0x32 => .ok (.sra t (FormG.dec side))
  | 0x33 => .ok (.rot t (FormG.dec side))
  | 0x34 => .ok (.clz t (FormG.dec side))
  | 0x35 => .ok (.ctz t (FormG.dec side))
  | 0x36 => .ok (.popc t (FormG.dec side))
  | 0x37 => .ok (.brev t (FormG.dec side))
  | 0x38 => .ok (.bfx t (FormG.dec side))
  | 0x39 => withXArg x fun xa => .bfi t (FormG.dec side) xa
  | 0x3A => .ok (.sext t (FormG.dec side))
  | 0x3B => .ok (.zext t (FormG.dec side))
  | 0x3C => .ok (.lea t (FormG.dec side))
  | 0x3D => .ok (.cmp t (FormG.dec side))
  | 0x40 => .ok (.vadd t (FormG.dec side))
  | 0x41 => .ok (.vsub t (FormG.dec side))
  | 0x42 => .ok (.vmul t (FormG.dec side))
  | 0x43 => withXArg x fun xa => .vfma t (FormG.dec side) xa
  | 0x44 => withXArg x fun xa => .vfms t (FormG.dec side) xa
  | 0x45 => withXArg x fun xa => .vfnma t (FormG.dec side) xa
  | 0x46 => withXArg x fun xa => .vfnms t (FormG.dec side) xa
  | 0x47 => .ok (.vdiv t (FormG.dec side))
  | 0x48 => .ok (.vsqrt t (FormG.dec side))
  | 0x49 => .ok (.vrsqe t (FormG.dec side))
  | 0x4A => .ok (.vrcpe t (FormG.dec side))
  | 0x4B => .ok (.vexpe t (FormG.dec side))
  | 0x4C => .ok (.vloge t (FormG.dec side))
  | 0x4D => .ok (.vmin t (FormG.dec side))
  | 0x4E => .ok (.vmax t (FormG.dec side))
  | 0x4F => .ok (.vabs t (FormG.dec side))
  | 0x50 => .ok (.vneg t (FormG.dec side))
  | 0x51 => .ok (.vcpys t (FormG.dec side))
  | 0x52 => .ok (.vcmp t (FormG.dec side))
  | 0x53 => withXArg x fun xa => .vsel t (FormG.dec side) xa
  | 0x54 => .ok (.vclass t (FormG.dec side))
  | 0x55 => .ok (.vround t (FormG.dec side))
  | 0x56 => .ok (.vcvt t (FormG.dec side))
  | 0x57 => .ok (.vcvti t (FormG.dec side))
  | 0x58 => .ok (.vcvtf t (FormG.dec side))
  | 0x59 => .ok (.vscale t (FormG.dec side))
  | 0x5A => .ok (.vdot t (FormG.dec side))
  | 0x5B => .ok (.vhadd t (FormG.dec side))
  | 0x5C => .ok (.vhmax t (FormG.dec side))
  | 0x5D => .ok (.vhmin t (FormG.dec side))
  | 0x5E => .ok (.vshuf t (FormG.dec side))
  | 0x5F => .ok (.vbcast t (FormG.dec side))
  | 0x60 => .ok (.vpack t (FormG.dec side))
  | 0x61 => .ok (.vunpk t (FormG.dec side))
  | 0x62 => .ok (.viadd t (FormG.dec side))
  | 0x63 => .ok (.visub t (FormG.dec side))
  | 0x64 => .ok (.vimul t (FormG.dec side))
  | 0x65 => .ok (.vimin t (FormG.dec side))
  | 0x66 => .ok (.vimax t (FormG.dec side))
  | 0x67 => .ok (.viabs t (FormG.dec side))
  | 0x68 => .ok (.vshl t (FormG.dec side))
  | 0x69 => .ok (.vshr t (FormG.dec side))
  | 0x6A => .ok (.vsra t (FormG.dec side))
  | 0x6B => .ok (.vnarrow t (FormG.dec side))
  | 0x6C => .ok (.vquant t (FormG.dec side))
  | 0x6D => .ok (.vdeq t (FormG.dec side))
  | 0x6E => .ok (.vred t (FormG.dec side))
  | 0x70 => .ok (.ld t (FormM.dec side))
  | 0x71 => .ok (.st t (FormM.dec side))
  | 0x72 => .ok (.ldc t (FormM.dec side))
  | 0x73 => .ok (.stf t (FormM.dec side))
  | 0x74 => .ok (.ldi t (FormM.dec side))
  | 0x75 => .ok (.sti t (FormM.dec side))
  | 0x76 => .ok (.mnop t (FormM.dec side))
  | 0x77 => .ok (.pref t (FormM.dec side))
  | 0x78 => .ok (.atadd t (FormM.dec side))
  | 0x79 => .ok (.atand t (FormM.dec side))
  | 0x7A => .ok (.ator t (FormM.dec side))
  | 0x7B => .ok (.atxor t (FormM.dec side))
  | 0x7C => .ok (.atmin t (FormM.dec side))
  | 0x7D => .ok (.atmax t (FormM.dec side))
  | 0x7E => .ok (.atminn t (FormM.dec side))
  | 0x7F => .ok (.atmaxn t (FormM.dec side))
  | 0x80 => .ok (.atxchg t (FormM.dec side))
  | 0x81 => withXArg x fun xa => .atcas t (FormM.dec side) xa
  | 0x82 => .ok (.redadd t (FormM.dec side))
  | 0x83 => .ok (.redmin t (FormM.dec side))
  | 0x84 => .ok (.redmax t (FormM.dec side))
  | 0x85 => .ok (.redfadd t (FormM.dec side))
  | 0x86 => .ok (.fence t (FormM.dec side))
  | 0x87 => .ok (.own t (FormM.dec side))
  | 0x88 => .ok (.feq t (FormM.dec side))
  | 0x89 => .ok (.feset t (FormM.dec side))
  | 0x8A => .ok (.clean t (FormM.dec side))
  | 0x8B => .ok (.flush t (FormM.dec side))
  | 0x8C => .ok (.invl t (FormM.dec side))
  | 0x90 => .ok (.wload t (FormX.dec side))
  | 0x91 => .ok (.mma t (FormX.dec side))
  | 0x92 => .ok (.mmasp t (FormX.dec side))
  | 0x93 => .ok (.acccfg t (FormX.dec side))
  | 0x94 => .ok (.accrd t (FormX.dec side))
  | 0x95 => .ok (.accspl t (FormX.dec side))
  | 0x96 => .ok (.accrst t (FormX.dec side))
  | 0x97 => .ok (.scacc t (FormX.dec side))
  | 0x98 => .ok (.scaccv t (FormX.dec side))
  | 0x99 => .ok (.rinit t (FormX.dec side))
  | 0x9A => .ok (.rstat t (FormX.dec side))
  | 0x9B => .ok (.radv t (FormX.dec side))
  | 0x9C => .ok (.cpy t (FormX.dec side))
  | 0x9D => .ok (.cpy2d t (FormX.dec side))
  | 0x9E => .ok (.gath t (FormX.dec side))
  | 0x9F => .ok (.scat t (FormX.dec side))
  | 0xA0 => .ok (.coll t (FormX.dec side))
  | 0xA1 => .ok (.ecan t (FormX.dec side))
  | 0xA2 => .ok (.strcfg t (FormX.dec side))
  | 0xA3 => .ok (.strgo t (FormX.dec side))
  | 0xA4 => .ok (.strstop t (FormX.dec side))
  | 0xA5 => .ok (.sqcfg t (FormX.dec side))
  | 0xA6 => .ok (.sqgo t (FormX.dec side))
  | 0xA7 => .ok (.chwire t (FormX.dec side))
  | 0xA8 => .ok (.chset t (FormX.dec side))
  | 0xA9 => .ok (.chpulse t (FormX.dec side))
  | 0xB0 => .ok (.launch t (FormM.dec side))
  | 0xB1 => .ok (.lstat t (FormM.dec side))
  | 0xB2 => .ok (.lbar t (FormM.dec side))
  | 0xB3 => .ok (.pqput t (FormM.dec side))
  | 0xB4 => .ok (.pqget t (FormM.dec side))
  | 0xB5 => .ok (.rtget t (FormM.dec side))
  | 0xB6 => .ok (.rtdone t (FormM.dec side))
  | 0xB7 => .ok (.qput t (FormM.dec side))
  | 0xB8 => .ok (.qget t (FormM.dec side))
  | 0xB9 => .ok (.qbind t (FormM.dec side))
  | 0xBA => .ok (.qunbind t (FormM.dec side))
  | 0xBB => .ok (.iqput t (FormM.dec side))
  | 0xBC => .ok (.iqget t (FormM.dec side))
  | 0xBD => .ok (.iqlook t (FormM.dec side))
  | 0xBE => .ok (.iqcons t (FormM.dec side))
  | 0xBF => .ok (.iqadv t (FormM.dec side))
  | 0xC0 => .ok (.iqquiet t (FormM.dec side))
  | 0xC1 => .ok (.steal t (FormG.dec side))
  | 0xC2 => .ok (.capget t (FormM.dec side))
  | 0xC3 => .ok (.cfgreq t (FormG.dec side))
  | 0xC4 => .ok (.joinw t (FormM.dec side))
  | 0xD0 => .ok (.dswitch t (FormG.dec side))
  | 0xD1 => .ok (.dfence t (FormG.dec side))
  | 0xD2 => .ok (.dput t (FormM.dec side))
  | 0xD3 => .ok (.dget t (FormM.dec side))
  | 0xD4 => .ok (.ipin t (FormG.dec side))
  | 0xD5 => .ok (.iunpin t (FormG.dec side))
  | 0xD6 => .ok (.yield t (FormG.dec side))
  | 0xD7 => .ok (.ctxst t (FormG.dec side))
  | 0xD8 => .ok (.cntrd t (FormG.dec side))
  | 0xD9 => .ok (.enrd t (FormG.dec side))
  | 0xDA => .ok (.susrd t (FormG.dec side))
  | 0xDB => .ok (.logset t (FormM.dec side))
  | 0xDC => .ok (.logrd t (FormG.dec side))
  | 0xDD => .ok (.keyset t (FormM.dec side))
  | 0xDE => .ok (.pattr t (FormM.dec side))
  | 0xDF => .ok (.xlinv t (FormM.dec side))
  | 0xE0 => .ok (.syscall t (FormG.dec side))
  | 0xE1 => .ok (.brk t (FormG.dec side))
  | 0xE2 => .ok (.migrq t (FormG.dec side))
  | 0xE3 => .ok (.leaseq t (FormG.dec side))
  | 0xE4 => .ok (.fresume t (FormG.dec side))
  | 0xE5 => .ok (.fabort t (FormG.dec side))
  | _ => .error .illegalOpcode

/-- Decoding is total: any four words give an instruction or a named refusal. The XARG slot is looked at
only for the opcodes of R269. -/
def decode (w : Words) : Except DecodeErr Instr :=
  let op := w.tmpl.extractLsb' 24 8
  if !knownOpcode op then .error .illegalOpcode
  else match Tmpl.dec w.tmpl with
    | none => .error .illegalTagAction
    | some t => decodeOp op t w.side (XArg.dec w.xtmpl w.xside)

/-- The words of an instruction (R265, R269, R270 to R274); none for a step of the machine. A slot that no
XARG follows has zero for it. -/
def encode : Instr → Option Words
  | .mov t l => some ⟨t.enc 0x01#8, l.word, 0, 0⟩
  | .steer t l => some ⟨t.enc 0x02#8, l.word, 0, 0⟩
  | .filter t l => some ⟨t.enc 0x03#8, l.word, 0, 0⟩
  | .gate t l => some ⟨t.enc 0x04#8, l.word, 0, 0⟩
  | .sink t l => some ⟨t.enc 0x05#8, l.word, 0, 0⟩
  | .sel t l xa => some ⟨t.enc 0x06#8, l.word, xa.t.enc 0x0F#8, xa.l.word⟩
  | .fork t l xa => some ⟨t.enc 0x07#8, l.word, xa.t.enc 0x0F#8, xa.l.word⟩
  | .wadv t l => some ⟨t.enc 0x08#8, l.word, 0, 0⟩
  | .wset t l => some ⟨t.enc 0x09#8, l.word, 0, 0⟩
  | .wrd t l => some ⟨t.enc 0x0A#8, l.word, 0, 0⟩
  | .trd t l => some ⟨t.enc 0x0B#8, l.word, 0, 0⟩
  | .tnew t l => some ⟨t.enc 0x0C#8, l.word, 0, 0⟩
  | .tend t l => some ⟨t.enc 0x0D#8, l.word, 0, 0⟩
  | .seqt t l => some ⟨t.enc 0x0E#8, l.word, 0, 0⟩
  | .switch t f => some ⟨t.enc 0x10#8, f.enc, 0, 0⟩
  | .call t l => some ⟨t.enc 0x11#8, l.word, 0, 0⟩
  | .ret t l => some ⟨t.enc 0x12#8, l.word, 0, 0⟩
  | .bjump t l => some ⟨t.enc 0x13#8, l.word, 0, 0⟩
  | .trap t g => some ⟨t.enc 0x14#8, g.enc, 0, 0⟩
  | .add t g => some ⟨t.enc 0x18#8, g.enc, 0, 0⟩
  | .sub t g => some ⟨t.enc 0x19#8, g.enc, 0, 0⟩
  | .mul t g => some ⟨t.enc 0x1A#8, g.enc, 0, 0⟩
  | .mulh t g => some ⟨t.enc 0x1B#8, g.enc, 0, 0⟩
  | .mulhn t g => some ⟨t.enc 0x1C#8, g.enc, 0, 0⟩
  | .mad t g xa => some ⟨t.enc 0x1D#8, g.enc, xa.t.enc 0x0F#8, xa.l.word⟩
  | .div t g => some ⟨t.enc 0x1E#8, g.enc, 0, 0⟩
  | .divn t g => some ⟨t.enc 0x1F#8, g.enc, 0, 0⟩
  | .rem t g => some ⟨t.enc 0x20#8, g.enc, 0, 0⟩
  | .remn t g => some ⟨t.enc 0x21#8, g.enc, 0, 0⟩
  | .neg t g => some ⟨t.enc 0x22#8, g.enc, 0, 0⟩
  | .abs t g => some ⟨t.enc 0x23#8, g.enc, 0, 0⟩
  | .min t g => some ⟨t.enc 0x24#8, g.enc, 0, 0⟩
  | .max t g => some ⟨t.enc 0x25#8, g.enc, 0, 0⟩
  | .minn t g => some ⟨t.enc 0x26#8, g.enc, 0, 0⟩
  | .maxn t g => some ⟨t.enc 0x27#8, g.enc, 0, 0⟩
  | .addsat t g => some ⟨t.enc 0x28#8, g.enc, 0, 0⟩
  | .subsat t g => some ⟨t.enc 0x29#8, g.enc, 0, 0⟩
  | .clamp t g xa => some ⟨t.enc 0x2A#8, g.enc, xa.t.enc 0x0F#8, xa.l.word⟩
  | .and t g => some ⟨t.enc 0x2B#8, g.enc, 0, 0⟩
  | .or t g => some ⟨t.enc 0x2C#8, g.enc, 0, 0⟩
  | .xor t g => some ⟨t.enc 0x2D#8, g.enc, 0, 0⟩
  | .andn t g => some ⟨t.enc 0x2E#8, g.enc, 0, 0⟩
  | .not t g => some ⟨t.enc 0x2F#8, g.enc, 0, 0⟩
  | .shl t g => some ⟨t.enc 0x30#8, g.enc, 0, 0⟩
  | .shr t g => some ⟨t.enc 0x31#8, g.enc, 0, 0⟩
  | .sra t g => some ⟨t.enc 0x32#8, g.enc, 0, 0⟩
  | .rot t g => some ⟨t.enc 0x33#8, g.enc, 0, 0⟩
  | .clz t g => some ⟨t.enc 0x34#8, g.enc, 0, 0⟩
  | .ctz t g => some ⟨t.enc 0x35#8, g.enc, 0, 0⟩
  | .popc t g => some ⟨t.enc 0x36#8, g.enc, 0, 0⟩
  | .brev t g => some ⟨t.enc 0x37#8, g.enc, 0, 0⟩
  | .bfx t g => some ⟨t.enc 0x38#8, g.enc, 0, 0⟩
  | .bfi t g xa => some ⟨t.enc 0x39#8, g.enc, xa.t.enc 0x0F#8, xa.l.word⟩
  | .sext t g => some ⟨t.enc 0x3A#8, g.enc, 0, 0⟩
  | .zext t g => some ⟨t.enc 0x3B#8, g.enc, 0, 0⟩
  | .lea t g => some ⟨t.enc 0x3C#8, g.enc, 0, 0⟩
  | .cmp t g => some ⟨t.enc 0x3D#8, g.enc, 0, 0⟩
  | .vadd t g => some ⟨t.enc 0x40#8, g.enc, 0, 0⟩
  | .vsub t g => some ⟨t.enc 0x41#8, g.enc, 0, 0⟩
  | .vmul t g => some ⟨t.enc 0x42#8, g.enc, 0, 0⟩
  | .vfma t g xa => some ⟨t.enc 0x43#8, g.enc, xa.t.enc 0x0F#8, xa.l.word⟩
  | .vfms t g xa => some ⟨t.enc 0x44#8, g.enc, xa.t.enc 0x0F#8, xa.l.word⟩
  | .vfnma t g xa => some ⟨t.enc 0x45#8, g.enc, xa.t.enc 0x0F#8, xa.l.word⟩
  | .vfnms t g xa => some ⟨t.enc 0x46#8, g.enc, xa.t.enc 0x0F#8, xa.l.word⟩
  | .vdiv t g => some ⟨t.enc 0x47#8, g.enc, 0, 0⟩
  | .vsqrt t g => some ⟨t.enc 0x48#8, g.enc, 0, 0⟩
  | .vrsqe t g => some ⟨t.enc 0x49#8, g.enc, 0, 0⟩
  | .vrcpe t g => some ⟨t.enc 0x4A#8, g.enc, 0, 0⟩
  | .vexpe t g => some ⟨t.enc 0x4B#8, g.enc, 0, 0⟩
  | .vloge t g => some ⟨t.enc 0x4C#8, g.enc, 0, 0⟩
  | .vmin t g => some ⟨t.enc 0x4D#8, g.enc, 0, 0⟩
  | .vmax t g => some ⟨t.enc 0x4E#8, g.enc, 0, 0⟩
  | .vabs t g => some ⟨t.enc 0x4F#8, g.enc, 0, 0⟩
  | .vneg t g => some ⟨t.enc 0x50#8, g.enc, 0, 0⟩
  | .vcpys t g => some ⟨t.enc 0x51#8, g.enc, 0, 0⟩
  | .vcmp t g => some ⟨t.enc 0x52#8, g.enc, 0, 0⟩
  | .vsel t g xa => some ⟨t.enc 0x53#8, g.enc, xa.t.enc 0x0F#8, xa.l.word⟩
  | .vclass t g => some ⟨t.enc 0x54#8, g.enc, 0, 0⟩
  | .vround t g => some ⟨t.enc 0x55#8, g.enc, 0, 0⟩
  | .vcvt t g => some ⟨t.enc 0x56#8, g.enc, 0, 0⟩
  | .vcvti t g => some ⟨t.enc 0x57#8, g.enc, 0, 0⟩
  | .vcvtf t g => some ⟨t.enc 0x58#8, g.enc, 0, 0⟩
  | .vscale t g => some ⟨t.enc 0x59#8, g.enc, 0, 0⟩
  | .vdot t g => some ⟨t.enc 0x5A#8, g.enc, 0, 0⟩
  | .vhadd t g => some ⟨t.enc 0x5B#8, g.enc, 0, 0⟩
  | .vhmax t g => some ⟨t.enc 0x5C#8, g.enc, 0, 0⟩
  | .vhmin t g => some ⟨t.enc 0x5D#8, g.enc, 0, 0⟩
  | .vshuf t g => some ⟨t.enc 0x5E#8, g.enc, 0, 0⟩
  | .vbcast t g => some ⟨t.enc 0x5F#8, g.enc, 0, 0⟩
  | .vpack t g => some ⟨t.enc 0x60#8, g.enc, 0, 0⟩
  | .vunpk t g => some ⟨t.enc 0x61#8, g.enc, 0, 0⟩
  | .viadd t g => some ⟨t.enc 0x62#8, g.enc, 0, 0⟩
  | .visub t g => some ⟨t.enc 0x63#8, g.enc, 0, 0⟩
  | .vimul t g => some ⟨t.enc 0x64#8, g.enc, 0, 0⟩
  | .vimin t g => some ⟨t.enc 0x65#8, g.enc, 0, 0⟩
  | .vimax t g => some ⟨t.enc 0x66#8, g.enc, 0, 0⟩
  | .viabs t g => some ⟨t.enc 0x67#8, g.enc, 0, 0⟩
  | .vshl t g => some ⟨t.enc 0x68#8, g.enc, 0, 0⟩
  | .vshr t g => some ⟨t.enc 0x69#8, g.enc, 0, 0⟩
  | .vsra t g => some ⟨t.enc 0x6A#8, g.enc, 0, 0⟩
  | .vnarrow t g => some ⟨t.enc 0x6B#8, g.enc, 0, 0⟩
  | .vquant t g => some ⟨t.enc 0x6C#8, g.enc, 0, 0⟩
  | .vdeq t g => some ⟨t.enc 0x6D#8, g.enc, 0, 0⟩
  | .vred t g => some ⟨t.enc 0x6E#8, g.enc, 0, 0⟩
  | .ld t m => some ⟨t.enc 0x70#8, m.enc, 0, 0⟩
  | .st t m => some ⟨t.enc 0x71#8, m.enc, 0, 0⟩
  | .ldc t m => some ⟨t.enc 0x72#8, m.enc, 0, 0⟩
  | .stf t m => some ⟨t.enc 0x73#8, m.enc, 0, 0⟩
  | .ldi t m => some ⟨t.enc 0x74#8, m.enc, 0, 0⟩
  | .sti t m => some ⟨t.enc 0x75#8, m.enc, 0, 0⟩
  | .mnop t m => some ⟨t.enc 0x76#8, m.enc, 0, 0⟩
  | .pref t m => some ⟨t.enc 0x77#8, m.enc, 0, 0⟩
  | .atadd t m => some ⟨t.enc 0x78#8, m.enc, 0, 0⟩
  | .atand t m => some ⟨t.enc 0x79#8, m.enc, 0, 0⟩
  | .ator t m => some ⟨t.enc 0x7A#8, m.enc, 0, 0⟩
  | .atxor t m => some ⟨t.enc 0x7B#8, m.enc, 0, 0⟩
  | .atmin t m => some ⟨t.enc 0x7C#8, m.enc, 0, 0⟩
  | .atmax t m => some ⟨t.enc 0x7D#8, m.enc, 0, 0⟩
  | .atminn t m => some ⟨t.enc 0x7E#8, m.enc, 0, 0⟩
  | .atmaxn t m => some ⟨t.enc 0x7F#8, m.enc, 0, 0⟩
  | .atxchg t m => some ⟨t.enc 0x80#8, m.enc, 0, 0⟩
  | .atcas t m xa => some ⟨t.enc 0x81#8, m.enc, xa.t.enc 0x0F#8, xa.l.word⟩
  | .redadd t m => some ⟨t.enc 0x82#8, m.enc, 0, 0⟩
  | .redmin t m => some ⟨t.enc 0x83#8, m.enc, 0, 0⟩
  | .redmax t m => some ⟨t.enc 0x84#8, m.enc, 0, 0⟩
  | .redfadd t m => some ⟨t.enc 0x85#8, m.enc, 0, 0⟩
  | .fence t m => some ⟨t.enc 0x86#8, m.enc, 0, 0⟩
  | .own t m => some ⟨t.enc 0x87#8, m.enc, 0, 0⟩
  | .feq t m => some ⟨t.enc 0x88#8, m.enc, 0, 0⟩
  | .feset t m => some ⟨t.enc 0x89#8, m.enc, 0, 0⟩
  | .clean t m => some ⟨t.enc 0x8A#8, m.enc, 0, 0⟩
  | .flush t m => some ⟨t.enc 0x8B#8, m.enc, 0, 0⟩
  | .invl t m => some ⟨t.enc 0x8C#8, m.enc, 0, 0⟩
  | .wload t x => some ⟨t.enc 0x90#8, x.enc, 0, 0⟩
  | .mma t x => some ⟨t.enc 0x91#8, x.enc, 0, 0⟩
  | .mmasp t x => some ⟨t.enc 0x92#8, x.enc, 0, 0⟩
  | .acccfg t x => some ⟨t.enc 0x93#8, x.enc, 0, 0⟩
  | .accrd t x => some ⟨t.enc 0x94#8, x.enc, 0, 0⟩
  | .accspl t x => some ⟨t.enc 0x95#8, x.enc, 0, 0⟩
  | .accrst t x => some ⟨t.enc 0x96#8, x.enc, 0, 0⟩
  | .scacc t x => some ⟨t.enc 0x97#8, x.enc, 0, 0⟩
  | .scaccv t x => some ⟨t.enc 0x98#8, x.enc, 0, 0⟩
  | .rinit t x => some ⟨t.enc 0x99#8, x.enc, 0, 0⟩
  | .rstat t x => some ⟨t.enc 0x9A#8, x.enc, 0, 0⟩
  | .radv t x => some ⟨t.enc 0x9B#8, x.enc, 0, 0⟩
  | .cpy t x => some ⟨t.enc 0x9C#8, x.enc, 0, 0⟩
  | .cpy2d t x => some ⟨t.enc 0x9D#8, x.enc, 0, 0⟩
  | .gath t x => some ⟨t.enc 0x9E#8, x.enc, 0, 0⟩
  | .scat t x => some ⟨t.enc 0x9F#8, x.enc, 0, 0⟩
  | .coll t x => some ⟨t.enc 0xA0#8, x.enc, 0, 0⟩
  | .ecan t x => some ⟨t.enc 0xA1#8, x.enc, 0, 0⟩
  | .strcfg t x => some ⟨t.enc 0xA2#8, x.enc, 0, 0⟩
  | .strgo t x => some ⟨t.enc 0xA3#8, x.enc, 0, 0⟩
  | .strstop t x => some ⟨t.enc 0xA4#8, x.enc, 0, 0⟩
  | .sqcfg t x => some ⟨t.enc 0xA5#8, x.enc, 0, 0⟩
  | .sqgo t x => some ⟨t.enc 0xA6#8, x.enc, 0, 0⟩
  | .chwire t x => some ⟨t.enc 0xA7#8, x.enc, 0, 0⟩
  | .chset t x => some ⟨t.enc 0xA8#8, x.enc, 0, 0⟩
  | .chpulse t x => some ⟨t.enc 0xA9#8, x.enc, 0, 0⟩
  | .launch t m => some ⟨t.enc 0xB0#8, m.enc, 0, 0⟩
  | .lstat t m => some ⟨t.enc 0xB1#8, m.enc, 0, 0⟩
  | .lbar t m => some ⟨t.enc 0xB2#8, m.enc, 0, 0⟩
  | .pqput t m => some ⟨t.enc 0xB3#8, m.enc, 0, 0⟩
  | .pqget t m => some ⟨t.enc 0xB4#8, m.enc, 0, 0⟩
  | .rtget t m => some ⟨t.enc 0xB5#8, m.enc, 0, 0⟩
  | .rtdone t m => some ⟨t.enc 0xB6#8, m.enc, 0, 0⟩
  | .qput t m => some ⟨t.enc 0xB7#8, m.enc, 0, 0⟩
  | .qget t m => some ⟨t.enc 0xB8#8, m.enc, 0, 0⟩
  | .qbind t m => some ⟨t.enc 0xB9#8, m.enc, 0, 0⟩
  | .qunbind t m => some ⟨t.enc 0xBA#8, m.enc, 0, 0⟩
  | .iqput t m => some ⟨t.enc 0xBB#8, m.enc, 0, 0⟩
  | .iqget t m => some ⟨t.enc 0xBC#8, m.enc, 0, 0⟩
  | .iqlook t m => some ⟨t.enc 0xBD#8, m.enc, 0, 0⟩
  | .iqcons t m => some ⟨t.enc 0xBE#8, m.enc, 0, 0⟩
  | .iqadv t m => some ⟨t.enc 0xBF#8, m.enc, 0, 0⟩
  | .iqquiet t m => some ⟨t.enc 0xC0#8, m.enc, 0, 0⟩
  | .steal t g => some ⟨t.enc 0xC1#8, g.enc, 0, 0⟩
  | .capget t m => some ⟨t.enc 0xC2#8, m.enc, 0, 0⟩
  | .cfgreq t g => some ⟨t.enc 0xC3#8, g.enc, 0, 0⟩
  | .joinw t m => some ⟨t.enc 0xC4#8, m.enc, 0, 0⟩
  | .dswitch t g => some ⟨t.enc 0xD0#8, g.enc, 0, 0⟩
  | .dfence t g => some ⟨t.enc 0xD1#8, g.enc, 0, 0⟩
  | .dput t m => some ⟨t.enc 0xD2#8, m.enc, 0, 0⟩
  | .dget t m => some ⟨t.enc 0xD3#8, m.enc, 0, 0⟩
  | .ipin t g => some ⟨t.enc 0xD4#8, g.enc, 0, 0⟩
  | .iunpin t g => some ⟨t.enc 0xD5#8, g.enc, 0, 0⟩
  | .yield t g => some ⟨t.enc 0xD6#8, g.enc, 0, 0⟩
  | .ctxst t g => some ⟨t.enc 0xD7#8, g.enc, 0, 0⟩
  | .cntrd t g => some ⟨t.enc 0xD8#8, g.enc, 0, 0⟩
  | .enrd t g => some ⟨t.enc 0xD9#8, g.enc, 0, 0⟩
  | .susrd t g => some ⟨t.enc 0xDA#8, g.enc, 0, 0⟩
  | .logset t m => some ⟨t.enc 0xDB#8, m.enc, 0, 0⟩
  | .logrd t g => some ⟨t.enc 0xDC#8, g.enc, 0, 0⟩
  | .keyset t m => some ⟨t.enc 0xDD#8, m.enc, 0, 0⟩
  | .pattr t m => some ⟨t.enc 0xDE#8, m.enc, 0, 0⟩
  | .xlinv t m => some ⟨t.enc 0xDF#8, m.enc, 0, 0⟩
  | .syscall t g => some ⟨t.enc 0xE0#8, g.enc, 0, 0⟩
  | .brk t g => some ⟨t.enc 0xE1#8, g.enc, 0, 0⟩
  | .migrq t g => some ⟨t.enc 0xE2#8, g.enc, 0, 0⟩
  | .leaseq t g => some ⟨t.enc 0xE3#8, g.enc, 0, 0⟩
  | .fresume t g => some ⟨t.enc 0xE4#8, g.enc, 0, 0⟩
  | .fabort t g => some ⟨t.enc 0xE5#8, g.enc, 0, 0⟩
  | _ => none

/-! ### Legality of the words of one slot (R278, step 3) -/

/-- A placement fault of an encoding: ILLEGAL with its detail, or RESERVED-FIELD with its place and the
lowest offending bit (R211). -/
inductive Illegal where
  | illegal (detail : Nat)
  | reserved (place bit : Nat)
  deriving DecidableEq, Repr, Inhabited

/-- Side-word forms of R275. -/
inductive Form where
  | g | l | m | x | s
  deriving DecidableEq, Repr, Inhabited

def formOf (op : Nat) : Form :=
  if op = 0x10 then .s
  else if op ≤ 0x13 then .l
  else if op ≤ 0x6F then .g
  else if op ≤ 0x8F then .m
  else if op ≤ 0xAF then .x
  else if op = 0xC1 || op = 0xC3 then .g
  else if op ≤ 0xC4 then .m
  else if [0xD2, 0xD3, 0xDB, 0xDD, 0xDE, 0xDF].contains op then .m
  else .g

/-- Element widths in bits of the type codes (R234, R235). -/
def tyWidth (ty : Nat) : Nat :=
  match ty with
  | 0 | 5 | 9 => 32
  | 1 | 2 | 4 | 8 => 16
  | 3 | 7 | 11 | 12 => 8
  | 6 | 10 => 64
  | _ => 32

def isF (ty : Nat) : Bool := ty ≤ 2
def isI (ty : Nat) : Bool := 3 ≤ ty && ty ≤ 10

/-- Whether a conversion narrows, that is takes B (R331). -/
def narrows (g : FormG) : Bool := tyWidth (g.imm.toNat % 16) < tyWidth g.ty.toNat

/-- Which opcodes take operand B (R287, R305, R317, R344, R367, R397). VCVT, VCVTI, VCVTF and VNARROW take
it when they narrow, VQUANT unless its mode is XB (R339). -/
def takesB (op : Nat) (side : BitVec 32) : Bool :=
  let g := FormG.dec side
  if [0x02, 0x03, 0x04, 0x06, 0x07, 0x09, 0x0C, 0x0E, 0x10, 0x11, 0x12, 0x13].contains op then true
  else if op ≤ 0x14 then false
  else if op ≤ 0x3D then !([0x22, 0x23, 0x2F, 0x34, 0x35, 0x36, 0x37].contains op)
  else if [0x56, 0x57, 0x58, 0x6B].contains op then narrows g
  else if op = 0x6C then g.imm.extractLsb' 2 2 != 2
  else if op ≤ 0x6E then
    !([0x48, 0x49, 0x4A, 0x4B, 0x4C, 0x4F, 0x50, 0x54, 0x55, 0x5B, 0x5C, 0x5D, 0x5F, 0x67, 0x6E].contains op)
  else if op ≤ 0x8C then
    !([0x70, 0x72, 0x74, 0x76, 0x77, 0x86, 0x87, 0x88, 0x8A, 0x8B, 0x8C].contains op)
  else [0x98, 0x9D, 0x9E, 0x9F, 0xB7, 0xB9, 0xBB, 0xBD, 0xD2, 0xDD, 0xDE, 0xDF].contains op

/-- Which source selects a form lets an opcode use: literal and constant file (R268, R287, R303, R314,
R317, R399). -/
def allowsLit (op : Nat) : Bool :=
  if op = 0x11 then false
  else match formOf op with
    | .l => true
    | .g => if op = 0x14 || op = 0x3C then false
            else if op ≤ 0x3D then true
            else if op ≤ 0x6E then
              [0x40, 0x41, 0x42, 0x43, 0x44, 0x45, 0x46, 0x47, 0x4D, 0x4E, 0x51, 0x52, 0x53, 0x59, 0x5A,
               0x5E, 0x62, 0x63, 0x64, 0x65, 0x66, 0x68, 0x69, 0x6A].contains op
            else false
    | _ => false

def allowsCf (op : Nat) : Bool :=
  if op = 0x11 then false
  else match formOf op with
    | .l => true
    | .g => op != 0x14 && op ≤ 0x6E
    | _ => false

/-- Tag actions an opcode refuses (R287, R341, R347, R367, R393, R400). -/
def refusesAct (op : Nat) (a : TagAction) : Bool :=
  let keeps := a == .keepA || a == .keepB || a == .waveKeepA
  let waves := a == .wave || a == .waveOut2 || a == .waveKeepA
  if [0x05, 0x0D, 0x11, 0x12, 0x13, 0xA5].contains op then a != .pass
  else if op = 0x10 then a != .pass && a != .wave
  else if [0x08, 0x09, 0x0C].contains op then waves
  else if op = 0x0E then a == .seq
  else if op = 0x6E || op ≥ 0x70 then keeps
  else false

/-- Ports among the two destination bytes (R267). -/
def TagAction.port1 (a : TagAction) : Bool := a == .out1 || a == .outb
def TagAction.port2 (a : TagAction) : Bool := a == .out2 || a == .outb || a == .waveOut2
/-- The tag actions that add one to the wave, and those that keep an operand (R267). -/
def TagAction.adds (a : TagAction) : Bool := a == .wave || a == .waveOut2 || a == .waveKeepA
def TagAction.keepsA (a : TagAction) : Bool := a == .keepA || a == .waveKeepA
def TagAction.keepsB (a : TagAction) : Bool := a == .keepB

/-- Opcodes whose destinations must both be none (R287). -/
def destNone (op : Nat) : Bool := [0x05, 0x0D, 0x10, 0x11, 0x12, 0x13].contains op

/-- The lowest bit of a list of offending bits (R211, DETAIL of RESERVED-FIELD). -/
def lowest : List Nat → Option Nat
  | [] => none
  | b :: bs => match lowest bs with
    | none => some b
    | some c => some (min b c)

/-- The set bits of [hi:lo] that must be zero, offending; and a field that holds a reserved value, which
offends at its lowest bit (log entry 10). -/
def nz (w : BitVec 32) (hi lo : Nat) : List Nat :=
  (List.range (hi + 1)).filter fun i => lo ≤ i && w.getLsbD i

def badAt (c : Bool) (b : Nat) : List Nat := if c then [b] else []

/-- Type sets of R317. -/
inductive TySet where
  | f | i | fi | any | fx | dot
  deriving DecidableEq, Repr, Inhabited

def TySet.has : TySet → Nat → Bool
  | .f, t => isF t
  | .i, t => isI t
  | .fi, t => t ≤ 10
  | .any, t => t ≤ 12
  | .fx, t => isF t || t = 11 || t = 12
  | .dot, t => isF t || t = 3 || t = 7 || t = 4 || t = 8

/-- How a field of form G is used: free, must be zero, free for floating types and zero otherwise, zero
for floating types and free otherwise, or the condition of VCMP. -/
inductive Use where
  | yes | zero | ifF | ifI | cond
  deriving DecidableEq, Repr, Inhabited

inductive ImmUse where
  | lit | param | zero
  deriving DecidableEq, Repr, Inhabited

structure VAttr where
  ty : TySet
  rm : Use
  sat : Use
  imm : ImmUse
  lmask : Bool
  deriving DecidableEq, Repr, Inhabited

/-- The table of R317. -/
def vAttr (op : Nat) : VAttr :=
  match op with
  | 0x40 | 0x41 | 0x42 | 0x43 | 0x44 | 0x45 | 0x46 | 0x47 => ⟨.f, .yes, .yes, .lit, true⟩
  | 0x48 => ⟨.f, .yes, .zero, .zero, true⟩
  | 0x49 | 0x4A | 0x4B | 0x4C => ⟨.f, .zero, .zero, .zero, true⟩
  | 0x4D | 0x4E => ⟨.f, .zero, .zero, .lit, true⟩
  | 0x4F | 0x50 => ⟨.f, .zero, .zero, .zero, true⟩
  | 0x51 => ⟨.f, .zero, .zero, .lit, true⟩
  | 0x52 => ⟨.fi, .cond, .cond, .lit, true⟩
  | 0x53 => ⟨.any, .zero, .zero, .lit, true⟩
  | 0x54 => ⟨.f, .zero, .zero, .zero, true⟩
  | 0x55 => ⟨.f, .yes, .zero, .param, true⟩
  | 0x56 | 0x57 => ⟨.fx, .yes, .yes, .param, true⟩
  | 0x58 => ⟨.i, .yes, .yes, .param, true⟩
  | 0x59 => ⟨.f, .yes, .yes, .lit, true⟩
  | 0x5A => ⟨.dot, .ifF, .ifI, .lit, true⟩
  | 0x5B => ⟨.fi, .ifF, .ifI, .zero, false⟩
  | 0x5C | 0x5D => ⟨.fi, .zero, .zero, .zero, false⟩
  | 0x5E => ⟨.any, .zero, .zero, .lit, true⟩
  | 0x5F => ⟨.any, .zero, .zero, .param, true⟩
  | 0x60 | 0x61 => ⟨.any, .zero, .zero, .param, false⟩
  | 0x62 | 0x63 | 0x64 => ⟨.i, .zero, .yes, .lit, true⟩
  | 0x65 | 0x66 => ⟨.i, .zero, .zero, .lit, true⟩
  | 0x67 => ⟨.i, .zero, .yes, .zero, true⟩
  | 0x68 => ⟨.i, .zero, .yes, .lit, true⟩
  | 0x69 | 0x6A => ⟨.i, .zero, .zero, .lit, true⟩
  | 0x6B => ⟨.i, .zero, .yes, .param, true⟩
  | 0x6C => ⟨.f, .zero, .zero, .param, false⟩
  | 0x6D => ⟨.f, .yes, .yes, .param, false⟩
  | _ => ⟨.fi, .ifF, .ifI, .zero, false⟩

/-- A use of a field holding value v for element type t is legal. -/
def Use.ok (u : Use) (ty : Nat) (v max : Nat) : Bool :=
  match u with
  | .yes => v ≤ max
  | .zero => v = 0
  | .ifF => if isF ty then v ≤ max else v = 0
  | .ifI => if isF ty then v = 0 else v ≤ max
  | .cond => true

/-- Parameter rules of R329, R331, R335, R336, R339 and R340: the offending bits of IMM16. -/
def vParamBad (op : Nat) (g : FormG) (side : BitVec 32) : List Nat :=
  let ty := g.ty.toNat
  let imm := g.imm.toNat
  let dty := imm % 16
  let part := imm / 16 % 8
  let ratio := max (tyWidth ty) (tyWidth dty) / min (tyWidth ty) (tyWidth dty)
  let conv (ok : Bool) : List Nat :=
    badAt (!ok) 0 ++ badAt (ok && part ≥ ratio) 4 ++ nz side 15 7
  match op with
  | 0x55 => nz side 15 1
  | 0x56 => conv (TySet.fx.has dty)
  | 0x57 => conv (isI dty)
  | 0x58 => conv (TySet.fx.has dty)
  | 0x6B => conv (isI dty)
  | 0x5F => badAt (imm % 16 ≥ 128 / tyWidth ty) 0 ++ nz side 15 4
  | 0x60 | 0x61 => nz side 15 1
  | 0x6C => badAt (imm / 4 % 4 = 3) 2 ++ badAt (part ≥ 32 / (128 / tyWidth ty)) 4 ++ nz side 15 7
  | 0x6D => nz side 3 2 ++ badAt (part ≥ 32 / (128 / tyWidth ty)) 4 ++ nz side 15 7
  | _ => []

/-- LMASK of a 64-bit type holds its bits in equal pairs (R319). -/
def lmaskPairs (g : FormG) : Bool :=
  tyWidth g.ty.toNat != 64 ||
    (g.lmask.getLsbD 0 == g.lmask.getLsbD 1 && g.lmask.getLsbD 2 == g.lmask.getLsbD 3)

/-- Form G of the integer group (R304, R314). -/
def gIntBad (op : Nat) (side : BitVec 32) (usesLit usesCf : Bool) : List Nat :=
  nz side 31 28 ++ nz side 19 16
    ++ (if op = 0x3D then badAt ((side.extractLsb' 24 4).toNat ≥ 10) 24 else nz side 27 24)
    ++ (if usesCf then [] else nz side 23 20)
    ++ (if op = 0x3C then nz side 15 3 else if usesLit then [] else nz side 15 0)

/-- Form G of the vector group (R317, R319). -/
def gVecBad (op : Nat) (side : BitVec 32) (usesLit usesCf : Bool) : List Nat :=
  let g := FormG.dec side
  let a := vAttr op
  let ty := g.ty.toNat
  badAt (!a.ty.has ty) 28
    ++ (if op = 0x52 then badAt ((side.extractLsb' 24 4).toNat ≥ 6) 24
        else badAt (!a.rm.ok ty g.rm.toNat 4) 25 ++ badAt (!a.sat.ok ty g.sat.toNat 1) 24)
    ++ (if usesCf then [] else nz side 23 20)
    ++ (if a.lmask then badAt (!lmaskPairs g) 16 else nz side 19 16)
    ++ (match a.imm with
        | .lit => if usesLit then (if tyWidth ty = 8 then nz side 15 8 else []) else nz side 15 0
        | .zero => nz side 15 0
        | .param => vParamBad op g side)

/-- Form G of TRAP, STEAL, CFGREQ and the system group: IMM16 is the parameter its rule names (R303, R399,
R419, R424 to R427, R433, R436). -/
def gSysBad (op : Nat) (side : BitVec 32) : List Nat :=
  let imm := (side.extractLsb' 0 16).toNat
  nz side 31 16
    ++ (match op with
        | 0x14 | 0xE0 => []
        | 0xD0 => nz side 15 4
        | 0xD7 =>
            badAt (!([0, 1, 2, 3, 4, 5, 6, 7, 0x10, 0x11, 0x12].contains (imm % 256))) 0
              ++ badAt (side.getLsbD 8 && !([0, 1].contains (imm % 256))) 8 ++ nz side 15 9
        | 0xD8 => badAt (imm % 16 ≥ 9) 0 ++ nz side 15 4
        | 0xD9 => badAt (imm % 8 ≥ 6) 0 ++ nz side 15 3
        | 0xDA => nz side 15 2
        | 0xDC => nz side 15 2
        | 0xE5 => nz side 15 1
        | _ => nz side 15 0)

/-- Form M (R272, R344, R399). -/
def mBad (op : Nat) (side : BitVec 32) : List Nat :=
  let m := FormM.dec side
  let sz := m.sz.toNat
  let szOk : Bool :=
    if [0x70, 0x71, 0x72, 0x73, 0x74, 0x75].contains op then sz ≤ 4
    else if 0x78 ≤ op && op ≤ 0x7F then sz = 2 || sz = 3
    else if op = 0x80 || op = 0x81 then 2 ≤ sz && sz ≤ 4
    else if 0x82 ≤ op && op ≤ 0x84 then sz = 2 || sz = 3
    else if op = 0x85 then sz = 2
    else if op = 0x88 || op = 0x89 then sz = 4
    else sz = 0
  let ordFree : Bool := (0x70 ≤ op && op ≤ 0x75) || (0x78 ≤ op && op ≤ 0x86) || op = 0x88 || op = 0x89
  let qOk : Bool := if op = 0x72 then true else if op = 0x73 then m.q else !m.q
  badAt (m.own = 0xFE || m.own = 0xFF) 16
    ++ badAt (!szOk) 5
    ++ (if ordFree then (if m.ord = 0 then nz side 2 1 else []) else nz side 4 1)
    ++ badAt (!qOk) 0

/-- Form X: the fields each opcode uses, and its reserved VAR values (R273, R367, R371, R380 to R396). -/
def xBad (op : Nat) (side : BitVec 32) : List Nat :=
  let x := FormX.dec side
  let v := x.var.toNat
  let i := x.chin.toNat
  let usesRing : Bool := [0x90, 0x91, 0x92, 0x94, 0x99, 0x9A, 0x9B].contains op
  let usesTile : Bool := 0x91 ≤ op && op ≤ 0x98
  let usesCfx : Bool := op = 0x91 || op = 0x92 || (0x9C ≤ op && op ≤ 0xA0) || op = 0xA2 || op = 0xA5
    || op = 0xA7
  let usesChen : Bool := [0x90, 0x91, 0x92, 0x9C, 0x9D, 0x9E, 0x9F, 0xA0].contains op
  let usesChin : Bool := usesChen || [0xA7, 0xA8, 0xA9].contains op
  let usesOrd : Bool := 0x9C ≤ op && op ≤ 0xA0
  let varOk : Bool :=
    match op with
    | 0x93 | 0x97 | 0x98 | 0x99 | 0x9B | 0x9E | 0x9F => v ≤ 1
    | 0x9C | 0x9D | 0xA0 => v ≤ 4
    | 0xA2 | 0xA3 | 0xA4 => v ≤ 3
    | 0xA7 => v ≤ 7
    | 0xA8 => v ≤ 2
    | _ => v = 0
  let idxOk : Bool :=
    match op with
    | 0xA7 => if v % 4 = 1 then i ≤ 15 else if v % 4 = 2 then i ≤ 14 else true
    | 0xA8 => if v = 0 then i ≤ 15 else if v = 1 then i ≤ 14 else i = 0
    | _ => true
  badAt (!varOk) 28
    ++ (if usesCfx then [] else nz side 27 24)
    ++ (if usesRing then [] else nz side 23 19)
    ++ (if usesTile then [] else nz side 18 13)
    ++ (if usesChin then badAt (!idxOk) 8 else nz side 12 8)
    ++ (if usesChen then [] else nz side 7 7)
    ++ (if usesOrd then badAt (x.ord = 1 || x.ord = 3) 5 ++ (if x.ord = 0 then nz side 4 3 else [])
        else nz side 6 3)
    ++ nz side 2 0

/-- Form L (R271, R301): with no select reading it the word is zero; with a constant-file select its bits
31:4 are; CALL's return port is below the calling block's input count. -/
def lBad (op : Nat) (side : BitVec 32) (usesLit usesCf : Bool) (nin : Nat) : List Nat :=
  if op = 0x11 then nz side 31 4 ++ badAt ((side.extractLsb' 0 4).toNat ≥ nin) 0
  else if usesLit then []
  else if usesCf then nz side 31 4
  else nz side 31 0

/-- Form S (R274). -/
def sBad (side : BitVec 32) (nout : Nat) : List Nat :=
  let f := FormS.dec side
  nz side 30 24 ++ nz side 15 5
    ++ badAt (f.len = 0 || f.len.toNat > 16) 0
    ++ (if f.deflt then badAt (f.defport.toNat ≥ nout) 16 else nz side 19 16)
    ++ badAt (f.base.toNat + f.len.toNat > nout) 20

def sideBad (op : Nat) (side : BitVec 32) (usesLit usesCf : Bool) (nin nout : Nat) : List Nat :=
  match formOf op with
  | .s => sBad side nout
  | .l => lBad op side usesLit usesCf nin
  | .g => if op = 0x14 || op > 0x6E then gSysBad op side
          else if op ≤ 0x3D then gIntBad op side usesLit usesCf
          else gVecBad op side usesLit usesCf
  | .m => mBad op side
  | .x => xBad op side

/-- What the block around a slot supplies to its checks: the slot's number, the block's port counts, its
MATRIX flag, and whether the slot's side word is present. -/
structure SlotEnv where
  slot : Nat
  nin : Nat
  nout : Nat
  matrix : Bool
  sidePresent : Bool
  deriving DecidableEq, Repr, Inhabited

/-- The opcodes that must sit in a MATRIX block (R367). -/
def needsMatrix (op : Nat) : Bool := 0x90 ≤ op && op ≤ 0x98

/-- The first failure among the tag action, the source selects and the side-word values of one decoded
slot (R278 step 3). `xa` is the XARG slot of a three-input instruction, whose select A is operand C's. -/
def checkSlot (op : Nat) (t : Tmpl) (side : BitVec 32) (xa : Option XArg) (e : SlotEnv) : Option Illegal :=
  let f := formOf op
  let tb := takesB op side
  let cTok : Bool := match xa with | some a => a.t.sa == .tok | none => false
  let usesLit := t.sa == .lit || (tb && t.sb == .lit)
  let usesCf := t.sa == .cf || (tb && t.sb == .cf)
  if refusesAct op t.act then some (.reserved 2 20)
  else if (f == .m || f == .x) && (t.sa != .tok || (t.sb != .tok && t.sb != .tagDup)) then some (.illegal 3)
  else if !tb && t.sb != .tok then some (.reserved 2 16)
  else if t.sa == .lit && !allowsLit op then some (.reserved 2 18)
  else if t.sb == .lit && !allowsLit op then some (.reserved 2 16)
  else if t.sa == .cf && !allowsCf op then some (.reserved 2 18)
  else if t.sb == .cf && !allowsCf op then some (.reserved 2 16)
  else if f == .l && usesLit && usesCf then some (.reserved 2 16)
  else if t.sa != .tok && !(tb && t.sb == .tok) && !cTok then some (.reserved 2 18)
  else if t.act.keepsA && t.sa != .tok then some (.reserved 2 20)
  else if t.act.keepsB && (!tb || t.sb != .tok) then some (.reserved 2 20)
  else if needsMatrix op && !e.matrix then some (.reserved 2 24)
  else if (f == .m || f == .s) && !e.sidePresent then some (.reserved 1 0)
  else match lowest (sideBad op side usesLit usesCf e.nin e.nout) with
    | some b => some (.reserved 1 b)
    | none => none

/-- The XARG slot's own rules: PASS, select B token, its form-L word; after ATCAS select A token and no side word, not even a zero
one (R269, R271, R346). -/
def checkXArg (op : Nat) (present : Bool) (a : XArg) : Option Illegal :=
  if a.t.act != .pass then some (.reserved 2 20)
  else if op = 0x81 && a.t.sa != .tok then some (.illegal 3)
  else if a.t.sb != .tok then some (.reserved 2 16)
  else if op = 0x81 && (present || a.l.word != 0) then some (.reserved 1 ((lowest (nz a.l.word 31 0)).getD 0))
  else match lowest (lBad 0x0F a.l.word (a.t.sa == .lit) (a.t.sa == .cf) 0) with
    | some b => some (.reserved 1 b)
    | none => none

/-! ### Parcels and dictionary entries (R264, R276, R165) -/

/-- One instruction as its parcels hold it. -/
inductive Parcel where
  | c16 (w : BitVec 16)
  | c32 (w : BitVec 32)
  | f48 (w : BitVec 48)
  deriving DecidableEq, Repr, Inhabited

/-- The number of parcels a form takes. -/
def Parcel.size : Parcel → Nat
  | .c16 _ => 1 | .c32 _ => 2 | .f48 _ => 3

/-- Reads the parcel stream, highest parcel of each instruction first; none when it ends inside one. -/
def parseParcels : List (BitVec 16) → Option (List Parcel)
  | [] => some []
  | p :: rest =>
    if p.getLsbD 15 = false then (parseParcels rest).map (.c16 p :: ·)
    else match rest with
      | [] => none
      | q :: rest1 =>
        if p.getLsbD 14 = false then (parseParcels rest1).map (.c32 (p ++ q) :: ·)
        else match rest1 with
          | [] => none
          | r :: rest2 => (parseParcels rest2).map (.f48 (p ++ q ++ r) :: ·)

/-- Where one hole goes: the template bits it fills as [hi:lo], and the value it puts there. -/
def holeField (target : Nat) (h3 : Bool) : Option (Nat × Nat) :=
  match target with
  | 1 => some (15, 8)
  | 2 => some (7, 0)
  | 3 => some (14, 8)
  | 4 => if h3 then some (19, 16) else none
  | 5 => if h3 then some (23, 20) else none
  | _ => none

/-- The field a hole code names, for the rule that no two holes fill one field (R165). -/
def holeName (target : Nat) : Nat := if target = 3 then 1 else target

/-- The rules of R165 and R276 that one hole breaks by itself, as the lowest offending bit. -/
def holeBad (target : Nat) (h : BitVec 8) (h3 : Bool) (bit : Nat) : List Nat :=
  badAt (target ≥ 6) bit ++ badAt (!h3 && (target = 4 || target = 5)) bit
    ++ badAt (target = 0 && h != 0) bit ++ badAt (target = 3 && h.getLsbD 7) bit

def holesClash (a b : Nat) : Bool := a != 0 && holeName a == holeName b

/-- Expands a dictionary entry with its three holes into a template (R276). -/
def expandEntry (e : BitVec 64) (h1 h2 h3 : BitVec 8) : Except Illegal (BitVec 32) :=
  let t := e.extractLsb' 32 32
  let a := (e.extractLsb' 28 3).toNat
  let b := (e.extractLsb' 25 3).toNat
  let c := (e.extractLsb' 22 3).toNat
  let low := nz (e.extractLsb' 0 32) 15 0
  match lowest (low ++ holeBad a h1 false 28 ++ holeBad b h2 false 25 ++ holeBad c h3 true 22
      ++ badAt (holesClash a b || holesClash a c) 28 ++ badAt (holesClash b c) 25) with
  | some bit => .error (.reserved 3 bit)
  | none =>
    let fields := [(holeField a false, h1), (holeField b false, h2), (holeField c true, h3)]
    if fields.any (fun p => match p.1 with | some (hi, lo) => !(nz t hi lo).isEmpty | none => false) then
      .error (.illegal 5)
    else .ok (fields.foldl (fun acc p =>
      match p.1 with | some (_, lo) => acc ||| (p.2.zeroExtend 32 <<< lo) | none => acc) t)

/-! ### The table's words -/

/-- The instruction the decoder reads from a word of the opcode table: the 32 bits are the template
(R265). The slot's side word is zero, and a three-input instruction is followed by an XARG slot whose
operand C is a token and whose destinations are none (R269; log entry 11). -/
def tableWords (w : Nat) : Words :=
  { tmpl := BitVec.ofNat 32 w, side := 0
    xtmpl := if threeInput (w / 0x1000000 % 256) then 0x0F000101#32 else 0
    xside := 0 }

def decodeTableWord (nbits w : Nat) : Option Instr :=
  if nbits = 32 then (decode (tableWords w)).toOption else none

end Sys2Proof
end

