-- ==== Sys2Proof/Machine/State.lean ====
section
/-! DEFINITION. The state of the machine as plain data, what stops a run, and the state after a cold
reset. Every structure names the rule of the spec that gives it. -/

namespace Sys2Proof.Machine

/-- What a run of the model can stop on. -/
inductive Fault where
  /-- Raised by `step` alone, when the agenda fires a slot whose words are no instruction. Placement never
  leaves such a slot (R27), so only a state no placement made reaches it: safe. -/
  | illegalSlot (e : DecodeErr)
  deriving DecidableEq, Repr, Inhabited

/-- What the model refuses. -/
inductive Refusal where
  /-- Raised by the dispatch of an instruction that has no meaning yet: safe. No arm uses it now. -/
  | notModelled (mnemonic : String)
  deriving DecidableEq, Repr, Inhabited

/-- A sparse table: entries by number. -/
abbrev Tab (α : Type) := List (Nat × α)

/-- A token without its context, which is the one that holds it (R22). -/
structure Token where
  thread : ThreadId
  wave : WaveId
  fmt : BitVec 3
  eor : Bool
  seq : Bool
  urg : Bool
  seqTag : BitVec 24
  value : Value
  deriving DecidableEq, Repr, Inhabited

/-- Where a token is addressed in a block: an input port, operand A or B of a slot (R261, R266), or an output
port that a stream unit drains (R40). -/
inductive Dst where
  | port (p : Nat)
  | slot (s : Nat) (b : Bool)
  | out (p : Nat)
  deriving DecidableEq, Repr, Inhabited

/-- A token in the matching store, or waiting for its block's placement (R29, R35). `old` marks one that
reached the old slots of a moved block and awaits forwarding (R32). `held` marks a result of a committed
operation that may not enter its wave while a gate is closed (R222, step 1). -/
structure Arrived where
  blk : Addr
  dst : Dst
  tok : Token
  old : Bool
  held : Bool
  deriving DecidableEq, Repr, Inhabited

/-- Where an entry-log record's token came from (R215). -/
inductive Src where
  | wave (w : WaveId)
  | outside
  deriving DecidableEq, Repr, Inhabited

/-- One record of a wave entry log (R38, R215). -/
structure LogRec where
  arr : Arrived
  src : Src
  deriving DecidableEq, Repr, Inhabited

/-- One slot of a placed block: its template and side word after hole filling, the urgency hint, and the
parcels as stored with their offset (R212, R264, R276). -/
structure PSlot where
  tmpl : BitVec 32
  side : BitVec 32
  sideP : Bool
  urgent : Bool
  short : BitVec 32
  poff : Nat
  deriving DecidableEq, Repr, Inhabited

/-- A placed block (R26 to R32, R168). `at_` and `old` give the physical slots as PE within the cluster
and slot of the PE; `old` is set while a forwarding pointer stands. `seat` is the logical cluster whose slots it takes:
its own, `lcl`, but for a block that a CFGREQ had placed elsewhere (R43). -/
structure Placed where
  ln : BitVec 32
  lcl : Nat
  blk : Addr
  kimg : Addr
  gen : BitVec 16
  slots : List PSlot
  at_ : List (Nat × Nat)
  old : Option (List (Nat × Nat))
  cf : List Value
  ports : List (BitVec 8)
  links : List (Option (Addr × Nat))
  matrix : Bool
  front : Bool
  pinned : Bool
  lastUse : Nat
  seat : Nat
  deriving DecidableEq, Repr, Inhabited

/-- What a fault record says of a slot (R212), as an operation that has left the slot carries it. -/
structure Seen where
  pe : BitVec 8
  seat : Nat
  template : BitVec 32
  short : BitVec 32
  side : BitVec 32
  poff : BitVec 16
  slot : BitVec 8
  gen : BitVec 16
  deriving DecidableEq, Repr, Inhabited

/-- One provisional step of a kept operand: the token kept, in a firing of `wave` (R54, R56). The newest
entry of a thread, block, slot and operand is the register's value; `final` is set by that wave's commit. -/
structure Kept where
  blk : Addr
  slot : Nat
  b : Bool
  tok : Token
  final : Bool
  deriving DecidableEq, Repr, Inhabited

/-- A contribution to a VRED register (R341, R342). `spent` marks one that was added before and taken back: it no longer holds its
wave's commit (R343). -/
structure Contrib where
  wave : WaveId
  seqTag : BitVec 24
  eor : Bool
  value : Value
  spent : Bool
  deriving DecidableEq, Repr, Inhabited

/-- One step of a VRED register that is not yet final: the contribution added, the flags its addition raised, and the register
before it (R342, R343). -/
structure VStep where
  con : Contrib
  flags : BitVec 5
  sumBefore : Value
  nextBefore : BitVec 24
  youngBefore : Option WaveId
  released : Option WaveId
  deriving DecidableEq, Repr, Inhabited

/-- VRED state of one slot and thread (R55, R342, R343). -/
structure Vred where
  thread : ThreadId
  blk : Addr
  slot : Nat
  sum : Value
  nextSeq : BitVec 24
  young : Option WaveId
  held : List Contrib
  log : List VStep
  deriving DecidableEq, Repr, Inhabited

/-- What a form-M operation does once its wave's chain and commit let it (13 R344, 15 R397). -/
inductive MemAct where
  | ld | st | ldc | stf | ldi | sti | mnop | pref
  | atom (k : AtomOp)
  | red (k : AtomOp)
  | redFadd
  | fence | own | feq | feset | clean | flush | invl
  | launch | lstat | lbar | pqput | pqget | rtget | rtdone
  | qput | qget | qbind | qunbind
  | iqput | iqget | iqlook | iqcons | iqadv | iqquiet
  | capget | joinw | dput | dget | logset | keyset | pattr | xlinv
  deriving DecidableEq, Repr, Inhabited

/-- Where a translated access lands. -/
inductive Place where
  | scratch (l off : Nat)
  | hbm | hostCache | hostIo
  | peer (m : Nat)
  | control (off : Nat)
  deriving DecidableEq, Repr, Inhabited

/-- A translation: place, physical address, coherence code of R80, key slot, permissions, the logical cluster
a CP page names, and the address of the leaf entry. -/
structure Trans where
  place : Place
  pa : Nat
  coh : Nat
  key : Option Nat
  w : Bool
  rd : Bool
  f : Bool
  cp : Nat
  entryPA : Nat
  bound : Bool
  deriving DecidableEq, Repr, Inhabited

/-- A run of bytes of one access within one 64-byte line. -/
structure Piece where
  va : Nat
  n : Nat
  tr : Trans
  deriving DecidableEq, Repr, Inhabited

/-- Where the results of an operation go: its tag action, urgency, and the places its destinations lead to;
`to2` is dest2's, which may carry a second part (R347, R400). -/
structure Route where
  act : TagAction
  urg : Bool
  to1 : List (Addr × Dst)
  to2 : List (Addr × Dst)
  deriving DecidableEq, Repr, Inhabited

/-- A form-M operation delivered to the store buffer (R348). `out` is the wave its result enters while its
own is uncommitted; `part` are the bytes of an access made a byte at a time that are done, each with its value (R111); `ps` are the pieces its probe translated, `data` what its probe read (a launch record, a
log range image); `bound` is set when a load has its value or a marker is complete. -/
structure MemOp where
  act : MemAct
  m : FormM
  rt : Route
  blk : Addr
  slot : Nat
  seen : Seen
  out : WaveId
  a : Value
  b : Value
  c : Value
  ps : List Piece
  entered : Bool
  bound : Bool
  parked : Bool
  data : List Byte
  part : List (Nat × Byte)
  deriving DecidableEq, Repr, Inhabited

/-- What a deferred instruction does at its wave's commit (R293, R295, R368, R398). -/
inductive DefAct where
  | tnew | acccfg | rinit | radv | ecan | strcfg | strgo | strstop | sqcfg | sqgo
  | chwire | chset | chpulse | steal | cfgreq | dswitch | dfence | ipin | iunpin | ctxst
  | syscall | migrq | fresume | fabort
  deriving DecidableEq, Repr, Inhabited

/-- A deferred instruction held until its wave's commit. `x` is its form-X word (zero for form G), `imm`
its IMM16, `data` the record its probe read. -/
structure DefOp where
  act : DefAct
  x : FormX
  imm : BitVec 16
  rt : Route
  blk : Addr
  slot : Nat
  seen : Seen
  a : Value
  b : Value
  cfv : Value
  data : List Byte
  deriving DecidableEq, Repr, Inhabited

inductive Item where
  | mem (o : MemOp)
  | dfr (o : DefOp)
  deriving DecidableEq, Repr, Inhabited

/-- A committed operation not yet performed (R107, R137), of the thread numbered `thread` that was created
as `born`; it outlives that thread. `waiting` is set while it is held for room, or, of an LBAR, once it has
arrived. `due` says that a result is still to come into the wave after its own, `owed` that this wave counts it among
its `holds` (R108, R398). -/
structure Committed where
  thread : ThreadId
  born : Nat
  ln : BitVec 32
  lcl : Nat
  wave : WaveId
  item : Item
  waiting : Bool
  due : Bool
  owed : Bool
  deriving DecidableEq, Repr, Inhabited

/-- An uncommitted wave (R20, R37, R38, R105). `order` lists the OWN numbers in sequence order; `holds`
counts matrix commands whose release still owes the wave a token (R378), and results of committed operations
still due to it (R108, R398). `drains` are the stores of stream units whose tokens belong to the wave (R124). `entered`
is false of a wave that is known only as the one a result is due to (R21). `reserve` says that the wave keeps its store buffer's
reserve (05 R161). -/
structure Wave where
  num : WaveId
  blk : Addr
  entered : Bool
  log : List LogRec
  ops : List MemOp
  order : List (BitVec 8)
  drains : List MemOp
  defs : List DefOp
  flags : BitVec 5
  tend : Bool
  holds : Nat
  reserve : Bool
  deriving DecidableEq, Repr, Inhabited

/-- A fault record without its sequence number (R212). -/
structure FaultRec where
  cause : BitVec 8
  origin : BitVec 8
  thread : ThreadId
  wave : WaveId
  pe : BitVec 8
  launch : BitVec 32
  block : BitVec 64
  faddr : BitVec 64
  template : BitVec 32
  short : BitVec 32
  side : BitVec 32
  poff : BitVec 16
  slot : BitVec 8
  lcl : BitVec 8
  phys : BitVec 8
  detail : BitVec 24
  gen : BitVec 16
  deriving DecidableEq, Repr, Inhabited

/-- A live thread (R19, R70). `born` orders threads by launch admission and creation (R33). `fault` is
the fault found and not yet resolved, `seqNo` its sequence number once delivered and written; `dropped`
are the waves its fault dropped, with their entry logs. `last` is the last committed wave with the block at
which it was entered. `skips` are runs of numbers that a WSET passed over: the wave it fired in, and the numbers just before and
just after the run (R291). -/
structure Thread where
  num : ThreadId
  state : BitVec 4
  ln : BitVec 32
  lcl : Nat
  born : Nat
  idx : List Nat
  waves : List Wave
  skips : List (WaveId × WaveId × WaveId)
  last : Option WaveId
  lastBlk : Addr
  fault : Option FaultRec
  delivered : Bool
  seqNo : Option (BitVec 32)
  dropped : List Wave
  deriving DecidableEq, Repr, Inhabited

/-- A 64-byte launch record (R133). -/
structure LaunchRec where
  kimg : BitVec 64
  args : BitVec 64
  done : BitVec 64
  lo : BitVec 32
  hi : BitVec 32
  flags : BitVec 16
  prio : BitVec 8
  nlev : BitVec 8
  lclust : BitVec 16
  spine : BitVec 8
  rsv : BitVec 8
  levels : List (BitVec 16)
  seq : BitVec 32
  parent : BitVec 32
  deriving DecidableEq, Repr, Inhabited

/-- A barrier counter with its level and instance (R206). -/
structure Barrier where
  level : Nat
  inst : Nat
  phase : Bool
  ended : BitVec 17
  arrived : BitVec 17
  members : BitVec 17
  deriving DecidableEq, Repr, Inhabited

/-- A launch that has been admitted (R134, R135, R139, R408). `stage` is 1 admitted, 2 its entry and pinned blocks being
placed, 3 threads created. `ivals` holds the interval of each logical cluster. `abort` is set by FABORT and R138
with the cause and detail to report. `homes` names the domain that a MATRIX block of the launch holds for a logical cluster, as the
logical cluster it lies on and its number there, whose weights and tiles it finds again (R39). `stamp` tells it from every other launch of the module
(R141), `taken` counts the iterations it has taken from other modules (R146), and `away` its children, not detached, that other
modules have taken and not yet reported ended (R42, R46). -/
structure Launch where
  num : BitVec 32
  lrec : LaunchRec
  born : Nat
  die : Nat
  fromHost : Bool
  stage : Nat
  ivals : List (Nat × Nat)
  handed : Nat
  doneIter : Nat
  barriers : List Barrier
  cfs : List (Addr × List Value)
  homes : List (Addr × Nat × Nat × Nat)
  abort : Option (BitVec 8 × BitVec 16)
  stamp : Nat
  taken : Nat
  away : Nat
  deriving DecidableEq, Repr, Inhabited

/-- A record in a launch queue (R132, R137), with its mark. -/
structure QRec where
  die : Nat
  prio : Nat
  ctx : CtxId
  lrec : LaunchRec
  fromHost : Bool
  stamp : Nat
  deriving DecidableEq, Repr, Inhabited

/-- A deferred reader of a granule (R89): its operation's thread, wave and OWN number lead back to the
reading slot and its destinations. -/
structure Reader where
  thread : ThreadId
  wave : WaveId
  own : BitVec 8
  kind : BitVec 2
  sz : Nat
  off : Nat
  deriving DecidableEq, Repr, Inhabited

/-- A consume hold (R88): the thread and wave that took the value, and the value for a drop. -/
structure Hold where
  thread : ThreadId
  wave : WaveId
  value : List Byte
  deriving DecidableEq, Repr, Inhabited

/-- A granule that is not plainly EMPTY (R86 to R91). `st` is 0 EMPTY, 1 FULL or 2 WAITING; `sti` is the
thread and wave of an STI reservation; `writers` are the writes waiting for a hold to end, in arrival
order. -/
structure Gran where
  st : BitVec 2
  readers : List Reader
  hold : Option Hold
  sti : Option (ThreadId × WaveId)
  writers : List (ThreadId × WaveId × BitVec 8)
  deriving DecidableEq, Repr, Inhabited

/-- A stream unit (R63); `blk` is the block it serves (R391), and `part` the bytes loaded so far of an element that is loaded
a byte at a time (04 R111). -/
structure Agen where
  ctl : BitVec 32
  base : BitVec 64
  dims : List (BitVec 64)
  pos : BitVec 128
  tag : BitVec 48
  blk : Addr
  faulted : Bool
  part : List (Nat × Byte)
  deriving DecidableEq, Repr, Inhabited

/-- A drum (R61, R393): the slot it is, and its registers. -/
structure Drum where
  num : BitVec 13
  blk : Addr
  slot : Nat
  t : Tmpl
  loops : List (BitVec 128)
  ctl : BitVec 32
  tag : BitVec 48
  deriving DecidableEq, Repr, Inhabited

/-- The chime matrix of a logical cluster (R180 to R184). `latches` are (term, product, selector) numbers
that have pulsed; `pulses` are sources pulsed and not yet evaluated; `due` are the out entries whose injections
wait. -/
structure Chime where
  ins : Tab (BitVec 32)
  ctrs : Tab (BitVec 64)
  terms : Tab (BitVec 96)
  outs : Tab (BitVec 128)
  latches : List (Nat × Nat)
  injected : Tab (BitVec 24)
  pulses : List Nat
  due : List Nat
  deriving DecidableEq, Repr, Inhabited

/-- The array contents a WLOAD left: format tag, sparseness and the N rows' payload and index bytes
(R57, R373, R374), and the checksum column: for each logical position the sum over the columns of the BQ mantissas, and of the
values in units of the format's least one (R218). -/
structure Weights where
  fmt : Nat
  sparse : Bool
  k : Nat
  rows : List (List Byte)
  mantSums : List Int
  valSums : List Int
  deriving DecidableEq, Repr, Inhabited

/-- The commands of a domain's queue (R370). -/
inductive DomAct where
  | wload | mma | mmasp | accrd | accspl | accrst | scacc | scaccv
  deriving DecidableEq, Repr, Inhabited

/-- A command in a domain's queue. `done` counts rows; `accepted` is set at acceptance and `cls` is then the class
of row 0 (R377); `turn` says that it has begun to add rows, its turn at its reduction nodes having come, since it started or was
resumed (R377); `hold` says that it holds its wave from commit, `rel` lists the tiles, with their domains, whose
release it has caused and awaits (R378); `fin` is its status with its detail once it has ended and only its
completion word is still to be written. `lcl` is the logical cluster of the thread that issued it, whose rings, scratchpad and
chime matrix it uses: the one of the domain, but for a block a CFGREQ had placed elsewhere (R43). -/
structure DomCmd where
  act : DomAct
  x : FormX
  a : Value
  b : Value
  cfv : Value
  thread : ThreadId
  born : Nat
  wave : WaveId
  blk : Addr
  slot : Nat
  done : Nat
  accepted : Bool
  cls : Nat
  turn : Bool
  cancel : Bool
  hold : Bool
  rel : List (Nat × Nat)
  fin : Option (BitVec 8 × BitVec 24)
  lcl : Nat
  deriving DecidableEq, Repr, Inhabited

/-- One domain of a logical cluster (R39, R57, R59). Tiles hold 384 elements each; a tile not listed is
all zero, and so is a configuration; `dues` are the tiles whose release is to be performed (R60). -/
structure Dom where
  mode : Bool
  wsrc : BitVec 64
  wdesc : BitVec 32
  wdig : BitVec 256
  weights : Option Weights
  tiles : Tab (List (BitVec 64))
  cfgs : Tab (BitVec 64)
  queue : List DomCmd
  dues : List Nat
  deriving DecidableEq, Repr, Inhabited

inductive EngAct where
  | cpy | cpy2d | gath | scat | coll
  deriving DecidableEq, Repr, Inhabited

/-- An engine command (R370, R386 to R389). `armed` holds it in its arm slot; `waits` is set when a pulse has freed it from there and
none of the 64 places for running commands is free yet; `started` is false until it runs or,
of a COLL, until every member has issued; `released` is set once the release of REL is done (R371); `srcs` are the
members' sources of a COLL; `tiles` are the scratchpad tiles it has touched; `fin` as of a domain's command. -/
structure EngCmd where
  act : EngAct
  x : FormX
  a : Value
  b : Value
  desc : Value
  thread : ThreadId
  born : Nat
  wave : WaveId
  done : Nat
  armed : Bool
  waits : Bool
  started : Bool
  released : Bool
  cancel : Bool
  srcs : List (BitVec 64)
  tiles : List (Nat × Nat)
  fin : Option (BitVec 8 × BitVec 24)
  deriving DecidableEq, Repr, Inhabited

/-- The state of one logical cluster of a context: scratchpad, rings, chimes, stream units, drums, domains,
engine commands and performance counters (03 R84 to R91, 06 R178, R180, 02 R59 to R63, 07 R208). -/
structure Share where
  lcl : Nat
  bytes : List Host.Cell
  grans : Tab Gran
  engine : List Nat
  ownRes : List (Nat × ThreadId × WaveId)
  rings : Tab (BitVec 128)
  chime : Chime
  agens : Tab Agen
  drums : List Drum
  doms : Tab Dom
  cmds : List EngCmd
  perf : Tab (BitVec 48)
  gated : Bool
  moveTo : Option (Nat × BitVec 8)
  deriving DecidableEq, Repr, Inhabited

/-- A handler binding (R185): descriptor address, the launch it belongs to, the handler and MAXH, and the
handler threads running. -/
structure Binding where
  desc : Addr
  ln : BitVec 32
  handler : Addr
  lcl : Nat
  maxh : Nat
  running : List ThreadId
  bound : Bool
  deriving DecidableEq, Repr, Inhabited

/-- An access-log range and its open records (R189, R190). -/
structure LogRange where
  base : BitVec 64
  limit : BitVec 64
  ring : BitVec 64
  pages : List (Nat × Nat × BitVec 8 × Nat)
  deriving DecidableEq, Repr, Inhabited

/-- A pin entry (R175). -/
structure Pin where
  phys : Nat
  slots : Nat
  lcl : Nat
  origin : Bool
  ln : BitVec 32
  blk : Addr
  deriving DecidableEq, Repr, Inhabited

/-- A priority-queue entry of a context (R143). -/
structure PqEntry where
  die : Nat
  key : BitVec 32
  payload : BitVec 96
  deriving DecidableEq, Repr, Inhabited

/-- A host event waiting for room in the event ring (R160): kind, cause, detail, CMDSEQ, launch, data. -/
structure HostEvent where
  kind : BitVec 8
  cause : BitVec 8
  detail : BitVec 16
  cmdseq : BitVec 32
  launch : BitVec 32
  data : BitVec 128
  deriving DecidableEq, Repr, Inhabited

/-- A cached translation of a context: virtual page number of 4 KiB and the leaf entry that maps it (R80, R81). `site` is the
cache that holds it: 0 to 95 a cluster's, 96 + d the one shared by die d. -/
structure Tlb where
  ctx : CtxId
  site : Nat
  vpn : Nat
  entry : BitVec 64
  pa : Nat
  entryPA : Nat
  deriving DecidableEq, Repr, Inhabited

/-- Where a pre-emption or switch-out stands (R222): 0 none, 1 gated, 2 quiesced and state written. -/
abbrev GateStage := Nat

/-- An incremental-queue arrangement entry (R153): key, value, time and sum of multiplicities. -/
structure ArrEntry where
  desc : Addr
  key : BitVec 64
  value : BitVec 64
  time : BitVec 32
  sum : Int
  deriving DecidableEq, Repr, Inhabited

/-- A block to be placed that no token has asked for yet: an entry block of a launch, or one a CFGREQ names (`req`), of a
launch on a logical cluster (05 R139, 15 R418). -/
structure Asked where
  ln : BitVec 32
  lcl : Nat
  blk : Addr
  req : Bool
  deriving DecidableEq, Repr, Inhabited

/-- A firing that a gate holds (18 R460): its site, and for each operand the places in its block where tokens for it stand. -/
structure HeldFiring where
  site : Site
  ops : List (List Dst)
  deriving DecidableEq, Repr, Inhabited

/-- A context (R12): its registers (R66 to R69), descriptor, tables (06), counters (07), threads, launches,
placed blocks, tokens and slot state, and one share per logical cluster. `wanted` are the blocks to be
placed before a token asks for them; `unfolded` the energy weights each cluster, and each die's controllers (96 + d), have
still to fold (07 R200); `steal` a request held for the gondola (R409); `gated` the firings a gate holds (18 R460); `discards` the logical clusters whose
clean SC lines the acquire of a parked load, answered meanwhile, still discards (04 R113). -/
structure Ctx where
  num : CtxId
  flt : Nat
  stalled : Bool
  capchg : Bool
  forced : Bool
  preempt : Bool
  state : BitVec 4
  priomax : BitVec 4
  fpflags : BitVec 5
  fpend : Bool
  sel : BitVec 4
  gen : BitVec 16
  fqb : BitVec 64
  capqb : BitVec 64
  avail : BitVec 8
  lcount : BitVec 8
  spine : BitVec 3
  ovf : BitVec 64
  desc : CtxDescr
  dreg : Tab (BitVec 128)
  pmap : Tab (BitVec 32)
  pins : List Pin
  savedPins : List Pin
  binds : List Binding
  ksel : Tab (BitVec 16)
  logs : Tab LogRange
  energy : List (BitVec 64)
  unfolded : Tab (List Nat)
  pq : List PqEntry
  cmdprod : BitVec 32
  cmdcons : BitVec 32
  evprod : BitVec 32
  evcons : BitVec 32
  doorbell : Bool
  events : List HostEvent
  heldRecs : List (ThreadId × FaultRec)
  nextLaunch : BitVec 32
  born : Nat
  launches : List Launch
  threads : List Thread
  placed : List Placed
  tokens : List Arrived
  kept : List Kept
  vreds : List Vred
  committed : List Committed
  spilled : List Arrived
  shares : List Share
  parks : List (ThreadId × WaveId × BitVec 8 × Addr)
  arrs : List ArrEntry
  gate : GateStage
  halted : Bool
  wanted : List Asked
  steal : Option (BitVec 12)
  gated : List HeldFiring
  discards : List Nat
  deriving DecidableEq, Repr, Inhabited

/-- A directory entry (R93). -/
structure DirEntry where
  sharers : BitVec 96
  owner : Nat
  host : Bool
  dstate : BitVec 2
  deriving DecidableEq, Repr, Inhabited

/-- Kinds of L1 line (R92, R99), and MESI states. -/
inductive LineKind where
  | hc | sc | cp | host
  deriving DecidableEq, Repr, Inhabited

inductive Mesi where
  | e | m | s
  deriving DecidableEq, Repr, Inhabited

/-- One line of a cluster's L1: its 64-byte line number in local or host space, its 64 bytes and its byte
dirty mask (R92), and, of an SC line, the key slot under which it came and the context that last wrote it. -/
structure L1Line where
  clu : Nat
  kind : LineKind
  line : Nat
  st : Mesi
  data : List Byte
  dirty : BitVec 64
  key : Option Nat
  ctx : CtxId
  deriving DecidableEq, Repr, Inhabited

/-- One line of a die's L2 (R94): whether HBM has it yet, and the context that last wrote it. -/
structure L2Line where
  line : Nat
  dirty : Bool
  writer : Option CtxId
  deriving DecidableEq, Repr, Inhabited

/-- The memories of the module and those it reaches (03). `hbm` is what the home slice would return;
`l2` are the lines of the L2s, least recently used first; `tlb` the cached translations, oldest first; `key` is the key slot
a line was written under; `bias` are pages in host bias, `locked` pages of a bias change in progress; `copying` are the
pseudo-channels whose contents are being copied to or from a lease reserve (06 R193); `reach` are the
modules at the far ends of links, `routes` those the house routes to through others, and `peerBinds` the bindings of a
context and a peer module to one of the peer's contexts (16 R449). -/
structure Mems where
  hbm : List Host.Cell
  host : List Host.Cell
  peer : Tab (List Host.Cell)
  key : Tab Nat
  poison : List Nat
  l2 : List L2Line
  tlb : List Tlb
  dir : Tab DirEntry
  l1 : List L1Line
  bias : List Nat
  locked : List Nat
  copying : List Nat
  reach : List Nat
  routes : List Nat
  peerBinds : List (Nat × Nat × Nat)
  deriving DecidableEq, Repr, Inhabited

/-- SYS.SPINEFREQ (R72). -/
structure SpineFreq where
  busy : Bool
  throt : Bool
  ecode : BitVec 7
  code : BitVec 7
  deriving DecidableEq, Repr, Inhabited

/-- PWR.DOM with the interval in progress (R207, R453). -/
structure PwrDom where
  ballast : BitVec 16
  used : BitVec 16
  grant : BitVec 16
  usedNow : BitVec 16
  ballastNow : BitVec 16
  deriving DecidableEq, Repr, Inhabited

/-- SYS.PWRCTL (R73) and SYS.LEASECTL (R74). -/
structure PwrCtl where
  budget : BitVec 16
  mingrant : BitVec 16
  ballast : Bool
  deriving DecidableEq, Repr, Inhabited

structure LeaseCtl where
  gap : BitVec 32
  maxconc : BitVec 8
  hold : Bool
  en : Bool
  deriving DecidableEq, Repr, Inhabited

/-- A lease entry (R192). -/
structure Lease where
  seqStart : BitVec 64
  state : BitVec 4
  kind : BitVec 2
  unit : BitVec 12
  score : BitVec 16
  kernels : BitVec 8
  failed : BitVec 8
  deriving DecidableEq, Repr, Inhabited

/-- SCORE of a unit (R202). DUE is SCORE ≥ 512; `doomed` is set once the score has reached 4,096, which retires the unit
(R203). -/
structure Score where
  retired : Bool
  doomed : Bool
  score : BitVec 16
  deriving DecidableEq, Repr, Inhabited

/-- A unit that is being withdrawn in order to be retired (06 R195, 08 R228): the reason, and the contexts whose data it
holds. -/
structure Withdrawal where
  unit : RetUnit
  reason : BitVec 8
  ctxs : List CtxId
  deriving DecidableEq, Repr, Inhabited

/-- A retirement record (R194) with its signature. -/
structure Retired where
  index : Nat
  unit : RetUnit
  reason : BitVec 8
  score : BitVec 16
  cold : BitVec 32
  seq : BitVec 64
  sig : BitVec 3072
  deriving DecidableEq, Repr, Inhabited

/-- SYS.START (R231). -/
structure Start where
  recbad : BitVec 16
  restarts : BitVec 8
  failstep : BitVec 8
  kind : Bool
  step : BitVec 4
  deriving DecidableEq, Repr, Inhabited

/-- HOST.BIASREQ and SYS.BIASREQ (R439). `goTo` and `goPage` are those of the request in progress: TO and PAGE can be
written while it is; `since` orders their GO writes, and `locks` says that step 1 of R442 or R443 is done. -/
structure BiasReq where
  busy : Bool
  result : BitVec 2
  toHost : Bool
  page : BitVec 40
  goTo : Bool
  goPage : BitVec 40
  since : Nat
  locks : Bool
  deriving DecidableEq, Repr, Inhabited

/-- SYS.LINKn (R450), and the key slot under which the link's payloads are encrypted (R447). -/
structure Link where
  pv : Bool
  peer : BitVec 8
  width : BitVec 4
  lanes : BitVec 4
  key : BitVec 12
  deriving DecidableEq, Repr, Inhabited

/-- SYS.TEMP (R455). -/
structure Temp where
  trip : Bool
  throt : Bool
  hot : Bool
  temp : BitVec 12
  deriving DecidableEq, Repr, Inhabited

/-- The debug registers (R75). `stopped` is the firing a breakpoint holds back, and `pass` the one that takes place
unhindered once HALT is cleared. -/
structure Dbg where
  ctx : CtxId
  thread : ThreadId
  halt : Bool
  allthr : Bool
  en : Bool
  stepping : Bool
  bkpt : Tab (BitVec 64)
  wave : WaveId
  statThread : ThreadId
  cause : BitVec 8
  halted : Bool
  stopped : Option Site
  pass : Option Site
  dict : BitVec 4
  index : BitVec 10
  deriving DecidableEq, Repr, Inhabited

/-- A key slot (R187). -/
structure KeySlot where
  state : BitVec 2
  owner : CtxId
  key : BitVec 512
  deriving DecidableEq, Repr, Inhabited

/-- An answer to a peer module: the bytes read, or the failure as a fault code with its detail (R97, R449). -/
structure PeerReply where
  code : BitVec 8
  detail : BitVec 24
  bytes : List Byte
  deriving DecidableEq, Repr, Inhabited

/-- What the management controller keeps in flash: score copies, retirement records, the event number copy,
the firmware security version and the count of cold starts (R194, R204, R205, R451). -/
structure Flash where
  scores : List (RetUnit × BitVec 16)
  records : List Retired
  evseq : BitVec 64
  version : Nat
  colds : BitVec 32
  deriving DecidableEq, Repr, Inhabited

/-- A scrub receipt written (R196): context, first and last sequence numbers, the twelve classes with their
counts and ranges. -/
structure Receipt where
  ctx : CtxId
  seqFirst : BitVec 64
  seqLast : BitVec 64
  classes : List (Nat × Nat × List (Nat × Nat))
  deriving DecidableEq, Repr, Inhabited

/-- A teardown in progress (06 R196, R197): the house event number at its start, and what it began with: matching-store
entries and their PEs, constant files and their PEs. -/
structure Tearing where
  ctx : CtxId
  first : BitVec 64
  entries : Nat
  entryPes : List Nat
  files : Nat
  filePes : List Nat
  deriving DecidableEq, Repr, Inhabited

/-- A lease that has ended, as the management controller reports it (16 R451): its unit, the house event numbers of its start and its
end, and its test kernels. -/
structure LeaseReport where
  unit : RetUnit
  seqStart : BitVec 64
  seqEnd : BitVec 64
  kernels : BitVec 8
  failed : BitVec 8
  deriving DecidableEq, Repr, Inhabited

/-- An SPDM answer (R445, R446). -/
structure SpdmReply where
  busy : Bool
  digest : BitVec 256
  sig : BitVec 3072
  deriving DecidableEq, Repr, Inhabited

/-- The whole machine. The first four fields are the model's own: what moves next, a counter for free
choices, the firing or operation in progress, and a hardware error that meets it (log entries 1 to 3). `swept` are
the contexts the last stall sweep found stalled (R49); `waited` the launches found waiting at a die's last grant
interval, as die and mark, `victims` the contexts to be pre-empted, and `heirs` the launches for which one is, as context, die and
mark (05 R141, R142). `parked` are the domains held on spine 7 whatever their register selects (08 R227, 16 R457); `urgentRun`
counts the urgent firings of a PE, by cluster × 128 + PE, since its last other one, as far as three (01 R34), and `counted` lists the
instructions that stood ready on it at its last firing, without those that wait (01 R33, R36). `retiring` are the
units being withdrawn, `poweredOff` those that could not be scrubbed, each with the contexts whose data it holds (06 R195, R197),
`failing` the structures whose errors led to the warm reset in progress, and `suspects` the units it tests (08 R231). `drawn` are the
microjoules that each unit's weights have made up at its folds, by site, `drawnAt` their sum over the die at a spine's last boundary,
by cluster × 8 + spine (07 R200, 16 R452), and `leaseHistory` the leases that have ended, oldest first (16 R451). -/
structure State where
  agenda : List Choice
  tick : Nat
  focus : Site
  upset : Upset
  mem : Mems
  ctxs : List Ctx
  launchq : List QRec
  owners : Tab CtxId
  evseq : BitVec 64
  modnum : BitVec 8
  links : Tab Link
  lanesOut : List Nat
  temps : Tab Temp
  cooling : List Nat
  spines : Tab SpineFreq
  spsel : Tab (BitVec 3)
  parked : List Nat
  spnow : Tab (BitVec 3)
  pwrctl : Tab PwrCtl
  leasectl : Tab LeaseCtl
  leases : Tab Lease
  lastLease : List (RetUnit × Nat)
  scores : List (RetUnit × Score)
  pwrdom : Tab PwrDom
  cycles : Tab (BitVec 64)
  start : Start
  hostBias : BiasReq
  sysBias : BiasReq
  biascnt : BitVec 32
  dbg : Dbg
  keys : Tab KeySlot
  flash : Flash
  receipts : List Receipt
  tearing : List Tearing
  hdm : Option (Nat × Nat × Nat)
  tspLock : Bool
  cxl : Bool × Nat × Nat
  gondola : GondolaTok
  taken : List (BitVec 32)
  firmware : FirmwareImage
  staged : Option FirmwareImage
  coolantBad : Bool
  touched : List CtxId
  failing : List Failing
  hostReply : List (List Byte)
  peerReply : List PeerReply
  spdm : Option SpdmReply
  swept : List CtxId
  waited : List (Nat × Nat)
  victims : List CtxId
  heirs : List (CtxId × Nat × Nat)
  urgentRun : Tab Nat
  counted : Tab (List Site)
  retiring : List Withdrawal
  poweredOff : List (RetUnit × List CtxId)
  suspects : List RetUnit
  drawn : Tab Nat
  drawnAt : Tab Nat
  leaseHistory : List LeaseReport
  deriving DecidableEq, Repr, Inhabited

/-- The start register at a cold reset (R231). -/
def Start.cold : Start := { recbad := 0, restarts := 0, failstep := 0, kind := false, step := 1 }

def Mems.empty : Mems :=
  { hbm := [], host := [], peer := [], key := [], poison := [], l2 := [], tlb := [], dir := [], l1 := [],
    bias := [], locked := [], copying := [], reach := [], routes := [], peerBinds := [] }

def Dbg.off : Dbg :=
  { ctx := 0, thread := 0, halt := false, allthr := false, en := false, stepping := false, bkpt := [],
    wave := 0, statThread := 0, cause := 0, halted := false, stopped := none, pass := none, dict := 0, index := 0 }

def BiasReq.idle : BiasReq :=
  { busy := false, result := 0, toHost := false, page := 0, goTo := false, goPage := 0, since := 0, locks := false }

/-- The machine right after cold reset, its first cold start at step 1: every register at the Reset value of its map, an unlisted
entry of a table at the value its accessor gives, memory with nothing listed, no context. -/
def State.reset : State :=
  { agenda := [], tick := 0, focus := ⟨0, 0, 0, 0, 0⟩, upset := .none, mem := Mems.empty, ctxs := [],
    launchq := [], owners := [], evseq := 0x20000, modnum := 0, links := [], lanesOut := [], temps := [],
    cooling := [], spines := [], spsel := [], parked := [], spnow := [], pwrctl := [], leasectl := [], leases := [], lastLease := [],
    scores := [], pwrdom := [], cycles := [], start := Start.cold, hostBias := BiasReq.idle,
    sysBias := BiasReq.idle, biascnt := 0, dbg := Dbg.off, keys := [],
    flash := ⟨[], [], 0x20000, 0, 1⟩, receipts := [], tearing := [], hdm := none, tspLock := false,
    cxl := (false, 0, 0), gondola := ⟨0, [], []⟩, taken := [], firmware := ⟨0, 0, true⟩,
    staged := none, coolantBad := false, touched := [], failing := [], hostReply := [], peerReply := [],
    spdm := none, swept := [], waited := [], victims := [], heirs := [], urgentRun := [], counted := [], retiring := [], poweredOff := [], suspects := [],
    drawn := [], drawnAt := [], leaseHistory := [] }

end Sys2Proof.Machine
end

