-- ==== Sys2Proof/Machine/Mem.lean ====
section
/-! DEFINITION. Byte memories in their canonical form (every memory of 03 is a list of cells), little-endian
words over them (00 R2), and the sparse tables the state is built from. -/

namespace Sys2Proof.Machine

/-- What every meaning answers. -/
abbrev Out := Host.Outcome State Fault Refusal

/-! ### Byte memories -/

/-- The canonical form: addresses strictly rising, and no entry equal to the 0 an unlisted address reads as
(log entry 4). -/
def Memory.wf : List Host.Cell → Bool
  | [] => true
  | [c] => c.2 != 0
  | c :: d :: r => c.2 != 0 && decide (c.1 < d.1) && Memory.wf (d :: r)

/-- What an unlisted address reads as (log entry 4). -/
def memDefault : Byte := 0

/-- The byte at an address. -/
def rd : List Host.Cell → Nat → Byte
  | [], _ => memDefault
  | c :: r, a => if c.1 = a then c.2 else rd r a

/-- Writes one byte, keeping the canonical form. -/
def wr : List Host.Cell → Nat → Byte → List Host.Cell
  | [], a, b => if b = memDefault then [] else [(a, b)]
  | c :: r, a, b =>
    if a < c.1 then (if b = memDefault then c :: r else (a, b) :: c :: r)
    else if a = c.1 then (if b = memDefault then r else (a, b) :: r)
    else c :: wr r a b

/-- n bytes from an address on. -/
def rdN (m : List Host.Cell) (a : Nat) : Nat → List Byte
  | 0 => []
  | n + 1 => rd m a :: rdN m (a + 1) n

/-- Writes bytes from an address on. -/
def wrN (m : List Host.Cell) (a : Nat) : List Byte → List Host.Cell
  | [] => m
  | b :: bs => wrN (wr m a b) (a + 1) bs

/-- Drops every cell of [lo, hi). -/
def wipe (m : List Host.Cell) (lo hi : Nat) : List Host.Cell :=
  m.filter fun c => decide (c.1 < lo) || decide (hi ≤ c.1)

/-! ### Little-endian words -/

/-- The number a list of bytes holds, first byte lowest. -/
def leNat : List Byte → Nat
  | [] => 0
  | b :: bs => b.toNat + 256 * leNat bs

/-- The n low bytes of a number, lowest first. -/
def leBytes : Nat → Nat → List Byte
  | 0, _ => []
  | n + 1, v => BitVec.ofNat 8 v :: leBytes n (v / 256)

/-- A little-endian word of n bytes in a memory. -/
def rdLe (m : List Host.Cell) (a n : Nat) : Nat := leNat (rdN m a n)

/-- The little-endian number in bytes [off, off + n) of a record image. -/
def fieldAt (img : List Byte) (off n : Nat) : Nat := leNat ((img.drop off).take n)

/-- Bits [hi:lo] of a number. -/
def bits (v hi lo : Nat) : Nat := v / 2 ^ lo % 2 ^ (hi + 1 - lo)

/-- A number read as signed at a width. -/
def signed (w v : Nat) : Int :=
  let u := v % 2 ^ w
  if u < 2 ^ (w - 1) then (u : Int) else (u : Int) - (2 ^ w : Nat)

/-- A whole number as the value of an n-bit word. -/
def wrapTo (w : Nat) (x : Int) : Nat := (x % ((2 ^ w : Nat) : Int)).toNat

/-! ### Tables -/

/-- The entry of a table, if any. -/
def tget {α : Type} : Tab α → Nat → Option α
  | [], _ => none
  | e :: r, n => if e.1 = n then some e.2 else tget r n

/-- The entry of a table, or the value an unlisted entry has. -/
def tgetD {α : Type} (t : Tab α) (n : Nat) (d : α) : α := (tget t n).getD d

/-- Writes an entry, keeping the entries in rising order. -/
def tset {α : Type} : Tab α → Nat → α → Tab α
  | [], n, v => [(n, v)]
  | e :: r, n, v =>
    if n < e.1 then (n, v) :: e :: r
    else if n = e.1 then (n, v) :: r
    else e :: tset r n v

/-- Removes an entry. -/
def tdel {α : Type} (t : Tab α) (n : Nat) : Tab α := t.filter fun e => e.1 != n

/-- The element at an index replaced. -/
def setAt {α : Type} : List α → Nat → α → List α
  | [], _, _ => []
  | _ :: r, 0, v => v :: r
  | x :: r, n + 1, v => x :: setAt r n v

/-- The first element that passes a test replaced by f of it. -/
def updFirst {α : Type} (p : α → Bool) (f : α → α) : List α → List α
  | [] => []
  | x :: r => if p x then f x :: r else x :: updFirst p f r

/-- The first element that passes a test removed. -/
def dropFirst {α : Type} (p : α → Bool) : List α → List α
  | [] => []
  | x :: r => if p x then r else x :: dropFirst p r

/-- The lowest number below n that a test passes. -/
def firstNat (p : Nat → Bool) (n : Nat) : Option Nat := (List.range n).find? p

/-- The element with the least key, the earlier one on a tie. -/
def leastBy {α : Type} (key : α → Nat) : List α → Option α
  | [] => none
  | x :: r => match leastBy key r with
    | none => some x
    | some y => if key y < key x then some y else some x

end Sys2Proof.Machine
end

