-- ==== Sys2Proof/Machine/Hash.lean ====
section
/-! DEFINITION. SHA-256 (FIPS 180-4), which the manual names for DOM.WDIG (02 R57), for firmware and identity (08
R231, 16 R445) and for retirement records (06 R194). Its constants are computed from what they stand for: the fractions of
roots of the first primes. -/

namespace Sys2Proof.Machine

abbrev W32 := BitVec 32

/-- The first 64 primes, the last of which is 311. -/
def shaPrimes : List Nat :=
  (List.range 312).filter fun n => 2 ≤ n && (List.range 18).all fun d => d < 2 || d = n || n % d != 0

/-- The largest number, r and below r + 2^bits, whose n-th power is at most m. -/
def rootFrom (n m : Nat) : Nat → Nat → Nat
  | 0, r => r
  | bits + 1, r => rootFrom n m bits (if (r + 2 ^ bits) ^ n ≤ m then r + 2 ^ bits else r)

/-- The first 32 bits of the fraction of the n-th root of p. -/
def rootFraction (n p : Nat) : W32 := BitVec.ofNat 32 (rootFrom n (p * 2 ^ (32 * n)) 36 0)

/-- The eight words of a hash in progress. -/
structure ShaWords where
  a : W32
  b : W32
  c : W32
  d : W32
  e : W32
  f : W32
  g : W32
  h : W32
  deriving DecidableEq, Repr, Inhabited

def ShaWords.ofList (f : Nat → W32) : ShaWords := ⟨f 0, f 1, f 2, f 3, f 4, f 5, f 6, f 7⟩
def ShaWords.list (v : ShaWords) : List W32 := [v.a, v.b, v.c, v.d, v.e, v.f, v.g, v.h]

/-- The start: square roots of the first eight primes. -/
def shaStart : ShaWords := ShaWords.ofList fun i => rootFraction 2 (shaPrimes.getD i 0)

/-- A word with its rotations by several amounts, combined by exclusive or. -/
def spun (x : W32) (by_ : List Nat) : W32 := by_.foldl (fun y n => y ^^^ x.rotateRight n) 0

/-- One round with its constant and message word. -/
def ShaWords.round (v : ShaWords) (k w : W32) : ShaWords :=
  let choice := v.g ^^^ (v.e &&& (v.f ^^^ v.g))
  let majority := (v.a &&& v.b) ||| (v.c &&& (v.a ||| v.b))
  let mix := v.h + spun v.e [6, 11, 25] + choice + k + w
  ⟨mix + spun v.a [2, 13, 22] + majority, v.a, v.b, v.c, v.d + mix, v.e, v.f, v.g⟩

/-- The rounds of a block, with the sixteen message words still to come: each word used makes one more. -/
def ShaWords.rounds : List W32 → List W32 → ShaWords → ShaWords
  | k :: ks, w :: ws, v =>
    let near := ws.getD 0 0
    let far := ws.getD 13 0
    let more := w + (spun near [7, 18] ^^^ (near >>> 3)) + ws.getD 8 0 + (spun far [17, 19] ^^^ (far >>> 10))
    ShaWords.rounds ks (ws ++ [more]) (v.round k w)
  | _, _, v => v

/-- A block of sixteen words taken in. -/
def ShaWords.absorb (v : ShaWords) (block : List W32) : ShaWords :=
  let u := ShaWords.rounds (shaPrimes.map (rootFraction 3)) block v
  ShaWords.ofList fun i => v.list.getD i 0 + u.list.getD i 0

/-- Blocks taken in one after another. -/
def ShaWords.absorbAll (v : ShaWords) : Nat → List W32 → ShaWords
  | 0, _ => v
  | n + 1, ws => (v.absorb (ws.take 16)).absorbAll n (ws.drop 16)

/-- Bytes as words, the first byte the most significant. -/
def bigWords : List Byte → List W32
  | p :: q :: r :: s :: rest => (p ++ q ++ r ++ s) :: bigWords rest
  | _ => []

/-- The digest as a little-endian word: its first byte in bits 7:0 (R57). The message ends with a one bit, zeros, and its length in
bits as 64 bits. -/
def digestOf (m : List Byte) : BitVec 256 :=
  let blocks := (m.length + 8) / 64 + 1
  let tail := List.replicate (64 * blocks - m.length - 9) 0 ++ (leBytes 8 (8 * m.length)).reverse
  let v := shaStart.absorbAll blocks (bigWords (m ++ 0x80 :: tail))
  BitVec.ofNat 256 (leNat (v.list.flatMap fun w => (leBytes 4 w.toNat).reverse))

end Sys2Proof.Machine
end

