-- ==== Sys2Proof/Machine/Ops.lean ====
section
/-! DEFINITION. The named operations every meaning is built from: contexts, threads, waves and shares; how a
token enters a wave and leaves a slot (01 R20 to R23, R36 to R38); the granules of the scratchpad (03 R84 to
R91); dropping waves, taking a fault and resuming (08 R213 to R216, 11 R286). -/

namespace Sys2Proof.Machine

/-! ### Lookups -/

def State.ctx (s : State) (c : CtxId) : Option Ctx := s.ctxs.find? (·.num == c)

def State.setCtx (s : State) (k : Ctx) : State :=
  { s with ctxs := updFirst (·.num == k.num) (fun _ => k) s.ctxs }

/-- A context that is on the fabric, or being torn down, and whose uncommitted waves may go on (02 R66, 08 R222, R232). -/
def Ctx.active (k : Ctx) : Bool := (decide (k.state.toNat ≤ 1) || k.state == 4) && decide (k.gate < 2)

def State.active (s : State) (c : CtxId) : Option Ctx := (s.ctx c).filter Ctx.active

/-- Applies a change to a context, if it exists. -/
def State.modCtx (s : State) (c : CtxId) (f : Ctx → Ctx) : State :=
  match s.ctx c with
  | none => s
  | some k => s.setCtx (f k)

/-- Applies a change to a context that is on the fabric. -/
def State.modActive (s : State) (c : CtxId) (f : Ctx → Ctx) : State :=
  match s.active c with
  | none => s
  | some k => s.setCtx (f k)

def Ctx.th (k : Ctx) (t : ThreadId) : Option Thread := k.threads.find? (·.num == t)

def Ctx.setTh (k : Ctx) (x : Thread) : Ctx :=
  { k with threads := updFirst (·.num == x.num) (fun _ => x) k.threads }

def Ctx.modTh (k : Ctx) (t : ThreadId) (f : Thread → Thread) : Ctx :=
  { k with threads := updFirst (·.num == t) f k.threads }

def Thread.wv (x : Thread) (w : WaveId) : Option Wave := x.waves.find? (·.num == w)

def Thread.modWv (x : Thread) (w : WaveId) (f : Wave → Wave) : Thread :=
  { x with waves := updFirst (·.num == w) f x.waves }

def Ctx.wv (k : Ctx) (t : ThreadId) (w : WaveId) : Option Wave := (k.th t).bind (·.wv w)

def Ctx.modWv (k : Ctx) (t : ThreadId) (w : WaveId) (f : Wave → Wave) : Ctx :=
  k.modTh t (·.modWv w f)

def Ctx.ln (k : Ctx) (n : BitVec 32) : Option Launch := k.launches.find? (·.num == n)

def Ctx.modLn (k : Ctx) (n : BitVec 32) (f : Launch → Launch) : Ctx :=
  { k with launches := updFirst (·.num == n) f k.launches }

/-- A chime matrix with nothing set up (06 R180). -/
def Chime.fresh : Chime :=
  { ins := [], ctrs := [], terms := [], outs := [], latches := [], injected := [], pulses := [], due := [] }

/-- A share as it is granted: bytes zero, granules EMPTY, tiles THREAD, every register 0 (03 R86). -/
def Share.fresh (l : Nat) : Share :=
  { lcl := l, bytes := [], grans := [], engine := [], ownRes := [], rings := [], chime := Chime.fresh,
    agens := [], drums := [], doms := [], cmds := [], perf := [], gated := false, moveTo := none }

/-- The share of a logical cluster. -/
def Ctx.share (k : Ctx) (l : Nat) : Share :=
  match k.shares.find? (·.lcl == l) with
  | some h => h
  | none => Share.fresh l

/-- A domain nothing has happened in (02 R57 to R60). -/
def Dom.zero : Dom :=
  { mode := false, wsrc := 0, wdesc := 0, wdig := 0, weights := none, tiles := [], cfgs := [], queue := [], dues := [] }

def Share.dom (h : Share) (d : Nat) : Dom := tgetD h.doms d Dom.zero
def Share.setDom (h : Share) (d : Nat) (x : Dom) : Share := { h with doms := tset h.doms d x }

/-- Stores a share in rising order of logical clusters. -/
def putShare (h : Share) : List Share → List Share
  | [] => [h]
  | x :: r => if h.lcl < x.lcl then h :: x :: r else if h.lcl = x.lcl then h :: r else x :: putShare h r

def Ctx.setShare (k : Ctx) (h : Share) : Ctx := { k with shares := putShare h k.shares }

def Ctx.modShare (k : Ctx) (l : Nat) (f : Share → Share) : Ctx := k.setShare (f (k.share l))

/-- Adds to a performance counter, modulo 2^48 (07 R208). -/
def Ctx.perfAdd (k : Ctx) (l n by_ : Nat) : Ctx :=
  k.modShare l fun h => { h with perf := tset h.perf n (tgetD h.perf n 0 + BitVec.ofNat 48 by_) }

/-- The number of a cluster's die among the units that keep something of their own beside the clusters: its memory and link
controllers, its shared translation cache. -/
def dieSite (clu : Nat) : Nat := 96 + clu / Config.clustersPerDie

/-- The weights that a unit has still to fold for a context, by class. -/
def Ctx.pending (k : Ctx) (site : Nat) : List Nat := tgetD k.unfolded site [0, 0, 0, 0, 0]

/-- Charges one event to an energy class: 0 ARRAY, 1 VECTOR, 2 MEMORY, 3 LINK, 4 SAVE. The weight waits in the unit `site`, a
cluster or a die's controllers, for its next fold (07 R200, R201). -/
def Ctx.charge (k : Ctx) (site cls event : Nat) : Ctx :=
  let u := k.pending site
  { k with unfolded := tset k.unfolded site (setAt u cls (u.getD cls 0 + Config.energyWeight cls event)) }

/-- The physical cluster of a logical cluster: PHYS of its placement-map entry (06 R172). -/
def Ctx.phys (k : Ctx) (l : Nat) : Nat := ((tgetD k.pmap l 0).extractLsb' 16 7).toNat

/-- The physical cluster whose slots a placed block takes (R43). -/
def Ctx.seatOf (k : Ctx) (p : Placed) : Nat := k.phys p.seat

/-- The number of logical clusters of the context (02 R69). -/
def Ctx.lclusters (k : Ctx) : Nat := k.lcount.toNat

/-! ### Waves (R20, R36) -/

/-- How far wave b lies ahead of wave a. -/
def wdist (a b : WaveId) : Nat := (b - a).toNat

/-- Wave a is older than wave b. -/
def older (a b : WaveId) : Bool := decide (1 ≤ wdist a b) && decide (wdist a b < 0x800000)

/-- Wave b is wave a or younger. -/
def notOlder (a b : WaveId) : Bool := decide (wdist a b < 0x800000)

/-- The number after the last committed wave, from which distances are taken. -/
def Thread.base (x : Thread) : WaveId :=
  match x.last with
  | none => 0
  | some w => w + 1

/-- The thread's oldest uncommitted wave. -/
def Thread.oldest (x : Thread) : Option Wave := leastBy (fun v => wdist x.base v.num) x.waves

/-- The thread's uncommitted waves: those that stand, and those that a fault or a squash has dropped and a resumption replays
(R21, R38). -/
def Thread.uncommitted (x : Thread) : List Wave := x.waves ++ x.dropped

/-- The oldest of a list of the thread's waves. -/
def Thread.oldestOf (x : Thread) (ws : List Wave) : Option Wave := leastBy (fun v => wdist x.base v.num) ws

/-- What meets a token sent into a wave. -/
inductive Entry where
  | go | wait | skipped | committed
  deriving DecidableEq, Repr, Inhabited

/-- Whether a number was passed over by WSET (R291). -/
def Thread.skippedNo (x : Thread) (w : WaveId) : Bool :=
  x.skips.any fun p => older p.2.1 w && older w p.2.2

/-- The runs of numbers strictly between `w` and `w2` that no token has entered, as a WSET fired in `w` skips them (R291). A
wave that is known only as one a result is due to counts as entered (DESIGN CHOICE, log entry 131). -/
def Thread.skipRuns (x : Thread) (w w2 : WaveId) : List (WaveId × WaveId × WaveId) :=
  let met := (x.uncommitted.map (·.num)).filter fun n => older w n && older n w2
  (w :: met).filterMap fun a => match leastBy (wdist a) ((w2 :: met).filter (older a)) with
    | some b => if wdist a b ≥ 2 then some (w, a, b) else none
    | none => none

/-- Whether the thread's pending fault has dropped the wave (R38). -/
def Thread.isDropped (x : Thread) (w : WaveId) : Bool :=
  match x.fault with
  | none => false
  | some r => notOlder r.wave w

/-- R20, R36, R291 and R41 applied to a token about to enter wave w. A dropped wave is uncommitted and counts with the others. -/
def Thread.entry (x : Thread) (w : WaveId) : Entry :=
  if x.uncommitted.any (·.num == w) then .go
  else if (match x.last with | none => false | some l => notOlder w l) then .committed
  else if x.skippedNo w then .skipped
  else if x.uncommitted.length ≥ 8 then .wait
  else match x.oldestOf x.uncommitted with
    | some v => if wdist v.num w ≥ 0x800000 then .wait else .go
    | none => .go

/-- A wave nothing has happened in yet, entered at a block. -/
def Wave.fresh (w : WaveId) (b : Addr) : Wave :=
  { num := w, blk := b, entered := true, log := [], ops := [], order := [], drains := [], defs := [], flags := 0,
    tend := false, holds := 0, reserve := false }

/-- A record in a wave's log: the first token decides at which block the wave is entered (R21). -/
def Wave.logged (v : Wave) (r : LogRec) : Wave :=
  { v with log := v.log ++ [r], blk := if v.entered then v.blk else r.arr.blk, entered := true }

/-- Appends a record to the log of a wave in a list, adding the wave when it is not there. -/
def logInto (ws : List Wave) (r : LogRec) : List Wave :=
  if ws.any (·.num == r.arr.tok.wave) then updFirst (·.num == r.arr.tok.wave) (fun v => v.logged r) ws
  else ws ++ [{ Wave.fresh r.arr.tok.wave r.arr.blk with log := [r] }]

/-- A token enters its wave (R20, R38). `inside` says that it comes from the same wave, so that it is not
logged. Into a dropped wave it goes to that wave's kept log, to be fed by FRESUME (R215). A token of no
live thread is discarded. -/
def Ctx.enter (k : Ctx) (a : Arrived) (src : Src) (inside : Bool) : Ctx :=
  match k.th a.tok.thread with
  | none => k
  | some x =>
    if x.isDropped a.tok.wave then
      if inside then k else k.setTh { x with dropped := logInto x.dropped ⟨a, src⟩ }
    else
      let x1 := if inside then
          (if x.waves.any (·.num == a.tok.wave) then x
           else { x with waves := x.waves ++ [Wave.fresh a.tok.wave a.blk] })
        else { x with waves := logInto x.waves ⟨a, src⟩ }
      { k.setTh x1 with tokens := k.tokens ++ [a] }

/-- Makes sure an uncommitted wave exists. -/
def Ctx.needWave (k : Ctx) (t : ThreadId) (w : WaveId) (b : Addr) : Ctx :=
  k.modTh t fun x => if (x.wv w).isSome then x else { x with waves := x.waves ++ [Wave.fresh w b] }

/-- A wave of which nothing is known yet but that a result is due to it. -/
def Wave.due (w : WaveId) (b : Addr) : Wave := { Wave.fresh w b with holds := 1, entered := false }

/-- Makes sure a wave exists and counts one token as due to it (R108, R378, and a load's result under a tag
action that adds to the wave). -/
def Ctx.owe (k : Ctx) (t : ThreadId) (w : WaveId) (b : Addr) : Ctx :=
  k.modTh t fun x =>
    if x.isDropped w then
      (if x.dropped.any (·.num == w) then
        { x with dropped := updFirst (·.num == w) (fun v => { v with holds := v.holds + 1 }) x.dropped }
       else { x with dropped := x.dropped ++ [Wave.due w b] })
    else if (x.wv w).isSome then x.modWv w fun v => { v with holds := v.holds + 1 }
    else { x with waves := x.waves ++ [Wave.due w b] }

/-- The token due to a wave has come. -/
def Ctx.paid (k : Ctx) (t : ThreadId) (w : WaveId) : Ctx :=
  k.modTh t fun x =>
    if (x.wv w).isSome then x.modWv w fun v => { v with holds := v.holds - 1 }
    else { x with dropped := updFirst (·.num == w) (fun v => { v with holds := v.holds - 1 }) x.dropped }

/-! ### Placed blocks and destinations (R261, R266, R267) -/

/-- The placed block a thread's tokens at an address meet: that of its launch and logical cluster. -/
def Ctx.placedAt (k : Ctx) (x : Thread) (b : Addr) : Option Placed :=
  k.placed.find? fun p => p.blk == b && p.ln == x.ln && p.lcl == x.lcl

/-- The words of a slot and of the slot after it. -/
def Placed.words (p : Placed) (i : Nat) : Words :=
  let a := (p.slots[i]?).getD default
  let b := (p.slots[i + 1]?).getD default
  { tmpl := a.tmpl, side := a.side, xtmpl := b.tmpl, xside := b.side }

/-- Whether a token's place in a block is operand A (or B) of a slot, through the port table or not. -/
def Placed.meets (p : Placed) (d : Dst) (i : Nat) (b : Bool) : Bool :=
  match d with
  | .slot n c => n == i && c == b
  | .port q => ((p.ports[q]?).getD 0 == BitVec.ofBool b ++ BitVec.ofNat 7 i)
  | .out _ => false

/-- A destination an emission names; `block` is an input port of a block named by address (R299). -/
inductive Dest where
  | none
  | slot (n : Nat) (b : Bool)
  | port (p : Nat)
  | block (b : Addr) (p : Nat)
  deriving DecidableEq, Repr, Inhabited

/-- One destination byte of slot i: a port, none when it is the slot's own operand A, or a slot (R266). -/
def destByte (isPort : Bool) (d : BitVec 8) (i : Nat) : Dest :=
  if isPort then .port (d.toNat % 16)
  else if d.toNat = i then .none
  else .slot (d.toNat % 128) (d.getLsbD 7)

def dest1 (t : Tmpl) (i : Nat) : Dest := destByte t.act.port1 t.d1 i
def dest2 (t : Tmpl) (i : Nat) : Dest := destByte t.act.port2 t.d2 i

/-- The destinations of an instruction at slot i: dest1, dest2, and dest3, dest4 of an XARG slot (R269). -/
def dests (t : Tmpl) (xt : Option Tmpl) (i : Nat) : List Dest :=
  [dest1 t i, dest2 t i] ++
    (match xt with
     | none => []
     | some y => [destByte false y.d1 (i + 1), destByte false y.d2 (i + 1)])

/-- The block and place a destination of a placed block leads to (R261). -/
def Placed.leads (p : Placed) : Dest → Option (Addr × Dst)
  | .none => none
  | .slot n b => some (p.blk, .slot n b)
  | .port q => ((p.links[q]?).getD none).map fun l => (l.1, .port l.2)
  | .block b q => some (b, .port q)

/-- A stream unit that drains a thread's tokens from an output port of a block, as data or as indices (R40, R63). -/
def Agen.drains (u : Agen) (b : Addr) (t : ThreadId) (port : Nat) : Bool :=
  u.blk == b && u.tag.extractLsb' 0 16 == t
    && ((u.ctl.getLsbD 30 && (u.ctl.extractLsb' 20 4).toNat == port)
        || (u.ctl.getLsbD 29 && (u.ctl.extractLsb' 12 4).toNat == port))

/-- Where a destination of a thread's firing leads: to a stream unit that drains the port, else through its link. -/
def Ctx.leads (k : Ctx) (p : Placed) (t : ThreadId) (d : Dest) : Option (Addr × Dst) :=
  match d with
  | .port q => if (k.share p.lcl).agens.any (fun e => e.2.drains p.blk t q) then some (p.blk, .out q) else p.leads d
  | _ => p.leads d

/-- Whether the instruction emits anywhere. -/
def anyDest (t : Tmpl) (xt : Option Tmpl) (i : Nat) : Bool := (dests t xt i).any (· != .none)

/-- One value on its way out of a slot, with the tag fields R285 gives it. `src` is the wave it belongs to when
that is not the firing's: a VRED release's (12 R343). -/
structure Em where
  dests : List Dest
  val : Value
  fmt : BitVec 3
  eor : Bool
  seq : Bool
  seqTag : BitVec 24
  wave : WaveId
  src : Option WaveId := none
  deriving DecidableEq, Repr, Inhabited

/-- A computing result: format, flags and sequence tag zero (R285). -/
def Em.plain (ds : List Dest) (v : Value) (w : WaveId) : Em :=
  { dests := ds, val := v, fmt := 0, eor := false, seq := false, seqTag := 0, wave := w }

/-- The tag actions EOR and SEQ set their flag on what is emitted in wave `fw` (R267, R285). -/
def Em.tagged (e : Em) (a : TagAction) (fw : WaveId) : Em :=
  match a with
  | .eor => { e with eor := true }
  | .seq => { e with seq := true, seqTag := fw }
  | _ => e

def Em.token (e : Em) (t : ThreadId) (urg : Bool) : Token :=
  { thread := t, wave := e.wave, fmt := e.fmt, eor := e.eor, seq := e.seq, urg := urg, seqTag := e.seqTag,
    value := e.val }

/-- Sends one emission of a thread's firing in wave `fw` to every destination that names something (R284). -/
def Ctx.send (k : Ctx) (p : Placed) (t : ThreadId) (fw : WaveId) (urg : Bool) (e : Em) : Ctx :=
  (e.dests.filterMap (k.leads p t)).foldl
    (fun k d => k.enter ⟨d.1, d.2, e.token t urg, false, false⟩ (.wave fw) (e.wave == fw)) k

/-- The first wave an emission cannot enter, with why. -/
def sendBlock (x : Thread) (es : List Em) : Option (WaveId × Entry) :=
  match (es.filter fun e => e.dests.any (· != .none)).find? fun e => x.entry e.wave != .go with
  | none => none
  | some e => some (e.wave, x.entry e.wave)

/-! ### Gates (R222, R225, R460) -/

/-- New wave numbers are closed to a context, or to one of its shares. -/
def Ctx.gateShut (k : Ctx) (l : Nat) : Bool := decide (k.gate ≥ 1) || k.halted || (k.share l).gated

/-! ### Scratchpad granules (03 R84 to R91) -/

def Gran.empty : Gran := { st := 0, readers := [], hold := none, sti := none, writers := [] }

def Share.gran (h : Share) (g : Nat) : Gran := tgetD h.grans g Gran.empty

def Share.setGran (h : Share) (g : Nat) (x : Gran) : Share :=
  { h with grans := if x = Gran.empty then tdel h.grans g else tset h.grans g x }

/-- The state a granule shows: a consume-held or STI-reserved one reads EMPTY (R88, R91). -/
def Gran.view (g : Gran) : BitVec 2 := if g.hold.isSome || g.sti.isSome then 0 else g.st

/-- The bytes a load finds: zeros on a WAITING granule (R87). -/
def Share.load (h : Share) (off : Nat) : Nat → List Byte
  | 0 => []
  | n + 1 => (if (h.gran (off / 16)).st = 2 then 0 else rd h.bytes off) :: Share.load h (off + 1) n

/-- A tile is an engine's, or reserved for one by an OWN probe (R90, R364). -/
def Share.engineTile (h : Share) (tile : Nat) : Bool := h.engine.contains tile
def Share.reservedTile (h : Share) (tile : Nat) : Bool := h.ownRes.any (·.1 == tile)

/-- The operation of a wave with an OWN number. -/
def Wave.op (v : Wave) (own : BitVec 8) : Option MemOp := v.ops.find? (·.m.own == own)

/-- Some place receives the results. -/
def Route.any (r : Route) : Bool := !(r.to1.isEmpty && r.to2.isEmpty)

/-- Puts a result of an operation fired in wave `fw` into wave `w`: `v1` to every destination but dest2, `v2`
to dest2 (R285, R347, R400). -/
def Ctx.put (k : Ctx) (t : ThreadId) (fw w : WaveId) (r : Route) (v1 v2 : Value) : Ctx :=
  let tok := fun v => ((Em.plain [] v w).tagged r.act fw).token t r.urg
  let k1 := r.to1.foldl (fun k d => k.enter ⟨d.1, d.2, tok v1, false, false⟩ (.wave fw) (w == fw)) k
  r.to2.foldl (fun k d => k.enter ⟨d.1, d.2, tok v2, false, false⟩ (.wave fw) (w == fw)) k1

/-- A load's value is bound: its operation is marked and the value emitted into its wave, or into the wave
after it under a tag action that adds (R106, R347). -/
def Ctx.bind (k : Ctx) (th : ThreadId) (w : WaveId) (own : BitVec 8) (v : Value) : Ctx :=
  match (k.wv th w).bind (·.op own) with
  | none => k
  | some o =>
    let k1 := k.modWv th w fun x =>
      { x with ops := updFirst (fun y => y.m.own == own) (fun y => { y with bound := true, parked := false }) x.ops }
    let k2 := k1.put th w o.out o.rt v v
    let k3 := if o.parked && o.m.scp != 0 then { k2 with discards := k2.discards ++ ((k.th th).map (·.lcl)).toList } else k2
    if o.out != w && o.rt.any then k3.paid th o.out else k3

/-- Whether a deferred reader is answered by a fill, given that a consuming reader before it has been
(R89). -/
def Reader.served (r : Reader) (stopped : Bool) : Bool := r.kind == 0 || !stopped

/-- Splits a reader list into those a fill answers, those that stay, and the consumer, if any (R89). -/
def splitReaders : List Reader → Bool → List Reader × List Reader × Option Reader
  | [], _ => ([], [], none)
  | r :: rest, stopped =>
    if r.served stopped then
      let (a, q, c) := splitReaders rest (stopped || r.kind == 2)
      (r :: a, q, if r.kind == 2 then some r else c)
    else
      let (a, q, c) := splitReaders rest stopped
      (a, r :: q, c)

/-- Answers readers with 16 bytes of a granule. -/
def Ctx.answerAll (k : Ctx) (bytes : List Byte) : List Reader → Ctx
  | [] => k
  | r :: rest =>
    Ctx.answerAll (k.bind r.thread r.wave r.own (BitVec.ofNat 128 (fieldAt bytes r.off r.sz))) bytes rest

/-- A granule becomes FULL: queued readers are answered, and a consuming one takes a hold (R88, R89). -/
def Ctx.filled (k : Ctx) (l g : Nat) : Ctx :=
  let h := k.share l
  let x := h.gran g
  let bytes := rdN h.bytes (16 * g) 16
  let (ans, rest, con) := splitReaders x.readers false
  let x1 : Gran := match con with
    | some r => { x with st := 0, readers := rest, hold := some ⟨r.thread, r.wave, bytes⟩ }
    | none => { x with st := 1, readers := rest, hold := none }
  (k.setShare (h.setGran g x1)).answerAll bytes ans

/-- Zeroes the granule's bytes before a write to a WAITING granule, whose bytes held the list head (R87,
R89). -/
def Share.settle (h : Share) (g : Nat) : Share :=
  if (h.gran g).st = 2 then { h with bytes := wrN h.bytes (16 * g) (List.replicate 16 0) } else h

/-- The consume hold of a granule ends with its wave's commit (R88). -/
def Gran.holdEnd (x : Gran) : Gran :=
  { x with hold := none, st := if x.readers.isEmpty then 0 else 2 }

/-- Ends by commit every consume hold of a wave. -/
def Ctx.endHolds (k : Ctx) (t : ThreadId) (w : WaveId) : Ctx :=
  { k with shares := k.shares.map fun h =>
      { h with grans := (h.grans.map fun e =>
          match e.2.hold with
          | some o => if o.thread == t && o.wave == w then (e.1, e.2.holdEnd) else e
          | none => e).filter fun e => e.2 != Gran.empty } }

/-! ### VRED roll back (12 R343) and kept operands (R56) -/

/-- A newest-first log cut at its oldest dropped step: the steps undone, then those kept. -/
def cutLog (dropped : WaveId → Bool) (log : List VStep) : List VStep × List VStep :=
  match log.reverse.findIdx? (fun st => dropped st.con.wave) with
  | none => ([], log)
  | some i => ((log.reverse.drop i).reverse, (log.reverse.take i).reverse)

/-- The register after the waves that a test names are dropped. The contributions taken back wait to be added again, and count as
consumed. -/
def Vred.rollback (v : Vred) (dropped : WaveId → Bool) : Vred :=
  let (undone, keep) := cutLog dropped v.log
  let held := (v.held ++ undone.reverse.map fun (st : VStep) => { st.con with spent := true }).filter fun c => !dropped c.wave
  match undone.getLast? with
  | none => { v with held := held }
  | some st => { v with sum := st.sumBefore, nextSeq := st.nextBefore, young := st.youngBefore,
                        held := held, log := keep }

/-! ### Taking a fault (R38, R213, R214, R286) -/

/-- Unlinks a thread's dropped readers, STI and OWN reservations from a share (R89, R91, R364). -/
def Share.unlink (h : Share) (t : ThreadId) (gone : WaveId → Bool) : Share :=
  let mine (th : ThreadId) (w : WaveId) : Bool := th == t && gone w
  { h with
    ownRes := h.ownRes.filter fun r => !mine r.2.1 r.2.2
    doms := h.doms.map fun e => (e.1, { e.2 with
      queue := e.2.queue.map fun (q : DomCmd) => if mine q.thread q.wave then { q with hold := false } else q })
    grans := (h.grans.map fun e =>
      let rs := e.2.readers.filter fun r => !mine r.thread r.wave
      (e.1, { e.2 with
        readers := rs
        st := if e.2.st = 2 && rs.isEmpty then 0 else e.2.st
        sti := e.2.sti.filter fun r => !mine r.1 r.2 })).filter fun e => e.2 != Gran.empty }

/-- The granules of a share that a thread's dropped waves hold. -/
def Share.heldBy (h : Share) (t : ThreadId) (gone : WaveId → Bool) : List Nat :=
  h.grans.filterMap fun e =>
    match e.2.hold with
    | some o => if o.thread == t && gone o.wave then some e.1 else none
    | none => none

/-- Restores the consume holds of dropped waves; each restoration counts as a fill (R88). -/
def Ctx.restoreHolds (k : Ctx) (t : ThreadId) (gone : WaveId → Bool) : Ctx :=
  let all := k.shares.flatMap fun h => (h.heldBy t gone).map fun g => (h.lcl, g)
  all.foldl (fun k q => k.filled q.1 q.2) k

/-- Drops the waves of a thread that a test names: tokens squashed, kept operands, VRED registers, readers
and reservations rolled back. Consume holds, and the waves themselves, are left to the caller (R38, R214). -/
def Ctx.squashWaves (k : Ctx) (t : ThreadId) (gone : WaveId → Bool) : Ctx :=
  let k1 := { k with
    tokens := k.tokens.filter fun a => !(a.tok.thread == t && gone a.tok.wave && !a.held)
    spilled := k.spilled.filter fun a => !(a.tok.thread == t && gone a.tok.wave)
    kept := k.kept.filter fun e => !(e.tok.thread == t && gone e.tok.wave && !e.final)
    vreds := k.vreds.map fun (v : Vred) => if v.thread == t then v.rollback gone else v
    parks := k.parks.filter fun q => !(q.1 == t && gone q.2.1 && (k.wv t q.2.1).isSome)
    gated := k.gated.filter fun a => !(a.site.thread == t && gone a.site.wave)
    shares := k.shares.map fun (h : Share) => h.unlink t gone }
  k1.modTh t fun x =>
    { x with
      waves := x.waves.filter fun v => !gone v.num
      skips := x.skips.filter fun p => !gone p.1
      state := if x.state = 3 && !(x.waves.any fun v => !gone v.num && v.tend) then 1 else x.state }

/-- The same with the consume holds restored (R88). -/
def Ctx.dropWaves (k : Ctx) (t : ThreadId) (gone : WaveId → Bool) : Ctx := (k.squashWaves t gone).restoreHolds t gone

/-- What is left of a dropped wave: its number, block, entry log and the results still due to it. -/
def Wave.husk (v : Wave) : Wave :=
  { v with ops := [], order := [], drains := [], defs := [], flags := 0, tend := false, reserve := false }

/-- Matrix commands that hold a wave of a thread from commit (R378). -/
def Ctx.matrixHolds (k : Ctx) (t : ThreadId) (w : WaveId) : Nat :=
  k.shares.foldl (fun n h => h.doms.foldl (fun n e =>
    n + (e.2.queue.filter fun q => q.hold && q.thread == t && q.wave == w).length) n) 0

/-- The husk of a wave dropped from wave `w` on: results of the wave before stay due to the first dropped wave
alone, since a replay makes the others again. -/
def Ctx.huskOf (k : Ctx) (t : ThreadId) (w : WaveId) (v : Wave) : Wave :=
  { v.husk with holds := if v.num == w then v.holds - k.matrixHolds t w else 0 }

/-- A fault found in wave `r.wave` of thread `t`: that wave and every younger one is dropped, their logs are
kept, and the record waits for delivery. A fault already found in an older wave stands, and a delivered one is never
superseded; one found in a younger wave is discarded (R213). -/
def Ctx.raise (k : Ctx) (t : ThreadId) (r : FaultRec) : Ctx :=
  match k.th t with
  | none => k
  | some x =>
    if x.isDropped r.wave || x.delivered then k
    else
      let gone := fun w => notOlder r.wave w
      let husks := (x.waves.filter fun v => gone v.num).map (k.huskOf t r.wave)
      ((k.squashWaves t gone).modTh t fun y =>
        { y with fault := some r, delivered := false, seqNo := none,
                 dropped := husks ++ x.dropped.filter fun v => !(husks.any (·.num == v.num)) }).restoreHolds t gone

/-- What a record says of slot `i` of a placed block. -/
def Placed.seen (p : Placed) (i : Nat) : Seen :=
  let q := (p.slots[i]?).getD default
  { pe := BitVec.ofNat 8 ((p.at_[i]?).map (·.1) |>.getD 0), seat := p.seat, template := q.tmpl, short := q.short,
    side := if q.sideP then q.side else 0, poff := BitVec.ofNat 16 q.poff, slot := BitVec.ofNat 8 i, gen := p.gen }

/-- A fault record for a slot, from what is known of it (R212). -/
def Ctx.seenRec (k : Ctx) (x : Thread) (b : Addr) (n : Seen) (w : WaveId) (cause origin : BitVec 8)
    (detail : BitVec 24) (faddr : BitVec 64) : FaultRec :=
  { cause := cause, origin := origin, thread := x.num, wave := w, pe := n.pe, launch := x.ln, block := b, faddr := faddr,
    template := n.template, short := n.short, side := n.side, poff := n.poff, slot := n.slot, lcl := BitVec.ofNat 8 x.lcl,
    phys := BitVec.ofNat 8 (k.phys n.seat), detail := detail, gen := n.gen }

/-- A fault record for a slot of a placed block (R212). -/
def Ctx.slotRec (k : Ctx) (x : Thread) (p : Placed) (i : Nat) (w : WaveId) (cause origin : BitVec 8)
    (detail : BitVec 24) (faddr : BitVec 64) : FaultRec :=
  k.seenRec x p.blk (p.seen i) w cause origin detail faddr

/-- The address of a block as a register or a record shows it: an entry token's mark is none (10 R260). -/
def shownBlock (b : Addr) : Addr := if b.getLsbD 63 then 0 else b

/-- A fault record that names no slot. -/
def Ctx.bareRec (k : Ctx) (x : Thread) (b : Addr) (w : WaveId) (cause origin : BitVec 8) (detail : BitVec 24)
    (faddr : BitVec 64) : FaultRec :=
  { cause := cause, origin := origin, thread := x.num, wave := w, pe := 0, launch := x.ln, block := shownBlock b,
    faddr := faddr, template := 0, short := 0, side := 0, poff := 0, slot := 0, lcl := BitVec.ofNat 8 x.lcl,
    phys := BitVec.ofNat 8 (k.phys x.lcl), detail := detail, gen := 0 }

/-- A fault of an operation fired from a slot of block `b`, which may have left its slots since, in wave `w` of a
thread. -/
def Ctx.raiseAt (k : Ctx) (t : ThreadId) (b : Addr) (n : Seen) (w : WaveId) (cause origin : BitVec 8)
    (detail : BitVec 24) (faddr : BitVec 64) : Ctx :=
  match k.th t with
  | none => k
  | some x => k.raise t (k.seenRec x b n w cause origin detail faddr)

/-- The wave in which a fault after commit is raised: the oldest uncommitted one, dropped ones among them, or else the
wave the token was sent into (R286). -/
def Thread.lateWave (x : Thread) (sent : WaveId) : WaveId :=
  (((x.oldestOf x.uncommitted).map (·.num)).or (x.fault.map (·.wave))).getD sent

/-- Emits the result of a committed operation into the wave after its own (R108, R398): nowhere when its
thread has ended, held in the matching store while a gate is shut, and a WAVE-ORDER of detail 2 when that
number was skipped (R286, R291). -/
def Ctx.emitLate (k : Ctx) (c : Committed) (blk : Addr) (seen : Seen) (r : Route) (v1 v2 : Value) : Ctx :=
  match k.th c.thread with
  | none => k
  | some x =>
    if x.born != c.born || !c.due then k
    else if x.entry (c.wave + 1) = .skipped || x.entry (c.wave + 1) = .committed then
      k.raiseAt c.thread blk seen (x.lateWave (c.wave + 1)) 0x0C 2 2 0
    else
      let tok := fun v => ((Em.plain [] v (c.wave + 1)).tagged r.act c.wave).token c.thread r.urg
      let k1 := if k.gateShut c.lcl then
          { k with tokens := k.tokens ++ r.to1.map (fun d => ⟨d.1, d.2, tok v1, false, true⟩)
                              ++ r.to2.map (fun d => ⟨d.1, d.2, tok v2, false, true⟩) }
        else k.put c.thread c.wave (c.wave + 1) r v1 v2
      if c.owed then k1.paid c.thread (c.wave + 1) else k1

/-- The array's mode bit falls with the last MATRIX block of a domain whose queue is empty (R39). -/
def Ctx.modeFall (k : Ctx) (l d : Nat) : Ctx :=
  let busy := k.placed.any fun p => p.seat == l && p.matrix && p.at_.any fun q => q.1 / 8 == d
  let h := k.share l
  if !busy && (h.dom d).queue.isEmpty && (h.dom d).mode then k.setShare (h.setDom d { h.dom d with mode := false }) else k

/-- The mode bits of every domain that holds no MATRIX block any more. -/
def Ctx.modesFall (k : Ctx) : Ctx :=
  (k.shares.flatMap fun h => h.doms.map fun e => (h.lcl, e.1)).foldl (fun k q => k.modeFall q.1 q.2) k

/-- Makes sure that the result a committed operation still owes is counted in the wave after its own. -/
def Ctx.oweResult (k : Ctx) (c : Committed) : Ctx × Committed :=
  match k.th c.thread with
  | none => (k, c)
  | some x =>
    if c.owed || !c.due || x.born != c.born || x.entry (c.wave + 1) != .go
        || (k.gateShut c.lcl && (x.wv (c.wave + 1)).isNone) then (k, c)
    else (k.owe c.thread (c.wave + 1) x.lastBlk, { c with owed := true })

/-- Every result still owed is counted in its wave. -/
def Ctx.oweResults (k : Ctx) : Ctx :=
  let r := k.committed.foldl (fun (q : Ctx × List Committed) c => let o := q.1.oweResult c; (o.1, q.2 ++ [o.2])) (k, [])
  { r.1 with committed := r.2 }

/-- The gate of a thread's share, or of its whole context, is shut. -/
def Ctx.shutFor (k : Ctx) (t : ThreadId) : Bool := match k.th t with | some x => k.gateShut x.lcl | none => false

/-- Held results enter their waves where the gate is open (R222, step 1), and held firings may take place (18 R460). -/
def Ctx.feedHeld (k : Ctx) : Ctx :=
  let go (a : Arrived) : Bool := a.held && !k.shutFor a.tok.thread
  ((k.tokens.filter go).foldl (fun (k : Ctx) a => k.enter { a with held := false } (.wave (a.tok.wave - 1)) false)
    { k with tokens := k.tokens.filter fun a => !go a, gated := k.gated.filter fun a => k.shutFor a.site.thread }).oweResults

/-- Resumes a thread whose delivered fault is resolved: every logged token whose source lies outside the
dropped waves is fed again, in wave order, and results still due stay due (R215, R436). -/
def Ctx.refeed (k : Ctx) (t : ThreadId) : Ctx :=
  match k.th t with
  | none => k
  | some x =>
    let gone := x.dropped.map (·.num)
    let outside (r : LogRec) : Bool :=
      match r.src with
      | .outside => true
      | .wave w => !gone.contains w
    let k1 := k.setTh { x with fault := none, delivered := false, seqNo := none, dropped := [],
                               state := if x.state = 2 then 1 else x.state }
    let k2 := (x.dropped.filter fun v => v.holds != 0).foldl
      (fun k v => (List.range v.holds).foldl (fun k _ => k.owe t v.num v.blk) k) k1
    ((x.dropped.flatMap (·.log)).filter outside).foldl (fun k r => k.enter r.arr r.src false) k2

end Sys2Proof.Machine
end

