-- ==== Sys2Proof/Machine/Operands.lean ====
section
/-! DEFINITION. Every operand form (01 R24, R25, 10 R268 to R271, 11 R283 to R285) and the firing of an
instruction: readiness, gates, breakpoints, shadow evaluation, consumption and emission (01 R33 to R36, 08
R217, R220, 11 R286). -/

namespace Sys2Proof.Machine

/-- Bits 63:0 of an operand, bits 127:64 of a result zero (R24). -/
def lo64 (v : Value) : BitVec 64 := v.extractLsb' 0 64
def scalar (v : BitVec 64) : Value := v.zeroExtend 128

/-- A predicate is true when bits 63:0 are not zero (R24). -/
def pred (v : Value) : Bool := lo64 v != 0

/-- The tag word of a firing (R25). -/
def tagWord (t : ThreadId) (w : WaveId) : Value := ((0 : BitVec 88) ++ w ++ t)

/-- What selects 01 and 10 read: the literal of each operand, and the constant-file index. -/
structure Lits where
  a : Value
  b : Value
  cf : Nat
  deriving DecidableEq, Repr, Inhabited

/-- Form L: the word sign-extended to bits 63:0; [3:0] names the cf entry (R271). -/
def litL (l : FormL) : Lits :=
  { a := scalar (l.word.signExtend 64), b := scalar (l.word.signExtend 64), cf := l.word.toNat % 16 }

/-- Form G of group I: IMM16 sign-extended to bits 63:0 (R270). -/
def litG (g : FormG) : Lits :=
  { a := scalar (g.imm.signExtend 64), b := scalar (g.imm.signExtend 64), cf := g.cfx.toNat }

/-- The literal of group V: IMM16 as one element of TY, copied to every lane (R270). -/
def elemLit (ty : Nat) (imm : BitVec 16) : Nat :=
  match ty with
  | 0 => imm.toNat * 0x10000
  | 1 | 2 => imm.toNat
  | 3 | 7 | 11 | 12 => imm.toNat % 256
  | 4 | 8 => imm.toNat
  | 5 => (imm.signExtend 32).toNat
  | 6 => (imm.signExtend 64).toNat
  | _ => imm.toNat

/-- One element copied to every lane of a width. -/
def splat (w e : Nat) : Value := BitVec.ofNat 128 ((List.range (128 / w)).foldl (fun acc i => acc + e * 2 ^ (w * i)) 0)

/-- Form G of group V (R270). VSCALE reads its literal B as an integer of the element width (R330). -/
def litV (g : FormG) (scaleB : Bool) : Lits :=
  let ty := g.ty.toNat
  let w := tyWidth ty
  { a := splat w (elemLit ty g.imm)
    b := if scaleB then splat w (if w = 32 then (g.imm.signExtend 32).toNat else g.imm.toNat)
         else splat w (elemLit ty g.imm)
    cf := g.cfx.toNat }

/-- Forms without a literal or an index. -/
def noLits : Lits := { a := 0, b := 0, cf := 0 }

/-- Form X: CFX names a cf entry for the meaning, not for a select (R273). -/
def litX (_ : FormX) : Lits := noLits

/-- The operands of a firing: values, the tokens they came from, and which tokens are consumed. -/
structure Args where
  a : Value
  b : Value
  c : Value
  ta : Option Token
  tb : Option Token
  tc : Option Token
  useA : Bool
  useB : Bool
  useC : Bool
  deriving DecidableEq, Repr, Inhabited

/-- A token's place and tag are those of operand A (or B) of slot i in a thread's wave (R23). -/
def isOperand (p : Placed) (t : ThreadId) (w : WaveId) (i : Nat) (b : Bool) (a : Arrived) : Bool :=
  a.blk == p.blk && p.meets a.dst i b && a.tok.thread == t && a.tok.wave == w && !a.old && !a.held

/-- The earliest arrived token for an operand (R35). -/
def Ctx.arrived (k : Ctx) (p : Placed) (t : ThreadId) (w : WaveId) (i : Nat) (b : Bool) : Option Token :=
  (k.tokens.find? (isOperand p t w i b)).map (·.tok)

/-- The kept operand of a slot for a thread (R35, R54). -/
def Ctx.keptAt (k : Ctx) (p : Placed) (t : ThreadId) (i : Nat) (b : Bool) : Option Token :=
  (k.kept.find? fun e => e.blk == p.blk && e.slot == i && e.b == b && e.tok.thread == t).map (·.tok)

/-- One operand: its value, its token, and whether the token is consumed; none while it is missing. A B taken from A has A's value
and, like a literal, a constant or a tag word, no token of its own: where B is passed on, its tag fields are zero. R285 names the
three others only (DESIGN CHOICE, log entry 145). -/
def Ctx.operand (k : Ctx) (p : Placed) (t : ThreadId) (w : WaveId) (i : Nat) (b keeps : Bool) (sel : Sel)
    (lit : Value) (cf : Nat) (other : Value) : Option (Value × Option Token × Bool) :=
  match sel with
  | .tok =>
    match k.arrived p t w i b with
    | some x => some (x.value, some x, true)
    | none => if keeps then (k.keptAt p t i b).map fun x => (x.value, some x, false) else none
  | .lit => some (lit, none, false)
  | .cf => some ((p.cf[cf]?).getD 0, none, false)
  | .tagDup => some (other, none, false)

/-- The operands of an instruction at slot i, when all are present and at least one token has arrived with
the firing's tag (R283, R284). -/
def Ctx.gather (k : Ctx) (p : Placed) (t : ThreadId) (w : WaveId) (i : Nat) (m : Tmpl) (xa : Option XArg)
    (takesB : Bool) (l : Lits) : Option Args :=
  match k.operand p t w i false m.act.keepsA m.sa l.a l.cf (tagWord t w) with
  | none => none
  | some (a, ta, ua) =>
    match (if takesB then k.operand p t w i true m.act.keepsB m.sb l.b l.cf a else some (0, none, false)) with
    | none => none
    | some (b, tb, ub) =>
      match (match xa with
             | none => some (0, none, false)
             | some y => k.operand p t w (i + 1) false false y.t.sa (litL y.l).a (litL y.l).cf (tagWord t w)) with
      | none => none
      | some (c, tc, uc) =>
        if ua || ub || uc then
          some { a := a, b := b, c := c, ta := ta, tb := tb, tc := tc, useA := ua, useB := ub, useC := uc }
        else none

/-- Takes one consumed token out of the matching store. -/
def Ctx.take (k : Ctx) (p : Placed) (t : ThreadId) (w : WaveId) (i : Nat) (b used : Bool) : Ctx :=
  if used then { k with tokens := dropFirst (isOperand p t w i b) k.tokens } else k

/-- A token becomes the kept operand of its slot and thread, provisionally until its wave commits (R35,
R56). -/
def Ctx.keep (k : Ctx) (p : Placed) (i : Nat) (b used : Bool) (tok : Option Token) : Ctx :=
  match tok with
  | some x => if used then { k with kept := ⟨p.blk, i, b, x, false⟩ :: k.kept } else k
  | none => k

/-- Consumes the operand tokens of a firing and keeps those its tag action keeps. -/
def Ctx.consume (k : Ctx) (p : Placed) (t : ThreadId) (w : WaveId) (i : Nat) (m : Tmpl) (q : Args) : Ctx :=
  let k1 := ((k.take p t w i false q.useA).take p t w i true q.useB).take p t w (i + 1) false q.useC
  (k1.keep p i false (q.useA && m.act.keepsA) q.ta).keep p i true (q.useB && m.act.keepsB) q.tb

/-- A firing about to take place. -/
structure Fire where
  k : Ctx
  x : Thread
  p : Placed
  i : Nat
  w : WaveId
  t : Tmpl
  xt : Option Tmpl
  q : Args
  deriving Repr, Inhabited

/-- What an instruction does at its firing: emissions with the exception flags raised and a further change
of its context; a precise fault of the firing, or of its probe
(ORIGIN 2), with its detail and address; a fault with an effect that stands all the same (R376); nothing yet; or nothing
until a gate opens, because it would start a new wave (18 R460). -/
inductive Sem where
  | act (es : List Em) (flags : BitVec 5) (f : Ctx → Ctx)
  | raise (cause : BitVec 8) (detail : BitVec 24) (faddr : BitVec 64)
  | probe (cause : BitVec 8) (detail : BitVec 24) (faddr : BitVec 64)
  | strike (cause origin : BitVec 8) (detail : BitVec 24) (f : Ctx → Ctx)
  | wait
  | gated

/-- The wave a firing's emissions take (R267, R284). -/
def Fire.outWave (f : Fire) : WaveId := if f.t.act.adds then f.w + 1 else f.w

/-- All destinations of the firing's instruction. -/
def Fire.all (f : Fire) : List Dest := dests f.t f.xt f.i

/-- Where the firing's results go (R347). -/
def Fire.route (f : Fire) : Route :=
  { act := f.t.act, urg := (f.p.slots[f.i]?).map (·.urgent) == some true
    to1 := (dest1 f.t f.i :: (dests f.t f.xt f.i).drop 2).filterMap (f.k.leads f.p f.x.num)
    to2 := [dest2 f.t f.i].filterMap (f.k.leads f.p f.x.num) }

/-- The wave that a firing's emission starts: for WSET (opcode 0x09) the one that B names, else the next (R290, R291). -/
def Fire.startedWave (f : Fire) : WaveId :=
  if (f.p.words f.i).tmpl.extractLsb' 24 8 = 0x09#8 then f.q.b.extractLsb' 0 24 else f.w + 1

/-- The wave a firing takes part in: its own, or, when a gate held it until that committed, the one it
starts (R460). -/
def Fire.live (f : Fire) : WaveId := if (f.x.wv f.w).isSome then f.w else f.startedWave

/-- A computing result sent to every destination (R285). -/
def Fire.result (f : Fire) (v : Value) (flags : BitVec 5 := 0) : Sem :=
  .act [(Em.plain f.all v f.outWave).tagged f.t.act f.w] flags id

/-- The emission of a passed operand: its own format, EOR, SEQ and sequence tag (R285). -/
def Fire.pass (f : Fire) (ds : List Dest) (v : Value) (tok : Option Token) (w : WaveId) : Em :=
  Em.tagged (match tok with
    | none => Em.plain ds v w
    | some x => { dests := ds, val := v, fmt := x.fmt, eor := x.eor, seq := x.seq,
                  seqTag := if x.seq then x.seqTag else 0, wave := w }) f.t.act f.w

/-- The whole firing of `Sem.act`, on the context: operands consumed, the change made, flags added to the
wave, and every emission sent (R35, R67, R284). -/
def Fire.apply (f : Fire) (es : List Em) (flags : BitVec 5) (g : Ctx → Ctx) : Ctx :=
  let urg := (f.p.slots[f.i]?).map (·.urgent) == some true
  let k1 := g (f.k.consume f.p f.x.num f.w f.i f.t f.q)
  let k2 := es.foldl (fun k e => k.send f.p f.x.num (e.src.getD f.w) urg e) k1
  let k3 := k2.modWv f.x.num f.live fun v => { v with flags := v.flags ||| flags }
  let k4 := (k3.perfAdd f.p.lcl 0 1).perfAdd f.p.lcl 1 (if urg then 1 else 0)
  k4

/-- A firing makes its block the most recently used (R29). -/
def Ctx.touchBlock (k : Ctx) (p : Placed) (tick : Nat) : Ctx :=
  { k with placed := k.placed.map fun (q : Placed) =>
      if q.ln == p.ln && q.lcl == p.lcl && q.blk == p.blk then { q with lastUse := tick } else q }

/-! ### The module around a firing -/

/-- The domain a slot's PE belongs to, counted over the module: physical cluster × 16 + PE / 8. -/
def Fire.domain (f : Fire) : Nat :=
  f.k.seatOf f.p * 16 + ((f.p.at_[f.i]?).map (·.1) |>.getD 0) / 8

/-- PWR.DOM at cold reset: nothing granted (07 R207). -/
def PwrDom.zero : PwrDom := { ballast := 0, used := 0, grant := 0, usedNow := 0, ballastNow := 0 }

/-- A domain may fire: the spine in effect is not spine 7 (02 R72, 16 R454), a power token of the current interval is left (01 R33,
07 R207), and the ballast firings that fill the end of an interval have not begun (16 R453, log entry 147). -/
def State.powered (s : State) (d : Nat) : Bool :=
  let w := tgetD s.pwrdom d PwrDom.zero
  tgetD s.spnow d 0 != 7 && decide (w.usedNow.toNat < w.grant.toNat) && w.ballastNow = 0

def State.usePower (s : State) (d : Nat) : State :=
  let w := tgetD s.pwrdom d PwrDom.zero
  { s with pwrdom := tset s.pwrdom d { w with usedNow := w.usedNow + 1 } }

/-- The breakpoint a firing matches, if the port is active on its context (02 R75). -/
def State.breakpoint (s : State) (c : CtxId) (t : ThreadId) (b : Addr) (i : Nat) : Option Nat :=
  if s.dbg.en && s.dbg.ctx == c && (s.dbg.allthr || s.dbg.thread == t) then
    (List.range 4).find? fun n =>
      let r := tgetD s.dbg.bkpt n 0
      r.getLsbD 63 && (r.extractLsb' 56 7).toNat == i && r.extractLsb' 4 52 == b.extractLsb' 4 52
  else none

/-- The context is gated and held, and DBG.STAT records the firing (02 R75, 15 R434). DESIGN CHOICE: DBG.CTL[HALT] stays as
it was written (log entry 51). -/
def State.debugHalt (s : State) (c : CtxId) (t : ThreadId) (w : WaveId) (cause : BitVec 8) (stopped : Option Site) : State :=
  { s.modCtx c (fun k => { k with halted := true }) with
    dbg := { s.dbg with halted := true, statThread := t, wave := w, cause := cause, stopped := stopped } }

/-- A firing that was let past its breakpoint has taken place. -/
def Dbg.passed (d : Dbg) (a : Site) : Dbg := { d with pass := if d.pass = some a then none else d.pass }

/-- A unit's score after a change, saturating at 0 and 65,535; a retired unit's score stands, and one of 4,096 or more retires
its unit once (07 R203). -/
def Score.add (r : Score) (d : Int) : Score :=
  if r.retired then r
  else
    let n := Nat.min 65535 (r.score.toNat + d).toNat
    { r with score := BitVec.ofNat 16 n, doomed := r.doomed || decide (4096 ≤ n) }

def State.scoreOf (s : State) (u : RetUnit) : Score :=
  ((s.scores.find? (·.1 == u)).map (·.2)).getD { retired := false, doomed := false, score := 0 }

def State.setScore (s : State) (u : RetUnit) (r : Score) : State :=
  { s with scores := if s.scores.any (·.1 == u) then updFirst (·.1 == u) (fun _ => (u, r)) s.scores
                     else s.scores ++ [(u, r)] }

/-- The management controller copies a score to flash (07 R204). -/
def State.flashScore (s : State) (u : RetUnit) : State :=
  { s with flash := { s.flash with
      scores := (s.flash.scores.filter (·.1 != u)) ++ [(u, (s.scoreOf u).score)] } }

/-- Adds to a unit's score; a crossing of 512 in either direction copies it to flash (07 R203, R204). -/
def State.addScore (s : State) (u : RetUnit) (d : Int) : State :=
  let r := s.scoreOf u
  let r1 := r.add d
  let s1 := s.setScore u r1
  if decide (r.score.toNat ≥ 512) != decide (r1.score.toNat ≥ 512) then s1.flashScore u else s1

/-- The retirable unit of a physical cluster (06 R194). -/
def clusterUnit (n : Nat) : RetUnit := { kind := 0, unit := BitVec.ofNat 16 n }

/-- A firing's precise fault: nothing consumed, nothing emitted, the wave dropped (R35, R286). -/
def State.fireFault (s : State) (f : Fire) (cause origin : BitVec 8) (detail : BitVec 24) (faddr : BitVec 64) : State :=
  s.setCtx (f.k.raise f.x.num (f.k.slotRec f.x f.p f.i f.live cause origin detail faddr))

/-- The firing at the focus, with the operands that `get` finds for it. -/
def State.firingOf (s : State) (m : Tmpl) (xt : Option Tmpl) (get : Ctx → Thread → Placed → Option Args) : Option Fire :=
  match s.active s.focus.ctx with
  | none => none
  | some k =>
    match k.th s.focus.thread with
    | none => none
    | some x =>
      match k.placedAt x s.focus.blk with
      | none => none
      | some p =>
        match get k x p with
        | none => none
        | some q => some { k := { k with stalled := false }, x := x, p := p, i := s.focus.slot, w := s.focus.wave,
                           t := m, xt := xt, q := q }

/-- The firing the focus names, with its operands, when it is ready (R33). -/
def State.ready (s : State) (m : Tmpl) (xa : Option XArg) (takesB : Bool) (l : Lits) : Option Fire :=
  s.firingOf m (xa.map (·.t)) fun k x p => k.gather p x.num s.focus.wave s.focus.slot m xa takesB l

/-- The places in a block that lead to operand A (or B) of slot i: the operand itself, and the ports bound to it. -/
def Placed.placesOf (p : Placed) (i : Nat) (b : Bool) : List Dst :=
  .slot i b :: (((List.range p.ports.length).map Dst.port).filter fun d => p.meets d i b)

/-- A gate holds a firing (18 R460): the operands whose tokens stand at its slot are remembered by their places. -/
def State.holdFiring (s : State) (f : Fire) : State :=
  let ops := (if f.q.useA then [f.p.placesOf f.i false] else []) ++ (if f.q.useB then [f.p.placesOf f.i true] else [])
    ++ (if f.q.useC then [f.p.placesOf (f.i + 1) false] else [])
  s.modCtx s.focus.ctx fun k =>
    { k with gated := if k.gated.any (·.site == s.focus) then k.gated else k.gated ++ [⟨s.focus, ops⟩] }

/-- The slot that fires is urgent (R33). -/
def Fire.urgent (f : Fire) : Bool := (f.p.slots[f.i]?).map (·.urgent) == some true

/-! ### The order of a PE (R33, R34) -/

/-- The operands of a slot are all there for a thread and wave (R35). -/
def Ctx.readyAt (k : Ctx) (x : Thread) (p : Placed) (i : Nat) (w : WaveId) : Bool :=
  let ws := p.words i
  let op := (ws.tmpl.extractLsb' 24 8).toNat
  match Tmpl.dec ws.tmpl with
  | none => false
  | some t =>
    op != 0x0F && !(k.gated.any (·.site == ⟨k.num, p.blk, i, x.num, w⟩)) &&
      (k.gather p x.num w i t (if threeInput op then XArg.dec ws.xtmpl ws.xside else none) (takesB op ws.side) noLits).isSome

/-- The lexicographic order. -/
def lexBefore : List Nat → List Nat → Bool
  | a :: r, b :: q => decide (a < b) || (a == b && lexBefore r q)
  | [], _ :: _ => true
  | _, [] => false

/-- The physical slot of slot i of a placed block: cluster, PE and slot of the PE. -/
def Ctx.standsAt (k : Ctx) (p : Placed) (i : Nat) : Nat × Nat × Nat :=
  let q := (p.at_[i]?).getD (0, 0)
  (k.seatOf p, q.1, q.2)

/-- How far a wave stands from its thread's oldest: 0 for one that has committed, whose held firing is still to come (18 R460). -/
def Thread.waveAge (x : Thread) (w : WaveId) : Nat := if older w x.base then 0 else wdist x.base w

/-- Where R33 puts a ready instruction among those of its PE: urgent ones first, but after three urgent firings the others (R34),
then the oldest launch, thread and wave, then the lowest slot. -/
def Ctx.rank (k : Ctx) (x : Thread) (p : Placed) (i : Nat) (w : WaveId) (runs : Nat) : List Nat :=
  let urgent := (p.slots[i]?).map (·.urgent) == some true
  [if urgent != decide (runs ≥ 3) then 0 else 1, ((k.ln x.ln).map (·.born)).getD 0, x.born,
   x.waveAge w, (k.standsAt p i).2.2]

/-- The held contribution of a VRED register whose turn has come (12 R342). -/
def Vred.dueNow (v : Vred) : Option Contrib := v.held.find? fun c => c.seqTag == v.nextSeq

/-- The slots that are ready on behalf of a thread and wave: those whose operands have all arrived, and VRED slots with a held
contribution of that wave whose turn has come. -/
def Ctx.readySlots (k : Ctx) (x : Thread) (p : Placed) (w : WaveId) : List Nat :=
  (List.range p.slots.length).filter fun i => k.readyAt x p i w
    || (k.vreds.any fun (v : Vred) => v.thread == x.num && v.blk == p.blk && v.slot == i && (v.dueNow.any (·.wave == w))
          && !(k.gated.any (·.site == ⟨k.num, p.blk, i, x.num, w⟩)))

/-- The threads, blocks and waves in which something may be ready. -/
def Ctx.standing (k : Ctx) : List (ThreadId × Addr × WaveId) :=
  (k.tokens.filter (!·.held)).map (fun a => (a.tok.thread, a.blk, a.tok.wave))
    ++ k.vreds.filterMap fun (v : Vred) => v.dueNow.map fun c => (v.thread, v.blk, c.wave)

/-- The ready sites of a context on one PE, with their ranks. -/
def Ctx.readyOn (k : Ctx) (clu pe runs : Nat) : List (Site × List Nat) :=
  k.standing.flatMap fun a => match k.th a.1 with
    | none => []
    | some x => match k.placedAt x a.2.1 with
      | none => []
      | some p => (k.readySlots x p a.2.2).filterMap fun i =>
          if (k.standsAt p i).1 == clu && (k.standsAt p i).2.1 == pe then
            some (⟨k.num, p.blk, i, x.num, a.2.2⟩, k.rank x p i a.2.2 runs) else none

/-- A PE, counted over the module, has fired: urgent firings since its last other one are counted as far as three (R34). -/
def countRun (runs : Tab Nat) (pe : Nat) (urgent : Bool) : Tab Nat :=
  tset runs pe (if urgent then min 3 (tgetD runs pe 0 + 1) else 0)

/-- The PE of a firing, counted over the module. -/
def Fire.pe (f : Fire) : Nat := f.k.seatOf f.p * 128 + ((f.p.at_[f.i]?).map (·.1)).getD 0

/-- The firing at the focus has taken its power token, and a breakpoint that it passed stops the next one. What stood ready on its
PE beside it counts from now on (R33). -/
def State.took (s : State) (f : Fire) : State :=
  { s.usePower f.domain with
    dbg := s.dbg.passed s.focus
    urgentRun := countRun s.urgentRun f.pe f.urgent
    counted := tset s.counted f.pe ((f.k.readyOn (f.k.seatOf f.p) (f.pe % 128) 0).map (·.1)) }

/-- The firing at the focus waits, and holds back nothing else of its PE meanwhile (R36). -/
def State.stoodBack (s : State) (f : Fire) : State :=
  { s with counted := tset s.counted f.pe ((tgetD s.counted f.pe []).filter (· != s.focus)) }

/-- What a firing that faults costs, as one that takes effect does: its energy, its counts and its power token (07 R199,
R207, R208). -/
def State.firingSpent (s : State) (f : Fire) : State :=
  (s.modCtx f.k.num fun k => ((k.perfAdd f.p.lcl 0 1).perfAdd f.p.lcl 1
    (if f.urgent then 1 else 0)).charge (f.k.seatOf f.p) 1 0).took f

/-- Carries out what an instruction does at its firing. An emission into a new wave waits at a shut gate, at
the ninth wave or 2^23 ahead (R20, R36, R222); one into a skipped number raises WAVE-ORDER, detail 2 (R291). -/
def State.carry (s : State) (f : Fire) (r : Sem) : State :=
  match r with
  | .wait => s.stoodBack f
  | .gated => s.holdFiring f
  | .raise c d a => (s.fireFault f c 0 d a).firingSpent f
  | .probe c d a => (s.fireFault f c 2 d a).firingSpent f
  | .strike c o d g => ((s.fireFault f c o d 0).modCtx f.k.num g).firingSpent f
  | .act es flags g =>
    if f.k.gateShut f.p.lcl && es.any (fun e => e.wave != f.w && (f.t.act.adds || e.src.isNone) && e.dests.any (· != .none)) then s.holdFiring f
    else match sendBlock f.x es with
      | some (_, .skipped) => (s.fireFault f 0x0C 0 2 0).firingSpent f
      | some _ => s.stoodBack f
      | none => (s.setCtx (((f.apply es flags g).charge (f.k.seatOf f.p) 1 0).touchBlock f.p s.tick)).took f

/-- A firing whose operands are all there: it waits for its power token and its spine; a breakpoint halts it; a shadow
mismatch or a damaged slot is met before anything is consumed (R217, R220); else it takes place. -/
def State.fireOn (s : State) (f : Fire) (sem : Fire → Sem) : State :=
  if !s.powered f.domain then s
  else match (if s.dbg.pass = some s.focus then none else s.breakpoint f.k.num f.x.num f.p.blk f.i) with
  | some n =>
    if s.dbg.halted then s else s.debugHalt f.k.num f.x.num f.w (BitVec.ofNat 8 n) (some s.focus)
  | none =>
    match s.upset with
    | .shadow => ((s.fireFault f 0x10 0 0 0).addScore (clusterUnit (f.k.seatOf f.p)) 64).firingSpent f
    | .damaged => (s.fireFault f 0x0F 0 3 0).firingSpent f
    | .none => s.carry f (sem f)

/-- A firing: it waits for its operands, and then takes place. -/
def State.fire (s : State) (m : Tmpl) (xa : Option XArg) (takesB : Bool) (l : Lits) (sem : Fire → Sem) : State :=
  match s.ready m xa takesB l with
  | none => s
  | some f => s.fireOn f sem

end Sys2Proof.Machine
end

