-- ==== Sys2Proof/Machine/Fetch.lean ====
section
/-! DEFINITION. What a step begins with: the next choice of the agenda or of the free schedule, the words of the
slot a firing names, and the smallest machine in which a given instruction is the next to fire. -/

namespace Sys2Proof.Machine

/-- What moves next: the head of the agenda, or a free choice (log entry 1). -/
def State.choice (s : State) : Choice :=
  match s.agenda with
  | c :: _ => c
  | [] => Config.schedule s.tick

/-- The state in which that choice is carried out: the choice is taken and the tick advances. -/
def State.begun (s : State) : State :=
  { s with agenda := s.agenda.tail, tick := s.tick + 1, upset := .none }

/-! ### What may move (R33, R34, 08 R231) -/

/-- Another ready instruction of its PE fires before the one at a site (R33). `late` are sites whose tokens are still on their way
to the PE: none that stood ready at its last firing can be among them (log entry 133). -/
def State.outranked (s : State) (a : Site) (late : List Site) : Bool :=
  match s.ctx a.ctx with
  | none => false
  | some k => match k.th a.thread with
    | none => false
    | some x => match k.placedAt x a.blk with
      | none => false
      | some p =>
        let q := k.standsAt p a.slot
        let pe := q.1 * 128 + q.2.1
        let runs := tgetD s.urgentRun pe 0
        let counts (b : Site) : Bool := !late.contains b || (tgetD s.counted pe []).contains b
        (k.readyOn q.1 q.2.1 runs).any fun e => counts e.1 && lexBefore e.2 (k.rank x p a.slot a.wave runs)

/-- No start sequence is in progress (08 R231). -/
def State.up (s : State) : Bool := s.start.step == 10

/-- A step that takes place while a start sequence is in progress: the start's own, and what its clocks, links and management
controller do. -/
def Instr.atStart (i : Instr) : Bool :=
  match i with
  | .warmReset | .coldStart .. | .l2WritebackTimeout .. | .escalatingError .. | .cxlLinkTraining .. | .spdmRequest ..
  | .registerWrite .. | .farModuleConnect .. | .linkWidthChange .. | .linkCorrectedError .. | .firmwareUpdate ..
  | .orderlyPowerDown | .coolantFault .. | .coolantConditionClear .. => true
  | _ => false

/-- What moves next may move: the fabric runs, or the step belongs to a start; and a firing is the first of its PE. -/
def State.admits (s : State) (c : Choice) : Bool :=
  match c with
  | .fire a _ late => s.up && !s.outranked a late
  | .event i => s.up || Instr.atStart i

/-! ### The slot a firing names -/

/-- The words of the slot a site names; none where no such slot is placed, or where the slot is the XARG half
of the instruction before it (R269). -/
def State.siteWords (s : State) (a : Site) : Option Words :=
  match s.ctx a.ctx with
  | none => none
  | some k =>
    match k.th a.thread with
    | none => none
    | some x =>
      match k.placedAt x a.blk with
      | none => none
      | some p =>
        if a.slot < p.slots.length && (p.words a.slot).tmpl.extractLsb' 24 8 != 0x0F#8 then some (p.words a.slot)
        else none

/-! ### Contexts, launches and threads before anything has happened to them -/

/-- A context descriptor that grants nothing (05 R159, 06 R175). -/
def CtxDescr.none : CtxDescr :=
  { rootPA := 0, share := 1, pqQuota := [], pinQuota := 1024, cmdBase := 0, cmdLog2 := 4, evBase := 0, evLog2 := 4,
    lcount := 1, prioMax := 0, phys := [], granted := [], fqb := 0, capqb := 0, ovf := 0, spine := 7,
    podLaunches := false }

/-- A context at the reset values of its maps (02 R66 to R69; 06 R163; 07 R199). -/
def Ctx.fresh (c : CtxId) (d : CtxDescr) : Ctx :=
  { num := c, flt := 0, stalled := false, capchg := false, forced := false, preempt := false, state := 0,
    priomax := d.prioMax, fpflags := 0, fpend := false, sel := 0, gen := 0, fqb := d.fqb, capqb := d.capqb,
    avail := BitVec.ofNat 8 d.phys.eraseDups.length, lcount := BitVec.ofNat 8 d.lcount, spine := d.spine, ovf := d.ovf,
    desc := d, dreg := [], pmap := [], pins := [], savedPins := [], binds := [], ksel := [], logs := [],
    energy := [0, 0, 0, 0, 0, 0], unfolded := [], pq := [], cmdprod := 0, cmdcons := 0,
    evprod := 0, evcons := 0, doorbell := false, events := [], heldRecs := [], nextLaunch := 0, born := 0,
    launches := [], threads := [], placed := [], tokens := [], kept := [], vreds := [], committed := [],
    spilled := [], shares := [], parks := [], arrs := [], gate := 0, halted := false, wanted := [],
    steal := Option.none, gated := [], discards := [] }

/-- A running thread with nothing done (02 R70). -/
def Thread.fresh (t : ThreadId) (ln : BitVec 32) (lcl born : Nat) (idx : List Nat) (entry : Addr) : Thread :=
  { num := t, state := 1, ln := ln, lcl := lcl, born := born, idx := idx, waves := [], skips := [],
    last := Option.none, lastBlk := entry, fault := Option.none, delivered := false, seqNo := Option.none, dropped := [] }

/-! ### An instruction placed where the next step fires it -/

/-- The block that holds the instruction: its slot 0, and the XARG slot a three-input one needs. -/
def probeBlock (w : Words) : Placed :=
  { ln := 0, lcl := 0, blk := 0, kimg := 0, gen := 0,
    slots := [⟨w.tmpl, w.side, true, false, 0, 0⟩, ⟨w.xtmpl, w.xside, true, false, 0, 0⟩],
    at_ := [(0, 0), (0, 1)], old := Option.none, cf := [], ports := [], links := [], matrix := false, front := false,
    pinned := false, lastUse := 0, seat := 0 }

/-- A token of thread 0 and wave 0 at an operand. -/
def probeToken (slot : Nat) (b : Bool) : Arrived :=
  ⟨0, .slot slot b, { thread := 0, wave := 0, fmt := 0, eor := false, seq := false, urg := false, seqTag := 0, value := 0 },
    false, false⟩

/-- The tokens the instruction's selects ask for (R268, R269). -/
def probeTokens (w : Words) : List Arrived :=
  (if w.tmpl.extractLsb' 18 2 = 0#2 then [probeToken 0 false] else [])
    ++ (if w.tmpl.extractLsb' 16 2 = 0#2 && takesB (w.tmpl.extractLsb' 24 8).toNat w.side then [probeToken 0 true] else [])
    ++ (if threeInput (w.tmpl.extractLsb' 24 8).toNat && w.xtmpl.extractLsb' 18 2 = 0#2 then [probeToken 1 false] else [])

/-- The context in which the instruction stands ready: context 0, thread 0, wave 0 (log entry 13). -/
def probeCtx (w : Words) : Ctx :=
  { Ctx.fresh 0 CtxDescr.none with
    state := 1, pmap := [(0, 0x80000100#32)]
    threads := [{ Thread.fresh 0 0 0 0 [] 0 with waves := [{ Wave.fresh 0 0 with log := (probeTokens w).map fun a => ⟨a, .outside⟩ }] }]
    placed := [probeBlock w], tokens := probeTokens w }

/-- The instruction placed, its operands arrived, its domain granted tokens on a running spine, and the
choice of its site first; no start is in progress (log entry 13). -/
def State.withWords (s : State) (w : Words) : State :=
  { s with
    agenda := [.fire ⟨0, 0, 0, 0, 0⟩ .none []]
    start := { s.start with step := 10 }
    ctxs := probeCtx w :: s.ctxs.filter fun k => k.num != 0
    pwrdom := tset s.pwrdom 0 { PwrDom.zero with grant := 64 }
    spnow := tset s.spnow 0 0
    dbg := Dbg.off }

end Sys2Proof.Machine
end

