-- ==== Sys2Proof/Machine/Access.lean ====
section
/-! DEFINITION. Reaching memory: the virtual address map and page walk (03 R77 to R82), the caches and the
directory (R92 to R94, R99), host bias (16 R440, R441), encryption and poison (R95, R96), access logs (06
R189 to R191), and the device's own reads and writes of queues and tables. A byte of an HC, CP, IO, host or
peer page is kept at its home, since one value of it exists at any time; an L1 line of such a page is its
state alone. An SC line's copy has bytes of its own (04 R110). -/

namespace Sys2Proof.Machine

/-! ### Translation (03 R77 to R81) -/

/-- A failure of an access: fault code and DETAIL. -/
structure Fail where
  code : BitVec 8
  detail : BitVec 24
  deriving DecidableEq, Repr, Inhabited

/-- DETAIL of TRANSLATION and PROTECTION (R78). -/
def lrDetail (level reason : Nat) : BitVec 24 := BitVec.ofNat 24 (level * 0x400000 + reason * 0x40000)
def transFail (level reason : Nat) : Fail := ⟨0x06, lrDetail level reason⟩
def protFail (reason : Nat) : Fail := ⟨0x07, lrDetail 0 reason⟩

/-- The bytes of local HBM, as its home slices hold them, 8 at a time. -/
def Mems.word64 (m : Mems) (pa : Nat) : Nat := rdLe m.hbm pa 8

/-- A leaf entry's fields are malformed at a level (R80). -/
def leafBad (e : BitVec 64) (level : Nat) : Bool :=
  let target := (e.extractLsb' 61 2).toNat
  let coh := (e.extractLsb' 59 2).toNat
  let owner := (e.extractLsb' 4 8).toNat
  e.getLsbD 52 || e.getLsbD 0 || level == 0
    || (level == 1 && (e.extractLsb' 12 18) != 0) || (level == 2 && (e.extractLsb' 12 9) != 0)
    || (e.getLsbD 53 && level != 3)
    || (target != 0 && (coh == 1 || coh == 2)) || (target == 2 && coh != 3) || (target == 1 && coh != 0)
    || (if target == 3 then false else if target == 0 && coh == 2 then owner ≥ 128 else owner != 0)
    || (target != 0 && (e.extractLsb' 55 4) != 0)

/-- A non-leaf entry is malformed (R80). -/
def tableBad (e : BitVec 64) (level : Nat) : Bool :=
  level == 3 || (e.extractLsb' 52 11) != 0 || (e.extractLsb' 0 12) != 0

/-- A 16-aligned group of level-3 entries does not form a 64 KiB page (R80). -/
def contBad (m : Mems) (entryPA : Nat) : Bool :=
  let base := entryPA / 128 * 128
  let e0 := m.word64 base
  e0 / 0x1000 % 16 != 0 ||
    (List.range 16).any fun i => m.word64 (base + 8 * i) != e0 + 0x1000 * i

/-- Bytes a leaf at a level maps. -/
def pageBytes (level : Nat) : Nat :=
  match level with
  | 1 => 0x40000000 | 2 => 0x200000 | _ => 0x1000

/-- The index of a virtual address at a level (R79). -/
def vaIndex (va level : Nat) : Nat :=
  match level with
  | 0 => bits va 55 39 | 1 => bits va 38 30 | 2 => bits va 29 21 | _ => bits va 20 12

/-- The walk from a table at a level: the leaf entry's address and its level, or the failure. `fuel` counts
the levels left. -/
def walkFrom (m : Mems) (va table level : Nat) : Nat → Except Fail (Nat × Nat)
  | 0 => .error (transFail level 1)
  | fuel + 1 =>
    let ea := table + 8 * vaIndex va level
    let e := BitVec.ofNat 64 (m.word64 ea)
    let pa := (e.extractLsb' 12 40).toNat * 0x1000
    if !e.getLsbD 63 then .error (transFail level 0)
    else if e.getLsbD 54 then
      if leafBad e level || (level == 3 && e.getLsbD 53 && contBad m ea) then .error (transFail level 1)
      else if (e.extractLsb' 61 2) = 0 && pa ≥ Config.hbmBytes then .error (transFail level 2)
      else .ok (ea, level)
    else if tableBad e level then .error (transFail level 1)
    else if pa ≥ Config.hbmBytes then .error (transFail level 2)
    else walkFrom m va pa (level + 1) fuel

/-- The table entries that a walk from a table at a level reads, in order. -/
def walkReads (m : Mems) (va table level : Nat) : Nat → List Nat
  | 0 => []
  | fuel + 1 =>
    let ea := table + 8 * vaIndex va level
    let e := BitVec.ofNat 64 (m.word64 ea)
    let pa := (e.extractLsb' 12 40).toNat * 0x1000
    ea :: if !e.getLsbD 63 || e.getLsbD 54 || tableBad e level || pa ≥ Config.hbmBytes then [] else walkReads m va pa (level + 1) fuel

/-- The page tables of a context (R79). -/
def walk (m : Mems) (k : Ctx) (va : Nat) : Except Fail (Nat × Nat) := walkFrom m va k.desc.rootPA 0 4

/-- The translation a leaf entry of a level gives an address. -/
def leafTrans (k : Ctx) (e : BitVec 64) (level va entryPA : Nat) : Trans :=
  let target := (e.extractLsb' 61 2).toNat
  let sel := tgetD k.ksel (e.extractLsb' 55 4).toNat 0
  { place := match target with
      | 0 => .hbm | 1 => .hostCache | 2 => .hostIo | _ => .peer (e.extractLsb' 4 8).toNat
    pa := (e.extractLsb' 12 40).toNat * 0x1000 + va % pageBytes level
    coh := (e.extractLsb' 59 2).toNat
    key := if target = 0 && sel.getLsbD 15 then some (sel.extractLsb' 0 12).toNat else none
    w := e.getLsbD 3, rd := e.getLsbD 1, f := e.getLsbD 2
    cp := (e.extractLsb' 4 7).toNat
    entryPA := entryPA, bound := true }

/-- A peer page is reached under the binding of the context and the module, if the house has made one (16 R449). -/
def Trans.bindTo (t : Trans) (m : Mems) (k : Ctx) : Trans :=
  match t.place with
  | .peer p => { t with bound := m.peerBinds.any fun b => b.1 = k.num.toNat && b.2.1 = p }
  | _ => t

def scratchBase : Nat := 0x00F0000000000000
def controlBase : Nat := 0x00F8000000000000

/-- A scratchpad window or a control window: accessed without the page tables (R77). -/
def windowTrans (p : Place) : Trans :=
  { place := p, pa := 0, coh := 3, key := none, w := true, rd := true, f := false, cp := 0, entryPA := 0, bound := true }

/-! ### Translation caches (R81) -/

/-- Entries of a cluster's cache, and of a die's. -/
def tlbEntries (site : Nat) : Nat := if site < 96 then 1024 else 16384

/-- The translation a party at `site` finds: in its cluster's cache, or else in its die's. -/
def Mems.cached (m : Mems) (c : CtxId) (site va : Nat) : Option Tlb :=
  let at_ (n : Nat) : Option Tlb := m.tlb.find? fun e => e.ctx == c && e.site == n && e.vpn == va / 4096
  (at_ site).or (if site < 96 then at_ (dieSite site) else none)

/-- An entry in place of what its cache held for the page; a full cache loses its oldest entry. -/
def Mems.cacheAt (m : Mems) (e : Tlb) : Mems :=
  let rest := m.tlb.filter fun x => !(x.ctx == e.ctx && x.site == e.site && x.vpn == e.vpn)
  let here := rest.filter fun x => x.site == e.site
  { m with tlb := (if here.length ≥ tlbEntries e.site then dropFirst (fun x => x.site == e.site) rest else rest) ++ [e] }

/-- Where the device itself translates for a context: the cache of the die its first logical cluster is on. -/
def Ctx.devSite (k : Ctx) : Nat := dieSite (k.phys 0)

/-- Translates one address of a context for a party at `site` (R77 to R81). A cached translation stays in use until it is
invalidated. -/
def translate (m : Mems) (k : Ctx) (site va : Nat) : Except Fail Trans :=
  if va ≥ 0x100000000000000 then .error (transFail 0 3)
  else if va ≥ controlBase then
    if k.num = 0 then .ok (windowTrans (.control (va - controlBase))) else .error (transFail 0 3)
  else if va ≥ scratchBase then
    let c := (va - scratchBase) / 0x1000000
    let off := va % 0x1000000
    if c < 128 && c < k.lclusters && off < Config.scratchBytes then .ok (windowTrans (.scratch c off))
    else .error (transFail 0 3)
  else
    match m.cached k.num site va with
    | some e => .ok (({ leafTrans k e.entry 3 va e.entryPA with pa := e.pa + va % 4096 } : Trans).bindTo m k)
    | none =>
      match walk m k va with
      | .error e => .error e
      | .ok (ea, level) => .ok ((leafTrans k (BitVec.ofNat 64 (m.word64 ea)) level va ea).bindTo m k)

/-! ### Pieces of an access -/

/-- The runs of an access: [va, va + n) cut at 64-byte lines. `fuel` bounds their number. -/
def runs (va n : Nat) : Nat → List (Nat × Nat)
  | 0 => []
  | fuel + 1 =>
    if n = 0 then []
    else
      let here := min n (64 - va % 64)
      (va, here) :: runs (va + here) (n - here) fuel

def runsOf (va n : Nat) : List (Nat × Nat) := runs va n (n / 64 + 2)

/-- Translates every run of an access; the first failure in address order stands. -/
def piecesOf (m : Mems) (k : Ctx) (site : Nat) : List (Nat × Nat) → Except Fail (List Piece)
  | [] => .ok []
  | (va, n) :: rest =>
    match translate m k site va with
    | .error e => .error e
    | .ok t =>
      match piecesOf m k site rest with
      | .error e => .error e
      | .ok ps => .ok (⟨va, n, t⟩ :: ps)

def pieces (m : Mems) (k : Ctx) (site va n : Nat) : Except Fail (List Piece) := piecesOf m k site (runsOf va n)

/-- What an access needs of a page (R82). -/
inductive Need where
  | rd | w | rdw | f | any
  deriving DecidableEq, Repr, Inhabited

/-- Permission and key slot (R82, R96): reasons 1 to 4, read before write. -/
def allowed (keys : Tab KeySlot) (t : Trans) (n : Need) : Option Fail :=
  let noKey : Bool := match t.place with
    | .hbm => match t.key with
      | none => true
      | some q => ((tget keys q).map (·.state)) != some 1
    | _ => false
  let late : Option Fail := if noKey then some (protFail 4) else if !t.bound then some (protFail 5) else none
  match n with
  | .rd => if !t.rd then some (protFail 1) else late
  | .w => if !t.w then some (protFail 2) else late
  | .rdw => if !t.rd then some (protFail 1) else if !t.w then some (protFail 2) else late
  | .f => if !t.f then some (protFail 3) else late
  | .any => if !t.rd && !t.w then some (protFail 1) else late

/-- The first permission failure of the runs of an access. -/
def allAllowed (keys : Tab KeySlot) (ps : List Piece) (n : Need) : Option Fail :=
  ps.findSome? fun p => allowed keys p.tr n

/-! ### Homes (03 R83, R94) -/

/-- The L2 slice of a line: its die × 64 + the slice within it (R83). -/
def sliceOf (line : Nat) : Nat :=
  line / 0x100000000 * 64 + ((line % 64) ^^^ (line / 64 % 64) ^^^ (line / 4096 % 64))

/-- The pseudo-channel of a byte: its die × 1,024 + the channel within it (R83). -/
def channelOf (pa : Nat) : Nat := pa / 0x4000000000 * 1024 + (bits pa 17 8 ^^^ bits pa 27 18)

/-- The set of a slice's 16,384 that a line goes to; R94 does not say which (log entry 92). -/
def l2Set (line : Nat) : Nat × Nat := (sliceOf line, line / 64 % 16384)

/-- A line passes its home slice (R94): it becomes the most recently used of its set's sixteen ways, and is dirty when a
context writes it. The least recently used one is written back to HBM when there is no way left. -/
def Mems.passL2 (m : Mems) (line : Nat) (by_ : Option CtxId) : Mems :=
  let old := m.l2.find? fun (e : L2Line) => e.line == line
  let new : L2Line := { line := line, dirty := by_.isSome || ((old.map (·.dirty)).getD false), writer := by_.or (old.bind (·.writer)) }
  let rest := m.l2.filter fun (e : L2Line) => e.line != line
  let same := rest.filter fun (e : L2Line) => l2Set e.line == l2Set line
  { m with l2 := (if same.length ≥ 16 then dropFirst (fun (e : L2Line) => l2Set e.line == l2Set line) rest else rest) ++ [new] }

/-- Lines that HBM does not have yet. -/
def Mems.l2Dirty (m : Mems) : List Nat := (m.l2.filter (·.dirty)).map (·.line)

/-- The byte of local HBM at an address, read under a key slot: a line last written under another slot
decrypts to nothing meaningful (R96). -/
def Mems.keyed (m : Mems) (key : Option Nat) (pa : Nat) : Byte :=
  match tget m.key (pa / 64), key with
  | some q, some r => if q = r then rd m.hbm pa else Config.garble q r pa
  | _, _ => rd m.hbm pa

/-- A line about to be written under a key slot: when it was written under another before, it turns, where it is not written
now, into the bytes that slot's decryption gives (R96). -/
def Mems.rekey (m : Mems) (key : Option Nat) (line : Nat) : Mems :=
  match key with
  | none => m
  | some r =>
    let m1 : Mems := match tget m.key line with
      | some q => if q = r then m
          else { m with hbm := wrN m.hbm (64 * line) ((List.range 64).map fun i => Config.garble q r (64 * line + i)) }
      | none => m
    { m1 with key := tset m1.key line r }

/-- Writes bytes of one line at its home, for a context (R94, R96). -/
def Mems.homeWrite (m : Mems) (c : CtxId) (key : Option Nat) (pa : Nat) (bytes : List Byte) : Mems :=
  let m1 := (m.rekey key (pa / 64)).passL2 (pa / 64) (some c)
  { m1 with hbm := wrN m1.hbm pa bytes }

/-! ### L1 and directory (03 R92, R93) -/

def DirEntry.idle : DirEntry := { sharers := 0, owner := 0, host := false, dstate := 0 }

def Mems.dirOf (m : Mems) (line : Nat) : DirEntry := tgetD m.dir line DirEntry.idle

/-- Directory entries of a slice: 1 MiB of entries of 14 bytes (R93). -/
def dirEntries : Nat := 0x100000 / 14

/-- The entry that a slice drops when it must take one more: its first that the host has no copy of (log entry 92). -/
def Mems.dirVictim (m : Mems) (line : Nat) : Option Nat :=
  let same := m.dir.filter fun e => e.1 != line && sliceOf e.1 == sliceOf line
  if same.length ≥ dirEntries then (same.find? fun e => !e.2.host).map (·.1) else none

/-- A dropped entry: every L1 copy that it tracks is invalidated, an M copy having been written back (R93). -/
def Mems.dropEntry (m : Mems) (line : Nat) : Mems :=
  { m with dir := tdel m.dir line, l1 := m.l1.filter fun (e : L1Line) => !(e.kind == LineKind.hc && e.line == line) }

def Mems.setDir (m : Mems) (line : Nat) (e : DirEntry) : Mems :=
  if e = DirEntry.idle then { m with dir := tdel m.dir line }
  else
    let m1 := match m.dirVictim line with
      | some v => m.dropEntry v
      | none => m
    { m1 with dir := tset m1.dir line e }

/-- A cluster's copy of a line. -/
def Mems.copy (m : Mems) (clu : Nat) (kind : LineKind) (line : Nat) : Option L1Line :=
  m.l1.find? fun e => e.clu == clu && e.line == line && e.kind == kind

def isCopy (clu : Nat) (kind : LineKind) (line : Nat) (e : L1Line) : Bool :=
  e.clu == clu && e.line == line && e.kind == kind

/-- Removes a cluster's copy. -/
def Mems.uncopy (m : Mems) (clu : Nat) (kind : LineKind) (line : Nat) : Mems :=
  { m with l1 := m.l1.filter fun (e : L1Line) => !isCopy clu kind line e }

/-- Clears a cluster from a line's directory entry. -/
def Mems.unshare (m : Mems) (clu line : Nat) : Mems :=
  let e := m.dirOf line
  let sh := e.sharers &&& ~~~(1#96 <<< clu)
  m.setDir line { e with sharers := sh, dstate := if sh = 0 then 0 else e.dstate,
                         owner := if sh = 0 then 0 else e.owner }

/-- The dirty bytes of an SC copy written to the home (R92, R119). -/
def cleanBytes (hbm : List Host.Cell) (e : L1Line) : List Host.Cell :=
  (List.range 64).foldl (fun h i => if e.dirty.getLsbD i then wr h (64 * e.line + i) (e.data.getD i 0) else h) hbm

/-- Writes an SC copy's dirty bytes home, under the key slot it came under, and keeps it clean. -/
def Mems.cleanLine (m : Mems) (e : L1Line) : Mems :=
  let m1 := if e.dirty = 0 then m else (m.rekey e.key e.line).passL2 e.line (some e.ctx)
  { m1 with hbm := cleanBytes m1.hbm e,
            l1 := updFirst (isCopy e.clu e.kind e.line) (fun x => { x with dirty := 0 }) m1.l1 }

/-- Evicts one line of an L1 (R93, R99): dirty bytes go home, the directory forgets the copy. -/
def Mems.evict (m : Mems) (e : L1Line) : Mems :=
  match e.kind with
  | .sc => (m.cleanLine e).uncopy e.clu .sc e.line
  | .hc => (m.uncopy e.clu .hc e.line).unshare e.clu e.line
  | q => m.uncopy e.clu q e.line

/-- The set of a line in an L1: bits [14:6] of its address. R92 does not give the hash for host lines: the same bits of the
host address are taken (DESIGN CHOICE, log entry 92). -/
def setOf (line : Nat) : Nat := line % 512

/-- A copy with no bytes of its own: of an HC, CP or host line. -/
def L1Line.of (clu : Nat) (kind : LineKind) (line : Nat) (st : Mesi) : L1Line :=
  { clu := clu, kind := kind, line := line, st := st, data := [], dirty := 0, key := none, ctx := 0 }

/-- The line that an L1 gives up for another: the least recently used of its set, when the eight ways are taken (R92; log
entry 52). -/
def Mems.victim (m : Mems) (clu line : Nat) : Option L1Line :=
  let same := m.l1.filter fun (x : L1Line) => x.clu == clu && setOf x.line == setOf line
  if same.length ≥ 8 then same.head? else none

/-- Puts a line into an L1. -/
def Mems.fill (m : Mems) (e : L1Line) : Mems :=
  let m1 := match m.victim e.clu e.line with
    | some v => m.evict v
    | none => m
  { m1 with l1 := m1.l1 ++ [e] }

/-- The clusters' copies of a line of one kind become S, an M copy having been written back (R93). -/
def Mems.allShared (m : Mems) (kind : LineKind) (line : Nat) : Mems :=
  { m with l1 := m.l1.map fun (e : L1Line) => if e.kind == kind && e.line == line then { e with st := Mesi.s } else e }

/-- Marks a copy as the most recently used. -/
def Mems.touch (m : Mems) (clu : Nat) (kind : LineKind) (line : Nat) : Mems :=
  match m.copy clu kind line with
  | none => m
  | some e => { m with l1 := (m.l1.filter fun (x : L1Line) => !isCopy clu kind line x) ++ [e] }

def oneHot (clu : Nat) : BitVec 96 := 1#96 <<< clu

/-- A load's miss or hit on an HC line (R93). -/
def Mems.hcLoad (m : Mems) (clu line : Nat) : Mems :=
  if (m.copy clu .hc line).isSome then m.touch clu .hc line
  else
    let d := m.dirOf line
    let st : Mesi := if d.dstate = 0 then .e else .s
    let d1 : DirEntry := if d.dstate = 0
      then { d with dstate := 2, owner := clu, sharers := oneHot clu }
      else { d with dstate := 1, owner := 0, sharers := d.sharers ||| oneHot clu }
    ((m.allShared .hc line).setDir line d1).fill (L1Line.of clu .hc line st)

/-- A load's miss or hit on a host line, for which the host is home: a hit keeps its state, a miss shares with the clusters that
hold the line, or takes E (R93). -/
def Mems.hostLoad (m : Mems) (clu line : Nat) : Mems :=
  if (m.copy clu .host line).isSome then m.touch clu .host line
  else
    let others := m.l1.any fun e => e.kind == .host && e.line == line
    (m.allShared .host line).fill (L1Line.of clu .host line (if others then .s else .e))

/-- A store or atomic on an HC line: every other copy is invalidated and the requester holds M (R93). -/
def Mems.hcStore (m : Mems) (clu line : Nat) : Mems :=
  let m1 : Mems := { m with l1 := m.l1.filter fun (e : L1Line) => !(e.kind == .hc && e.line == line && e.clu != clu) }
  let m2 := m1.setDir line { m.dirOf line with dstate := 2, owner := clu, sharers := oneHot clu }
  if (m2.copy clu .hc line).isSome then
    { m2.touch clu .hc line with
      l1 := (m2.touch clu .hc line).l1.map fun (e : L1Line) => if isCopy clu .hc line e then { e with st := Mesi.m } else e }
  else m2.fill (L1Line.of clu .hc line .m)

/-- Every L1 copy of a line tracked by the directory is invalidated (R93). -/
def Mems.hcRecall (m : Mems) (line : Nat) : Mems :=
  Mems.setDir { m with l1 := m.l1.filter fun (e : L1Line) => !(e.kind == .hc && e.line == line) } line
    { m.dirOf line with dstate := 0, owner := 0, sharers := 0 }

/-- Brings a CP or host line into an L1 with a state. -/
def Mems.plainLine (m : Mems) (clu : Nat) (kind : LineKind) (line : Nat) (st : Mesi) : Mems :=
  match m.copy clu kind line with
  | some e => { m.touch clu kind line with
      l1 := (m.touch clu kind line).l1.map fun (x : L1Line) =>
        if isCopy clu kind line x then { x with st := if e.st = .m then .m else st } else x }
  | none => m.fill (L1Line.of clu kind line st)

/-- A cluster's copy of an SC line that came under a key slot; what came under another is no copy (R96). -/
def Mems.scCopy (m : Mems) (clu : Nat) (key : Option Nat) (line : Nat) : Option L1Line :=
  (m.copy clu .sc line).filter fun e => e.key == key

/-- Brings an SC line into an L1 with the bytes its home holds, read under a key slot; a copy that came under another slot
leaves first. -/
def Mems.scLine (m : Mems) (clu : Nat) (key : Option Nat) (line : Nat) : Mems :=
  if (m.scCopy clu key line).isSome then m.touch clu .sc line
  else
    let m1 := match m.copy clu .sc line with
      | some e => m.evict e
      | none => m
    (m1.passL2 line none).fill { L1Line.of clu .sc line .e with
      data := (List.range 64).map fun i => m1.keyed key (64 * line + i), key := key }

/-- Discards the clean SC lines of a cluster's L1; a dirty byte is never discarded (04 R113, R119). A line
with dirty bytes keeps those and takes the others from its home. -/
def Mems.scDiscard (m : Mems) (clu : Nat) : Mems :=
  { m with l1 := (m.l1.filter fun (e : L1Line) => !(e.kind == .sc && e.clu == clu && e.dirty == 0)).map fun e =>
      if e.kind == .sc && e.clu == clu then
        { e with data := (List.range 64).map fun i =>
            if e.dirty.getLsbD i then e.data.getD i 0 else m.keyed e.key (64 * e.line + i) }
      else e }

/-- Cleans every dirty SC byte of a cluster's L1 to its home (04 R119). -/
def Mems.scClean (m : Mems) (clu : Nat) : Mems :=
  (m.l1.filter fun (e : L1Line) => e.kind == .sc && e.clu == clu && e.dirty != 0).foldl Mems.cleanLine m

/-! ### Host bias (16 R441) and what an access waits for -/

def Mems.hostBias (m : Mems) (pa : Nat) : Bool := m.bias.contains (pa / 4096)

/-- The coherence an HBM access acts under: IO while its page is in host bias (16 R441). -/
def Mems.actsAs (m : Mems) (t : Trans) : Nat :=
  match t.place with
  | .hbm => if m.hostBias t.pa then 3 else t.coh
  | _ => t.coh

/-- No route leads to the module that holds a page (16 R449). -/
def Mems.unrouted (m : Mems) (p : Piece) : Bool :=
  match p.tr.place with
  | .peer q => !(m.reach.contains q || m.routes.contains q)
  | _ => false

/-- An access to a piece must wait: its page is locked by a change of bias, the host must first be snooped
(16 R441 to R443), the contents of its pseudo-channel are being copied (06 R193), or its logical cluster is moving (06 R174). -/
def pieceWaits (m : Mems) (k : Ctx) (p : Piece) (write : Bool) : Bool :=
  match p.tr.place with
  | .hbm =>
    let d := m.dirOf (p.tr.pa / 64)
    m.locked.contains (p.tr.pa / 4096) || m.copying.contains (channelOf p.tr.pa)
      || (m.hostBias p.tr.pa && d.host && (write || d.dstate != 1))
  | .scratch l _ => (tgetD k.pmap l 0).getLsbD 30
  | _ => m.unrouted p

/-! ### Bytes of a piece -/

/-- The bytes of a piece as a cluster's load finds them. -/
def pieceBytes (m : Mems) (k : Ctx) (clu : Nat) (p : Piece) : List Byte :=
  match p.tr.place with
  | .scratch l off => (k.share l).load off p.n
  | .hbm =>
    match (if m.actsAs p.tr = 1 then m.scCopy clu p.tr.key (p.tr.pa / 64) else none) with
    | some e => (List.range p.n).map fun i => e.data.getD (p.tr.pa % 64 + i) 0
    | none => (List.range p.n).map fun i => m.keyed p.tr.key (p.tr.pa + i)
  | .hostCache | .hostIo => rdN m.host p.tr.pa p.n
  | .peer q => rdN (tgetD m.peer q []) p.tr.pa p.n
  | .control _ => List.replicate p.n 0

/-- A piece lies on a poisoned line (R95). -/
def piecePoison (m : Mems) (p : Piece) : Bool :=
  p.tr.place = .hbm && m.poison.contains (p.tr.pa / 64)

/-- The bytes of an SC copy after a context's store: dirty (R92), or clean when written through (04 R119). -/
def scStore (c : CtxId) (e : L1Line) (off : Nat) (bytes : List Byte) (clean : Bool) : L1Line :=
  let mask : BitVec 64 := (List.range bytes.length).foldl (fun d i => d ||| (1#64 <<< (off + i))) 0
  { e with
    ctx := c
    data := (List.range 64).map fun i =>
      if off ≤ i && i < off + bytes.length then bytes.getD (i - off) 0 else e.data.getD i 0
    dirty := if clean then e.dirty &&& ~~~mask else e.dirty ||| mask }

/-- A store to a cluster's SC copy of a line. -/
def scWrite (l1 : List L1Line) (c : CtxId) (clu line off : Nat) (bytes : List Byte) (clean : Bool) : List L1Line :=
  updFirst (isCopy clu .sc line) (fun e => scStore c e off bytes clean) l1

/-- Who performs an access: a cluster's L1, or the device at the home. -/
inductive Agent where
  | cluster (clu : Nat)
  | home
  deriving DecidableEq, Repr, Inhabited

/-- A load by a party with no L1: the holder of E or M keeps a shared copy, an M line being written back (R93). -/
def Mems.hcPeek (m : Mems) (line : Nat) : Mems :=
  let d := m.dirOf line
  if d.dstate = 2 then (m.allShared .hc line).setDir line { d with dstate := 1, owner := 0 } else m

/-- A load of the piece misses the cluster's L1 (07 R208). -/
def Mems.misses (m : Mems) (clu : Nat) (p : Piece) : Bool :=
  match p.tr.place with
  | .hbm =>
    match m.actsAs p.tr with
    | 0 => (m.copy clu .hc (p.tr.pa / 64)).isNone
    | 1 => (m.scCopy clu p.tr.key (p.tr.pa / 64)).isNone
    | 2 => (m.copy clu .cp (p.tr.pa / 64)).isNone
    | _ => false
  | .hostCache => (m.copy clu .host (p.tr.pa / 64)).isNone
  | _ => false

/-- The cache effects of a load of one piece (R93, R94, R99). -/
def Mems.loadEffect (m : Mems) (a : Agent) (p : Piece) : Mems :=
  let line := p.tr.pa / 64
  match a, p.tr.place with
  | .home, .hbm => (if m.actsAs p.tr = 0 then m.hcPeek line else m).passL2 line none
  | .cluster clu, .hbm =>
    let m1 := if m.misses clu p || m.actsAs p.tr = 3 then m.passL2 line none else m
    match m.actsAs p.tr with
    | 0 => m1.hcLoad clu line
    | 1 => m1.scLine clu p.tr.key line
    | 2 => m1.plainLine clu .cp line .e
    | _ => m1
  | .cluster clu, .hostCache => m.hostLoad clu line
  | .home, .hostCache => m.allShared .host line
  | _, _ => m

/-- A read of pieces by a party with no L1. -/
def Mems.peek (m : Mems) (ps : List Piece) : Mems := ps.foldl (fun m p => m.loadEffect .home p) m

/-- Invalidates every copy of a host line but one cluster's. -/
def Mems.hostDrop (m : Mems) (line : Nat) (keep : Option Nat) : Mems :=
  { m with l1 := m.l1.filter fun (e : L1Line) =>
      !(e.kind == LineKind.host && e.line == line && some e.clu != keep) }

/-- Stores bytes outside the scratchpad. `through` writes an SC store through to its home (04 R119). -/
def Mems.storeAt (m : Mems) (c : CtxId) (a : Agent) (p : Piece) (bytes : List Byte) (through : Bool) : Mems :=
  let line := p.tr.pa / 64
  match p.tr.place with
  | .hbm =>
    match m.actsAs p.tr with
    | 0 =>
      let m1 := match a with | .cluster clu => m.hcStore clu line | .home => m.hcRecall line
      m1.homeWrite c p.tr.key p.tr.pa bytes
    | 1 =>
      match a with
      | .home => m.homeWrite c p.tr.key p.tr.pa bytes
      | .cluster clu =>
        let m1 := m.scLine clu p.tr.key line
        let m2 : Mems := { m1 with l1 := scWrite m1.l1 c clu line (p.tr.pa % 64) bytes through }
        if through then m2.homeWrite c p.tr.key p.tr.pa bytes else m2
    | 2 =>
      let m1 := match a with | .cluster clu => m.plainLine clu .cp line .m | .home => m
      m1.homeWrite c p.tr.key p.tr.pa bytes
    | _ => m.homeWrite c p.tr.key p.tr.pa bytes
  | .hostCache =>
    let m1 : Mems := match a with
      | .cluster clu => (m.hostDrop line (some clu)).plainLine clu .host line .m
      | .home => m.hostDrop line none
    { m1 with host := wrN m1.host p.tr.pa bytes }
  | .hostIo => { m with host := wrN m.host p.tr.pa bytes }
  | .peer q => { m with peer := tset m.peer q (wrN (tgetD m.peer q []) p.tr.pa bytes) }
  | _ => m

/-- An ST's bytes on a scratchpad: a WAITING granule becomes FULL and its readers are answered; an EMPTY one
stays EMPTY (R87). -/
def Ctx.scratchSt (k : Ctx) (l off : Nat) (bytes : List Byte) : Ctx :=
  let gs := ((List.range bytes.length).map fun i => (off + i) / 16).eraseDups
  let waiting := gs.filter fun g => ((k.share l).gran g).st = 2
  let k1 := k.modShare l fun h =>
    let h1 := gs.foldl Share.settle h
    { h1 with bytes := wrN h1.bytes off bytes }
  waiting.foldl (fun k g => k.filled l g) k1

/-- Performs a store of one piece. -/
def State.storePiece (s : State) (c : CtxId) (a : Agent) (p : Piece) (bytes : List Byte) (through : Bool) : State :=
  match p.tr.place with
  | .scratch l off => s.modCtx c fun k => k.scratchSt l off bytes
  | _ => { s with mem := s.mem.storeAt c a p bytes through }

/-- Performs the store of an access, piece by piece. -/
def State.storePieces (s : State) (c : CtxId) (a : Agent) (through : Bool) : List Piece → List Byte → State
  | [], _ => s
  | p :: ps, bytes =>
    State.storePieces (s.storePiece c a p (bytes.take p.n) through) c a through ps (bytes.drop p.n)

/-- The bytes of an access as its pieces hold them. -/
def bytesOf (m : Mems) (k : Ctx) (clu : Nat) (ps : List Piece) : List Byte := ps.flatMap (pieceBytes m k clu)

/-! ### The device's own reads and writes -/

/-- The pieces of n bytes of a context, when every one may be reached as needed (R82). -/
def State.devPieces (s : State) (k : Ctx) (va n : Nat) (need : Need) : Except Fail (List Piece) :=
  match pieces s.mem k k.devSite va n with
  | .error e => .error e
  | .ok ps => match allAllowed s.keys ps need with
    | some e => .error e
    | none => .ok ps

/-- The bytes of a piece as its home holds them. -/
def homeBytes (m : Mems) (k : Ctx) (p : Piece) : List Byte :=
  match p.tr.place with
  | .hbm => (List.range p.n).map fun i => m.keyed p.tr.key (p.tr.pa + i)
  | _ => pieceBytes m k 0 p

/-- n bytes of a context as the homes hold them, poisoned or not: for who has met a poisoned line before, or has no thread or
command to tell of one. -/
def State.devRaw (s : State) (k : Ctx) (va n : Nat) (need : Need) : Except Fail (List Byte) :=
  (s.devPieces k va n need).map fun ps => ps.flatMap (homeBytes s.mem k)

/-- Reads n bytes of a context at the homes, checking what is needed (R82); a poisoned line takes UNCORRECTABLE (R95). -/
def State.devRead (s : State) (k : Ctx) (va n : Nat) (need : Need) : Except Fail (List Byte) :=
  match s.devPieces k va n need with
  | .error e => .error e
  | .ok ps => if ps.any (piecePoison s.mem) then .error ⟨0x0F, 0⟩ else .ok (ps.flatMap (homeBytes s.mem k))

/-- A number in a context's memory, or 0 where it cannot be read. -/
def State.devWord (s : State) (k : Ctx) (va n : Nat) : Nat :=
  match s.devRaw k va n .rd with
  | .ok b => leNat b
  | .error _ => 0

/-- Some of n bytes of a context cannot be reached yet (`pieceWaits`): the device's own access waits. -/
def State.devWaits (s : State) (k : Ctx) (va n : Nat) (write : Bool) : Bool :=
  match pieces s.mem k k.devSite va n with
  | .error _ => false
  | .ok ps => ps.any fun p => pieceWaits s.mem k p write

/-- Writes bytes for a context at the homes, or says why it cannot (R82). -/
def State.devWrite (s : State) (k : Ctx) (va : Nat) (bytes : List Byte) : Except Fail State :=
  match pieces s.mem k k.devSite va bytes.length with
  | .error e => .error e
  | .ok ps =>
    match allAllowed s.keys ps .w with
    | some e => .error e
    | none => .ok (s.storePieces k.num .home true ps bytes)

/-- Writes bytes where it can, and does nothing where it cannot. -/
def State.devPut (s : State) (k : Ctx) (va : Nat) (bytes : List Byte) : State :=
  match s.devWrite k va bytes with
  | .ok t => t
  | .error _ => s

/-! ### Rings of records (05 R156, 06 R189) -/

/-- The distance from one sequence number to another over the nonzero 32-bit values (R156). -/
def seqDist (a b : Nat) : Nat := if a ≤ b then b - a else b + 0xFFFFFFFF - a

/-- Where a ring's next record goes, for its PPOS (R156). -/
def ringNext (log2n ppos : Nat) : Nat := if ppos + 1 ≥ 2 ^ log2n then 1 else ppos + 1

/-- The sequence number after one (R156). -/
def seqNext (a : Nat) : Nat := if a = 0xFFFFFFFF then 1 else a + 1

/-- The number of records a ring of 2^log2n entries holds unread. -/
def ringUsed (prod cons : Nat) : Nat := if prod = 0 then 0 else if cons = 0 then prod else seqDist cons prod

/-- Appends a record to a ring whose entries have `size` bytes: the record, then PPOS and PROD. With
`overwrite` a full ring loses its oldest unread record and counts it in LOST (R158); else a full ring answers
none. The record is made from its sequence number. -/
def State.ringPut (s : State) (k : Ctx) (base log2n size : Nat) (overwrite : Bool) (mk : Nat → List Byte) :
    Except Fail (Option State) :=
  match s.devRead k base 16 .any with
  | .error e => .error e
  | .ok hd =>
    let prod := fieldAt hd 0 4
    let cons := fieldAt hd 4 4
    let lost := fieldAt hd 8 4
    let ppos := fieldAt hd 12 2
    let full := ringUsed prod cons ≥ 2 ^ log2n - 1
    if full && !overwrite then .ok none
    else
      let seq := seqNext prod
      let pos := ringNext log2n ppos
      match s.devWrite k (base + pos * size) (mk seq) with
      | .error e => .error e
      | .ok s1 =>
        let lost1 := if full then min 0xFFFFFFFF (lost + 1) else lost
        match s1.devWrite k base (leBytes 4 seq) with
        | .error e => .error e
        | .ok s2 => .ok (some ((s2.devPut k (base + 12) (leBytes 2 pos)).devPut k (base + 8) (leBytes 4 lost1)))

/-- The address of the next record of a context's ring (R156). -/
def State.ringSlot (s : State) (k : Ctx) (base log2n size : Nat) : Nat :=
  base + ringNext log2n (s.devWord k (base + 12) 2) * size

/-- A record cannot be written to a context's ring yet: a line it goes to cannot be reached (16 R441 to R443). -/
def State.ringWaits (s : State) (k : Ctx) (base log2n size : Nat) : Bool :=
  s.devWaits k base 16 true || s.devWaits k (s.ringSlot k base log2n size) size true

/-! ### Access logs (06 R189 to R191) -/

/-- Bits of KINDS (R190). -/
def kRead : BitVec 8 := 1
def kWrite : BitVec 8 := 2
def kEngine : BitVec 8 := 4
def kPlace : BitVec 8 := 8
def kStream : BitVec 8 := 16

/-- A range counts an access of a kind at a page (R189). -/
def LogRange.counts (r : LogRange) (va : Nat) (kinds : BitVec 8) : Bool :=
  let mode := (r.ring.extractLsb' 0 2).toNat
  decide (r.base.toNat ≤ va) && decide (va < r.limit.toNat + 4096)
    && ((mode % 2 = 1 && kinds.getLsbD 0) || (mode ≥ 2 && kinds.getLsbD 1))

/-- Writes an open record of a range to its ring in house memory; false when the ring is full or cannot be reached yet (R190, R191).
A record whose
write fails translation or permission is lost: the spec does not say what becomes of it (DESIGN CHOICE, log entry 93). -/
def State.logWrite (s : State) (c : CtxId) (range : Nat) (r : LogRange) (q : Nat × Nat × BitVec 8 × Nat) :
    State × Bool :=
  match s.ctx 0 with
  | none => (s, true)
  | some house =>
    if s.ringWaits house ((r.ring.extractLsb' 6 50).toNat * 64) (r.ring.extractLsb' 56 8).toNat 32 then (s, false)
    else match s.ringPut house ((r.ring.extractLsb' 6 50).toNat * 64) (r.ring.extractLsb' 56 8).toNat 32 false
        (fun _ => leBytes 8 q.1 ++ leBytes 8 q.2.1 ++ leBytes 2 c.toNat ++ leBytes 1 range ++ [q.2.2.1]
          ++ leBytes 2 q.2.2.2 ++ leBytes 2 0 ++ leBytes 8 s.evseq.toNat) with
    | .ok (some s1) => (s1, true)
    | .ok none => (s, false)
    | .error _ => (s, true)

/-- Counts one line of an access into one range: its page's open record grows, and is written at 1,024; false when it would
have to be written and cannot be. -/
def State.logOne (s : State) (c : CtxId) (va pa : Nat) (kinds : BitVec 8) (range : Nat) : State × Bool :=
  match (s.ctx c).bind fun k => tget k.logs range with
  | none => (s, true)
  | some r =>
    if !r.counts va kinds then (s, true)
    else
      let page := va / 4096 * 4096
      let old := (r.pages.find? (·.1 == page)).getD (page, pa / 4096 * 4096, 0, 0)
      let new : Nat × Nat × BitVec 8 × Nat := (page, old.2.1, old.2.2.1 ||| kinds, old.2.2.2 + 1)
      let rest := r.pages.filter (·.1 != page)
      if new.2.2.2 ≥ 1024 then
        let (s1, ok) := s.logWrite c range r new
        if ok then (s1.modCtx c fun k => { k with logs := tset k.logs range { r with pages := rest } }, true) else (s, false)
      else (s.modCtx c fun k => { k with logs := tset k.logs range { r with pages := rest ++ [new] } }, true)

/-- Counts the pieces of an access into every range that holds them (R190). A page has one home, hence one die whose agent
keeps its open record. -/
def State.logCount (s : State) (c : CtxId) (ps : List Piece) (kinds : BitVec 8) : State × Bool :=
  ps.foldl (fun q p =>
    match q.1.ctx c with
    | none => q
    | some k => (k.logs.map (·.1)).foldl (fun (q : State × Bool) r =>
        let n := q.1.logOne c p.va p.tr.pa kinds r
        (n.1, q.2 && n.2)) q) (s, true)

def State.logAccess (s : State) (c : CtxId) (ps : List Piece) (kinds : BitVec 8) : State := (s.logCount c ps kinds).1

/-- An access waits that must be counted into a full log ring, or into one without room for the records that it closes
(R191). -/
def State.logFull (s : State) (c : CtxId) (ps : List Piece) (kinds : BitVec 8) : Bool :=
  match s.ctx c with
  | none => false
  | some k => (k.logs.any fun r => (ps.any fun p => r.2.counts p.va kinds) && !(s.logWrite c r.1 r.2 (0, 0, 0, 0)).2)
      || !(s.logCount c ps kinds).2

/-! ### Acquire and release on SC pages (04 R113, R114, R119) -/

/-- Whether an annotation's scope reaches beyond the cluster. -/
def wideScope (scp : BitVec 2) : Bool := scp != 0
def acquires (ord : BitVec 2) : Bool := ord = 1 || ord = 3
def releases (ord : BitVec 2) : Bool := ord = 2 || ord = 3

/-- The effect of an acquire on the acquiring cluster's L1. -/
def Mems.acquire (m : Mems) (clu : Nat) (ord scp : BitVec 2) : Mems :=
  if acquires ord && wideScope scp then m.scDiscard clu else m

/-- The effect of a release on the releasing cluster's L1. -/
def Mems.release (m : Mems) (clu : Nat) (ord scp : BitVec 2) : Mems :=
  if releases ord && wideScope scp then m.scClean clu else m

end Sys2Proof.Machine
end

