-- ==== Sys2Proof/Machine/Token.lean ====
section
/-! DEFINITION. The token and control instructions (11 R287 to R303), and the parts of a kernel image that
transfers by address read (10 R258, R261, R263). -/

namespace Sys2Proof.Machine

/-- DETAIL of RESERVED-FIELD: place and lowest offending bit (08 R211). -/
def rfDetail (place bit : Nat) : BitVec 24 := BitVec.ofNat 24 (place * 0x10000 + bit)

/-! ### Kernel image fields -/

/-- The kernel header of a launch's image, 64 bytes (R258). -/
def State.kernelHeader (s : State) (k : Ctx) (kimg : Nat) : Except Fail (List Byte) := s.devRead k kimg 64 .f

/-- The directory entry of a block index: OFFSET, LINK and NOUT (R261). -/
structure DirRow where
  offset : Nat
  link : Nat
  nout : Nat
  rest : Nat
  deriving DecidableEq, Repr, Inhabited

def dirRow (b : List Byte) : DirRow :=
  { offset := fieldAt b 0 4, link := fieldAt b 4 4, nout := fieldAt b 8 1, rest := fieldAt b 9 7 }

/-- Reads a directory entry of an image whose header is given. -/
def State.dirEntry (s : State) (k : Ctx) (kimg : Nat) (hd : List Byte) (i : Nat) : Except Fail DirRow :=
  match s.devRead k (kimg + fieldAt hd 0x14 4 + 16 * i) 16 .f with
  | .error e => .error e
  | .ok b => .ok (dirRow b)

/-- The header or the directory of an image cannot be reached yet: a host line is snooped, or its page changes bias (16 R441 to
R443). -/
def State.imageWaits (s : State) (k : Ctx) (kimg : Nat) : Bool :=
  s.devWaits k kimg 64 false || match s.kernelHeader k kimg with
    | .ok hd => s.devWaits k (kimg + fieldAt hd 0x14 4) (16 * fieldAt hd 0x18 2) false
    | .error _ => false

/-- The image of a thread's launch cannot be reached yet. -/
def State.launchImageWaits (s : State) (k : Ctx) (ln : BitVec 32) : Bool :=
  match k.ln ln with
  | some n => s.imageWaits k n.lrec.kimg.toNat
  | none => false

/-- The first block index in [i, i + n) whose image lies at an offset. -/
def State.findBlock (s : State) (k : Ctx) (kimg : Nat) (hd : List Byte) (off i : Nat) : Nat → Except Fail (Option Nat)
  | 0 => .ok none
  | n + 1 =>
    match s.dirEntry k kimg hd i with
    | .error e => .error e
    | .ok d => if d.offset = off then .ok (some i) else State.findBlock s k kimg hd off (i + 1) n

/-- Input ports of the block image at an address: NIN of its header (R263). -/
def State.inputPorts (s : State) (k : Ctx) (blk : Nat) : Except Fail Nat :=
  match s.devRead k blk 32 .f with
  | .error e => .error e
  | .ok b => .ok (fieldAt b 1 1)

/-- An address names a block of a launch's kernel image with more than `port` inputs (R299). -/
def State.blockTarget (s : State) (k : Ctx) (ln : BitVec 32) (addr : BitVec 64) (port : Nat) : Except Fail Bool :=
  match k.ln ln with
  | none => .ok false
  | some r =>
    let kimg := r.lrec.kimg.toNat
    if addr.extractLsb' 56 8 != 0 || addr.toNat < kimg then .ok false
    else
      match s.kernelHeader k kimg with
      | .error e => .error e
      | .ok hd =>
        match s.findBlock k kimg hd (addr.toNat - kimg) 0 (fieldAt hd 0x18 2) with
        | .error e => .error e
        | .ok none => .ok false
        | .ok (some _) =>
          match s.inputPorts k addr.toNat with
          | .error e => .error e
          | .ok n => .ok (decide (port < n))

/-- The firing of a transfer by address: its deliveries at wave + 1, or its fault (R299). -/
def transfer (s : State) (f : Fire) (addr : BitVec 64) (named : BitVec 64) (port : Nat) (es : List Em) : Sem :=
  if s.launchImageWaits f.k f.x.ln then .wait
  else match s.blockTarget f.k f.x.ln addr port with
  | .error e => .raise e.code e.detail addr
  | .ok false => .raise 0x04 0 named
  | .ok true => .act es 0 id

/-! ### Steering (R288, R289) -/

/-- R288. -/
def execMov (t : Tmpl) (l : FormL) (s : State) : Out :=
  .next (s.fire t none false (litL l) fun f => .act [f.pass f.all f.q.a f.q.ta f.outWave] 0 id)

/-- R288. -/
def execSteer (t : Tmpl) (l : FormL) (s : State) : Out :=
  .next (s.fire t none true (litL l) fun f =>
    .act [f.pass [if pred f.q.b then dest1 f.t f.i else dest2 f.t f.i] f.q.a f.q.ta f.outWave] 0 id)

/-- R288. -/
def execFilter (t : Tmpl) (l : FormL) (s : State) : Out :=
  .next (s.fire t none true (litL l) fun f =>
    .act (if pred f.q.b then [f.pass f.all f.q.a f.q.ta f.outWave] else []) 0 id)

/-- R288: B is a trigger. -/
def execGate (t : Tmpl) (l : FormL) (s : State) : Out :=
  .next (s.fire t none true (litL l) fun f => .act [f.pass f.all f.q.a f.q.ta f.outWave] 0 id)

/-- R288: the operand is consumed and nothing emitted. -/
def execSink (t : Tmpl) (l : FormL) (s : State) : Out :=
  .next (s.fire t none false (litL l) fun _ => .act [] 0 id)

/-- R288: B if A is true, else C. -/
def execSel (t : Tmpl) (l : FormL) (xa : XArg) (s : State) : Out :=
  .next (s.fire t (some xa) true (litL l) fun f =>
    .act [if pred f.q.a then f.pass f.all f.q.b f.q.tb f.outWave else f.pass f.all f.q.c f.q.tc f.outWave] 0 id)

/-- R288: B and C are triggers. -/
def execFork (t : Tmpl) (l : FormL) (xa : XArg) (s : State) : Out :=
  .next (s.fire t (some xa) true (litL l) fun f => .act [f.pass f.all f.q.a f.q.ta f.outWave] 0 id)

/-! ### Waves (R290 to R292, R296) -/

/-- R290. -/
def execWadv (t : Tmpl) (l : FormL) (s : State) : Out :=
  .next (s.fire t none false (litL l) fun f => .act [f.pass f.all f.q.a f.q.ta (f.w + 1)] 0 id)

/-- R291: the numbers strictly between the firing's wave and the target that no token has entered are skipped. A WSET that names no
destination sends no token, and then skips no number, on which the rule is silent (DESIGN CHOICE, log entry 131). -/
def execWset (t : Tmpl) (l : FormL) (s : State) : Out :=
  .next (s.fire t none true (litL l) fun f =>
    let w2 : WaveId := f.q.b.extractLsb' 0 24
    if wdist f.w w2 ≥ 0x800000 then .raise 0x0C 2 0
    else .act [f.pass f.all f.q.a f.q.ta w2] 0 fun k =>
      if anyDest f.t f.xt f.i then k.modTh f.x.num fun x => { x with skips := x.skipRuns f.w w2 ++ x.skips } else k)

/-- R292. -/
def execWrd (t : Tmpl) (l : FormL) (s : State) : Out :=
  .next (s.fire t none false (litL l) fun f => f.result (f.w.zeroExtend 128))

/-- R292. -/
def execTrd (t : Tmpl) (l : FormL) (s : State) : Out :=
  .next (s.fire t none false (litL l) fun f => f.result (f.x.num.zeroExtend 128))

/-- R296. -/
def execSeqt (t : Tmpl) (l : FormL) (s : State) : Out :=
  .next (s.fire t none true (litL l) fun f =>
    .act [{ f.pass f.all f.q.a f.q.ta f.outWave with seq := true, seqTag := f.q.b.extractLsb' 0 24 }] 0 id)

/-! ### Threads (R293 to R295) -/

/-- What TNEW's probe finds wrong with its entry word, if anything (R294). -/
def State.entryWordFail (s : State) (f : Fire) (e : BitVec 64) : Option Fail :=
  let blk := (e.extractLsb' 0 16).toNat
  let port := (e.extractLsb' 16 4).toNat
  if e.extractLsb' 20 44 != 0 then
    some ⟨0x02, rfDetail 4 (((List.range 64).find? fun i => 20 ≤ i && e.getLsbD i).getD 20)⟩
  else match f.k.ln f.x.ln with
    | none => some ⟨0x02, rfDetail 4 0⟩
    | some ln =>
      match s.kernelHeader f.k ln.lrec.kimg.toNat with
      | .error x => some x
      | .ok hd =>
        if blk ≥ fieldAt hd 0x18 2 then some ⟨0x02, rfDetail 4 0⟩
        else match s.dirEntry f.k ln.lrec.kimg.toNat hd blk with
          | .error x => some x
          | .ok d =>
            match s.inputPorts f.k (ln.lrec.kimg.toNat + d.offset) with
            | .error x => some x
            | .ok n => if port ≥ n then some ⟨0x02, rfDetail 4 16⟩ else none

/-- A deferred instruction of the firing, held until its wave commits. -/
def Fire.deferred (f : Fire) (act : DefAct) (x : FormX) (imm : BitVec 16) (cfv : Value) (data : List Byte) : DefOp :=
  { act := act, x := x, imm := imm, rt := f.route, blk := f.p.blk, slot := f.i, seen := f.p.seen f.i, a := f.q.a,
    b := f.q.b, cfv := cfv, data := data }

/-- Adds a deferred instruction to the firing's wave. -/
def Fire.defer (f : Fire) (d : DefOp) (k : Ctx) : Ctx :=
  (k.needWave f.x.num f.live f.p.blk).modWv f.x.num f.live fun v => { v with defs := v.defs ++ [d] }

/-- R293, R294: probed now, performed at its wave's commit. The fault address of a probe that fails is the entry word B, since TNEW
has no address operand (DESIGN CHOICE, log entry 132). -/
def execTnew (t : Tmpl) (l : FormL) (s : State) : Out :=
  .next (s.fire t none true (litL l) fun f =>
    if s.launchImageWaits f.k f.x.ln then .wait
    else match s.entryWordFail f (lo64 f.q.b) with
    | some e => .probe e.code e.detail (lo64 f.q.b)
    | none => .act [] 0 (f.defer (f.deferred .tnew default 0 0 [])))

/-- R295: STATE becomes 3; the rest is done at its wave's commit. -/
def execTend (t : Tmpl) (l : FormL) (s : State) : Out :=
  .next (s.fire t none false (litL l) fun f =>
    .act [] 0 fun k => (k.modTh f.x.num fun x => { x with state := 3 }).modWv f.x.num f.live
      fun v => { v with tend := true })

/-! ### Switch and transfers (R298 to R302) -/

/-- The port SWITCH sends to, or none when its index is out of range (R298). -/
def switchPort (m : FormS) (a : BitVec 64) : Option Nat :=
  if a.toNat < m.len.toNat then some (m.base.toNat + a.toNat)
  else if m.deflt then some m.defport.toNat else none

/-- R298. -/
def execSwitch (t : Tmpl) (m : FormS) (s : State) : Out :=
  .next (s.fire t none true noLits fun f =>
    match switchPort m (lo64 f.q.a) with
    | none => .raise 0x05 (f.q.a.extractLsb' 0 24) 0
    | some p => .act [f.pass [.port p] f.q.b f.q.tb f.outWave] 0 id)

/-- R301: B to input 0 and a return word to input 1 of the block at A. -/
def execCall (t : Tmpl) (l : FormL) (s : State) : Out :=
  .next (s.fire t none true noLits fun f =>
    let a := lo64 f.q.a
    transfer s f a a 1
      [f.pass [.block a 0] f.q.b f.q.tb (f.w + 1),
       Em.plain [.block a 1] (scalar ((f.p.blk.extractLsb' 4 52 ++ l.word.extractLsb' 0 4).zeroExtend 64)) (f.w + 1)])

/-- R302: B to the input port A[3:0] of the block at A[55:4] × 16. -/
def execRet (t : Tmpl) (l : FormL) (s : State) : Out :=
  .next (s.fire t none true (litL l) fun f =>
    let port := (f.q.a.extractLsb' 0 4).toNat
    let addr : BitVec 64 := (f.q.a.extractLsb' 4 52 ++ (0 : BitVec 4)).zeroExtend 64
    if f.q.a.extractLsb' 56 72 != 0 then .raise 0x04 0 (lo64 f.q.a)
    else transfer s f addr (lo64 f.q.a) port [f.pass [.block addr port] f.q.b f.q.tb (f.w + 1)])

/-- R300: B to input 0 of the block at A. -/
def execBjump (t : Tmpl) (l : FormL) (s : State) : Out :=
  .next (s.fire t none true (litL l) fun f =>
    let a := lo64 f.q.a
    transfer s f a a 0 [f.pass [.block a 0] f.q.b f.q.tb (f.w + 1)])

/-- R303: SOFTWARE when A is true, else A is passed. -/
def execTrap (t : Tmpl) (g : FormG) (s : State) : Out :=
  .next (s.fire t none false noLits fun f =>
    if pred f.q.a then .raise 0x0E (g.imm.zeroExtend 24) (lo64 f.q.a)
    else .act [f.pass f.all f.q.a f.q.ta f.outWave] 0 id)

end Sys2Proof.Machine
end

