-- ==== Sys2Proof/Machine/Control.lean ====
section
/-! DEFINITION. The registers the house, the host and the debug port reach (02 R65 to R75, 07 R202, R205, R207,
08 R231, 16 R439, R450, R455): their fields as words, the house control window (R71), what a write of each
does, house events (R205), and the dictionary rows (06 R164, R171). -/

namespace Sys2Proof.Machine

/-! ### Values of entries no table lists -/

def SpineFreq.cold : SpineFreq := { busy := false, throt := false, ecode := 60, code := 60 }
def PwrCtl.cold : PwrCtl := { budget := 900, mingrant := 1, ballast := true }
def LeaseCtl.cold : LeaseCtl := { gap := 3600, maxconc := 2, hold := false, en := true }
/-- A link at cold reset. R447 gives its key slot no reset value: 0 (DESIGN CHOICE, log entry 137). -/
def Link.cold : Link := { pv := false, peer := 0, width := 8, lanes := 0, key := 0 }
def Temp.cold : Temp := { trip := false, throt := false, hot := false, temp := 0 }

def State.spine (s : State) (die n : Nat) : SpineFreq := tgetD s.spines (die * 8 + n) SpineFreq.cold
def State.setSpine (s : State) (die n : Nat) (r : SpineFreq) : State :=
  { s with spines := tset s.spines (die * 8 + n) r }
def State.power (s : State) (die : Nat) : PwrCtl := tgetD s.pwrctl die PwrCtl.cold
def State.leasing (s : State) (die : Nat) : LeaseCtl := tgetD s.leasectl die LeaseCtl.cold
def State.link (s : State) (n : Nat) : Link := tgetD s.links n Link.cold
def State.tempOf (s : State) (clu : Nat) : Temp := tgetD s.temps clu Temp.cold

/-! ### House events (07 R205) -/

/-- Counts one house event; the number is copied to flash every 2^16. -/
def State.houseEvent (s : State) : State :=
  let n := s.evseq + 1
  { s with evseq := n, flash := if n.toNat % 0x10000 = 0 then { s.flash with evseq := n } else s.flash }

/-- An event record handed to a context's host event queue (05 R160). -/
def hostEvent (kind : BitVec 8) : HostEvent :=
  { kind := kind, cause := 0, detail := 0, cmdseq := 0, launch := 0xFFFFFFFF, data := 0 }

def State.post (s : State) (c : CtxId) (e : HostEvent) : State :=
  s.modCtx c fun k => { k with events := k.events ++ [e] }

/-! ### Dictionary rows (06 R164, R169, R171) -/

def Ctx.dictCount (k : Ctx) (n : Nat) : Nat := ((tgetD k.dreg n 0).extractLsb' 64 11).toNat
def Ctx.dictValid (k : Ctx) (n : Nat) : Bool := (tgetD k.dreg n 0).getLsbD 63
def Ctx.dictBase (k : Ctx) (n : Nat) : Nat := ((tgetD k.dreg n 0).extractLsb' 3 53).toNat * 8

/-- An entry of a registered dictionary, zero for an invalid row or an index at or above COUNT (R171). -/
def State.dictEntry (s : State) (k : Ctx) (n i : Nat) : BitVec 64 :=
  if k.dictValid n && i < k.dictCount n then BitVec.ofNat 64 (s.devWord k (k.dictBase n + 8 * i) 8) else 0

/-! ### Registers as words -/

/-- CTX.STATUS (02 R66). -/
def Ctx.statusWord (k : Ctx) : BitVec 64 :=
  (0 : BitVec 15) ++ BitVec.ofNat 17 k.flt ++ (0 : BitVec 8) ++ BitVec.ofBool k.stalled ++ BitVec.ofBool k.capchg
    ++ BitVec.ofBool k.forced ++ BitVec.ofBool (k.preempt || k.shares.any fun h => h.gated) ++ k.state ++ k.priomax ++ k.num

/-- CTX.FPFLAGS, CTX.DICT, CTX.LCLUST, CTX.SPINE (02 R67 to R69). -/
def Ctx.flagsWord (k : Ctx) : BitVec 64 := k.fpflags.zeroExtend 64
def Ctx.dictWord (k : Ctx) : BitVec 64 := (BitVec.ofBool k.fpend ++ k.sel ++ k.gen).zeroExtend 64
def Ctx.lclustWord (k : Ctx) : BitVec 64 := (k.avail ++ k.lcount).zeroExtend 64

/-- SCORE of a unit (07 R202). -/
def Score.word (r : Score) : BitVec 64 :=
  (BitVec.ofBool r.retired ++ BitVec.ofBool (decide (r.score.toNat ≥ 512)) ++ (0 : BitVec 14) ++ r.score).zeroExtend 64

/-- SYS.START (08 R231). -/
def Start.word (r : Start) : BitVec 64 :=
  (r.recbad ++ r.restarts ++ r.failstep ++ (0 : BitVec 7) ++ BitVec.ofBool r.kind ++ (0 : BitVec 4) ++ r.step).zeroExtend 64

/-- HOST.BIASREQ and SYS.BIASREQ (16 R439); GO reads zero. -/
def BiasReq.word (r : BiasReq) : BitVec 64 :=
  (0 : BitVec 1) ++ BitVec.ofBool r.busy ++ r.result ++ BitVec.ofBool r.toHost ++ (0 : BitVec 7) ++ r.page ++ (0 : BitVec 12)

/-- The number of the retirable unit a kind and number name. -/
def unitOf (kind unit : Nat) : RetUnit := { kind := BitVec.ofNat 8 kind, unit := BitVec.ofNat 16 unit }

/-- The decoded template in an instruction slot, a physical cluster's PE and slot, that a block of a context holds: zero where none
does (03 R102). -/
def Ctx.slotTemplate (k : Ctx) (clu pe slot : Nat) : BitVec 64 :=
  ((k.placed.filter fun p => k.seatOf p == clu).findSome? fun p =>
    ((p.at_.findIdx? (· == (pe, slot))).bind fun i => p.slots[i]?).map fun q => q.tmpl.zeroExtend 64).getD 0

/-- A register as software reads it; the debug port also reads the DREG rows of its target context, the generation that
a placed block was decoded under, a launch's on a logical cluster (06 R171), and the templates in its slots (03 R102). -/
def State.readReg (s : State) : WReg → BitVec 64
  | .spineFreq d n =>
    if n ≥ 7 then 0 else
      let r := s.spine d n
      (BitVec.ofBool r.busy ++ BitVec.ofBool r.throt ++ (0 : BitVec 15) ++ r.ecode ++ (0 : BitVec 1) ++ r.code).zeroExtend 64
  | .spsel c d => (tgetD s.spsel (c * 16 + d) 0).zeroExtend 64
  | .pwrCtl d =>
    let r := s.power d
    (r.budget ++ r.mingrant ++ BitVec.ofBool r.ballast ++ (0 : BitVec 15)).zeroExtend 64
  | .leaseCtl d =>
    let r := s.leasing d
    r.gap ++ (0 : BitVec 16) ++ r.maxconc ++ (0 : BitVec 6) ++ BitVec.ofBool r.hold ++ BitVec.ofBool r.en
  | .hostBiasReq => s.hostBias.word
  | .sysBiasReq => s.sysBias.word
  | .hostBiasCnt => s.biascnt.zeroExtend 64
  | .sysLink n =>
    let r := s.link n
    (BitVec.ofBool r.pv ++ r.peer ++ r.width ++ r.lanes).zeroExtend 64
  | .sysModnum => s.modnum.zeroExtend 64
  | .sysEvseq => s.evseq
  | .sysStart => s.start.word
  | .score kind unit => (s.scoreOf (unitOf kind unit)).word
  | .pwrDom c d =>
    let w := tgetD s.pwrdom (c * 16 + d) PwrDom.zero
    (w.ballast ++ w.used ++ w.grant).zeroExtend 64
  | .sysTemp c =>
    let r := s.tempOf c
    (BitVec.ofBool r.trip ++ BitVec.ofBool r.throt ++ BitVec.ofBool r.hot ++ (0 : BitVec 1) ++ r.temp).zeroExtend 64
  | .dbgCtl => (s.dbg.ctx ++ s.dbg.thread ++ (0 : BitVec 1) ++ BitVec.ofBool s.dbg.halt ++ BitVec.ofBool s.dbg.allthr
      ++ BitVec.ofBool s.dbg.en).zeroExtend 64
  | .dbgBkpt n => tgetD s.dbg.bkpt n 0
  | .dbgStat => s.dbg.wave ++ s.dbg.statThread ++ s.dbg.cause ++ (0 : BitVec 15) ++ BitVec.ofBool s.dbg.halted
  | .dbgDsel => (s.dbg.dict ++ s.dbg.index).zeroExtend 64
  | .dbgDdata => match s.ctx s.dbg.ctx with
      | some k => s.dictEntry k s.dbg.dict.toNat s.dbg.index.toNat
      | none => 0
  | .dbgDreg n high => match s.ctx s.dbg.ctx with
      | some k => (tgetD k.dreg n 0).extractLsb' (if high then 64 else 0) 64
      | none => 0
  | .dbgGen ln l b => (((s.ctx s.dbg.ctx).bind fun k => k.placed.find? fun p => p.ln == ln && p.blk == b && p.lcl == l).map
      fun p => p.gen.zeroExtend 64).getD 0
  | .dbgSlot clu pe slot => ((s.ctx s.dbg.ctx).map fun k => k.slotTemplate clu pe slot).getD 0
  | .ctxStatus c => ((s.ctx c).map Ctx.statusWord).getD 0
  | .ctxFqb c => ((s.ctx c).map (·.fqb)).getD 0
  | .ctxCapqb c => ((s.ctx c).map (·.capqb)).getD 0
  | .ctxLclust c => ((s.ctx c).map Ctx.lclustWord).getD 0
  | .ctxSpine c => ((s.ctx c).map fun k => k.spine.zeroExtend 64).getD 0
  | .ctxOvf c => ((s.ctx c).map (·.ovf)).getD 0
  | .pageEntry pa => BitVec.ofNat 64 (s.mem.word64 pa)
  | .hdmRange _ => match s.hdm with
      | some (a, n, _) => BitVec.ofNat 64 (n / 0x10000000 * 0x100000000 + a / 0x10000000)
      | none => 0
  | .tspLock => (BitVec.ofBool s.tspLock).zeroExtend 64
  | .peerRoute p => (BitVec.ofBool (s.mem.routes.contains p)).zeroExtend 64
  | .peerBind c p => match s.mem.peerBinds.find? fun b => b.1 = c.toNat && b.2.1 = p with
      | some b => BitVec.ofNat 64 (0x8000000000000000 + b.2.2)
      | none => 0
  | .linkKey n => (s.link n).key.zeroExtend 64

/-! ### Gates of the debug port (02 R75) -/

/-- HALT set: the target context is gated and held. -/
def State.halt (s : State) : State :=
  { s.modCtx s.dbg.ctx (fun k => { k with halted := true }) with
    dbg := { s.dbg with halt := true, stepping := false, halted := (s.ctx s.dbg.ctx).isSome } }

/-- HALT cleared: the context goes on, and a firing that a breakpoint stopped takes place. -/
def State.unhalt (s : State) : State :=
  { s.modCtx s.dbg.ctx (fun k => if k.gate = 0 then ({ k with halted := false } : Ctx).feedHeld else { k with halted := false }) with
    dbg := { s.dbg with halt := false, stepping := false, halted := false, pass := s.dbg.stopped, stopped := none } }

/-- STEP written: the context runs until the target thread has committed one wave. -/
def State.stepOne (s : State) : State :=
  { s.modCtx s.dbg.ctx (fun k => if k.gate = 0 then ({ k with halted := false } : Ctx).feedHeld else { k with halted := false }) with
    dbg := { s.dbg with stepping := true, halted := false, pass := s.dbg.stopped, stopped := none } }

/-! ### Writes -/

/-- SYS.SPINEFREQ written: a reserved code and spine 7 are ignored; a change is pending until the next
boundary (02 R72). -/
def State.writeSpineFreq (s : State) (die n : Nat) (code : BitVec 7) : State :=
  if n ≥ 7 || code.toNat > 80 then s
  else s.setSpine die n { s.spine die n with code := code, busy := true }

/-- DOM.SPSEL written: it takes effect at the domain's next boundary (16 R454). -/
def State.writeSpsel (s : State) (clu dom : Nat) (sp : BitVec 3) : State :=
  { s with spsel := tset s.spsel (clu * 16 + dom) sp
           parked := if s.coolantBad then s.parked else s.parked.filter (· != clu * 16 + dom) }

/-- A bias request register written (16 R439). -/
def BiasReq.write (r : BiasReq) (now : Nat) (v : BitVec 64) : BiasReq :=
  let to_ := v.getLsbD 59
  let page := v.extractLsb' 12 40
  if !v.getLsbD 63 then { r with toHost := to_, page := page }
  else if r.busy then r
  else { busy := true, result := 0, toHost := to_, page := page, goTo := to_, goPage := page, since := now, locks := false }

def State.setPower (s : State) (die : Nat) (r : PwrCtl) : State := { s with pwrctl := tset s.pwrctl die r }
def State.setLeasing (s : State) (die : Nat) (r : LeaseCtl) : State := { s with leasectl := tset s.leasectl die r }

/-- A page-table entry written by the house (03 R79). -/
def State.houseWord (s : State) (pa : Nat) (v : BitVec 64) : State :=
  let m := s.mem
  { s with mem := { m with hbm := wrN m.hbm (pa / 8 * 8) (leBytes 8 v.toNat) } }

/-- A requested link width: 1, 2, 4 or 8 lanes (16 R450). -/
def widthOk (w : BitVec 4) : Bool := [1, 2, 4, 8].contains w.toNat

/-- DBG.CTL written: its RW fields, then HALT and STEP act. A context that is held goes on when HALT is written 0, and when
the port turns to another context (02 R75). -/
def State.writeDbgCtl (s : State) (v : BitVec 64) : State :=
  let held := s.dbg.halt || s.dbg.halted
  let away := v.extractLsb' 20 12 != s.dbg.ctx
  let s0 := if held && (away || (!v.getLsbD 2 && !v.getLsbD 3)) then s.unhalt else s
  let s1 := { s0 with dbg := { s0.dbg with ctx := v.extractLsb' 20 12, thread := v.extractLsb' 4 16, halt := v.getLsbD 2,
                                           allthr := v.getLsbD 1, en := v.getLsbD 0 } }
  if v.getLsbD 3 then s1.stepOne else if v.getLsbD 2 then s1.halt else s1

/-- A page lies in a range exposed to the host. -/
def inRange (h : Option (Nat × Nat × Nat)) (page : Nat) : Bool :=
  match h with
  | some (a, n, _) => a / 4096 ≤ page && page < (a + n) / 4096
  | none => false

/-- The pages outside an exposed range are in device bias, and the host holds no line of them (06 R186; DESIGN CHOICE of what a
change of the range does to pages it leaves out, log entry 107). -/
def Mems.exposeOnly (m : Mems) (h : Option (Nat × Nat × Nat)) : Mems :=
  { m with bias := m.bias.filter (inRange h), locked := m.locked.filter (inRange h)
           dir := m.dir.map fun e => if inRange h (e.1 / 64) then e else (e.1, { e.2 with host := false }) }

/-- The exposed range, in units of 256 MiB, within local HBM, with its key slot; frozen by the TSP lock (16 R438, R445). -/
def State.setHdm (s : State) (start size key : Nat) : State :=
  if s.tspLock || start + size > 4096 then s
  else
    let h := if size = 0 then none else some (start * 0x10000000, size * 0x10000000, key)
    { s with hdm := h, mem := s.mem.exposeOnly h }

/-- A route to a peer module through others, configured by the house (16 R449). -/
def State.setRoute (s : State) (p : Nat) (on : Bool) : State :=
  let rs := s.mem.routes.filter (· != p)
  { s with mem := { s.mem with routes := if on then rs ++ [p] else rs } }

/-- A binding of a local context and a peer module to a context of the peer (16 R449). -/
def State.setPeerBind (s : State) (c p : Nat) (on : Bool) (far : Nat) : State :=
  let bs := s.mem.peerBinds.filter fun b => !(b.1 = c && b.2.1 = p)
  { s with mem := { s.mem with peerBinds := if on then bs ++ [(c, p, far)] else bs } }

/-- A write of a whole register: RW fields take the value, W1C bits written 1 clear, the rest stands (00 R4). -/
def State.writeReg (s : State) (r : WReg) (v : BitVec 64) : State :=
  match r with
  | .spineFreq d n => s.writeSpineFreq d n (v.extractLsb' 0 7)
  | .spsel c d => s.writeSpsel c d (v.extractLsb' 0 3)
  | .pwrCtl d => s.setPower d
      { budget := v.extractLsb' 32 16, mingrant := v.extractLsb' 16 16, ballast := v.getLsbD 15 }
  | .leaseCtl d => s.setLeasing d
      { gap := v.extractLsb' 32 32, maxconc := v.extractLsb' 8 8, hold := v.getLsbD 1, en := v.getLsbD 0 }
  | .hostBiasReq => { s with hostBias := s.hostBias.write s.tick v }
  | .sysBiasReq => { s with sysBias := s.sysBias.write s.tick v }
  | .sysLink n =>
    if widthOk (v.extractLsb' 4 4) then { s with links := tset s.links n { s.link n with width := v.extractLsb' 4 4 } }
    else s
  | .linkKey n => { s with links := tset s.links n { s.link n with key := v.extractLsb' 0 12 } }
  | .sysModnum => { s with modnum := v.extractLsb' 0 8 }
  | .dbgCtl => s.writeDbgCtl v
  | .dbgBkpt n => { s with dbg := { s.dbg with bkpt := tset s.dbg.bkpt n (v &&& 0xFFFFFFFFFFFFFFF0) } }
  | .dbgDsel => { s with dbg := { s.dbg with dict := v.extractLsb' 10 4, index := v.extractLsb' 0 10 } }
  | .ctxStatus c => s.modCtx c fun k =>
      { k with priomax := v.extractLsb' 12 4, capchg := k.capchg && !v.getLsbD 22, forced := k.forced && !v.getLsbD 21 }
  | .ctxFqb c => s.modCtx c fun k => { k with fqb := v &&& 0xFFFFFFFFFFFFFFC1 }
  | .ctxCapqb c => s.modCtx c fun k => { k with capqb := v &&& 0xFFFFFFFFFFFFFFC1 }
  | .ctxLclust c => s.modCtx c fun k => { k with lcount := v.extractLsb' 0 8 }
  | .ctxSpine c => s.modCtx c fun k => { k with spine := v.extractLsb' 0 3 }
  | .ctxOvf c => s.modCtx c fun k => { k with ovf := v &&& 0xFFFFFFFFFFFF0000 }
  | .pageEntry pa => s.houseWord pa v
  | .hdmRange key => s.setHdm (v.extractLsb' 0 32).toNat (v.extractLsb' 32 32).toNat key.toNat
  | .tspLock => { s with tspLock := s.tspLock || v.getLsbD 0 }
  | .peerRoute p => s.setRoute p (v.getLsbD 0)
  | .peerBind c p => s.setPeerBind c.toNat p (v.getLsbD 63) (v.extractLsb' 0 12).toNat
  | .dbgStat | .dbgDdata | .dbgDreg _ _ | .dbgGen .. | .dbgSlot .. | .sysEvseq | .sysStart | .score _ _ | .pwrDom _ _ | .sysTemp _ | .hostBiasCnt => s

/-! ### The house control window (02 R71) -/

/-- The register at an offset of the window, if one starts there. -/
def controlReg (off : Nat) : Option WReg :=
  if off % 8 != 0 then none
  else
    let low := off % 0x1000000
    match off / 0x1000000 with
    | 0 => if low / 0x10000 < 4 && low % 0x10000 < 64 then some (.spineFreq (low / 0x10000) (low % 0x10000 / 8)) else none
    | 1 => if low / 0x100 < 96 && low % 0x100 < 128 then some (.spsel (low / 0x100) (low % 0x100 / 8)) else none
    | 2 => if low < 32 then some (.pwrCtl (low / 8)) else none
    | 3 => if low < 32 then some (.leaseCtl (low / 8)) else none
    | 4 => if low / 0x100 < 96 && low % 0x100 < 128 then some (.pwrDom (low / 0x100) (low % 0x100 / 8)) else none
    | 5 =>
      let kind := low / 0x10000
      let unit := low % 0x10000 / 8
      if (kind = 0 && unit < 96) || (kind = 1 && unit < 16) || (kind = 2 && unit < 4096) || (kind = 3 && unit < 128)
      then some (.score kind unit) else none
    | 6 => if low = 0 then some .sysEvseq else none
    | 7 => if low = 0 then some .sysStart else none
    | 8 => if low = 0 then some .sysBiasReq else if low = 8 then some .hostBiasCnt else none
    | 9 => if low < 96 * 8 then some (.sysTemp (low / 8)) else none
    | 10 => if low < 128 then some (.sysLink (low / 8)) else if low = 0x100 then some .sysModnum else none
    | _ => none

/-! ### The host's registers in CXL.io BAR0 (16 R439) -/

/-- What lies at an offset of BAR0. -/
inductive BarReg where
  | reg (r : WReg)
  | doorbell (c : CtxId)
  deriving DecidableEq, Repr, Inhabited

/-- The offset of a context's doorbell. -/
def doorbellAt (c : CtxId) : Nat := 0x100000 + c.toNat * 8

/-- The host register at an offset of BAR0, if one starts there. -/
def barReg (off : Nat) : Option BarReg :=
  if off = 0x1000 then some (.reg .hostBiasReq)
  else if off = 0x1008 then some (.reg .hostBiasCnt)
  else if 0x100000 ≤ off && off < 0x100000 + 4096 * 8 && off % 8 = 0 then
    some (.doorbell (BitVec.ofNat 12 ((off - 0x100000) / 8)))
  else none

/-- A host write to BAR0: any value rings a doorbell. -/
def State.barWrite (s : State) (off : Nat) (v : BitVec 64) : State :=
  match barReg off with
  | some (.reg r) => s.writeReg r v
  | some (.doorbell c) => s.modCtx c fun k => { k with doorbell := true }
  | none => s

/-- A host read of BAR0; a doorbell reads 0. -/
def State.barRead (s : State) (off : Nat) : BitVec 64 :=
  match barReg off with
  | some (.reg r) => s.readReg r
  | _ => 0

/-- What a house load or store of n bytes at an offset breaks: PROTECTION, reason 6 (R71, R78). -/
def controlFail (off n : Nat) : Option Fail :=
  if n = 8 && (controlReg off).isSome then none else some (protFail 6)

end Sys2Proof.Machine
end

