-- ==== Sys2Proof/Machine/Flags.lean ====
section
/-! DEFINITION. The exception flags of CTX.FPFLAGS (02 R67) and every rule that raises one (09 R240 to R242):
the flags of a rounding are computed here from what was lost and where the result lies. -/

namespace Sys2Proof.Machine

/-- The five flags, in their places of CTX.FPFLAGS. -/
abbrev FpFlags := BitVec 5

def fNV : FpFlags := 0b10000
def fDZ : FpFlags := 0b01000
def fOF : FpFlags := 0b00100
def fUF : FpFlags := 0b00010
def fNX : FpFlags := 0b00001

def flagIf (c : Bool) (f : FpFlags) : FpFlags := if c then f else 0

/-- The flags of a finite rounding that did not overflow: UF when the rounded result is tiny and inexact, NX
when it is inexact (R240). -/
def roundFlags (tiny inexact : Bool) : FpFlags := flagIf (tiny && inexact) fUF ||| flagIf inexact fNX

/-- A finite overflow accrues OF and NX (R241). -/
def overflowFlags : FpFlags := fOF ||| fNX

end Sys2Proof.Machine
end

