-- ==== Sys2Proof/Machine/Numbers.lean ====
section
/-! DEFINITION. Number formats and arithmetic (09): exact values as sign, magnitude and binary exponent,
rounding to a format under a mode, conversions, the BQ formats and the four estimates. Nothing is rounded
twice: every operation forms its exact value, or its exact value's leading bits with a sticky bit, and
rounds once. -/

namespace Sys2Proof.Machine

/-! ### Formats (R234 to R238) -/

/-- A floating format: width, fraction bits, bias, and whether it has infinities. -/
structure Fmt where
  w : Nat
  fb : Nat
  bias : Nat
  hasInf : Bool
  deriving DecidableEq, Repr, Inhabited

/-- The floating format of a TY code. -/
def fmtOf (ty : Nat) : Fmt :=
  match ty with
  | 0 => ⟨32, 23, 127, true⟩
  | 1 => ⟨16, 10, 15, true⟩
  | 2 => ⟨16, 7, 127, true⟩
  | 11 => ⟨8, 3, 7, false⟩
  | _ => ⟨8, 2, 15, true⟩

def Fmt.eb (f : Fmt) : Nat := f.w - 1 - f.fb
def Fmt.expMask (f : Fmt) : Nat := 2 ^ f.eb - 1
def Fmt.signBit (f : Fmt) : Nat := 2 ^ (f.w - 1)
/-- The exponent of the smallest normal number. -/
def Fmt.emin (f : Fmt) : Int := 1 - (f.bias : Int)
/-- The bits of the largest finite magnitude, of infinity and of the canonical NaN (R235 to R237). -/
def Fmt.maxBits (f : Fmt) : Nat :=
  if f.hasInf then f.expMask * 2 ^ f.fb - 1 else f.expMask * 2 ^ f.fb + (2 ^ f.fb - 2)
def Fmt.infBits (f : Fmt) : Nat := f.expMask * 2 ^ f.fb
def Fmt.nanBits (f : Fmt) : Nat :=
  if f.hasInf then f.expMask * 2 ^ f.fb + 2 ^ (f.fb - 1) else f.expMask * 2 ^ f.fb + (2 ^ f.fb - 1)

/-- A value: a NaN (with whether it signals), an infinity, or (−1)^neg × m × 2^e. -/
inductive FV where
  | nan (signalling : Bool)
  | inf (neg : Bool)
  | fin (neg : Bool) (m : Nat) (e : Int)
  deriving DecidableEq, Repr, Inhabited

/-- The value an encoding holds (R235 to R238). -/
def decodeF (f : Fmt) (v : Nat) : FV :=
  let neg := v / f.signBit % 2 = 1
  let x := v / 2 ^ f.fb % 2 ^ f.eb
  let fr := v % 2 ^ f.fb
  if f.hasInf then
    if x = f.expMask then
      if fr = 0 then .inf neg else .nan (decide (fr < 2 ^ (f.fb - 1)))
    else if x = 0 then .fin neg fr (f.emin - f.fb)
    else .fin neg (2 ^ f.fb + fr) ((x : Int) - f.bias - f.fb)
  else if x = f.expMask && fr = 2 ^ f.fb - 1 then .nan false
  else if x = 0 then .fin neg fr (f.emin - f.fb)
  else .fin neg (2 ^ f.fb + fr) ((x : Int) - f.bias - f.fb)

def FV.isNan : FV → Bool
  | .nan _ => true
  | _ => false
def FV.signals : FV → Bool
  | .nan s => s
  | _ => false
def FV.isInf : FV → Bool
  | .inf _ => true
  | _ => false
def FV.neg? : FV → Bool
  | .nan _ => false
  | .inf n => n
  | .fin n _ _ => n
/-- The value with its sign inverted; a NaN keeps nothing but being one. -/
def FV.negate : FV → FV
  | .nan s => .nan s
  | .inf n => .inf !n
  | .fin n m e => .fin (!n) m e

/-! ### Rounding (R239) -/

/-- Whether a magnitude whose discarded part is compared with a half is rounded up: `c` is 0 for none, 1
below a half, 2 a half, 3 above. -/
def roundsUp (rm : Nat) (neg odd : Bool) (c : Nat) : Bool :=
  match rm with
  | 0 => c = 3 || (c = 2 && odd)
  | 1 => false
  | 2 => neg && c != 0
  | 3 => !neg && c != 0
  | _ => c ≥ 2

/-- m × 2^−sh, with a sticky bit below, rounded to an integer; and whether anything was lost. -/
def roundShift (rm : Nat) (neg : Bool) (m sh : Nat) (sticky : Bool) : Nat × Bool :=
  let q := m / 2 ^ sh
  let r := 2 * (m % 2 ^ sh)
  let half := 2 ^ sh
  let c := if r = 0 && !sticky then 0 else if r < half then 1 else if r = half && !sticky then 2 else 3
  (if roundsUp rm neg (q % 2 = 1) c then q + 1 else q, c != 0)

/-- m × 2^e rounded to a multiple of 2^qe, in those units. -/
def roundAt (rm : Nat) (neg : Bool) (m : Nat) (e qe : Int) (sticky : Bool) : Nat × Bool :=
  if e ≥ qe then (m * 2 ^ (e - qe).toNat, sticky) else roundShift rm neg m (qe - e).toNat sticky

/-- q × 2^qe > the largest finite magnitude of a format. -/
def Fmt.beyond (f : Fmt) (q : Nat) (qe : Int) : Bool :=
  let top : Nat := if f.hasInf then 2 ^ (f.fb + 1) - 1 else 2 ^ (f.fb + 1) - 2
  let te : Int := (if f.hasInf then (f.expMask : Int) - 1 else f.expMask) - f.bias - f.fb
  if qe ≥ te then decide (q * 2 ^ (qe - te).toNat > top) else decide (q > top * 2 ^ (te - qe).toNat)

/-- The bits of q × 2^qe, which the format holds exactly. -/
def Fmt.pack (f : Fmt) (q : Nat) (qe : Int) : Nat :=
  if q = 0 then 0
  else if q < 2 ^ f.fb then q
  else
    let (q1, e1) := if q ≥ 2 ^ (f.fb + 1) then (q / 2, qe + 1) else (q, qe)
    (e1 + f.fb + f.bias).toNat * 2 ^ f.fb + (q1 - 2 ^ f.fb)

/-- What overflow delivers (R241). -/
def Fmt.overflow (f : Fmt) (rm : Nat) (sat neg : Bool) : Nat :=
  let s := if neg then f.signBit else 0
  if sat then s + f.maxBits
  else if !f.hasInf then f.nanBits
  else if rm = 1 || (rm = 2 && !neg) || (rm = 3 && neg) then s + f.maxBits
  else s + f.infBits

/-- An exact finite value, with a sticky bit, delivered in a format (R239 to R241). -/
def deliverNum (f : Fmt) (rm : Nat) (sat neg : Bool) (m : Nat) (e : Int) (sticky : Bool) : Nat × FpFlags :=
  let s := if neg then f.signBit else 0
  if m = 0 then (s, 0)
  else
    let lead := (Nat.log2 m : Int) + e
    let uq := lead - f.fb
    let (u, _) := roundAt rm neg m e uq sticky
    if f.beyond u uq then (f.overflow rm sat neg, overflowFlags)
    else
      let tiny := decide (u < 2 ^ (f.emin - uq).toNat) && decide (uq ≤ f.emin)
      let qe := max uq (f.emin - f.fb)
      let (q, lost) := roundAt rm neg m e qe sticky
      (s + f.pack q qe, roundFlags tiny lost)

/-- An exact result before rounding. -/
inductive Exact where
  | nan (nv : Bool)
  | inf (neg dz : Bool)
  | num (neg : Bool) (m : Nat) (e : Int) (sticky : Bool)
  deriving DecidableEq, Repr, Inhabited

/-- Delivers an exact result in a format: canonical NaN, infinity under R241, or the rounded number. -/
def deliver (f : Fmt) (rm : Nat) (sat : Bool) : Exact → Nat × FpFlags
  | .nan nv => (f.nanBits, flagIf nv fNV)
  | .inf neg dz =>
    let s := if neg then f.signBit else 0
    if sat then (s + f.maxBits, flagIf dz fDZ)
    else if f.hasInf then (s + f.infBits, flagIf dz fDZ)
    else (f.nanBits, fNV ||| flagIf dz fDZ)
  | .num neg m e sticky => deliverNum f rm sat neg m e sticky

/-! ### Exact operations -/

/-- The value as an integer in units of 2^lo, for lo at or below its exponent. -/
def FV.units (lo : Int) : FV → Int
  | .fin n m e => (if n then -1 else 1) * ((m * 2 ^ (e - lo).toNat : Nat) : Int)
  | _ => 0

/-- The least exponent among finite values. -/
def leastExp : List FV → Int
  | [] => 0
  | [.fin _ _ e] => e
  | .fin _ _ e :: r => min e (leastExp r)
  | _ :: r => leastExp r

def FV.isZero : FV → Bool
  | .fin _ 0 _ => true
  | _ => false

/-- The exact sum of terms: NaN for a NaN or for infinities of both signs, else an infinity, else the sum,
whose zero takes the common sign of its terms or the sign R239 gives (R320, R322). -/
def sumExact (rm : Nat) (ts : List FV) : Exact :=
  if ts.any FV.isNan then .nan (ts.any FV.signals)
  else
    let pos := ts.any fun t => t.isInf && !t.neg?
    let neg := ts.any fun t => t.isInf && t.neg?
    if pos && neg then .nan true
    else if pos || neg then .inf neg false
    else
      let lo := leastExp ts
      let x := (ts.map (FV.units lo)).foldl (· + ·) 0
      if x = 0 then
        if ts.all (fun t => t.isZero && t.neg?) then .num true 0 0 false
        else if ts.all (fun t => t.isZero && !t.neg?) then .num false 0 0 false
        else .num (rm = 2) 0 0 false
      else .num (x < 0) x.natAbs lo false

/-- The exact product; 0 × ∞ is a NaN that raises NV (R240). -/
def mulFV (a b : FV) : FV :=
  match a, b with
  | .nan s, .nan r => .nan (s || r)
  | .nan s, _ => .nan s
  | _, .nan r => .nan r
  | .inf n, .inf k => .inf (n != k)
  | .inf n, .fin k m _ => if m = 0 then .nan true else .inf (n != k)
  | .fin n m _, .inf k => if m = 0 then .nan true else .inf (n != k)
  | .fin n m e, .fin k p d => .fin (n != k) (m * p) (e + d)

/-- An exact result of zero that is neither a sum, a product nor a quotient: +0, and −0 in RDN (R239). -/
def FV.plainZero (rm : Nat) : FV → FV
  | .fin n m e => .fin (if m = 0 then rm == 2 else n) m e
  | x => x

/-- A value as an exact result. -/
def FV.exact : FV → Exact
  | .nan s => .nan s
  | .inf n => .inf n false
  | .fin n m e => .num n m e false

/-- The exact quotient's leading bits, 40 more than the divisor's, with a sticky bit (R321). -/
def divExact (a b : FV) : Exact :=
  match a, b with
  | .nan s, .nan r => .nan (s || r)
  | .nan s, _ => .nan s
  | _, .nan r => .nan r
  | .inf _, .inf _ => .nan true
  | .inf n, .fin k _ _ => .inf (n != k) false
  | .fin n _ _, .inf k => .num (n != k) 0 0 false
  | .fin n m e, .fin k p d =>
    if p = 0 then (if m = 0 then .nan true else .inf (n != k) true)
    else if m = 0 then .num (n != k) 0 0 false
    else
      let sh := Nat.log2 p + 40
      let x := m * 2 ^ sh
      .num (n != k) (x / p) (e - sh - d) (decide (x % p ≠ 0))

/-- The integer square root, found bit by bit from bit i − 1 down. -/
def isqrt (x : Nat) : Nat → Nat → Nat
  | 0, r => r
  | i + 1, r => isqrt x i (if (r + 2 ^ i) * (r + 2 ^ i) ≤ x then r + 2 ^ i else r)

/-- The square root's leading bits with a sticky bit (R321). -/
def sqrtExact : FV → Exact
  | .nan s => .nan s
  | .inf n => if n then .nan true else .inf false false
  | .fin n m e =>
    if m = 0 then .num n 0 0 false
    else if n then .nan true
    else
      let sh := 80 + (e % 2).toNat
      let x := m * 2 ^ sh
      let r := isqrt x 64 0
      .num false r ((e - sh) / 2) (decide (r * r ≠ x))

/-! ### Order -/

/-- A key that orders the encodings of a format, both zeros alike. -/
def orderKey (f : Fmt) (v : Nat) : Int :=
  let mag : Int := (v % f.signBit : Nat)
  if v / f.signBit % 2 = 1 then -mag else mag

/-- A key that puts −0 below +0 (R324). -/
def orderKeyZ (f : Fmt) (v : Nat) : Int :=
  let mag : Int := (v % f.signBit : Nat)
  if v / f.signBit % 2 = 1 then -mag - 1 else mag

/-- VMIN and VMAX of two elements (R324). -/
def minMaxF (f : Fmt) (isMax : Bool) (a b : Nat) : Nat × FpFlags :=
  let x := decodeF f a
  let y := decodeF f b
  let fl := flagIf (x.signals || y.signals) fNV
  if x.isNan && y.isNan then (f.nanBits, fl)
  else if x.isNan then (b, fl)
  else if y.isNan then (a, fl)
  else if isMax then (if orderKeyZ f a < orderKeyZ f b then b else a, fl)
  else (if orderKeyZ f b < orderKeyZ f a then b else a, fl)

/-! ### Integer ranges (R234) -/

def isSignedTy (ty : Nat) : Bool := ty ≤ 6

/-- An element read under its integer type. -/
def intVal (ty v : Nat) : Int := if isSignedTy ty then signed (tyWidth ty) v else (v % 2 ^ tyWidth ty : Nat)

def intLow (ty : Nat) : Int := if isSignedTy ty then -((2 ^ (tyWidth ty - 1) : Nat) : Int) else 0
def intHigh (ty : Nat) : Int :=
  ((2 ^ (if isSignedTy ty then tyWidth ty - 1 else tyWidth ty) : Nat) : Int) - 1
def clampTo (ty : Nat) (x : Int) : Int := max (intLow ty) (min (intHigh ty) x)

/-- An exact integer delivered in a type: clamped with SAT, else its low bits. -/
def deliverInt (ty : Nat) (sat : Bool) (x : Int) : Nat := wrapTo (tyWidth ty) (if sat then clampTo ty x else x)

/-! ### Conversions (R241, R242, R332) -/

/-- Floating to integer under a mode (R242). -/
def floatToInt (f : Fmt) (ty rm v : Nat) : Nat × FpFlags :=
  match decodeF f v with
  | .nan _ => (0, fNV)
  | .inf n => (wrapTo (tyWidth ty) (if n then intLow ty else intHigh ty), fNV)
  | .fin n m e =>
    let (q, lost) := roundAt rm n m e 0 false
    let x : Int := if n then -(q : Int) else q
    if x < intLow ty || intHigh ty < x then (wrapTo (tyWidth ty) (clampTo ty x), fNV)
    else (wrapTo (tyWidth ty) x, flagIf lost fNX)

/-- Integer to floating (R242). -/
def intToFloat (f : Fmt) (ty rm : Nat) (sat : Bool) (v : Nat) : Nat × FpFlags :=
  let x := intVal ty v
  deliver f rm sat (FV.plainZero rm (.fin (x < 0) x.natAbs 0)).exact

/-- Floating to floating (R241, R332). -/
def floatToFloat (f g : Fmt) (same : Bool) (rm : Nat) (sat : Bool) (v : Nat) : Nat × FpFlags :=
  let x := decodeF f v
  if same && !x.isNan then (v, 0) else deliver g rm sat (x.plainZero rm).exact

/-- Rounding to an integral value in the same format (R329). -/
def roundIntegral (f : Fmt) (rm : Nat) (x : Bool) (v : Nat) : Nat × FpFlags :=
  match decodeF f v with
  | .nan s => (f.nanBits, flagIf s fNV)
  | .inf _ => (v, 0)
  | .fin n m e =>
    if m = 0 || e ≥ 0 then (v, 0)
    else
      let (q, lost) := roundAt rm n m e 0 false
      ((deliverNum f 0 false n q 0 false).1, flagIf (lost && x) fNX)

/-- a × 2^k (R330). -/
def scaleBy (f : Fmt) (rm : Nat) (sat : Bool) (v : Nat) (k : Int) : Nat × FpFlags :=
  match decodeF f v with
  | .nan s => (f.nanBits, flagIf s fNV)
  | .inf _ => (v, 0)
  | .fin n m e => if m = 0 then (v, 0) else deliver f rm sat (.num n m (e + k) false)

/-- The class bit of an element (R328). -/
def classify (f : Fmt) (v : Nat) : Nat :=
  match decodeF f v with
  | .nan s => if s then 2 ^ 8 else 2 ^ 9
  | .inf n => if n then 2 ^ 0 else 2 ^ 7
  | .fin n m e =>
    if m = 0 then (if n then 2 ^ 3 else 2 ^ 4)
    else if m < 2 ^ f.fb && e = f.emin - f.fb then (if n then 2 ^ 2 else 2 ^ 5)
    else (if n then 2 ^ 1 else 2 ^ 6)

/-! ### Estimates (R246 to R248) -/

/-- A positive value's leading bits with a sticky bit, rounded RNE to 12 significant bits. -/
def round12 (m : Nat) (e : Int) (sticky : Bool) : Nat × Int :=
  let qe := (Nat.log2 m : Int) + e - 11
  ((roundAt 0 false m e qe sticky).1, qe)

/-- Delivers an estimate: RNE, no UF and no NX (R323). -/
def deliverEst (f : Fmt) (neg : Bool) (m : Nat) (e : Int) (sticky : Bool) : Nat × FpFlags :=
  let (q, qe) := round12 m e sticky
  let (v, fl) := deliverNum f 0 false neg q qe false
  (v, fl &&& fOF)

/-- The normalised exponent and the first k bits of the fraction of a finite magnitude. -/
def leadExp (m : Nat) (e : Int) : Int := (Nat.log2 m : Int) + e
def leadBits (m k : Nat) : Nat := m * 2 ^ k / 2 ^ Nat.log2 m - 2 ^ k

def rsqrtEst (f : Fmt) (v : Nat) : Nat × FpFlags :=
  match decodeF f v with
  | .nan s => (f.nanBits, flagIf s fNV)
  | .inf n => if n then (f.nanBits, fNV) else (0, 0)
  | .fin n m e =>
    if m = 0 then ((if n then f.signBit else 0) + f.infBits, fDZ)
    else if n then (f.nanBits, fNV)
    else
      let x := leadExp m e
      let c := 128 + (2 * leadBits m 6 + 1)
      let odd := ((x - 7) % 2).toNat
      -- 1/√(c × 2^odd × 2^(x−7−odd))
      deliverEst f false (isqrt (2 ^ 120 / (c * 2 ^ odd)) 64 0) (-60 - (x - 7 - odd) / 2) true

def recipEst (f : Fmt) (v : Nat) : Nat × FpFlags :=
  match decodeF f v with
  | .nan s => (f.nanBits, flagIf s fNV)
  | .inf n => (if n then f.signBit else 0, 0)
  | .fin n m e =>
    if m = 0 then ((if n then f.signBit else 0) + f.infBits, fDZ)
    else
      let c := 256 + (2 * leadBits m 7 + 1)
      deliverEst f n (2 ^ 60 / c) (-60 - (leadExp m e - 8)) true

/-- The largest r below 2^i above `r` with r^256 ≤ x, found bit by bit. -/
def root256 (x : Nat) : Nat → Nat → Nat
  | 0, r => r
  | i + 1, r => root256 x i (if (r + 2 ^ i) ^ 256 ≤ x then r + 2 ^ i else r)

/-- The floor and the fraction's first 7 bits of a finite value below 2^20 in magnitude. -/
def floorFrac (n : Bool) (m : Nat) (e : Int) : Int × Nat :=
  let scaled : Int :=
    if e ≥ -7 then (if n then -1 else 1) * ((m * 2 ^ (e + 7).toNat : Nat) : Int)
    else (if n then -(m : Int) else m) / ((2 ^ (-7 - e).toNat : Nat) : Int)
  (scaled / 128, (scaled % 128).toNat)

/-- VEXPE (R248). The rule does not say where the exponent range ends below: an integer part under emin − fb gives +0, where rounding
into the subnormal range could give its least value (DESIGN CHOICE, log entry 144). -/
def expEst (f : Fmt) (v : Nat) : Nat × FpFlags :=
  match decodeF f v with
  | .nan s => (f.nanBits, flagIf s fNV)
  | .inf n => if n then (0, 0) else (f.infBits, 0)
  | .fin n m e =>
    if m = 0 then deliverNum f 0 false false 1 0 false
    else if leadExp m e ≥ 20 then (if n then (0, 0) else (f.infBits, fOF))
    else
      let (q, k) := floorFrac n m e
      -- 2^(15 + j/256) with j = 2k + 1: its floor, with a sticky bit; +0 below the exponent range
      if q < f.emin - f.fb then (0, 0) else deliverEst f false (root256 (2 ^ (256 * 15 + (2 * k + 1))) 17 0) (q - 15) true

/-- Fraction bits of log2 of z, a fixed-point number in [1, 2) with 128 fraction bits, by repeated
squaring. -/
def log2Bits : Nat → Nat → Nat → Nat
  | 0, _, acc => acc
  | i + 1, z, acc =>
    let s := z * z / 2 ^ 128
    if s ≥ 2 ^ 129 then log2Bits i (s / 2) (2 * acc + 1) else log2Bits i s (2 * acc)

def logEst (f : Fmt) (v : Nat) : Nat × FpFlags :=
  match decodeF f v with
  | .nan s => (f.nanBits, flagIf s fNV)
  | .inf n => if n then (f.nanBits, fNV) else (f.infBits, 0)
  | .fin n m e =>
    if m = 0 then (f.signBit + f.infBits, fDZ)
    else if n then (f.nanBits, fNV)
    else
      let c := 256 + (2 * leadBits m 7 + 1)
      let total : Int := leadExp m e * 2 ^ 48 + (log2Bits 48 (c * 2 ^ 120) 0 : Nat)
      if total < 0 then deliverEst f true (-total - 1).toNat (-48) true
      else deliverEst f false total.toNat (-48) true

/-! ### BQ block formats (R243 to R245, R339) -/

/-- Mantissa bits of a BQ format code. -/
def bqBits (code : Nat) : Nat :=
  match code with
  | 0 => 8 | 1 => 6 | 2 => 4 | _ => 2

/-- The key of an element: 0xFFFF when not finite, 0 when zero, else floor(log2 |x|) + 201 (R339). -/
def bqKey (f : Fmt) (v : Nat) : Nat :=
  match decodeF f v with
  | .nan _ => 0xFFFF
  | .inf _ => 0xFFFF
  | .fin _ m e => if m = 0 then 0 else (leadExp m e + 201).toNat

/-- The exponent byte a key gives (R339, mode XB). -/
def bqXb (key b : Nat) : Nat :=
  if key = 0 then 0 else if key = 0xFFFF then 255
  else (min 254 (max 0 (127 + ((key : Int) - 201) - ((b : Int) - 2)))).toNat

/-- The mantissa of an element under an exponent byte, with its flags (R339, mode MANT). -/
def bqMant (f : Fmt) (b xb v : Nat) : Nat × FpFlags :=
  let lo : Int := -((2 ^ (b - 1) : Nat) : Int)
  let hi : Int := ((2 ^ (b - 1) : Nat) : Int) - 1
  if xb = 255 then (0, 0)
  else match decodeF f v with
    | .nan _ => (0, fNV)
    | .inf n => (wrapTo b (if n then lo else hi), fNV)
    | .fin n m e =>
      let (q, lost) := roundAt 0 n m (e + 127 - xb) 0 false
      let x : Int := if n then -(q : Int) else q
      let c := max lo (min hi x)
      (wrapTo b c, flagIf (lost || c != x) fNX)

/-- The exact value of a BQ element; an exponent byte of 255 is a quiet NaN (R243, R245). -/
def bqValue (b xb mant : Nat) : FV :=
  if xb = 255 then .nan false
  else
    let x := signed b mant
    .fin (x < 0) x.natAbs ((xb : Int) - 127)

end Sys2Proof.Machine
end

