-- ==== Sys2Proof/Machine/StoreBuffer.lean ====
section
/-! DEFINITION. The store buffer: delivery of form-M operations and the chain they form (13 R345 to R349), the
orders it keeps (04 R105 to R120), the probe of a plain access (13 R366), and the performance of loads, stores,
presence operations, atomics and owner flips (03 R87 to R98, 13 R350 to R365). -/

namespace Sys2Proof.Machine

/-! ### Kinds (13 R345, 15 R397) -/

/-- The operation is performed before its wave commits and returns a value. -/
def MemAct.isLoad : MemAct → Bool
  | .ld | .ldc | .ldi | .feq | .invl | .lstat | .joinw | .dget => true
  | _ => false

/-- An atomic that returns a value: its result is emitted after commit into the next wave. -/
def MemAct.isAtomic : MemAct → Bool
  | .atom _ | .lbar | .pqget | .rtget | .qget | .iqget | .iqlook | .iqcons | .iqquiet | .capget => true
  | _ => false

/-- A marker or a hint: no performance of its own. -/
def MemAct.isMark : MemAct → Bool
  | .mnop | .pref | .fence => true
  | _ => false

/-- The operation is performed at its wave's commit: stores, atomics and reductions. -/
def MemAct.atCommit (a : MemAct) : Bool := !a.isLoad && !a.isMark

/-- The operation emits an acceptance as it enters its wave's order (R347). -/
def MemAct.accepts (a : MemAct) : Bool := !a.isAtomic && (!a.isLoad || a == .invl)

/-- A memory access of 13, rather than an operation on a queue, table or counter. -/
def MemAct.isPlain : MemAct → Bool
  | .ld | .st | .ldc | .stf | .ldi | .sti | .atom _ | .red _ | .redFadd | .own | .feq | .feset | .clean | .flush
  | .invl => true
  | _ => false

/-! ### The chain (13 R348, R349) -/

/-- x comes directly before y. -/
def linked (x y : MemOp) : Bool :=
  x.m.own != y.m.own && (x.m.succ == y.m.own || y.m.pred == x.m.own)

def MemOp.isHead (o : MemOp) : Bool := o.m.pred == 0xFE
def MemOp.isTail (o : MemOp) : Bool := o.m.succ == 0xFE

/-- Two elements pass a test. -/
def twoOf (p : MemOp → Bool) (l : List MemOp) : Bool := decide ((l.filter p).length ≥ 2)

/-- The links of a wave's operations cannot form one chain. -/
def chainBroken (ops : List MemOp) : Bool :=
  twoOf MemOp.isHead ops
    || ops.any fun o => twoOf (linked o) ops || twoOf (fun x => linked x o) ops
      || (o.isHead && ops.any fun x => linked x o) || (o.isTail && ops.any (linked o))

/-- What is wrong with an operation newly delivered to a wave, as WAVE-ORDER's detail. -/
def joinError (ops : List MemOp) (o : MemOp) : Option (BitVec 24) :=
  if ops.any (fun x => x.m.own == o.m.own) then some 1
  else if ops.any (fun x => x.entered && x.isTail) || chainBroken (ops ++ [o]) then some 2
  else none

/-- The run of links from an operation on; `fuel` bounds its length. -/
def chainFrom (ops : List MemOp) (o : MemOp) : Nat → List MemOp
  | 0 => [o]
  | fuel + 1 =>
    match ops.find? (linked o) with
    | none => [o]
    | some y => o :: chainFrom ops y fuel

/-- A wave's operations from its head on, in sequence order. -/
def Wave.chain (v : Wave) : List MemOp :=
  match v.ops.find? MemOp.isHead with
  | none => []
  | some h => chainFrom v.ops h v.ops.length

/-- The chain runs from a head to a tail through every operation delivered. -/
def Wave.chained (v : Wave) : Bool :=
  let c := v.chain
  decide (c.length = v.ops.length) && (match c.getLast? with | some o => o.isTail | none => false)

/-- Inserts by a key, keeping earlier elements first among equals. -/
def insertBy {α : Type} (key : α → Nat) (x : α) : List α → List α
  | [] => [x]
  | y :: r => if key x < key y then x :: y :: r else y :: insertBy key x r

def sortBy {α : Type} (key : α → Nat) (l : List α) : List α := l.foldr (insertBy key) []

/-- A thread's uncommitted waves, oldest first. -/
def Thread.inOrder (x : Thread) : List Wave := sortBy (fun v => wdist x.base v.num) x.waves

/-! ### Delivery (R345, R347, R349) -/

/-- The operation a firing delivers. -/
def Fire.deliver (f : Fire) (act : MemAct) (m : FormM) : MemOp :=
  { act := act, m := m, rt := f.route, blk := f.p.blk, slot := f.i, seen := f.p.seen f.i,
    out := if f.t.act.adds && !act.isAtomic then f.outWave else f.live,
    a := f.q.a, b := f.q.b, c := f.q.c, ps := [], entered := false, bound := false, parked := false, data := [], part := [] }

/-- What a result due in the wave after the firing's meets, when the tag action adds (R36, R347). -/
def Fire.promise (f : Fire) (o : MemOp) : Entry :=
  if o.out != f.live && o.rt.any then f.x.entry o.out else .go

/-- The delivery, with the result under an adding tag action held due to its wave. -/
def Fire.handOver (f : Fire) (o : MemOp) (k : Ctx) : Ctx :=
  let k1 := (k.needWave f.x.num f.live f.p.blk).modWv f.x.num f.live fun v => { v with ops := v.ops ++ [o] }
  if o.out != f.live && o.rt.any then k1.owe f.x.num o.out f.p.blk else k1

/-- The effect of the firing of a form-M instruction. -/
def Fire.memory (f : Fire) (act : MemAct) (m : FormM) : Sem :=
  let o := f.deliver act m
  match joinError (((f.x.wv f.live).map (·.ops)).getD []) o with
  | some d => .probe 0x0C d 0
  | none =>
    match f.promise o with
    | .skipped => .raise 0x0C 2 0
    | .go => if o.out != f.live && o.rt.any && f.k.gateShut f.p.lcl then .gated else .act [] 0 (f.handOver o)
    | _ => .wait

/-- The firing of a form-M instruction. -/
def State.fireM (s : State) (act : MemAct) (t : Tmpl) (m : FormM) (xa : Option XArg) (takesB : Bool) : State :=
  s.fire t xa takesB noLits fun f => f.memory act m

/-- The firing of a form-M instruction of context 0 alone: PRIVILEGE elsewhere (R427, R428). -/
def State.fireHouseM (s : State) (act : MemAct) (op : BitVec 8) (t : Tmpl) (m : FormM) (takesB : Bool) : State :=
  s.fire t none takesB noLits fun f =>
    if f.k.num != 0 then .raise 0x14 (op.zeroExtend 24) 0 else f.memory act m

/-! ### Bytes an operation touches -/

/-- One byte of a memory: a scratchpad byte by its place, any other by its target and address. -/
abbrev Key := Place × Nat

def Piece.keys (p : Piece) : List Key :=
  (List.range p.n).map fun i =>
    match p.tr.place with
    | .scratch l off => (.scratch l (off + i), 0)
    | q => (q, p.tr.pa + i)

def MemOp.keys (o : MemOp) : List Key := o.ps.flatMap Piece.keys

/-- The scratchpad tiles an operation touches. -/
def MemOp.tiles (o : MemOp) : List (Nat × Nat) :=
  o.ps.filterMap fun p => match p.tr.place with | .scratch l off => some (l, off / 4096) | _ => none

def MemOp.overlaps (x y : MemOp) : Bool :=
  if x.act == .own || y.act == .own then x.tiles.any y.tiles.contains
  else let ys := y.keys; x.keys.any ys.contains

/-- Bytes of an access: 2 to the power SZ; a granule for FEQ and FESET; a line for the cache instructions. -/
def MemOp.size (o : MemOp) : Nat :=
  match o.act with
  | .clean | .flush | .invl | .pref => 64
  | .own => 1
  | _ => 2 ^ o.m.sz.toNat

/-- The address of an access: the line's for the cache instructions. -/
def MemOp.addr (o : MemOp) : Nat :=
  match o.act with
  | .clean | .flush | .invl | .pref => (lo64 o.a).toNat / 64 * 64
  | _ => (lo64 o.a).toNat

/-- The bytes a plain store writes. -/
def MemOp.storeBytes (o : MemOp) : List Byte :=
  match o.act with
  | .st | .stf | .sti => leBytes o.size o.b.toNat
  | _ => []

/-! ### Orders (04 R107 to R118) -/

/-- ORD in force: LDC, LDI act at least as acquires (R118); JOINW acquires at system scope (15 R405); LBAR
is a release and an acquire (15 R404); QPUT and IQPUT release, QGET and IQGET acquire (05 R148); LAUNCH releases (R402). -/
def MemOp.ord (o : MemOp) : BitVec 2 :=
  match o.act with
  | .ldc | .ldi => if o.m.ord = 3 then 3 else 1
  | .joinw | .qget | .iqget => 1
  | .lbar => 3
  | .qput | .iqput | .launch => 2
  | _ => o.m.ord

/-- SCP in force, taken as system where the instruction's own rule fixes it. -/
def MemOp.scp (o : MemOp) : BitVec 2 :=
  match o.act with
  | .joinw | .qget | .iqget | .lbar | .qput | .iqput | .launch => 3
  | _ => o.m.scp

/-- The order class a store's target keeps by itself: HC, CP and CXL.cache lines (rule 5), a scratchpad bank
(rule 6), an IO home slice (rule 7), posted writes through CXL.io (rule 8); none for SC and peers. A page in host bias keeps the
order of an IO page (16 R441). -/
def Piece.orderClass (m : Mems) (p : Piece) : Option (Nat × Nat) :=
  match p.tr.place with
  | .scratch l off => some (1, l * 64 + off / 64 % 64)
  | .hbm =>
    match m.actsAs p.tr with
    | 1 => none
    | 3 => some (2, p.tr.pa / 0x4000000000 * 64
        + (bits p.tr.pa 11 6 ^^^ bits p.tr.pa 17 12 ^^^ bits p.tr.pa 23 18))
    | _ => some (0, 0)
  | .hostCache => some (0, 0)
  | .hostIo => some (3, 0)
  | .peer _ => none
  | .control _ => some (4, 0)

def MemOp.classes (m : Mems) (o : MemOp) : List (Nat × Nat) := o.ps.filterMap (Piece.orderClass m)

/-- A reduction or an atomic that reads and writes memory. -/
def MemAct.isRmw : MemAct → Bool
  | .atom _ | .red _ | .redFadd => true
  | _ => false

/-- Committed operation x must wait for the earlier one e of its thread (R107, R108, R113 to R117). -/
def mustFollow (m : Mems) (e x : Committed) : Bool :=
  match e.item, x.item with
  | .mem a, .mem b =>
    a.act == .fence || b.act == .fence
      || releases b.ord || (acquires a.ord && (a.act.isRmw || !a.act.isPlain))
      || !a.act.isPlain || !b.act.isPlain
      || a.overlaps b || (a.classes m).any (b.classes m).contains
      || (e.wave == x.wave && (a.act.isRmw || b.act.isRmw))
  | _, _ => true

/-- The operations of a thread before one of its wave's operations, in program order, with their waves:
committed ones, then those of older waves, then those before it in its own chain. -/
def Ctx.prior (k : Ctx) (x : Thread) (w : WaveId) (own : BitVec 8) : List (WaveId × MemOp) :=
  (k.committed.filterMap fun c =>
      if c.thread == x.num && c.born == x.born then
        (match c.item with | .mem o => some (c.wave, o) | .dfr _ => none) else none)
    ++ (x.inOrder.filter fun v => older v.num w).flatMap (fun v => (v.chain ++ v.drains).map fun o => (v.num, o))
    ++ (((x.wv w).map Wave.chain).getD [] |>.takeWhile (fun o => o.m.own != own)).map fun o => (w, o)

/-- The operation acquires as a load does. -/
def MemOp.acquiring (o : MemOp) : Bool := o.act.isLoad && acquires o.ord

/-- The granules of the scratchpad pieces, with their logical cluster. -/
def granules (ps : List Piece) : List (Nat × Nat) :=
  (ps.flatMap fun p => match p.tr.place with
    | .scratch l off => (List.range p.n).map fun i => (l, (off + i) / 16)
    | _ => []).eraseDups

/-- Two operations name a granule in common. -/
def MemOp.shareGranule (x y : MemOp) : Bool := (granules x.ps).any (granules y.ps).contains

/-- The presence state an operation leaves on a granule it names (03 R87, 13 R357). -/
def MemOp.leaves (o : MemOp) (st : BitVec 2) : BitVec 2 :=
  match o.act with
  | .stf | .sti => 1
  | .feset => if pred o.b then 1 else 0
  | .st | .atom _ | .red _ | .redFadd => if st = 2 then 1 else st
  | _ => st

/-- The presence state that the granule of operation o shows once the thread's own stores before it are performed: the
forwarding of R107, rule 1, applied to presence (DEDUCED, log entry 95). -/
def presenceAfter (o : MemOp) (prior : List (WaveId × MemOp)) (view : BitVec 2) : BitVec 2 :=
  prior.foldl (fun st e => if e.2.act.atCommit && e.2.shareGranule o then e.2.leaves st else st) view

/-- An LDC or LDI has its value in the presence state found: with its own thread's stores before it forwarded, but a consuming
one takes what stands in the granule. -/
def presenceReady (o : MemOp) (prior : List (WaveId × MemOp)) (view : BitVec 2) : Bool :=
  if o.act == .ldc && o.m.q then
    view = 1 && !(prior.any fun e => (e.2.act == .stf || e.2.act == .sti || e.2.act == .feset) && e.2.shareGranule o)
  else presenceAfter o prior view = 1

/-- Load o of wave w must wait for the earlier operation e of wave ew: an acquire not yet performed, an SC
load's earlier stores, a byte not yet free, a presence state not yet there (R107 rule 1, R109, R113, R115, R117). The spec
does not say that a load waits for its own thread's CLEAN or FLUSH of the line; it does not (DESIGN CHOICE, log entry 94). -/
def loadWaits (o : MemOp) (w : WaveId) (e : MemOp) (ew : WaveId) (committed ready : Bool) : Bool :=
  (e.act.isLoad && !e.bound && (e.acquiring || e.overlaps o
      || (e.ps.any (·.tr.place == .hostIo) && o.ps.any (·.tr.place == .hostIo))))
    || (e.act == .fence && !e.bound && acquires e.m.ord)
    || (e.act.atCommit && (
      o.ord = 3
      || (ew != w && acquires e.ord && (e.act.isRmw || e.act.isAtomic))
      || (match e.act with
          | .clean | .flush => false
          | .st | .stf | .sti | .feset => match o.act with
            | .ldc | .ldi => !ready && e.shareGranule o
            | .invl => committed && e.overlaps o
            | _ => false
          | _ => (o.act != .invl || committed) && e.overlaps o)))

/-- The granule a presence operation names: logical cluster, number, and the offset within it. -/
def MemOp.granule (o : MemOp) : Option (Nat × Nat × Nat) :=
  o.ps.findSome? fun p => match p.tr.place with | .scratch l off => some (l, off / 16, off % 16) | _ => none

/-- The presence state an operation's granule shows. -/
def Ctx.viewOf (k : Ctx) (o : MemOp) : BitVec 2 :=
  match o.granule with
  | some q => ((k.share q.1).gran q.2.1).view
  | none => 0

/-- An RSTAT may still fire in an older wave of a thread than w: that wave has tokens, and a block of its launch that stands on its
logical cluster holds an RSTAT. The operations of later waves come after it (14 R384; DEDUCED, log entry 32). -/
def Ctx.rstatAhead (k : Ctx) (x : Thread) (w : WaveId) : Bool :=
  (x.waves.any fun v => older v.num w && k.tokens.any fun a => a.tok.thread == x.num && a.tok.wave == v.num && !a.held)
    && k.placed.any fun p => p.ln == x.ln && p.lcl == x.lcl && p.slots.any fun q => q.tmpl.extractLsb' 24 8 == 0x9A#8

/-- Whether anything of its thread still holds back a load of wave w. -/
def Ctx.loadHeld (k : Ctx) (x : Thread) (w : WaveId) (o : MemOp) : Bool :=
  let prior := k.prior x w o.m.own
  let ready := presenceReady o prior (k.viewOf o)
  k.rstatAhead x w || prior.any fun e => loadWaits o w e.2 e.1 (match x.last with | some l => notOlder e.1 l | none => false) ready

/-- Bytes found for keys in memory, overlaid with the thread's own buffered stores (R107, rule 1). -/
def forwarded (prior : List (WaveId × MemOp)) (keys : List Key) (found : List Byte) : List Byte :=
  prior.foldl (fun bs e =>
    let ks := e.2.keys
    let data := e.2.storeBytes
    if data.isEmpty then bs
    else (List.zip keys bs).map fun kb =>
      match ks.idxOf? kb.1 with
      | some i => data.getD i kb.2
      | none => kb.2) found

/-! ### The probe of a plain access (13 R366) -/

/-- Step 1: every byte lies inside the map, and its window and offset are legal. -/
def inMap (k : Ctx) (va n : Nat) : Bool :=
  (runsOf va n).all fun r =>
    let a := r.1
    if a ≥ 0x100000000000000 then false
    else if a ≥ controlBase then k.num = 0
    else if a ≥ scratchBase then
      let c := (a - scratchBase) / 0x1000000
      c < 128 && c < k.lclusters && a % 0x1000000 < Config.scratchBytes
    else true

def inScratch (va : Nat) : Bool := scratchBase ≤ va && va < scratchBase + 0x80000000

/-- Presence-state instructions, and OWN, name a scratchpad address (R351, R364). -/
def MemAct.needsScratch : MemAct → Bool
  | .ldc | .stf | .ldi | .sti | .feq | .feset | .own => true
  | _ => false

/-- Atomics and presence operations are naturally aligned (R351, R360). -/
def MemAct.needsAlign : MemAct → Bool
  | .ldc | .stf | .ldi | .sti | .feq | .feset | .atom _ | .red _ | .redFadd => true
  | _ => false

/-- What an operation needs of its pages (R82, R365). -/
def MemAct.need : MemAct → Need
  | .ld | .ldc | .ldi | .feq => .rd
  | .st | .stf | .sti | .feset | .own => .w
  | .atom _ | .red _ | .redFadd => .rdw
  | _ => .any

/-- An atomic that a PCIe AtomicOp carries (R98). -/
def MemOp.pcieAtomic (o : MemOp) : Bool :=
  (o.act == .atom .add || o.act == .atom .xchg || o.act == .atom .cas) && (o.m.sz = 2 || o.m.sz = 3)

/-- Step 2: the operation is supported at its target. -/
def unsupported (m : Mems) (k : Ctx) (site : Nat) (o : MemOp) (va n : Nat) : Option Fail :=
  if o.act.needsScratch && !inScratch va then some (protFail 5)
  else if va ≥ controlBase then (if o.act.isRmw then some (protFail 5) else if o.act.isLoad || o.act == .st
    then controlFail (va - controlBase) n else none)
  else if o.act.isRmw then
    match translate m k site va with
    | .ok t => if t.place = .hostIo && !o.pcieAtomic then some (protFail 5) else none
    | .error _ => none
  else none

/-- Step 6: a CP page is used by the logical cluster it names (R99). -/
def cpFail (lcl : Nat) (ps : List Piece) : Option Fail :=
  ps.findSome? fun p =>
    if p.tr.place = .hbm && p.tr.coh = 2 && p.tr.cp ≠ lcl then some ⟨0x09, BitVec.ofNat 24 p.tr.cp⟩ else none

/-- Step 7: an ENGINE or reserved tile (R90, R364). -/
def ownerFail (k : Ctx) (ps : List Piece) : Option Fail :=
  ps.findSome? fun p =>
    match p.tr.place with
    | .scratch l off =>
      if (k.share l).engineTile (off / 4096) || (k.share l).reservedTile (off / 4096)
      then some ⟨0x0A, BitVec.ofNat 24 (off / 4096)⟩ else none
    | _ => none

/-- Step 8: an STI on a FULL or reserved granule (R355). -/
def onceFail (k : Ctx) (o : MemOp) (ps : List Piece) : Option Fail :=
  if o.act == .sti then
    ps.findSome? fun p =>
      match p.tr.place with
      | .scratch l off =>
        let g := (k.share l).gran (off / 16)
        if g.st = 1 || g.sti.isSome then some ⟨0x0B, BitVec.ofNat 24 (off / 16)⟩ else none
      | _ => none
  else none

/-- The probe of a memory access by a thread on a logical cluster: its pieces, or the first check it fails. -/
def State.probePlain (s : State) (k : Ctx) (lcl : Nat) (o : MemOp) : Except Fail (List Piece) :=
  let va := o.addr
  let n := o.size
  if !inMap k va n || (lo64 o.a).toNat ≥ 0x100000000000000 then .error (transFail 0 3)
  else match unsupported s.mem k (k.phys lcl) o va n with
  | some e => .error e
  | none =>
    if o.act.needsAlign && va % n != 0 then .error ⟨0x08, o.m.sz.zeroExtend 24⟩
    else match pieces s.mem k (k.phys lcl) va n with
    | .error e => .error e
    | .ok ps =>
      match allAllowed s.keys ps o.act.need with
      | some e => .error e
      | none =>
        match (cpFail lcl ps).or ((ownerFail k ps).or (onceFail k o ps)) with
        | some e => .error e
        | none => .ok ps

/-- What a successful probe reserves: STI its granule, OWN its tile (R91, R364). -/
def Ctx.reserve (k : Ctx) (th : ThreadId) (w : WaveId) (o : MemOp) : Ctx :=
  o.ps.foldl (fun k p =>
    match p.tr.place with
    | .scratch l off =>
      if o.act == .sti then
        k.modShare l fun h => h.setGran (off / 16) { h.gran (off / 16) with sti := some (th, w) }
      else if o.act == .own then
        k.modShare l fun h => { h with ownRes := h.ownRes ++ [(off / 4096, th, w)] }
      else k
    | _ => k) k

/-! ### The context's overflow area (01 R31) -/

/-- No placed block serves a thread's tokens at an address. -/
def Ctx.homeless (k : Ctx) (t : ThreadId) (b : Addr) : Bool :=
  match k.th t with | some x => (k.placedAt x b).isNone | none => false

/-- Records the area holds: reader records of 32 bytes (R89), and, of blocks that are not placed, spilled tokens, kept
operands, VRED registers with what they hold and log, each taken as one record, and captured constant files of 256 bytes
(R29, 02 R53, 12 R343; log entry 12). -/
def Ctx.ovfUsed (k : Ctx) : Nat :=
  k.spilled.length + (k.shares.foldl (fun n h => n + h.grans.foldl (fun m e => m + e.2.readers.length) 0) 0)
    + (k.kept.filter fun e => k.homeless e.tok.thread e.blk).length
    + ((k.vreds.filter fun (v : Vred) => k.homeless v.thread v.blk).foldl
        (fun n v => n + 1 + v.held.length + v.log.length) 0)
    + k.launches.foldl (fun n x =>
        n + 8 * (x.cfs.filter fun e => !(k.placed.any fun p => p.ln == x.num && p.blk == e.1)).length) 0

/-- The bytes of the area: LOG2SZ 16 to 40, other values reserved (02 R69). -/
def Ctx.ovfBytes (k : Ctx) : Nat :=
  let n := (k.ovf.extractLsb' 56 8).toNat
  if 16 ≤ n && n ≤ 40 then 2 ^ n else 0

/-- What is to be in the area lies in it; one more record fits. -/
def Ctx.ovfFits (k : Ctx) : Bool := decide (k.ovfUsed * 32 ≤ k.ovfBytes)
def Ctx.ovfRoom (k : Ctx) : Bool := decide ((k.ovfUsed + 1) * 32 ≤ k.ovfBytes)

/-! ### Performance: what every access leaves behind -/

/-- The copies in other L1s that an access by a cluster snoops, and the dirty line it pushes out of its own (R93). -/
def Mems.snoops (m : Mems) (clu : Nat) (p : Piece) (write : Bool) : Nat :=
  let line := p.tr.pa / 64
  let others (kind : LineKind) : List L1Line := m.l1.filter fun (e : L1Line) => e.kind == kind && e.line == line && e.clu != clu
  let pushed := if m.misses clu p then ((m.victim clu line).filter fun e => e.st == .m || e.dirty != 0).toList.length else 0
  pushed + match p.tr.place with
    | .hbm => if m.actsAs p.tr = 0 then ((others .hc).filter fun e => write || e.st != .s).length else 0
    | .hostCache => if write then (others .host).length else 0
    | _ => 0

/-- The die controllers at an HBM address. -/
def homeSite (pa : Nat) : Nat := 96 + pa / 0x4000000000

/-- n events charged alike. -/
def Ctx.chargeN (k : Ctx) (site cls event n : Nat) : Ctx := (List.range n).foldl (fun k _ => k.charge site cls event) k

/-- Energy of a piece of an access by a cluster: its bank or L1, its home where it goes there, the snoops and write-backs it
causes, or the link (07 R199, R201). -/
def Ctx.chargePiece (k : Ctx) (m : Mems) (clu : Nat) (write : Bool) (p : Piece) : Ctx :=
  let snoops := m.snoops clu p write
  match p.tr.place with
  | .peer _ | .hostIo => k.charge (dieSite clu) 3 0
  | .hostCache => (if m.misses clu p || write then k.charge (dieSite clu) 3 0 else k.charge clu 2 0).chargeN (dieSite clu) 3 1 snoops
  | .hbm =>
    let k1 := if m.actsAs p.tr = 3 then k else k.charge clu 2 0
    (if m.misses clu p || m.actsAs p.tr = 3 then k1.charge (homeSite p.tr.pa) 2 5 else k1).chargeN (homeSite p.tr.pa) 2 6 snoops
  | _ => k.charge clu 2 0

/-- The copies that an access made at the home of a piece snoops: those that hold the line for themselves, and to write all of
them (R93). -/
def Mems.homeSnoops (m : Mems) (p : Piece) (write : Bool) : Nat :=
  if p.tr.place = .hbm && m.actsAs p.tr = 0 then
    (m.l1.filter fun (e : L1Line) => e.kind == .hc && e.line == p.tr.pa / 64 && (write || e.st != .s)).length
  else 0

/-- Energy of a piece of an access made at its home, by an engine, the device itself or an agent outside: its home with the snoops
it causes, its bank, or the link (07 R199, R201). -/
def Ctx.chargeHome (k : Ctx) (m : Mems) (clu : Nat) (write : Bool) (p : Piece) : Ctx :=
  match p.tr.place with
  | .hbm => (k.charge (homeSite p.tr.pa) 2 5).chargeN (homeSite p.tr.pa) 2 6 (m.homeSnoops p write)
  | .scratch _ _ => k.charge clu 2 0
  | _ => k.charge (dieSite clu) 3 0

/-- Energy of an engine's access to pieces, by the engine of a cluster, or of the device's own for a context (07 R199). -/
def State.engineSpend (s : State) (c : CtxId) (clu : Nat) (write : Bool) (ps : List Piece) : State :=
  s.modCtx c fun k => ps.foldl (fun k p => k.chargeHome s.mem clu write p) k

/-- Energy of the device's own access to n bytes of a context, charged to it (07 R199). -/
def State.devSpend (s : State) (k : Ctx) (va n : Nat) (write : Bool) : State :=
  match pieces s.mem k k.devSite va n with
  | .ok ps => s.engineSpend k.num (k.phys 0) write ps
  | .error _ => s

/-- Energy and misses of an access (07 R199, R208). -/
def State.spend (s : State) (c : CtxId) (lcl clu : Nat) (write : Bool) (ps : List Piece) : State :=
  ps.foldl (fun s p =>
    s.modCtx c fun k =>
      let k1 := k.chargePiece s.mem clu write p
      if s.mem.misses clu p then k1.perfAdd lcl 3 1 else k1) s

/-- A release by a context in a cluster: its write-backs are charged to it (R119, 07 R201). -/
def State.releaseAt (s : State) (c : CtxId) (clu : Nat) (ord scp : BitVec 2) : State :=
  let dirty := s.mem.l1.filter fun (e : L1Line) => e.kind == .sc && e.clu == clu && e.dirty != 0
  let s1 := if releases ord && wideScope scp then
      s.modCtx c fun k => dirty.foldl (fun k (e : L1Line) => k.charge (homeSite (64 * e.line)) 2 6) k
    else s
  { s1 with mem := s1.mem.release clu ord scp }

/-- The acquires of parked loads that a fill has answered take effect before the next load of their logical cluster
(04 R113). -/
def State.acquireLate (s : State) (c : CtxId) (lcl clu : Nat) : State :=
  match s.ctx c with
  | none => s
  | some k =>
    if !k.discards.contains lcl then s
    else { s.setCtx { k with discards := k.discards.filter (· != lcl) } with mem := s.mem.scDiscard clu }

/-- What every load of pieces by a cluster leaves behind: energy, misses and log records. -/
def State.account (s : State) (c : CtxId) (lcl clu : Nat) (kinds : BitVec 8) (ps : List Piece) : State :=
  ((s.acquireLate c lcl clu).spend c lcl clu false ps).logAccess c ps kinds

/-- The cache effects of a cluster's reading of pieces, and the bytes. -/
def State.readPieces (s : State) (c : CtxId) (clu : Nat) (ps : List Piece) : State × List Byte :=
  let s1 := { s with mem := ps.foldl (fun m p => m.loadEffect (.cluster clu) p) s.mem }
  (s1, match s1.ctx c with
    | none => []
    | some k => ps.flatMap fun p =>
        match p.tr.place with
        | .control off => match controlReg off with
          | some r => leBytes p.n (s1.readReg r).toNat
          | none => List.replicate p.n 0
        | _ => pieceBytes s1.mem k clu p)

/-- The bytes of pieces as a thread's operation finds them, with the thread's own buffered stores over them (R107, rule 1). -/
def State.seenBytes (s : State) (k : Ctx) (x : Thread) (w : WaveId) (o : MemOp) (ps : List Piece) : State × List Byte :=
  let (s1, found) := s.readPieces k.num (k.phys x.lcl) ps
  (s1, forwarded (k.prior x w o.m.own) (ps.flatMap Piece.keys) found)

/-- What an SC load or fence at die scope or wider does before anything it orders is performed: it has the effects of a release,
which make the thread's earlier SC-page stores acknowledged, and of an acquire (R115, R117, R119). -/
def State.scBefore (s : State) (c : CtxId) (clu : Nat) (o : MemOp) : State :=
  if o.ord = 3 then
    let s1 := s.releaseAt c clu o.ord o.scp
    { s1 with mem := s1.mem.acquire clu o.ord o.scp }
  else s

/-- A committed operation done, with its results; waiting for room or a hold in the state given; or an access made a byte at a
time, with what of it is done. A committed operation raises no fault (13 R366). -/
inductive Perf where
  | wait (s : State)
  | done (s : State) (v1 v2 : Value)
  | part (s : State) (o : MemOp)

/-! ### Accesses a byte at a time (04 R111) -/

/-- A plain load or store that is performed as single-byte accesses: an unaligned one, or 16 bytes through CXL.io. -/
def MemOp.torn (o : MemOp) : Bool :=
  (o.act == .ld || o.act == .st) && (o.addr % o.size != 0 || (o.size = 16 && o.ps.any (·.tr.place == .hostIo)))

/-- Byte i of a piece. -/
def Piece.byteAt (p : Piece) (i : Nat) : Piece :=
  { va := p.va + i, n := 1
    tr := { p.tr with
      pa := p.tr.pa + i
      place := match p.tr.place with
        | .scratch l off => .scratch l (off + i)
        | .control off => .control (off + i)
        | q => q } }

/-- The bytes of an access, one by one. -/
def MemOp.bytePieces (o : MemOp) : List Piece := o.ps.flatMap fun p => (List.range p.n).map p.byteAt

/-- The number of the byte that comes next: no order is promised, so the step's argument picks one of those left. -/
def MemOp.nextByte (o : MemOp) (pick : Nat) : Nat :=
  let left := (List.range o.size).filter fun i => !(o.part.any (·.1 == i))
  left.getD (pick % left.length) 0

/-- The access with one byte more. -/
def MemOp.withByte (o : MemOp) (i : Nat) (b : Byte) : MemOp := { o with part := o.part ++ [(i, b)] }

/-- The bytes collected, in address order. -/
def MemOp.collected (o : MemOp) : List Byte := (List.range o.size).map fun i => tgetD o.part i 0

/-! ### Errors in what is read (03 R95, 08 R220) -/

/-- A corrected error scores the pseudo-channel of the line it was met in: code 3 of a step's error argument. -/
def State.corrected (s : State) (ps : List Piece) (ecc : Option (BitVec 2)) : State :=
  if ecc != some 3 then s
  else match ps.find? (·.tr.place == .hbm) with
    | some p => s.addScore (unitOf 2 (channelOf p.tr.pa)) 16
    | none => s

/-- The uncorrectable error met in pieces read, as UNCORRECTABLE's detail: a poisoned line's, or the hardware's where it can
be. -/
def readError (m : Mems) (ps : List Piece) (ecc : Option (BitVec 2)) : Option (BitVec 2) :=
  if ps.any (piecePoison m) then some 0
  else ecc.filter fun d => ps.any fun p => match p.tr.place with
    | .scratch _ _ => d = 2
    | .hbm => d.toNat ≤ 1
    | _ => false

/-- A write must wait in the bank: the granule is consume-held, or writes that waited before it are still to
proceed (R88). -/
def Ctx.bankHolds (k : Ctx) (me : ThreadId × WaveId × BitVec 8) (ps : List Piece) : Bool :=
  (granules ps).any fun q =>
    let g := (k.share q.1).gran q.2
    g.hold.isSome || (match g.writers.head? with | some w => w != me | none => false)

/-- The write joins the writes waiting at its granules. -/
def Ctx.bankWait (k : Ctx) (me : ThreadId × WaveId × BitVec 8) (ps : List Piece) : Ctx :=
  (granules ps).foldl (fun k q => k.modShare q.1 fun h =>
    let g := h.gran q.2
    if g.writers.contains me then h else h.setGran q.2 { g with writers := g.writers ++ [me] }) k

/-- The write leaves them. -/
def Ctx.bankGo (k : Ctx) (me : ThreadId × WaveId × BitVec 8) (ps : List Piece) : Ctx :=
  (granules ps).foldl (fun k q => k.modShare q.1 fun h =>
    let g := h.gran q.2
    h.setGran q.2 { g with writers := g.writers.filter (· != me) }) k

/-- STF and STI: the bytes are written and the granule becomes FULL, answering its readers (R87). An STI, of the thread and
wave given, ends its reservation (R91). -/
def Ctx.scratchFill (k : Ctx) (sti : Option (ThreadId × WaveId)) (l off : Nat) (bytes : List Byte) : Ctx :=
  let k1 := k.modShare l fun h =>
    let h1 := h.settle (off / 16)
    let h2 := { h1 with bytes := wrN h1.bytes off bytes }
    h2.setGran (off / 16) { h2.gran (off / 16) with sti := (h2.gran (off / 16)).sti.filter fun q => some q != sti }
  k1.filled l (off / 16)

/-- FESET (R357): readers of a WAITING granule are answered with zeros, none consuming. -/
def Ctx.feset (k : Ctx) (l g : Nat) (full : Bool) : Ctx :=
  let h := k.share l
  let x := h.gran g
  if x.st = 2 then
    let h1 := { h with bytes := wrN h.bytes (16 * g) (List.replicate 16 0) }
    (k.setShare (h1.setGran g { x with st := if full then 1 else 0, readers := [] })).answerAll
      (List.replicate 16 0) x.readers
  else k.setShare (h.setGran g { x with st := if full then 1 else 0 })

/-! ### Atomics (R361, R362) -/

/-- The value an atomic stores over `old`; none when it writes nothing. -/
def atomNew (k : AtomOp) (w old b c : Nat) : Option Nat :=
  match k with
  | .add => some ((old + b) % 2 ^ w)
  | .and => some (old &&& b)
  | .or => some (old ||| b)
  | .xor => some (old ^^^ b)
  | .min => some (if signed w b < signed w old then b else old)
  | .max => some (if signed w old < signed w b then b else old)
  | .minn => some (if b < old then b else old)
  | .maxn => some (if old < b then b else old)
  | .xchg => some b
  | .cas => if old = b then some c else none

/-- The f32 sum of REDFADD: rounded once, RNE, no flags (R362). -/
def redFadd (old b : Nat) : Nat :=
  (deliver (fmtOf 0) 0 false (sumExact 0 [decodeF (fmtOf 0) old, decodeF (fmtOf 0) b])).1

def MemOp.newValue (o : MemOp) (old : Nat) : Option Nat :=
  let w := 8 * o.size
  match o.act with
  | .atom k | .red k => atomNew k w old (o.b.toNat % 2 ^ w) (o.c.toNat % 2 ^ w)
  | .redFadd => some (redFadd old (o.b.toNat % 2 ^ 32))
  | _ => none

/-- Where an atomic executes (R98): at the home for SC and IO pages, an SC copy of the requester's L1 being
cleaned and invalidated first; in the requester's L1, with the line held M, for HC and CXL.cache. -/
def Mems.atomPoint (m : Mems) (clu : Nat) (p : Piece) : Mems × Agent :=
  match p.tr.place with
  | .hbm =>
    match m.actsAs p.tr with
    | 0 => (m.hcStore clu (p.tr.pa / 64), .cluster clu)
    | 1 => (match m.copy clu .sc (p.tr.pa / 64) with | some e => m.evict e | none => m, .home)
    | 2 => (m.plainLine clu .cp (p.tr.pa / 64) .m, .cluster clu)
    | _ => (m.passL2 (p.tr.pa / 64) none, .home)
  | .hostCache => ((m.hostDrop (p.tr.pa / 64) (some clu)).plainLine clu .host (p.tr.pa / 64) .m, .cluster clu)
  | _ => (m, .cluster clu)

/-- A piece lies on a WAITING granule. -/
def Ctx.waitingAt (k : Ctx) (p : Piece) : Bool :=
  match p.tr.place with
  | .scratch l off => ((k.share l).gran (off / 16)).st = 2
  | _ => false

/-- Bytes that nothing states, as a number: the n bytes of a free choice. -/
def freeNat (tick n : Nat) : Nat := leNat ((List.range n).map fun i => Config.freeByte (tick * 2 ^ 24 + i))

/-- The value that an atomic or reduction on a piece finds, with the memories at its execution point, and who performs it. One that
meets an uncorrectable error finds a value that the spec does not state: a committed operation raises no fault (R366; log
entry 96). -/
def State.rmwFinds (s : State) (k : Ctx) (clu : Nat) (p : Piece) (hurt : Bool) : Mems × Agent × Nat :=
  let q := s.mem.atomPoint clu p
  (q.1, q.2, if hurt then freeNat s.tick p.n else leNat (pieceBytes q.1 k clu p))

/-- The kinds under which a committed plain access is counted (06 R190): an ATCAS that fails as a read only (R361). -/
def State.plainKinds (s : State) (k : Ctx) (clu : Nat) (o : MemOp) (hurt : Bool) : BitVec 8 :=
  match o.act with
  | .own | .clean | .flush => 0
  | .atom _ | .red _ | .redFadd =>
    match o.ps with
    | p :: _ => if (o.newValue (s.rmwFinds k clu p hurt).2.2).isSome then kRead ||| kWrite else kRead
    | [] => kRead
  | _ => if o.m.own = 0xFF then kWrite ||| kStream else kWrite

/-- Performs an atomic or reduction on its piece; the old value is the result. One that stores nothing still fills a WAITING
granule with the zeros it was performed on (R87). -/
def State.performRmw (s : State) (c : CtxId) (clu : Nat) (o : MemOp) (hurt : Bool) : State × Value :=
  match s.ctx c, o.ps with
  | some k, p :: _ =>
    let (m, who, old) := s.rmwFinds k clu p hurt
    let s1 : State := { s with mem := m }
    let s2 := match (o.newValue old).or (if k.waitingAt p then some old else none) with
      | none => s1
      | some v => s1.storePiece c who p (leBytes o.size v) true
    (s2.logAccess c o.ps (s.plainKinds k clu o hurt), BitVec.ofNat 128 old)
  | _, _ => (s, 0)

/-! ### Cache maintenance (R365) -/

/-- An M line written back and held E. -/
def tameLine (clu : Nat) (kind : LineKind) (line : Nat) (e : L1Line) : L1Line :=
  if isCopy clu kind line e && e.st == Mesi.m then { e with st := Mesi.e } else e

def Mems.tame (m : Mems) (clu : Nat) (kind : LineKind) (line : Nat) : Mems :=
  { m with l1 := m.l1.map (tameLine clu kind line) }

/-- CLEAN of a line in a cluster's L1, or with `drop` FLUSH and INVL. -/
def Mems.maintain (m : Mems) (clu : Nat) (drop : Bool) (p : Piece) : Mems :=
  let line := p.tr.pa / 64
  match p.tr.place with
  | .hbm =>
    match (m.actsAs p.tr), drop with
    | 0, true => match m.copy clu .hc line with | some e => m.evict e | none => m
    | 0, false => m.tame clu .hc line
    | 1, true => match m.copy clu .sc line with | some e => m.evict e | none => m
    | 1, false => match m.copy clu .sc line with | some e => m.cleanLine e | none => m
    | 2, true => match m.copy clu .cp line with | some e => m.evict e | none => m
    | 2, false => m.tame clu .cp line
    | _, _ => m
  | .hostCache =>
    if drop then m.uncopy clu .host line
    else m.tame clu .host line
  | _ => m

/-- A cluster's own copy of a piece's line, of the kind its page asks for. -/
def Mems.ownCopy (m : Mems) (clu : Nat) (p : Piece) : Option L1Line :=
  match p.tr.place with
  | .hbm => match m.actsAs p.tr with
    | 0 => m.copy clu .hc (p.tr.pa / 64)
    | 1 => m.copy clu .sc (p.tr.pa / 64)
    | 2 => m.copy clu .cp (p.tr.pa / 64)
    | _ => none
  | .hostCache => m.copy clu .host (p.tr.pa / 64)
  | _ => none

/-- Cache maintenance of pieces by a context in a cluster: a line that it writes back is charged to the context (07 R201). -/
def State.maintainAt (s : State) (c : CtxId) (clu : Nat) (drop : Bool) (ps : List Piece) : State :=
  ps.foldl (fun (s : State) p =>
    let back := (s.mem.ownCopy clu p).any fun e => e.st == Mesi.m || e.dirty != 0
    let s1 := if back then s.modCtx c fun k =>
        if p.tr.place = .hbm then k.charge (homeSite p.tr.pa) 2 6 else k.charge (dieSite clu) 3 1
      else s
    { s1 with mem := s1.mem.maintain clu drop p }) s

/-- A piece of memory whose lines an L1 holds: an HC, SC or CP page of local HBM, or host memory through CXL.cache. -/
def Mems.cachedHere (m : Mems) (p : Piece) : Bool :=
  match p.tr.place with
  | .hbm => m.actsAs p.tr != 3
  | .hostCache => true
  | _ => false

/-- PREF (R359): brings the line into the L1. -/
def Mems.prefetch (m : Mems) (clu : Nat) (p : Piece) : Mems := m.loadEffect (.cluster clu) p

/-! ### Performing a committed memory access -/

/-- OWN waits for every access to its tile probed before the reservation (R364): loads not yet bound and not
parked, and stores not yet performed, of any thread. -/
def Ctx.tileBusy (k : Ctx) (me : Committed) (tile : Nat × Nat) : Bool :=
  let touches (o : MemOp) : Bool := o.act.isPlain && o.tiles.contains tile && o.act != .own
  k.threads.any (fun x => x.waves.any fun v => (v.ops ++ v.drains).any fun o =>
      o.entered && touches o && (if o.act.isLoad then !o.bound && !o.parked else true))
    || k.committed.any fun c => c != me && (match c.item with | .mem o => touches o | .dfr _ => false)

/-- The tile flips from THREAD to ENGINE and its reservation ends. -/
def Ctx.flip (k : Ctx) (l tile : Nat) (th : ThreadId) (w : WaveId) : Ctx :=
  k.modShare l fun h => { h with
    engine := if h.engine.contains tile then h.engine else h.engine ++ [tile]
    ownRes := h.ownRes.filter fun r => !(r.1 == tile && r.2.1 == th && r.2.2 == w) }

/-- Stores through a control window write the register (02 R71). -/
def State.storeControl (s : State) (p : Piece) (bytes : List Byte) : State :=
  match p.tr.place with
  | .control off => match controlReg off with
    | some r => s.writeReg r (BitVec.ofNat 64 (leNat bytes))
    | none => s
  | _ => s

/-- The bytes of a plain store go to pieces of it, in one step. R111 promises an aligned access whole only towards accesses of its
own size: that no narrower or wider load sees part of such a store is the model's choice (DESIGN CHOICE, log entry 140). -/
def State.storeTo (s : State) (c : CtxId) (clu : Nat) (o : MemOp) (ps : List Piece) (bytes : List Byte) : State :=
  if ps.any (fun p => match p.tr.place with | .control _ => true | _ => false) then
    ps.foldl (fun s p => s.storeControl p bytes) s
  else s.storePieces c (.cluster clu) (releases o.m.ord && wideScope o.m.scp) ps bytes

/-- The HBM lines of an operation are poisoned: an uncorrectable error met by a partial-line store (R95). -/
def State.poisonOf (s : State) (o : MemOp) : State :=
  { s with mem := { s.mem with
      poison := (s.mem.poison ++ ((o.ps.filter fun (p : Piece) => p.tr.place = Place.hbm).map fun (p : Piece) => p.tr.pa / 64)).eraseDups } }

/-- The effect of a plain operation whose waits are over; `hurt` tells that what it reads is damaged. -/
def State.doPlain (s : State) (c : CtxId) (clu : Nat) (me : Committed) (o : MemOp) (hurt : Bool) : State × Value :=
  match o.act with
  | .st => ((s.logAccess c o.ps (s.plainKinds default clu o false)).storeTo c clu o o.ps o.storeBytes, 0)
  | .stf | .sti =>
    (o.ps.foldl (fun s p => match p.tr.place with
      | .scratch l off => s.modCtx c fun k =>
          k.scratchFill (if o.act == .sti then some (me.thread, me.wave) else none) l off o.storeBytes
      | _ => s) (s.logAccess c o.ps kWrite), 0)
  | .feset =>
    (o.ps.foldl (fun s p => match p.tr.place with
      | .scratch l off => s.modCtx c fun k => k.feset l (off / 16) (pred o.b)
      | _ => s) (s.logAccess c o.ps kWrite), 0)
  | .atom _ | .red _ | .redFadd => s.performRmw c clu o hurt
  | .own =>
    (o.tiles.foldl (fun s q => s.modCtx c fun k => k.flip q.1 q.2 me.thread me.wave) s, 0)
  | .clean => (s.maintainAt c clu false o.ps, 0)
  | .flush => (s.maintainAt c clu true o.ps, 0)
  | _ => (s, 0)

/-- One byte of a store made a byte at a time; energy and log are those of the whole access, with its first byte. -/
def State.storeByte (s : State) (c : CtxId) (lcl clu : Nat) (o : MemOp) (pick : Nat) : Perf :=
  let i := o.nextByte pick
  let b := o.storeBytes.getD i 0
  let s1 := if o.part.isEmpty then (s.spend c lcl clu true o.ps).logAccess c o.ps (s.plainKinds default clu o false) else s
  let s2 := s1.storeTo c clu o ((o.bytePieces[i]?).toList) [b]
  if o.part.length + 1 ≥ o.size then .done s2 0 0 else .part s2 (o.withByte i b)

/-- A piece of a moving share's scratchpad, for an operation whose own share moves too: it comes before the move (04 R125). -/
def Ctx.movesToo (k : Ctx) (lcl : Nat) (p : Piece) : Bool :=
  match p.tr.place with
  | .scratch l _ => (tgetD k.pmap l 0).getLsbD 30 && (tgetD k.pmap lcl 0).getLsbD 30
  | _ => false

/-- Performs a committed memory access (R106): a write waits behind a consume hold, a change of bias, a host
snoop, a moving share or a full log; a release first cleans, an acquire afterwards discards (R113, R114). `ecc` is an
error met: an uncorrectable one poisons the lines that a partial store, an atomic or a reduction writes back (R95, R366; log
entry 96). -/
def State.performPlain (s : State) (c : CtxId) (me : Committed) (o : MemOp) (pick : Nat) (ecc : Option (BitVec 2)) : Perf :=
  match s.ctx c with
  | none => .wait s
  | some k =>
    let clu := k.phys me.lcl
    let who := (me.thread, me.wave, o.m.own)
    let writes := o.act != .own && o.act != .clean && o.act != .flush
    let hurt := o.act.isRmw && (readError s.mem o.ps ecc).isSome
    if (o.ps.any fun p => pieceWaits s.mem k p true && !k.movesToo me.lcl p) then .wait s
    else if o.part.isEmpty && s.logFull c o.ps (s.plainKinds k clu o hurt) then .wait s
    else if o.act == .own && o.tiles.any (k.tileBusy me) then .wait s
    else if writes && k.bankHolds who o.ps then .wait (s.setCtx (k.bankWait who o.ps))
    else
      let s1 := ((s.setCtx (k.bankGo who o.ps)).releaseAt c clu o.m.ord o.m.scp).corrected o.ps ecc
      let s2 := if hurt || (o.act == .st && (ecc.getD 3).toNat ≤ 1) then s1.poisonOf o else s1
      if o.torn then s2.storeByte c me.lcl clu o pick
      else
        let (s3, v) := (s2.spend c me.lcl clu writes o.ps).doPlain c clu me o hurt
        .done (if o.act.isRmw then { s3 with mem := s3.mem.acquire clu o.m.ord o.m.scp } else s3) v v

end Sys2Proof.Machine
end

