-- ==== Sys2Proof/Machine/Queues.lean ====
section
/-! DEFINITION. Queues (05): descriptors and their probe (R147, 15 R401), ordinary queues and bindings (R148 to
R150), incremental queues, arrangements and frontiers (R151 to R155), the priority queue (R143, R144), range
intervals (01 R44, 05 R145) and the capacity queue (15 R417). -/

namespace Sys2Proof.Machine

/-! ### Operand fields -/

def vbits (v : Value) (hi lo : Nat) : Nat := bits v.toNat hi lo

/-- The lowest set bit of an operand in the ranges that must be zero (R399). -/
def zeroBits (v : Value) (rs : List (Nat × Nat)) : Option Nat :=
  (List.range 128).find? fun i => v.getLsbD i && rs.any fun r => r.2 ≤ i && i ≤ r.1

/-- RESERVED-FIELD, place 4, for operand bits that no rule names, A before B (R399; log entry 10). -/
def operandFail (o : MemOp) (as bs : List (Nat × Nat)) : Option Fail :=
  ((zeroBits o.a as).or (zeroBits o.b bs)).map fun i => ⟨0x02, rfDetail 4 i⟩

/-- What a probe answers: the operation with what it read, or the fault with its FADDR. -/
abbrev Probed := Except (Fail × BitVec 64) MemOp

/-- A fault of an operation with its operand address as given (R212). -/
def failA {α : Type} (o : MemOp) (e : Fail) : Except (Fail × BitVec 64) α := .error (e, lo64 o.a)

/-! ### Descriptors (R147, R401) -/

/-- Pages with COH HC, of local HBM where `home` says so, that grant what is needed, aligned to 2^align: the checks of R401
and R402 in the order of R366. -/
def State.hcProbe (s : State) (k : Ctx) (home : Bool) (va n align : Nat) (need : Need) : Option Fail :=
  if !inMap k va n then some (transFail 0 3)
  else if va ≥ scratchBase then some (protFail 5)
  else
    let off := (runsOf va n).any fun r => match translate s.mem k k.devSite r.1 with
      | .ok t => (home && t.place != .hbm) || t.coh != 0
      | .error _ => false
    if off then some (protFail 5)
    else if va % 2 ^ align != 0 then some ⟨0x08, BitVec.ofNat 24 align⟩
    else match pieces s.mem k k.devSite va n with
      | .error e => some e
      | .ok ps => allAllowed s.keys ps need

/-- The pages an area occupies, one probe a page. -/
def State.areaProbe (s : State) (k : Ctx) (va n : Nat) : Option Fail :=
  if n = 0 then none
  else (List.range ((va + n - 1) / 4096 - va / 4096 + 1)).findSome? fun i =>
    let a := max va ((va / 4096 + i) * 4096)
    s.hcProbe k true a 1 0 .rdw

structure Queue where
  va : Nat
  base : Nat
  arrlog2 : Nat
  nprod : Nat
  scope : BitVec 2
  kind : Nat
  log2n : Nat
  head : Nat
  tail : Nat
  bind : Nat
  maxh : Nat
  arr : Nat
  front : Nat
  deriving DecidableEq, Repr, Inhabited

def queueOf (va : Nat) (b : List Byte) : Queue :=
  let w := fieldAt b 8 8
  { va := va, base := fieldAt b 0 8, arrlog2 := bits w 27 24, nprod := bits w 23 20,
    scope := BitVec.ofNat 2 (bits w 19 18), kind := bits w 17 16, log2n := bits w 7 0, head := fieldAt b 0x10 8,
    tail := fieldAt b 0x18 8, bind := fieldAt b 0x20 8, maxh := fieldAt b 0x28 2, arr := fieldAt b 0x30 8,
    front := fieldAt b 0x38 8 }

/-- The lowest offending bit of a descriptor, within its 64-bit word (log entry 10): the alignment of BASE, zero fields, the
alignment of ARR and FRONT, KIND, LOG2N, and the kind the instruction suits. -/
def descBad (b : List Byte) (kind : Nat) : Option Nat :=
  let word (i : Nat) : Value := BitVec.ofNat 128 (fieldAt b i 8)
  let q := queueOf 0 b
  (zeroBits (word 0) [(5, 0)]).or <| (zeroBits (word 8) [(63, 28), (15, 8)]).or <| (zeroBits (word 0x28) [(63, 16)]).or <|
    (zeroBits (word 0x30) [(11, 0)]).or <| (zeroBits (word 0x38) [(5, 0)]).or <|
      if q.kind ≥ 2 then some 16 else if q.log2n < 4 || q.log2n > 24 then some 0
      else if q.kind != kind then some 16 else none

def Queue.recBytes (q : Queue) : Nat := if q.kind = 0 then 16 else 32
def Queue.cap (q : Queue) : Nat := 2 ^ q.log2n
def Queue.held (q : Queue) : Nat := (q.tail + 2 ^ 64 - q.head) % 2 ^ 64
def Queue.arrCap (q : Queue) : Nat := 2 ^ (q.arrlog2 + 7)

/-- The queue a descriptor stands for now. -/
def State.queue (s : State) (k : Ctx) (va : Nat) : Queue :=
  match s.devRaw k va 64 .any with
  | .ok b => queueOf va b
  | .error _ => queueOf va (List.replicate 64 0)

/-- The frontier words an operation can use: none, its producer's, or every one (R401). -/
inductive FrontUse where
  | none
  | one (p : Nat)
  | all
  deriving DecidableEq, Repr, Inhabited

/-- The probe of a descriptor and of the areas an operation uses (R401). -/
def State.queueProbe (s : State) (k : Ctx) (va kind : Nat) (use : FrontUse) : Option Fail :=
  (s.hcProbe k true va 64 6 .rdw).or <|
    match s.devRead k va 64 .any with
    | .error e => some e
    | .ok b =>
      match descBad b kind with
      | some bit => some ⟨0x02, rfDetail 5 bit⟩
      | none =>
        let q := queueOf va b
        (s.areaProbe k q.base (q.cap * q.recBytes)).or <|
          (if q.arr = 0 || kind = 0 then none else s.areaProbe k q.arr (2 ^ (q.arrlog2 + 12))).or <|
            match use with
            | .one p => if p ≤ q.nprod then s.areaProbe k (q.front + 8 * p) 8 else none
            | .all => s.areaProbe k q.front (8 * (q.nprod + 1))
            | .none => none

/-- The descriptor address of an operation. -/
def MemOp.desc (o : MemOp) : Nat := vbits o.a 55 0

/-- The records an operation adds to, or takes from, what the dequeues `get` of a queue can find. -/
def MemOp.supply (get : MemAct) (va : Nat) (o : MemOp) : Int :=
  match get, o.act with
  | .pqget, .pqget => -1
  | .pqget, .pqput => 1
  | .qget, .qget | .iqget, .iqget => if o.desc = va then -1 else 0
  | .qget, .qput => if o.desc = va then 1 else 0
  | .iqget, .iqput => if o.desc = va && vbits o.a 127 96 != 0 then 1 else 0
  | _, _ => 0

/-- The records that must be there before a sequence of operations for each of its dequeues to find one. -/
def shortfall (ws : List Int) : Nat :=
  (ws.foldl (fun (p : Int × Int) w => (p.1 + w, max p.2 (-(p.1 + w)))) (0, 0)).2.toNat

def Committed.supply (get : MemAct) (va : Nat) (e : Committed) : Int :=
  match e.item with | .mem o => o.supply get va | .dfr _ => 0

/-- The records that the committed dequeues of each thread will take, past what the thread itself inserts before them;
`ops` follow those of thread `t`. -/
def Ctx.getNeed (k : Ctx) (get : MemAct) (va : Nat) (t : ThreadId) (ops : List MemOp) : Nat :=
  ((k.committed.map (·.thread) ++ [t]).eraseDups.map fun u =>
    shortfall (((k.committed.filter (·.thread == u)).map (Committed.supply get va))
      ++ (if u == t then ops.map (MemOp.supply get va) else []))).foldl (· + ·) 0

/-- HEAD and TAIL written by the queue engine. -/
def State.queueSet (s : State) (k : Ctx) (q : Queue) (head tail : Nat) : State :=
  s.devPut k (q.va + 0x10) (leBytes 8 head ++ leBytes 8 tail)

/-! ### Parked operations (R148) -/

abbrev Park := ThreadId × WaveId × BitVec 8 × Addr

/-- The park entry of an operation. PQGETs park under address 1, which no descriptor has. -/
def parkOf (th : ThreadId) (w : WaveId) (o : MemOp) : Park :=
  (th, w, o.m.own, if o.act == .pqget then 1#64 else BitVec.ofNat 64 o.desc)

/-- What a parked operation of the context is: delivered in an uncommitted wave, or committed. -/
def Ctx.parkAct (k : Ctx) (p : Park) : Option MemAct :=
  match (k.wv p.1 p.2.1).bind (·.op p.2.2.1) with
  | some o => some o.act
  | none => k.committed.findSome? fun c => match c.item with
      | .mem o => if c.thread == p.1 && c.wave == p.2.1 && o.m.own == p.2.2.1 then some o.act else none
      | .dfr _ => none

/-- An operation of the same queue and the same side parked before this one. -/
def Ctx.parkedAhead (k : Ctx) (me : Park) (act : MemAct) : Bool :=
  (k.parks.takeWhile (· != me)).any fun p => p.2.2.2 == me.2.2.2 && k.parkAct p == some act

def Ctx.park (k : Ctx) (me : Park) : Ctx :=
  if k.parks.contains me then k else { k with parks := k.parks ++ [me] }
def Ctx.unpark (k : Ctx) (me : Park) : Ctx := { k with parks := k.parks.filter (· != me) }

/-! ### Ordinary queues -/

/-- The address of a record: the r-th of the queue's life. -/
def Queue.slot (q : Queue) (r : Nat) : Nat := q.base + r % q.cap * q.recBytes

/-- QPUT (R410): the record goes to the tail, as a release at SCOPE; it parks while the queue is full or others are
parked before it. -/
def State.doQput (s : State) (k : Ctx) (me : Committed) (o : MemOp) : Perf :=
  let q := s.queue k o.desc
  let id := parkOf me.thread me.wave o
  if q.held ≥ q.cap || k.parkedAhead id .qput then .wait (s.setCtx (k.park id))
  else
    let s1 := { s.setCtx (k.unpark id) with mem := s.mem.release (k.phys me.lcl) 2 q.scope }
    .done ((s1.devPut k (q.slot q.tail) (leBytes 16 o.b.toNat)).queueSet k q q.head ((q.tail + 1) % 2 ^ 64)) 0 0

/-- QGET (R410): the oldest record leaves, as an acquire at SCOPE. -/
def State.doQget (s : State) (k : Ctx) (me : Committed) (o : MemOp) : Perf :=
  let q := s.queue k o.desc
  if q.held = 0 then .wait s
  else
    let v := BitVec.ofNat 128 (s.devWord k (q.slot q.head) 16)
    let s1 := s.queueSet k q ((q.head + 1) % 2 ^ 64) q.tail
    .done { s1 with mem := s1.mem.acquire (k.phys me.lcl) 1 q.scope } v v

/-! ### Bindings (R150, R185, R410, R411) -/

def Ctx.boundQueues (k : Ctx) : List Addr := (k.binds.map (·.desc)).eraseDups

/-- A binding's entry goes once it is unbound and its last handler has ended. -/
def Ctx.sweepBinds (k : Ctx) : Ctx := { k with binds := k.binds.filter fun b => b.bound || !b.running.isEmpty }

/-- QBIND: BIND and MAXH are written, an older binding of the queue stays only for its running handlers, which do not count against
the new MAXH (DESIGN CHOICE, log entry 109). -/
def State.doQbind (s : State) (k : Ctx) (me : Committed) (o : MemOp) : Perf :=
  let q := s.queue k o.desc
  let s1 := (s.devPut k (q.va + 0x20) (leBytes 8 (vbits o.b 55 0))).devPut k (q.va + 0x28) (leBytes 2 (vbits o.b 75 64))
  let d := BitVec.ofNat 64 o.desc
  .done (s1.modCtx k.num fun k =>
    let k1 := Ctx.sweepBinds { k with binds := k.binds.map fun (b : Binding) => if b.desc == d then { b with bound := false } else b }
    { k1 with binds := k1.binds ++ [{ desc := d, ln := me.ln, handler := BitVec.ofNat 64 (vbits o.b 55 0), lcl := me.lcl,
                                      maxh := vbits o.b 75 64 + 1, running := [], bound := true }] }) 0 0

/-- QUNBIND: BIND becomes 0; nothing on an unbound queue. -/
def State.doQunbind (s : State) (k : Ctx) (o : MemOp) : Perf :=
  let d := BitVec.ofNat 64 o.desc
  if k.binds.any fun b => b.desc == d && b.bound then
    .done ((s.devPut k (o.desc + 0x20) (leBytes 8 0)).modCtx k.num fun k =>
      Ctx.sweepBinds { k with binds := k.binds.map fun (b : Binding) => if b.desc == d then { b with bound := false } else b }) 0 0
  else .done s 0 0

/-- Operations of a kind that have passed their probe and are not yet performed, with their logical clusters. -/
def Ctx.probed (k : Ctx) (act : MemAct) : List (Nat × BitVec 32 × MemOp) :=
  (k.threads.flatMap fun x => x.waves.flatMap fun v =>
      (v.ops.filter fun o => o.entered && o.act == act).map fun o => (x.lcl, x.ln, o))
    ++ k.committed.filterMap fun c => match c.item with
        | .mem o => if o.act == act then some (c.lcl, c.ln, o) else none
        | .dfr _ => none

/-- The queues that are bound, or will be by a QBIND that has passed its probe (06 R185). -/
def Ctx.bindings (k : Ctx) : List Addr :=
  (k.boundQueues ++ (k.probed .qbind).map fun p => BitVec.ofNat 64 p.2.2.desc).eraseDups

/-- The probe of QBIND beyond the descriptor: its handler block, and room for a 65th binding (R410). -/
def State.bindProbe (s : State) (k : Ctx) (x : Thread) (o : MemOp) : Option (Fail × BitVec 64) :=
  let addr := BitVec.ofNat 64 (vbits o.b 55 0)
  match s.blockTarget k x.ln addr 0 with
  | .error e => some (e, addr)
  | .ok false => some (⟨0x04, 0⟩, addr)
  | .ok true =>
    if !(k.bindings.contains (BitVec.ofNat 64 o.desc)) && k.bindings.length ≥ 64 then some (⟨0x16, 2⟩, lo64 o.a) else none

/-! ### Incremental queues -/

/-- A record (R151). -/
structure IRec where
  key : Nat
  value : Nat
  time : Nat
  mult : Int
  deriving DecidableEq, Repr, Inhabited

def irecOf (b : List Byte) : IRec :=
  { key := fieldAt b 0 8, value := fieldAt b 8 8, time := fieldAt b 16 4, mult := signed 32 (fieldAt b 20 4) }

def IRec.bytes (r : IRec) : List Byte :=
  leBytes 8 r.key ++ leBytes 8 r.value ++ leBytes 4 r.time ++ leBytes 4 (wrapTo 32 r.mult) ++ List.replicate 8 0

def IRec.same (a b : IRec) : Bool := a.key == b.key && a.value == b.value && a.time == b.time

/-- The records a queue holds, oldest first. -/
def State.irecs (s : State) (k : Ctx) (q : Queue) : List IRec :=
  (List.range q.held).map fun i =>
    match s.devRead k (q.slot (q.head + i)) 32 .any with
    | .ok b => irecOf b
    | .error _ => default

/-- Stores the records a queue holds after an operation that inserted `ins` of them; those it merged, dropped or
delivered count as removed (R147, R152). -/
def State.irecsSet (s : State) (k : Ctx) (q : Queue) (ins : Nat) (rs : List IRec) : State :=
  let tail := (q.tail + ins) % 2 ^ 64
  let head := (tail + 2 ^ 64 - rs.length) % 2 ^ 64
  let s1 := (List.range rs.length).foldl (fun s i => s.devPut k (q.slot (head + i)) ((rs.getD i default).bytes)) s
  s1.queueSet k q head tail

def fits32 (x : Int) : Bool := -(2 ^ 31) ≤ x && x < 2 ^ 31

/-- The exact sum of the records of a list that are equal to one. -/
def classSum (rs : List IRec) (r : IRec) : Int := (rs.filter r.same).foldl (fun n x => n + x.mult) 0

/-- The records of a list merged where a test allows it: those equal to each other become one, at the place of the oldest, whose
MULT is `sum`; none where that is zero, and all stay as they are where it does not fit (R152). `before` are the mergeable ones
that stand ahead. -/
def mergeAll (ok : IRec → Bool) (sum : IRec → Int) : List IRec → List IRec → List IRec
  | _, [] => []
  | before, r :: rest =>
    if !ok r || !fits32 (sum r) then r :: mergeAll ok sum before rest
    else if sum r = 0 || before.any r.same then mergeAll ok sum (r :: before) rest
    else { r with mult := sum r } :: mergeAll ok sum (r :: before) rest

/-- Consolidates a list of records where a test allows it (R152). -/
def consolidate (ok : IRec → Bool) (rs : List IRec) : List IRec := mergeAll ok (classSum (rs.filter ok)) [] rs

/-- A record inserted, within a window of the newest `win` records, itself among them (R152). -/
def insertRec (rs : List IRec) (win : Nat) (r : IRec) : List IRec :=
  let all := rs ++ [r]
  let cut := all.length - win
  all.take cut ++ consolidate (fun _ => true) (all.drop cut)

/-- A producer's frontier word with its first-action bit set (R154). -/
def State.frontSet (s : State) (k : Ctx) (q : Queue) (p t : Nat) : State :=
  s.devPut k (q.front + 8 * p) (leBytes 8 (2 ^ 63 + t))
def State.frontier (s : State) (k : Ctx) (q : Queue) (p : Nat) : Nat := s.devWord k (q.front + 8 * p) 4

def MemOp.producer (o : MemOp) : Nat := vbits o.a 59 56
def MemOp.time (o : MemOp) : Nat := vbits o.a 95 64

/-- IQPUT (R412): a release at SCOPE; MULT 0 inserts nothing; it parks while the queue is full. Which records lie in
one window depends on timing: `win` newest ones, at most 256. -/
def State.doIqput (s : State) (k : Ctx) (me : Committed) (o : MemOp) (win : Nat) : Perf :=
  let q := s.queue k o.desc
  let r : IRec := { key := vbits o.b 63 0, value := vbits o.b 127 64, time := o.time, mult := signed 32 (vbits o.a 127 96) }
  let s0 := { s with mem := s.mem.release (k.phys me.lcl) 2 q.scope }
  let s1 := s0.frontSet k q o.producer (s.frontier k q o.producer)
  if r.mult = 0 then .done s1 0 0
  else
    let id := parkOf me.thread me.wave o
    if q.held ≥ q.cap || k.parkedAhead id .iqput then .wait (s.setCtx (k.park id))
    else .done ((s1.setCtx (k.unpark id)).irecsSet k q 1 (insertRec (s.irecs k q) (win % 257) r)) 0 0

/-- IQADV (R154, R412). -/
def State.doIqadv (s : State) (k : Ctx) (o : MemOp) : Perf :=
  let q := s.queue k o.desc
  .done (s.frontSet k q o.producer (max (s.frontier k q o.producer) o.time)) 0 0

/-! ### Arrangements (R153) -/

def arrSame (d : Addr) (r : IRec) (e : ArrEntry) : Bool :=
  e.desc == d && e.key.toNat == r.key && e.value.toNat == r.value && e.time.toNat == r.time

/-- A delivered record added to the arrangement; none when it finds no space. -/
def Ctx.arrAdd (k : Ctx) (d : Addr) (cap : Nat) (r : IRec) : Option Ctx :=
  match k.arrs.find? (arrSame d r) with
  | some e =>
    let sum : Int := e.sum + r.mult
    some { k with arrs := if sum = 0 then dropFirst (arrSame d r) k.arrs
                          else updFirst (arrSame d r) (fun x => { x with sum := sum }) k.arrs }
  | none =>
    if (k.arrs.filter (·.desc == d)).length ≥ cap then none
    else some { k with arrs := k.arrs ++ [{ desc := d, key := BitVec.ofNat 64 r.key, value := BitVec.ofNat 64 r.value,
                                            time := BitVec.ofNat 32 r.time, sum := r.mult }] }

/-- IQGET (R413): the oldest surviving record, added to the arrangement; status 1 leaves it queued. -/
def State.doIqget (s : State) (k : Ctx) (me : Committed) (o : MemOp) : Perf :=
  let q := s.queue k o.desc
  match s.irecs k q with
  | [] => .wait s
  | r :: rest =>
    let acq := fun (t : State) => { t with mem := t.mem.acquire (k.phys me.lcl) 1 q.scope }
    let v1 : Value := BitVec.ofNat 128 (r.key + r.value * 2 ^ 64)
    let v2 : Value := BitVec.ofNat 128 (r.time + wrapTo 32 r.mult * 2 ^ 32)
    if q.arr = 0 then .done (acq (s.irecsSet k q 0 rest)) v1 v2
    else match k.arrAdd (BitVec.ofNat 64 o.desc) q.arrCap r with
      | none => .done (acq s) 0 (BitVec.ofNat 128 (2 ^ 64))
      | some k1 => .done (acq ((s.setCtx k1).irecsSet k q 0 rest)) v1 v2

/-- The distinct values an arrangement holds under a key up to a time, with their sums, ascending. -/
def Ctx.arrSums (k : Ctx) (d : Addr) (key t : Nat) : List (Nat × Int) :=
  let es := k.arrs.filter fun e => e.desc == d && e.key.toNat == key && e.time.toNat ≤ t
  let vs := (sortBy (fun v => v) (es.map fun e => e.value.toNat)).eraseDups
  vs.map fun v => (v, (es.filter fun e => e.value.toNat == v).foldl (fun n e => n + e.sum) 0)

/-- IQLOOK (R414). -/
def State.doIqlook (s : State) (k : Ctx) (o : MemOp) : Perf :=
  let key := vbits o.b 63 0
  let cur := vbits o.b 127 64
  match (k.arrSums (BitVec.ofNat 64 o.desc) key o.time).find? fun p => cur ≤ p.1 && p.2 != 0 with
  | some (v, sum) => .done s (BitVec.ofNat 128 (v + wrapTo 64 sum * 2 ^ 64)) 1
  | none => .done s 0 0

/-- The arrangement of a queue with every entry up to time t gathered into one per key and value at t. -/
def compactArr (d : Addr) (t : Nat) (es : List ArrEntry) : List ArrEntry :=
  let old := es.filter fun e => e.desc == d && e.time.toNat ≤ t
  let rest := es.filter fun e => !(e.desc == d && e.time.toNat ≤ t)
  let kvs := (old.map fun e => (e.key, e.value)).eraseDups
  rest ++ kvs.filterMap fun kv =>
    let sum : Int := (old.filter fun e => e.key == kv.1 && e.value == kv.2).foldl (fun n e => n + e.sum) 0
    if sum = 0 then none else some { desc := d, key := kv.1, value := kv.2, time := BitVec.ofNat 32 t, sum := sum }

/-- IQCONS (R415): wholly, or not at all for lack of free entries. -/
def State.doIqcons (s : State) (k : Ctx) (o : MemOp) : Perf :=
  let q := s.queue k o.desc
  let d := BitVec.ofNat 64 o.desc
  let t := o.time
  let mine := k.arrs.filter (·.desc == d)
  let kvs := ((mine.filter fun e => e.time.toNat ≤ t).map fun e => (e.key, e.value)).eraseDups
  if q.arr != 0 && q.arrCap < mine.length + kvs.length then .done s 1 1
  else
    let s1 := s.irecsSet k q 0 (consolidate (fun r => r.time ≤ t) (s.irecs k q))
    .done (s1.modCtx k.num fun k => { k with arrs := if q.arr = 0 then k.arrs else compactArr d t k.arrs }) 0 0

/-- One input is quiescent at t (R155). -/
def State.quietAt (s : State) (k : Ctx) (t va : Nat) : Bool :=
  let q := s.queue k va
  (s.irecs k q).all (fun r => t < r.time) && (List.range (q.nprod + 1)).all fun p => t < s.frontier k q p

/-- The descriptor addresses of IQQUIET's list, as its probe read them. -/
def MemOp.listed (o : MemOp) : List Nat := (List.range (o.data.length / 8)).map fun i => fieldAt o.data (8 * i) 8

/-- IQQUIET (R416): all inputs judged in one step. -/
def State.doIqquiet (s : State) (k : Ctx) (o : MemOp) : Perf :=
  let v : Value := if o.listed.all (s.quietAt k o.time) then 1 else 0
  .done s v v

/-! ### The probes of the queue instructions (R401, R410 to R416) -/

/-- The reserved operand bits of each queue instruction. -/
def queueZero (o : MemOp) : Option Fail :=
  match o.act with
  | .qput | .qget | .qunbind | .iqget => operandFail o [(127, 56)] []
  | .qbind => operandFail o [(127, 56)] [(127, 76), (63, 56)]
  | .iqput => operandFail o [(63, 60)] []
  | .iqadv => operandFail o [(63, 60), (127, 96)] []
  | .iqlook | .iqcons => operandFail o [(63, 56), (127, 96)] []
  | .iqquiet => operandFail o [(63, 60), (127, 96)] []
  | _ => none

/-- A producer index beyond NPROD, and a time below its frontier (R412, R154). -/
def State.producerFail (s : State) (k : Ctx) (o : MemOp) : Option Fail :=
  let q := s.queue k o.desc
  if o.producer > q.nprod then some ⟨0x02, rfDetail 4 56⟩
  else if o.act == .iqput && o.time < s.frontier k q o.producer then some ⟨0x0C, 0x10⟩
  else none

def State.probeQueue (s : State) (k : Ctx) (x : Thread) (o : MemOp) : Probed :=
  match queueZero o with
  | some e => failA o e
  | none =>
    match o.act with
    | .qput | .qget | .qunbind => match s.queueProbe k o.desc 0 .none with
      | some e => failA o e
      | none => .ok o
    | .qbind => match s.queueProbe k o.desc 0 .none with
      | some e => failA o e
      | none => match s.bindProbe k x o with
        | some e => .error e
        | none => .ok o
    | .iqput | .iqadv => match (s.queueProbe k o.desc 1 (.one o.producer)).or (s.producerFail k o) with
      | some e => failA o e
      | none => .ok o
    | .iqlook => match s.queueProbe k o.desc 1 .none with
      | some e => failA o e
      | none => if (s.queue k o.desc).arr = 0 then failA o ⟨0x02, rfDetail 5 0⟩ else .ok o
    | .iqquiet =>
      let n := o.producer + 1
      if !inMap k o.desc (8 * n) then failA o (transFail 0 3)
      else if o.desc % 8 != 0 then failA o ⟨0x08, 3⟩
      else match s.devRead k o.desc (8 * n) .rd with
        | .error e => failA o e
        | .ok b =>
          let o1 := { o with data := b }
          match o1.listed.findSome? fun va => s.queueProbe k va 1 .all with
          | some e => failA o e
          | none => .ok o1
    | _ => match s.queueProbe k o.desc 1 .none with
      | some e => failA o e
      | none => .ok o

/-! ### The priority queue (R143, R144, R406) -/

/-- The die of a logical cluster's physical cluster (00 R6). -/
def Ctx.dieOf (k : Ctx) (lcl : Nat) : Nat := k.phys lcl / Config.clustersPerDie

/-- The entries of a partition, with those reserved by probes. -/
def Ctx.pqHeld (k : Ctx) (die : Nat) : Nat :=
  (k.pq.filter (·.die == die)).length + ((k.probed .pqput).filter fun p => k.dieOf p.1 == die).length

/-- PQPUT's probe: the quota of its die (R143). -/
def Ctx.probePqput (k : Ctx) (x : Thread) (o : MemOp) : Probed :=
  if k.pqHeld (k.dieOf x.lcl) ≥ k.desc.pqQuota.getD (k.dieOf x.lcl) 0 then failA o ⟨0x16, 1⟩ else .ok o

def State.doPqput (s : State) (k : Ctx) (me : Committed) (o : MemOp) : Perf :=
  .done (s.setCtx { k with pq := k.pq ++ [{ die := k.dieOf me.lcl, key := o.a.extractLsb' 0 32, payload := o.a.extractLsb' 32 96 }] }) 0 0

/-- The dies in the order PQGET looks at them (R144). -/
def dieOrder (d : Nat) : List Nat :=
  let n := if d ^^^ 1 < d ^^^ 2 then [d ^^^ 1, d ^^^ 2] else [d ^^^ 2, d ^^^ 1]
  d :: n ++ [d ^^^ 3]

/-- The window PQGET chooses from: the 32 smallest keys of the first die that holds any entry; of equal keys at its edge each may
be among them (01 R45; log entry 48). -/
def Ctx.pqWindow (k : Ctx) (die : Nat) : List PqEntry :=
  match (dieOrder die).find? fun d => k.pq.any (·.die == d) with
  | none => []
  | some d =>
    let es := sortBy (fun (e : PqEntry) => e.key.toNat) (k.pq.filter (·.die == d))
    let edge := ((es.take 32).getLast?.map (·.key.toNat)).getD 0
    es.filter fun e => decide (e.key.toNat ≤ edge)

/-- PQGET (R144): one entry of the window; which one is a free choice. -/
def State.doPqget (s : State) (k : Ctx) (me : Committed) (pick : Nat) : Perf :=
  let w := k.pqWindow (k.dieOf me.lcl)
  match w[pick % max 1 w.length]? with
  | none => .wait s
  | some e =>
    let v : Value := e.payload ++ e.key
    .done (s.setCtx { k with pq := dropFirst (· == e) k.pq }) v v

/-! ### Committed operations that stay (04 R107, R127) -/

/-- Committed operations that end with their launch's threads: a wait at a barrier or for a DFENCE, and a thread not yet
created. The others stay, and are performed (R135, R137). -/
def Committed.withThreads (e : Committed) : Bool :=
  match e.item with
  | .mem o => o.act == .lbar
  | .dfr d => d.act == .dfence || d.act == .tnew

/-- A waiting operation that is withdrawn or that the context's own threads must release: a parked insertion, an arrival at a
barrier, a DFENCE (05 R148, 08 R222). -/
def Committed.stays (e : Committed) : Bool :=
  e.waiting && match e.item with
    | .mem o => o.act == .qput || o.act == .iqput || o.act == .lbar
    | .dfr d => d.act == .dfence

/-- One committed operation of a thread must follow another (R107). -/
def sameThread (m : Mems) (e x : Committed) : Bool := e.thread == x.thread && e.born == x.born && mustFollow m e x

/-- A committed operation of a context stands behind one that it must follow (R107). -/
def Ctx.followed (k : Ctx) (m : Mems) (me : Committed) : Bool :=
  (k.committed.takeWhile (· != me)).any fun e => sameThread m e me

/-- The committed operations that a test names, and those that must follow one of them. -/
def Ctx.behind (k : Ctx) (m : Mems) (test : Committed → Bool) : List Committed :=
  k.committed.foldl (fun acc e => if test e || acc.any (fun p => sameThread m p e) then acc ++ [e] else acc) []

/-- A committed operation writes memory by itself. -/
def Committed.isStore (e : Committed) : Bool :=
  match e.item with
  | .mem o => (match o.act with
    | .st | .stf | .sti | .feset | .atom _ | .red _ | .redFadd | .qput | .iqput => true
    | _ => false)
  | .dfr _ => false

def Committed.isRtget (e : Committed) : Bool :=
  match e.item with
  | .mem o => o.act == .rtget
  | .dfr _ => false

/-! ### Range tasks (01 R44, 15 R407, R408) -/

def Launch.ival (n : Launch) (l : Nat) : Nat × Nat := n.ivals.getD l (0, 0)
def ivalLen (p : Nat × Nat) : Nat := p.2 - p.1

/-- The logical cluster with the most iterations left, the lowest on a tie. -/
def Launch.richest (n : Launch) : Option Nat :=
  (List.range n.ivals.length).foldl (fun best i =>
    if ivalLen (n.ival i) = 0 then best
    else match best with
      | none => some i
      | some b => if ivalLen (n.ival b) < ivalLen (n.ival i) then some i else some b) none

/-- A logical cluster with nothing left takes the upper half of the longest interval, or all of one of length 1. -/
def Launch.refill (n : Launch) (l : Nat) : Launch :=
  if ivalLen (n.ival l) != 0 then n
  else match n.richest with
    | none => n
    | some o =>
      let p := n.ival o
      let mid := if ivalLen p = 1 then p.1 else p.1 + ivalLen p / 2
      { n with ivals := setAt (setAt n.ivals o (p.1, mid)) l (mid, p.2) }

/-- The logical cluster from which one that has nothing left takes iterations. -/
def Launch.giver (n : Launch) (l : Nat) : Option Nat := if ivalLen (n.ival l) != 0 then none else n.richest

/-- The clusters of the giver's instance of the taker's scope: its die where the taker is on it, else the module (04 R126). -/
def Ctx.instance_ (k : Ctx) (giver taker : Nat) : List Nat :=
  if k.dieOf giver = k.dieOf taker then (List.range Config.clustersPerDie).map (k.dieOf giver * Config.clustersPerDie + ·)
  else List.range Config.clusters

/-- The committed stores that a steal from one logical cluster by another waits for: those of the context in the store buffers of the
giver's instance of the taker's scope (04 R126). Those that stand behind an RTGET of their own thread, this one or another, come
after the steal (DEDUCED, log entry 56). -/
def Ctx.stealAwaits (k : Ctx) (m : Mems) (giver taker : Nat) : List Committed :=
  let after := k.behind m Committed.isRtget
  k.committed.filter fun e => e.isStore && (k.instance_ giver taker).contains (k.phys e.lcl) && !after.contains e

/-- The giver of a committed RTGET. -/
def Ctx.rtgetFrom (k : Ctx) (e : Committed) : Option Nat := if e.isRtget then (k.ln e.ln).bind (·.giver e.lcl) else none

/-- The committed operations that stay while a context is saved or a share moves: those withdrawn or waiting for the context's own
threads, an RTGET whose handshake waits for one of them, and all that must follow one of these (log entry 56). -/
def Ctx.stayers (k : Ctx) (m : Mems) : List Committed :=
  let base := k.behind m Committed.stays
  k.behind m fun e => e.stays || match k.rtgetFrom e with
    | some g => (k.stealAwaits m g e.lcl).any base.contains
    | none => false

/-- A committed operation that will be performed without anything further from the context's threads. -/
def Ctx.leftToDo (k : Ctx) (m : Mems) (e : Committed) : Bool := !(k.stayers m).contains e

/-- The handshake of iterations that pass from one logical cluster to another (04 R126): a release by every cluster of the giver's
instance of the taker's scope, and an acquire by the taker's at that scope. -/
def State.handOver (s : State) (k : Ctx) (giver taker : Nat) : State :=
  let scp : BitVec 2 := if k.dieOf giver = k.dieOf taker then 1 else 2
  let s1 := (k.instance_ giver taker).foldl (fun (s : State) c => s.releaseAt k.num c 2 scp) s
  { s1 with mem := s1.mem.acquire (k.phys taker) 1 scp }

/-- The first iteration that RTGET names with a length of 0, where nothing is left: the rule states none, a free value (R407; log
entry 101). -/
def noIteration (tick : Nat) : Nat := freeNat tick 4

/-- RTGET (R407): up to n iterations from the low end; those of another logical cluster come once the stores that the steal waits for
are performed (04 R126). -/
def State.doRtget (s : State) (k : Ctx) (me : Committed) (o : MemOp) : Perf :=
  match k.ln me.ln with
  | none => .done s 0 0
  | some n0 =>
    let n := n0.refill me.lcl
    let p := n.ival me.lcl
    let got := min (vbits o.a 31 0) (ivalLen p)
    let v : Value := BitVec.ofNat 128 (if got = 0 then noIteration s.tick else p.1 + got * 2 ^ 32)
    let give (s : State) : Perf := .done (s.modCtx k.num fun k => k.modLn me.ln fun _ =>
      { n with ivals := setAt n.ivals me.lcl (p.1 + got, p.2), handed := n.handed + got }) v v
    match n0.giver me.lcl with
    | none => give s
    | some g => if !(k.stealAwaits s.mem g me.lcl).isEmpty then .wait s else give (s.handOver k g me.lcl)

/-- RTDONE (R408): D counts the iterations reported. -/
def State.doRtdone (s : State) (k : Ctx) (me : Committed) (o : MemOp) : Perf :=
  .done (s.setCtx (k.modLn me.ln fun n => { n with doneIter := n.doneIter + vbits o.a 31 0 })) 0 0

/-- RANGE_TASK of a launch. -/
def Launch.isRange (n : Launch) : Bool := n.lrec.flags.getLsbD 1

/-- The probe of RTGET and RTDONE (R407, R408). -/
def Ctx.probeRange (k : Ctx) (x : Thread) (o : MemOp) : Probed :=
  match operandFail o [(127, 32)] [], k.ln x.ln with
  | some e, _ => failA o e
  | none, none => failA o ⟨0x02, rfDetail 4 0⟩
  | none, some n =>
    let c := vbits o.a 31 0
    let res := ((k.probed .rtdone).filter fun p => p.2.1 == x.ln).foldl (fun t p => t + vbits p.2.2.a 31 0) 0
    if !n.isRange || (o.act == .rtget && c = 0) || (o.act == .rtdone && n.doneIter + res + c > n.handed)
    then failA o ⟨0x02, rfDetail 4 0⟩ else .ok o

/-! ### The capacity queue (R417) -/

/-- LOG2N, BASE and EN of a fault or capacity queue register; a reserved LOG2N acts as EN = 0 (02 R69). -/
def ringOf (r : BitVec 64) : Option (Nat × Nat) :=
  let n := (r.extractLsb' 56 8).toNat
  if r.getLsbD 0 && 4 ≤ n && n ≤ 16 then some ((r.extractLsb' 6 50).toNat * 64, n) else none

/-- CAPGET (R417): the next record, or zeros. -/
def State.doCapget (s : State) (k : Ctx) : Perf :=
  match ringOf k.capqb with
  | none => .done s 0 0
  | some (base, n) =>
    let hd := leBytes 16 (s.devWord k base 16)
    let prod := fieldAt hd 0 4
    if prod = fieldAt hd 4 4 then .done s 0 0
    else
      let last := 2 ^ n - 1
      let past := ringUsed prod (fieldAt hd 4 4) > last
      let cpos := if past then fieldAt hd 12 2 else fieldAt hd 14 2
      let entry := if cpos + 1 > last then 1 else cpos + 1
      let rec_ := leBytes 32 (s.devWord k (base + 64 * entry) 32)
      let s1 := (s.devPut k (base + 4) (leBytes 4 (fieldAt rec_ 0 4))).devPut k (base + 14) (leBytes 2 entry)
      .done s1 (BitVec.ofNat 128 (leNat (rec_.take 16))) (BitVec.ofNat 128 (leNat (rec_.drop 16)))

end Sys2Proof.Machine
end

