-- ==== Sys2Proof/Machine/Launch.lean ====
section
/-! DEFINITION. Launches (01 R15 to R19, R42, 05 R133 to R139, 10 R258 to R260, 15 R402 to R405): the launch record and
its checks, admission, thread creation, level barriers, completion and abort. -/

namespace Sys2Proof.Machine

/-! ### The record (R133) -/

/-- A launch record from its 64 bytes. -/
def launchRecOf (b : List Byte) : LaunchRec :=
  { kimg := BitVec.ofNat 64 (fieldAt b 0 8), args := BitVec.ofNat 64 (fieldAt b 8 8),
    done := BitVec.ofNat 64 (fieldAt b 0x10 8), lo := BitVec.ofNat 32 (fieldAt b 0x18 4),
    hi := BitVec.ofNat 32 (fieldAt b 0x1C 4), flags := BitVec.ofNat 16 (fieldAt b 0x20 2),
    prio := BitVec.ofNat 8 (fieldAt b 0x22 1), nlev := BitVec.ofNat 8 (fieldAt b 0x23 1),
    lclust := BitVec.ofNat 16 (fieldAt b 0x24 2), spine := BitVec.ofNat 8 (fieldAt b 0x26 1),
    rsv := BitVec.ofNat 8 (fieldAt b 0x27 1),
    levels := (List.range 8).map fun i => BitVec.ofNat 16 (fieldAt b (0x28 + 2 * i) 2),
    seq := BitVec.ofNat 32 (fieldAt b 0x38 4), parent := BitVec.ofNat 32 (fieldAt b 0x3C 4) }

def LaunchRec.detached (r : LaunchRec) : Bool := r.flags.getLsbD 0
def LaunchRec.persistent (r : LaunchRec) : Bool := r.flags.getLsbD 2
def LaunchRec.pin (r : LaunchRec) : Bool := r.flags.getLsbD 3
def LaunchRec.faultq (r : LaunchRec) : Bool := r.flags.getLsbD 4

/-- The declared level words, outermost first (R15). -/
def LaunchRec.declared (r : LaunchRec) : List (BitVec 16) := r.levels.take r.nlev.toNat
def lvKind (w : BitVec 16) : Nat := (w.extractLsb' 12 4).toNat
def lvScope (w : BitVec 16) : BitVec 2 := w.extractLsb' 10 2
def lvFan (w : BitVec 16) : Nat := (w.extractLsb' 0 10).toNat + 1
def LaunchRec.fans (r : LaunchRec) : List Nat := r.declared.map lvFan

/-- SCOPE of the outermost level. -/
def LaunchRec.scope (r : LaunchRec) : BitVec 2 := lvScope ((r.levels[0]?).getD 0)

/-- The scope a level kind has by itself (R16, condition 4). -/
def naturalScope (kind : Nat) : Nat := if kind ≤ 3 then 0 else kind - 3

/-- KIND never rises inwards (R16, condition 3). -/
def descending : List Nat → Bool
  | a :: b :: r => decide (b ≤ a) && descending (b :: r)
  | _ => true

def product (l : List Nat) : Nat := l.foldl (· * ·) 1

/-- Instances of the innermost pod level of a launch, 1 when it has none. -/
def LaunchRec.pods (r : LaunchRec) : Nat := product ((r.declared.filter fun w => lvKind w = 6).map lvFan)

/-- Modules configured in the pod, as far as this one sees them: itself and the modules present on its links. -/
def State.podModules (s : State) : Nat :=
  1 + ((s.links.filter fun e => e.2.pv).map fun e => e.2.peer).eraseDups.length

/-! ### Admission's checks (R133, R136) -/

/-- The first that fails of a list of conditions with their details. -/
def firstBad : List (Bool × Nat) → Option Nat
  | [] => none
  | (bad, d) :: r => if bad then some d else firstBad r

/-- DONE's rule: 8-byte aligned, in an HC page with W, or zero. -/
def State.doneOk (s : State) (k : Ctx) (done : Nat) : Bool :=
  done = 0 || (done % 8 = 0 && (s.hcProbe k false done 8 0 .w).isNone)

/-- The field rules of the launch record table, in table order. -/
def State.fieldBad (s : State) (k : Ctx) (r : LaunchRec) : Option Nat :=
  firstBad
    [(r.kimg.toNat % 64 != 0 || (match s.devRead k r.kimg.toNat 64 .f with | .ok _ => false | .error _ => true), 0x0001),
     (r.args.toNat % 16 != 0, 0x0002),
     (!s.doneOk k r.done.toNat, 0x0003),
     (!r.flags.getLsbD 1 && r.lo != 0, 0x0004),
     (decide (r.hi.toNat < r.lo.toNat), 0x0005),
     (r.flags.extractLsb' 5 11 != 0, 0x0006),
     (decide (r.prio.toNat > 15) || decide (r.prio.toNat > k.priomax.toNat), 0x0007),
     (r.nlev = 0 || decide (r.nlev.toNat > 8), 0x0008),
     (r.lclust = 0 || decide (r.lclust.toNat > 128) || decide (r.lclust.toNat > k.lcount.toNat), 0x0009),
     (r.rsv != 0, 0x000B),
     (r.declared.any (fun w => lvKind w > 6) || (r.levels.drop r.nlev.toNat).any (· != 0), 0x000C)]

/-- The rules of the kernel header (R258). -/
def headerBad (h : List Byte) : Option Nat :=
  let f := fieldAt h
  let len := f 4 4
  firstBad
    [(f 0 1 != 1 || f 1 1 != 1, 0x0018),
     (f 2 2 != 0 || decide (len < 64) || f 8 8 % 16 != 0 || decide (f 0x10 1 > 16) || ((f 0x10 1 == 0) != (f 8 8 == 0))
        || f 0x11 1 != 0 || f 0x12 2 == 0 || decide (f 0x12 2 > 128)
        || f 0x14 4 % 16 != 0 || decide (f 0x14 4 ≥ len) || f 0x18 2 == 0
        || f 0x1A 1 == 0 || decide (f 0x1A 1 > 16) || f 0x1C 4 % 4 != 0 || decide (f 0x1C 4 ≥ len)
        || f 0x20 4 % 2 != 0 || (if f 0x1B 1 = 0 then f 0x20 4 != 0 else decide (f 0x20 4 ≥ len))
        || f 0x2C 4 % 4 != 0 || decide (f 0x2C 4 ≥ len) || f 0x34 12 != 0, 0x0019)]

/-- Thread numbers that admitted launches have been promised and not yet taken (R16, condition 5; R139). -/
def Ctx.promised (k : Ctx) : Nat :=
  (k.launches.filter fun n => n.stage < 3 && n.abort.isNone).foldl (fun m n => m + product n.lrec.fans) 0

/-- Conditions 2 to 7 of R16. -/
def State.shapeBad (s : State) (k : Ctx) (r : LaunchRec) (h : List Byte) : Option Nat :=
  let kinds := r.declared.map lvKind
  firstBad
    [(kinds.getLast? != some 0, 0x0012),
     (!descending kinds, 0x0013),
     (r.declared.any fun w => decide ((lvScope w).toNat < naturalScope (lvKind w)), 0x0014),
     (decide (product r.fans > 65536 - k.threads.length - k.promised), 0x0015),
     (decide (r.pods > s.podModules), 0x0016),
     (decide (r.lclust.toNat > fieldAt h 0x12 2), 0x0017)]

/-- A dictionary descriptor breaks its rules (06 R164). -/
def dictBad (d : BitVec 128) : Bool :=
  d.extractLsb' 75 53 != 0 || d.extractLsb' 56 7 != 0 || d.extractLsb' 0 3 != 0 || (d.extractLsb' 64 11).toNat > 1024

/-- The dictionary rows a kernel names, all sixteen; none when it names a malformed set. -/
def State.dictSet (s : State) (k : Ctx) (h : List Byte) : Option (List (BitVec 128)) :=
  let n := fieldAt h 0x10 1
  if fieldAt h 8 8 = 0 then some (List.replicate 16 0)
  else match s.devRead k (fieldAt h 8 8) (16 * n) .rd with
    | .error _ => none
    | .ok b =>
      let rows := (List.range n).map fun i => BitVec.ofNat 128 (fieldAt b (16 * i) 16)
      if rows.any dictBad || !((rows[0]?).getD 0).getLsbD 63 then none else some (rows ++ List.replicate (16 - n) 0)

def Ctx.dregRows (k : Ctx) : List (BitVec 128) := (List.range 16).map fun i => tgetD k.dreg i 0

/-- The dictionary rule (R164): a set that differs from the one registered, or is malformed. Sets are the same when their
descriptors are (DEDUCED, log entry 110). -/
def State.dictFail (s : State) (k : Ctx) (h : List Byte) : Option Nat :=
  match s.dictSet k h with
  | none => some 0x0020
  | some rows => if !k.launches.isEmpty && fieldAt h 8 8 != 0 && rows != k.dregRows then some 0x0020 else none

/-- The detail of the first admission check a record breaks, if any: the field rules, those of the kernel header and of the
launch's shape, and the dictionary rule (R136). -/
def State.launchBad (s : State) (k : Ctx) (r : LaunchRec) : Option Nat :=
  (s.fieldBad k r).or <|
    match s.devRead k r.kimg.toNat 64 .f with
    | .error _ => some 0x0001
    | .ok h => (headerBad h).or ((s.shapeBad k r h).or (s.dictFail k h))

/-! ### DONE and host events (R135, R160) -/

def doneWord (status cause detail : Nat) (tag : BitVec 32) : Nat :=
  status * 2 ^ 56 + cause * 2 ^ 48 + detail % 65536 * 2 ^ 32 + tag.toNat

/-- Every SC copy in the clusters of a context is cleaned: the release of a completion at a scope beyond one cluster. -/
def State.releaseAll (s : State) (k : Ctx) (scp : BitVec 2) : State :=
  ((List.range k.lclusters).map k.phys).eraseDups.foldl (fun (s : State) c => s.releaseAt k.num c 2 scp) s

/-- The DONE word of a launch cannot be reached yet. -/
def State.doneWaits (s : State) (k : Ctx) (r : LaunchRec) : Bool := r.done != 0 && s.devWaits k r.done.toNat 8 true

/-- The DONE word of a launch is written, where DONE is not zero and is writable, and its host event is posted. -/
def State.report (s : State) (c : CtxId) (r : LaunchRec) (fromHost : Bool) (status cause detail : Nat)
    (num : BitVec 32) : State :=
  match s.ctx c with
  | none => s
  | some k =>
    let s1 := s.releaseAll k r.scope
    let s2 := if s1.doneOk k r.done.toNat && r.done != 0 then
        (s1.devSpend k r.done.toNat 8 true).devPut k r.done.toNat (leBytes 8 (doneWord status cause detail r.seq)) else s1
    s2.post c { hostEvent (BitVec.ofNat 8 status) with
      cause := BitVec.ofNat 8 cause, detail := BitVec.ofNat 16 detail, cmdseq := if fromHost then r.seq else 0, launch := num }

/-! ### The launch queues and admission (R137, R139) -/

/-- As many contexts are on the fabric as there are domains (00 R6, 01 R14). -/
def State.fabricFull (s : State) : Bool := decide ((s.ctxs.filter fun k => k.state == 1).length ≥ Config.clusters * Config.domainsPerCluster)

/-- A domain of a die that a context holds or may be given (R14, R140). -/
def State.mayReceive (s : State) (k : Ctx) (die : Nat) : Bool :=
  (k.state == 1 || (k.state == 0 && !s.fabricFull)) && k.gate = 0 && !k.halted
    && (List.range (Config.clustersPerDie * 16)).any fun i =>
        match tget s.owners (die * Config.clustersPerDie * 16 + i) with
        | none => true
        | some c => c == k.num

def State.queued (s : State) (die prio : Nat) : Nat := (s.launchq.filter fun q => q.die == die && q.prio == prio).length

/-- The oldest record of the highest priority of a die whose context may receive domains. -/
def State.nextLaunch (s : State) (die : Nat) : Option QRec :=
  (List.range 16).findSome? fun i => s.launchq.find? fun q =>
    q.die == die && q.prio == 15 - i && (match s.ctx q.ctx with | some k => s.mayReceive k die | none => false)

/-- Intervals of a range-task launch: all of it on logical cluster 0 (R145). -/
def firstIvals (r : LaunchRec) : List (Nat × Nat) :=
  if r.flags.getLsbD 1 then (r.lo.toNat, r.hi.toNat) :: List.replicate (r.lclust.toNat - 1) (0, 0) else []

/-- The launch an admitted record becomes. -/
def newLaunch (num : BitVec 32) (born : Nat) (q : QRec) : Launch :=
  { num := num, lrec := q.lrec, born := born, die := q.die, fromHost := q.fromHost, stage := 1, ivals := firstIvals q.lrec,
    handed := 0, doneIter := 0, barriers := [], cfs := [], homes := [], abort := none, stamp := q.stamp, taken := 0, away := 0 }

/-- Dictionary registration at an admission with no live launch (06 R164): rows, SEL, GEN and FPEND. -/
def Ctx.register (k : Ctx) (rows : List (BitVec 128)) : Ctx :=
  if !k.launches.isEmpty then k
  else { k with
    dreg := (List.range 16).filterMap fun i => if (rows[i]?).getD 0 = 0 then none else some (i, (rows[i]?).getD 0)
    sel := 0, gen := k.gen + 1, fpend := true }

/-- Registration waits while a placed block carries the next generation (02 R68). -/
def Ctx.genBusy (k : Ctx) : Bool := k.placed.any fun p => p.gen == k.gen + 1

/-- The record is admitted: its number is assigned and the launch begins its stages (R134, R139). -/
def Ctx.enrol (k : Ctx) (q : QRec) (rows : List (BitVec 128)) : Ctx :=
  let k1 := k.register rows
  { k1 with
    launches := k1.launches ++ [newLaunch k.nextLaunch k.born q], born := k.born + 1,
    nextLaunch := if k.nextLaunch.toNat ≥ 0xFFFFFFFE then 0 else k.nextLaunch + 1,
    state := if k.state = 0 then 1 else k.state }

/-- LAUNCH_ADMISSION (R139, stage 1). -/
def execLaunchAdmission (die : Nat) (s : State) : Out :=
  .next <| match s.nextLaunch die with
    | none => s
    | some q =>
      match s.ctx q.ctx with
      | none => s
      | some k =>
        let s1 := { s with launchq := dropFirst (· == q) s.launchq }
        if s.devWaits k q.lrec.kimg.toNat 64 false || s.doneWaits k q.lrec then s
        else match s.launchBad k q.lrec with
        | some d => s1.report q.ctx q.lrec q.fromHost 3 0x15 d 0xFFFFFFFF
        | none =>
          if k.launches.isEmpty && k.genBusy then s
          else match s.devRead k q.lrec.kimg.toNat 64 .f with
            | .error _ => s
            | .ok h => s1.setCtx (k.enrol q ((s.dictSet k h).getD []))

/-! ### Thread creation (R139, R260, R462) -/

/-- The index vectors of a launch's threads, outermost level first, each level ascending. -/
def indexVectors : List Nat → List (List Nat)
  | [] => [[]]
  | n :: r => (List.range n).flatMap fun i => (indexVectors r).map (i :: ·)

/-- Indices read as one mixed-radix number, the outermost first. -/
def mixed : List Nat → List Nat → Nat → Nat
  | n :: fs, i :: is, acc => mixed fs is (acc * n + i)
  | _, _, acc => acc

/-- The levels that decide where a thread runs: down to the outermost cluster level, or those of a die or wider (R462). -/
def LaunchRec.placing (r : LaunchRec) : Nat :=
  let kinds := r.declared.map lvKind
  match kinds.findIdx? (· == 3) with
  | some i => i + 1
  | none => (kinds.takeWhile fun q => q ≥ 4).length

/-- The logical cluster a thread runs on (R462). -/
def LaunchRec.placeOf (r : LaunchRec) (idx : List Nat) : Nat :=
  mixed (r.fans.take r.placing) (idx.take r.placing) 0 % r.lclust.toNat

/-- The logical clusters of each instance of a launch's outermost die level, where cluster levels lie within it (01 R17). -/
def LaunchRec.dieGroups (r : LaunchRec) : List (List Nat) :=
  match (r.declared.map lvKind).findIdx? (· == 4) with
  | none => []
  | some i =>
    (indexVectors (r.fans.take (i + 1))).map fun a =>
      ((indexVectors ((r.fans.take r.placing).drop (i + 1))).map fun b => r.placeOf (a ++ b)).eraseDups

/-- The value of an entry token (R260). -/
def entryValue : List Nat → Value
  | [] => 0
  | i :: r => (entryValue r <<< 10) ||| BitVec.ofNat 128 i

/-- Level instance of a thread: its number within the level. -/
def instOf (fans idx : List Nat) (level : Nat) : Nat := mixed (fans.take (level + 1)) (idx.take (level + 1)) 0

/-- The barrier counters of a launch, one per instance of each level (R206). -/
def newBarriers (fans : List Nat) : List Barrier :=
  (List.range fans.length).flatMap fun l =>
    (List.range (product (fans.take (l + 1)))).map fun i =>
      { level := l, inst := i, phase := false, ended := 0, arrived := 0,
        members := BitVec.ofNat 17 (product (fans.drop (l + 1))) }

/-- The lowest free thread number of a context. -/
def Ctx.freeThread (k : Ctx) : Option ThreadId :=
  (firstNat (fun n => !(k.threads.any fun x => x.num.toNat == n)) 65536).map (BitVec.ofNat 16)

/-- A number for a thread that no launch creates: one that no admitted launch has been promised (R16, 11 R294). -/
def Ctx.spareThread (k : Ctx) : Option ThreadId :=
  if k.threads.length + k.promised < 65536 then k.freeThread else none

/-- Where the entry-list records lead, or the placement fault their token causes (R260, R261). R260 names BLOCK and PORT; a record
with a nonzero bit among 11:0, or one that lies beyond LENGTH, raises RESERVED-FIELD, place 2, too (DESIGN CHOICE, log entry 136). -/
def State.entries (s : State) (k : Ctx) (r : LaunchRec) : List (Except Fail (Addr × Nat)) :=
  let kimg := r.kimg.toNat
  match s.kernelHeader k kimg with
  | .error e => [.error e]
  | .ok h =>
    (List.range (fieldAt h 0x1A 1)).map fun i =>
      let bad : Fail := ⟨0x02, rfDetail 2 0⟩
      if fieldAt h 0x1C 4 + 4 * i + 4 > fieldAt h 4 4 then .error bad
      else match s.devRead k (kimg + fieldAt h 0x1C 4 + 4 * i) 4 .f with
        | .error e => .error e
        | .ok b =>
          let w := leNat b
          if w % 4096 != 0 then .error ⟨0x02, rfDetail 2 (((List.range 12).find? fun j => w / 2 ^ j % 2 = 1).getD 0)⟩
          else if w / 65536 ≥ fieldAt h 0x18 2 then .error ⟨0x02, rfDetail 2 16⟩
          else match s.dirEntry k kimg h (w / 65536) with
            | .error e => .error e
            | .ok d =>
              match s.inputPorts k (kimg + d.offset) with
              | .error e => .error e
              | .ok n => if w / 4096 % 16 ≥ n then .error ⟨0x02, rfDetail 2 12⟩
                         else .ok (BitVec.ofNat 64 (kimg + d.offset), w / 4096 % 16)

/-- A token of the launch, a handler dispatch or another outside source, for wave w of a thread. -/
def outsideToken (t : ThreadId) (w : WaveId) (b : Addr) (port : Nat) (v : Value) : Arrived :=
  ⟨b, .port port, { thread := t, wave := w, fmt := 0, eor := false, seq := false, urg := false, seqTag := 0, value := v },
    false, false⟩

/-- An entry token that leads nowhere stands at an address outside the 56 bits of a block's, numbered by its record; the
placement it causes fails as the record does (R260). -/
def entryMark (i : Nat) : Addr := BitVec.ofNat 64 (2 ^ 63 + i)

/-- The mark of the one token that stands for all of a list that cannot be read, since the header cannot: a list has at most 255
records. -/
def headMark : Nat := 256

/-- Where each entry record's token goes: an input port of a block, or its mark. -/
def entryPlaces (ents : List (Except Fail (Addr × Nat))) : List (Addr × Nat) :=
  ents.zipIdx.map fun e => match e.1 with
    | .ok p => p
    | .error _ => (entryMark e.2, 0)

/-- Where the entry tokens of a new thread go. -/
def State.entryLeads (s : State) (k : Ctx) (r : LaunchRec) : List (Addr × Nat) :=
  match s.kernelHeader k r.kimg.toNat with
  | .error _ => [(entryMark headMark, 0)]
  | .ok _ => entryPlaces (s.entries k r)

/-- One thread of a launch with its entry tokens. -/
def Ctx.spawn (k : Ctx) (ln : Launch) (leads : List (Addr × Nat)) (idx : List Nat) : Ctx :=
  match k.freeThread with
  | none => k
  | some t =>
    let entry : Addr := ((leads.find? fun p => !p.1.getLsbD 63).map (·.1)).getD ln.lrec.kimg
    let x := Thread.fresh t ln.num (ln.lrec.placeOf idx) k.born idx entry
    leads.foldl (fun k p => k.enter (outsideToken t 0 p.1 p.2 (entryValue idx)) .outside false)
      { k with threads := k.threads ++ [x], born := k.born + 1 }

/-- The kernel's pin list taken at placement of a launch with PIN = 1, in list order on each of its logical clusters
(06 R176). -/
def State.pinList (s : State) (k : Ctx) (r : LaunchRec) : List Addr :=
  match s.kernelHeader k r.kimg.toNat with
  | .error _ => []
  | .ok h => (List.range (fieldAt h 0x1B 1)).filterMap fun i =>
      match s.devRead k (r.kimg.toNat + fieldAt h 0x20 4 + 2 * i) 2 .f with
      | .error _ => none
      | .ok b => if leNat b ≥ fieldAt h 0x18 2 then none
          else match s.dirEntry k r.kimg.toNat h (leNat b) with
            | .ok d => some (BitVec.ofNat 64 (r.kimg.toNat + d.offset))
            | .error _ => none

/-- Slots pinned in the whole module (06 R175). -/
def State.pinnedSlots (s : State) : Nat :=
  s.ctxs.foldl (fun n k => k.pins.foldl (fun m p => m + p.slots) n) 0

/-- A block's slot count: NM1 + 1 of its header (10 R263). -/
def State.blockSlots (s : State) (k : Ctx) (b : Addr) : Option Nat :=
  match s.devRead k b.toNat 32 .f with
  | .ok h => some (fieldAt h 2 1 % 128 + 1)
  | .error _ => none

/-- One pin request (06 R176): granted when already pinned on the logical cluster, which a pin entry names (DEDUCED, log entry
111), skipped when it exceeds a quota or the block cannot be read. -/
def State.pinOne (s : State) (c : CtxId) (ln : BitVec 32) (lcl : Nat) (origin : Bool) (b : Addr) : State × Nat :=
  match s.ctx c with
  | none => (s, 0)
  | some k =>
    if k.pins.any fun p => p.blk == b && p.lcl == lcl then (s, 1)
    else match s.blockSlots k b with
      | none => (s, 0)
      | some n =>
        let here := (k.pins.filter fun p => p.phys == k.phys lcl).foldl (fun m p => m + p.slots) 0
        if here + n > k.desc.pinQuota || s.pinnedSlots + n > 196608 then (s, 0)
        else (s.setCtx { k with pins := k.pins ++ [{ phys := k.phys lcl, slots := n, lcl := lcl, origin := origin, ln := ln, blk := b }] }, 1)

/-- A list of pin requests, with the number granted. -/
def State.pinAll (s : State) (c : CtxId) (ln : BitVec 32) (lcl : Nat) (origin : Bool) (bs : List Addr) : State × Nat :=
  bs.foldl (fun r b => let q := r.1.pinOne c ln lcl origin b; (q.1, r.2 + q.2)) (s, 0)

/-- Stage 2 begins (R139): the pins of the kernel's list are taken, and the entry blocks are wanted on every logical
cluster that a thread of the launch will run on. -/
def State.beginPlacing (s : State) (c : CtxId) (n : Launch) : State :=
  let s1 := if n.lrec.pin then
      (List.range n.lrec.lclust.toNat).foldl (fun t l =>
        match t.ctx c with
        | none => t
        | some k => (t.pinAll c n.num l false (t.pinList k n.lrec)).1) s
    else s
  match s1.ctx c with
  | none => s
  | some k =>
    let blocks := ((s1.entries k n.lrec).filterMap fun e => match e with | .ok p => some p.1 | .error _ => none).eraseDups
    let lcls := ((indexVectors n.lrec.fans).map n.lrec.placeOf).eraseDups
    let wants := lcls.flatMap fun l => blocks.map fun b => (⟨n.num, l, b, false⟩ : Asked)
    s1.setCtx (({ k with wanted := k.wanted ++ wants } : Ctx).modLn n.num fun x => { x with stage := 2 })

/-- Stage 2 is over: every entry block and every pinned block of the launch has been placed, or has failed to be. -/
def Ctx.placedAll (k : Ctx) (n : Launch) : Bool :=
  !(k.wanted.any fun q => q.ln == n.num && !q.req)
    && (k.pins.filter fun p => p.ln == n.num && !p.origin).all fun p =>
        k.placed.any fun q => q.ln == n.num && q.lcl == p.lcl && q.blk == p.blk

/-- THREAD_CREATION (R139, stages 2 and 3): the pins and the entry blocks first; once those are placed, every thread with
its entry tokens, and the launch runs. -/
def execThreadCreation (c : CtxId) (ln : BitVec 32) (s : State) : Out :=
  .next <| match s.active c with
    | none => s
    | some k =>
      match k.ln ln with
      | none => s
      | some n =>
        if n.abort.isSome || (List.range n.lrec.lclust.toNat).any k.gateShut then s
        else if n.stage = 1 then s.beginPlacing c n
        else if n.stage != 2 || !k.placedAll n then s
        else
          let k1 := (indexVectors n.lrec.fans).foldl (fun k idx => k.spawn n (s.entryLeads k n.lrec) idx) k
          s.setCtx (k1.modLn ln fun x => { x with stage := 3, barriers := newBarriers n.lrec.fans })

/-! ### Level barriers (R18, R206, 15 R404) -/

def isBarrier (l i : Nat) (b : Barrier) : Bool := b.level == l && b.inst == i

def Launch.modBar (n : Launch) (l i : Nat) (f : Barrier → Barrier) : Launch :=
  { n with barriers := updFirst (isBarrier l i) f n.barriers }

/-- A thread of level instances has ended: counted in each (R18). -/
def Launch.endedThread (n : Launch) (idx : List Nat) : Launch :=
  (List.range idx.length).foldl (fun n l => n.modBar l (instOf n.lrec.fans idx l) fun b => { b with ended := b.ended + 1 }) n

/-- The level an LBAR names. -/
def MemOp.level (o : MemOp) : Nat := vbits o.a 2 0

/-- The instance of its level that an LBAR's thread belongs to, as its probe found it; none for a thread of no level. -/
def MemOp.instance? (o : MemOp) : Option Nat := if o.data.isEmpty then none else some (leNat o.data)

/-- The barrier of a launch that a committed LBAR has to do with: level and instance. -/
def Committed.barrier (c : Committed) : Option (Nat × Nat) :=
  match c.item with
  | .mem o => if o.act == .lbar then o.instance?.map fun i => (o.level, i) else none
  | .dfr _ => none

/-- An LBAR among committed operations stands behind an earlier one of its thread at the same barrier, so that it belongs to a
later phase. -/
def laterPhase (es : List Committed) (e : Committed) : Bool :=
  (es.takeWhile (· != e)).any fun c => c.thread == e.thread && c.born == e.born && c.barrier == e.barrier

/-- A committed LBAR is counted as arrived (R206). -/
def Ctx.arrive (k : Ctx) (e : Committed) : Ctx :=
  match e.barrier with
  | some (l, i) => k.modLn e.ln fun n => n.modBar l i fun b => { b with arrived := b.arrived + 1 }
  | none => k

/-- LBAR at its performance, its arrival being counted at its wave's commit: a release at the level's SCOPE, and the wait. A
thread of no level instance is released at once with PHASE 1; one that has ended meanwhile is counted in ENDED, and its LBAR
only releases (R18). -/
def State.doLbar (s : State) (k : Ctx) (me : Committed) (o : MemOp) : Perf :=
  match k.ln me.ln, o.instance? with
  | some n, some _ =>
    let s1 := { s with mem := s.mem.release (k.phys me.lcl) 2 (lvScope ((n.lrec.levels[o.level]?).getD 0)) }
    if ((k.th me.thread).map (·.born)) != some me.born then .done s1 1 1
    else .wait s1
  | _, _ => .done s 1 1

/-- A committed LBAR of a barrier's instance; `waiting` tells those that have been performed from those still to be. -/
def lbarOf (ln : BitVec 32) (level inst : Nat) (waiting : Bool) (c : Committed) : Bool :=
  c.waiting == waiting && c.ln == ln && c.barrier == some (level, inst)

/-- One waiting thread leaves a barrier: an acquire at its SCOPE, and the phase as result; an LBAR of it that was committed
since has arrived in the new phase. -/
def State.leaveBarrier (s : State) (c : CtxId) (scp : BitVec 2) (phase : Value) (e : Committed) : State :=
  match s.ctx c, e.item with
  | some k, .mem o =>
    let k1 := { k with committed := dropFirst (· == e) k.committed }
    let k2 := match k1.committed.find? fun q => q.thread == e.thread && q.born == e.born && q.barrier == e.barrier with
      | some q => k1.arrive q
      | none => k1
    { s.setCtx (k2.emitLate e o.blk o.seen o.rt phase phase) with mem := s.mem.acquire (k.phys e.lcl) 1 scp }
  | _, _ => s

/-- BARRIER_RELEASE (R206): once every member has arrived or ended, and the release of every LBAR counted in the phase has been
performed (R18). -/
def execBarrierRelease (c : CtxId) (ln : BitVec 32) (level inst : Nat) (s : State) : Out :=
  .next <| match s.ctx c with
    | none => s
    | some k =>
      match (k.ln ln).bind fun n => n.barriers.find? (isBarrier level inst) with
      | none => s
      | some b =>
        if b.arrived = 0 || b.arrived.toNat + b.ended.toNat < b.members.toNat
            || k.committed.any (fun e => lbarOf ln level inst false e && !laterPhase k.committed e) then s
        else
          let scp := ((k.ln ln).map fun n => lvScope ((n.lrec.levels[level]?).getD 0)).getD 0
          let gone := k.committed.filter (lbarOf ln level inst true)
          let s1 := s.setCtx (k.modLn ln fun n => n.modBar level inst fun b => { b with arrived := 0, phase := !b.phase })
          gone.foldl (fun s e => s.leaveBarrier c scp (if b.phase then 0 else 1) e) s1

/-! ### The end of a thread and of a launch (R19, R135) -/

/-- A thread that ends while it has arrived at a level barrier counts there as ended alone (R18). -/
def Launch.leftBarrier (n : Launch) (q : Nat × Nat) : Launch :=
  n.modBar q.1 q.2 fun b => { b with arrived := b.arrived - 1 }

/-- A thread leaves the context: whatever is left of it is dropped, its number is free, its barriers count it as
ended, and no longer as arrived, a handler's place is given back, and a delivered fault of it is resolved (R18, R19,
R185, R216). -/
def Ctx.endThread (k : Ctx) (t : ThreadId) : Ctx :=
  match k.th t with
  | none => k
  | some x =>
    let k1 := k.dropWaves t fun _ => true
    let mine (c : Committed) : Bool := c.thread == t && c.born == x.born && c.barrier.isSome
    let k2 := { k1 with
      threads := k1.threads.filter fun y => y.num != t
      tokens := k1.tokens.filter fun a => a.tok.thread != t
      spilled := k1.spilled.filter fun a => a.tok.thread != t
      kept := k1.kept.filter fun e => e.tok.thread != t
      vreds := k1.vreds.filter fun (v : Vred) => v.thread != t
      committed := k1.committed.filter fun c => !(mine c && c.waiting)
      flt := if x.delivered then k1.flt - 1 else k1.flt
      binds := k1.binds.map fun (b : Binding) => { b with running := b.running.filter (· != t) } }
    (k2.sweepBinds).modLn x.ln fun n =>
      ((k1.committed.filter mine).filterMap Committed.barrier).eraseDups.foldl Launch.leftBarrier (n.endedThread x.idx)

/-- Children of a launch that are not detached and have been admitted. -/
def Ctx.children (k : Ctx) (n : BitVec 32) : List Launch :=
  k.launches.filter fun c => c.lrec.parent == n && !c.lrec.detached && !(c.lrec.parent == 0xFFFFFFFF)

/-- A queued record is a child, not detached, of a launch of a context. -/
def isQueuedChild (c : CtxId) (n : BitVec 32) (q : QRec) : Bool :=
  q.ctx == c && !q.fromHost && q.lrec.parent == n && !q.lrec.detached

/-- A committed LAUNCH that has not yet entered its queue, of a launch, not detached. -/
def isPendingChild (n : BitVec 32) (c : Committed) : Option LaunchRec :=
  match c.item with
  | .mem o => if o.act == .launch && c.ln == n && !(launchRecOf o.data).detached then some (launchRecOf o.data) else none
  | .dfr _ => none

/-- A launch has completed (R135, R411). -/
def State.complete (s : State) (k : Ctx) (n : Launch) : Bool :=
  n.stage == 3 && n.abort.isNone && !(k.threads.any fun x => x.ln == n.num)
    && !(k.committed.any fun c => c.ln == n.num) && (k.children n.num).isEmpty
    && !(s.launchq.any (isQueuedChild k.num n.num)) && !(k.binds.any fun b => b.ln == n.num)
    && n.away = 0 && (!n.isRange || n.doneIter == n.lrec.hi.toNat - n.lrec.lo.toNat + n.taken)

/-- What a launch leaves behind: its blocks and its pins of the kernel list (06 R176). -/
def Ctx.forget (k : Ctx) (n : BitVec 32) : Ctx :=
  ({ k with
    launches := k.launches.filter fun x => x.num != n
    placed := k.placed.filter fun p => p.ln != n
    wanted := k.wanted.filter fun q => q.ln != n
    pins := k.pins.filter fun p => !(p.ln == n && !p.origin) } : Ctx).modesFall

/-- LAUNCH_COMPLETION (R135). -/
def execLaunchCompletion (c : CtxId) (ln : BitVec 32) (s : State) : Out :=
  .next <| match s.ctx c with
    | none => s
    | some k =>
      match k.ln ln with
      | none => s
      | some n =>
        if !s.complete k n || s.doneWaits k n.lrec then s
        else (s.report c n.lrec n.fromHost 1 0 0 ln).modCtx c fun k => k.forget ln

/-- The descendants of a launch that its abort takes along, itself first; `fuel` bounds the depth. -/
def Ctx.family (k : Ctx) (n : BitVec 32) : Nat → List (BitVec 32)
  | 0 => [n]
  | fuel + 1 => n :: (k.children n).flatMap fun c => k.family c.num fuel

/-- The children of an aborted launch that were never admitted: taken out, with DONE status 2. -/
def State.dropUnadmitted (s : State) (c : CtxId) (n : BitVec 32) (cause : BitVec 8) (detail : BitVec 16) : State :=
  let qs := s.launchq.filter (isQueuedChild c n)
  let ps := (((s.ctx c).map (·.committed)).getD []).filterMap (isPendingChild n)
  let s1 := { s with launchq := s.launchq.filter fun q => !isQueuedChild c n q }
  let s2 := s1.modCtx c fun k => { k with committed := k.committed.filter fun m => (isPendingChild n m).isNone }
  (qs.map (·.lrec) ++ ps).foldl (fun s r => s.report c r false 2 cause.toNat detail.toNat 0xFFFFFFFF) s2

/-- A launch of an aborted family loses its threads, its bindings and what ends with its threads at once. -/
def Ctx.cutLaunch (k : Ctx) (n : BitVec 32) (cause : BitVec 8) (detail : BitVec 16) : Ctx :=
  let k1 := (k.threads.filter fun x => x.ln == n).foldl (fun k x => k.endThread x.num) k
  let k2 := { k1 with
    committed := k1.committed.filter fun c => !(c.ln == n && c.withThreads)
    binds := k1.binds.filter fun b => b.ln != n }
  k2.modLn n fun x => { x with abort := some (x.abort.getD (cause, detail)) }

/-- QUNBIND of every binding of an aborted launch (R411). -/
def State.unbindAll (s : State) (c : CtxId) (n : BitVec 32) : State :=
  match s.ctx c with
  | none => s
  | some k => (k.binds.filter fun b => b.ln == n && b.bound).foldl
      (fun s b => s.devPut k (b.desc.toNat + 0x20) (leBytes 8 0)) s

/-- An aborted family is cut off: bindings, children never admitted, threads. -/
def State.cutFamily (s : State) (c : CtxId) (fam : List (BitVec 32)) (cause : BitVec 8) (detail : BitVec 16) : State :=
  fam.foldl (fun s m => ((s.unbindAll c m).dropUnadmitted c m cause detail).modCtx c fun k => k.cutLaunch m cause detail) s

/-- LAUNCH_ABORT (R135, R138, R216): the first time, the whole family is cut off; once its committed operations are
performed, each launch whose children are gone reports status 2 and ends. -/
def execLaunchAbort (c : CtxId) (ln : BitVec 32) (s : State) : Out :=
  .next <| match s.ctx c with
    | none => s
    | some k =>
      match (k.ln ln).bind fun n => n.abort.map fun a => (n, a) with
      | none => s
      | some (n, cause, detail) =>
        let fam := k.family ln k.launches.length
        let live := k.threads.any fun x => fam.contains x.ln
        let open_ := fam.any fun m => s.launchq.any (isQueuedChild c m) || (k.committed.any fun e => (isPendingChild m e).isSome)
          || (k.committed.any fun e => e.ln == m && e.withThreads) || (k.binds.any fun b => b.ln == m)
          || ((k.ln m).bind (·.abort)).isNone
        if live || open_ then s.cutFamily c fam cause detail
        else if !(k.children ln).isEmpty || s.doneWaits k n.lrec || k.committed.any (fun e => e.ln == ln && k.leftToDo s.mem e) then s
        else (s.report c n.lrec n.fromHost 2 cause.toNat detail.toNat ln).modCtx c fun k => k.forget ln

/-! ### The probes and performances of LAUNCH, LSTAT, LBAR and JOINW (15 R402 to R405) -/

/-- LAUNCH's probe: the record is read under the checks of a load (R366), with the thread's own earlier stores, and DONE is
checked. -/
def State.probeLaunch (s : State) (k : Ctx) (x : Thread) (w : WaveId) (o : MemOp) : Probed :=
  let va := (lo64 o.a).toNat
  match operandFail o [(127, 64)] [] with
  | some e => failA o e
  | none =>
    if !inMap k va 64 then failA o (transFail 0 3)
    else if va ≥ controlBase then failA o (protFail 6)
    else if va % 64 != 0 then failA o ⟨0x08, 6⟩
    else match pieces s.mem k (k.phys x.lcl) va 64 with
      | .error e => failA o e
      | .ok ps =>
        match (allAllowed s.keys ps .rd).or ((cpFail x.lcl ps).or (ownerFail k ps)) with
        | some e => failA o e
        | none =>
          if ps.any (piecePoison s.mem) then failA o ⟨0x0F, 0⟩
          else
          let b := forwarded (k.prior x w o.m.own) (ps.flatMap Piece.keys) (bytesOf s.mem k (k.phys x.lcl) ps)
          let done := fieldAt b 0x10 8
          match (if done = 0 then none else s.hcProbe k false done 8 0 .w) with
          | some e => failA o e
          | none => .ok { o with data := b }

/-- LAUNCH at commit (R137): a release at the child's scope; it waits for room in its queue. -/
def State.doLaunch (s : State) (k : Ctx) (me : Committed) (o : MemOp) : Perf :=
  let r := { launchRecOf o.data with parent := me.ln }
  let s1 := s.releaseAt k.num (k.phys me.lcl) 2 r.scope
  if r.prio.toNat > 15 then
    if s.doneWaits k r then .wait s
    else .done (s1.report k.num r false 3 0x15 ((s1.launchBad k r).getD 0x0007) 0xFFFFFFFF) 0 0
  else
    let die := k.dieOf me.lcl
    if s.queued die r.prio.toNat ≥ 1024 then .wait s
    else .done { s1 with launchq := s1.launchq ++
      [{ die := die, prio := r.prio.toNat, ctx := k.num, lrec := r, fromHost := false, stamp := s1.tick }] } 0 0

/-- LSTAT's value (R403). -/
def Ctx.launchState (k : Ctx) (n : BitVec 32) : Value :=
  match k.ln n with
  | none => 0
  | some l =>
    let ts := k.threads.filter fun x => x.ln == n
    BitVec.ofNat 128 ((if ts.any fun x => x.fault.isSome then 2 else 1) + l.lrec.prio.toNat % 16 * 256 + ts.length * 2 ^ 32)

/-- The probes of LSTAT, LBAR and JOINW. -/
def State.probeLevel (s : State) (k : Ctx) (x : Thread) (o : MemOp) : Probed :=
  match o.act with
  | .lstat => match operandFail o [(127, 32)] [] with
    | some e => failA o e
    | none => .ok o
  | .lbar => match operandFail o [(127, 3)] [] with
    | some e => failA o e
    | none => match k.ln x.ln with
      | none => failA o ⟨0x02, rfDetail 4 0⟩
      | some n =>
        if o.level ≥ n.lrec.nlev.toNat then failA o ⟨0x02, rfDetail 4 0⟩
        else .ok { o with data := if x.idx.isEmpty then [] else leBytes 8 (instOf n.lrec.fans x.idx o.level) }
  | _ => match operandFail o [(127, 64)] [] with
    | some e => failA o e
    | none => match s.hcProbe k true (lo64 o.a).toNat 8 3 .rd with
      | some e => failA o e
      | none => match pieces s.mem k (k.phys x.lcl) (lo64 o.a).toNat 8 with
        | .ok ps => .ok { o with ps := ps }
        | .error e => failA o e

end Sys2Proof.Machine
end

