-- ==== Sys2Proof/Machine/Placement.lean ====
section
/-! DEFINITION. Block images and their checks (10 R258 to R278, 06 R164 to R171), and placement: BLOCK_PLACEMENT,
BLOCK_MOVE, TOKEN_FORWARD and STALE_BLOCK_EVICTION (01 R26 to R32, 02 R52, R53). -/

namespace Sys2Proof.Machine

/-- A placement failure: the fault, its FADDR, and the slot's words for the record (R212); none for a fault that names
no slot. -/
structure PFail where
  fail : Fail
  faddr : BitVec 64
  slot : Option (Nat × PSlot)
  poff : Nat
  deriving DecidableEq, Repr, Inhabited

/-- A fault of steps 1, 2 and 4 of R278. -/
def tableFail (bit : Nat) : PFail := ⟨⟨0x02, rfDetail 2 bit⟩, 0, none, 0xFFFF⟩
def readFail (e : Fail) (a : Nat) : PFail := ⟨e, BitVec.ofNat 64 a, none, 0xFFFF⟩

/-- A fault of step 3, before its slot is named. -/
def slotMisuse (e : Fail) : PFail := ⟨e, 0, none, 0⟩

/-! ### Reading the image (R258, R261, R263) -/

/-- An image being read: the launch's KIMG and its kernel header. -/
structure Image where
  kimg : Nat
  hd : List Byte
  deriving DecidableEq, Repr, Inhabited

def Image.length (m : Image) : Nat := fieldAt m.hd 4 4
def Image.nblk (m : Image) : Nat := fieldAt m.hd 0x18 2

/-- n bytes at an offset of the image; nothing lies beyond LENGTH. -/
def State.imageBytes (s : State) (k : Ctx) (m : Image) (off n : Nat) : Except PFail (List Byte) :=
  if n = 0 then .ok []
  else if off + n > m.length then .error (tableFail 0)
  else match s.devRead k (m.kimg + off) n .f with
    | .error e => .error (readFail e (m.kimg + off))
    | .ok b => .ok b

def State.dirAt (s : State) (k : Ctx) (m : Image) (i : Nat) : Except PFail DirRow :=
  match s.imageBytes k m (fieldAt m.hd 0x14 4 + 16 * i) 16 with
  | .error e => .error e
  | .ok b => .ok (dirRow b)

/-- The directory entry of the block at an offset: the first of [i, i + n). -/
def State.dirFor (s : State) (k : Ctx) (m : Image) (off i : Nat) : Nat → Except PFail DirRow
  | 0 => .error (tableFail 0)
  | n + 1 =>
    match s.dirAt k m i with
    | .error e => .error e
    | .ok d => if d.offset = off then .ok d else State.dirFor s k m off (i + 1) n

/-- Set bits of a number below n, in ascending order. -/
def setBits (v n : Nat) : List Nat := (List.range n).filter fun i => v.testBit i

/-- The rules of the block header (R263), as the lowest offending bit of its 32-bit word. -/
def blockHeaderBad (b : List Byte) (d : DirRow) : Option Nat :=
  let w0 := fieldAt b 0 4
  let w1 := fieldAt b 4 4
  let n := bits w0 23 16 + 1
  let nin := bits w0 15 8
  if bits w0 31 24 != 1 then some 24
  else if n > 128 then some 16
  else if nin > 16 then some 8
  else if bits w0 7 0 > 16 || bits w0 7 0 != d.nout then some 0
  else match (setBits w1 16).filter fun i => 4 ≤ i with
    | i :: _ => some i
    | [] =>
      match (setBits (fieldAt b 8 16) 128).filter fun i => n ≤ i with
      | i :: _ => some (i % 32)
      | [] =>
        if fieldAt b 28 4 != 0 then some ((setBits (fieldAt b 28 4) 32).headD 0)
        else ((List.range 16).find? fun p =>
            let e := fieldAt b (0x20 + p) 1
            if p ≥ nin then e != 0 else e % 128 ≥ n).map fun _ => 0

/-- Entries of the constant map (02 R52). -/
def constMap (b : List Byte) : List Nat := (List.range 16).map fun i => fieldAt b (0x30 + 2 * i) 2

/-- Literals the constant map names: one more than the largest. -/
def literalCount (m : List Nat) : Nat :=
  m.foldl (fun n c => if 0x8000 ≤ c && c < 0xFFFF then max n (c - 0x7FFF) else n) 0

/-- A link record of an image, its zero bits checked (R261). -/
def State.linkWord (s : State) (k : Ctx) (m : Image) (li : Nat) : Except PFail Nat :=
  if li ≥ fieldAt m.hd 0x30 4 then .error (tableFail 0)
  else match s.imageBytes k m (fieldAt m.hd 0x2C 4 + 4 * li) 4 with
    | .error e => .error e
    | .ok b => match (setBits (leNat b) 12).filter fun i => 1 ≤ i with
      | i :: _ => .error (tableFail i)
      | [] => .ok (leNat b)

/-- One output port's link: none when V = 0 or when it leads to no input (R261). -/
def State.linkOf (s : State) (k : Ctx) (m : Image) (li : Nat) : Except PFail (Option (Addr × Nat)) :=
  match s.linkWord k m li with
  | .error e => .error e
  | .ok w =>
    if w % 2 = 0 || w / 65536 ≥ m.nblk then .ok none
    else match s.dirAt k m (w / 65536) with
      | .error e => .error e
      | .ok d =>
        match s.imageBytes k m d.offset 2 with
        | .error e => .error e
        | .ok h => if w / 4096 % 16 < fieldAt h 1 1 then .ok (some (BitVec.ofNat 64 (m.kimg + d.offset), w / 4096 % 16))
                   else .ok none

def State.linksOf (s : State) (k : Ctx) (m : Image) (li : Nat) : Nat → Except PFail (List (Option (Addr × Nat)))
  | 0 => .ok []
  | n + 1 =>
    match s.linkOf k m li with
    | .error e => .error e
    | .ok l => (State.linksOf s k m (li + 1) n).map (l :: ·)

/-- A block image after steps 1 and 2 of R278; `links` stays empty until step 3 has read those that a destination
reaches. -/
structure BlockImage where
  slots : Nat
  nin : Nat
  nout : Nat
  link : Nat
  front : Bool
  drum : Bool
  matrix : Bool
  mem : Bool
  ports : List (BitVec 8)
  cmap : List Nat
  lits : List Value
  links : List (Option (Addr × Nat))
  parcels : List (Nat × Parcel)
  sides : Tab (BitVec 32)
  urgent : List Nat
  bytes : Nat
  deriving DecidableEq, Repr, Inhabited

/-- Byte offsets of instructions in the parcel stream. -/
def withOffsets : List Parcel → Nat → List (Nat × Parcel)
  | [], _ => []
  | p :: r, off => (off, p) :: withOffsets r (off + 2 * p.size)

/-- Steps 1 and 2: header, tables and the parcel stream (R263, R264). -/
def State.readBlock (s : State) (k : Ctx) (m : Image) (b : Addr) : Except PFail BlockImage :=
  match s.dirFor k m (b.toNat - m.kimg) 0 m.nblk with
  | .error e => .error e
  | .ok d =>
    if d.offset % 16 != 0 then .error (tableFail 0)
    else if d.rest != 0 then .error (tableFail 8)
    else match s.imageBytes k m d.offset 0x50 with
      | .error e => .error e
      | .ok h =>
        match blockHeaderBad h d with
        | some bit => .error (tableFail bit)
        | none =>
          let plen := fieldAt h 6 2
          let n := fieldAt h 2 1 + 1
          let padded := plen + plen % 2
          let sideSlots := setBits (fieldAt h 8 16) 128
          let cmap := constMap h
          let nlit := literalCount cmap
          let body := 2 * padded + 4 * sideSlots.length
          let litOff := (d.offset + 0x50 + body + 15) / 16 * 16
          match s.imageBytes k m (d.offset + 0x50) body, s.imageBytes k m litOff (16 * nlit) with
          | .error e, _ => .error e
          | _, .error e => .error e
          | .ok raw, .ok lits =>
            let stream := (List.range plen).map fun i => BitVec.ofNat 16 (fieldAt raw (2 * i) 2)
            match parseParcels stream with
            | none => .error (tableFail 0)
            | some ps =>
              if ps.length != n || (plen % 2 = 1 && fieldAt raw (2 * plen) 2 != 0) then .error (tableFail 0)
              else
                let w6 := fieldAt h 24 4
                .ok { slots := n, nin := fieldAt h 1 1, nout := d.nout, link := d.link
                      front := bits (fieldAt h 4 4) 3 3 = 1, drum := bits (fieldAt h 4 4) 2 2 = 1
                      matrix := bits (fieldAt h 4 4) 1 1 = 1, mem := bits (fieldAt h 4 4) 0 0 = 1
                      ports := (List.range (fieldAt h 1 1)).map fun p => BitVec.ofNat 8 (fieldAt h (0x20 + p) 1)
                      cmap := cmap, lits := (List.range nlit).map fun i => BitVec.ofNat 128 (fieldAt lits (16 * i) 16)
                      links := [], parcels := withOffsets ps 0
                      sides := (List.range sideSlots.length).map fun i =>
                        (sideSlots.getD i 0, BitVec.ofNat 32 (fieldAt raw (2 * padded + 4 * i) 4))
                      urgent := (List.range (bits w6 15 8)).map (· + bits w6 6 0)
                      bytes := litOff + 16 * nlit - d.offset }

/-! ### Slots (R278, step 3) -/

/-- The record fields of a slot. -/
def slotWords (tmpl : BitVec 32) (p : Parcel) (poff : Nat) (side : Option (BitVec 32)) (urgent : Bool) : PSlot :=
  { tmpl := tmpl, side := side.getD 0, sideP := side.isSome, urgent := urgent
    short := (match p with
      | .c16 w => w.zeroExtend 32 | .c32 w => w | .f48 w => (w.extractLsb' 32 16).zeroExtend 32)
    poff := poff }

/-- The dictionary entry a short form names, or DICT-UNDEF (06 R166). -/
def State.entryOf (s : State) (k : Ctx) (idx : Nat) : Except PFail (BitVec 64) :=
  let undef : PFail := slotMisuse ⟨0x03, BitVec.ofNat 24 (0x800000 + k.sel.toNat * 1024 + idx)⟩
  if !k.dictValid k.sel.toNat || idx ≥ k.dictCount k.sel.toNat then .error undef
  else match s.devRead k (k.dictBase k.sel.toNat + 8 * idx) 8 .rd with
    | .error e => .error (readFail e (k.dictBase k.sel.toNat + 8 * idx))
    | .ok b => let e := BitVec.ofNat 64 (leNat b)
               if e.getLsbD 31 then .ok e else .error undef

def illFail : Illegal → Fail
  | .illegal d => ⟨0x01, BitVec.ofNat 24 d⟩
  | .reserved p b => ⟨0x02, rfDetail p b⟩

/-- One instruction expanded to its template with its U bit (R264, R276). -/
def State.expand (s : State) (k : Ctx) (p : Parcel) : Except PFail (BitVec 32 × Bool) :=
  let viaDict (idx : Nat) (h1 h2 h3 : BitVec 8) : Except PFail (BitVec 32 × Bool) :=
    match s.entryOf k idx with
    | .error e => .error e
    | .ok e => match expandEntry e h1 h2 h3 with
      | .error i => .error (slotMisuse (illFail i))
      | .ok t => .ok (t, e.getLsbD 21)
  match p with
  | .f48 w => if w.extractLsb' 32 14 != 0 then .error (slotMisuse ⟨0x01, 4⟩) else .ok (w.extractLsb' 0 32, false)
  | .c16 w => viaDict (w.extractLsb' 8 7).toNat (w.extractLsb' 0 8) 0 0
  | .c32 w => viaDict (w.extractLsb' 20 10).toNat (w.extractLsb' 12 8) (w.extractLsb' 4 8) ((w.extractLsb' 0 4).zeroExtend 8)

/-- Operand A (or B) of a decoded slot takes tokens (R266). A slot that does not decode fails in its own turn. -/
def takesTokens (ws : List (Except PFail PSlot)) (i : Nat) (b : Bool) : Bool :=
  match ws[i]? with
  | some (.ok w) =>
    let op := (w.tmpl.extractLsb' 24 8).toNat
    if !knownOpcode (w.tmpl.extractLsb' 24 8) && op != 0x0F then true
    else if op = 0x0F then !b && w.tmpl.extractLsb' 18 2 = 0#2
    else if b then w.tmpl.extractLsb' 16 2 = 0#2 && takesB op w.side
    else w.tmpl.extractLsb' 18 2 = 0#2
  | _ => true

/-- The ports SWITCH may send to (R274). -/
def switchPorts (f : FormS) : List Nat :=
  (List.range f.len.toNat).map (· + f.base.toNat) ++ (if f.deflt then [f.defport.toNat] else [])

/-- The output ports that a slot's destinations name (R266, R274). -/
def portsNamed (op : Nat) (t : Tmpl) (side : BitVec 32) : List Nat :=
  if op = 0x10 then switchPorts (FormS.dec side)
  else if op = 0x0F || destNone op then []
  else (if t.act.port2 then [t.d2.toNat] else []) ++ (if t.act.port1 then [t.d1.toNat] else [])

/-- What is wrong with an output port that a destination names, `bit` being the destination's place in the template: not a
port of the block, not linked, or a link record or target that cannot be read (R261). -/
def State.portFail (s : State) (k : Ctx) (g : Image) (m : BlockImage) (bit p : Nat) : Option PFail :=
  let unlinked := slotMisuse (illFail (.reserved 2 bit))
  if p ≥ 16 || p ≥ m.nout then some unlinked
  else match s.linkOf k g (m.link + p) with
    | .error e => some e
    | .ok none => some unlinked
    | .ok (some _) => none

/-- What is wrong with one destination byte of slot i (R261, R266). -/
def State.byteFail (s : State) (k : Ctx) (g : Image) (m : BlockImage) (ws : List (Except PFail PSlot)) (port : Bool)
    (d : BitVec 8) (bit i : Nat) : Option PFail :=
  if port then s.portFail k g m bit d.toNat
  else if d.toNat = i || (decide (d.toNat % 128 < m.slots) && takesTokens ws (d.toNat % 128) (d.getLsbD 7)) then none
  else some (slotMisuse (illFail (.reserved 2 bit)))

/-- Destinations and SWITCH's ports of slot i (R266, R269, R274, R301). -/
def State.destFail (s : State) (k : Ctx) (g : Image) (m : BlockImage) (ws : List (Except PFail PSlot)) (op : Nat) (t : Tmpl)
    (side : BitVec 32) (i : Nat) : Option PFail :=
  let misuse (bit : Nat) : Option PFail := some (slotMisuse (illFail (.reserved 2 bit)))
  ((if op = 0x10 then switchPorts (FormS.dec side) else []).findSome? (s.portFail k g m 0)).or <|
    if destNone op then
      (if t.d1.toNat != i then misuse 8 else if t.d2.toNat != i then misuse 0 else none)
    else (s.byteFail k g m ws (op != 0x0F && t.act.port2) t.d2 0 i).or
      (s.byteFail k g m ws (op != 0x0F && t.act.port1) t.d1 8 i)

/-- The opcode of a slot that expanded. -/
def opAt (ws : List (Except PFail PSlot)) (i : Nat) : Option Nat :=
  match ws[i]? with
  | some (.ok w) => some (w.tmpl.extractLsb' 24 8).toNat
  | _ => none

/-- The XARG slot after a three-input instruction, as its words decode. -/
def xargAt (ws : List (Except PFail PSlot)) (i : Nat) : Option XArg :=
  match ws[i]? with
  | some (.ok w) => if w.tmpl.extractLsb' 24 8 = 0x0F#8 then XArg.dec w.tmpl w.side else none
  | _ => none

/-- The first failure of slot i in the order of R278, step 3. A three-input instruction whose next slot does not expand is not
misformed by that: the next slot's own fault is raised in its turn (DESIGN CHOICE, log entry 134). -/
def State.slotFail (s : State) (k : Ctx) (g : Image) (m : BlockImage) (ws : List (Except PFail PSlot)) (i : Nat) :
    Option PFail :=
  match ws[i]? with
  | none => none
  | some (.error e) => some e
  | some (.ok w) =>
    let op := (w.tmpl.extractLsb' 24 8).toNat
    if !knownOpcode (w.tmpl.extractLsb' 24 8) && op != 0x0F then some (slotMisuse ⟨0x01, 1⟩)
    else match Tmpl.dec w.tmpl with
      | none => some (slotMisuse ⟨0x01, 2⟩)
      | some t =>
        let env : SlotEnv := { slot := i, nin := m.nin, nout := m.nout, matrix := m.matrix, sidePresent := w.sideP }
        let bad := if op = 0x0F then
            (match XArg.dec w.tmpl w.side with
             | none => none
             | some a => checkXArg (if i = 0 then 0 else (opAt ws (i - 1)).getD 0) w.sideP a)
          else checkSlot op t w.side (if threeInput op then xargAt ws (i + 1) else none) env
        match (bad.map fun e => slotMisuse (illFail e)).or (s.destFail k g m ws op t w.side i) with
        | some e => some e
        | none =>
          let next := opAt ws (i + 1)
          if threeInput op && (match ws[i + 1]? with | none => true | some (.error _) => false | some (.ok _) => next != some 0x0F)
          then some (slotMisuse ⟨0x01, 6⟩)
          else if op = 0x0F && (i = 0 || !(threeInput ((opAt ws (i - 1)).getD 0))) then some (slotMisuse ⟨0x01, 6⟩)
          else none

/-- The output ports that the destinations of decoded slots name. -/
def portsOf (ws : List PSlot) : List Nat :=
  ws.flatMap fun w => match Tmpl.dec w.tmpl with
    | some t => portsNamed (w.tmpl.extractLsb' 24 8).toNat t w.side
    | none => []

/-- Step 4: duplicate OWN numbers, the MEM flag, the operands the input port table names, and the link records that no
destination reaches (R261; log entry 91). -/
def State.blockFail (s : State) (k : Ctx) (g : Image) (m : BlockImage) (ws : List (Except PFail PSlot)) : Option PFail :=
  let mem := ws.filterMap fun w => match w with
    | .ok w => if formOf (w.tmpl.extractLsb' 24 8).toNat == .m then some (FormM.dec w.side).own else none
    | .error _ => none
  if mem.eraseDups.length != mem.length then some ⟨⟨0x02, rfDetail 1 16⟩, 0, none, 0xFFFF⟩
  else if m.mem != !mem.isEmpty then some (tableFail 0)
  else if m.ports.any fun e => !takesTokens ws (e.toNat % 128) (e.getLsbD 7) then some (tableFail 0)
  else (List.range m.nout).findSome? fun p => match s.linkWord k g (m.link + p) with
    | .error e => some e
    | .ok _ => none

/-- Steps 3 and 4: the decoded slots of a block, or its first failure. -/
def State.decodeBlock (s : State) (k : Ctx) (g : Image) (m : BlockImage) : Except PFail (List PSlot) :=
  let words := fun i => (m.parcels.getD i default)
  let exp := (List.range m.slots).map fun i => s.expand k (words i).2
  let ws := (List.range m.slots).map fun i =>
    match exp[i]? with
    | some (.ok (t, u)) => Except.ok (slotWords t (words i).2 (words i).1 (tget m.sides i) (u || m.urgent.contains i))
    | some (.error e) => .error e
    | none => .error (slotMisuse ⟨0x01, 1⟩)
  match (List.range m.slots).findSome? fun i => (s.slotFail k g m ws i).map fun e => (i, e) with
  | some (i, e) =>
    let t := match exp[i]? with | some (.ok (t, _)) => t | _ => 0
    .error { e with slot := some (i, slotWords t (words i).2 (words i).1 (tget m.sides i) false), poff := (words i).1 }
  | none =>
    match s.blockFail k g m ws with
    | some e => .error e
    | none => .ok (ws.filterMap fun w => match w with | .ok x => some x | .error _ => none)

/-- The links of the output ports that destinations name (R261). -/
def State.linksNamed (s : State) (k : Ctx) (g : Image) (m : BlockImage) (ws : List PSlot) : List (Option (Addr × Nat)) :=
  (List.range m.nout).map fun p =>
    if (portsOf ws).contains p then (match s.linkOf k g (m.link + p) with | .ok l => l | .error _ => none) else none

/-! ### The constant file (02 R52, R53) -/

/-- One entry of the constant file, or CF-INIT (R26). -/
def State.constOf (s : State) (k : Ctx) (args : Nat) (m : BlockImage) (i : Nat) : Except PFail Value :=
  let c := m.cmap.getD i 0xFFFF
  if c = 0xFFFF then .ok 0
  else if c ≥ 0x8000 then .ok (m.lits.getD (c - 0x8000) 0)
  else match s.devRead k (args + 16 * c) 16 .rd with
    | .ok b => .ok (BitVec.ofNat 128 (leNat b))
    | .error e => .error ⟨⟨0x12, (e.detail &&& 0xFC0000) ||| BitVec.ofNat 24 i⟩, BitVec.ofNat 64 (args + 16 * c), none, 0⟩

def State.constsOf (s : State) (k : Ctx) (args : Nat) (m : BlockImage) (i : Nat) : Nat → Except PFail (List Value)
  | 0 => .ok []
  | n + 1 =>
    match s.constOf k args m i with
    | .error e => .error e
    | .ok v => (State.constsOf s k args m (i + 1) n).map (v :: ·)

/-! ### Slots of the fabric -/

/-- The slots of a physical cluster that placed blocks hold, of every context, old slots among them (R32). -/
def State.usedSlots (s : State) (clu : Nat) : List (Nat × Nat) :=
  s.ctxs.flatMap fun k => (k.placed.filter fun p => k.seatOf p == clu).flatMap fun p => p.at_ ++ p.old.getD []

/-- A domain a context may place blocks in: one it has been given (R14, 05 R140). -/
def State.mayUse (s : State) (c : CtxId) (clu dom : Nat) : Bool := tget s.owners (clu * 16 + dom) == some c

/-- What the slots of a block must be like: their number; whether it is a MATRIX block, its slots that run MMA or MMASP,
which the head PE runs (R28, R39), and the domain it must go back to; and the kind of unit its launch's threads stay in, 1
a PE, 2 a domain or 0 neither, with the unit that the launch's other blocks of the cluster hold (R17). -/
structure Berth where
  n : Nat
  matrix : Bool
  heads : List Nat
  home : Option Nat
  narrow : Nat
  held : Option Nat
  deriving DecidableEq, Repr, Inhabited

/-- The narrowest kind of unit that the instances of a launch stay within below a cluster: 1 PE, 2 domain, 0 none (R17). -/
def LaunchRec.narrow (r : LaunchRec) : Nat :=
  if r.declared.any fun w => lvKind w = 1 then 1 else if r.declared.any fun w => lvKind w = 2 then 2 else 0

/-- The PE or the domain of a slot. -/
def unitKey (narrow : Nat) (q : Nat × Nat) : Nat := if narrow = 1 then q.1 else q.1 / 8

/-- Slots that must lie on the head PE: those of the matrix instructions (14 R367). It has 64 slots; of a block with more such
instructions the first 64 lie there (log entry 135). -/
def headSlots (ws : List PSlot) : List Nat :=
  ((List.range ws.length).filter fun i =>
    needsMatrix (((ws[i]?).getD default).tmpl.extractLsb' 24 8).toNat).take 64

/-- What the slots of a block of a launch must be like on a logical cluster, `self` being the block where it is already
placed. A unit binds a block that fits in one (R17, R28). -/
def Ctx.berth (k : Ctx) (r : Option LaunchRec) (ln : BitVec 32) (l : Nat) (matrix : Bool) (home : Option Nat)
    (ws : List PSlot) (self : Option Placed) : Berth :=
  let kind := (r.map LaunchRec.narrow).getD 0
  let narrow := if kind = 1 && ws.length > 64 then 2 else kind
  { n := ws.length, matrix := matrix, heads := if matrix then headSlots ws else [], home := home, narrow := narrow
    held := if narrow = 0 then none
      else ((k.placed.find? fun p => p.ln == ln && p.lcl == l && some p != self).bind fun p => p.at_.head?).map (unitKey narrow) }

/-- The berth of a block where it moves to other slots (R32). -/
def Ctx.berthOf (k : Ctx) (p : Placed) : Berth :=
  k.berth ((k.ln p.ln).map (·.lrec)) p.ln p.lcl p.matrix (if p.matrix then (p.at_.head?).map fun q => q.1 / 8 else none)
    p.slots (some p)

/-- Slots offered for a block are in order: as many as it needs, distinct, free, in usable domains, within one domain
where one has the room, with a MATRIX block's on its domain's head PE as they must be, in its home domain when it has one,
and in its launch's unit (R14, R17, R28, R39). -/
def State.slotsFit (s : State) (k : Ctx) (clu : Nat) (b : Berth) (at_ : List (Nat × Nat)) : Bool :=
  let used := s.usedSlots clu
  let doms := (at_.map fun q => q.1 / 8).eraseDups
  let units := (at_.map (unitKey b.narrow)).eraseDups
  let room (d : Nat) : Bool := s.mayUse k.num clu d && decide ((used.filter fun q => q.1 / 8 == d).length + b.n ≤ 512)
  at_.length == b.n && at_.eraseDups.length == b.n && at_.all (fun q => q.1 < 128 && q.2 < 64 && !used.contains q)
    && doms.all (s.mayUse k.num clu)
    && (doms.length ≤ 1 || !((List.range 16).any room))
    && (!b.matrix || (at_.any (fun q => q.1 % 8 = 0) && doms.length ≤ 1))
    && b.heads.all (fun i => ((at_[i]?).getD (1, 0)).1 % 8 = 0)
    && (match b.home with | some d => doms == [d] | none => true)
    && (b.narrow = 0 || decide (units.length ≤ 1))
    && (match b.held with | some u => units.all (· == u) | none => true)

/-- No slots are free that a block could take (R29): fewer than it needs; for a MATRIX block or one whose launch stays in
a domain or a PE, no such unit with the room and the slots of the head PE it needs (R17, R28). -/
def State.lacksRoom (s : State) (k : Ctx) (clu : Nat) (b : Berth) : Bool :=
  let used := s.usedSlots clu
  let freeOf (p : Nat × Nat → Bool) (d n : Nat) : Nat := if s.mayUse k.num clu d then n - (used.filter p).length else 0
  let inDom (d : Nat) : Nat := freeOf (fun q => q.1 / 8 == d) d 512
  let inPe (e : Nat) : Nat := freeOf (fun q => q.1 == e) (e / 8) 64
  let need := if b.matrix then max 1 b.heads.length else 0
  let homely (d : Nat) : Bool := match b.home with | some h => h == d | none => true
  let mine (u : Nat) : Bool := match b.held with | some h => h == u | none => true
  if b.narrow = 1 then !((List.range 128).any fun e =>
    mine e && homely (e / 8) && decide (b.n ≤ inPe e) && (need = 0 || e % 8 = 0))
  else if b.matrix || b.narrow = 2 then !((List.range 16).any fun d =>
    (b.narrow = 0 || mine d) && homely d && decide (b.n ≤ inDom d) && decide (need ≤ inPe (d * 8)))
  else decide (((List.range 16).map inDom).foldl (· + ·) 0 < b.n)

/-- The domains of some slots become a context's (R14). -/
def State.own (s : State) (c : CtxId) (clu : Nat) (at_ : List (Nat × Nat)) : State :=
  { s with owners := ((at_.map fun q => q.1 / 8).eraseDups).foldl (fun o d => tset o (clu * 16 + d) c) s.owners }

/-! ### Eviction (R29) -/

/-- A token stands in a placed block. -/
def Ctx.tokenOf (k : Ctx) (p : Placed) (a : Arrived) : Bool :=
  a.blk == p.blk && (match k.th a.tok.thread with | some x => x.ln == p.ln && x.lcl == p.lcl | none => false)

/-- A deferred instruction has a result to come. -/
def DefOp.answers (d : DefOp) : Bool :=
  (match d.act with
    | .tnew | .dfence | .ipin | .iunpin | .ctxst | .syscall | .fresume | .fabort => true
    | _ => false) && d.rt.any

/-- A thread's tokens in a block at an address meet a placed block. -/
def Ctx.serves (k : Ctx) (p : Placed) (t : ThreadId) (b : Addr) : Bool :=
  b == p.blk && (match k.th t with | some x => x.ln == p.ln && x.lcl == p.lcl | none => false)

/-- A slot of a placed block is firing: a result of it is still to come, or it is a drum that runs (R29, R40). -/
def Ctx.firing (k : Ctx) (p : Placed) : Bool :=
  (k.threads.any fun x => x.ln == p.ln && x.lcl == p.lcl && x.waves.any fun v =>
      (v.ops.any fun o => o.blk == p.blk && !o.bound && o.rt.any) || v.defs.any fun d => d.blk == p.blk && d.answers)
    || (k.committed.any fun e => e.due && e.ln == p.ln && e.lcl == p.lcl && match e.item with
        | .mem o => o.blk == p.blk
        | .dfr d => d.blk == p.blk)
    || (k.share p.lcl).drums.any fun d => d.ctl.getLsbD 3 && k.serves p (d.tag.extractLsb' 0 16) d.blk

/-- Some slot of a block holds a matching-store entry: a token, a kept operand or a held contribution (R54, 12 R341). -/
def Ctx.entries (k : Ctx) (p : Placed) : Bool :=
  k.tokens.any (k.tokenOf p) || (k.kept.any fun e => k.serves p e.tok.thread e.blk)
    || k.vreds.any fun (v : Vred) => !v.held.isEmpty && k.serves p v.thread v.blk

/-- A VRED register of a block has a reduction in progress or steps that are not final. -/
def Ctx.reducing (k : Ctx) (p : Placed) : Bool :=
  k.vreds.any fun (v : Vred) => (v.nextSeq != 0 || !v.held.isEmpty || !v.log.isEmpty) && k.serves p v.thread v.blk

/-- A block is not pinned, none of its slots is firing and none holds a matching-store entry; a stale one holds no VRED
state either (R29, 06 R168). -/
def Ctx.idle (k : Ctx) (p : Placed) : Bool :=
  !p.pinned && !k.entries p && !k.firing p && (p.gen == k.gen || !k.reducing p)

/-- A block leaves its slots; kept operands and VRED registers stay, in the overflow area. -/
def Ctx.evict (k : Ctx) (p : Placed) : Ctx :=
  let k1 := { k with placed := dropFirst (· == p) k.placed }
  let k2 := k1.perfAdd p.lcl 6 1
  if p.matrix then ((p.at_.map fun q => q.1 / 8).eraseDups).foldl (fun k d => k.modeFall p.seat d) k2 else k2

/-- Blocks of the context on a physical cluster that may be evicted, least recently used first; `spill` asks for busy
ones, which must not be stale (06 R168). -/
def Ctx.victim (k : Ctx) (clu : Nat) (spill : Bool) : Option Placed :=
  leastBy (fun p => p.lastUse) (k.placed.filter fun p =>
    k.seatOf p == clu && p.old.isNone && (if spill then !p.pinned && !k.idle p && p.gen == k.gen else k.idle p))

/-- The slot a token's place in a block leads to. -/
def Placed.slotOf (p : Placed) (d : Dst) : Nat :=
  match d with
  | .slot n _ => n
  | .port q => ((p.ports[q]?).getD 0).toNat % 128
  | .out _ => 0

/-- The tokens of a busy block go to the overflow area, one record each; the first that finds no room raises
OVERFLOW-LIMIT in its thread, and the spilling ends there (R29, R31). -/
def Ctx.spill (k : Ctx) (p : Placed) : Nat → Ctx
  | 0 => k
  | fuel + 1 =>
    match k.tokens.find? (k.tokenOf p) with
    | none => k
    | some a =>
      if k.ovfRoom then
        Ctx.spill (({ k with tokens := dropFirst (· == a) k.tokens, spilled := k.spilled ++ [a] } : Ctx).perfAdd p.lcl 7 1) p fuel
      else k.raiseAt a.tok.thread p.blk (p.seen (p.slotOf a.dst)) a.tok.wave 0x0D 1 0 0

/-- The thread, wave and slot of the first state of a block that an eviction would have to save: a kept operand or a VRED
register, or else the launch's oldest thread with an uncommitted wave, for the captured constants (02 R53). -/
def Ctx.saved (k : Ctx) (p : Placed) : Option (ThreadId × WaveId × Nat) :=
  ((k.kept.find? fun e => k.serves p e.tok.thread e.blk).map fun e => (e.tok.thread, e.tok.wave, e.slot)).or <|
    ((k.vreds.find? fun (v : Vred) => k.serves p v.thread v.blk).map fun v => (v.thread, v.young.getD 0, v.slot)).or <|
      (leastBy (fun (x : Thread) => x.born) (k.threads.filter fun x => x.ln == p.ln && !x.waves.isEmpty)).bind fun x =>
        x.oldest.map fun v => (x.num, v.num, 0)

/-- A block is evicted when the overflow area holds what it leaves; else OVERFLOW-LIMIT, detail 2, is raised in the thread
whose state finds no room (R31, 08 R211). -/
def Ctx.evictFit (k : Ctx) (p : Placed) : Ctx :=
  let k1 := k.evict p
  if k1.ovfUsed ≤ k.ovfUsed || k1.ovfFits then k1
  else match k.saved p with
    | none => k
    | some (t, w, i) => match k.th t with
      | none => k
      | some x => k.raiseAt t p.blk (p.seen i) (if (x.wv w).isSome then w else x.lateWave w) 0x0D 1 2 0

/-- One eviction on a physical cluster that is full: an idle block, or else one whose tokens are spilled. -/
def Ctx.makeRoom (k : Ctx) (clu : Nat) : Ctx :=
  match k.victim clu false with
  | some p => k.evictFit p
  | none => match k.victim clu true with
    | some p => let k1 := k.spill p k.tokens.length
                if k1.tokens.any (k1.tokenOf p) then k1 else k1.evictFit p
    | none => k

/-! ### BLOCK_PLACEMENT -/

/-- What asks for a block on a logical cluster, a token, a running drum, a pin, a launch or a CFGREQ: its launch, and the
thread and wave of the first token or of the drum, if any. -/
def Ctx.asks (k : Ctx) (l : Nat) (b : Addr) : Option (BitVec 32 × Option (Thread × WaveId)) :=
  let away (t : ThreadId) (w : WaveId) : Option (Thread × WaveId) :=
    (k.th t).bind fun x => if x.lcl == l && (k.placedAt x b).isNone then some (x, w) else none
  match ((k.spilled ++ k.tokens).findSome? fun a =>
      if a.blk == b && !a.held then away a.tok.thread a.tok.wave else none).or
    ((k.share l).drums.findSome? fun d =>
      if d.blk == b && d.ctl.getLsbD 3 then away (d.tag.extractLsb' 0 16) (d.tag.extractLsb' 16 24) else none) with
  | some (x, w) => some (x.ln, some (x, w))
  | none =>
    let missing (ln : BitVec 32) : Bool := !(k.placed.any fun q => q.blk == b && q.lcl == l && q.ln == ln)
    (((k.pins.filter fun p => p.blk == b && p.lcl == l).map fun p => p.ln)
      ++ (k.wanted.filter fun q => q.blk == b && q.lcl == l).map fun q => q.ln).find? missing |>.map fun ln => (ln, none)

/-- The fault record of a placement failure (R212). -/
def Ctx.placeRec (k : Ctx) (x : Thread) (b : Addr) (w : WaveId) (e : PFail) : FaultRec :=
  let r := k.bareRec x b w e.fail.code 1 e.fail.detail e.faddr
  match e.slot with
  | none => { r with poff := BitVec.ofNat 16 e.poff, gen := k.gen }
  | some (i, q) => { r with template := q.tmpl, short := q.short, side := q.side, poff := BitVec.ofNat 16 q.poff,
                            slot := BitVec.ofNat 8 i, gen := k.gen }

/-- A failed placement raises its fault in the thread whose token asked for it; a pin or a request alone is dropped. -/
def State.placeFail (s : State) (k : Ctx) (l : Nat) (b : Addr) (who : Option (Thread × WaveId)) (e : PFail) : State :=
  match who with
  | some (x, w) => s.setCtx (k.raise x.num (k.placeRec x b w e))
  | none => s.setCtx { k with pins := k.pins.filter fun p => !(p.blk == b && p.lcl == l)
                              wanted := k.wanted.filter fun q => !(q.blk == b && q.lcl == l) }

/-- Everything a placement reads, checked: the image, its slots and its constant file, captured once per launch. -/
def State.blockOf (s : State) (k : Ctx) (n : Launch) (b : Addr) : Except PFail (BlockImage × List PSlot × List Value) :=
  let kimg := n.lrec.kimg.toNat
  match s.kernelHeader k kimg with
  | .error e => .error (readFail e kimg)
  | .ok hd =>
    match s.readBlock k ⟨kimg, hd⟩ b with
    | .error e => .error e
    | .ok m0 =>
      match s.decodeBlock k ⟨kimg, hd⟩ m0 with
      | .error e => .error e
      | .ok ws =>
        let m := { m0 with links := s.linksNamed k ⟨kimg, hd⟩ m0 ws }
        match n.cfs.find? (·.1 == b) with
        | some cf => .ok (m, ws, cf.2)
        | none => match s.constsOf k n.lrec.args.toNat m 0 16 with
          | .error e => .error e
          | .ok cf => .ok (m, ws, cf)

/-- The dictionary entries that a block's short forms name, where they lie (06 R165). -/
def Ctx.entryRuns (k : Ctx) (m : BlockImage) : List (Nat × Nat) :=
  m.parcels.filterMap fun q => match q.2 with
    | .f48 _ => none
    | .c16 w => some (k.dictBase k.sel.toNat + 8 * (w.extractLsb' 8 7).toNat, 8)
    | .c32 w => some (k.dictBase k.sel.toNat + 8 * (w.extractLsb' 20 10).toNat, 8)

/-- The directory entries a placement reads up to a block's own, and the link records, directory entries and headers it
reads for the output ports that destinations name (R261). -/
def State.tableRuns (s : State) (k : Ctx) (g : Image) (b : Addr) (m : BlockImage) (ws : List PSlot) : List (Nat × Nat) :=
  let dir (i : Nat) : Nat × Nat := (g.kimg + fieldAt g.hd 0x14 4 + 16 * i, 16)
  let own := match s.findBlock k g.kimg g.hd (b.toNat - g.kimg) 0 g.nblk with | .ok (some i) => i | _ => 0
  let target (p : Nat) : List (Nat × Nat) := match s.linkWord k g (m.link + p), (m.links[p]?).getD none with
    | .ok w, some t => [dir (w / 65536), (t.1.toNat, 2)]
    | _, _ => []
  (List.range (own + 1)).map dir ++ ((List.range m.nout).map fun p => (g.kimg + fieldAt g.hd 0x2C 4 + 4 * (m.link + p), 4))
    ++ (portsOf ws).eraseDups.flatMap target

/-- The runs of bytes a placement fetches: the kernel header, its tables, the image, the dictionary entries, and the
argument entries of a first placement (06 R190). -/
def State.fetched (s : State) (k : Ctx) (n : Launch) (b : Addr) (m : BlockImage) (ws : List PSlot) : List Piece :=
  let kimg := n.lrec.kimg.toNat
  let args := if (n.cfs.find? (·.1 == b)).isSome then []
    else (m.cmap.filter (· < 0x8000)).map fun c => (n.lrec.args.toNat + 16 * c, 16)
  let tables := match s.kernelHeader k kimg with
    | .ok hd => s.tableRuns k ⟨kimg, hd⟩ b m ws
    | .error _ => []
  ((kimg, 64) :: (b.toNat, m.bytes) :: tables ++ k.entryRuns m ++ args).flatMap fun r => match pieces s.mem k k.devSite r.1 r.2 with
    | .ok ps => ps
    | .error _ => []

/-- The runs of bytes a placement fetched before it failed: those of the steps of R278 before the one that failed, of whose slots
and constants those before the failing one (06 R190). -/
def State.fetchedBefore (s : State) (k : Ctx) (n : Launch) (b : Addr) (e : PFail) : List Piece :=
  let kimg := n.lrec.kimg.toNat
  let runs : List (Nat × Nat) := match s.kernelHeader k kimg with
    | .error _ => []
    | .ok hd =>
      let g : Image := ⟨kimg, hd⟩
      let dirs := match s.findBlock k kimg hd (b.toNat - kimg) 0 g.nblk with
        | .ok (some i) => i + 1
        | .ok none => g.nblk
        | .error _ => 0
      (kimg, 64) :: (List.range dirs).map (fun i => (kimg + fieldAt hd 0x14 4 + 16 * i, 16)) ++
        match s.readBlock k g b with
        | .error _ => if b.toNat % 16 = 0 && e.poff = 0xFFFF then [(b.toNat, 0x50)] else []
        | .ok m0 => match s.decodeBlock k g m0 with
          | .error f =>
            let upTo := match f.slot with | some (i, _) => i + 1 | none => m0.slots
            (b.toNat, m0.bytes) :: k.entryRuns { m0 with parcels := m0.parcels.take upTo }
          | .ok ws =>
            let m := { m0 with links := s.linksNamed k g m0 ws }
            let met := (List.range 16).takeWhile fun i => match s.constOf k n.lrec.args.toNat m i with | .ok _ => true | .error _ => false
            (b.toNat, m.bytes) :: s.tableRuns k g b m ws ++ k.entryRuns m
              ++ (met.filterMap fun i => if m.cmap.getD i 0xFFFF < 0x8000 then some (n.lrec.args.toNat + 16 * m.cmap.getD i 0, 16) else none)
  runs.flatMap fun r => match s.devPieces k r.1 r.2 .any with
    | .ok ps => ps
    | .error _ => []

/-- What the pieces of a placement's fetches cost, each at its home or at the cluster (07 R199). -/
def Ctx.chargeFetch (k : Ctx) (m : Mems) (ps : List Piece) (clu : Nat) : Ctx :=
  ps.foldl (fun k p => k.chargeHome m clu false p) k

/-- Where the entry tokens that a mark stands for lead now, or the failure of the placement they cause (R260): a list that could
not be read when the thread was created is read again. -/
def State.marked (s : State) (k : Ctx) (n : Launch) (b : Addr) : Except PFail (List (Addr × Nat)) :=
  let whole := b == entryMark headMark
  match s.kernelHeader k n.lrec.kimg.toNat with
  | .error e => .error (readFail e n.lrec.kimg.toNat)
  | .ok _ =>
    if whole then .ok (entryPlaces (s.entries k n.lrec))
    else match ((s.entries k n.lrec)[b.toNat - 2 ^ 63]? : Option (Except Fail (Addr × Nat))) with
      | some (.ok p) => .ok [p]
      | some (.error f) => .error ⟨f, 0, none, 0xFFFF⟩
      | none => .error (tableFail 0)

/-- The token of a mark goes where it leads, one token for each place. -/
def Arrived.led (b : Addr) (ps : List (Addr × Nat)) (a : Arrived) : List Arrived :=
  if a.blk == b then ps.map fun p => { a with blk := p.1, dst := .port p.2 } else [a]

/-- The same in an entry log. -/
def Wave.led (b : Addr) (ps : List (Addr × Nat)) (v : Wave) : Wave :=
  { v with blk := if v.blk == b then ((ps.head?).map (·.1)).getD b else v.blk
           log := v.log.flatMap fun r => (r.arr.led b ps).map fun a => { r with arr := a } }

/-- The entry tokens of a launch's threads on a logical cluster leave their mark, with the logs a replay feeds them from. -/
def Ctx.lead (k : Ctx) (ln : BitVec 32) (l : Nat) (b : Addr) (ps : List (Addr × Nat)) : Ctx :=
  let mine (t : ThreadId) : Bool := match k.th t with | some x => x.ln == ln && x.lcl == l | none => false
  let go (a : Arrived) : List Arrived := if mine a.tok.thread then a.led b ps else [a]
  { k with
    tokens := k.tokens.flatMap go
    spilled := k.spilled.flatMap go
    threads := k.threads.map fun x => if mine x.num then
      { x with waves := x.waves.map (Wave.led b ps), dropped := x.dropped.map (Wave.led b ps) } else x }

/-- A block stands in its slots, on the logical cluster `seat`: the tokens spilled from it come back first. -/
def Ctx.install (k : Ctx) (n : Launch) (l seat : Nat) (b : Addr) (at_ : List (Nat × Nat)) (m : BlockImage) (ws : List PSlot)
    (cf : List Value) (tick : Nat) : Ctx :=
  let p : Placed := { ln := n.num, lcl := l, blk := b, kimg := n.lrec.kimg, gen := k.gen, slots := ws, at_ := at_, old := none,
                      cf := cf, ports := m.ports, links := m.links, matrix := m.matrix, front := m.front,
                      pinned := k.pins.any fun q => q.blk == b && q.lcl == l, lastUse := tick, seat := seat }
  let k1 := ({ k with placed := k.placed ++ [p]
                      wanted := k.wanted.filter fun q => !(q.ln == n.num && q.lcl == l && q.blk == b) } : Ctx).perfAdd l 5 1
  let back := k1.spilled.filter (k1.tokenOf p)
  let k2 := { k1 with tokens := back ++ k1.tokens, spilled := k1.spilled.filter fun a => !(k1.tokenOf p a) }
  let k3 := k2.modLn n.num fun x => { x with
    cfs := if x.cfs.any (·.1 == b) then x.cfs else x.cfs ++ [(b, cf)]
    homes := if m.matrix && !(x.homes.any fun h => h.1 == b && h.2.1 == l) then
        x.homes ++ (at_.take 1).map fun q => (b, l, seat, q.1 / 8) else x.homes }
  if m.matrix then ((at_.map fun q => q.1 / 8).eraseDups).foldl (fun k d =>
      k.modShare seat fun h => h.setDom d { h.dom d with mode := true }) k3
  else k3

/-- A FRONT block waits until the wave that asks is its thread's oldest (R28). -/
def frontWaits (m : BlockImage) (who : Option (Thread × WaveId)) : Bool :=
  match who with
  | some (x, w) => m.front && x.waves.any fun v => older v.num w
  | none => false

/-- Instances of a launch stay within a cluster or less (R17). -/
def LaunchRec.clustered (r : LaunchRec) : Bool := r.declared.any fun w => lvKind w != 0 && lvKind w ≤ 3

/-- A logical cluster a block that a CFGREQ names may be placed on for another: no instance of its launch leaves its
cluster or its die by it (R17, R43). -/
def Ctx.mayLend (k : Ctx) (r : LaunchRec) (l l2 : Nat) : Bool :=
  l2 != l && !r.clustered && !(tgetD k.pmap l2 0).getLsbD 30
    && (!(r.declared.any fun w => lvKind w = 4) || k.phys l2 / Config.clustersPerDie == k.phys l / Config.clustersPerDie)

/-- The home of a MATRIX block of a launch on a logical cluster: the logical cluster it lies on and the domain (R39). -/
def Launch.home (n : Launch) (b : Addr) (l : Nat) : Option (Nat × Nat) :=
  (n.homes.find? fun h => h.1 == b && h.2.1 == l).map fun h => h.2.2

/-- The logical cluster whose slots a block takes: that of its home, if it has one; else its own where that has room; else, for a
block a CFGREQ names, the nearest with room, the lower number first (R43); none where an eviction must come first. -/
def State.seatFor (s : State) (k : Ctx) (n : Launch) (l : Nat) (b : Addr) (q : Berth) : Option Nat :=
  if let some h := n.home b l then (if s.lacksRoom k (k.phys h.1) q then none else some h.1)
  else if !s.lacksRoom k (k.phys l) q then some l
  else if !(k.wanted.any fun w => w.ln == n.num && w.lcl == l && w.blk == b && w.req) then none
  else leastBy (fun l2 => if l2 < l then l - l2 else l2 - l)
    ((List.range k.lclusters).filter fun l2 => k.mayLend n.lrec l l2 && !s.lacksRoom k (k.phys l2) q)

/-- BLOCK_PLACEMENT (R27): a block that a token or a pin asks for is read, checked and placed in the slots the fabric
manager chooses; where its cluster has no room, an eviction makes some. An entry token whose record names no block or no
input fails as it causes its placement (10 R260). -/
def execBlockPlacement (c : CtxId) (l : Nat) (b : Addr) (at_ : List (Nat × Nat)) (s : State) : Out :=
  .next <| match s.active c with
    | none => s
    | some k =>
      match k.asks l b with
      | none => s
      | some (ln, who) =>
        match k.ln ln with
        | none => s
        | some n =>
          if (tgetD k.pmap l 0).getLsbD 30 then s
          else if b.getLsbD 63 then (match s.marked k n b with
            | .error e => s.placeFail k l b who e
            | .ok ps => s.setCtx (k.lead n.num l b ps))
          else match s.blockOf k n b with
            | .error e =>
              let ps := s.fetchedBefore k n b e
              if s.logFull c ps (kRead ||| kPlace) || ps.any (fun p => pieceWaits s.mem k p false) then s
              else
                let t := ({ s with mem := s.mem.peek ps } : State).logAccess c ps (kRead ||| kPlace)
                match t.ctx c with
                | none => t
                | some k => t.placeFail (k.chargeFetch t.mem ps (k.phys l)) l b who e
            | .ok (m, ws, cf) =>
              let ps := s.fetched k n b m ws
              let q := k.berth (some n.lrec) n.num l m.matrix ((n.home b l).map (·.2)) ws none
              if frontWaits m who || s.logFull c ps (kRead ||| kPlace) || ps.any (fun p => pieceWaits s.mem k p false) then s
              else match s.seatFor k n l b q with
                | none => s.setCtx (k.makeRoom (k.phys (((n.home b l).map (·.1)).getD l)))
                | some seat =>
                  if !s.slotsFit k (k.phys seat) q at_ then s
                  else (({ s with mem := s.mem.peek ps } : State).logAccess c ps (kRead ||| kPlace)).modCtx c fun k =>
                    (k.chargeFetch s.mem ps (k.phys seat)).install n l seat b at_ m ws cf s.tick

/-! ### Moves (R32) and stale blocks (06 R168). A drum keeps its number when its block moves (14 R393). -/

def isPlaced (l : Nat) (b : Addr) (p : Placed) : Bool := p.lcl == l && p.blk == b

/-- BLOCK_MOVE: a placed block takes new slots; the tokens in its old ones await their forwarding. -/
def execBlockMove (c : CtxId) (l : Nat) (b : Addr) (at_ : List (Nat × Nat)) (s : State) : Out :=
  .next <| match s.active c with
    | none => s
    | some k =>
      match k.placed.find? (isPlaced l b) with
      | none => s
      | some p =>
        if p.old.isSome || (tgetD k.pmap l 0).getLsbD 30 || (tgetD k.pmap p.seat 0).getLsbD 30
            || !s.slotsFit k (k.seatOf p) (k.berthOf p) at_ then s
        else s.modCtx c fun k =>
          { k with
            placed := updFirst (· == p) (fun x => { x with at_ := at_, old := some p.at_ }) k.placed
            tokens := k.tokens.map fun a => if k.tokenOf p a then { a with old := true } else a }

/-- TOKEN_FORWARD: the first token of the old slots reaches the new ones; with none left, the old slots are free. -/
def execTokenForward (c : CtxId) (l : Nat) (b : Addr) (s : State) : Out :=
  .next <| s.modActive c fun k =>
    match k.placed.find? fun p => isPlaced l b p && p.old.isSome with
    | none => k
    | some p =>
      let k1 := { k with tokens := updFirst (fun (a : Arrived) => a.old && k.tokenOf p a) (fun a => { a with old := false }) k.tokens }
      if k1.tokens.any fun a => a.old && k1.tokenOf p a then k1
      else { k1 with placed := updFirst (· == p) (fun x => { x with old := none }) k1.placed }

/-- A stale block holds nothing: no token, kept operand or VRED state, nor a firing whose result is to come. -/
def Ctx.drained (k : Ctx) (p : Placed) : Bool := !k.entries p && !k.firing p && !k.reducing p

/-- STALE_BLOCK_EVICTION: a block of an older dictionary generation leaves once it holds nothing. -/
def execStaleBlockEviction (c : CtxId) (l : Nat) (b : Addr) (s : State) : Out :=
  .next <| s.modActive c fun k =>
    match k.placed.find? fun p => isPlaced l b p && p.gen != k.gen && p.old.isNone && k.drained p with
    | none => k
    | some p => k.evictFit p

end Sys2Proof.Machine
end

