-- ==== Sys2Proof/Machine/System.lean ====
section
/-! DEFINITION. The form-G system instructions (15 R409, R418 to R436), and the probes and performances of DPUT,
LOGSET, KEYSET, PATTR and XLINV (R421, R428 to R432, 03 R100). What a deferred one does at commit is at
STORE_PERFORM. -/

namespace Sys2Proof.Machine

/-! ### Values read -/

/-- The fields of a thread's block pointer: block and wave (01 R21). -/
def Thread.pointer (x : Thread) : Addr × WaveId :=
  match x.oldestOf (x.uncommitted.filter (·.entered)) with
  | some v => (shownBlock v.blk, v.num)
  | none => match (if x.waves.isEmpty then x.fault else none) with
    | some r => (shownBlock r.block, r.wave)
    | none => match x.last with
      | some w => (x.lastBlk, w)
      | none => (x.lastBlk, 0)

/-- THR.STATE, THR.BPA and THR.BPW (02 R70); a thread whose share is gated shows 4. -/
def Ctx.thrState (k : Ctx) (x : Thread) : BitVec 64 :=
  let st : BitVec 4 := if x.state = 1 && k.gateShut x.lcl then 4 else x.state
  (st ++ BitVec.ofNat 4 x.waves.length ++ (0 : BitVec 8) ++ x.num).zeroExtend 64
def Thread.bpa (x : Thread) : BitVec 64 := ((0 : BitVec 8) ++ x.pointer.1.extractLsb' 4 52 ++ (0 : BitVec 4))
def Thread.bpw (x : Thread) : BitVec 64 := x.pointer.2.zeroExtend 64

/-- The registers CTXST reads (02 R65), 0 for an index the table does not list. -/
def Ctx.ctxst (k : Ctx) (t : ThreadId) (idx : Nat) : BitVec 64 :=
  match idx with
  | 0x00 => k.statusWord | 0x01 => k.flagsWord | 0x02 => k.dictWord | 0x03 => k.fqb | 0x04 => k.capqb
  | 0x05 => k.lclustWord | 0x06 => k.spine.zeroExtend 64 | 0x07 => k.ovf
  | 0x10 => ((k.th t).map k.thrState).getD 0
  | 0x11 => ((k.th t).map Thread.bpa).getD 0
  | 0x12 => ((k.th t).map Thread.bpw).getD 0
  | _ => 0

/-- The clearing form of CTXST: W1C bits of CTX.STATUS or CTX.FPFLAGS (02 R66, R67). -/
def Ctx.ctxstClear (k : Ctx) (idx : Nat) (a : Value) : Ctx :=
  if idx = 0 then { k with capchg := k.capchg && !a.getLsbD 22, forced := k.forced && !a.getLsbD 21 }
  else if idx = 1 then { k with fpflags := k.fpflags &&& ~~~(a.extractLsb' 0 5) }
  else k

/-- What a CTXST does at its wave's commit: the register's value is bound, and then the clearing form clears CTX.FPFLAGS (R67, R424).
CTX.STATUS is read and cleared after the wave's stores, with its performance (R398). -/
def Ctx.readStatus (k : Ctx) (e : Committed) : Ctx × Committed :=
  match e.item with
  | .dfr d =>
    if d.act != .ctxst || d.imm.extractLsb' 0 8 = 0 then (k, e)
    else
      let idx := (d.imm.extractLsb' 0 8).toNat
      (if d.imm.getLsbD 8 then k.ctxstClear idx d.a else k,
        { e with item := .dfr { d with data := leBytes 8 (k.ctxst e.thread idx).toNat } })
  | .mem _ => (k, e)

/-- The CTXSTs among what a wave hands over, in order. -/
def Ctx.readStatuses (k : Ctx) : List Committed → Ctx × List Committed
  | [] => (k, [])
  | e :: r =>
    let p := k.readStatus e
    let q := p.1.readStatuses r
    (q.1, p.2 :: q.2)

/-- A lease entry as LEASEQ returns it (06 R192). -/
def Lease.free : Lease := { seqStart := 0, state := 0, kind := 0, unit := 0, score := 0, kernels := 0, failed := 0 }
def Lease.word (e : Lease) : Value :=
  e.seqStart ++ e.state ++ e.kind ++ e.unit ++ e.score ++ e.kernels ++ e.failed ++ (0 : BitVec 14)
def State.lease (s : State) (die entry : Nat) : Lease := tgetD s.leases (die * 8 + entry) Lease.free

/-- A word of an access-log range (06 R189). -/
def LogRange.off : LogRange := { base := 0, limit := 0, ring := 0, pages := [] }
def LogRange.word (r : LogRange) (n : Nat) : BitVec 64 :=
  match n with
  | 0 => r.base | 1 => r.limit | 2 => r.ring | _ => 0

/-! ### Shapes of form G (R398, R399) -/

/-- An operand's reserved bits at the firing (R399). -/
def opBits (a : Value) (rs : List (Nat × Nat)) : Option Sem :=
  (zeroBits a rs).map fun i => .probe 0x02 (rfDetail 4 i) 0

def badOperand (bit : Nat) : Sem := .probe 0x02 (rfDetail 4 bit) 0

/-- An immediate instruction: its value is the result of the firing. -/
def immediate (f : Fire) (bad : Option Sem) (v : Value) : Sem := bad.getD (f.result v)

/-- A deferred instruction: held, with an acceptance. -/
def accepted (f : Fire) (d : DefOp) : Sem :=
  .act [(Em.plain f.all 0 f.outWave).tagged f.t.act f.w] 0 (f.defer d)

/-- A deferred instruction that emits its result after performance. -/
def awaited (f : Fire) (d : DefOp) : Sem := .act [] 0 (f.defer d)

/-- The firing of a group-S form-G instruction: one operand, no literal. -/
def State.fireG (s : State) (t : Tmpl) (sem : Fire → Sem) : State := s.fire t none false noLits sem

/-! ### Immediate instructions (R425 to R427, R431) -/

/-- CNTRD (R425): the cycle count of the firing domain's spine, or a PERF counter. -/
def execCntrd (t : Tmpl) (g : FormG) (s : State) : Out :=
  .next (s.fireG t fun f =>
    let n := (g.imm.extractLsb' 0 4).toNat
    let v : BitVec 64 := if n = 0 then tgetD s.cycles (f.k.seatOf f.p * 8 + (tgetD s.spnow f.domain 0).toNat) 0
      else (tgetD (f.k.share f.p.lcl).perf (n - 1) 0).zeroExtend 64
    immediate f none (scalar v))

/-- ENRD (R425): an energy counter as of the folds performed. -/
def execEnrd (t : Tmpl) (g : FormG) (s : State) : Out :=
  .next (s.fireG t fun f => immediate f none (scalar ((f.k.energy[(g.imm.extractLsb' 0 3).toNat]?).getD 0)))

/-- SUSRD (R426): any unit in context 0; elsewhere the physical cluster of one of its logical clusters. -/
def execSusrd (t : Tmpl) (g : FormG) (s : State) : Out :=
  .next (s.fireG t fun f =>
    let kind := (g.imm.extractLsb' 0 2).toNat
    let n := (f.q.a.extractLsb' 0 12).toNat
    let limit := match kind with | 0 => 96 | 1 => 16 | 2 => 4096 | _ => 128
    match opBits f.q.a [(127, 12)] with
    | some e => e
    | none =>
      if f.k.num = 0 then
        (if n ≥ limit then badOperand 0 else f.result (scalar (s.scoreOf (unitOf kind n)).word))
      else if kind != 0 || n ≥ f.k.lclusters || n ≥ 128 then .raise 0x14 0xDA 0
      else f.result (scalar (s.scoreOf (clusterUnit (f.k.phys n))).word))

/-- LOGRD (R427): a tenant reads its own ranges, and no ring address. -/
def execLogrd (t : Tmpl) (g : FormG) (s : State) : Out :=
  .next (s.fireG t fun f =>
    let word := (g.imm.extractLsb' 0 2).toNat
    match opBits f.q.a (if f.k.num = 0 then [(127, 16)] else [(127, 4)]) with
    | some e => e
    | none =>
      let who := if f.k.num = 0 then s.ctx (f.q.a.extractLsb' 4 12) else some f.k
      let r := (who.bind fun k => tget k.logs (f.q.a.extractLsb' 0 4).toNat).getD LogRange.off
      let v := r.word word
      f.result (scalar (if f.k.num != 0 && word = 2 then v &&& 0xFF0000000000003F else v)))

/-- LEASEQ (R431): PRIVILEGE outside context 0. -/
def execLeaseq (t : Tmpl) (_g : FormG) (s : State) : Out :=
  .next (s.fireG t fun f =>
    if f.k.num != 0 then .raise 0x14 0xE3 0
    else immediate f (opBits f.q.a [(127, 5)])
      (s.lease (f.q.a.extractLsb' 0 2).toNat (f.q.a.extractLsb' 2 3).toNat).word)

/-! ### Pass-through instructions (R423, R434) -/

/-- A pre-emption or migration of the context is pending. -/
def Ctx.yieldPending (k : Ctx) : Bool := k.preempt || k.shares.any fun h => h.gated || h.moveTo.isSome

/-- YIELD (R423): it does not fire while a pre-emption or migration of its context is pending. -/
def execYield (t : Tmpl) (_g : FormG) (s : State) : Out :=
  .next (s.fireG t fun f => if f.k.yieldPending then (if f.t.act.adds && anyDest f.t f.xt f.i then .gated else .wait) else .act [f.pass f.all f.q.a f.q.ta f.outWave] 0 id)

/-- The debug port is active on a context and thread (02 R75). -/
def State.debugging (s : State) (c : CtxId) (t : ThreadId) : Bool :=
  s.dbg.en && s.dbg.ctx == c && (s.dbg.allthr || s.dbg.thread == t)

/-- BRK (R434): a breakpoint with CAUSE 0xFF under the debug port, else MOV. -/
def execBrk (t : Tmpl) (_g : FormG) (s : State) : Out :=
  .next (match s.ready t none false noLits with
    | none => s
    | some f =>
      if s.powered f.domain && s.debugging f.k.num f.x.num && s.dbg.pass != some s.focus then
        (if s.dbg.halted then s else s.debugHalt f.k.num f.x.num f.w 0xFF (some s.focus))
      else s.fireG t fun f => .act [f.pass f.all f.q.a f.q.ta f.outWave] 0 id)

/-! ### Deferred instructions with an acceptance (R409, R418, R419, R435) -/

/-- STEAL (R409). -/
def execSteal (t : Tmpl) (_g : FormG) (s : State) : Out :=
  .next (s.fireG t fun f =>
    match opBits f.q.a [(127, 12)] with
    | some e => e
    | none =>
      let n := (f.q.a.extractLsb' 0 12).toNat
      if n = 0 || n > 1536 then badOperand 0 else accepted f (f.deferred .steal default 0 0 []))

/-- The blocks CFGREQ names, as addresses (R418); none when an index is out of range or the image cannot be read. -/
def State.subgraph (s : State) (k : Ctx) (kimg : Nat) (hd : List Byte) (i : Nat) : Nat → Option (List Addr)
  | 0 => some []
  | n + 1 =>
    if i ≥ fieldAt hd 0x18 2 then none
    else match s.dirEntry k kimg hd i with
      | .error _ => none
      | .ok d => (State.subgraph s k kimg hd (i + 1) n).map (BitVec.ofNat 64 (kimg + d.offset) :: ·)

/-- Some output port of a block is linked to a port of a block. -/
def State.linksTo (s : State) (k : Ctx) (kimg : Nat) (hd : List Byte) (from_ next : Addr) (port : Nat) : Bool :=
  let m : Image := ⟨kimg, hd⟩
  match s.dirFor k m (from_.toNat - kimg) 0 m.nblk with
  | .error _ => false
  | .ok d => match s.linksOf k m d.link d.nout with
    | .error _ => false
    | .ok ls => ls.any fun l => l == some (next, port)

/-- CFGREQ (R418): the subgraph's entry block is linked from port p, and it leads back to port q. -/
def execCfgreq (t : Tmpl) (_g : FormG) (s : State) : Out :=
  .next (s.fireG t fun f =>
    match opBits f.q.a [(127, 28)] with
    | some e => e
    | none =>
      let idx := (f.q.a.extractLsb' 0 16).toNat
      let more := (f.q.a.extractLsb' 16 4).toNat
      let p := (f.q.a.extractLsb' 20 4).toNat
      let q := (f.q.a.extractLsb' 24 4).toNat
      if s.imageWaits f.k f.p.kimg.toNat then .wait
      else match s.kernelHeader f.k f.p.kimg.toNat with
      | .error e => .probe e.code e.detail f.p.kimg
      | .ok hd =>
        match s.subgraph f.k f.p.kimg.toNat hd idx (more + 1) with
        | none => .probe 0x04 0 (match s.subgraph f.k f.p.kimg.toNat hd idx 1 with | some [a] => a | _ => 0)
        | some bs =>
          let entry := bs.headD 0
          if (((f.p.links[p]?).getD none).map (·.1)) == some entry && bs.any (fun b => s.linksTo f.k f.p.kimg.toNat hd b f.p.blk q)
          then accepted f (f.deferred .cfgreq default 0 0 (bs.flatMap fun b => leBytes 8 b.toNat))
          else .probe 0x04 0 entry)

/-- DSWITCH (R419): DICT-UNDEF on an invalid row. -/
def execDswitch (t : Tmpl) (g : FormG) (s : State) : Out :=
  .next (s.fireG t fun f =>
    if f.k.dictValid (g.imm.extractLsb' 0 4).toNat then accepted f (f.deferred .dswitch default g.imm 0 [])
    else .probe 0x03 0x21 0)

/-- MIGRQ (R435). -/
def execMigrq (t : Tmpl) (_g : FormG) (s : State) : Out :=
  .next (s.fireG t fun f =>
    match opBits f.q.a [(127, 7)] with
    | some e => e
    | none => if (f.q.a.extractLsb' 0 7).toNat ≥ f.k.lclusters then badOperand 0
              else accepted f (f.deferred .migrq default 0 0 []))

/-! ### Deferred instructions with a result (R420, R422, R424, R433, R436) -/

/-- DFENCE (R420). -/
def execDfence (t : Tmpl) (_g : FormG) (s : State) : Out :=
  .next (s.fireG t fun f => awaited f (f.deferred .dfence default 0 0 []))

/-- The firing of IPIN and IUNPIN: every index below NBLK; the blocks are found at the firing (R422). -/
def State.pinFire (s : State) (act : DefAct) (f : Fire) : Sem :=
  match opBits f.q.a [(127, 32)] with
  | some e => e
  | none =>
    let first := (f.q.a.extractLsb' 0 16).toNat
    let n := (f.q.a.extractLsb' 16 16).toNat
    if s.imageWaits f.k f.p.kimg.toNat then .wait
    else match s.kernelHeader f.k f.p.kimg.toNat with
    | .error e => .probe e.code e.detail f.p.kimg
    | .ok hd =>
      if n != 0 && first + n > fieldAt hd 0x18 2 then badOperand 0
      else awaited f (f.deferred act default 0 0
        (((s.subgraph f.k f.p.kimg.toNat hd first n).getD []).flatMap fun b => leBytes 8 b.toNat))

/-- IPIN (R422). -/
def execIpin (t : Tmpl) (_g : FormG) (s : State) : Out := .next (s.fireG t (s.pinFire .ipin))

/-- IUNPIN (R422). -/
def execIunpin (t : Tmpl) (_g : FormG) (s : State) : Out := .next (s.fireG t (s.pinFire .iunpin))

/-- CTXST (R424). -/
def execCtxst (t : Tmpl) (g : FormG) (s : State) : Out :=
  .next (s.fireG t fun f => awaited f (f.deferred .ctxst default g.imm 0 []))

/-- SYSCALL (R433). -/
def execSyscall (t : Tmpl) (g : FormG) (s : State) : Out :=
  .next (s.fireG t fun f => awaited f (f.deferred .syscall default g.imm 0 []))

/-- The firing of FRESUME and FABORT: a record number that is not zero (R436). -/
def resolveFire (act : DefAct) (imm : BitVec 16) (f : Fire) : Sem :=
  match opBits f.q.a [(127, 32)] with
  | some e => e
  | none => if f.q.a.extractLsb' 0 32 = 0 then badOperand 0 else awaited f (f.deferred act default imm 0 [])

/-- FRESUME (R436). -/
def execFresume (t : Tmpl) (_g : FormG) (s : State) : Out := .next (s.fireG t (resolveFire .fresume 0))

/-- FABORT (R436). -/
def execFabort (t : Tmpl) (g : FormG) (s : State) : Out := .next (s.fireG t (resolveFire .fabort g.imm))

/-! ### Host events (05 R160) -/

/-- An event may be written: its number does not pass EVCONS + 2^EVLOG2. -/
def Ctx.eventRoom (k : Ctx) : Bool := decide ((k.evprod - k.evcons).toNat < 2 ^ k.desc.evLog2)

/-- The 32 bytes of an event record. -/
def HostEvent.bytes (e : HostEvent) (seq : BitVec 32) : List Byte :=
  leBytes 4 seq.toNat ++ [e.kind, e.cause] ++ leBytes 2 e.detail.toNat ++ leBytes 4 e.cmdseq.toNat
    ++ leBytes 4 e.launch.toNat ++ leBytes 16 e.data.toNat

/-- An event goes to its entry of the event ring, in the context's memory, and EVPROD follows. -/
def State.writeEvent (s : State) (k : Ctx) (e : HostEvent) : State :=
  let seq := k.evprod + 1
  let a := k.desc.evBase + seq.toNat % 2 ^ k.desc.evLog2 * 32
  ((s.devSpend k a 32 true).devPut k a (e.bytes seq)).modCtx k.num fun k => { k with evprod := seq }

/-- The event ring's next entry cannot be reached yet. -/
def State.eventWaits (s : State) (k : Ctx) : Bool :=
  s.devWaits k (k.desc.evBase + (k.evprod + 1).toNat % 2 ^ k.desc.evLog2 * 32) 32 true

/-! ### Deferred instructions at commit (R398) -/

/-- The addresses a deferred instruction found at its firing. -/
def DefOp.addrs (d : DefOp) : List Addr :=
  (List.range (d.data.length / 8)).map fun i => BitVec.ofNat 64 (fieldAt d.data (8 * i) 8)

/-- The block and port a TNEW's entry word names, read at its performance (11 R293). -/
def State.entryBlock (s : State) (k : Ctx) (ln : BitVec 32) (b : Value) : Option (Addr × Nat) :=
  match k.ln ln with
  | none => none
  | some n =>
    match s.kernelHeader k n.lrec.kimg.toNat with
    | .error _ => none
    | .ok hd => match s.dirEntry k n.lrec.kimg.toNat hd (vbits b 15 0) with
      | .error _ => none
      | .ok d => some (BitVec.ofNat 64 (n.lrec.kimg.toNat + d.offset), vbits b 19 16)

/-- TNEW at commit: a new thread on its creator's logical cluster, of no level instance; it waits while no number is
free that an admitted launch has not been promised. -/
def State.doTnew (s : State) (k : Ctx) (me : Committed) (d : DefOp) : Perf :=
  if k.gateShut me.lcl || s.launchImageWaits k me.ln then .wait s else match k.spareThread, s.entryBlock k me.ln d.b with
  | some t, some (blk, port) =>
    let x := Thread.fresh t me.ln me.lcl k.born [] blk
    let k1 := { k with threads := k.threads ++ [x], born := k.born + 1 }
    .done (s.setCtx (k1.enter (outsideToken t 0 blk port d.a) .outside false)) (t.zeroExtend 128) (t.zeroExtend 128)
  | _, _ => .wait s

/-- GEN advances: not before no placed block carries the next one (02 R68, 06 R169). -/
def Ctx.advanceGen (k : Ctx) (sel : BitVec 4) : Ctx := { k with sel := sel, gen := k.gen + 1, fpend := true }

/-- DSWITCH at commit. -/
def State.doDswitch (s : State) (k : Ctx) (d : DefOp) : Perf :=
  if k.genBusy then .wait s else .done (s.setCtx (k.advanceGen (d.imm.extractLsb' 0 4))) 0 0

/-- IUNPIN at commit: ORIGIN-1 entries of the blocks on the logical cluster go; the blocks stay placed. -/
def Ctx.unpinBlocks (k : Ctx) (lcl : Nat) (bs : List Addr) : Ctx × Nat :=
  let gone (p : Pin) : Bool := p.origin && p.lcl == lcl && bs.contains p.blk
  ({ k with
      pins := k.pins.filter fun p => !gone p
      placed := k.placed.map fun (p : Placed) =>
        if p.lcl == lcl && bs.contains p.blk && !(k.pins.any fun q => !gone q && q.lcl == lcl && q.blk == p.blk)
        then { p with pinned := false } else p },
   (k.pins.filter gone).length)

/-- IPIN at commit: the blocks that are placed already are pinned where they stand. -/
def Ctx.markPinned (k : Ctx) (lcl : Nat) : Ctx :=
  { k with placed := k.placed.map fun (p : Placed) =>
      if p.lcl == lcl && k.pins.any (fun q => q.lcl == lcl && q.blk == p.blk) then { p with pinned := true } else p }

/-- The thread that a record number names, unresolved. -/
def Ctx.faulted (k : Ctx) (seq : BitVec 32) : Option Thread :=
  k.threads.find? fun x => x.delivered && x.seqNo == some seq && !(((k.ln x.ln).bind (·.abort)).isSome)

/-- A stream unit that the thread's fault stopped runs again (02 R64, 08 R215). -/
def Share.rerun (h : Share) (t : ThreadId) : Share :=
  { h with agens := h.agens.map fun e =>
      if e.2.faulted && e.2.tag.extractLsb' 0 16 == t then (e.1, { e.2 with faulted := false, ctl := e.2.ctl ||| 0x80000000 })
      else e }

/-- A fault is resumed: the tokens of its logs are fed again (08 R215). -/
def Ctx.resume (k : Ctx) (t : ThreadId) : Ctx :=
  let k1 := { k with flt := k.flt - 1, shares := k.shares.map fun (h : Share) => h.rerun t }
  k1.refeed t

/-- FABORT of a thread, or of its launch with the launch's whole family: their threads end here, the issuing one among them, and
LAUNCH_ABORT reports the launches once what they have committed is performed (08 R216, 15 R436). -/
def State.abandon (s : State) (k : Ctx) (x : Thread) (launch : Bool) : State :=
  if launch then
    let (cause, detail) := match x.fault with
      | some r => (r.cause, r.detail.extractLsb' 0 16)
      | none => (0, 0)
    (s.setCtx (k.modLn x.ln fun n => { n with abort := some (n.abort.getD (cause, detail)) })).cutFamily k.num
      (k.family x.ln k.launches.length) cause detail
  else s.setCtx (k.endThread x.num)

/-- A deferred system instruction at commit; `pick` decides whether the fabric manager accepts a MIGRQ. -/
def State.doSystem (s : State) (k : Ctx) (me : Committed) (d : DefOp) (pick : Nat) : Perf :=
  match d.act with
  | .tnew => s.doTnew k me d
  | .dswitch => s.doDswitch k d
  | .dfence => .wait s
  | .ipin =>
    let (s1, n) := s.pinAll k.num me.ln me.lcl true d.addrs
    .done (s1.modCtx k.num fun k => k.markPinned me.lcl) (BitVec.ofNat 128 n) (BitVec.ofNat 128 n)
  | .iunpin =>
    let (k1, n) := k.unpinBlocks me.lcl d.addrs
    .done (s.setCtx k1) (BitVec.ofNat 128 n) (BitVec.ofNat 128 n)
  | .ctxst =>
    if d.imm.extractLsb' 0 8 = 0 then
      let v : Value := k.statusWord.zeroExtend 128
      .done (if d.imm.getLsbD 8 then s.setCtx (k.ctxstClear 0 d.a) else s) v v
    else
      let v : Value := BitVec.ofNat 128 (leNat d.data)
      .done s v v
  | .syscall =>
    if !k.events.isEmpty || !k.eventRoom || s.eventWaits k then .wait s
    else
      let e : HostEvent := { kind := 9, cause := 0, detail := 0, cmdseq := d.imm.zeroExtend 32, launch := me.ln, data := d.a }
      let v : Value := (k.evprod + 1).zeroExtend 128
      .done (s.writeEvent k e) v v
  | .migrq =>
    let l := vbits d.a 6 0
    .done (if pick % 2 = 1 && l < k.lclusters && (k.share l).moveTo.isNone then
        s.setCtx (k.modShare l fun h => { h with moveTo := some (0, 6) }) else s) 0 0
  | .fresume => match k.faulted (d.a.extractLsb' 0 32) with
    | some x => .done (s.setCtx (k.resume x.num)) 1 1
    | none => .done s 0 0
  | .fabort => match k.faulted (d.a.extractLsb' 0 32) with
    | some x => .done (s.abandon k x (d.imm.getLsbD 0)) 1 1
    | none => .done s 0 0
  | .steal =>
    .done (if k.steal.isSome || !k.desc.podLaunches then s
           else s.setCtx { k with steal := some (d.a.extractLsb' 0 12) }) 0 0
  | .cfgreq => .done (s.setCtx { k with wanted := k.wanted ++ d.addrs.map fun b => ⟨me.ln, me.lcl, b, true⟩ }) 0 0
  | _ => .done s 0 0

/-! ### DPUT, LOGSET, KEYSET and XLINV (R421, R428 to R430) -/

def MemOp.dict (o : MemOp) : Nat := vbits o.a 13 10
def MemOp.entry (o : MemOp) : Nat := vbits o.a 9 0

/-- Contexts and slots of a KEYSET. -/
def MemOp.keyOp (o : MemOp) : Nat := vbits o.a 1 0
def MemOp.keySlot (o : MemOp) : Nat := vbits o.a 27 16
def MemOp.keyCtx (o : MemOp) : CtxId := o.a.extractLsb' 32 12
def MemOp.selector (o : MemOp) : Nat := vbits o.a 51 48

/-- A slot's state (06 R187). -/
def State.keyState (s : State) (n : Nat) : BitVec 2 := ((tget s.keys n).map (·.state)).getD 0

/-- A 64-byte record of context 0 readable and writable, aligned. -/
def State.imageProbe (s : State) (k : Ctx) (va n align : Nat) (need : Need) : Option Fail :=
  if !inMap k va n then some (transFail 0 3)
  else if va ≥ controlBase then some (protFail 6)
  else if va % 2 ^ align != 0 then some ⟨0x08, BitVec.ofNat 24 align⟩
  else match pieces s.mem k k.devSite va n with
    | .error e => some e
    | .ok ps => allAllowed s.keys ps need

/-- KEYSET's probe (R428). -/
def State.probeKeyset (s : State) (k : Ctx) (o : MemOp) : Probed :=
  let rf := fun (bit : Nat) => (⟨0x02, rfDetail 4 bit⟩ : Fail)
  let named : List (Nat × Nat) × List (Nat × Nat) := match o.keyOp with
    | 0 => ([(15, 2), (31, 28), (127, 44)], [(127, 56)])
    | 1 => ([(15, 2), (31, 28), (47, 44), (127, 52)], [(127, 0)])
    | _ => ([(31, 2), (47, 44), (127, 52)], [(127, 0)])
  if o.keyOp = 3 then failA o (rf 0)
  else match operandFail o named.1 named.2 with
    | some e => failA o e
    | none =>
      match o.keyOp with
      | 0 =>
        if s.keyState o.keySlot != 0 || (k.probed .keyset).any (fun p => p.2.2.keyOp = 0 && p.2.2.keySlot = o.keySlot) then failA o (rf 16)
        else match s.imageProbe k (vbits o.b 55 0) 64 6 .rdw with
          | some e => .error (e, lo64 o.b)
          | none => .ok o
      | 1 => if s.keyState o.keySlot != 1 then failA o (rf 16) else .ok o
      | _ => .ok o

/-- KEYSET at commit. -/
def State.doKeyset (s : State) (k : Ctx) (o : MemOp) : Perf :=
  match o.keyOp with
  | 0 => match s.devRead k (vbits o.b 55 0) 64 .rdw with
    | .error _ => .wait s
    | .ok b =>
      let s1 := s.devPut k (vbits o.b 55 0) (List.replicate 64 0)
      .done { s1 with keys := tset s1.keys o.keySlot { state := 1, owner := o.keyCtx, key := BitVec.ofNat 512 (leNat b) } } 0 0
  | 1 => .done (s.modCtx o.keyCtx fun k => { k with ksel := tset k.ksel o.selector (BitVec.ofNat 16 (0x8000 + o.keySlot)) }) 0 0
  | _ => .done (s.modCtx o.keyCtx fun k => { k with ksel := tdel k.ksel o.selector }) 0 0

/-- The range, context and image address of a LOGSET. -/
def MemOp.logRange (o : MemOp) : Nat := vbits o.a 59 56
def MemOp.logCtx (o : MemOp) : CtxId := o.a.extractLsb' 64 12

/-- The lowest offending bit of an access-log image, within its 64-bit word (06 R189; log entry 10). -/
def logImageBad (b : List Byte) : Option Nat :=
  let low (w : Nat) (lim : Nat) : Option Nat := (setBits w lim).head?
  let r := fieldAt b 0x10 8
  (low (fieldAt b 0 8) 12).or <| (low (fieldAt b 8 8) 12).or <|
    ((setBits r 6).find? fun i => 2 ≤ i).or <|
      (if bits r 63 56 < 6 || bits r 63 56 > 20 then some 56 else none).or <| low (fieldAt b 0x18 8) 64

/-- LOGSET's probe (R429): the image is read and checked. -/
def State.probeLogset (s : State) (k : Ctx) (o : MemOp) : Probed :=
  match operandFail o [(63, 60), (127, 76)] [] with
  | some e => failA o e
  | none =>
    match s.imageProbe k (vbits o.a 55 0) 32 5 .rd with
    | some e => failA o e
    | none => match s.devRead k (vbits o.a 55 0) 32 .rd with
      | .error e => failA o e
      | .ok b => match logImageBad b with
        | some bit => failA o ⟨0x02, rfDetail 4 bit⟩
        | none => .ok { o with data := b }

/-- Writes the open records of a range while its ring has room (06 R190, R191). -/
def State.flushRange (s : State) (c : CtxId) (range : Nat) : Nat → State × Bool
  | 0 => (s, true)
  | fuel + 1 =>
    match (s.ctx c).bind fun k => tget k.logs range with
    | none => (s, true)
    | some r => match r.pages with
      | [] => (s, true)
      | q :: rest =>
        let (s1, ok) := s.logWrite c range r q
        if ok then State.flushRange (s1.modCtx c fun k => { k with logs := tset k.logs range { r with pages := rest } }) c range fuel
        else (s, false)

/-- The open records of every range of a context (R222, R232). -/
def State.flushLogs (s : State) (c : CtxId) : State × Bool :=
  match s.ctx c with
  | none => (s, true)
  | some k => k.logs.foldl (fun r e =>
      let q := r.1.flushRange c e.1 (e.2.pages.length + 1); (q.1, r.2 && q.2)) (s, true)

/-- LOGSET at commit: open records first, then the range. -/
def State.doLogset (s : State) (o : MemOp) : Perf :=
  let n := (((s.ctx o.logCtx).bind fun k => tget k.logs o.logRange).map (·.pages.length)).getD 0
  let (s1, ok) := s.flushRange o.logCtx o.logRange (n + 1)
  if !ok then .wait s1
  else .done (s1.modCtx o.logCtx fun k => { k with
    logs := tset k.logs o.logRange { base := BitVec.ofNat 64 (fieldAt o.data 0 8), limit := BitVec.ofNat 64 (fieldAt o.data 8 8),
                                     ring := BitVec.ofNat 64 (fieldAt o.data 0x10 8), pages := [] } }) 0 0

/-- Drops, from every cache, a context's translations of a page, with every one of the same leaf, or all (R430). -/
def Mems.dropTlb (m : Mems) (c : CtxId) (all : Bool) (vpn : Nat) : Mems :=
  let leafs := (m.tlb.filter fun (e : Tlb) => e.ctx == c && e.vpn == vpn).map (·.entryPA)
  { m with tlb := m.tlb.filter fun (e : Tlb) => e.ctx != c || (!all && e.vpn != vpn && !leafs.contains e.entryPA) }

/-- XLINV at commit (R430). -/
def State.doXlinv (s : State) (o : MemOp) : Perf :=
  .done { s with mem := s.mem.dropTlb (o.b.extractLsb' 0 12) (o.b.getLsbD 12) (vbits o.a 55 12) } 0 0

/-- DPUT's probe: a valid row, an index below COUNT, and W on the entry (R421). -/
def State.probeDput (s : State) (k : Ctx) (o : MemOp) : Probed :=
  match operandFail o [(127, 14)] [] with
  | some e => failA o e
  | none =>
    if !k.dictValid o.dict then failA o ⟨0x02, rfDetail 4 10⟩
    else if o.entry ≥ k.dictCount o.dict then failA o ⟨0x02, rfDetail 4 0⟩
    else match pieces s.mem k k.devSite (k.dictBase o.dict + 8 * o.entry) 8 with
      | .error e => failA o e
      | .ok ps => match allAllowed s.keys ps .w with
        | some e => failA o e
        | none => .ok o

/-- DPUT at commit: an entry of the selected dictionary advances GEN as DSWITCH does (06 R169). -/
def State.doDput (s : State) (k : Ctx) (o : MemOp) : Perf :=
  if k.sel.toNat = o.dict && k.genBusy then .wait s
  else match s.devWrite k (k.dictBase o.dict + 8 * o.entry) (leBytes 8 (lo64 o.b).toNat) with
    | .error _ => .wait s
    | .ok s1 => .done (if k.sel.toNat = o.dict then s1.modCtx k.num fun k => k.advanceGen k.sel else s1) 0 0

/-! ### PATTR (R432, 03 R100) -/

/-- The leaf that maps an address: its entry's address, its level and the entry. -/
def State.leafAt (s : State) (k : Ctx) (va : Nat) : Except Fail (Nat × Nat × BitVec 64) :=
  match walk s.mem k va with
  | .error e => .error e
  | .ok (ea, level) => .ok (ea, level, BitVec.ofNat 64 (s.mem.word64 ea))

/-- A leaf entry with the new attribute. -/
def withAttr (e : BitVec 64) (coh owner : Nat) : BitVec 64 :=
  (e &&& 0xE7FFFFFFFFFFF00F) ||| BitVec.ofNat 64 (coh * 2 ^ 59 + owner * 16)

/-- The attribute a PATTR asks for. -/
def MemOp.newCoh (o : MemOp) : Nat := vbits o.b 1 0
def MemOp.newOwner (o : MemOp) : Nat := if o.newCoh = 2 then vbits o.b 10 4 else 0

/-- PATTR's probe. -/
def State.probePattr (s : State) (k : Ctx) (o : MemOp) : Probed :=
  let va := vbits o.a 55 0
  match operandFail o [(127, 56)] (if o.newCoh = 2 then [(127, 11), (3, 2)] else [(127, 2)]) with
  | some e => failA o e
  | none =>
    if !inMap k va 1 then failA o (transFail 0 3)
    else if va ≥ scratchBase then failA o (protFail 5)
    else match translate s.mem k k.devSite va, s.leafAt k va with
      | .error e, _ => failA o e
      | _, .error e => failA o e
      | .ok t, .ok (_, level, e) =>
        if t.place != .hbm then failA o (protFail 5)
        else match allowed s.keys t .w with
          | some f => failA o f
          | none => if leafBad (withAttr e o.newCoh o.newOwner) level then failA o (protFail 5)
              else .ok { o with ps := [⟨va, 1, t⟩] }

/-- Physical bytes [lo, lo + n) of the page of a leaf: 64 KiB for a contiguous group. -/
def pageOf (e : BitVec 64) (level : Nat) : Nat × Nat :=
  let pa := (e.extractLsb' 12 40).toNat * 0x1000
  if level = 3 && e.getLsbD 53 then (pa / 0x10000 * 0x10000, 0x10000) else (pa, pageBytes level)

/-- An operation touches a physical page. -/
def MemOp.onPage (o : MemOp) (pg : Nat × Nat) : Bool :=
  o.ps.any fun p => p.tr.place == .hbm && pg.1 ≤ p.tr.pa && p.tr.pa < pg.1 + pg.2

/-- Every L1 copy of a page cleaned and invalidated (R100, step 2). -/
def Mems.recallPage (m : Mems) (pg : Nat × Nat) : Mems :=
  (m.l1.filter fun (e : L1Line) => e.kind != .host && pg.1 ≤ 64 * e.line && 64 * e.line < pg.1 + pg.2).foldl Mems.evict m

/-- The entry, or the sixteen of a contiguous group, with the new attribute (R100, step 3). -/
def Mems.setAttr (m : Mems) (ea : Nat) (e : BitVec 64) (level coh owner : Nat) : Mems :=
  let eas := if level = 3 && e.getLsbD 53 then (List.range 16).map fun i => ea / 128 * 128 + 8 * i else [ea]
  { m with hbm := eas.foldl (fun h a => wrN h a (leBytes 8 (withAttr (BitVec.ofNat 64 (rdLe h a 8)) coh owner).toNat)) m.hbm }

/-- The probes of the tables group, beyond LAUNCH's and the queues'. -/
def State.probeTable (s : State) (k : Ctx) (o : MemOp) : Probed :=
  match o.act with
  | .dput => s.probeDput k o
  | .dget => match operandFail o [(127, 14)] [] with
    | some e => failA o e
    | none => .ok o
  | .logset => s.probeLogset k o
  | .keyset => s.probeKeyset k o
  | .xlinv => match operandFail o (if o.b.getLsbD 12 then [] else [(11, 0), (127, 56)]) [(127, 13)] with
    | some e => failA o e
    | none => .ok o
  | .pattr => s.probePattr k o
  | _ => .ok o

/-- The probe of an operation as it enters: the operation with what the probe read, or its fault. -/
def State.probeOp (s : State) (k : Ctx) (x : Thread) (w : WaveId) (o : MemOp) : Probed :=
  match o.act with
  | .mnop | .fence | .pqget | .capget => .ok o
  | .qput | .qget | .qbind | .qunbind | .iqput | .iqget | .iqlook | .iqcons | .iqadv | .iqquiet => s.probeQueue k x o
  | .pqput => k.probePqput x o
  | .rtget | .rtdone => k.probeRange x o
  | .launch => s.probeLaunch k x w o
  | .lstat | .lbar | .joinw => s.probeLevel k x o
  | .dput | .dget | .logset | .keyset | .pattr | .xlinv => s.probeTable k o
  | .ld | .st | .ldc | .stf | .ldi | .sti | .pref | .atom _ | .red _ | .redFadd | .own | .feq | .feset | .clean | .flush
  | .invl => match s.probePlain k x.lcl o with
    | .ok ps => .ok { o with ps := ps }
    | .error e => failA o e

/-! ### PATTR at commit (R100) -/

/-- The bytes of a queue that an operation's probe looks at: the descriptor, and the areas that the operation may use (R401). -/
def State.queueSpan (s : State) (k : Ctx) (va : Nat) (use : FrontUse) : List (Nat × Nat) :=
  let q := s.queue k va
  [(va, 64), (q.base, q.cap * q.recBytes)] ++ (if q.arr = 0 || q.kind = 0 then [] else [(q.arr, 2 ^ (q.arrlog2 + 12))])
    ++ match use with
      | .none => []
      | .one p => [(q.front + 8 * p, 8)]
      | .all => [(q.front, 8 * (q.nprod + 1))]

/-- The bytes that a queue or table operation's probe looks at. -/
def State.looksAt (s : State) (k : Ctx) (o : MemOp) : List (Nat × Nat) :=
  match o.act with
  | .qput | .qget | .qbind | .qunbind | .iqget | .iqlook | .iqcons => s.queueSpan k o.desc .none
  | .iqput | .iqadv => s.queueSpan k o.desc (.one o.producer)
  | .iqquiet => (o.desc, 8 * (o.producer + 1)) :: o.listed.flatMap fun va => s.queueSpan k va .all
  | .launch => [((lo64 o.a).toNat, 64)]
  | .joinw => [((lo64 o.a).toNat, 8)]
  | .logset => [(vbits o.a 55 0, 32)]
  | .keyset => if o.keyOp = 0 then [(vbits o.b 55 0, 64)] else []
  | .dput | .dget => [(k.dictBase o.dict + 8 * o.entry, 8)]
  | _ => []

/-- A run of a context's bytes lies partly on a physical page. -/
def State.runOnPage (s : State) (k : Ctx) (pg : Nat × Nat) (r : Nat × Nat) : Bool :=
  (List.range ((r.1 + r.2 - 1) / 4096 - r.1 / 4096 + 1)).any fun i => match s.leafAt k ((r.1 / 4096 + i) * 4096) with
    | .ok (_, level, e) => (e.extractLsb' 61 2) = 0 && (pageOf e level).1 < pg.1 + pg.2
        && pg.1 < (pageOf e level).1 + (pageOf e level).2
    | .error _ => false

/-- An operation has to do with a page: its pieces lie there, or what its probe looked at does. -/
def State.holdsPage (s : State) (k : Ctx) (pg : Nat × Nat) (o : MemOp) : Bool :=
  o.onPage pg || (s.looksAt k o).any (s.runOnPage k pg)

/-- A committed operation on the page that this PATTR must wait for: any but those behind it, or behind another PATTR, in
their own thread. A LAUNCH has its record since its probe. -/
def State.pageBusy (s : State) (me : Committed) (pg : Nat × Nat) (k : Ctx) : Bool :=
  let isPattr (c : Committed) : Bool := match c.item with | .mem o => o.act == .pattr | .dfr _ => false
  let ahead (c : Committed) : Bool := (k.committed.takeWhile (· != c)).any fun e =>
    e.thread == c.thread && e.born == c.born && isPattr e
  k.committed.any fun c => c != me && !isPattr c && !ahead c
    && (match c.item with | .mem o => o.act != .launch && s.holdsPage k pg o | .dfr _ => false)

/-- One held operation is probed again: it follows the new attribute, or its fault is raised (R100, step 4). An STI keeps the
reservation it has, and what a probe bound stays bound. -/
def State.reprobe (s : State) (x : Thread) (w : WaveId) (o : MemOp) (k : Ctx) : Ctx :=
  match s.probeOp k x w { o with act := if o.act == .sti then .st else o.act } with
  | .ok o1 => k.modWv x.num w fun v =>
      { v with ops := updFirst (fun y => y.m.own == o.m.own) (fun y => { y with ps := o1.ps }) v.ops }
  | .error (e, a) => k.raiseAt x.num o.blk o.seen w e.code 2 e.detail a

/-- A store of a stream unit, drained and not yet committed, is probed again; its fault is the stream unit's (02 R64). -/
def State.reprobeDrain (s : State) (x : Thread) (w : WaveId) (o : MemOp) (k : Ctx) : Ctx :=
  match s.probePlain k x.lcl o with
  | .ok ps => k.modWv x.num w fun v => { v with drains := updFirst (· == o) (fun y => { y with ps := ps }) v.drains }
  | .error e => k.raise x.num (k.bareRec x o.blk w e.code 3 e.detail (lo64 o.a))

/-- Every operation of a context that holds an access to a page is probed again. -/
def State.reprobeAll (s : State) (pg : Nat × Nat) (k : Ctx) : Ctx :=
  k.threads.foldl (fun k x => x.waves.foldl (fun k v =>
    (v.drains.filter (·.onPage pg)).foldl (fun k o => s.reprobeDrain x v.num o k)
      ((v.ops.filter fun o => o.entered && s.holdsPage k pg o).foldl (fun k o => s.reprobe x v.num o k) k)) k) k

/-- No translation of a page, in any cache, of any context (R100, step 1). -/
def Mems.shootDown (m : Mems) (pg : Nat × Nat) : Mems :=
  { m with tlb := m.tlb.filter fun (t : Tlb) => !((t.entry.extractLsb' 61 2) = 0 && decide (pg.1 ≤ t.pa) && decide (t.pa < pg.1 + pg.2)) }

/-- PATTR at commit: its four steps (R100). -/
def State.doPattr (s : State) (k : Ctx) (me : Committed) (o : MemOp) : Perf :=
  let va := vbits o.a 55 0
  match s.leafAt k va with
  | .error _ => .wait s
  | .ok (ea, level, e) =>
    let pg := pageOf e level
    if s.ctxs.any (s.pageBusy me pg) then .wait s
    else
      let same := withAttr e o.newCoh o.newOwner == e
      let m := if same then s.mem else (s.mem.recallPage pg).setAttr ea e level o.newCoh o.newOwner
      let s1 := { s with mem := m.shootDown pg }
      .done { s1 with ctxs := s1.ctxs.map (s1.reprobeAll pg) } 0 0

/-- A DFENCE that has been performed as far as its own wait. -/
def Committed.isFence (e : Committed) : Bool :=
  e.waiting && (match e.item with | .dfr d => d.act == .dfence | .mem _ => false)

/-- DFENCE_COMPLETION (06 R170): every fabric manager has taken the selection; FPEND falls, and every waiting DFENCE
gives its generation. -/
def execDfenceCompletion (c : CtxId) (s : State) : Out :=
  .next <| s.modCtx c fun k =>
    let fs := k.committed.filter Committed.isFence
    if fs.isEmpty then k
    else
      let v : Value := k.gen.zeroExtend 128
      fs.foldl (fun k e => match e.item with
        | .dfr d => k.emitLate e d.blk d.seen d.rt v v
        | .mem _ => k) { k with fpend := false, committed := k.committed.filter fun e => !e.isFence }

end Sys2Proof.Machine
end

