-- ==== Sys2Proof/Machine/Units.lean ====
section
/-! DEFINITION. Rings, chimes, drums and stream units (01 R40, R41, 02 R61 to R64, 06 R178 to R184, 14 R383 to R385,
R391 to R396): their instructions, what those do at commit, and the steps these units take by themselves. -/

namespace Sys2Proof.Machine

/-! ### Firings of group X (14 R367, R368) -/

/-- A precise fault of a firing: RESERVED-FIELD at a place with its lowest offending bit. -/
def rfAt (place bit : Nat) : Sem := .raise 0x02 (rfDetail place bit) 0

/-- Reserved bits of a control token or operand (place 4). -/
def tokenBits (v : Value) (rs : List (Nat × Nat)) : Option Sem := (zeroBits v rs).map fun i => rfAt 4 i

/-- The first of a list of checks that fails, else the effect. -/
def checks : List (Bool × Sem) → Sem → Sem
  | [], ok => ok
  | (bad, e) :: r, ok => if bad then e else checks r ok

def State.fireX (s : State) (t : Tmpl) (x : FormX) (takesB : Bool) (sem : Fire → Sem) : State :=
  s.fire t none takesB (litX x) sem

/-- The cf entry CFX names. -/
def Fire.cfv (f : Fire) (x : FormX) : Value := (f.p.cf[x.cfx.toNat]?).getD 0

/-- A deferred instruction of group X with its acceptance. -/
def Fire.hold (f : Fire) (act : DefAct) (x : FormX) (cfv : Value) (data : List Byte) : Sem :=
  accepted f (f.deferred act x 0 cfv data)

/-! ### Ring entries (06 R178, R179) -/

abbrev Ring := BitVec 128

def rHead (r : Ring) : Nat := vbits r 95 64
def rTail (r : Ring) : Nat := vbits r 127 96
def rValid (r : Ring) : Bool := r.getLsbD 63
def rThresh (r : Ring) : Nat := vbits r 62 43
def rRow (r : Ring) : Nat := (vbits r 42 35 + 1) * 16
def rBase (r : Ring) : Nat := vbits r 22 12
def rCap (r : Ring) : Nat := (vbits r 33 23 + 1) * 4096 / rRow r
def rFill (r : Ring) : Nat := (rTail r + 2 ^ 32 - rHead r) % 2 ^ 32
/-- The scratchpad offset of row count n. -/
def rOff (r : Ring) (n : Nat) : Nat := rBase r * 4096 + n % rCap r * rRow r
def rRoom (r : Ring) (n : Nat) : Bool := rValid r && decide (rFill r + n ≤ rCap r)
def rSetHead (r : Ring) (n : Nat) : Ring := r.extractLsb' 96 32 ++ BitVec.ofNat 32 n ++ r.extractLsb' 0 64
def rSetTail (r : Ring) (n : Nat) : Ring := BitVec.ofNat 32 n ++ r.extractLsb' 0 96

def Share.ring (h : Share) (n : Nat) : Ring := tgetD h.rings n 0
def Share.setRing (h : Share) (n : Nat) (r : Ring) : Share := { h with rings := tset h.rings n r }

/-! ### Pulses (06 R180, R184) -/

def Share.pulse (h : Share) (src : Nat) : Share := { h with chime := { h.chime with pulses := h.chime.pulses ++ [src] } }

def inKind (e : BitVec 32) : Nat := (e.extractLsb' 28 4).toNat
def inFrom (e : BitVec 32) : Nat := (e.extractLsb' 0 13).toNat

/-- The unit an input names: a ring in FROM[4:0], an AGEN in FROM[1:0], a drum's slot in all of it (R180). -/
def inUnit (e : BitVec 32) : Nat :=
  match inKind e with
  | 2 => inFrom e % 32
  | 3 => inFrom e % 4
  | _ => inFrom e

/-- Pulses the inputs of a kind that name a unit. -/
def Share.pulseKind (h : Share) (kind unit : Nat) : Share :=
  (h.chime.ins.filter fun e => inKind e.2 == kind && inUnit e.2 == unit).foldl (fun h e => h.pulse e.1) h

/-- An engine completion pulses the input its command names, if that is of KIND 1 (R369). -/
def Share.pulseEngine (h : Share) (n : Nat) : Share := if inKind (tgetD h.chime.ins n 0) = 1 then h.pulse n else h

/-- TAIL advances by n rows; the threshold pulses when the fill rises to it (R179). -/
def Share.ringTail (h : Share) (n by_ : Nat) : Share :=
  let r := h.ring n
  let r1 := rSetTail r (rTail r + by_)
  let h1 := h.setRing n r1
  if rThresh r != 0 && rFill r < rThresh r && rThresh r ≤ rFill r1 then h1.pulseKind 2 n else h1

def Share.ringHead (h : Share) (n by_ : Nat) : Share := h.setRing n (rSetHead (h.ring n) (rHead (h.ring n) + by_))

/-! ### Writes into scratchpad by engines and the matrix path (03 R87, R88) -/

/-- A run of bytes meets a consume-held granule: the write waits (R88). -/
def Share.heldRun (h : Share) (off n : Nat) : Bool :=
  (List.range ((off + n - 1) / 16 - off / 16 + 1)).any fun i => (h.gran (off / 16 + i)).hold.isSome

/-- A write that makes every granule it touches FULL and answers its readers: a ring row or a completion word. -/
def Ctx.fillRun (k : Ctx) (l off : Nat) (bytes : List Byte) : Ctx :=
  let gs := (List.range ((off + bytes.length - 1) / 16 - off / 16 + 1)).map (off / 16 + ·)
  let k1 := k.modShare l fun h =>
    let h1 := gs.foldl Share.settle h
    { h1 with bytes := wrN h1.bytes off bytes }
  gs.foldl (fun k g => k.filled l g) k1

/-- A write to an ENGINE tile: every granule it touches becomes FULL; readers stay until the flip. -/
def Ctx.engineRun (k : Ctx) (l off : Nat) (bytes : List Byte) : Ctx :=
  let gs := (List.range ((off + bytes.length - 1) / 16 - off / 16 + 1)).map (off / 16 + ·)
  k.modShare l fun h =>
    let h1 := gs.foldl Share.settle h
    let h2 := { h1 with bytes := wrN h1.bytes off bytes }
    gs.foldl (fun h g => h.setGran g { h.gran g with st := 1 }) h2

/-- Tiles flip back to THREAD, and readers of granules an engine filled are answered (R87, R90, R122). -/
def Ctx.flipBack (k : Ctx) (ts : List (Nat × Nat)) : Ctx :=
  ts.foldl (fun k q =>
    let k1 := k.modShare q.1 fun h => { h with engine := h.engine.filter (· != q.2) }
    ((k1.share q.1).grans.filter fun e => e.1 / 256 == q.2 && e.2.st == 1 && !e.2.readers.isEmpty).foldl
      (fun k e => k.filled q.1 e.1) k1) k

/-! ### Ring instructions (14 R383 to R385) -/

/-- RINIT (R383). -/
def execRinit (t : Tmpl) (x : FormX) (s : State) : Out :=
  .next (s.fireX t x false fun f =>
    let a := f.q.a
    match tokenBits a (if x.var = 1 then [(127, 0)] else [(34, 34), (11, 0)]) with
    | some e => e
    | none =>
      checks [(x.var = 0 && !rValid a, rfAt 4 63), (x.var = 0 && decide (rBase a + vbits a 33 23 > 2047), rfAt 4 12),
              (x.var = 0 && decide (rThresh a > rCap a), rfAt 4 43)] (f.hold .rinit x 0 []))

/-- RSTAT (R384): the entry as it stands, or zero. -/
def execRstat (t : Tmpl) (x : FormX) (s : State) : Out :=
  .next (s.fireX t x false fun f =>
    let r := (f.k.share f.p.lcl).ring x.ring.toNat
    f.result (if rValid r then r else 0))

/-- RADV (R385). -/
def execRadv (t : Tmpl) (x : FormX) (s : State) : Out :=
  .next (s.fireX t x false fun f =>
    let r := (f.k.share f.p.lcl).ring x.ring.toNat
    match tokenBits f.q.a [(127, 32)] with
    | some e => e
    | none => checks [(!rValid r, rfAt 6 63), (decide (vbits f.q.a 31 0 > rCap r), rfAt 4 0)] (f.hold .radv x 0 []))

/-- A ring flag of an engine descriptor: RINGNO with SRING or DRING (R386). -/
def EngCmd.usesRing (c : EngCmd) (n : Nat) : Bool :=
  c.act == .cpy && (c.desc.getLsbD 69 || c.desc.getLsbD 70) && vbits c.desc 68 64 == n

/-- A command of a domain that uses a ring entry. -/
def DomCmd.usesRing (c : DomCmd) (n : Nat) : Bool :=
  (match c.act with | .wload | .mma | .mmasp | .accrd => true | _ => false) && c.x.ring.toNat == n

/-- A queued or running command of the logical cluster uses a ring. -/
def Ctx.ringBusy (k : Ctx) (l n : Nat) : Bool :=
  (k.share l).cmds.any (·.usesRing n)
    || k.shares.any fun h => h.doms.any fun e => e.2.queue.any fun q => q.lcl == l && q.usesRing n

/-- RINIT at commit: it waits for the commands that use the ring. -/
def State.doRinit (s : State) (k : Ctx) (me : Committed) (d : DefOp) : Perf :=
  let n := d.x.ring.toNat
  if k.ringBusy me.lcl n then .wait s
  else .done (s.setCtx (k.modShare me.lcl fun h => h.setRing n (if d.x.var = 1 then h.ring n &&& ~~~(1#128 <<< 63) else d.a))) 0 0

/-- RADV at commit: it waits for room, or for rows. -/
def State.doRadv (s : State) (k : Ctx) (me : Committed) (d : DefOp) : Perf :=
  let n := d.x.ring.toNat
  let r := (k.share me.lcl).ring n
  let c := vbits d.a 31 0
  if c = 0 then .done s 0 0
  else if d.x.var = 0 then
    (if rRoom r c then .done (s.setCtx (k.modShare me.lcl fun h => h.ringTail n c)) 0 0 else .wait s)
  else if rValid r && c ≤ rFill r then .done (s.setCtx (k.modShare me.lcl fun h => h.ringHead n c)) 0 0 else .wait s

/-! ### Injection (01 R41) -/

inductive Inject where
  | go | wait | dead | late
  deriving DecidableEq, Repr, Inhabited

/-- What meets a unit's token for wave w of a thread. A number that WSET skipped waits until it lies behind. -/
def Ctx.injection (k : Ctx) (t : ThreadId) (w : WaveId) : Inject :=
  match k.th t with
  | none => .dead
  | some x => match x.entry w with
    | .go => .go
    | .committed => .late
    | _ => .wait

/-- A launch's place in the order of admission, in which its threads come first by age (R33). -/
def Ctx.admitted (k : Ctx) (x : Thread) : Nat := ((k.ln x.ln).map (·.born)).getD 0

/-- The context's oldest thread with an uncommitted wave, and that wave: by its launch's admission, then by its creation
(R33, R49). -/
def Ctx.eldest (k : Ctx) : Option (Thread × Wave) :=
  let xs := k.threads.filter fun x => !x.waves.isEmpty
  (leastBy k.admitted xs).bind fun y =>
    (leastBy (fun (x : Thread) => x.born) (xs.filter fun x => k.admitted x = k.admitted y)).bind fun x =>
      x.oldest.map fun v => (x, v)

/-- WAVE-ORDER, detail 5, of a unit whose token was discarded. -/
def Ctx.injectFault (k : Ctx) (i : Inject) (t : ThreadId) (w : WaveId) (b : Addr) (origin : BitVec 8) (unit : Nat) : Ctx :=
  match i, k.th t, k.eldest with
  | .late, some x, _ => k.raise t (k.bareRec x b (x.lateWave w) 0x0C origin 5 (BitVec.ofNat 64 unit))
  | .dead, _, some (x, v) => k.raise x.num (k.bareRec x v.blk v.num 0x0C origin 5 (BitVec.ofNat 64 unit))
  | _, _, _ => k

/-! ### The chime matrix (06 R180 to R184, 14 R395, R396) -/

def ctCount (e : BitVec 64) : Nat := (e.extractLsb' 40 24).toNat
def ctReload (e : BitVec 64) : Nat := (e.extractLsb' 16 24).toNat
def ctIn (e : BitVec 64) : Nat := (e.extractLsb' 10 6).toNat
def ctOn (e : BitVec 64) : Bool := e.getLsbD 9
def ctSet (e : BitVec 64) (n : Nat) : BitVec 64 := BitVec.ofNat 24 n ++ e.extractLsb' 0 40

/-- Pulses taken one by one by a counter: its count and how often it fired. -/
def ctTake (reload : Nat) : Nat → Nat × Nat → Nat × Nat
  | 0, q => q
  | n + 1, q => ctTake reload n (if q.1 ≤ 1 then (reload, q.2 + 1) else (q.1 - 1, q.2))

/-- One counter in an evaluation: a count left at 0 fires first, then the pulses of its source are taken. -/
def Chime.count (c : Chime) (n : Nat) (ps : List Nat) : Chime × List Nat :=
  let e := tgetD c.ctrs n 0
  if !ctOn e then (c, [])
  else
    let q := ctTake (ctReload e) (ps.filter (· == ctIn e)).length
      (if ctCount e = 0 then (ctReload e, 1) else (ctCount e, 0))
    ({ c with ctrs := tset c.ctrs n (ctSet e q.1) }, List.replicate q.2 (32 + n))

/-- A counter fed by a term that pulsed: it counts down, and fires by itself, at 0, in the next evaluation (DESIGN CHOICE, log
entry 108). -/
def Chime.countTerm (c : Chime) (ps : List Nat) (n : Nat) : Chime :=
  let e := tgetD c.ctrs n 0
  if ctOn e && ctIn e ≥ 48 && ps.contains (ctIn e) then { c with ctrs := tset c.ctrs n (ctSet e (ctCount e - 1)) } else c

/-- Selector s of product p of a term. -/
def selector (e : BitVec 96) (p s : Nat) : Nat := (e.extractLsb' (24 * p + 6 * s) 6).toNat

/-- One product of a term: its latches after the pulses, and whether it fires. -/
def Chime.product (c : Chime) (t p : Nat) (ps : List Nat) : Chime × Bool :=
  let e := tgetD c.terms t 0
  let used := (List.range 4).filter fun i => selector e p i != 63
  let c1 := { c with latches := used.foldl (fun ls i =>
      if ps.contains (selector e p i) && !ls.contains (t, 4 * p + i) then ls ++ [(t, 4 * p + i)] else ls) c.latches }
  if !used.isEmpty && used.all fun i => c1.latches.contains (t, 4 * p + i) then
    ({ c1 with latches := c1.latches.filter fun q => !(q.1 == t && q.2 / 4 == p) }, true)
  else (c1, false)

/-- One term: it pulses once when any of its products fires. -/
def Chime.term (q : Chime × List Nat) (t : Nat) : Chime × List Nat :=
  let r := (List.range 4).foldl (fun r p => let o := r.1.product t p q.2; (o.1, r.2 || o.2)) (q.1, false)
  (r.1, if r.2 then q.2 ++ [48 + t] else q.2)

/-- The sources that pulse in one evaluation, and the matrix after it. -/
def Chime.evaluate (c : Chime) : Chime × List Nat :=
  let ps := c.pulses
  let q := (List.range 16).foldl (fun q n =>
    let o := q.1.count n ps; (o.1, q.2 ++ o.2)) ({ c with pulses := [] }, ps)
  let r := (List.range 15).foldl Chime.term q
  ((List.range 16).foldl (fun c n => c.countTerm r.2 n) r.1, r.2)

def outFrom (e : BitVec 128) : Nat := vbits e 127 122
def outKind (e : BitVec 128) : Nat := vbits e 121 118
def outArg (e : BitVec 128) : Nat := vbits e 117 105

/-- A pulse of an arm slot frees the command held in it, which starts once one of the engine's 64 places is free (14 R370, R386;
DEDUCED, log entry 128). -/
def Share.startArm (h : Share) (slot : Nat) : Share :=
  let go (c : EngCmd) : EngCmd := { c with armed := false, waits := true }
  { h with cmds := updFirst (fun (c : EngCmd) => c.armed && vbits c.desc 30 27 == slot) go h.cmds }

/-! Loop registers (02 R61). -/

def loopStart (r : BitVec 128) : Int := signed 32 (vbits r 127 96)
def loopEnd (r : BitVec 128) : Int := signed 32 (vbits r 95 64)
def loopStep (r : BitVec 128) : Int := signed 32 (vbits r 63 32)
def loopCount (r : BitVec 128) : Nat := vbits r 31 0
def loopIndex (r : BitVec 128) : Int := loopStart r + (loopCount r : Int) * loopStep r
def loopSet (r : BitVec 128) (n : Nat) : BitVec 128 := r.extractLsb' 32 96 ++ BitVec.ofNat 32 n

/-- GO of a drum: no effect on a running one or one not configured (14 R394). -/
def Share.goDrum (h : Share) (n : Nat) : Share :=
  { h with drums := h.drums.map fun (d : Drum) =>
      if d.num.toNat == n && !d.ctl.getLsbD 3 then { d with ctl := d.ctl ||| 8, loops := d.loops.map (loopSet · 0) } else d }

/-- GO of a stream unit (14 R392). -/
def Share.goStream (h : Share) (n : Nat) : Share :=
  { h with agens := h.agens.map fun e => if e.1 = n then (n, { e.2 with ctl := e.2.ctl ||| 0x80000000, faulted := false }) else e }

/-- What the pulses of one evaluation start at out entry i (R183). -/
def Share.startOut (h : Share) (ps : List Nat) (i : Nat) : Share :=
  let e := tgetD h.chime.outs i 0
  let n := (ps.filter (· == outFrom e)).length
  if n = 0 then h
  else match outKind e with
    | 1 => (List.range n).foldl (fun h _ => h.startArm (outArg e % 16)) h
    | 2 => h.goDrum (outArg e)
    | 3 => h.goStream (outArg e % 4)
    | 4 => { h with chime := { h.chime with due := h.chime.due ++ List.replicate n i } }
    | _ => h

/-- Out entry i with a new entry word. -/
def Share.setOut (h : Share) (i : Nat) (e : BitVec 128) : Share := { h with chime := { h.chime with outs := tset h.chime.outs i e } }

/-- One injection that is due: made, left waiting, or discarded with its fault (R41, R183). -/
def Ctx.injectDue (l : Nat) (k : Ctx) (i : Nat) : Ctx :=
  let h := k.share l
  let e := tgetD h.chime.outs i 0
  let t : ThreadId := e.extractLsb' 64 16
  let w : WaveId := e.extractLsb' 80 24
  let blk : Addr := ((0 : BitVec 8) ++ e.extractLsb' 12 52 ++ (0 : BitVec 4))
  let rest : Share := { h with chime := { h.chime with due := dropFirst (· == i) h.chime.due } }
  if outKind e != 4 then k.setShare rest
  else match k.injection t w with
    | .wait => k
    | .go =>
      if k.gateShut l then k
      else
        let n : BitVec 24 := tgetD h.chime.injected i 0 + 1
        let e1 : BitVec 128 := if e.getLsbD 104 then e.extractLsb' 104 24 ++ (w + 1) ++ e.extractLsb' 0 80 else e
        let h1 := { rest with chime := { rest.chime with injected := tset rest.chime.injected i n } }
        (k.setShare (h1.setOut i e1)).enter (outsideToken t w blk (vbits e 11 8) (n.zeroExtend 128)) .outside false
    | bad => (k.setShare (rest.setOut i (e &&& ~~~(0xF#128 <<< 118)))).injectFault bad t w blk 6 (0x100 + i)

/-- CHIME_EVALUATION (R184): the pulses of a cycle, the counters, terms and out entries, and the injections due. -/
def execChimeEvaluation (c : CtxId) (l : Nat) (s : State) : Out :=
  .next <| s.modActive c fun k =>
    let h := k.share l
    if h.chime.pulses.isEmpty && h.chime.due.isEmpty && !(h.chime.ctrs.any fun e => ctOn e.2 && ctCount e.2 = 0) then k
    else
      let (ch, ps) := h.chime.evaluate
      let h1 := (List.range 32).foldl (fun h i => h.startOut ps i) { h with chime := ch }
      h1.chime.due.foldl (Ctx.injectDue l) (k.setShare h1)

/-- CHIME_COUNTER_FIRE (R181): a counter whose COUNT is 0 pulses and reloads. -/
def execChimeCounterFire (c : CtxId) (l n : Nat) (s : State) : Out :=
  .next <| s.modActive c fun k =>
    let e := tgetD (k.share l).chime.ctrs n 0
    if n < 16 && ctOn e && ctCount e = 0 then
      k.modShare l fun h => { h with chime := { h.chime with
        ctrs := tset h.chime.ctrs n (ctSet e (ctReload e)), pulses := h.chime.pulses ++ [32 + n] } }
    else k

/-- What a chime entry breaks of R180 to R183, as its lowest offending bit. -/
def chimeBad (table idx : Nat) (v : Value) : Option Nat :=
  match table with
  | 0 => (zeroBits v [(27, 13)]).or (if vbits v 31 28 > 4 then some 28 else none)
  | 1 => (zeroBits v [(8, 0)]).or <| (if (32 ≤ vbits v 15 10 && vbits v 15 10 < 48) || vbits v 15 10 = 63 then some 10 else none).or
      (if vbits v 39 16 = 0 then some 16 else none)
  | 2 => ((List.range 16).find? fun i => let q := vbits v (6 * i + 5) (6 * i); 48 + idx ≤ q && q ≤ 62).map (6 * ·)
  | _ => (zeroBits v [(7, 0)]).or (if vbits v 121 118 > 4 then some 118 else none)

/-- Bits of an entry of a chime table. -/
def chimeWidth (table : Nat) : Nat := match table with | 0 => 32 | 1 => 64 | 2 => 96 | _ => 128

/-- CHWIRE (R395). -/
def execChwire (t : Tmpl) (x : FormX) (s : State) : Out :=
  .next (s.fireX t x false fun f =>
    let table := x.var.toNat % 4
    let v := if x.var.getLsbD 2 then f.cfv x else f.q.a
    match (if table = 3 then none else zeroBits v [(127, chimeWidth table)]) with
    | some i => rfAt 4 i
    | none => match chimeBad table x.chin.toNat v with
      | some i => rfAt 6 i
      | none => f.hold .chwire x v [])

/-- CHSET (R396). -/
def execChset (t : Tmpl) (x : FormX) (s : State) : Out := .next (s.fireX t x false fun f => f.hold .chset x 0 [])

/-- CHPULSE (R396). -/
def execChpulse (t : Tmpl) (x : FormX) (s : State) : Out := .next (s.fireX t x false fun f => f.hold .chpulse x 0 [])

/-- CHWIRE at commit. -/
def Chime.wire (c : Chime) (table idx : Nat) (v : Value) : Chime :=
  match table with
  | 0 => { c with ins := tset c.ins idx (v.extractLsb' 0 32) }
  | 1 => { c with ctrs := tset c.ctrs idx (v.extractLsb' 0 64) }
  | 2 => { c with terms := tset c.terms idx (v.extractLsb' 0 96), latches := c.latches.filter fun q => q.1 != idx }
  | _ => { c with outs := tset c.outs idx v, injected := tdel c.injected idx }

/-- CHSET at commit. -/
def Chime.set (c : Chime) (var idx : Nat) (v : Value) : Chime :=
  match var with
  | 0 => { c with ctrs := tset c.ctrs idx (ctSet (tgetD c.ctrs idx 0) (vbits v 23 0)) }
  | 1 => { c with latches := c.latches.filter fun q => q.1 != idx }
  | _ => { c with latches := [], injected := [], ctrs := c.ctrs.map fun e => (e.1, ctSet e.2 (ctReload e.2)) }

/-! ### Records read at a firing (14 R391, R393) -/

/-- 64 bytes read as a load at the firing's probe, with the thread's own stores entered before. -/
def State.recordAt (s : State) (f : Fire) (va : BitVec 64) : Except Fail (List Byte) :=
  let a := va.toNat
  if !inMap f.k a 64 then .error (transFail 0 3)
  else if a ≥ controlBase then .error (protFail 6)
  else if a % 64 != 0 then .error ⟨0x08, 6⟩
  else match pieces s.mem f.k (f.k.seatOf f.p) a 64 with
    | .error e => .error e
    | .ok ps => match (allAllowed s.keys ps .rd).or ((cpFail f.p.lcl ps).or (ownerFail f.k ps)) with
      | some e => .error e
      | none =>
        if ps.any (piecePoison s.mem) then .error ⟨0x0F, 0⟩
        else .ok (forwarded ((f.k.prior f.x f.w 0xFF).filter (·.2.entered)) (ps.flatMap Piece.keys)
          (bytesOf s.mem f.k (f.k.phys f.p.lcl) ps))

/-- The address of the record STRCFG and SQCFG read. -/
def Fire.record (f : Fire) (x : FormX) : BitVec 64 := lo64 f.q.a + lo64 (f.cfv x)

/-- The pieces of a record. -/
def State.recordPieces (s : State) (f : Fire) (va : BitVec 64) : List Piece :=
  match pieces s.mem f.k (f.k.seatOf f.p) va.toNat 64 with
  | .ok ps => ps
  | .error _ => []

/-- The reading of a record must wait, as a load would. -/
def State.recordWaits (s : State) (f : Fire) (va : BitVec 64) : Bool :=
  (s.recordPieces f va).any (fun p => pieceWaits s.mem f.k p false) || s.logFull f.k.num (s.recordPieces f va) kRead

/-- What the reading of a record, found in `s`, leaves behind in `t` as a load does: energy, misses, log records and cache
effects. -/
def State.readRecord (t s : State) (f : Fire) (va : BitVec 64) : State :=
  let ps := s.recordPieces f va
  ((t.account f.k.num f.p.lcl (f.k.phys f.p.lcl) kRead ps).readPieces f.k.num (f.k.phys f.p.lcl) ps).1

/-- What STRCFG and SQCFG do with their record: faults that it or its reading shows, or their effect. -/
def Fire.recorded (f : Fire) (s : State) (x : FormX) (bad : List Byte → Option Nat) (eff : List Byte → Sem) : Sem :=
  match s.recordAt f (f.record x) with
  | .error e => .probe e.code e.detail (f.record x)
  | .ok b => if s.recordWaits f (f.record x) then .wait else match bad b with
    | some i => rfAt 6 i
    | none => eff b

/-- The emissions of a firing's effect. -/
def Sem.ems : Sem → List Em
  | .act es _ _ => es
  | _ => []

/-- A firing with these emissions takes place now: power, no breakpoint, no error, and nothing that holds an emission. -/
def State.goes (s : State) (f : Fire) (es : List Em) : Bool :=
  s.powered f.domain && (s.dbg.pass == some s.focus || (s.breakpoint f.k.num f.x.num f.p.blk f.i).isNone) && s.upset == .none
    && (sendBlock f.x es).isNone
    && !(f.k.gateShut f.p.lcl && es.any fun e => e.wave != f.w && (f.t.act.adds || e.src.isNone) && e.dests.any (· != .none))

/-- The firing of STRCFG or SQCFG, with the reading of its record. -/
def State.fireRecord (s : State) (t : Tmpl) (x : FormX) (bad : List Byte → Option Nat) (eff : Fire → List Byte → Sem) : State :=
  let r := s.fireX t x false fun f => f.recorded s x bad (eff f)
  match s.ready t none false (litX x) with
  | none => r
  | some f => match s.recordAt f (f.record x) with
    | .error _ => r
    | .ok _ =>
      if !s.recordWaits f (f.record x) && s.goes f (f.recorded s x bad (eff f)).ems then r.readRecord s f (f.record x) else r

/-! ### Drums (02 R61, R62, 14 R393, R394) -/

/-- The lowest offending bit of a drum record, within its 64-bit word. -/
def drumBad (b : List Byte) : Option Nat :=
  let w := fieldAt b 0x38 8
  ((setBits (fieldAt b 0x30 8) 64).find? (41 ≤ ·)).or <|
    (if w % 8 = 0 || w % 8 > 4 then some 0 else none).or ((setBits w 64).find? (3 ≤ ·))

/-- The drum number of slot i of a placed block (R393). -/
def Placed.drumNum (p : Placed) (i : Nat) : BitVec 13 :=
  match p.at_[i]? with
  | some q => BitVec.ofNat 13 (q.1 * 64 + q.2)
  | none => 0

/-- SQCFG (R393): the drum number to dest2 only. -/
def execSqcfg (t : Tmpl) (x : FormX) (s : State) : Out :=
  .next (s.fireRecord t x drumBad fun f b =>
    .act [Em.plain [dest2 f.t f.i] ((f.p.drumNum f.i).zeroExtend 128) f.outWave] 0
      (f.defer (f.deferred .sqcfg x ((f.p.drumNum f.i).zeroExtend 16) 0 b)))

/-- SQGO (R394). -/
def execSqgo (t : Tmpl) (x : FormX) (s : State) : Out :=
  .next (s.fireX t x false fun f =>
    match tokenBits f.q.a [(127, 13)] with
    | some e => e
    | none =>
      if (f.k.share f.p.lcl).drums.any fun d => d.num == f.q.a.extractLsb' 0 13 then f.hold .sqgo x 0 [] else rfAt 4 0)

/-- A loop register of a drum record: START, END, STEP, and COUNT 0. -/
def loopOf (b : List Byte) (i : Nat) : BitVec 128 :=
  BitVec.ofNat 32 (fieldAt b (12 * i) 4) ++ BitVec.ofNat 32 (fieldAt b (12 * i + 4) 4) ++ BitVec.ofNat 32 (fieldAt b (12 * i + 8) 4)
    ++ (0 : BitVec 32)

/-- SQCFG at commit: the slot is a drum, idle, under the number that its firing emitted. -/
def Ctx.makeDrum (k : Ctx) (me : Committed) (d : DefOp) : Ctx :=
  let u : Drum := { num := d.imm.extractLsb' 0 13, blk := d.blk, slot := d.slot, t := (Tmpl.dec d.seen.template).getD default,
                    loops := (List.range 4).map (loopOf d.data), ctl := BitVec.ofNat 32 (fieldAt d.data 0x38 1 % 8),
                    tag := BitVec.ofNat 48 (fieldAt d.data 0x30 8) }
  k.modShare me.lcl fun h => { h with drums := (h.drums.filter fun (e : Drum) => e.num != u.num && !(e.blk == u.blk && e.slot == u.slot)) ++ [u] }

/-- A level goes on at its COUNT (R62). -/
def loopGoes (r : BitVec 128) : Bool :=
  if loopStep r > 0 then loopIndex r < loopEnd r
  else if loopStep r < 0 then loopIndex r > loopEnd r
  else loopCount r = 0

def Drum.depth (d : Drum) : Nat := (d.ctl.extractLsb' 0 3).toNat
def Drum.running (d : Drum) : Bool := d.ctl.getLsbD 3

/-- The outermost level that has run out, if any. -/
def Drum.runOut (d : Drum) : Option Nat := (List.range d.depth).find? fun i => !loopGoes (d.loops.getD i 0)

/-- The nest has ended: its outermost level has run out. -/
def Drum.isOver (d : Drum) : Bool := d.depth = 0 || d.runOut == some 0

/-- Level i has run out: the level around it counts one iteration, and it and those inside begin anew. -/
def Drum.carry (d : Drum) (i : Nat) : Drum :=
  { d with loops := (List.range d.loops.length).map fun j =>
      let r := d.loops.getD j 0
      if j + 1 = i then loopSet r (loopCount r + 1) else if i ≤ j then loopSet r 0 else r }

/-- The control token of the present iteration: lane n holds the index of level n. -/
def Drum.token (d : Drum) : Value :=
  BitVec.ofNat 128 ((List.range d.depth).foldl (fun v i => v + wrapTo 32 (loopIndex (d.loops.getD i 0)) * 2 ^ (32 * i)) 0)

/-- TAG after one token: the next wave with WINC. -/
def nextTag (tag : BitVec 48) : BitVec 48 :=
  if tag.getLsbD 40 then tag.extractLsb' 40 8 ++ (tag.extractLsb' 16 24 + 1) ++ tag.extractLsb' 0 16 else tag

/-- After an emission: the innermost level counts it. -/
def Drum.advance (d : Drum) : Drum :=
  let r := d.loops.getD (d.depth - 1) 0
  { d with loops := setAt d.loops (d.depth - 1) (loopSet r (loopCount r + 1)), tag := nextTag d.tag }

def Share.modDrum (h : Share) (n : BitVec 13) (f : Drum → Drum) : Share :=
  { h with drums := updFirst (fun (d : Drum) => d.num == n) f h.drums }

/-- DRUM_EMIT (R62): one control token to dest1, as a firing of the drum's slot; or a level that has run out is left. -/
def execDrumEmit (c : CtxId) (l : Nat) (n : BitVec 13) (s : State) : Out :=
  .next <| match s.active c with
    | none => s
    | some k =>
      match (k.share l).drums.find? fun d => d.num == n && d.running with
      | none => s
      | some d =>
        let t : ThreadId := d.tag.extractLsb' 0 16
        let w : WaveId := d.tag.extractLsb' 16 24
        match d.isOver, d.runOut with
        | true, _ => s
        | false, some i => s.setCtx (k.modShare l fun h => h.modDrum n fun d => d.carry i)
        | false, none =>
          match k.injection t w with
          | .wait => s
          | .go =>
            match (k.th t).bind fun x => k.placedAt x d.blk with
            | none => s
            | some p =>
              let dom := k.seatOf p * 16 + ((p.at_[d.slot]?).map (·.1) |>.getD 0) / 8
              let urg := (p.slots[d.slot]?).map (·.urgent) == some true
              if !s.powered dom || (k.gateShut l && d.tag.getLsbD 40) then s
              else
                let k1 := k.modShare l fun h => h.modDrum n Drum.advance
                let tok := (Em.plain [] d.token w).token t urg
                let k2 := (([dest1 d.t d.slot].filterMap (k.leads p t)).foldl
                  (fun k q => k.enter ⟨q.1, q.2, tok, false, false⟩ .outside false) k1)
                (s.setCtx ((((k2.perfAdd l 0 1).perfAdd l 1 (if urg then 1 else 0)).charge (k.seatOf p) 1 0).touchBlock p s.tick)).usePower dom
          | bad => s.setCtx ((k.modShare l fun h => h.modDrum n fun d => { d with ctl := d.ctl &&& ~~~8#32 }).injectFault bad t w d.blk 6 n.toNat)

/-- DRUM_END (R61): RUN falls, DONE is set, and the sequencer-end inputs pulse. -/
def execDrumEnd (c : CtxId) (l : Nat) (n : BitVec 13) (s : State) : Out :=
  .next <| s.modActive c fun k =>
    if (k.share l).drums.any fun d => d.num == n && d.running && d.isOver then
      k.modShare l fun h => (h.modDrum n fun d => { d with ctl := (d.ctl &&& ~~~8#32) ||| 16 }).pulseKind 4 n.toNat
    else k

/-! ### Stream units (02 R63, R64, 04 R124, 14 R391, R392) -/

/-- The lowest offending bit of a pattern record, within its word. -/
def patternBad (b : List Byte) : Option Nat :=
  let ctl := fieldAt b 0 4
  ((setBits ctl 32).find? fun i => i < 8 || i = 31).or <|
    (if bits ctl 28 26 > 4 then some 26 else none).or <|
      (if bits ctl 19 18 = 0 && bits ctl 17 16 != 0 then some 16 else none).or <|
        ((setBits (fieldAt b 4 4) 32).head?).or <| ((setBits (fieldAt b 8 8) 64).find? (56 ≤ ·)).or <|
          ((setBits (fieldAt b 0x30 8) 64).find? (41 ≤ ·)).or ((setBits (fieldAt b 0x38 8) 64).head?)

/-- STRCFG (R391). -/
def execStrcfg (t : Tmpl) (x : FormX) (s : State) : Out :=
  .next (s.fireRecord t x patternBad fun f b => f.hold .strcfg x 0 b)

def dimCount (d : BitVec 64) : Nat := (d.extractLsb' 0 32).toNat
def dimStride (d : BitVec 64) : Int := signed 32 (d.extractLsb' 32 32).toNat

/-- The unit a pattern record configures. -/
def agenOf (b : List Byte) (blk : Addr) : Agen :=
  { ctl := BitVec.ofNat 32 (fieldAt b 0 4), base := BitVec.ofNat 64 (fieldAt b 8 8),
    dims := (List.range 4).map fun i => BitVec.ofNat 64 (fieldAt b (0x10 + 8 * i) 8), pos := 0,
    tag := BitVec.ofNat 48 (fieldAt b 0x30 8), blk := blk, faulted := false, part := [] }

def Agen.used (u : Agen) : List (BitVec 64) := u.dims.take ((u.ctl.extractLsb' 24 2).toNat + 1)

/-- The pattern of a unit as a thread's STRGO sees it: its own last STRCFG not yet performed, else the unit's (R392). -/
def Ctx.pattern (k : Ctx) (x : Thread) (w : WaveId) (lcl n : Nat) : Option Agen :=
  let mine (d : DefOp) : Option Agen := if d.act == .strcfg && d.x.var.toNat % 4 == n then some (agenOf d.data d.blk) else none
  let ds := (k.committed.filterMap fun c => match c.item with
      | .dfr d => if c.thread == x.num && c.born == x.born then mine d else none
      | .mem _ => none)
    ++ (x.inOrder.filter fun v => notOlder v.num w).flatMap fun v => v.defs.filterMap mine
  ds.getLast?.or (tget (k.share lcl).agens n)

/-- STRGO (R392): RESERVED-FIELD when a used COUNT is 0. -/
def execStrgo (t : Tmpl) (x : FormX) (s : State) : Out :=
  .next (s.fireX t x false fun f =>
    match f.k.pattern f.x f.w f.p.lcl (x.var.toNat % 4) with
    | none => rfAt 4 0
    | some u => if u.used.any fun d => dimCount d = 0 then rfAt 4 0 else f.hold .strgo x 0 [])

/-- STRSTOP (R392). -/
def execStrstop (t : Tmpl) (x : FormX) (s : State) : Out := .next (s.fireX t x false fun f => f.hold .strstop x 0 [])

/-- STRSTOP at commit. -/
def Share.stopStream (h : Share) (n : Nat) : Share :=
  { h with agens := h.agens.map fun e => if e.1 = n then (n, { e.2 with ctl := e.2.ctl &&& 0x7FFFFFFF, faulted := false, part := [] }) else e }

def Agen.running (u : Agen) : Bool := u.ctl.getLsbD 31
def Agen.idx (u : Agen) (i : Nat) : Nat := vbits u.pos (32 * i + 31) (32 * i)

/-- The pattern is exhausted: the outermost index has reached its COUNT, or a used COUNT is 0. -/
def Agen.isOver (u : Agen) : Bool :=
  u.used.any (fun d => dimCount d = 0)
    || decide (u.idx (u.used.length - 1) ≥ dimCount (u.used.getD (u.used.length - 1) 0))

/-- The exact address of the present element (R64). -/
def Agen.address (u : Agen) (index : Value) : Int :=
  let a : Int := (u.base.extractLsb' 0 56).toNat
  if u.ctl.getLsbD 29 then a + signed 64 (lo64 index).toNat * ((2 ^ (u.ctl.extractLsb' 8 4).toNat : Nat) : Int)
  else (List.range u.used.length).foldl (fun s i => s + (u.idx i : Int) * dimStride (u.used.getD i 0)) a

/-- The indices after one element, from dimension i on: a wrapped dimension carries, but for the outermost used one. -/
def stepIdx (dims : List (BitVec 64)) : List Nat → Nat → List Nat
  | [], _ => []
  | v :: r, i =>
    if i + 1 ≥ dims.length || v + 1 < dimCount (dims.getD i 0) then (v + 1) :: r else 0 :: stepIdx dims r (i + 1)

def packIdx (l : List Nat) : BitVec 128 :=
  BitVec.ofNat 128 ((List.range l.length).foldl (fun v i => v + l.getD i 0 % 2 ^ 32 * 2 ^ (32 * i)) 0)

/-- The unit at its next element; the wave advances after each innermost row (R63). -/
def Agen.advance (u : Agen) : Agen :=
  let last := u.idx 0 + 1 ≥ dimCount (u.used.getD 0 0)
  { u with pos := packIdx (stepIdx u.used ((List.range 4).map u.idx) 0), tag := if last then nextTag u.tag else u.tag }

def Share.setAgen (h : Share) (n : Nat) (u : Agen) : Share := { h with agens := tset h.agens n u }

/-- The oldest token of a thread's wave at an output port that the unit drains. -/
def Ctx.drainTok (k : Ctx) (u : Agen) (port : Nat) : Option Arrived :=
  k.tokens.find? fun a => a.blk == u.blk && a.dst == .out port && a.tok.thread == u.tag.extractLsb' 0 16
    && a.tok.wave == u.tag.extractLsb' 16 24 && !a.held

/-- The access of the present element. -/
def Agen.access (u : Agen) (addr : Nat) (v : Value) : MemOp :=
  { act := if u.ctl.getLsbD 30 then .st else .ld
    m := { pred := 0xFF, own := 0xFF, succ := 0xFF, sz := u.ctl.extractLsb' 26 3, ord := u.ctl.extractLsb' 18 2,
           scp := u.ctl.extractLsb' 16 2, q := false }
    rt := { act := .pass, urg := false, to1 := [], to2 := [] }, blk := u.blk, slot := 0, seen := default, out := u.tag.extractLsb' 16 24,
    a := BitVec.ofNat 128 addr, b := v, c := 0, ps := [], entered := true, bound := true, parked := false, data := []
    part := u.part }

/-- A stream fault: RUN falls, POS stays, and the fault is the thread's, in the token's wave (R64). -/
def Ctx.streamFault (k : Ctx) (l n : Nat) (u : Agen) (x : Thread) (w : WaveId) (e : Fail) (addr : BitVec 64) : Ctx :=
  (k.modShare l fun h => h.setAgen n { u with ctl := u.ctl &&& 0x7FFFFFFF, faulted := true, part := [] }).raise x.num
    (k.bareRec x u.blk w e.code 3 e.detail addr)

/-- The element that a running loader reads next lies in host memory reached through CXL.io. -/
def State.nextIsIo (s : State) (k : Ctx) (l : Nat) (u : Agen) : Bool :=
  let index := if u.ctl.getLsbD 29 then k.drainTok u (u.ctl.extractLsb' 12 4).toNat else none
  let addr := u.address ((index.map (·.tok.value)).getD 0)
  decide (0 ≤ addr) && match translate s.mem k (k.phys l) addr.toNat with
    | .ok t => t.place == .hostIo
    | .error _ => false

/-- A stream unit is still to read an element for an earlier wave of the thread, and operation o of wave w comes after it: the read is
an acquire, o is a fence that acquires, or both go through CXL.io (04 R109, R113, R117, R124). -/
def State.loaderAhead (s : State) (k : Ctx) (x : Thread) (w : WaveId) (o : MemOp) : Bool :=
  k.shares.any fun h => h.agens.any fun e =>
    e.2.running && !e.2.isOver && !e.2.ctl.getLsbD 30 && e.2.tag.extractLsb' 0 16 == x.num && older (e.2.tag.extractLsb' 16 24) w
      && (acquires (e.2.ctl.extractLsb' 18 2) || o.act == .fence
        || (o.ps.any (·.tr.place == .hostIo) && s.nextIsIo k h.lcl e.2))

/-- A loader's element must wait for memory. -/
def State.feedBlocked (s : State) (k : Ctx) (o : MemOp) : Bool :=
  o.ps.any (fun p => pieceWaits s.mem k p false) || (o.part.isEmpty && s.logFull k.num o.ps (kRead ||| kStream))

/-- A loader's element must wait: at a gate, for an order, or for memory. -/
def State.feedWaits (s : State) (k : Ctx) (l : Nat) (x : Thread) (w : WaveId) (o : MemOp) : Bool :=
  k.gateShut l || k.loadHeld x w o || s.loaderAhead k x w o || s.feedBlocked k o

/-- A loader's element has its value: its acquire discards, and its token enters the block in the wave given (R124). The tokens
that gave its index are consumed. -/
def State.fed (s : State) (c : CtxId) (l n : Nat) (u : Agen) (t : ThreadId) (w : WaveId) (o : MemOp) (used : List Arrived)
    (b : List Byte) : State :=
  ({ s with mem := s.mem.acquire ((s.ctx c).map (·.phys l) |>.getD 0) o.m.ord o.m.scp } : State).modCtx c fun k =>
    ((({ k with tokens := used.foldl (fun ts a => dropFirst (· == a) ts) k.tokens } : Ctx).modShare l fun h =>
        h.setAgen n { u.advance with part := [] }).enter
      (outsideToken t w u.blk (u.ctl.extractLsb' 20 4).toNat (BitVec.ofNat 128 (leNat b))) .outside false)

/-- A loader reads its element, or one byte of it (R111): energy, log and misses are those of the whole, with its first byte. -/
def State.feed (s : State) (k : Ctx) (l n pick : Nat) (u : Agen) (x : Thread) (w : WaveId) (o : MemOp) (used : List Arrived) :
    State :=
  let clu := k.phys l
  let s1 := (if o.part.isEmpty then s.account k.num l clu (kRead ||| kStream) o.ps else s).scBefore k.num clu o
  if o.torn then
    let i := o.nextByte (pick % 16)
    let (s2, b) := s1.seenBytes k x w o ((o.bytePieces[i]?).toList)
    let o1 := o.withByte i (b.headD 0)
    if o1.part.length ≥ o.size then s2.fed k.num l n u x.num w o used o1.collected
    else s2.modCtx k.num fun k => k.modShare l fun h => h.setAgen n { u with part := o1.part }
  else
    let (s2, b) := s1.seenBytes k x w o o.ps
    s2.fed k.num l n u x.num w o used b

/-- A loader's element of which some bytes are read is finished, before its unit stops (02 R63); none while the rest must wait. -/
def State.endElement (s : State) (k : Ctx) (l n : Nat) : Option State :=
  match (tget (k.share l).agens n).filter fun u => u.running && !u.part.isEmpty with
  | none => some s
  | some u =>
    let w : WaveId := u.tag.extractLsb' 16 24
    let index := if u.ctl.getLsbD 29 then k.drainTok u (u.ctl.extractLsb' 12 4).toNat else none
    let o := u.access (u.address ((index.map (·.tok.value)).getD 0)).toNat 0
    match k.th (u.tag.extractLsb' 0 16), s.probePlain k l o with
    | some x, .ok ps =>
      let o1 := { o with ps := ps }
      if s.feedBlocked k o1 then none
      else
        let left := (List.range o1.size).filter fun i => !(u.part.any (·.1 == i))
        let r := left.foldl (fun (q : State × MemOp) i =>
          let (t, b) := q.1.seenBytes k x w o1 ((o1.bytePieces[i]?).toList)
          (t, q.2.withByte i (b.headD 0))) (s, o1)
        some (r.1.fed k.num l n u x.num w o1 index.toList r.2.collected)
    | _, _ => some s

/-- An error that the step's free argument brings along: none, or one of the four codes. -/
def eccOf (pick : Nat) : Option (BitVec 2) := if pick / 16 % 5 = 0 then none else some (BitVec.ofNat 2 (pick / 16 % 5 - 1))

/-- STREAM_ELEMENT (R64): one element fed or drained, or one byte of one fed. `pick` names the byte, and an error met in what a loader
reads (03 R95). -/
def execStreamElement (c : CtxId) (l n pick : Nat) (s : State) : Out :=
  .next <| match s.active c with
    | none => s
    | some k =>
      match tget (k.share l).agens n with
      | none => s
      | some u =>
        let t : ThreadId := u.tag.extractLsb' 0 16
        let w : WaveId := u.tag.extractLsb' 16 24
        let index := if u.ctl.getLsbD 29 then k.drainTok u (u.ctl.extractLsb' 12 4).toNat else none
        let data := if u.ctl.getLsbD 30 then k.drainTok u (u.ctl.extractLsb' 20 4).toNat else none
        if !u.running || u.isOver || (u.ctl.getLsbD 30 && data.isNone) then s
        else match k.injection t w, k.th t with
          | .go, some x =>
            if u.ctl.getLsbD 29 && index.isNone then s
            else
              let addr := u.address ((index.map (·.tok.value)).getD 0)
              if addr < 0 || addr ≥ 2 ^ 56 then
                s.setCtx (k.streamFault l n u x w (transFail 0 3) (BitVec.ofNat 64 (wrapTo 64 addr)))
              else
                let o := u.access addr.toNat ((data.map (·.tok.value)).getD 0)
                match s.probePlain k l o with
                | .error e => s.setCtx (k.streamFault l n u x w e (BitVec.ofNat 64 addr.toNat))
                | .ok ps =>
                  let used := index.toList ++ data.toList
                  let k1 := { k with tokens := used.foldl (fun ts a => dropFirst (· == a) ts) k.tokens }
                  let o1 := { o with ps := ps }
                  if u.ctl.getLsbD 30 then
                    s.setCtx ((k1.modWv t w fun v => { v with drains := v.drains ++ [o1] }).modShare l fun h => h.setAgen n u.advance)
                  else if s.feedWaits k l x w o1 then s
                  else match readError s.mem ps ((eccOf pick).filter (· != 3)) with
                    | some d => (s.spend k.num l (k.phys l) false ps).modCtx c fun k =>
                        k.streamFault l n u x w ⟨0x0F, d.zeroExtend 24⟩ (BitVec.ofNat 64 addr.toNat)
                    | none => (s.corrected ps (eccOf pick)).feed k l n pick u x w o1 used
          | .wait, _ => s
          | bad, _ => s.setCtx ((k.modShare l fun h => h.setAgen n { u with ctl := u.ctl &&& 0x7FFFFFFF }).injectFault bad t w u.blk 3 n)

/-- STREAM_END (R392): RUN falls and the stream-end inputs pulse; the pattern stands at its first element again. -/
def execStreamEnd (c : CtxId) (l n : Nat) (s : State) : Out :=
  .next <| s.modActive c fun k =>
    match tget (k.share l).agens n with
    | none => k
    | some u =>
      if u.running && u.isOver then
        k.modShare l fun h => (h.setAgen n { u with ctl := u.ctl &&& 0x7FFFFFFF, pos := 0 }).pulseKind 3 n
      else k

/-! ### Deferred instructions of these units at commit (R368) -/

def State.doUnits (s : State) (k : Ctx) (me : Committed) (d : DefOp) : Perf :=
  let share (f : Share → Share) : Perf := .done (s.setCtx (k.modShare me.lcl f)) 0 0
  let n := d.x.var.toNat % 4
  let stopped (f : Share → Share) : Perf := match s.endElement k me.lcl n with
    | some t => .done (t.modCtx k.num fun k => k.modShare me.lcl f) 0 0
    | none => .wait s
  match d.act with
  | .rinit => s.doRinit k me d
  | .radv => s.doRadv k me d
  | .strcfg => stopped fun h => (h.stopStream n).setAgen n (agenOf d.data d.blk)
  | .strgo => share fun h => h.goStream n
  | .strstop => stopped fun h => h.stopStream n
  | .sqcfg => .done (s.setCtx (k.makeDrum me d)) 0 0
  | .sqgo => share fun h => h.goDrum (vbits d.a 12 0)
  | .chwire => share fun h => { h with chime := h.chime.wire n d.x.chin.toNat d.cfv }
  | .chset => share fun h => { h with chime := h.chime.set d.x.var.toNat d.x.chin.toNat d.a }
  | .chpulse => share fun h => h.pulse d.x.chin.toNat
  | _ => .done s 0 0

end Sys2Proof.Machine
end

