-- ==== Sys2Proof/Machine/Matrix.lean ====
section
/-! DEFINITION. The matrix path (01 R39, 02 R57 to R60, 08 R218, R219, 09 R249 to R257, 14 R369 to R382): the commands
of a domain's queue, their firings, rows, weights, tiles, reduction nodes and releases. -/

namespace Sys2Proof.Machine

/-! ### Domains -/

def Ctx.dom (k : Ctx) (l d : Nat) : Dom := (k.share l).dom d
def Ctx.modDom (k : Ctx) (l d : Nat) (f : Dom → Dom) : Ctx := k.modShare l fun h => h.setDom d (f (h.dom d))

/-- The domain of its cluster that a placed block's slot lies in. -/
def Placed.domOf (p : Placed) (i : Nat) : Nat := ((p.at_[i]?).map (·.1) |>.getD 0) / 8

def Dom.tile (d : Dom) (t : Nat) : List (BitVec 64) := (tget d.tiles t).getD (List.replicate 384 0)
def Dom.cfg (d : Dom) (t : Nat) : BitVec 64 := tgetD d.cfgs t 0
/-- A tile written; one whose elements are all zero is not listed. -/
def Dom.setTile (d : Dom) (t : Nat) (es : List (BitVec 64)) : Dom :=
  { d with tiles := if es.all (· == 0) then tdel d.tiles t else tset d.tiles t es }
def Dom.setCfg (d : Dom) (t : Nat) (c : BitVec 64) : Dom := { d with cfgs := tset d.cfgs t c }

/-! ACC.CFG fields (02 R59). -/

def cfNode (c : BitVec 64) : Bool := c.getLsbD 63
def cfFmt (c : BitVec 64) : Nat := (c.extractLsb' 61 2).toNat
def cfHold (c : BitVec 64) : Bool := c.getLsbD 60
def cfTk (c : BitVec 64) : Bool := c.getLsbD 59
def cfEor (c : BitVec 64) : Nat := (c.extractLsb' 47 12).toNat
def cfSeen (c : BitVec 64) : Nat := (c.extractLsb' 35 12).toNat
def cfTgt (c : BitVec 64) : BitVec 8 := c.extractLsb' 27 8
def cfNext (c : BitVec 64) : BitVec 24 := c.extractLsb' 0 24
def cfSetEor (c : BitVec 64) (n : Nat) : BitVec 64 := c.extractLsb' 59 5 ++ BitVec.ofNat 12 n ++ c.extractLsb' 0 47
def cfSetSeen (c : BitVec 64) (n : Nat) : BitVec 64 := c.extractLsb' 47 17 ++ BitVec.ofNat 12 n ++ c.extractLsb' 0 35
def cfSetNext (c : BitVec 64) (n : BitVec 24) : BitVec 64 := c.extractLsb' 24 40 ++ n

/-- A sequence tag lies behind NEXTSEQ: a duplicate (R60). -/
def behind (tag next : BitVec 24) : Bool := decide ((tag - next).toNat ≥ 0x800000)

/-- The tile's release falls due when SEEN has reached EORCNT (R60). -/
def Dom.dueAt (d : Dom) (t : Nat) : Dom :=
  let c := d.cfg t
  if cfNode c && cfSeen c > 0 && cfEor c ≤ cfSeen c && !d.dues.contains t then { d with dues := d.dues ++ [t] } else d

/-! ### Row formats (09 R243, R249, R250, 14 R373) -/

/-- Bytes of a BQ record of a format tag. -/
def recBytes (tag : Nat) : Nat := 1 + 4 * bqBits tag

def isHalf (tag : Nat) : Bool := tag ≥ 6
def isBq (tag : Nat) : Bool := tag ≤ 3

/-- Payload bytes of k stored elements. -/
def payBytes (tag k : Nat) : Nat :=
  if isBq tag then (k + 31) / 32 * recBytes tag else if isHalf tag then 2 * k else k

def pad16 (n : Nat) : Nat := (n + 15) / 16 * 16

/-- A row of k elements can be laid out in a format: whole records in a BQ format. -/
def fitsFormat (tag k : Nat) : Bool := !isBq tag || k % 32 == 0

/-- The row length L of k stored elements. -/
def rowLen (tag k : Nat) (sparse : Bool) : Nat :=
  16 + pad16 (payBytes tag k) + (if sparse then pad16 ((2 * k + 7) / 8) else 0)

/-- The format tag of a row's header, if it is well formed. -/
def rowTag (row : List Byte) : Option Nat :=
  let h := row.headD 0
  if h.extractLsb' 3 5 = 0 && (row.take 16).tail.all (· == 0) then some h.toNat else none

/-- The shape a format loads as (02 R57), and the limits of R374. -/
def shapeOf (tag : Nat) : Nat := if tag = 2 then 1 else if tag = 3 then 2 else if isHalf tag then 3 else 0
def shapeK (shape : Nat) : Nat := match shape with | 0 => 128 | 1 => 256 | 2 => 512 | _ => 64
def shapeN (shape : Nat) : Nat := if shape = 3 then 24 else 48

/-- The class of a pair of formats: 1 integer, 2 narrow float, 3 half (R250). -/
def classOf (act wt : Nat) : Nat :=
  if isBq act && isBq wt then 1 else if isHalf act || isHalf wt then 3 else 2

/-- Element i of a row as mantissa and exponent byte of its BQ record. -/
def bqAt (tag : Nat) (row : List Byte) (i : Nat) : Nat × Nat :=
  let b := bqBits tag
  let base := 16 + i / 32 * recBytes tag
  (fieldAt row (base + 1) (4 * b) / 2 ^ (b * (i % 32)) % 2 ^ b, fieldAt row base 1)

/-- The floating format of a tag from 4 on. -/
def fmtOfTag (tag : Nat) : Fmt := match tag with | 4 => fmtOf 11 | 5 => fmtOf 12 | 6 => fmtOf 1 | _ => fmtOf 2

/-- Every finite element of a format is a multiple of 2 to this power. -/
def grain (tag : Nat) : Int := if isBq tag then -127 else (fmtOfTag tag).emin - (fmtOfTag tag).fb

/-- Element i of a row as its exact value (R250). -/
def elemAt (tag : Nat) (row : List Byte) (i : Nat) : FV :=
  if isBq tag then let (m, xb) := bqAt tag row i; bqValue (bqBits tag) xb m
  else if isHalf tag then decodeF (fmtOfTag tag) (fieldAt row (16 + 2 * i) 2)
  else decodeF (fmtOfTag tag) (fieldAt row (16 + i) 1)

/-- The integer mantissa of element i of a BQ row. -/
def mantAt (tag : Nat) (row : List Byte) (i : Nat) : Int := signed (bqBits tag) (bqAt tag row i).1

/-- The logical position of a stored element of a weight row: its own, or that its index gives (R373). -/
def Weights.position (w : Weights) (row : List Byte) (e : Nat) : Nat :=
  if w.sparse then
    let byte := (row.getD (16 + pad16 (payBytes w.fmt w.k) + e / 4) 0).toNat
    4 * (e / 2) + byte / 2 ^ (2 * (e % 4)) % 4
  else e

/-! ### One pass of a row against a column (09 R251 to R253, R256) -/

/-- FP32 bits of an exact sum; a sum that is exactly zero is +0 (R252). -/
def passSum (ts : List FV) : Nat :=
  match sumExact 0 ts with
  | .num _ 0 _ _ => 0
  | x => (deliver (fmtOf 0) 0 false x).1

/-- An FP32 addition, and multiplication, rounded once, without flags (R254). -/
def addF32 (a b : Nat) : Nat := (deliver (fmtOf 0) 0 false (sumExact 0 [decodeF (fmtOf 0) a, decodeF (fmtOf 0) b])).1
def mulF32 (a b : Nat) : Nat := (deliver (fmtOf 0) 0 false (mulFV (decodeF (fmtOf 0) a) (decodeF (fmtOf 0) b)).exact).1

/-- The exponent of the leading bit of the largest nonzero finite product, if there is one. -/
def largest (ps : List FV) : Option Int :=
  ps.foldl (fun b p => match p with
    | .fin _ m e => if m = 0 then b else some (match b with | some x => max x (leadExp m e) | none => leadExp m e)
    | _ => b) none

/-- A product with every bit of weight below 2^cut removed. -/
def keepFrom (cut : Int) : FV → FV
  | .fin n m e => if e ≥ cut then .fin n m e else .fin n (m / 2 ^ (cut - e).toNat) cut
  | x => x

/-- One segment of the half class. -/
def halfSegment (ps : List FV) : Nat :=
  match largest ps with
  | none => passSum ps
  | some big => passSum (ps.map (keepFrom (big - 40)))

/-- A list cut into runs of n; `fuel` bounds their number. -/
def chunks {α : Type} (n : Nat) : Nat → List α → List (List α)
  | 0, _ => []
  | fuel + 1, l => if l.isEmpty then [] else l.take n :: chunks n fuel (l.drop n)

/-- The pass result of the half class: segments of eight products summed in order. Beside an 8-bit or BQ stationary operand K used may
exceed the 64 positions of R253's pass, and N the 24 columns of R250: one pass over all of them (DESIGN CHOICE, log entry 138). -/
def halfPass (ps : List FV) : Nat :=
  match (chunks 8 ps.length ps).map halfSegment with
  | [] => 0
  | x :: r => r.foldl addF32 x

/-- The stored elements of column n that a pass of K logical positions uses, with those positions. -/
def Weights.used (w : Weights) (row : List Byte) (k : Nat) : List (Nat × Nat) :=
  ((List.range w.k).map fun e => (e, w.position row e)).filter fun q => q.2 < k

/-- The segment sums of the integer class, `segs` of them. -/
def intPass (w : Weights) (col act : List Byte) (tag k segs : Nat) : List Int :=
  let us := w.used col k
  (List.range segs).map fun j =>
    (us.filter fun q => q.2 / 32 == j).foldl (fun (x : Int) q => x + mantAt tag act q.2 * mantAt w.fmt col q.1) 0

/-- The products of the float classes, in stored order. -/
def products (w : Weights) (col act : List Byte) (tag k : Nat) : List FV :=
  (w.used col k).map fun q => mulFV (elemAt tag act q.2) (elemAt w.fmt col q.1)

/-- The pass result of the float classes. -/
def floatPass (cls : Nat) (ps : List FV) : Nat := if cls = 3 then halfPass ps else passSum ps

/-! ### The checksum column (08 R218) -/

/-- Logical positions a weight row covers. -/
def Weights.span (w : Weights) : Nat := if w.sparse then 2 * w.k else w.k

/-- The stored elements of a column spread over the logical positions, added to what stands there. -/
def Weights.spread (w : Weights) (f : Nat → Int) (row : List Byte) (sums : List Int) : List Int :=
  if w.sparse then
    (List.range w.k).foldl (fun xs e => let p := w.position row e; setAt xs p (xs.getD p 0 + f e)) sums
  else List.zipWith (· + ·) sums ((List.range w.k).map f)

/-- Loaded weights with their checksum column: the exact sums over the columns. -/
def Weights.ofRows (tag : Nat) (sparse : Bool) (k : Nat) (rows : List (List Byte)) : Weights :=
  let w : Weights := { fmt := tag, sparse := sparse, k := k, rows := rows, mantSums := [], valSums := [] }
  let none_ : List Int := List.replicate w.span 0
  { w with
    mantSums := if isBq tag then rows.foldl (fun xs r => w.spread (mantAt tag r) r xs) none_ else none_
    valSums := rows.foldl (fun xs r => w.spread (fun e => (elemAt tag r e).units (grain tag)) r xs) none_ }

/-- What an error adds. -/
def Glitch.term (g : Glitch) : FV := .fin g.neg g.mant g.exp

/-- A whole number of grains as an exact value. -/
def ofGrains (tag : Nat) (x : Int) : FV := .fin (x < 0) x.natAbs (grain tag)

def FV.abs : FV → FV
  | .fin _ m e => .fin false m e
  | x => x

def FV.finite : FV → Bool
  | .fin _ _ _ => true
  | _ => false

/-- The elements of an activation row that a pass uses. -/
def actElems (tag k : Nat) (row : List Byte) : List FV := (List.range k).map (elemAt tag row)

/-- The products of an activation row with the checksum column. -/
def checkProducts (w : Weights) (tag k : Nat) (row : List Byte) : List FV :=
  List.zipWith (fun a x => mulFV a (ofGrains w.fmt x)) (actElems tag k row) w.valSums

/-- The checksum output of segment j of the integer class. -/
def checkSegment (w : Weights) (tag k j : Nat) (row : List Byte) : Int :=
  ((List.range (min k w.mantSums.length)).filter fun p => p / 32 = j).foldl
    (fun (x : Int) p => x + mantAt tag row p * w.mantSums.getD p 0) 0

/-- S of R218: the sum of |a(k)| times the sum of |w(k, c)|, rounded upward to FP32. -/
def checkScale (ps : List FV) : Nat := (deliver (fmtOf 0) 3 false (sumExact 3 (ps.map FV.abs))).1

/-- |out − chk| ≤ 2^−14 × S, exactly; an S that the rounding upward takes to +∞ bounds nothing. -/
def withinBound (out chk s : Nat) : Bool :=
  let f := decodeF (fmtOf 0)
  let lo := leastExp [f out, f chk, f s] - 14
  !(f s).finite || decide (((f out).units lo - (f chk).units lo).natAbs * 2 ^ 14 ≤ ((f s).units lo).natAbs)

/-- The array's check of one activation row (R218): equal exact sums, or the bound of the half class. No correct result fails
it: values that are not finite are not compared (DEDUCED, log entry 98). -/
def checkPasses (w : Weights) (tag cls k segs : Nat) (row : List Byte) (added : List FV) (outs : List (List Int × Nat)) : Bool :=
  let ps := w.rows.flatMap fun col => products w col row tag k
  if cls = 1 then
    (List.range segs).all fun j => outs.foldl (fun (x : Int) o => x + o.1.getD j 0) 0 == checkSegment w tag k j row
  else if !(ps.all FV.finite) then true
  else if cls = 2 then
    match sumExact 0 (ps ++ added ++ (checkProducts w tag k row).map FV.negate) with
    | .num _ m _ _ => m = 0
    | _ => true
  else
    let out := (outs.map (·.2)).foldl addF32 0
    let chk := halfPass (checkProducts w tag k row)
    !((decodeF (fmtOf 0) out).finite && (decodeF (fmtOf 0) chk).finite) || withinBound out chk (checkScale ps)

/-! ### The control token of MMA and MMASP (14 R375) -/

def DomCmd.rows (c : DomCmd) : Nat := (vbits c.a 11 6 + 1) * 8
def DomCmd.kUsed (c : DomCmd) : Nat := vbits c.a 21 12 + 1
def DomCmd.nUsed (c : DomCmd) : Nat := vbits c.a 27 22 + 1
def DomCmd.acc (c : DomCmd) : Bool := c.a.getLsbD 32
def DomCmd.decay (c : DomCmd) : Bool := c.a.getLsbD 33
def DomCmd.holdElems (c : DomCmd) : Bool := c.a.getLsbD 34
def DomCmd.eorn (c : DomCmd) : Nat := vbits c.a 47 36
def DomCmd.seqTag (c : DomCmd) : BitVec 24 := c.a.extractLsb' 64 24
def DomCmd.bus (c : DomCmd) : Bool := c.a.getLsbD 92
def DomCmd.first (c : DomCmd) : Nat := c.x.tile.toNat + vbits c.a 5 0
def DomCmd.target (c : DomCmd) (d : Nat) : Nat := if c.bus then vbits c.a 91 88 else d
def DomCmd.cwoff (c : DomCmd) : Nat := vbits c.a 118 96

/-- Segments a pass yields, by the shape of the weights (R251), doubled for MMASP (R256). -/
def Dom.segments (d : Dom) (sparse : Bool) : Nat :=
  let s := match (d.wdesc.extractLsb' 29 2).toNat with | 1 => 8 | 2 => 16 | _ => 4
  if sparse then 2 * s else s

/-- Tiles per 8 rows: 1 in the float classes, half the segments in the integer class. -/
def Dom.groupOf (d : Dom) (c : DomCmd) (cls : Nat) : Nat := if cls = 1 then d.segments (c.act == .mmasp) / 2 else 1

/-- The tiles a token writes. -/
def Dom.written (d : Dom) (c : DomCmd) (cls : Nat) : List Nat :=
  (List.range (c.rows / 8 * d.groupOf c cls)).map (c.first + ·)

/-! ### Completion words (14 R369) -/

def wordOf (status : BitVec 8) (detail : BitVec 24) (count : Nat) : List Byte :=
  leBytes 4 count ++ leBytes 3 detail.toNat ++ [status]

/-- PROTECTION's REASON 5 as a status 8 (R369). -/
def badShape : BitVec 8 × BitVec 24 := (8, lrDetail 0 5)

/-- The completion word can be written now: its granule is not consume-held (03 R88). -/
def Share.wordFree (h : Share) (off : Nat) : Bool := !(h.heldRun off 8)

/-- A command of a domain ends: its wave is let go, and if the word can be written it is, the command leaves its queue
and its chime input pulses; else it stays with its status. -/
def Ctx.endDom (k : Ctx) (l d : Nat) (c : DomCmd) (e : BitVec 8 × BitVec 24) : Ctx :=
  let k0 := if c.hold then k.paid c.thread c.wave else k
  let c1 := { c with hold := false, rel := [], fin := some e }
  if (k.share c.lcl).wordFree c.cwoff then
    let k1 := ((k0.modDom l d fun q => { q with queue := dropFirst (· == c) q.queue }).fillRun c.lcl c.cwoff
      (wordOf e.1 e.2 c.done)).charge (k.phys c.lcl) 2 0
    let k2 := if c.x.chen && (c.act == .wload || c.act == .mma || c.act == .mmasp)
      then k1.modShare c.lcl fun h => h.pulseEngine c.x.chin.toNat else k1
    k2.modeFall l d
  else k0.modDom l d fun q => { q with queue := updFirst (· == c) (fun _ => c1) q.queue }

/-! ### Firings (14 R370, R374 to R376, R380 to R382) -/

/-- CWOFF's checks: bits 22:3 alone, in a tile that no engine holds or is about to (R369). -/
def Fire.wordBad (f : Fire) (cw base : Nat) : Option Sem :=
  match (setBits cw 3).head? with
  | some i => some (rfAt 4 (base + i))
  | none =>
    let h := f.k.share f.p.lcl
    if h.engineTile (cw / 4096) || h.reservedTile (cw / 4096) then some (.raise 0x0A (BitVec.ofNat 24 (cw / 4096)) 0) else none

/-- The command a firing issues. -/
def Fire.command (f : Fire) (act : DomAct) (x : FormX) : DomCmd :=
  { act := act, x := x, a := f.q.a, b := f.q.b, cfv := f.cfv x, thread := f.x.num, born := f.x.born, wave := f.w, blk := f.p.blk,
    slot := f.i, done := 0, accepted := false, cls := 0, turn := false, cancel := false, hold := false, rel := [], fin := none,
    lcl := f.p.lcl }

/-- The domain that holds the block of a firing (14 R367). -/
def Fire.dom (f : Fire) : Dom := f.k.dom f.p.seat (f.p.domOf f.i)

/-- Adds a command to its domain's queue, holding the firing's wave when it says so. -/
def Fire.enqueue (f : Fire) (c : DomCmd) (k : Ctx) : Ctx :=
  let k1 := k.modDom f.p.seat (f.p.domOf f.i) fun q => { q with queue := q.queue ++ [c] }
  if c.hold then k1.owe c.thread c.wave f.p.blk else k1

/-- A command issued with its acceptance, once its queue of 16 has room (R370). -/
def Fire.issue (f : Fire) (c : DomCmd) : Sem :=
  if f.dom.queue.length ≥ 16 then .wait
  else .act [(Em.plain f.all 0 f.outWave).tagged f.t.act f.w] 0 (f.enqueue c)

/-- WLOAD (R374). -/
def execWload (t : Tmpl) (x : FormX) (s : State) : Out :=
  .next (s.fireX t x false fun f =>
    let a := f.q.a
    let r := (f.k.share f.p.lcl).ring x.ring.toNat
    let k := vbits a 12 4 + 1
    let n := vbits a 18 13 + 1
    match (tokenBits a [(2, 0), (31, 19), (95, 32), (98, 96), (127, 119)]).or (f.wordBad (vbits a 118 96) 96) with
    | some e => e
    | none =>
      checks [(!rValid r, rfAt 6 63), (!((List.range 8).any fun q => fitsFormat q k && rowLen q k (a.getLsbD 3) == rRow r), rfAt 6 35),
              (decide (rHead r % rCap r + n > rCap r), rfAt 6 64)] (f.issue (f.command .wload x)))

/-- A tile that the token may write, whatever its class proves to be, is a reduction node that releases a token: its wave is held
until the class is known, and then for the tiles it does write (R378). -/
def Dom.mayRelease (d td : Dom) (c : DomCmd) : Bool :=
  (d.written c 0 ++ d.written c 1).any fun t => cfNode (td.cfg t) && cfTk (td.cfg t)

/-- The checks of an MMA or MMASP firing, in the order of their table (R376). -/
def Fire.multiply (f : Fire) (act : DomAct) (x : FormX) : Sem :=
  let a := f.q.a
  let c := f.command act x
  let dn := f.p.domOf f.i
  let d := f.dom
  let td := f.k.dom f.p.seat (c.target dn)
  let cfg := td.cfg c.first
  let r := (f.k.share f.p.lcl).ring x.ring.toNat
  let known := d.wdesc.getLsbD 31 || d.wdig != 0
  let storedK := (d.wdesc.extractLsb' 20 9).toNat + 1
  match (tokenBits a [(31, 28), (35, 35), (63, 48), (95, 93), (98, 96), (127, 119)]).or (f.wordBad c.cwoff 96) with
  | some e => e
  | none =>
    checks
      [(decide (c.first > 63), rfAt 4 0), (decide (c.eorn > 0) && !cfNode cfg, rfAt 4 36),
       (known && decide (c.kUsed > if act == .mmasp then 2 * storedK else storedK), rfAt 4 12),
       (known && decide (c.nUsed > (d.wdesc.extractLsb' 14 6).toNat + 1), rfAt 4 22),
       (known && d.wdesc.getLsbD 13 != (act == .mmasp), rfAt 4 12),
       (!known, rfAt 6 31), (!rValid r, rfAt 6 63),
       (!((List.range 8).any fun q => rowLen q c.kUsed false ≤ rRow r), rfAt 6 35),
       (!d.wdesc.getLsbD 31, .strike 0x11 5 (BitVec.ofNat 24 dn) (f.enqueue { c with fin := some (7, BitVec.ofNat 24 dn) })),
       (cfNode cfg && behind c.seqTag (cfNext cfg), .raise 0x0C 4 0),
       (c.bus && !cfNode cfg, rfAt 6 63)]
      (f.issue { c with hold := d.mayRelease td c })

/-- MMA (R376). -/
def execMma (t : Tmpl) (x : FormX) (s : State) : Out := .next (s.fireX t x false fun f => f.multiply .mma x)

/-- MMASP (R256, R376). -/
def execMmasp (t : Tmpl) (x : FormX) (s : State) : Out := .next (s.fireX t x false fun f => f.multiply .mmasp x)

/-- ACCCFG (R380). -/
def execAcccfg (t : Tmpl) (x : FormX) (s : State) : Out :=
  .next (s.fireX t x false fun f =>
    let a := f.q.a
    match tokenBits a ([(127, 64), (46, 35), (26, 24)] ++ if x.var = 0 then [(23, 0)] else []) with
    | some e => e
    | none =>
      let c := lo64 a
      checks [(cfFmt c = 3, rfAt 4 61), (cfNode c && cfEor c = 0, rfAt 4 47),
              (!cfTk c && (cfTgt c).extractLsb' 5 3 != 0, rfAt 6 32)]
        (f.hold .acccfg x 0 (leBytes 1 (f.p.domOf f.i) ++ leBytes 1 f.p.seat)))

/-- ACCRD (R381, R379). -/
def execAccrd (t : Tmpl) (x : FormX) (s : State) : Out :=
  .next (s.fireX t x false fun f =>
    let r := (f.k.share f.p.lcl).ring x.ring.toNat
    match (tokenBits f.q.a [(98, 0), (127, 119)]).or (f.wordBad (vbits f.q.a 118 96) 96) with
    | some e => e
    | none => checks [(!rValid r, rfAt 6 63), (decide (rRow r < 384), rfAt 6 35)] (f.issue (f.command .accrd x)))

/-- The firing of ACCSPL and ACCRST (R381). -/
def Fire.spillTile (f : Fire) (act : DomAct) (x : FormX) : Sem :=
  match (tokenBits f.q.a [(5, 0), (98, 56), (127, 119)]).or (f.wordBad (vbits f.q.a 118 96) 96) with
  | some e => e
  | none => f.issue (f.command act x)

/-- ACCSPL (R381). -/
def execAccspl (t : Tmpl) (x : FormX) (s : State) : Out := .next (s.fireX t x false fun f => f.spillTile .accspl x)

/-- ACCRST (R381). -/
def execAccrst (t : Tmpl) (x : FormX) (s : State) : Out := .next (s.fireX t x false fun f => f.spillTile .accrst x)

/-! NSEG and SRCT of SCACC and SCACCV (R382). The field has five bits, so that 32, which the rule lists, cannot be
written in it (log entry 16). -/

def DomCmd.nseg (c : DomCmd) : Nat := vbits c.a 10 6
def DomCmd.srct (c : DomCmd) : Nat := vbits c.a 5 0

/-- SCACC (R382). -/
def execScacc (t : Tmpl) (x : FormX) (s : State) : Out :=
  .next (s.fireX t x false fun f =>
    let c := f.command .scacc x
    match (tokenBits f.q.a [(31, 11), (63, 55), (98, 64), (127, 119)]).or (f.wordBad c.cwoff 96) with
    | some e => e
    | none => checks [(!([4, 8, 16, 32].contains c.nseg), rfAt 4 6), (c.srct % (c.nseg / 2) != 0, rfAt 4 0)] (f.issue c))

/-- SCACCV (R382). -/
def execScaccv (t : Tmpl) (x : FormX) (s : State) : Out :=
  .next (s.fireX t x true fun f =>
    let c := f.command .scaccv x
    match (tokenBits f.q.a [(31, 11), (98, 32), (127, 119)]).or (f.wordBad c.cwoff 96) with
    | some e => e
    | none =>
      let badB := zeroBits f.q.b ((List.range 8).map fun j => if j < c.nseg then (16 * j + 15, 16 * j + 10) else (16 * j + 15, 16 * j))
      checks [(!([4, 8].contains c.nseg), rfAt 4 6), (c.srct % (c.nseg / 2) != 0, rfAt 4 0),
              (badB.isSome, rfAt 4 (badB.getD 0))] (f.issue c))

end Sys2Proof.Machine
end

