-- ==== Sys2Proof/Machine/Tiles.lean ====
section
/-! DEFINITION. The steps of the matrix path (02 R58 to R60, 08 R218, R219, 14 R374 to R382): WLOAD_EXECUTE,
MATRIX_ACCEPTANCE, MATRIX_ROW, ACCUMULATOR_RELEASE and ACCUMULATOR_COMMAND_EXECUTE, ACCCFG at commit, and the reload of
weights at a resume. Before them, how an engine reaches memory (R381, R389). -/

namespace Sys2Proof.Machine

/-! ### Endpoints of engines and of spill images (R386, R389) -/

/-- What the checks of one unit's bytes answer: their pieces, a wait, or a completion status with its detail. -/
inductive Reach where
  | ok (ps : List Piece)
  | wait
  | fail (status : BitVec 8) (detail : BitVec 24)
  deriving DecidableEq, Repr, Inhabited

/-- The completion status of a failed access. -/
def statusOf (e : Fail) : BitVec 8 × BitVec 24 :=
  if e.code = 0x06 then (2, e.detail) else if e.code = 0x0F then (3, e.detail) else if e.code = 0x0A then (6, e.detail)
  else (8, e.detail)

/-- A tile of an endpoint: it waits for a pending OWN, or is not an engine's (R90, R389). -/
def tileReach (k : Ctx) (p : Piece) : Option Reach :=
  match p.tr.place with
  | .scratch l off =>
    let h := k.share l
    if h.reservedTile (off / 4096) then some .wait
    else if !h.engineTile (off / 4096) then some (.fail 6 (BitVec.ofNat 24 (off / 4096))) else none
  | _ => none

/-- The checks of n bytes from an address, on behalf of a command of a logical cluster. -/
def State.reach (s : State) (k : Ctx) (lcl va n : Nat) (need : Need) : Reach :=
  let bad (e : Fail) : Reach := .fail (statusOf e).1 (statusOf e).2
  if !inMap k va n then bad (transFail 0 3)
  else if va ≥ controlBase then bad (protFail 6)
  else match pieces s.mem k (k.phys lcl) va n with
    | .error e => bad e
    | .ok ps =>
      match allAllowed s.keys ps need with
      | some e => bad e
      | none =>
        if (cpFail lcl ps).isSome then .fail 8 (lrDetail 0 5)
        else match ps.findSome? (tileReach k) with
          | some r => r
          | none =>
            if (need != .w) && ps.any (piecePoison s.mem) then .fail 3 0
            else if ps.any fun p => pieceWaits s.mem k p (need == .w) then .wait else .ok ps

/-- The scratchpad tiles of pieces. -/
def tilesOf (ps : List Piece) : List (Nat × Nat) :=
  (ps.filterMap fun p => match p.tr.place with | .scratch l off => some (l, off / 4096) | _ => none).eraseDups

/-- The bytes of pieces as an engine reads them, at their homes. -/
def State.engineBytes (s : State) (k : Ctx) (ps : List Piece) : List Byte :=
  ps.flatMap fun p => match p.tr.place with
    | .hbm => (List.range p.n).map fun i => s.mem.keyed p.tr.key (p.tr.pa + i)
    | _ => pieceBytes s.mem k 0 p

/-- What an engine's reading of pieces does at their homes, with its energy and log records (R93, 06 R189). -/
def State.enginePeek (s : State) (c : CtxId) (clu : Nat) (ps : List Piece) : State :=
  let s1 := (s.logAccess c ps (kRead ||| kEngine)).engineSpend c clu false ps
  { s1 with mem := s1.mem.peek ps }

/-- A write of pieces meets a consume-held granule (03 R88). -/
def Ctx.piecesHeld (k : Ctx) (ps : List Piece) : Bool :=
  ps.any fun p => match p.tr.place with | .scratch l off => (k.share l).heldRun off p.n | _ => false

/-- An engine's write of pieces: scratchpad granules become FULL, other memory is written through (R123). -/
def State.engineWrite (s : State) (c : CtxId) : List Piece → List Byte → State
  | [], _ => s
  | p :: ps, bytes =>
    let s1 := match p.tr.place with
      | .scratch l off => s.modCtx c fun k => k.engineRun l off (bytes.take p.n)
      | _ => s.storePiece c .home p (bytes.take p.n) true
    State.engineWrite s1 c ps (bytes.drop p.n)

/-! ### The head of a domain's queue (R370) -/

/-- Matrix work of a share stands still: its context is gated (08 R222) or it moves (06 R174). -/
def Ctx.matrixStill (k : Ctx) (l : Nat) : Bool := decide (k.gate ≥ 1) || (tgetD k.pmap l 0).getLsbD 30

/-- The command at the head of a domain's queue, when it may go on and is one of these. -/
def Ctx.headCmd (k : Ctx) (l d : Nat) (acts : List DomAct) : Option DomCmd :=
  if k.matrixStill l then none
  else match (k.dom l d).queue with
    | c :: _ => if acts.contains c.act && c.fin.isNone && !k.matrixStill c.lcl then some c else none
    | [] => none

/-- The head command replaced. -/
def Ctx.setHead (k : Ctx) (l d : Nat) (c : DomCmd) : Ctx := k.modDom l d fun q => { q with queue := c :: q.queue.tail }

/-- The head command ends with a count. -/
def Ctx.finish (k : Ctx) (l d : Nat) (c : DomCmd) (count : Nat) (e : BitVec 8 × BitVec 24) : Ctx :=
  (k.setHead l d { c with done := count }).endDom l d { c with done := count } e

/-! ### WLOAD (R374) and the reload of R58 -/

/-- The weights that rows of L bytes hold, if their headers agree and their format fits K, N and the row length. -/
def weightsOf (rows : List (List Byte)) (k n : Nat) (sparse : Bool) (len : Nat) : Option Weights :=
  match rows.map rowTag with
  | some tag :: _ =>
    if rows.all (fun r => rowTag r == some tag) && rowLen tag k sparse == len && decide (k ≤ shapeK (shapeOf tag))
        && decide (n ≤ shapeN (shapeOf tag)) && (!isBq tag || k % 32 == 0)
    then some (Weights.ofRows tag sparse k rows) else none
  | _ => none

/-- DOM.WDESC of loaded weights (02 R57). -/
def wdescOf (w : Weights) (n : Nat) : BitVec 32 :=
  BitVec.ofNat 32 (0x80000000 + shapeOf w.fmt * 2 ^ 29 + (w.k - 1) % 512 * 2 ^ 20 + (n - 1) % 64 * 2 ^ 14
    + (if w.sparse then 2 ^ 13 else 0))

/-- WLOAD's K, N and SPARSE. -/
def DomCmd.loadK (c : DomCmd) : Nat := vbits c.a 12 4 + 1
def DomCmd.loadN (c : DomCmd) : Nat := vbits c.a 18 13 + 1
def DomCmd.loadSparse (c : DomCmd) : Bool := c.a.getLsbD 3

/-- The rows of a ring from HEAD on. -/
def Share.ringRows (h : Share) (r : Ring) (n : Nat) : List (List Byte) :=
  (List.range n).map fun i => h.load (rOff r (rHead r + i)) (rRow r)

/-- The scratchpad accesses of rows read from a ring or written to one (07 R199). -/
def Ctx.chargeRows (k : Ctx) (clu : Nat) : Nat → Ctx
  | 0 => k
  | n + 1 => Ctx.chargeRows (k.charge clu 2 0) clu n

/-- A domain without valid weights, its digest gone. -/
def Dom.unload (d : Dom) : Dom := { d with wdesc := d.wdesc &&& 0x7FFFFFFF, wdig := 0, weights := none }

/-- WLOAD_EXECUTE (R374). -/
def execWloadExecute (c : CtxId) (l d : Nat) (ecc : Option (BitVec 2)) (s : State) : Out :=
  .next <| s.modActive c fun k =>
    match k.headCmd l d [.wload] with
    | none => k
    | some q =>
      let h := k.share q.lcl
      let r := h.ring q.x.ring.toNat
      let n := q.loadN
      if q.cancel then k.finish l d q 0 (5, 0)
      else if !rValid r || rFill r < n then k
      else
        let rows := h.ringRows r n
        match ecc.filter (· != 3), weightsOf rows q.loadK n q.loadSparse (rRow r) with
        | some e, _ => (k.modDom l d Dom.unload).finish l d q 0 (3, e.zeroExtend 24)
        | none, none => (k.modDom l d Dom.unload).finish l d q 0 badShape
        | none, some w =>
          let k1 := (k.modDom l d fun x => { x with
            wsrc := BitVec.ofNat 64 (scratchBase + q.lcl * 0x1000000 + rOff r (rHead r)), wdesc := wdescOf w n
            wdig := digestOf rows.flatten, weights := some w }).modShare q.lcl fun h => h.ringHead q.x.ring.toNat n
          (((k1.charge (k.phys l) 0 1).chargeRows (k.phys q.lcl) n)).finish l d q n (1, 0)

/-- The commands of a domain's queue as they are resumed: one that was adding rows waits for its turn again (R377). -/
def Dom.resumed (d : Dom) : Dom := { d with queue := d.queue.map fun q => { q with turn := false } }

/-- The reload of a domain's weights at a resume (02 R58): they are valid again when the rows at SRC still have the
recorded digest. -/
def State.reload (s : State) (k : Ctx) (d : Dom) : Dom :=
  let kk := (d.wdesc.extractLsb' 20 9).toNat + 1
  let n := (d.wdesc.extractLsb' 14 6).toNat + 1
  let sparse := d.wdesc.getLsbD 13
  let gone : Dom := { d with wdesc := d.wdesc &&& 0x7FFFFFFF, weights := none }
  if d.wdig = 0 then gone
  else match s.devRead k d.wsrc.toNat 16 .rd with
    | .error _ => gone
    | .ok hd => match rowTag hd with
      | none => gone
      | some tag =>
        let len := rowLen tag kk sparse
        match s.devRead k d.wsrc.toNat (n * len) .rd with
        | .error _ => gone
        | .ok b => match weightsOf (chunks len n b) kk n sparse len with
          | none => gone
          | some w => if digestOf b = d.wdig then { d with wdesc := wdescOf w n, weights := some w } else gone

/-! ### Acceptance (R376 to R378) -/

/-- The tiles a token writes that are reduction nodes. -/
def Dom.nodes (d td : Dom) (q : DomCmd) (cls : Nat) : List Nat := (d.written q cls).filter fun t => cfNode (td.cfg t)

/-- The checks of the written tiles, once the class is known (R376). -/
def tilesBad (d td : Dom) (q : DomCmd) (cls : Nat) : Bool :=
  let ts := d.written q cls
  let node := cfNode (td.cfg q.first)
  ts.any (· > 63) || q.first % d.groupOf q cls != 0 || (q.decay && cls == 1)
    || ts.any fun t => cfFmt (td.cfg t) != (if cls = 1 then 2 else 0) || cfNode (td.cfg t) != node
        || (cfNode (td.cfg t) && behind q.seqTag (cfNext (td.cfg t)))

/-- The checks of R376 that a row meets, on the weights and tiles as they stand (R377). -/
def rowBad (d td : Dom) (w : Weights) (q : DomCmd) (tag : Nat) : Bool :=
  classOf tag w.fmt != q.cls || tilesBad d td q q.cls || decide (q.kUsed > w.span) || decide (q.nUsed > w.rows.length)
    || w.sparse != (q.act == .mmasp)

/-- EORN set in the reduction nodes; a release may fall due by it. -/
def Dom.setEorn (d : Dom) (q : DomCmd) (ts : List Nat) : Dom :=
  if q.eorn = 0 then d else ts.foldl (fun d t => (d.setCfg t (cfSetEor (d.cfg t) q.eorn)).dueAt t) d

/-- The header of the row at HEAD: its format, when it is well formed and the row holds K used elements. -/
def headTag (q : DomCmd) (row : List Byte) (len : Nat) : Option Nat :=
  match rowTag row with
  | some t => if rowLen t q.kUsed false ≤ len then some t else none
  | none => none

/-- The command's wave is still uncommitted in its thread. -/
def Ctx.waveLive (k : Ctx) (q : DomCmd) : Bool :=
  (match k.th q.thread with | some x => x.born == q.born && (x.wv q.wave).isSome | none => false)

/-- MATRIX_ACCEPTANCE (R377): the class is known, the written tiles are checked, and EORN counts. -/
def execMatrixAcceptance (c : CtxId) (l d : Nat) (s : State) : Out :=
  .next <| s.modActive c fun k =>
    match k.headCmd l d [.mma, .mmasp] with
    | none => k
    | some q =>
      let h := k.share q.lcl
      let r := h.ring q.x.ring.toNat
      let dd := k.dom l d
      let tgt := q.target d
      if q.accepted then k
      else if q.cancel then k.finish l d q 0 (5, 0)
      else if rFill r = 0 then k
      else match dd.weights, headTag q (h.load (rOff r (rHead r)) (rRow r)) (rRow r) with
        | none, _ => k.finish l d q 0 (7, BitVec.ofNat 24 d)
        | some _, none => k.finish l d q 0 badShape
        | some w, some tag =>
          let cls := classOf tag w.fmt
          let td := k.dom l tgt
          if tilesBad dd td q cls then k.finish l d q 0 badShape
          else
            let ns := dd.nodes td q cls
            let holds := ns.any (fun t => cfTk (td.cfg t)) && (q.hold || k.waveLive q)
            let k1 := (k.setHead l d { q with accepted := true, cls := cls, hold := holds }).modDom l tgt
              fun x => x.setEorn q ns
            if holds == q.hold then k1
            else if holds then k1.owe q.thread q.wave q.blk else k1.paid q.thread q.wave

/-! ### Rows (R377) -/

/-- What one row's pass against one column yields: segment sums, or one FP32 value; with what an error adds to it before it is
rounded, or, in the half class, to what is delivered. -/
def passOf (w : Weights) (q : DomCmd) (cls tag segs : Nat) (row col : List Byte) (g : Option Glitch) : List Int × Nat :=
  let ps := products w col row tag q.kUsed
  match cls, g with
  | 1, none => (intPass w col row tag q.kUsed segs, 0)
  | 1, some e =>
    let xs := intPass w col row tag q.kUsed segs
    (setAt xs e.seg (xs.getD e.seg 0 + (Glitch.term e).units 0), 0)
  | c, none => ([], floatPass c ps)
  | 3, some e => ([], (deliver (fmtOf 0) 0 false (sumExact 0 [decodeF (fmtOf 0) (halfPass ps), Glitch.term e])).1)
  | _, some e => ([], passSum (ps ++ [Glitch.term e]))

/-- The passes of a row against every column of the array. -/
def passes (w : Weights) (q : DomCmd) (cls tag segs : Nat) (row : List Byte) (g : Option Glitch) : List (List Int × Nat) :=
  (List.range w.rows.length).map fun n =>
    passOf w q cls tag segs row (w.rows.getD n []) (g.filter fun e => e.col = n)

/-- One element of tile j of the group after a pass result enters it (R251, R254). R254 lets a result without ACC replace the
element and also has contributions to a reduction node added: without ACC it replaces the node's element too (DESIGN CHOICE, log
entry 139). -/
def newElem (cls j : Nat) (acc : Bool) (old : BitVec 64) (out : List Int × Nat) : BitVec 64 :=
  if cls = 1 then
    let lo : Int := out.1.getD (2 * j) 0 + (if acc then ((old.extractLsb' 0 32).toNat : Int) else 0)
    let hi : Int := out.1.getD (2 * j + 1) 0 + (if acc then ((old.extractLsb' 32 32).toNat : Int) else 0)
    BitVec.ofNat 32 (wrapTo 32 hi) ++ BitVec.ofNat 32 (wrapTo 32 lo)
  else BitVec.ofNat 64 (if acc then addF32 (old.extractLsb' 0 32).toNat out.2 else out.2)

/-- Row i of a tile after the outputs of its columns. -/
def rowInto (cls j i : Nat) (acc : Bool) (es : List (BitVec 64)) (outs : List (List Int × Nat)) : List (BitVec 64) :=
  (List.range outs.length).foldl (fun es n =>
    setAt es (i * 48 + n) (newElem cls j acc (es.getD (i * 48 + n) 0) (outs.getD n default))) es

/-- DECAY of a tile (R254). -/
def decayTile (f : Nat) (es : List (BitVec 64)) : List (BitVec 64) :=
  es.map fun e => BitVec.ofNat 64 (mulF32 (e.extractLsb' 0 32).toNat f)

/-- The tiles of a token after one row: the decay before row 0, then the row added. -/
def Dom.addRow (td d : Dom) (q : DomCmd) (outs : List (List Int × Nat)) : Dom :=
  let g := d.groupOf q q.cls
  let d1 := if q.done = 0 && q.decay then
      (d.written q q.cls).foldl (fun x t => x.setTile t (decayTile (vbits q.cfv 31 0) (x.tile t))) td else td
  (List.range g).foldl (fun x j =>
    let t := q.first + q.done / 8 * g + j
    x.setTile t (rowInto q.cls j (q.done % 8) q.acc (x.tile t) outs)) d1

/-- Counts a token's contribution in its reduction nodes (R378). -/
def Dom.contribute (d : Dom) (ts : List Nat) : Dom :=
  ts.foldl (fun d t =>
    let c := d.cfg t
    (d.setCfg t (cfSetNext (cfSetSeen c (cfSeen c + 1)) (cfNext c + 1))).dueAt t) d

/-- A token's turn: every reduction node it writes waits for its sequence tag, with no release outstanding. -/
def turnCome (td : Dom) (q : DomCmd) (ns : List Nat) : Bool :=
  ns.all fun t => cfNext (td.cfg t) == q.seqTag && decide (cfSeen (td.cfg t) < cfEor (td.cfg t))

/-- What a row costs that has been streamed, whatever its checksum says: the row, its ring access, and its count (07 R199, R208). -/
def Ctx.rowSpent (k : Ctx) (l : Nat) (q : DomCmd) : Ctx :=
  ((k.perfAdd q.lcl 2 1).charge (k.phys l) 0 0).charge (k.phys q.lcl) 2 0

/-- One row added, and the token's end after its last. -/
def Ctx.rowDone (k : Ctx) (l d : Nat) (q : DomCmd) (outs : List (List Int × Nat)) : Ctx :=
  let dd := k.dom l d
  let tgt := q.target d
  let ns := dd.nodes (k.dom l tgt) q q.cls
  let k1 := (k.modDom l tgt fun td => td.addRow dd q outs).modShare q.lcl fun h => h.ringHead q.x.ring.toNat 1
  let q1 := { q with done := q.done + 1, turn := true }
  let k2 := (k1.setHead l d q1).rowSpent l q
  if q1.done < q.rows then k2
  else
    let k3 := k2.modDom l tgt fun td => td.contribute ns
    let due := ns.filter (k3.dom l tgt).dues.contains
    if due.isEmpty then k3.endDom l d q1 (1, 0) else k3.setHead l d { q1 with rel := due.map fun t => (tgt, t) }

/-- MATRIX_ROW (R377): one row of the token at the head of its queue. `glitch` is an error in the array, which the checksum
column finds or not (08 R218). -/
def execMatrixRow (c : CtxId) (l d : Nat) (glitch : Option Glitch) (ecc : Option (BitVec 2)) (s : State) : Out :=
  .next <| match s.active c with
    | none => s
    | some k =>
      match k.headCmd l d [.mma, .mmasp] with
      | none => s
      | some q =>
        let h := k.share q.lcl
        let r := h.ring q.x.ring.toNat
        let dd := k.dom l d
        let td := k.dom l (q.target d)
        let dom := k.phys l * 16 + d
        if !q.accepted || !q.rel.isEmpty || q.done ≥ q.rows || !s.powered dom then s
        else if q.cancel then s.setCtx (k.endDom l d q (5, 0))
        else if !q.turn && !turnCome td q (dd.nodes td q q.cls) then s
        else match dd.weights with
          | none => s.setCtx (k.endDom l d q (7, BitVec.ofNat 24 d))
          | some w =>
            if rFill r = 0 then s
            else
              let row := h.load (rOff r (rHead r)) (rRow r)
              match ecc.filter (· != 3), headTag q row (rRow r) with
              | some e, _ => s.setCtx (k.endDom l d q (3, e.zeroExtend 24))
              | none, none => s.setCtx (k.endDom l d q badShape)
              | none, some tag =>
                if rowBad dd td w q tag then s.setCtx (k.endDom l d q badShape)
                else
                  let segs := dd.segments (q.act == .mmasp)
                  let outs := passes w q q.cls tag segs row glitch
                  (if checkPasses w tag q.cls q.kUsed segs row (glitch.toList.map Glitch.term) outs then s.setCtx (k.rowDone l d q (outs.take q.nUsed))
                   else (s.setCtx ((k.rowSpent l q).endDom l d q (4, 0))).addScore (clusterUnit (k.phys l)) 64).usePower dom

/-! ### Releases (02 R60, R378, R379) -/

/-- The bytes of one row of a tile's spill image (02 R59). -/
def tileRow (es : List (BitVec 64)) (i : Nat) : List Byte :=
  (List.range 48).flatMap fun n => leBytes 8 (es.getD (i * 48 + n) 0).toNat

/-- A tile's 8 rows can be appended to a ring: room, and no consume-held granule. -/
def Share.takesTile (h : Share) (n : Nat) : Bool :=
  let r := h.ring n
  rRoom r 8 && !((List.range 8).any fun i => h.heldRun (rOff r (rTail r + i)) (rRow r))

/-- The 8 rows of a tile appended to a ring, each followed by zeros. -/
def Ctx.appendTile (k : Ctx) (l n : Nat) (es : List (BitVec 64)) : Ctx :=
  let r := (k.share l).ring n
  ((List.range 8).foldl (fun k i =>
    (k.fillRun l (rOff r (rTail r + i)) (tileRow es i ++ List.replicate (rRow r - 384) 0)).charge (k.phys l) 2 0) k).modShare l
      fun h => h.ringTail n 8

/-- The command whose contribution completed a tile's count, with its domain. -/
def Share.completing (h : Share) (d tile : Nat) : Option (Nat × DomCmd) :=
  h.doms.findSome? fun e => (e.2.queue.find? fun q => q.rel.contains (d, tile)).map fun q => (e.1, q)

/-- A tile's release has been dealt with: its command goes on, and ends after its last. -/
def Ctx.released (k : Ctx) (l : Nat) (d tile : Nat) (failed : Bool) : Ctx :=
  match (k.share l).completing d tile with
  | none => k
  | some (dq, q) =>
    let q1 := { q with rel := q.rel.filter (· != (d, tile)), fin := if failed then some badShape else q.fin }
    let k1 := k.modDom l dq fun x => { x with queue := updFirst (· == q) (fun _ => q1) x.queue }
    if q1.rel.isEmpty then k1.endDom l dq q1 (q1.fin.getD (1, 0)) else k1

/-- The token of a release with TK = 1, from the block of the completing command (R378). -/
def Ctx.releaseToken (k : Ctx) (q : DomCmd) (tgt : BitVec 8) (tile : Nat) : Ctx :=
  match destByte false tgt q.slot with
  | .slot n b =>
    let tok := (Em.plain [] (BitVec.ofNat 128 tile) q.wave).token q.thread false
    if q.hold then k.enter ⟨q.blk, .slot n b, tok, false, false⟩ (.wave q.wave) true else k
  | _ => k

/-- ACCUMULATOR_RELEASE (R378, R379): the ring is that of the logical cluster whose command completed the count. -/
def execAccumulatorRelease (c : CtxId) (l d tile : Nat) (s : State) : Out :=
  .next <| s.modActive c fun k =>
    let dd := k.dom l d
    let who := (k.share l).completing d tile
    let rl := (who.map fun q => q.2.lcl).getD l
    let h := k.share rl
    let cf := dd.cfg tile
    let n := (cfTgt cf).toNat % 32
    let undue (x : Dom) : Dom := { x with dues := x.dues.filter (· != tile) }
    if !dd.dues.contains tile || k.matrixStill l then k
    else if !cfTk cf && (!rValid (h.ring n) || rRow (h.ring n) < 384) then (k.modDom l d undue).released l d tile true
    else if !cfTk cf && !h.takesTile n then k
    else
      let keep := cfHold cf || (match who with | some q => q.2.holdElems | none => false)
      let k1 := if !cfTk cf then k.appendTile rl n (dd.tile tile)
        else match who with
          | some (dq, q) => if dq = d && !q.bus then k.releaseToken q (cfTgt cf) tile else k
          | none => k
      let k2 := k1.modDom l d fun x =>
        let y := undue (x.setCfg tile (cfSetSeen cf 0))
        if keep then y else y.setTile tile (List.replicate 384 0)
      (k2.charge (k.phys l) 0 2).released l d tile false

/-! ### ACCCFG at commit (R380) -/

/-- ACC.CFG after a write: SEEN and NEXTSEQ stay, or are set anew by VAR 1. -/
def cfWrite (old new : BitVec 64) (fresh : Bool) : BitVec 64 :=
  let keep : BitVec 64 := 0x00007FF800FFFFFF
  if fresh then (new &&& ~~~keep) ||| (new &&& 0xFFFFFF) else (new &&& ~~~keep) ||| (old &&& keep)

/-- ACCCFG: it waits for a release of its tile that has fallen due (02 R60); a release may follow. -/
def State.doAcccfg (s : State) (k : Ctx) (_me : Committed) (o : DefOp) : Perf :=
  let d := fieldAt o.data 0 1
  let l := fieldAt o.data 1 1
  let t := o.x.tile.toNat
  let fresh := o.x.var = 1
  if (k.dom l d).dues.contains t then .wait s
  else .done (s.setCtx ((k.modDom l d fun x =>
    let y := x.setCfg t (cfWrite (x.cfg t) (lo64 o.a) fresh)
    (if fresh then y.setTile t (List.replicate 384 0) else y).dueAt t).charge (k.phys l) 0 2)) 0 0

/-! ### Accumulator commands (R381, R382) -/

/-- The tiles of a domain a command reads or writes. -/
def DomCmd.touched (q : DomCmd) : List Nat :=
  match q.act with
  | .scacc | .scaccv => q.x.tile.toNat :: (List.range (q.nseg / 2)).map (· + q.srct)
  | _ => [q.x.tile.toNat]

/-- A reserved ACC.CFG value (02 R59). -/
def cfReserved (c : BitVec 64) : Bool :=
  cfFmt c = 3 || c.extractLsb' 24 3 != 0 || (cfNode c && cfEor c = 0) || (!cfTk c && (cfTgt c).extractLsb' 5 3 != 0)

/-- The 3,088-byte image of a tile. -/
def Dom.image (d : Dom) (t : Nat) : List Byte :=
  (List.range 8).flatMap (tileRow (d.tile t)) ++ leBytes 8 (d.cfg t).toNat ++ List.replicate 8 0

/-- A tile from its image. -/
def Dom.fromImage (d : Dom) (t : Nat) (b : List Byte) : Dom :=
  (d.setTile t ((List.range 384).map fun i => BitVec.ofNat 64 (fieldAt b (8 * i) 8))).setCfg t (BitVec.ofNat 64 (fieldAt b 3072 8))

/-- The scratchpad tiles [va, va + n) lies in, whatever their state. -/
def windowTiles (va n : Nat) : List (Nat × Nat) :=
  if inScratch va then
    (List.range ((va + n - 1) / 4096 - va / 4096 + 1)).map fun i =>
      let a := (va / 4096 + i) * 4096 - scratchBase
      (a / 0x1000000, a % 0x1000000 / 4096)
  else []

/-- ACCSPL and ACCRST (R381): the image is moved whole or not at all, and scratchpad tiles it touches flip back. -/
def State.spillRun (s : State) (k : Ctx) (l d : Nat) (q : DomCmd) (ecc : Option (BitVec 2)) : State :=
  let va := vbits q.a 55 0
  let save := q.act == .accspl
  let t := q.x.tile.toNat
  let back (s : State) (f : Ctx → Ctx) (count : Nat) (e : BitVec 8 × BitVec 24) : State :=
    s.modCtx k.num fun k => ((f k).flipBack (windowTiles va 3088)).finish l d q count e
  match s.reach k q.lcl va 3088 (if save then .w else .rd) with
  | .wait => s
  | .fail st det => back s id 0 (st, det)
  | .ok ps =>
    let kinds := (if save then kWrite else kRead) ||| kEngine
    if let some e := ecc.filter (· != 3) then back s id 0 (3, e.zeroExtend 24)
    else if s.logFull k.num ps kinds || (save && k.piecesHeld ps) then s
    else
      let s1 := (((s.logAccess k.num ps kinds).engineSpend k.num (k.phys q.lcl) save ps).corrected (if save then [] else ps) ecc).modCtx k.num
        fun k => k.charge (k.phys l) 0 2
      if save then back (s1.engineWrite k.num ps ((k.dom l d).image t)) id 8 (1, 0)
      else
        let b := s.engineBytes k ps
        let s1 := { s1 with mem := s1.mem.peek ps }
        if cfReserved (BitVec.ofNat 64 (fieldAt b 3072 8)) then back s1 id 0 badShape
        else back s1 (fun k => k.modDom l d fun x => x.fromImage t b) 8 (1, 0)

/-- A segment sum scaled by its exponents. -/
def segTerm (seg : BitVec 32) (sum : Nat) : FV :=
  let m : Int := seg.toInt
  .fin (m < 0) m.natAbs ((sum : Int) - 254)

/-- One element of the exact sum of R255. -/
def scaled (acc : BitVec 64) (terms : List FV) (nan : Bool) : BitVec 64 :=
  if nan then BitVec.ofNat 64 (fmtOf 0).nanBits
  else BitVec.ofNat 64 (deliver (fmtOf 0) 0 false
    (sumExact 0 (decodeF (fmtOf 0) (acc.extractLsb' 0 32).toNat :: terms))).1

/-- Segment j of an element of a group. -/
def Dom.segment (d : Dom) (srct j e : Nat) : BitVec 32 :=
  ((d.tile (srct + j / 2)).getD e 0).extractLsb' (32 * (j % 2)) 32

/-- The destination tile of SCACC or SCACCV, with the exponent pairs of row i and column n given: their sums, and whether
one is a NaN block. -/
def Dom.scale (d : Dom) (q : DomCmd) (exps : Nat → Nat → List Nat × Bool) : Dom :=
  let t := q.x.tile.toNat
  let es := d.tile t
  let new := (List.range 384).map fun e =>
    let x := exps (e / 48) (e % 48)
    scaled (es.getD e 0) ((List.range q.nseg).map fun j => segTerm (d.segment q.srct j e) (x.1.getD j 0)) x.2
  let d1 := d.setTile t new
  if q.x.var.getLsbD 0 then
    (List.range (q.nseg / 2)).foldl (fun d j => d.setTile (q.srct + j) (List.replicate 384 0)) d1 else d1

/-- SCACC's exponent bytes of row i and column n. -/
def scaccExps (b : List Byte) (nseg i n : Nat) : List Nat × Bool :=
  let xa := (List.range nseg).map fun j => (b.getD (i * nseg + j) 0).toNat
  let xw := (List.range nseg).map fun j => (b.getD (8 * nseg + n * nseg + j) 0).toNat
  (List.zipWith (· + ·) xa xw, xa.contains 255 || xw.contains 255)

/-- SCACCV's pairs, the same for every element. -/
def scaccvExps (b : Value) (nseg : Nat) : List Nat × Bool :=
  ((List.range nseg).map fun j => vbits b (16 * j + 8) (16 * j), (List.range nseg).any fun j => b.getLsbD (16 * j + 9))

/-- SCACC and SCACCV (R382). -/
def State.scaleRun (s : State) (k : Ctx) (l d : Nat) (q : DomCmd) (ecc : Option (BitVec 2)) : State :=
  let dd := k.dom l d
  let n := 56 * q.nseg
  let va := scratchBase + q.lcl * 0x1000000 + vbits q.a 54 32
  let bad := cfFmt (dd.cfg q.x.tile.toNat) != 0
    || (List.range (q.nseg / 2)).any fun j => cfFmt (dd.cfg (q.srct + j)) != 2
  if bad then s.setCtx ((if q.act == .scacc then k.flipBack (windowTiles va n) else k).finish l d q 0 badShape)
  else if q.act == .scaccv then
    s.setCtx (((k.modDom l d fun x => x.scale q fun _ _ => scaccvExps q.b q.nseg).charge (k.phys l) 0 2).finish l d q 8 (1, 0))
  else
    match s.reach k q.lcl va n .rd with
    | .wait => s
    | .fail st det => s.setCtx ((k.flipBack (windowTiles va n)).finish l d q 0 (st, det))
    | .ok ps =>
      let b := s.engineBytes k ps
      if let some e := ecc.filter (· != 3) then s.setCtx ((k.flipBack (windowTiles va n)).finish l d q 0 (3, e.zeroExtend 24))
      else if s.logFull k.num ps (kRead ||| kEngine) then s
      else
        let t := (s.logAccess k.num ps (kRead ||| kEngine)).engineSpend k.num (k.phys q.lcl) false ps
        t.modCtx k.num fun k =>
          (((k.modDom l d fun x => x.scale q (scaccExps b q.nseg)).charge (k.phys l) 0 2).flipBack (tilesOf ps)).finish l d q 8 (1, 0)

/-- ACCUMULATOR_COMMAND_EXECUTE (R381, R382): between whole operations on its tiles. A command that flips tiles back does so in the
one step with its completion word (04 R122), so it waits while the word's granule is consume-held. -/
def execAccumulatorCommandExecute (c : CtxId) (l d : Nat) (ecc : Option (BitVec 2)) (s : State) : Out :=
  .next <| match s.active c with
    | none => s
    | some k =>
      match k.headCmd l d [.accrd, .accspl, .accrst, .scacc, .scaccv] with
      | none => s
      | some q =>
        if q.cancel then s.setCtx (k.finish l d q 0 (5, 0))
        else if q.touched.any (k.dom l d).dues.contains || !(k.share q.lcl).wordFree q.cwoff then s
        else match q.act with
          | .accrd =>
            if (k.share q.lcl).takesTile q.x.ring.toNat then
              s.setCtx (((k.appendTile q.lcl q.x.ring.toNat ((k.dom l d).tile q.x.tile.toNat)).charge (k.phys l) 0 2).finish
                l d q 8 (1, 0))
            else s
          | .accspl | .accrst => s.spillRun k l d q ecc
          | _ => s.scaleRun k l d q ecc

end Sys2Proof.Machine
end

