-- ==== Sys2Proof/Machine/Engine.lean ====
section
/-! DEFINITION. Engine commands (03 R103, 04 R122, R123, 14 R369 to R371, R386 to R390): their firings, the units they
move, collectives, completion, and ECAN. -/

namespace Sys2Proof.Machine

/-! ### Descriptor fields (R386) -/

def EngCmd.count (q : EngCmd) : Nat := vbits q.desc 63 32
def EngCmd.cwoff (q : EngCmd) : Nat := vbits q.desc 22 0
def EngCmd.slotNo (q : EngCmd) : Nat := vbits q.desc 30 27
def EngCmd.ringNo (q : EngCmd) : Nat := vbits q.desc 68 64
def EngCmd.fromRing (q : EngCmd) : Bool := q.act == .cpy && q.desc.getLsbD 69
def EngCmd.toRing (q : EngCmd) : Bool := q.act == .cpy && q.desc.getLsbD 70
def EngCmd.srcVa (q : EngCmd) : Nat := vbits q.a 63 0
def EngCmd.dstVa (q : EngCmd) : Nat := vbits q.a 127 64
def EngCmd.rowBytes (q : EngCmd) : Nat := vbits q.desc 95 64
/-- Bytes of an element of GATH and SCAT. -/
def EngCmd.elemBytes (q : EngCmd) : Nat := 2 ^ vbits q.desc 66 64
/-- Bytes of an index. -/
def EngCmd.indexBytes (q : EngCmd) : Nat := if q.x.var.getLsbD 0 then 8 else 4
/-- Bytes of a record of a VAR, 1 for bytes. -/
def unitBytes (var : BitVec 4) : Nat := if var = 0 then 1 else recBytes (var.toNat - 1)
def EngCmd.collFirst (q : EngCmd) : Nat := vbits q.desc 70 64
def EngCmd.collMembers (q : EngCmd) : Nat := vbits q.desc 78 72 + 1
def EngCmd.collId (q : EngCmd) : Nat := vbits q.desc 95 80
/-- Bytes of an element of a collective. -/
def EngCmd.collElem (q : EngCmd) : Nat := match q.x.var.toNat with | 0 => 1 | 3 => 8 | _ => 4

/-- The descriptor bits that a command leaves zero. -/
def engZero (act : EngAct) : List (Nat × Nat) :=
  (127, 96) :: (26, 23) :: (match act with
    | .cpy => [(95, 71)] | .cpy2d => [] | .gath | .scat => [(95, 67)] | .coll => [(79, 79)])

/-! ### Firings (R370, R386 to R388) -/

def Fire.engine (f : Fire) (act : EngAct) (x : FormX) : EngCmd :=
  { act := act, x := x, a := f.q.a, b := f.q.b, desc := f.cfv x, thread := f.x.num, born := f.x.born, wave := f.w, done := 0,
    armed := (f.cfv x).getLsbD 31, waits := false, started := !(f.cfv x).getLsbD 31 && act != .coll, released := false, cancel := false,
    srcs := [], tiles := [], fin := none }

def EngCmd.running (q : EngCmd) : Bool := !q.armed && !q.waits && q.fin.isNone

/-- Running engine commands of a physical cluster, of all contexts. -/
def State.engineLoad (s : State) (clu : Nat) : Nat :=
  s.ctxs.foldl (fun n k => k.shares.foldl (fun n h =>
    if k.phys h.lcl = clu then n + (h.cmds.filter EngCmd.running).length else n) n) 0

/-- A command issued with its acceptance, once its arm slot is free or the engine has room. -/
def State.issueEngine (s : State) (f : Fire) (q : EngCmd) : Sem :=
  let h := f.k.share f.p.lcl
  if q.armed && h.cmds.any (fun c => c.armed && c.fin.isNone && c.slotNo == q.slotNo) then .wait
  else if !q.armed && decide (s.engineLoad (f.k.phys f.p.lcl) ≥ 64) then .wait
  else .act [(Em.plain f.all 0 f.outWave).tagged f.t.act f.w] 0 fun k =>
    k.modShare f.p.lcl fun h => { h with cmds := h.cmds ++ [q] }

/-- The checks every engine command shares, then its own (R369, R386). -/
def State.engineFire (s : State) (f : Fire) (act : EngAct) (x : FormX) (own : EngCmd → List (Bool × Sem)) : Sem :=
  let q := f.engine act x
  match (tokenBits q.desc (engZero act)) with
  | some e => e
  | none =>
    if q.count = 0 then rfAt 4 32
    else match f.wordBad q.cwoff 0 with
      | some e => e
      | none => checks (own q) (s.issueEngine f q)

/-- The lowest set bit of a field, as a check. -/
def zeroCheck (v : Value) (hi lo : Nat) : Bool × Sem :=
  ((zeroBits v [(hi, lo)]).isSome, rfAt 4 ((zeroBits v [(hi, lo)]).getD lo))

/-- CPY (R387). -/
def execCpy (t : Tmpl) (x : FormX) (s : State) : Out :=
  .next (s.fireX t x false fun f => s.engineFire f .cpy x fun q =>
    [(q.fromRing && q.toRing, rfAt 4 69),
     (q.fromRing && (zeroCheck q.a 63 0).1, (zeroCheck q.a 63 0).2),
     (q.toRing && (zeroCheck q.a 127 64).1, (zeroCheck q.a 127 64).2),
     ((q.fromRing || q.toRing) && !rValid ((f.k.share f.p.lcl).ring q.ringNo), rfAt 6 63)])

/-- CPY2D (R387). -/
def execCpy2d (t : Tmpl) (x : FormX) (s : State) : Out :=
  .next (s.fireX t x true fun f => s.engineFire f .cpy2d x fun q =>
    [(q.rowBytes = 0, rfAt 4 64), (q.rowBytes % unitBytes x.var != 0, rfAt 4 64)])

/-- The checks of GATH and SCAT. -/
def indexChecks (q : EngCmd) : List (Bool × Sem) :=
  [zeroCheck q.b 127 64, (decide (vbits q.desc 66 64 > 4), rfAt 4 64)]

/-- GATH (R387). -/
def execGath (t : Tmpl) (x : FormX) (s : State) : Out :=
  .next (s.fireX t x true fun f => s.engineFire f .gath x indexChecks)

/-- SCAT (R387). -/
def execScat (t : Tmpl) (x : FormX) (s : State) : Out :=
  .next (s.fireX t x true fun f => s.engineFire f .scat x indexChecks)

/-! Collectives (R388). -/

/-- The collective commands of a context under a COLLID that have not ended, with their logical clusters. -/
def Ctx.collective (k : Ctx) (id : Nat) : List (Nat × EngCmd) :=
  k.shares.flatMap fun h => (h.cmds.filter fun c => c.act == .coll && c.fin.isNone && c.collId == id).map fun c => (h.lcl, c)

/-- Two issues carry the same VAR, COUNT, FIRST and NMEMB. -/
def EngCmd.agrees (a b : EngCmd) : Bool :=
  a.x.var == b.x.var && a.count == b.count && a.collFirst == b.collFirst && a.collMembers == b.collMembers

/-- A logical cluster belongs to the group. -/
def EngCmd.member (q : EngCmd) (l : Nat) : Bool := decide (q.collFirst ≤ l) && decide (l < q.collFirst + q.collMembers)

/-- An issue that ends at once. -/
def EngCmd.misfit (q : EngCmd) (k : Ctx) (l : Nat) : Bool :=
  match k.collective q.collId with
  | [] => !q.member l
  | c :: _ => !q.agrees c.2 || !c.2.member l

/-- COLL (R388). -/
def execColl (t : Tmpl) (x : FormX) (s : State) : Out :=
  .next (s.fireX t x false fun f =>
    let q := f.engine .coll x
    let l := f.p.lcl
    match tokenBits q.desc (engZero .coll) with
    | some e => e
    | none =>
      if q.count = 0 then rfAt 4 32
      else match f.wordBad q.cwoff 0 with
        | some e => e
        | none =>
          if q.count % q.collElem != 0 then rfAt 4 (32 + ((setBits q.count 32).headD 0))
          else if q.misfit f.k l then s.issueEngine f { q with armed := false, fin := some badShape }
          else if (f.k.collective q.collId).any (fun c => c.1 == l) then .wait
          else s.issueEngine f q)

/-- COLLECTIVE_START (R388): every member has issued; each then sees the members' sources in ascending order. -/
def execCollectiveStart (c : CtxId) (id : BitVec 16) (s : State) : Out :=
  .next <| s.modActive c fun k =>
    let ms := (k.collective id.toNat).filter fun m => !m.2.armed && !m.2.waits && !m.2.started && !m.2.cancel
    match ms with
    | [] => k
    | (_, q) :: _ =>
      if ms.length < q.collMembers then k
      else
        let srcs := (sortBy (fun (m : Nat × EngCmd) => m.1) ms).map fun m => BitVec.ofNat 64 m.2.srcVa
        let go (e : EngCmd) : EngCmd :=
          if e.act == .coll && e.fin.isNone && e.collId == id.toNat && !e.armed then { e with started := true, srcs := srcs } else e
        { k with shares := k.shares.map fun (h : Share) => { h with cmds := h.cmds.map go } }

/-! ### Units (R387 to R389) -/

/-- What one unit comes to: a wait, the command's end with a status, or the state after it with the tiles it touched and the
units it counts. -/
inductive UnitOut where
  | wait
  | ended (status : BitVec 8) (detail : BitVec 24) (tiles : List (Nat × Nat))
  | moved (s : State) (tiles : List (Nat × Nat)) (by_ : Nat)

/-- Bytes read where they lie in what the command itself writes depend on timing (R387): free values. -/
def tainted (tick : Nat) (overlap : Nat → Bool) (src : Nat) (b : List Byte) : List Byte :=
  (List.range b.length).map fun i => if overlap (src + i) then Config.freeByte (tick * 2 ^ 24 + i) else b.getD i 0

/-- Bytes to a destination, once its checks pass. `found` are the bytes and `sp` the pieces they were read from. -/
def State.putUnit (s : State) (k : Ctx) (l dst : Nat) (ecc : Option (BitVec 2)) (sp : List Piece) (found : List Byte)
    (by_ : Nat) : UnitOut :=
  match s.reach k l dst found.length .w with
  | .wait => .wait
  | .fail a d => .ended a d (tilesOf sp)
  | .ok dp =>
    match ecc.filter (· != 3) with
    | some d => .ended 3 (d.zeroExtend 24) (tilesOf (sp ++ dp))
    | none =>
      if s.logFull k.num sp (kRead ||| kEngine) || s.logFull k.num dp (kWrite ||| kEngine) || k.piecesHeld dp then .wait
      else .moved ((((s.enginePeek k.num (k.phys l) sp).logAccess k.num dp (kWrite ||| kEngine)).engineSpend k.num (k.phys l) true dp).engineWrite
        k.num dp found) (tilesOf (sp ++ dp)) by_

/-- n bytes from one address to another; `ix` are the pieces of the index that gave one of them. -/
def State.moveUnit (s : State) (k : Ctx) (l src dst n : Nat) (ecc : Option (BitVec 2)) (overlap : Nat → Bool) (by_ : Nat)
    (ix : List Piece := []) : UnitOut :=
  match s.reach k l src n .rd with
  | .wait => .wait
  | .fail a d => .ended a d (tilesOf ix)
  | .ok sp => s.putUnit k l dst ecc (ix ++ sp) (tainted s.tick overlap src (s.engineBytes k sp)) by_

/-- A row of a ring to memory (R372). -/
def State.fromRingUnit (s : State) (k : Ctx) (l : Nat) (q : EngCmd) (ecc : Option (BitVec 2)) : UnitOut :=
  let h := k.share l
  let r := h.ring q.ringNo
  if !rValid r || rFill r = 0 then .wait
  else match s.putUnit k l (wrapTo 64 ((q.dstVa + q.done * rRow r : Nat) : Int)) ecc [] (h.load (rOff r (rHead r)) (rRow r)) 1 with
    | .moved t ts n => .moved (t.modCtx k.num fun k => (k.charge (k.phys l) 2 0).modShare l fun h => h.ringHead q.ringNo 1) ts n
    | o => o

/-- A row of memory to a ring. -/
def State.toRingUnit (s : State) (k : Ctx) (l : Nat) (q : EngCmd) (ecc : Option (BitVec 2)) : UnitOut :=
  let h := k.share l
  let r := h.ring q.ringNo
  if !rRoom r 1 || h.heldRun (rOff r (rTail r)) (rRow r) then .wait
  else match s.reach k l (wrapTo 64 ((q.srcVa + q.done * rRow r : Nat) : Int)) (rRow r) .rd with
    | .wait => .wait
    | .fail a d => .ended a d []
    | .ok sp =>
      match ecc.filter (· != 3) with
      | some d => .ended 3 (d.zeroExtend 24) (tilesOf sp)
      | none =>
        if s.logFull k.num sp (kRead ||| kEngine) then .wait
        else .moved ((s.enginePeek k.num (k.phys l) sp).modCtx k.num fun k =>
          ((k.charge (k.phys l) 2 0).fillRun l (rOff r (rTail r)) (s.engineBytes k sp)).modShare l fun h => h.ringTail q.ringNo 1)
          (tilesOf sp) 1

/-- The address of element e through the index list, or what reading its index comes to. -/
def State.indexed (s : State) (k : Ctx) (l : Nat) (q : EngCmd) (base e : Nat) : UnitOut ⊕ (Nat × List Piece) :=
  match s.reach k l (wrapTo 64 ((vbits q.b 63 0 + e * q.indexBytes : Nat) : Int)) q.indexBytes .rd with
  | .wait => .inl .wait
  | .fail a d => .inl (.ended a d [])
  | .ok ps =>
    let ix := signed (8 * q.indexBytes) (leNat (s.engineBytes k ps))
    .inr (wrapTo 64 ((base : Int) + ix * q.elemBytes), ps)

/-- The address lies in [lo, lo + n). -/
def within (lo n a : Nat) : Bool := decide (lo ≤ a) && decide (a < lo + n)

/-- The signed stride of a CPY2D endpoint, row i. -/
def strided (base stride i : Nat) : Nat := wrapTo 64 ((base : Int) + (i : Int) * signed 64 stride)

/-- A member's element, combined over the members' sources in ascending order (R388). -/
def combine (var : BitVec 4) (xs : List Nat) : Nat :=
  match xs with
  | [] => 0
  | x :: r => r.foldl (fun a b => match var.toNat with
      | 1 => addF32 a b
      | 2 => (a + b) % 2 ^ 32
      | 3 => (a + b) % 2 ^ 64
      | _ => (minMaxF (fmtOf 0) true a b).1) x

/-- The pieces of a run at every member's source; other members' tiles are theirs to check. -/
def State.memberRuns (s : State) (k : Ctx) (l : Nat) (q : EngCmd) (n : Nat) : List (BitVec 64) → Nat → Reach ⊕ List (List Piece)
  | [], _ => .inr []
  | b :: r, i =>
    let m := q.collFirst + i
    let va := wrapTo 64 ((b.toNat + q.done : Nat) : Int)
    let one : Reach := if m = l then s.reach k l va n .rd
      else match s.reach k m va n .rd with
        | .fail 6 d => match pieces s.mem k (k.phys m) va n with
          | .ok ps => .ok ps
          | .error _ => .fail 6 d
        | o => o
    match one with
    | .ok ps => match State.memberRuns s k l q n r (i + 1) with
      | .inr rest => .inr (ps :: rest)
      | .inl o => .inl o
    | o => .inl o

/-- A unit of a collective at one member. -/
def State.collUnit (s : State) (k : Ctx) (l : Nat) (q : EngCmd) (ecc : Option (BitVec 2)) : UnitOut :=
  let src := wrapTo 64 (((q.srcs.headD 0).toNat + q.done : Nat) : Int)
  let dst := wrapTo 64 ((q.dstVa + q.done : Nat) : Int)
  let n := if q.x.var = 0 then min (q.count - q.done) (min (64 - src % 64) (64 - dst % 64)) else q.collElem
  match s.memberRuns k l q n (if q.x.var = 0 then q.srcs.take 1 else q.srcs) 0 with
  | .inl (.fail a d) => .ended a d []
  | .inl _ => .wait
  | .inr pss =>
    let own := (pss.getD (if q.x.var = 0 then 0 else l - q.collFirst) [])
    let bytes := if q.x.var = 0 then s.engineBytes k (pss.getD 0 [])
      else leBytes n (combine q.x.var (pss.map fun ps => leNat (s.engineBytes k ps)))
    s.putUnit k l dst ecc
      (if q.x.var = 0 && l != q.collFirst then [] else own) bytes n

/-- The next unit of a command. Bytes are moved in runs within one line on both sides. -/
def State.unit (s : State) (k : Ctx) (l : Nat) (q : EngCmd) (ecc : Option (BitVec 2)) : UnitOut :=
  let at_ (base off : Nat) : Nat := wrapTo 64 ((base + off : Nat) : Int)
  match q.act with
  | .cpy =>
    if q.fromRing then s.fromRingUnit k l q ecc
    else if q.toRing then s.toRingUnit k l q ecc
    else
      let u := unitBytes q.x.var
      let src := at_ q.srcVa (q.done * u)
      let dst := at_ q.dstVa (q.done * u)
      let n := if u = 1 then min (q.count - q.done) (min (64 - src % 64) (64 - dst % 64)) else u
      s.moveUnit k l src dst n ecc (within q.dstVa (q.count * u)) (if u = 1 then n else 1)
  | .cpy2d =>
    let ds := vbits q.b 127 64
    s.moveUnit k l (strided q.srcVa (vbits q.b 63 0) q.done) (strided q.dstVa ds q.done) q.rowBytes ecc
      (fun a => (List.range q.count).any fun i => within (strided q.dstVa ds i) q.rowBytes a) 1
  | .gath => match s.indexed k l q q.srcVa q.done with
    | .inl o => o
    | .inr (src, ix) => s.moveUnit k l src (at_ q.dstVa (q.done * q.elemBytes)) q.elemBytes ecc
        (within q.dstVa (q.count * q.elemBytes)) 1 ix
  | .scat => match s.indexed k l q q.dstVa q.done with
    | .inl o => o
    | .inr (dst, ix) => s.moveUnit k l (at_ q.srcVa (q.done * q.elemBytes)) dst q.elemBytes ecc
        (fun a => (List.range q.count).any fun e => match s.indexed k l q q.dstVa e with
          | .inr (d, _) => within d q.elemBytes a
          | .inl _ => false) 1 ix
  | .coll => s.collUnit k l q ecc

/-- The first line that a command's next unit reads of memory, where a corrected error may be met (03 R95). -/
def State.unitReads (s : State) (k : Ctx) (l : Nat) (q : EngCmd) : List Piece :=
  let at_ (base off : Nat) : Nat := wrapTo 64 ((base + off : Nat) : Int)
  let src := match q.act with
    | .cpy => at_ q.srcVa (q.done * unitBytes q.x.var)
    | .cpy2d => strided q.srcVa (vbits q.b 63 0) q.done
    | .gath => match s.indexed k l q q.srcVa q.done with
      | .inr (src, _) => src
      | .inl _ => q.srcVa
    | .scat => at_ q.srcVa (q.done * q.elemBytes)
    | .coll => wrapTo 64 (((q.srcs.headD 0).toNat + q.done : Nat) : Int)
  match pieces s.mem k (k.phys l) src 1 with
  | .ok ps => ps
  | .error _ => []

/-- A thread's waves older than a command's, and its stores from them, are done with (R371). -/
def Ctx.olderDone (k : Ctx) (q : EngCmd) : Bool :=
  !(k.committed.any fun c => c.thread == q.thread && c.born == q.born && older c.wave q.wave)
    && (match k.th q.thread with
        | some x => x.born != q.born || !((x.waves ++ x.dropped).any fun v => older v.num q.wave)
        | none => true)

/-- Command i of a share changed. -/
def Ctx.modCmd (k : Ctx) (l i : Nat) (f : EngCmd → EngCmd) : Ctx :=
  k.modShare l fun h => { h with cmds := match h.cmds[i]? with | some q => setAt h.cmds i (f q) | none => h.cmds }

/-- ENGINE_UNIT (R387, R389): one unit of a running command, or the release that must come first, or the start of one that waits for
a place. -/
def execEngineUnit (c : CtxId) (l i _pick : Nat) (ecc : Option (BitVec 2)) (s : State) : Out :=
  .next <| match s.active c with
    | none => s
    | some k =>
      match (k.share l).cmds[i]? with
      | none => s
      | some q =>
        if q.fin.isSome || k.gate ≥ 2 || (tgetD k.pmap l 0).getLsbD 30 then s
        else if q.waits then
          (if s.engineLoad (k.phys l) ≥ 64 then s
           else s.setCtx (k.modCmd l i fun q => { q with waits := false, started := q.act != .coll }))
        else if !q.started || q.armed then s
        else if q.cancel then s.setCtx (k.modCmd l i fun q => { q with fin := some (5, 0) })
        else if q.x.ord = 2 && !q.released then
          (if !k.olderDone q then s
           else (s.setCtx (k.modCmd l i fun q => { q with released := true })).releaseAt k.num (k.phys l) 2 q.x.scp)
        else match (s.corrected (s.unitReads k l q) ecc).unit k l q ecc with
          | .wait => s
          | .ended st d ts => s.setCtx (k.modCmd l i fun q => { q with fin := some (st, d), tiles := (q.tiles ++ ts).eraseDups })
          | .moved t ts n => t.modCtx c fun k => k.modCmd l i fun q =>
              { q with done := q.done + n, tiles := (q.tiles ++ ts).eraseDups
                       fin := if q.done + n ≥ q.count then some (1, 0) else none }

/-! ### Completion (R369, R122) -/

/-- A share's commands that have ended, in the order COMMAND_COMPLETION counts them: the engine's, then the domains'. -/
def Share.endedDomain (h : Share) : List (Nat × DomCmd) :=
  h.doms.flatMap fun e => (e.2.queue.filter fun q => q.fin.isSome && q.rel.isEmpty).map fun q => (e.1, q)

/-- An engine command's completion step: its tiles flip, its word is written, its chime input pulses. -/
def Ctx.endEngine (k : Ctx) (l : Nat) (q : EngCmd) (e : BitVec 8 × BitVec 24) : Ctx :=
  let k1 := (k.modShare l fun h => { h with cmds := dropFirst (· == q) h.cmds }).flipBack q.tiles
  let k2 := (k1.fillRun l q.cwoff (wordOf e.1 e.2 q.done)).charge (k.phys l) 2 0
  if q.x.chen then k2.modShare l fun h => h.pulseEngine q.x.chin.toNat else k2

/-- COMMAND_COMPLETION (R122): the i-th command that has ended, once its word can be written. -/
def execCommandCompletion (c : CtxId) (l i : Nat) (s : State) : Out :=
  .next <| s.modCtx c fun k =>
    let h := k.share l
    let es := h.cmds.filter (·.fin.isSome)
    if (tgetD k.pmap l 0).getLsbD 30 then k
    else match es[i]? with
      | some q => if h.wordFree q.cwoff then k.endEngine l q (q.fin.getD (1, 0)) else k
      | none => match h.endedDomain[i - es.length]? with
        | some (d, q) => k.endDom l d q (q.fin.getD (1, 0))
        | none => k

/-! ### ECAN (R390) -/

/-- ECAN (R390). -/
def execEcan (t : Tmpl) (x : FormX) (s : State) : Out :=
  .next (s.fireX t x false fun f =>
    let a := (lo64 f.q.a).toNat
    if inScratch a && inMap f.k a 1 then f.hold .ecan x 0 [] else .raise 0x07 (lrDetail 0 5) (lo64 f.q.a))

/-- A queued or running engine command cancelled. -/
def EngCmd.cancelled (q : EngCmd) : EngCmd :=
  if q.fin.isSome then q
  else if q.started && !q.armed then { q with cancel := true } else { q with armed := false, waits := false, fin := some (5, 0) }

/-- A command of a domain cancelled: at its next row when it runs, at once when it is queued. -/
def DomCmd.cancelled (q : DomCmd) : DomCmd :=
  if q.fin.isSome then q else if q.accepted then { q with cancel := true } else { q with fin := some (5, 0) }

/-- ECAN at commit: every command whose completion word lies at the offset of a logical cluster's scratchpad. -/
def Ctx.cancelAt (k : Ctx) (l off : Nat) : Ctx :=
  { k with shares := k.shares.map fun (h : Share) => { h with
      cmds := h.cmds.map fun (q : EngCmd) => if h.lcl == l && q.cwoff == off then q.cancelled else q
      doms := h.doms.map fun e => (e.1, { e.2 with
        queue := e.2.queue.map fun (q : DomCmd) => if q.lcl == l && q.cwoff == off then q.cancelled else q }) } }

def State.doEcan (s : State) (k : Ctx) (o : DefOp) : Perf :=
  let a := (lo64 o.a).toNat - scratchBase
  .done (s.setCtx (k.cancelAt (a / 0x1000000) (a % 0x1000000))) 0 0

end Sys2Proof.Machine
end

