-- ==== Sys2Proof/Machine/Order.lean ====
section
/-! DEFINITION. The store buffer's own steps: MEMORY_ORDER_ENTRY, LOAD_BIND, WAVE_COMMIT, STORE_PERFORM,
COMMITTED_OPERATION_WAIT_END and PARKED_QUEUE_SERVE (01 R37, 04 R105 to R109, 05 R137, R148, R161, 13 R345 to R349,
R366, 18 R460). -/

namespace Sys2Proof.Machine

/-! ### What is left of a wave (R37, R460) -/

/-- The first n elements that a test names are taken out. -/
def dropSome {α : Type} (p : α → Bool) : Nat → List α → List α
  | 0, l => l
  | n + 1, l => dropSome p n (dropFirst p l)

/-- The tokens that a held firing would take, and those that its repetitions would take, queued behind them with the same tag (R35),
are not counted against the wave they came from (R460). -/
def HeldFiring.excuse (w : WaveId) (ts : List Arrived) (a : HeldFiring) : List Arrived :=
  let isOf (ds : List Dst) (t : Arrived) : Bool :=
    t.blk == a.site.blk && ds.contains t.dst && t.tok.thread == a.site.thread && t.tok.wave == a.site.wave && !t.old && !t.held
  let counts := a.ops.map fun ds => (ts.filter (isOf ds)).length
  if a.site.wave != w then ts
  else a.ops.foldl (fun ts ds => dropSome (isOf ds) (counts.foldl min (counts.headD 0)) ts) ts

/-- The firings of a thread that a gate holds. -/
def Ctx.heldOf (k : Ctx) (x : Thread) : List HeldFiring :=
  if k.gateShut x.lcl then k.gated.filter (·.site.thread == x.num) else []

/-- The tokens of a wave that still count against its commit. -/
def Ctx.tokensLeft (k : Ctx) (x : Thread) (w : WaveId) : List Arrived :=
  (k.heldOf x).foldl (HeldFiring.excuse w) ((k.tokens ++ k.spilled).filter fun a => a.tok.thread == x.num && a.tok.wave == w)

/-- A contribution of a wave waits for its turn in a VRED register: it has not been added yet, and no gate holds its firing
(12 R341, R343). -/
def Ctx.sumsLeft (k : Ctx) (x : Thread) (w : WaveId) : Bool :=
  k.vreds.any fun (v : Vred) => v.thread == x.num && v.held.any (fun c => c.wave == w && !c.spent)
    && !((k.heldOf x).any fun a => a.site.blk == v.blk && a.site.slot == v.slot && a.site.wave == w)

/-- A held firing of a wave that has committed, whose operands still stand, will emit into a later one (R460). -/
def Ctx.heldInto (k : Ctx) (x : Thread) (v : Wave) : Bool :=
  (k.tokens ++ k.spilled).any fun a =>
    a.tok.thread == x.num && older a.tok.wave v.num && !(x.waves.any fun u => u.num == a.tok.wave)

/-- No token of the wave stands anywhere, and none is still due to it. -/
def Ctx.spent (k : Ctx) (x : Thread) (v : Wave) : Bool :=
  v.holds = 0 && (k.tokensLeft x v.num).isEmpty && !k.sumsLeft x v.num && !k.heldInto x v

/-- The chain of a wave is complete (R348). -/
def Ctx.chainDone (k : Ctx) (x : Thread) (v : Wave) : Bool := v.chained || (v.ops.isEmpty && k.spent x v)

/-! ### Entering the order (R348, R161) -/

/-- An operation's turn to enter: the head's once the chains of all earlier waves are complete and, since entering
builds the thread's order (R105), have entered; another's once its predecessor has entered. -/
def Ctx.turnToEnter (k : Ctx) (x : Thread) (v : Wave) (o : MemOp) : Bool :=
  !o.entered && (if o.isHead then (x.waves.filter fun u => older u.num v.num).all fun u => k.chainDone x u && u.ops.all (·.entered)
                 else v.ops.any fun y => y.entered && linked y o)

/-- An SC load or SC fence with a store of its own wave before it in sequence order (R349). -/
def scMisplaced (v : Wave) (o : MemOp) : Bool :=
  ((o.act.isLoad && o.ord = 3) || (o.act == .fence && o.m.ord = 3))
    && (v.ops.any fun y => y.entered && y.act.atCommit)

/-- The wave whose operation takes an entry of a store buffer. -/
abbrev BufSlot := CtxId × ThreadId × Nat × WaveId

/-- The entries of a cluster's store buffer that are taken, each by its wave (R161). -/
def State.bufUsed (s : State) (clu : Nat) : List BufSlot :=
  (s.ctxs.filter fun k => k.state != 3).flatMap fun k =>
    ((k.threads.filter fun x => k.phys x.lcl == clu).flatMap fun x => x.waves.flatMap fun v =>
        (v.ops.filter fun o => o.entered && !o.bound).map fun _ => (k.num, x.num, x.born, v.num))
      ++ k.committed.filterMap fun e => match e.item with
        | .mem _ => if k.phys e.lcl == clu then some (k.num, e.thread, e.born, e.wave) else none
        | .dfr _ => none

/-- An entry, and a slot for its wave, is free below given limits. -/
def bufFree (used : List BufSlot) (me : BufSlot) (entries slots : Nat) : Bool :=
  decide (used.length < entries) && (used.contains me || decide (used.eraseDups.length < slots))

/-- The wave that holds a cluster's reserve. -/
def State.reserveOf (s : State) (clu : Nat) : Option (CtxId × ThreadId × WaveId) :=
  s.ctxs.findSome? fun k => k.threads.findSome? fun x =>
    if k.phys x.lcl == clu then (x.waves.find? (·.reserve)).map fun v => (k.num, x.num, v.num) else none

/-- The oldest waves of threads on a cluster with an operation whose turn it is, each with its thread's age: its launch's
admission, then its creation (R33; DEDUCED across contexts, log entry 47). -/
def State.heldBack (s : State) (clu : Nat) : List ((Nat × Nat) × CtxId × ThreadId × WaveId) :=
  s.ctxs.flatMap fun k => (k.threads.filter fun x => k.phys x.lcl == clu).filterMap fun x =>
    match x.oldest with
    | some v => if v.ops.any (k.turnToEnter x v) then some ((k.admitted x, x.born), k.num, x.num, v.num) else none
    | none => none

/-- Who may take the reserve now: its holder, or else the oldest wave held back (R161). -/
def State.reserveFor (s : State) (clu : Nat) : Option (CtxId × ThreadId × WaveId) :=
  match s.reserveOf clu with
  | some q => some q
  | none =>
    let qs := s.heldBack clu
    ((leastBy (fun (q : (Nat × Nat) × CtxId × ThreadId × WaveId) => q.1.1) qs).bind fun q =>
      leastBy (fun (p : (Nat × Nat) × CtxId × ThreadId × WaveId) => p.1.2) (qs.filter fun p => p.1.1 = q.1.1)).map (·.2)

/-- Room for a wave's operation: ordinary, or from the reserve, which its wave then keeps; none while it must wait. -/
def State.roomFor (s : State) (k : Ctx) (x : Thread) (w : WaveId) : Option Ctx :=
  let clu := k.phys x.lcl
  let used := s.bufUsed clu
  let me : BufSlot := (k.num, x.num, x.born, w)
  if bufFree used me 768 511 then some k
  else if s.reserveFor clu == some (k.num, x.num, w) && bufFree used me 1024 512 then
    some (k.modWv x.num w fun v => { v with reserve := true })
  else none

/-! ### The probe (R366, R401 to R432) -/

/-- An acquiring load of the thread before an operation has not been performed (R122). -/
def Ctx.acquirePending (k : Ctx) (x : Thread) (w : WaveId) (own : BitVec 8) : Bool :=
  (k.prior x w own).any fun e => (e.2.acquiring || (e.2.act == .fence && acquires e.2.m.ord)) && !e.2.bound

/-- An operation that is complete as it enters: a marker without an acquire, and a hint. -/
def MemOp.doneAtEntry (o : MemOp) : Bool :=
  o.act == .mnop || o.act == .pref || (o.act == .fence && !acquires o.m.ord)

/-- The operation has entered: what its probe reserves is reserved, and its acceptance is emitted (R347). -/
def Ctx.entered (k : Ctx) (th : ThreadId) (w : WaveId) (o : MemOp) : Ctx :=
  let o1 := { o with entered := true, bound := o.doneAtEntry }
  let k1 := (k.modWv th w fun v => { v with ops := updFirst (fun y => y.m.own == o.m.own) (fun _ => o1) v.ops }).reserve th w o1
  if !o.act.accepts then k1
  else
    let k2 := k1.put th w o.out o.rt 0 0
    if o.out != w && o.rt.any then k2.paid th o.out else k2

/-- The effect of a hint whose probe passed (R359): energy, a miss (07 R199, R208), and the line in the L1, of memory that an L1
holds and that can be read now. -/
def State.hint (s : State) (k : Ctx) (x : Thread) (o : MemOp) : State :=
  if o.act == .pref then
    let ps := o.ps.filter fun p => s.mem.cachedHere p && !pieceWaits s.mem k p false
    let s1 := s.spend k.num x.lcl (k.phys x.lcl) false ps
    { s1 with mem := ps.foldl (fun m p => m.prefetch (k.phys x.lcl) p) s1.mem }
  else s

/-- The bytes that an operation on a queue, a table or a record accesses besides its own pieces: address, length and kinds. -/
def State.queueRuns (s : State) (k : Ctx) (o : MemOp) : List (Nat × Nat × BitVec 8) :=
  let rw : BitVec 8 := kRead ||| kWrite
  let q := s.queue k o.desc
  let desc : Nat × Nat × BitVec 8 := (o.desc, 64, rw)
  let front : Nat × Nat × BitVec 8 := (q.front + 8 * o.producer, 8, rw)
  match o.act with
  | .qput => [desc, (q.slot q.tail, 16, kWrite)]
  | .qget => [desc, (q.slot q.head, 16, kRead)]
  | .qbind | .qunbind | .iqlook => [desc]
  | .iqput => [desc, front, (q.slot q.tail, 32, kWrite)]
  | .iqget => [desc, (q.slot q.head, 32, kRead)]
  | .iqcons => desc :: (List.range q.held).map fun i => (q.slot (q.head + i), 32, rw)
  | .iqadv => [desc, front]
  | .iqquiet => (o.desc, 8 * (o.producer + 1), kRead) :: o.listed.map fun va => (va, 64, kRead)
  | .launch => [((lo64 o.a).toNat, 64, kRead)]
  | .capget => match ringOf k.capqb with
    | some (base, _) => [(base, 16, rw)]
    | none => []
  | .dget => if k.dictValid o.dict && o.entry < k.dictCount o.dict then [(k.dictBase o.dict + 8 * o.entry, 8, kRead)] else []
  | .dput => [(k.dictBase o.dict + 8 * o.entry, 8, kWrite)]
  | .logset => [(vbits o.a 55 0, 32, kRead)]
  | .keyset => if o.keyOp = 0 then [(vbits o.b 55 0, 64, rw)] else []
  | _ => []

/-- The pieces of runs of bytes. -/
def State.runPieces (s : State) (k : Ctx) (rs : List (Nat × Nat × BitVec 8)) : List (List Piece × BitVec 8) :=
  rs.filterMap fun r => match pieces s.mem k k.devSite r.1 r.2.1 with
    | .ok ps => some (ps, r.2.2)
    | .error _ => none

/-- One of them cannot be reached yet. -/
def State.runsWait (s : State) (k : Ctx) (rs : List (Nat × Nat × BitVec 8)) : Bool :=
  (s.runPieces k rs).any fun q => q.1.any fun p => pieceWaits s.mem k p (q.2.getLsbD 1)

/-- The pieces of them that are read. -/
def State.runsRead (s : State) (k : Ctx) (rs : List (Nat × Nat × BitVec 8)) : List Piece :=
  ((s.runPieces k rs).filter fun q => q.2.getLsbD 0).flatMap (·.1)

/-- One of them must be counted into a full log ring (R191). -/
def State.runsFull (s : State) (k : Ctx) (rs : List (Nat × Nat × BitVec 8)) : Bool :=
  (s.runPieces k rs).any fun q => s.logFull k.num q.1 q.2

/-- They are counted and charged as found in `s`, once the operation is performed in `t`. -/
def State.countRuns (s : State) (k : Ctx) (clu : Nat) (rs : List (Nat × Nat × BitVec 8)) (t : State) : State :=
  (s.runPieces k rs).foldl (fun (t : State) q => (t.logAccess k.num q.1 q.2).engineSpend k.num clu (q.2.getLsbD 1) q.1) t

/-- What the probe of an operation reads cannot be reached yet (16 R441 to R443). -/
def State.probeWaits (s : State) (k : Ctx) (x : Thread) (o : MemOp) : Bool :=
  match o.act with
  | .ld | .st | .ldc | .stf | .ldi | .sti | .pref | .atom _ | .red _ | .redFadd | .own | .feq | .feset | .clean | .flush
  | .invl | .joinw => false
  | .qbind => s.devWaits k o.desc 64 false || s.launchImageWaits k x.ln
  | .iqquiet => s.devWaits k o.desc (8 * (o.producer + 1)) false
  | _ => (s.queueRuns k o).any fun r => s.devWaits k r.1 r.2.1 false

/-- MEMORY_ORDER_ENTRY (R348). -/
def execMemoryOrderEntry (c : CtxId) (th : ThreadId) (w : WaveId) (own : BitVec 8) (s : State) : Out :=
  .next <| match s.active c with
    | none => s
    | some k =>
      match k.th th, k.wv th w with
      | some x, some v =>
        match v.op own with
        | none => s
        | some o =>
          if !k.turnToEnter x v o then s
          else if scMisplaced v o then s.setCtx (k.raiseAt th o.blk o.seen w 0x0C 2 3 0)
          else if s.probeWaits k x o then s
          else match s.roomFor k x w with
            | none => s.setCtx (k.perfAdd x.lcl 4 1)
            | some k1 =>
              match s.probeOp k x w o with
              | .ok o1 => ((s.setCtx k1).hint k1 x o1).modCtx c fun k => k.entered th w o1
              | .error (e, a) =>
                if o.act == .pref then s.setCtx (k1.entered th w o)
                else if e.code = 0x0A && k.acquirePending x w own then s
                else s.setCtx (k1.raiseAt th o.blk o.seen w e.code 2 e.detail a)
      | _, _ => s

/-! ### LOAD_BIND (R106) -/

/-- An operation of a wave changed. -/
def Ctx.modOp (k : Ctx) (th : ThreadId) (w : WaveId) (own : BitVec 8) (f : MemOp → MemOp) : Ctx :=
  k.modWv th w fun v => { v with ops := updFirst (fun y => y.m.own == own) f v.ops }

/-- An operation is performed with nothing to emit. -/
def Ctx.markBound (k : Ctx) (th : ThreadId) (w : WaveId) (own : BitVec 8) : Ctx :=
  k.modOp th w own fun o => { o with bound := true, parked := false }

/-- An acquiring fence waits for every earlier load, and an SC one for every earlier store (R117); any waits for an RSTAT ahead. -/
def Ctx.fenceHeld (k : Ctx) (x : Thread) (w : WaveId) (o : MemOp) : Bool :=
  k.rstatAhead x w || (k.prior x w o.m.own).any fun e =>
    (e.2.act.isLoad && !e.2.bound) || (e.2.act == .fence && !e.2.bound) || (o.m.ord = 3 && e.2.act.atCommit)

/-- The operation reads bytes of memory at its binding. -/
def MemAct.reads : MemAct → Bool
  | .ld | .ldc | .ldi | .joinw => true
  | _ => false

/-- The pieces that a load reads at its binding: a DGET's are those of its dictionary entry (R421). -/
def State.readBy (s : State) (k : Ctx) (o : MemOp) : List Piece :=
  if o.act.reads then o.ps
  else if o.act == .dget then (s.runPieces k (s.queueRuns k o)).flatMap (·.1)
  else []

/-- A load's value. -/
def State.loadValue (s : State) (k : Ctx) (x : Thread) (w : WaveId) (o : MemOp) : State × Value :=
  let (s1, b) := (s.account k.num x.lcl (k.phys x.lcl) kRead o.ps).seenBytes k x w o o.ps
  (s1, BitVec.ofNat 128 (leNat b))

/-- The load's value is emitted, and its acquire discards (R113). -/
def State.bound (s : State) (c : CtxId) (clu : Nat) (th : ThreadId) (w : WaveId) (o : MemOp) (v : Value) : State :=
  let s1 := s.modCtx c fun k => k.bind th w o.m.own v
  { s1 with mem := s1.mem.acquire clu o.ord o.scp }

/-- The reader record of a parked LDC or LDI (R89). -/
def MemOp.reader (o : MemOp) (th : ThreadId) (w : WaveId) (off : Nat) : Reader :=
  { thread := th, wave := w, own := o.m.own
    kind := if o.act == .ldi then 0 else if o.m.q then 2 else 1, sz := o.size, off := off }

/-- The 16 bytes of a WAITING granule: the head of its deferred-reader list, for the addresses of the oldest and the newest record
(R89). -/
def Gran.head (g : Gran) (first last : Addr) : BitVec 128 := first ++ BitVec.ofNat 16 g.readers.length ++ last.extractLsb' 0 48

/-- A deferred reader's record, for the address of the next one (R89): the reading slot is that of the reader's operation. -/
def Ctx.readerRec (k : Ctx) (r : Reader) (next : Addr) : BitVec 256 :=
  let o := ((k.wv r.thread r.wave).bind (·.op r.own)).getD default
  next ++ r.wave ++ r.thread ++ o.seen.pe ++ o.seen.slot.extractLsb' 0 7 ++ BitVec.ofNat 3 (o.rt.to1.length + o.rt.to2.length)
    ++ BitVec.ofNat 3 r.sz.log2 ++ BitVec.ofNat 4 r.off ++ r.kind ++ (0 : BitVec 125)

/-- LDC or LDI parks on its granule, or finds no room for its record (R89, R31). -/
def Ctx.parkReader (k : Ctx) (th : ThreadId) (w : WaveId) (o : MemOp) (l g off : Nat) : Ctx :=
  let x := (k.share l).gran g
  if x.readers.length ≥ 65535 || !k.ovfRoom then k.raiseAt th o.blk o.seen w 0x0D 2 1 (lo64 o.a)
  else
    let x1 := { x with readers := x.readers ++ [o.reader th w off], st := if x.hold.isSome then x.st else 2 }
    (k.modShare l fun h => h.setGran g x1).modOp th w o.m.own fun y => { y with parked := true }

/-- A consuming LDC takes its hold (R88). -/
def Ctx.takeHold (k : Ctx) (th : ThreadId) (w : WaveId) (l g : Nat) : Ctx :=
  k.modShare l fun h =>
    h.setGran g { h.gran g with st := 0, hold := some ⟨th, w, rdN h.bytes (16 * g) 16⟩ }

/-- One byte of a load made a byte at a time (R111); energy, log and misses are those of the whole load, with its first byte. -/
def State.loadByte (s : State) (k : Ctx) (x : Thread) (w : WaveId) (o : MemOp) (pick : Nat) : State :=
  let clu := k.phys x.lcl
  let i := o.nextByte pick
  let s1 := if o.part.isEmpty then s.account k.num x.lcl clu kRead o.ps else s
  let (s2, b) := s1.seenBytes k x w o ((o.bytePieces[i]?).toList)
  let o1 := o.withByte i (b.headD 0)
  if o1.part.length ≥ o.size then s2.bound k.num clu x.num w o (BitVec.ofNat 128 (leNat o1.collected))
  else s2.modCtx k.num fun k => k.modOp x.num w o.m.own fun y => { y with part := o1.part }

/-- LDC and LDI (R352, R353). -/
def State.presenceLoad (s : State) (k : Ctx) (x : Thread) (w : WaveId) (o : MemOp) : State :=
  match o.granule with
  | none => s
  | some (l, g, off) =>
    if presenceReady o (k.prior x w o.m.own) (k.viewOf o) then
      let (s1, v) := s.loadValue k x w o
      let s2 := if o.act == .ldc && o.m.q then s1.modCtx k.num fun k => k.takeHold x.num w l g else s1
      s2.bound k.num (k.phys x.lcl) x.num w o v
    else (s.account k.num x.lcl (k.phys x.lcl) kRead o.ps).modCtx k.num fun k => k.parkReader x.num w o l g off

/-- JOINW (R405): bound by a nonzero word, an acquire at system scope; parked on zero. -/
def State.join (s : State) (k : Ctx) (x : Thread) (w : WaveId) (o : MemOp) : State :=
  let (s1, v) := s.loadValue k x w o
  if v = 0 then s1.modCtx k.num fun k => k.modOp x.num w o.m.own fun y => { y with parked := true }
  else s1.bound k.num (k.phys x.lcl) x.num w o v

/-- A load whose waits are over. -/
def State.doLoad (s0 : State) (k : Ctx) (x : Thread) (w : WaveId) (o : MemOp) (pick : Nat) : State :=
  let clu := k.phys x.lcl
  let s := s0.scBefore k.num clu o
  match o.act with
  | .ld => if o.torn then s.loadByte k x w o pick else let (s1, v) := s.loadValue k x w o; s1.bound k.num clu x.num w o v
  | .ldc | .ldi => s.presenceLoad k x w o
  | .feq => (s.account k.num x.lcl clu kRead o.ps).bound k.num clu x.num w o
      ((presenceAfter o (k.prior x w o.m.own) (k.viewOf o)).zeroExtend 128)
  | .joinw => s.join k x w o
  | .lstat => s.bound k.num clu x.num w o (k.launchState (o.a.extractLsb' 0 32))
  | .dget => (s.countRuns k clu (s.queueRuns k o) s).bound k.num clu x.num w o (scalar (s.dictEntry k o.dict o.entry))
  | .invl => (s.maintainAt k.num clu true o.ps).modCtx k.num fun k => k.markBound x.num w o.m.own
  | .fence =>
    { s.setCtx (k.markBound x.num w o.m.own) with mem := s.mem.acquire clu o.m.ord o.m.scp }
  | _ => s

/-- A line that leaves its L1 of its own accord, before anything else happens (R107, rule 9): the n-th, counted from 1. -/
def Mems.stray (m : Mems) (n : Nat) : Mems :=
  if n = 0 then m else match m.l1[n - 1]? with
    | some e => m.evict e
    | none => m

/-- The operation is still to be performed before its wave commits, and nothing holds it back. -/
def State.mayBind (s : State) (k : Ctx) (x : Thread) (w : WaveId) (o : MemOp) : Bool :=
  o.entered && !o.bound && (o.act.isLoad || o.act == .fence) && (!o.parked || o.act == .joinw)
    && !(if o.act == .fence then k.fenceHeld x w o else k.loadHeld x w o) && !s.loaderAhead k x w o
    && !(o.ps.any fun p => pieceWaits s.mem k p false) && !(o.part.isEmpty && s.logFull k.num o.ps kRead)
    && !(o.act == .dget && (s.runsFull k (s.queueRuns k o) || s.runsWait k (s.queueRuns k o)))

/-- LOAD_BIND (R106): `pick` names the line that leaves its L1 first, or, of a load made a byte at a time, the byte; `ecc` is
an error met in what is read. -/
def execLoadBind (c : CtxId) (th : ThreadId) (w : WaveId) (own : BitVec 8) (pick : Nat) (ecc : Option (BitVec 2))
    (s0 : State) : Out :=
  let torn := (((s0.ctx c).bind (·.wv th w)).bind (·.op own)).any MemOp.torn
  let s : State := if torn then s0 else { s0 with mem := s0.mem.stray pick }
  .next <| match s.active c with
    | none => s
    | some k =>
      match k.th th, (k.wv th w).bind (·.op own) with
      | some x, some o =>
        if !s.mayBind k x w o then s
        else match readError s.mem (s.readBy k o) ecc with
          | some d => (s.spend c x.lcl (k.phys x.lcl) false (s.readBy k o)).modCtx c fun k =>
              k.raiseAt th o.blk o.seen w 0x0F 2 (d.zeroExtend 24) (lo64 o.a)
          | none => (s.corrected (s.readBy k o) ecc).doLoad k x w o pick
      | _, _ => s

/-! ### WAVE_COMMIT (R37) -/

/-- A dequeue would find too few records for itself, the operations before it in its wave and the committed ones. -/
def State.getBlocked (s : State) (k : Ctx) (x : Thread) (v : Wave) (o : MemOp) : Bool :=
  let upTo := v.chain.takeWhile (fun y => y.m.own != o.m.own) ++ [o]
  let held := match o.act with
    | .pqget => k.pq.length
    | .qget => (s.queue k o.desc).held
    | _ => (s.irecs k (s.queue k o.desc)).length
  decide (held < k.getNeed o.act o.desc x.num upTo) || k.parkedAhead (parkOf x.num v.num o) o.act

/-- The first dequeue of a wave that would find nothing: it holds the wave uncommitted, parked (R144, R148, R401). -/
def State.emptyGet (s : State) (k : Ctx) (x : Thread) (v : Wave) : Option Park :=
  (v.chain.find? fun o => (o.act == .qget || o.act == .iqget || o.act == .pqget) && s.getBlocked k x v o).map
    (parkOf x.num v.num)

/-- Every operation of the wave has entered, and each that is performed before commit has been. -/
def Wave.bound (v : Wave) : Bool := v.ops.all fun o => o.entered && (o.bound || o.act.atCommit)

/-- The wave's tokens are gone and its chain can no longer be closed (R349). -/
def Ctx.unclosed (k : Ctx) (x : Thread) (v : Wave) : Option MemOp :=
  if v.ops.isEmpty || v.chained || !k.spent x v || v.ops.any (k.turnToEnter x v)
      || v.ops.any (fun o => o.entered && !o.bound && !o.act.atCommit) then none
  else (v.ops.find? fun o => !o.entered).or v.ops.getLast?

/-- A result of an operation comes after its commit. -/
def Item.answers : Item → Bool
  | .mem o => o.act.isAtomic && o.rt.any
  | .dfr d => d.answers

/-- What a wave hands over at its commit, in sequence order: its chain's stores, atomics and releasing fences, the
stores of its stream units, then its deferred instructions (R107, R124, R398). -/
def Wave.handedOver (v : Wave) : List Item :=
  ((v.chain.filter fun o => o.act.atCommit || (o.act == .fence && releases o.m.ord)) ++ v.drains).map Item.mem
    ++ v.defs.map Item.dfr

/-- One handed-over operation as a committed one. -/
def committedOf (x : Thread) (v : Wave) (i : Item) : Committed :=
  { thread := x.num, born := x.born, ln := x.ln, lcl := x.lcl, wave := v.num, item := i, waiting := false
    due := i.answers && !v.tend, owed := false }

/-- Kept operands of a slot and thread, newest first: of those made final only the newest is still needed (R56). -/
def pruneKept : List Kept → List Kept
  | [] => []
  | e :: r => e :: (pruneKept r).filter fun q =>
      !(e.final && q.final && e.blk == q.blk && e.slot == q.slot && e.b == q.b && e.tok.thread == q.tok.thread)

/-- The steps of a VRED register that stay provisional once waves up to w have committed (12 R343). -/
def Vred.settle (v : Vred) (w : WaveId) : Vred :=
  { v with log := (v.log.reverse.dropWhile fun st => notOlder st.con.wave w).reverse }

/-- The flags that the additions of a wave raised in a thread's VRED registers: they accrue at its commit (12 R342). -/
def Ctx.sumFlags (k : Ctx) (t : ThreadId) (w : WaveId) : BitVec 5 :=
  (k.vreds.filter fun (v : Vred) => v.thread == t).foldl (fun fl v =>
    v.log.foldl (fun fl st => if st.con.wave == w then fl ||| st.flags else fl) fl) 0

/-- The slot state of a thread after its wave's commit. -/
def Ctx.settleWave (k : Ctx) (t : ThreadId) (w : WaveId) : Ctx :=
  { k with
    kept := pruneKept (k.kept.map fun (e : Kept) => if e.tok.thread == t && e.tok.wave == w then { e with final := true } else e)
    vreds := k.vreds.map fun (v : Vred) => if v.thread == t then v.settle w else v }

/-- The LBARs among a wave's operations, just committed, are counted at their barriers, each at most once in a phase (07
R206). -/
def Ctx.arriveAll (k : Ctx) (es : List Committed) : Ctx :=
  es.foldl (fun k e => if laterPhase k.committed e then k else k.arrive e) k

/-- The commit of a thread's oldest wave (R37, R67, R88, R108, R295). -/
def Ctx.commit (k : Ctx) (x : Thread) (v : Wave) : Ctx :=
  let (k0, es) := ({ k with fpflags := k.fpflags ||| v.flags ||| k.sumFlags x.num v.num } : Ctx).readStatuses (v.handedOver.map (committedOf x v))
  let k1 := k0.settleWave x.num v.num
  let k2 := (k1.modTh x.num fun y => { y with
      waves := y.waves.filter fun u => u.num != v.num
      skips := y.skips.filter fun p => !notOlder p.2.2 v.num
      last := some v.num, lastBlk := v.blk }).endHolds x.num v.num
  let k3 := (({ k2 with committed := k2.committed ++ es } : Ctx).arriveAll es).oweResults
  if v.tend then k3.endThread x.num else k3

/-- A wave has committed: a debug step ends (02 R75). -/
def State.afterCommit (s : State) (c : CtxId) (x : Thread) (w : WaveId) : State :=
  if s.dbg.stepping && s.dbg.ctx == c && s.dbg.thread == x.num then
    let s1 := s.debugHalt c x.num w 0xFE none
    { s1 with dbg := { s1.dbg with stepping := false } }
  else s

/-- The oldest wave of a thread commits, parks, or shows that its chain cannot close. -/
def State.tryCommit (s : State) (c : CtxId) (th : ThreadId) : State :=
  match s.active c with
  | none => s
  | some k =>
    match k.th th, (k.th th).bind Thread.oldest with
    | some x, some v =>
      match k.unclosed x v with
      | some o => s.setCtx (k.raiseAt th o.blk o.seen v.num 0x0C 2 2 0)
      | none =>
        if !k.chainDone x v || !v.bound || !k.spent x v then s
        else match s.emptyGet k x v with
          | some p => s.setCtx (k.park p)
          | none => (s.setCtx (k.commit x v)).afterCommit c x v.num
    | _, _ => s

/-- WAVE_COMMIT (R37). -/
def execWaveCommit (c : CtxId) (th : ThreadId) (s : State) : Out := .next (s.tryCommit c th)

/-! ### STORE_PERFORM (R106, R107, R137) -/

/-- A queue or table operation that a queue engine performs on memory. -/
def MemAct.onQueue : MemAct → Option Nat
  | .qput | .qget | .qbind | .qunbind => some 0
  | .iqput | .iqget | .iqlook | .iqcons | .iqadv | .iqquiet => some 1
  | _ => none

/-- The queue engine's accesses would fail now, after a change of the page tables (R401). -/
def State.queueGone (s : State) (k : Ctx) (o : MemOp) : Bool :=
  match o.act.onQueue with
  | some kind =>
    if o.act == .iqquiet then o.listed.any fun va => (s.queueProbe k va 1 .all).isSome
    else (s.queueProbe k o.desc kind (if o.act == .iqput || o.act == .iqadv then .one o.producer else .none)).isSome
  | none => false

/-- What a performance leaves when the state it answers is amended. -/
def Perf.amend (r : Perf) (f : State → State) : Perf :=
  match r with
  | .done t a b => .done (f t) a b
  | .wait _ | .part _ _ => r

/-- Performs a committed form-M operation. -/
def State.performAct (s : State) (k : Ctx) (me : Committed) (o : MemOp) (pick : Nat) (ecc : Option (BitVec 2)) : Perf :=
  match o.act with
  | .fence => .done (s.releaseAt k.num (k.phys me.lcl) o.m.ord o.m.scp) 0 0
  | .launch => s.doLaunch k me o
  | .lbar => s.doLbar k me o
  | .pqput => s.doPqput k me o
  | .pqget => s.doPqget k me pick
  | .rtget => s.doRtget k me o
  | .rtdone => s.doRtdone k me o
  | .qput => s.doQput k me o
  | .qget => s.doQget k me o
  | .qbind => s.doQbind k me o
  | .qunbind => s.doQunbind k o
  | .iqput => s.doIqput k me o pick
  | .iqget => s.doIqget k me o
  | .iqlook => s.doIqlook k o
  | .iqcons => s.doIqcons k o
  | .iqadv => s.doIqadv k o
  | .iqquiet => s.doIqquiet k o
  | .capget => s.doCapget k
  | .dput => s.doDput k o
  | .logset => s.doLogset o
  | .keyset => s.doKeyset k o
  | .pattr => s.doPattr k me o
  | .xlinv => s.doXlinv o
  | .st | .stf | .sti | .feset | .atom _ | .red _ | .redFadd | .own | .clean | .flush => s.performPlain k.num me o pick ecc
  | .ld | .ldc | .ldi | .feq | .invl | .mnop | .pref | .lstat | .joinw | .dget => .done s 0 0

/-- Performs a committed form-M operation, unless its queue can no longer be reached, or what it accesses cannot be reached now or
must be counted into a full log; its accesses to tables are counted and charged, and a corrected error met there is scored (06 R190,
07 R199, R203). -/
def State.performMem (s : State) (k : Ctx) (me : Committed) (o : MemOp) (pick : Nat) (ecc : Option (BitVec 2)) : Perf :=
  let rs := s.queueRuns k o
  if s.queueGone k o || s.runsFull k rs || s.runsWait k rs then .wait s
  else (s.performAct k me o pick ecc).amend fun t => (s.countRuns k (k.phys me.lcl) rs t).corrected (s.runsRead k rs) ecc

/-- Performs a committed deferred instruction. -/
def State.performDfr (s : State) (k : Ctx) (me : Committed) (d : DefOp) (pick : Nat) : Perf :=
  match d.act with
  | .acccfg => s.doAcccfg k me d
  | .ecan => s.doEcan k d
  | .rinit | .radv | .strcfg | .strgo | .strstop | .sqcfg | .sqgo | .chwire | .chset | .chpulse => s.doUnits k me d
  | .tnew | .dswitch | .dfence | .ipin | .iunpin | .ctxst | .syscall | .migrq | .fresume | .fabort | .steal | .cfgreq =>
    s.doSystem k me d pick

/-- The operand address a fault record names. -/
def Item.faddr : Item → BitVec 64
  | .mem o => lo64 o.a
  | .dfr _ => 0

/-- Where an item's results go. -/
def Item.site : Item → Addr × Seen × Route
  | .mem o => (o.blk, o.seen, o.rt)
  | .dfr d => (d.blk, d.seen, d.rt)

/-- An operation is no longer among the committed ones. -/
def Ctx.leaves (k : Ctx) (me : Committed) : Ctx := { k with committed := dropFirst (fun e => e == me) k.committed }

/-- A parked operation that has been performed gives up its place (05 R144, R148). -/
def Ctx.unparkItem (k : Ctx) (me : Committed) : Ctx :=
  match me.item with
  | .mem o => k.unpark (parkOf me.thread me.wave o)
  | .dfr _ => k

/-- What a performance leaves: a waiting operation is marked, one that is done leaves and its results are emitted. -/
def Perf.settle (r : Perf) (c : CtxId) (me : Committed) : State :=
  match r with
  | .wait t => if me.waiting then t else
      t.modCtx c fun k => { k with committed := updFirst (· == me) (fun e => { e with waiting := true }) k.committed }
  | .done t v1 v2 => t.modCtx c fun k =>
      let q := me.item.site
      ((k.unparkItem me).leaves me).emitLate me q.1 q.2.1 q.2.2 v1 v2
  | .part t o => t.modCtx c fun k => { k with committed := updFirst (· == me) (fun e => { e with item := .mem o }) k.committed }

/-- An uncorrectable error that the queue engine meets (R401): the operation stays unperformed, and the fault is the
thread's. -/
def State.queueError (s : State) (k : Ctx) (me : Committed) (o : MemOp) (detail : BitVec 2) : State :=
  match k.th me.thread with
  | some x => if x.born != me.born then s
      else s.setCtx (k.raiseAt me.thread o.blk o.seen (x.lateWave me.wave) 0x0F 2 (detail.zeroExtend 24) (lo64 o.a))
  | none => s

/-- The uncorrectable error that the queue engine meets in what a queue operation reads, as UNCORRECTABLE's detail. -/
def State.queueHurt (s : State) (k : Ctx) (o : MemOp) (ecc : Option (BitVec 2)) : Option (BitVec 2) :=
  if o.act.onQueue.isSome then readError s.mem (s.runsRead k (s.queueRuns k o)) (ecc.filter (·.toNat ≤ 1)) else none

/-- Performs a committed operation of a context. -/
def State.performOne (s : State) (c : CtxId) (me : Committed) (pick : Nat) (ecc : Option (BitVec 2)) : State :=
  match s.ctx c with
  | none => s
  | some k =>
    match me.item with
    | .mem o => match s.queueHurt k o ecc with
      | some d => s.queueError k me o d
      | none => (s.performMem k me o pick ecc).settle c me
    | .dfr d => (s.performDfr k me d pick).settle c me

/-- STORE_PERFORM (R106): the k-th committed operation of a thread that nothing holds yet; of a saved context, none (08 R222). -/
def execStorePerform (c : CtxId) (th : ThreadId) (n pick : Nat) (ecc : Option (BitVec 2)) (s : State) : Out :=
  .next <| match (s.ctx c).filter (·.state != 3) with
    | none => s
    | some k =>
      match (k.committed.filter fun e => e.thread == th && !e.waiting)[n]? with
      | none => s
      | some me => if k.followed s.mem me then s else s.performOne c me pick ecc

/-- A held operation that another event ends: an arrived LBAR, a DFENCE. -/
def Committed.elsewhere (e : Committed) : Bool :=
  match e.item with
  | .mem o => o.act == .lbar
  | .dfr d => d.act == .dfence

/-- The operation is a parked insertion. -/
def Committed.parkedPut (e : Committed) : Bool :=
  match e.item with
  | .mem o => o.act == .qput || o.act == .iqput
  | .dfr _ => false

/-- COMMITTED_OPERATION_WAIT_END (R137): a held operation of the thread is tried again. -/
def execCommittedOperationWaitEnd (c : CtxId) (th : ThreadId) (pick : Nat) (s : State) : Out :=
  .next <| match (s.ctx c).filter (·.state != 3) with
    | none => s
    | some k =>
      match k.committed.find? fun e => e.thread == th && e.waiting && !e.elsewhere && !e.parkedPut && !k.followed s.mem e with
      | none => s
      | some me => s.performOne c me pick none

/-- PARKED_QUEUE_SERVE (R148): a thread's parked insertion is performed, or its wave with a parked dequeue commits, when
its turn has come. -/
def execParkedQueueServe (c : CtxId) (th : ThreadId) (pick : Nat) (s : State) : Out :=
  .next <| match s.active c with
    | none => s
    | some k =>
      match k.committed.find? fun e => e.thread == th && e.waiting && e.parkedPut with
      | some me => if k.gateShut me.lcl then s else s.performOne c me pick none
      | none =>
        if !k.shutFor th && k.parks.any fun p => p.1 == th && ((k.th th).bind Thread.oldest).map (·.num) == some p.2.1 then
          s.tryCommit c th
        else s

end Sys2Proof.Machine
end

