-- ==== Sys2Proof/Machine/Faults.lean ====
section
/-! DEFINITION. Fault records and their delivery, the stall sweep and the page walk: FAULT_DELIVERY, STALL_SWEEP and
PAGE_WALK; and the capacity record (01 R49, 03 R81, 05 R156 to R158, 08 R212, R213). -/

namespace Sys2Proof.Machine

/-! ### The fault queue (R157, R212, R213) -/

/-- The 64 bytes of a fault record. -/
def FaultRec.bytes (r : FaultRec) (seq : Nat) : List Byte :=
  leBytes 4 seq ++ [r.cause, r.origin] ++ leBytes 2 r.thread.toNat ++ leBytes 3 r.wave.toNat ++ [r.pe]
    ++ leBytes 4 r.launch.toNat ++ leBytes 8 r.block.toNat ++ leBytes 8 r.faddr.toNat ++ leBytes 4 r.template.toNat
    ++ leBytes 4 r.short.toNat ++ leBytes 4 r.side.toNat ++ leBytes 2 r.poff.toNat ++ [r.slot, r.lcl, r.phys]
    ++ leBytes 3 r.detail.toNat ++ leBytes 2 r.gen.toNat ++ List.replicate 10 0

/-- Energy of a record's writing to a context's ring (07 R199). -/
def State.ringSpend (s : State) (k : Ctx) (base log2n size : Nat) : State :=
  ((s.devSpend k base 16 false).devSpend k (s.ringSlot k base log2n size) size true).devSpend k base 16 true

/-- What became of a record offered to the fault queue: it acts as unbound, it is full, or the record is written with a
sequence number. -/
inductive Filed where
  | unbound
  | full
  | written (s : State) (seq : BitVec 32)
  deriving Repr, Inhabited

/-- A record is offered to the fault queue of a context. -/
def State.file (s : State) (k : Ctx) (r : FaultRec) : Filed :=
  match ringOf k.fqb with
  | none => .unbound
  | some (base, n) =>
    match s.ringPut k base n 64 false r.bytes with
    | .error _ => .unbound
    | .ok none => .full
    | .ok (some s1) => .written (s1.ringSpend k base n 64) (BitVec.ofNat 32 (seqNext (s.devWord k base 4)))

/-- A launch is to be aborted with a fault's cause and detail (R138). -/
def Ctx.condemn (k : Ctx) (ln : BitVec 32) (r : FaultRec) : Ctx :=
  k.modLn ln fun n => { n with abort := some (n.abort.getD (r.cause, r.detail.extractLsb' 0 16)) }

/-- The record of a thread's fault is in the queue: FRESUME and FABORT may name it. -/
def Ctx.numbered (k : Ctx) (t : ThreadId) (r : FaultRec) (seq : BitVec 32) : Ctx :=
  k.modTh t fun x => if x.fault = some r && x.delivered then { x with seqNo := some seq } else x

/-- Held records are written, oldest first, while the queue has room. -/
def State.writeHeld (s : State) (c : CtxId) : Nat → State
  | 0 => s
  | fuel + 1 =>
    match s.ctx c with
    | none => s
    | some k =>
      match k.heldRecs with
      | [] => s
      | (t, r) :: rest =>
        match s.file k r with
        | .full => s
        | .unbound => State.writeHeld (s.setCtx (({ k with heldRecs := rest } : Ctx).condemn r.launch r)) c fuel
        | .written s1 seq =>
          State.writeHeld (s1.modCtx c fun k => ({ k with heldRecs := rest } : Ctx).numbered t r seq) c fuel

/-- A thread's fault is delivered: STATE 2, FLT one more, the record filed or held, and a launch with FAULTQ = 0, or
without a queue, condemned. -/
def State.deliver (s : State) (k : Ctx) (x : Thread) (r : FaultRec) : State :=
  let k1 := ({ k with flt := k.flt + 1 } : Ctx).setTh { x with state := 2, delivered := true }
  let faultq := ((k.ln x.ln).map (·.lrec.faultq)).getD false
  let k2 := if faultq then k1 else k1.condemn x.ln r
  let s1 := s.setCtx k2
  if !k.heldRecs.isEmpty then
    (if (ringOf k.fqb).isSome then s1.setCtx { k2 with heldRecs := k2.heldRecs ++ [(x.num, r)] } else s1.setCtx (k2.condemn x.ln r))
  else match s1.file k2 r with
    | .unbound => s1.setCtx (k2.condemn x.ln r)
    | .full => s1.setCtx { k2 with heldRecs := [(x.num, r)] }
    | .written s2 seq => s2.modCtx k.num fun k => k.numbered x.num r seq

/-- The fault of a thread has become deliverable: every older wave has committed. -/
def Thread.deliverable (x : Thread) : Option FaultRec := if !x.delivered && x.waves.isEmpty then x.fault else none

/-- The fault queue of a context cannot be written yet. -/
def State.faultQueueWaits (s : State) (k : Ctx) : Bool :=
  match ringOf k.fqb with
  | none => false
  | some (base, n) => s.ringWaits k base n 64

/-- FAULT_DELIVERY (R213): a deliverable fault is delivered, in a context on the fabric or one that leaves it (R229); records held
for a full queue are written first, as far as it has room. -/
def execFaultDelivery (c : CtxId) (th : ThreadId) (s : State) : Out :=
  .next <| match s.ctx c with
    | none => s
    | some k0 =>
      let s1 := s.writeHeld c k0.heldRecs.length
      if s.faultQueueWaits k0 then s else match s1.ctx c with
      | none => s1
      | some k =>
        match (k.th th).bind fun x => x.deliverable.map fun r => (x, r) with
        | some (x, r) => if decide (k.state.toNat ≤ 1) || (k.state = 2 && k.preempt) then s1.deliver k x r else s1
        | none => s1

/-! ### The capacity queue (R158) -/

/-- The distinct physical clusters of the placement map. -/
def Ctx.physSet (k : Ctx) : List Nat := ((List.range k.lclusters).map k.phys).eraseDups

/-- The 64 bytes of a capacity record. -/
def capBytes (k : Ctx) (cause : BitVec 8) (unit : Nat) (moved : List Nat) (seq : Nat) : List Byte :=
  leBytes 4 seq ++ [cause, k.avail, k.lcount, BitVec.ofNat 8 unit]
    ++ leBytes 16 (moved.foldl (fun n l => n + 2 ^ l) 0) ++ List.replicate 40 0

/-- A context's capacity queue cannot be written yet. -/
def State.capacityWaits (s : State) (k : Ctx) : Bool :=
  match ringOf k.capqb with
  | none => false
  | some (base, n) => s.ringWaits k base n 64

/-- The set of physical clusters of a context has changed: AVAIL, CAPCHG, the record, a house event and host event kind
7. -/
def State.capacity (s : State) (c : CtxId) (cause : BitVec 8) (unit : Nat) (moved : List Nat) : State :=
  match s.ctx c with
  | none => s
  | some k =>
    let k1 := { k with avail := BitVec.ofNat 8 k.physSet.length, capchg := true }
    let s1 := s.setCtx k1
    let s2 := match ringOf k1.capqb with
      | none => s1
      | some (base, n) => match s1.ringPut k1 base n 64 true (capBytes k1 cause unit moved) with
        | .ok (some t) => t.ringSpend k1 base n 64
        | _ => s1
    s2.houseEvent.post c (hostEvent 7)

/-! ### The stall sweep (R49) -/

/-- Some slot of the context has its operands. -/
def Ctx.anyReady (k : Ctx) : Bool :=
  k.tokens.any fun a => !a.held && match k.th a.tok.thread with
    | none => false
    | some x => match k.placedAt x a.blk with
      | none => false
      | some p => (List.range p.slots.length).any fun i => k.readyAt x p i a.tok.wave

/-- An operation can still be bound: it is not parked, waits for no route (16 R449), and nothing of its thread holds it back. -/
def State.bindable (s : State) (k : Ctx) (x : Thread) (w : WaveId) (o : MemOp) : Bool :=
  o.entered && !o.bound && !o.parked && !o.act.atCommit && !(o.ps.any s.mem.unrouted)
    && !(if o.act == .fence then k.fenceHeld x w o else k.loadHeld x w o)

/-- A committed operation waits for a route to a peer module. -/
def Committed.strayed (m : Mems) (e : Committed) : Bool :=
  match e.item with
  | .mem o => o.ps.any m.unrouted
  | _ => false

/-- An uncommitted wave can still take a step: an operation of it enters or binds, or it commits. -/
def State.wavesMove (s : State) (k : Ctx) : Bool :=
  k.threads.any fun x => x.waves.any fun v =>
    v.ops.any (fun o => k.turnToEnter x v o || s.bindable k x v.num o)
      || (x.oldest.map (·.num) == some v.num && k.chainDone x v && v.bound && k.spent x v && (s.emptyGet k x v).isNone)

/-- A memory operation of the context can still take a step: one of a wave, or a committed operation that is neither parked, nor
arrived at a barrier, nor waits for a DFENCE, a thread number (11 R294) or a route (16 R449). -/
def State.memoryInFlight (s : State) (k : Ctx) : Bool :=
  s.wavesMove k || k.committed.any fun e => !(e.waiting && (e.withThreads || e.parkedPut)) && !e.strayed s.mem
    && !k.followed s.mem e

/-- A power grant for every domain, so that a lack of tokens in this interval does not count as a wait. -/
def State.fullyPowered (s : State) (d : Nat) : State :=
  { s with spnow := tset s.spnow d 0, pwrdom := tset s.pwrdom d { PwrDom.zero with grant := 1 } }

/-- A step does something. -/
def changes (o : Out) (s : State) : Bool := match o with | .next t => t != s | _ => true

/-- A domain's queue can take a step: one that waits for ring rows, ring room or a reduction turn cannot (14 R370). -/
def State.domainWorks (s : State) (c : CtxId) (l d : Nat) (t : Nat) : Bool :=
  let p := s.fullyPowered t
  changes (execMatrixRow c l d none none p) p || changes (execMatrixAcceptance c l d p) p || changes (execWloadExecute c l d none p) p
    || changes (execAccumulatorCommandExecute c l d none p) p
    || (List.range 64).any fun i => changes (execAccumulatorRelease c l d i p) p

/-- An engine command is in flight: not one that waits for ring rows or room, members or an arm pulse (14 R370). -/
def State.engineWorks (s : State) (k : Ctx) (l : Nat) (q : EngCmd) : Bool :=
  q.fin.isSome || (q.waits && decide (s.engineLoad (k.phys l) < 64)) || (q.started && !q.armed && match s.unit k l q none with | .wait => false | _ => true)

/-- A loader can still inject once memory lets it: its element waits for a line, a lock or the log, but for no route (16 R449), and
its token may enter. -/
def State.loads (s : State) (k : Ctx) (l : Nat) (u : Agen) : Bool :=
  let index := if u.ctl.getLsbD 29 then k.drainTok u (u.ctl.extractLsb' 12 4).toNat else none
  let addr := u.address ((index.map (·.tok.value)).getD 0)
  let o := u.access addr.toNat 0
  let w : WaveId := u.tag.extractLsb' 16 24
  !u.ctl.getLsbD 30 && !(u.ctl.getLsbD 29 && index.isNone) && decide (k.injection (u.tag.extractLsb' 0 16) w = .go)
    && match k.th (u.tag.extractLsb' 0 16), s.probePlain k l o with
      | some x, .ok ps => !k.loadHeld x w o && !s.loaderAhead k x w { o with ps := ps } && s.feedBlocked k { o with ps := ps }
          && !ps.any s.mem.unrouted
      | _, _ => false

/-- A stream unit can still take a step: an element fed or drained, or its end. -/
def State.streamWorks (s : State) (k : Ctx) (l : Nat) (e : Nat × Agen) : Bool :=
  e.2.running && (e.2.isOver || changes (execStreamElement k.num l e.1 0 s) s || s.loads k l e.2)

/-- A running drum can still take a step: a token, a level left, or its end; one whose block is not placed yet may. -/
def State.drumWorks (s : State) (k : Ctx) (l : Nat) (d : Drum) : Bool :=
  d.running && (d.isOver || match (k.th (d.tag.extractLsb' 0 16)).bind fun x => k.placedAt x d.blk with
    | some p =>
      let q := s.fullyPowered (k.seatOf p * 16 + ((p.at_[d.slot]?).map (·.1) |>.getD 0) / 8)
      changes (execDrumEmit k.num l d.num q) q
    | none => decide (k.injection (d.tag.extractLsb' 0 16) (d.tag.extractLsb' 16 24) ≠ .wait))

/-- A token unit of a share can still inject, or an engine or a domain works. -/
def State.shareWorks (s : State) (k : Ctx) (h : Share) : Bool :=
  h.cmds.any (s.engineWorks k h.lcl)
    || h.doms.any (fun e => s.domainWorks k.num h.lcl e.1 (k.phys h.lcl * 16 + e.1))
    || h.agens.any (s.streamWorks k h.lcl) || h.drums.any (s.drumWorks k h.lcl)
    || changes (execChimeEvaluation k.num h.lcl s) s

/-- The byte of HBM at which a launch of a context has its DONE word. -/
def State.donePa (s : State) (q : Ctx) (done : BitVec 64) : Option Nat :=
  match translate s.mem q q.devSite done.toNat with
  | .ok t => if done != 0 && t.place == .hbm then some t.pa else none
  | .error _ => none

/-- A live launch, running or in a launch queue, owns the DONE word at a byte of HBM, whichever address it names it by (15 R405). -/
def State.doneOwned (s : State) (pa : Nat) : Bool :=
  s.ctxs.any fun q => q.launches.any (fun n => s.donePa q n.lrec.done == some pa)
    || s.launchq.any fun r => r.ctx == q.num && s.donePa q r.lrec.done == some pa

/-- A queue operation of the context awaits a producer: a parked dequeue, or a JOINW on the word of a live launch
(05 R144, R148, 15 R405). -/
def State.awaitsProducer (s : State) (k : Ctx) : Bool :=
  (k.parks.any fun p => match k.parkAct p with
      | some .qget | some .iqget | some .pqget => true
      | _ => false)
    || k.threads.any fun x => x.waves.any fun v => v.ops.any fun o => o.act == .joinw && o.parked
        && o.ps.any fun p => s.doneOwned p.tr.pa

/-- The context holds tokens: one that has arrived or is spilled, or one that a parked reader still owes its
destinations, as R49's own example has it. -/
def Ctx.holdsTokens (k : Ctx) : Bool :=
  !k.tokens.isEmpty || !k.spilled.isEmpty || k.threads.any fun x => x.waves.any fun v => v.ops.any fun o => o.parked && !o.bound

/-- A sweep finds the context stalled. -/
def State.stuck (s : State) (k : Ctx) : Bool :=
  decide (k.state.toNat ≤ 1) && k.gate = 0 && !k.halted && k.holdsTokens && !k.anyReady && !s.memoryInFlight k
    && !(k.shares.any (s.shareWorks k)) && !s.awaitsProducer k

/-- The slots that hold a token of a thread: PE and slot. -/
def Ctx.tokenSlots (k : Ctx) (x : Thread) : List (Nat × Nat) :=
  (k.tokens.filter fun a => a.tok.thread == x.num).filterMap fun a => (k.placedAt x a.blk).bind fun p =>
    ((List.range p.slots.length).find? fun i => p.meets a.dst i false || p.meets a.dst i true).map fun i =>
      (((p.at_[i]?).map (·.1)).getD 0, i)

/-- STALL is raised in the oldest wave of the context's oldest thread that has one. -/
def Ctx.stall (k : Ctx) (pe slot : Nat) : Ctx :=
  match k.eldest with
  | none => k
  | some (x, v) =>
    let at_ := k.tokenSlots x
    let q := if at_.contains (pe, slot) then (pe, slot) else (at_[0]?).getD (0, 0)
    k.raise x.num { k.bareRec x x.pointer.1 v.num 0x13 4 0 0 with pe := BitVec.ofNat 8 q.1, slot := BitVec.ofNat 8 q.2 }

/-- What a sweep does to a context, given those the last sweep and this one found stalled. -/
def sweepCtx (last found : List CtxId) (pe slot : Nat) (k : Ctx) : Ctx :=
  if !found.contains k.num then k
  else if last.contains k.num then { k.stall pe slot with stalled := true } else { k with stalled := true }

/-- STALL_SWEEP (R49): `pe` and `slot` say which of several slots a record names. -/
def execStallSweep (pe slot : Nat) (s : State) : Out :=
  let found := (s.ctxs.filter s.stuck).map (·.num)
  .next { s with ctxs := s.ctxs.map (sweepCtx s.swept found pe slot), swept := found }

/-! ### The page walk (R81) -/

/-- PAGE_WALK: a walk of the page tables for a miss of a cluster fills that cluster's cache and its die's; the entries it reads are
charged to the context (07 R199). -/
def execPageWalk (c : CtxId) (w : Walk) (s : State) : Out :=
  .next <| match s.ctx c with
    | none => s
    | some k =>
      let v := w.va.toNat / 4096 * 4096
      if v ≥ scratchBase || w.clu ≥ Config.clusters then s
      else match walk s.mem k v with
        | .error _ => s
        | .ok (ea, level) =>
          let e := BitVec.ofNat 64 (s.mem.word64 ea)
          let t : Tlb := { ctx := c, site := w.clu, vpn := v / 4096, entry := e, pa := (leafTrans k e level v ea).pa, entryPA := ea }
          ({ s with mem := (s.mem.cacheAt t).cacheAt { t with site := dieSite w.clu } } : State).modCtx c fun k =>
            (walkReads s.mem v k.desc.rootPA 0 4).foldl (fun k pa => k.charge (homeSite pa) 2 5) k

end Sys2Proof.Machine
end

