-- ==== Sys2Proof/Machine/Switch.lean ====
section
/-! DEFINITION. Contexts leaving and entering the fabric: pre-emption, save, restore, migration, resident switches, and
the grant arbiter (01 R14, R30, 05 R140 to R142, 06 R172 to R177, 08 R222 to R227). -/

namespace Sys2Proof.Machine

/-! ### Gates and squashing (R222) -/

/-- Every uncommitted wave of a thread is squashed to its entry log, without a record. -/
def Ctx.squash (k : Ctx) (t : ThreadId) : Ctx :=
  match k.th t with
  | none => k
  | some x =>
    match x.oldest with
    | none => k
    | some v =>
      let gone := fun w => notOlder v.num w
      let husks := (x.waves.filter fun u => gone u.num).map (k.huskOf t v.num)
      (k.dropWaves t gone).modTh t fun y =>
        { y with fault := none, dropped := husks ++ x.dropped.filter fun u => !(husks.any (·.num == u.num)) }

/-- The threads of a logical cluster. -/
def Ctx.threadsOn (k : Ctx) (l : Nat) : List ThreadId := (k.threads.filter fun x => x.lcl == l).map (·.num)

def Ctx.squashAll (k : Ctx) (ts : List ThreadId) : Ctx := ts.foldl Ctx.squash k

/-- Threads whose waves were squashed are fed again from their entry logs (R215, R224). -/
def Ctx.refeedAll (k : Ctx) (ts : List ThreadId) : Ctx :=
  ts.foldl (fun k t => match k.th t with
    | some x => if x.fault.isNone && !x.dropped.isEmpty then k.refeed t else k
    | none => k) k

/-- Parked operations of threads are withdrawn from their queues' order (R222, step 1). -/
def Ctx.withdraw (k : Ctx) (ts : List ThreadId) : Ctx := { k with parks := k.parks.filter fun p => !ts.contains p.1 }

/-- Withdrawn insertions are issued again, ahead of their threads' other operations (R224). -/
def Ctx.reissue (k : Ctx) (ts : List ThreadId) : Ctx :=
  { k with committed := k.committed.map fun (e : Committed) =>
      if e.parkedPut && ts.contains e.thread then { e with waiting := false } else e }

def Ctx.allThreads (k : Ctx) : List ThreadId := k.threads.map (·.num)

/-- The MOVING bit of a placement-map entry (06 R172). -/
def setMoving (w : BitVec 32) (b : Bool) : BitVec 32 := (w &&& 0xBFFFFFFF) ||| (if b then 0x40000000 else 0)

/-- The gates of a context close for a pre-emption; a request for a migration is given up (R229). -/
def Ctx.gateAll (k : Ctx) : Ctx :=
  ({ k with gate := 1, preempt := k.state != 4
            pmap := k.pmap.map fun e => (e.1, setMoving e.2 false)
            shares := k.shares.map fun (h : Share) => { h with gated := false, moveTo := none } } : Ctx).withdraw k.allThreads

/-- Running engine commands end at their next whole unit with status 5 (03 R103, R223). -/
def Share.cancelRunning (h : Share) : Share :=
  { h with cmds := h.cmds.map fun (q : EngCmd) => if q.started && q.running then { q with fin := some (5, 0) } else q }

/-- A context's pre-emption is forced: gated, squashed, its engines cancelled. -/
def Ctx.force (k : Ctx) : Ctx :=
  let k1 := k.gateAll
  { k1.squashAll k1.allThreads with gate := 2, forced := true, shares := (k1.squashAll k1.allThreads).shares.map Share.cancelRunning }

/-- A context whose share stands on a cluster that has tripped (08 R227). -/
def State.tripped (s : State) (k : Ctx) : Bool :=
  (List.range k.lclusters).any fun l => (s.tempOf (k.phys l)).trip && s.cooling.contains (k.phys l)

/-- PREEMPTION_GATE (R222, step 1): a context the arbiter has chosen is gated. -/
def execPreemptionGate (c : CtxId) (s : State) : Out :=
  .next <| match s.ctx c with
    | none => s
    | some k =>
      if !s.victims.contains c || k.state != 1 || k.gate != 0 || k.shares.any (·.gated) then s
      else { s.setCtx (if s.tripped k then k.force else k.gateAll) with victims := s.victims.filter (· != c) }

/-! ### Quiescence and save (R222 to R224, 04 R127) -/

/-- A YIELD that does not fire while its context is to leave the fabric: one that starts no wave. One that does is held
at the gate as any other firing that does (15 R423, 18 R460). -/
def Placed.yields (p : Placed) (i : Nat) : Bool :=
  (p.words i).tmpl.extractLsb' 24 8 == 0xD6#8 && match Tmpl.dec (p.words i).tmpl with
    | none => true
    | some t => !(t.act.adds && anyDest t none i)

/-- A YIELD's held operand does not count (R223, 15 R423). -/
def Ctx.firingLeft (k : Ctx) : Bool :=
  k.tokens.any fun a => !a.held && match k.th a.tok.thread with
    | none => false
    | some x => match k.placedAt x a.blk with
      | none => false
      | some p => (List.range p.slots.length).any fun i =>
          !p.yields i && k.readyAt x p i a.tok.wave

/-- A committed operation has still to be performed, be it held for the time being: every one but those that are withdrawn
with the context or stand behind such a one (04 R127, log entry 56). -/
def Ctx.storesLeft (k : Ctx) (m : Mems) : Bool := k.committed.any (k.leftToDo m)

/-- A fault has been found that can be delivered now: it is recorded before the context is quiescent (R213, R229). -/
def Ctx.faultsLeft (k : Ctx) : Bool := k.state != 4 && k.threads.any fun x => x.deliverable.isSome

/-- An engine command runs. -/
def Share.engineRuns (h : Share) : Bool := h.cmds.any fun q => q.started && q.running

/-- The bell tree reports: nothing in transit, in progress or running. -/
def State.quiet (s : State) (k : Ctx) : Bool :=
  !k.firingLeft && !(k.storesLeft s.mem) && !k.faultsLeft && !(k.shares.any Share.engineRuns) && !s.wavesMove k

/-- A context leaves the fabric, or is torn down. -/
def Ctx.leavesNow (k : Ctx) : Bool := k.preempt || k.state == 4

/-- QUIESCENCE_REPORT (R222, steps 3 and 4; R232, step 2). -/
def execQuiescenceReport (c : CtxId) (s : State) : Out :=
  .next <| match s.active c with
    | none => s
    | some k =>
      if !k.leavesNow || k.gate != 1 || !s.quiet k then s
      else s.setCtx { k.squashAll k.allThreads with gate := 2, forced := false }

/-- The threads on gated shares. -/
def Ctx.leaving (k : Ctx) : List ThreadId := (k.shares.filter (·.gated)).flatMap fun h => k.threadsOn h.lcl

/-- PREEMPTION_FORCE (R223, R225): 2 ms after gating, every wave still uncommitted is squashed. -/
def execPreemptionForce (c : CtxId) (s : State) : Out :=
  .next <| s.modCtx c fun k =>
    if k.state = 3 then k
    else if k.leavesNow && k.gate = 1 then k.force
    else if k.gate = 0 then k.squashAll k.leaving
    else k

/-- A completion word can still be written. -/
def Share.completes (h : Share) : Bool := h.cmds.any (fun q => q.fin.isSome && h.wordFree q.cwoff) || !h.endedDomain.isEmpty

/-- An array loses its contents when the domain is taken from the context (01 R39, 02 R57). -/
def Dom.leaveArray (d : Dom) : Dom := { d with mode := false, weights := none }

/-- The context leaves the fabric: its blocks, its pins and its arrays. -/
def Ctx.leaveFabric (k : Ctx) : Ctx :=
  { k with
    state := 3, preempt := false, savedPins := k.pins, pins := [], placed := [], parks := []
    shares := k.shares.map fun (h : Share) => { h with doms := h.doms.map fun e => (e.1, e.2.leaveArray) } }

/-! ### Folding (06 R172, R173) -/

/-- A cluster that no share may be moved onto or restored onto: withdrawn, retired, or cooling (16 R456). -/
def State.barred (s : State) (p : Nat) : Bool :=
  s.cooling.contains p || (s.scoreOf (clusterUnit p)).retired || s.retiring.any (·.unit == clusterUnit p)
    || s.leases.any fun e => e.2.state != 0 && e.2.kind = 0 && e.2.unit.toNat = p

/-- A placement-map entry. -/
def mapWord (p fold : Nat) : BitVec 32 := BitVec.ofNat 32 (0x80000000 + p * 0x10000 + fold * 0x100)

/-- The placement map with given physical clusters, in the order of the logical ones. -/
def Ctx.setMap (k : Ctx) (ps : List Nat) : Ctx :=
  let one (p : Nat) : BitVec 32 := mapWord p (ps.filter (· == p)).length
  { k with pmap := (List.range ps.length).zip (ps.map one)
           pins := k.pins.map fun (q : Pin) => { q with phys := ps.getD q.lcl 0 } }

/-- The physical clusters of the map, in order. -/
def Ctx.map_ (k : Ctx) : List Nat := (List.range k.lclusters).map k.phys

/-- The fold of `count` logical clusters over a list. -/
def foldOver (ps : List Nat) (count : Nat) : List Nat :=
  (List.range count).map fun c => ps.getD (c * ps.length / count) 0

/-- Logical clusters keep their last cluster where it is listed, each cluster once; the others take the unused ones in
ascending order. -/
def keepOrTake (ps last : List Nat) : List Nat :=
    let kept := (last.foldl (fun (acc : List (Option Nat)) p =>
      acc ++ [if ps.contains p && !acc.contains (some p) then some p else none]) [])
    let free := ps.filter fun p => !kept.contains (some p)
    (kept.foldl (fun (r : List Nat × List Nat) q => match q with
      | some p => (r.1 ++ [p], r.2)
      | none => (r.1 ++ [r.2.headD 0], r.2.drop 1)) ([], free)).1

/-- Under a map, every instance of a die level of the context's launches stands on one die (01 R17). -/
def Ctx.dieKept (k : Ctx) (map : List Nat) : Bool :=
  k.launches.all fun n => n.lrec.dieGroups.all fun g =>
    decide (((g.map fun l => map.getD l 0 / Config.clustersPerDie).eraseDups).length ≤ 1)

/-- A change of map splits no instance of a die level that stood on one die. -/
def Ctx.diesStay (k : Ctx) (map : List Nat) : Bool := k.dieKept map || !k.dieKept k.map_

/-- The clusters of a list on the die that has most of them, the lowest such die. -/
def onOneDie (ps : List Nat) : List Nat :=
  let of (d : Nat) : List Nat := ps.filter fun p => p / Config.clustersPerDie = d
  (((List.range Config.dies).map of).foldl (fun m l => if m.length < l.length then l else m) [])

/-- The map of a context over an ascending list of clusters, of those on one die alone where the instances of a die level would
otherwise be split (01 R17, log entry 102). -/
def Ctx.foldMap (k : Ctx) (ps : List Nat) : List Nat :=
  let onto (ps : List Nat) : List Nat :=
    if ps.length ≥ k.lclusters then keepOrTake ps k.map_ else foldOver ps k.lclusters
  if k.diesStay (onto ps) then onto ps else onto (onOneDie ps)

/-! ### Restore (R224) -/

/-- Pins granted again, on the clusters restored onto (06 R177). -/
def State.repin (s : State) (c : CtxId) (l : List Pin) : State :=
  l.foldl (fun s p => (s.pinOne c p.ln p.lcl p.origin p.blk).1) s

/-- The arrays of a context's shares reloaded from their sources, each one that has a source charged to SAVE (02 R58, 07 R201). -/
def State.reloadAll (s : State) (c : CtxId) (mine : Nat → Bool) : State :=
  let one (k : Ctx) (h : Share) : Share :=
    if mine h.lcl then { h with doms := h.doms.map fun e => (e.1, (s.reload k e.2).resumed) } else h
  s.modCtx c fun k =>
    (k.shares.filter fun h => mine h.lcl).foldl (fun (k : Ctx) h =>
      k.chargeN (k.phys h.lcl) 4 3 (h.doms.filter fun e => e.2.wdig != 0).length) { k with shares := k.shares.map (one k) }

/-- Two lists name the same clusters. -/
def sameSet (a b : List Nat) : Bool := a.all b.contains && b.all a.contains

/-- The cluster a capacity record names: the first that left in the order of the logical clusters, else the first that joined, else
none. The rule says which where one left or joined; where several did, this one is named (05 R158; DESIGN CHOICE, log entry 141). -/
def unitMoved (old new : List Nat) : Nat :=
  ((old.find? fun p => !new.contains p).or (new.find? fun p => !old.contains p)).getD 0xFF

/-- RESTORE (R224): a saved context comes back onto clusters the house grants. -/
def execRestore (c : CtxId) (phys : List Nat) (s : State) : Out :=
  .next <| match s.ctx c with
    | none => s
    | some k =>
      let ps := (List.range Config.clusters).filter phys.contains
      if k.state != 3 || s.fabricFull || s.touched.contains c || ps.isEmpty || ps.any s.barred || !(ps.all k.desc.granted.contains)
          || s.capacityWaits k then s
      else
        let before := k.map_
        let k1 := { k.setMap (k.foldMap ps) with state := 1, gate := 0, savedPins := [] }
        let s1 := ((s.setCtx k1).repin c k.savedPins).reloadAll c fun _ => true
        let s2 := { s1 with mem := k1.physSet.foldl Mems.scDiscard s1.mem }
        let s3 := s2.modCtx c fun k => (((k.reissue k.allThreads).refeedAll k.allThreads).feedHeld).charge (k.phys 0) 4 1
        let moved := (List.range k.lclusters).filter fun l => before.getD l 0 != k1.phys l
        let s4 := if sameSet before k1.map_ then s3 else s3.capacity c 5 (unitMoved before k1.map_) moved
        s4.houseEvent.post c (hostEvent 6)

/-! ### Migration (R225, R226) -/

/-- The map with some logical clusters on other physical clusters. -/
def Ctx.mapWith (k : Ctx) (plan : List (Nat × Nat)) : List Nat := plan.foldl (fun m q => setAt m q.1 q.2) k.map_

/-- The lowest-numbered cluster that a context may use and that is free of it, for logical clusters that leave theirs together,
among those on which no instance of a die level is split (01 R17, log entry 102). -/
def State.freeCluster (s : State) (k : Ctx) (leaving : List Nat) : Option Nat :=
  let ps := (List.range Config.clusters).filter fun p => k.desc.granted.contains p && !s.barred p && !k.physSet.contains p
  ps.find? fun p => k.diesStay (k.mapWith (leaving.map fun i => (i, p)))

/-- Where the shares of a context go that must leave a cluster for a cause: logical cluster and target (R173). -/
def State.migrationPlan (s : State) (k : Ctx) (from_ l : Nat) (cause : BitVec 8) : List (Nat × Nat) :=
  let leaving := if cause = 6 then [l] else (List.range k.lclusters).filter fun i => k.phys i = from_
  match s.freeCluster k leaving with
  | some p => leaving.map fun i => (i, p)
  | none =>
    let rest := (List.range Config.clusters).filter fun p => k.desc.granted.contains p && !s.barred p && p != from_
    if rest.isEmpty then []
    else
      let m := k.foldMap rest
      ((List.range k.lclusters).filter fun i => m.getD i 0 != k.phys i).map fun i => (i, m.getD i 0)

/-- The shares of a plan are gated, each with its target. -/
def Ctx.gateShares (k : Ctx) (plan : List (Nat × Nat)) (cause : BitVec 8) : Ctx :=
  let k1 := plan.foldl (fun k q => k.modShare q.1 fun h => { h with gated := true, moveTo := some (q.2, cause) }) k
  k1.withdraw (plan.flatMap fun q => k.threadsOn q.1)

/-- Requests of shares on a cluster that nothing can take are dropped (R173). -/
def Ctx.dropRequests (k : Ctx) (from_ l : Nat) (cause : BitVec 8) : Ctx :=
  { k with shares := k.shares.map fun (h : Share) =>
      if !h.gated && (h.lcl == l || (cause != 6 && k.phys h.lcl = from_)) then { h with moveTo := none } else h }

/-- The context's blocks stand in slots, so that its shares can move: it is on the fabric or resident. -/
def Ctx.moves (k : Ctx) : Bool := decide (k.state.toNat ≤ 2) && k.gate = 0

/-- The shares asked to return to other clusters (R173). -/
def Ctx.returns (k : Ctx) : List (Nat × Nat) :=
  k.shares.filterMap fun (h : Share) => match h.moveTo with | some (p, 3) => some (h.lcl, p) | _ => none

/-- MIGRATION_GATE (R225, step 1): the shares that a request makes leave their cluster are gated, once no other migration of
the context runs (R229). -/
def execMigrationGate (c : CtxId) (l : Nat) (cause : BitVec 8) (s : State) : Out :=
  .next <| s.modCtx c fun k =>
    match (k.share l).moveTo with
    | none => k
    | some (_, why) =>
      if why != cause || !k.moves || k.shares.any (·.gated) then k
      else if why = 3 then k.gateShares k.returns why
      else match s.migrationPlan k (k.phys l) l why with
        | [] => k.dropRequests (k.phys l) l why
        | plan => k.gateShares plan why

/-- A domain a migration may put a block in: its context's own, or nobody's. -/
def State.mayTake (s : State) (c : CtxId) (clu d : Nat) : Bool :=
  match tget s.owners (clu * 16 + d) with
  | none => true
  | some o => o == c

/-- Open slots of a domain that a context may use. -/
def State.openSlots (s : State) (c : CtxId) (clu d : Nat) : List (Nat × Nat) :=
  if !s.mayTake c clu d then []
  else
    let used := s.usedSlots clu
    ((List.range 8).flatMap fun pe => (List.range 64).map fun q => (8 * d + pe, q)).filter fun q => !used.contains q

/-- Slots for a block out of a list of open ones, those that a head PE must hold from its slots. -/
def Berth.arrange (b : Berth) (free : List (Nat × Nat)) : List (Nat × Nat) :=
  let hs := (free.filter fun q => q.1 % 8 = 0).take b.heads.length
  let rest := free.filter fun q => !hs.contains q
  ((List.range b.n).foldl (fun (r : List (Nat × Nat) × List (Nat × Nat) × List (Nat × Nat)) i =>
    if b.heads.contains i then (r.1 ++ r.2.1.take 1, r.2.1.drop 1, r.2.2)
    else (r.1 ++ r.2.2.take 1, r.2.1, r.2.2.drop 1)) ([], hs, rest)).1

/-- Slots on its new cluster for a block that has migrated: the same ones where they are open and in order, else those of the
first PE or domain that can take it, else any (R17, R28, R39). -/
def State.slotsFor (s : State) (k : Ctx) (clu : Nat) (p : Placed) : Option (List (Nat × Nat)) :=
  let b := k.berthOf p
  let open_ (d : Nat) : List (Nat × Nat) := s.openSlots k.num clu d
  let pes := if b.narrow = 1 then (List.range 128).map fun e => b.arrange ((open_ (e / 8)).filter fun q => q.1 = e) else []
  let doms := (List.range 16).map fun d => b.arrange (open_ d)
  let all := b.arrange ((List.range 16).flatMap open_)
  ([p.at_] ++ pes ++ doms ++ [all]).find? fun at_ =>
    at_.all (fun q => s.mayTake k.num clu (q.1 / 8)) && (s.own k.num clu at_).slotsFit k clu b at_

/-- A block leaves a cluster that it cannot stay on: where the overflow area has no room for what it leaves, OVERFLOW-LIMIT is raised
as at any eviction (R31). -/
def Ctx.putOut (k : Ctx) (p : Placed) : Ctx :=
  let k1 := k.evictFit p
  if k1.placed.contains p then k1.evict p else k1

/-- One placed block of a share that has moved: it keeps its decoded slots where the new cluster has room for them; else it is
evicted, unless it must not be decoded again: `none` (06 R168). -/
def State.resettle (s : State) (c : CtxId) (p : Placed) (must : Bool) : Option State :=
  match s.ctx c with
  | none => none
  | some k => match s.slotsFor k (k.seatOf p) p with
    | some at_ => some ((s.own c (k.seatOf p) at_).modCtx c fun k => { k with placed := k.placed ++ [{ p with at_ := at_, old := none }] })
    | none => if must then none else some (s.modCtx c fun k => ({ k with placed := k.placed ++ [p] } : Ctx).putOut p)

def State.resettleAll (s : State) (c : CtxId) : List (Placed × Bool) → Option State
  | [] => some s
  | (p, must) :: r => match s.resettle c p must with
    | none => none
    | some t => State.resettleAll t c r

/-- Domains of a cluster that no share of the context stands on any more are free. -/
def State.freeCtxDomains (s : State) (c : CtxId) (clu : Nat) : State :=
  match s.ctx c with
  | none => s
  | some k => if k.physSet.contains clu then s
      else { s with owners := s.owners.filter fun e => !(e.2 == c && e.1 / 16 = clu) }

/-- A line that a migration from a cluster leaves in its L1: every one but the cluster's CP lines. -/
def cpCopyElsewhere (clu : Nat) (e : L1Line) : Bool := !(e.kind == LineKind.cp && e.clu == clu)

/-- A cluster's SC bytes are cleaned and its CP lines given up (04 R125). -/
def Mems.cleanForMove (m : Mems) (clu : Nat) : Mems := { m.scClean clu with l1 := (m.scClean clu).l1.filter (cpCopyElsewhere clu) }

/-- The tokens that still had to be forwarded have reached the new slots (R32). -/
def Ctx.forwardAll (k : Ctx) (ts : List ThreadId) : Ctx :=
  { k with tokens := k.tokens.map fun (a : Arrived) => if ts.contains a.tok.thread then { a with old := false } else a }

/-- Pin entries that have moved with their logical clusters stay within their new cluster's quota, those already there first; one that
no longer fits is released, and its block stays placed, unpinned (15 R422, 06 R175). -/
def Ctx.fitPins (k : Ctx) (ls : List Nat) : Ctx :=
  let slotsOn (ps : List Pin) (clu : Nat) : Nat := (ps.filter fun q => q.phys == clu).foldl (fun n q => n + q.slots) 0
  let kept := (k.pins.filter fun p => ls.contains p.lcl).foldl (fun (acc : List Pin) p =>
    if slotsOn acc p.phys + p.slots ≤ k.desc.pinQuota then acc ++ [p] else acc) (k.pins.filter fun p => !ls.contains p.lcl)
  { k with
    pins := k.pins.filter kept.contains
    placed := k.placed.map fun (p : Placed) =>
      if p.pinned && !(kept.any fun q => q.lcl == p.lcl && q.blk == p.blk) then { p with pinned := false } else p }

/-- The gates of shares that have moved open again, and their migration is charged (07 R201). -/
def Ctx.settleShares (k : Ctx) (plan : List (Nat × Nat)) : Ctx :=
  plan.foldl (fun (k : Ctx) (q : Nat × Nat) =>
    (k.modShare q.1 fun h => { h with gated := false, moveTo := none }).charge q.2 4 2) k

/-- Shares move together to their clusters (R225, steps 3 to 6), with one capacity record (R158); `none` while a block that must
not be decoded again finds no room. -/
def State.moveShares (s : State) (k : Ctx) (plan : List (Nat × Nat)) (cause : BitVec 8) : Option State :=
  let ls := plan.map (·.1)
  let olds := (ls.map k.phys).eraseDups
  let ts := ls.flatMap k.threadsOn
  let stale (p : Placed) : Bool := p.gen != k.gen && !k.drained p
  let mine := k.placed.filter fun q => ls.contains q.seat
  let order := ((mine.filter stale).map fun p => (p, true)) ++ (mine.filter fun p => !stale p).map fun p => (p, false)
  let s1 := { s with mem := olds.foldl Mems.cleanForMove s.mem }
  let k1 := { k.setMap (k.mapWith plan) with placed := k.placed.filter fun q => !ls.contains q.seat }
  ((s1.setCtx (k1.forwardAll ts)).resettleAll k.num order).map fun s2 =>
    let s3 := (olds.foldl (fun (s : State) p => s.freeCtxDomains k.num p) s2).reloadAll k.num ls.contains
    let s4 := { s3 with mem := (plan.map Prod.snd).eraseDups.foldl Mems.scDiscard s3.mem }
    let s5 := s4.modCtx k.num fun k => ((((k.fitPins ls).settleShares plan).reissue ts).refeedAll ts).feedHeld
    if sameSet k.map_ k1.map_ then s5 else s5.capacity k.num cause (unitMoved k.map_ k1.map_) ls

/-- Every wave of a share has committed or is squashed. -/
def Ctx.shareDone (k : Ctx) (l : Nat) : Bool := !(k.threads.any fun x => x.lcl == l && !x.waves.isEmpty)

/-- The committed operations of a share are performed (04 R125), but those that are withdrawn and those behind them. -/
def Ctx.shareStill (k : Ctx) (m : Mems) (l : Nat) : Bool :=
  k.shareDone l && !(k.committed.any fun e => e.lcl == l && k.leftToDo m e)

/-- The gated shares that leave for one cause, each with its target. -/
def Ctx.leavingFor (k : Ctx) (cause : BitVec 8) : List (Nat × Nat) :=
  k.shares.filterMap fun (h : Share) => match h.moveTo with
    | some (p, why) => if h.gated && why = cause then some (h.lcl, p) else none
    | none => none

/-- The gates of shares open again, where they stand: their migration is given up. -/
def Ctx.ungate (k : Ctx) (plan : List (Nat × Nat)) : Ctx :=
  let ls := plan.map (·.1)
  let ts := ls.flatMap k.threadsOn
  let k1 := ls.foldl (fun (k : Ctx) l => k.modShare l fun h => { h with gated := false, moveTo := none }) k
  ((({ k1 with pmap := k1.pmap.map fun e => (e.1, if ls.contains e.1 then setMoving e.2 false else e.2) } : Ctx).reissue ts).refeedAll
    ts).feedHeld

/-- Gated shares whose target has been withdrawn, or has tripped, since they were gated: another one is chosen as the first was, and
where there is none nothing moves (06 R173, 16 R456). -/
def State.retarget (s : State) (k : Ctx) (l : Nat) (plan : List (Nat × Nat)) (cause : BitVec 8) : Ctx :=
  match if cause = 3 then [] else s.migrationPlan k (k.phys l) l cause with
  | [] => k.ungate plan
  | dest => k.gateShares dest cause

/-- MIGRATION_MOVE (R225): once the waves of the shares that leave together have committed, MOVING is set; once their committed
operations are performed, they move. -/
def execMigrationMove (c : CtxId) (l : Nat) (s : State) : Out :=
  .next <| match s.ctx c with
    | none => s
    | some k =>
      match (k.share l).moveTo with
      | none => s
      | some (_, cause) =>
        let plan := k.leavingFor cause
        if !(k.share l).gated || !k.moves then s
        else if plan.any fun q => s.barred q.2 then s.setCtx (s.retarget k l plan cause)
        else if !(plan.all fun q => k.shareDone q.1) then s
        else if plan.any fun q => !(tgetD k.pmap q.1 0).getLsbD 30 then
          s.setCtx { k with pmap := k.pmap.map fun e => (e.1, if plan.any (·.1 == e.1) then setMoving e.2 true else e.2) }
        else if !(plan.all fun q => k.shareStill s.mem q.1) || s.capacityWaits k then s
        else (s.moveShares k plan cause).getD s

/-! ### Resident switches (01 R14, 06 R177) -/

/-- SWITCH_OUT_RESIDENT (R14): off the fabric, slots and pins kept. -/
def execSwitchOutResident (c : CtxId) (s : State) : Out :=
  .next <| s.modCtx c fun k => if k.state = 1 && k.gate = 0 then { k with state := 2 } else k

/-- SWITCH_IN_RESIDENT (R14). -/
def execSwitchInResident (c : CtxId) (s : State) : Out :=
  .next <| s.modCtx c fun k => if k.state = 2 && k.gate = 0 && !s.fabricFull then ({ k with state := 1 } : Ctx).feedHeld else k

/-! ### The grant arbiter (05 R140 to R142) -/

/-- What waits for a domain: priority, context, the clusters of the die one of whose domains would serve it, the home domains
it needs, and the mark of its launch. -/
structure Want where
  prio : Nat
  ctx : CtxId
  clus : List Nat
  homes : List Nat
  stamp : Nat
  deriving DecidableEq, Repr, Inhabited

def dieOfCluster (clu : Nat) : Nat := clu / Config.clustersPerDie

/-- Open slots of the domains a context holds on a cluster. -/
def State.roomOn (s : State) (c : CtxId) (clu : Nat) : Nat :=
  (List.range 16).foldl (fun n d => if s.mayUse c clu d then n + (s.openSlots c clu d).length else n) 0

/-- A block that a launch's token, pin or request asks for, unplaced, on a logical cluster. -/
def Ctx.unplaced (k : Ctx) (n : Launch) : List (Nat × Addr) :=
  ((k.tokens ++ k.spilled).filterMap fun a => (k.th a.tok.thread).bind fun x =>
      if x.ln == n.num && !a.held && (k.placedAt x a.blk).isNone then some (x.lcl, a.blk) else none)
    ++ ((k.pins.filter fun p => p.ln == n.num && !(k.placed.any fun q => q.blk == p.blk && q.lcl == p.lcl)).map fun p => (p.lcl, p.blk))
    ++ ((k.wanted.filter fun q => q.ln == n.num).map fun q => (q.lcl, q.blk))

/-- What an admitted launch waits for on a die: clusters without room for a block of any size, or whose home domain is not
held. -/
def State.launchWants (s : State) (k : Ctx) (die : Nat) (n : Launch) : Option Want :=
  let need := (k.unplaced n).filter fun q => dieOfCluster (k.phys q.1) = die
  let homes := need.filterMap fun q => (n.homes.find? fun h => h.1 == q.2 && h.2.1 == q.1).bind fun h =>
    if s.mayUse k.num (k.phys h.2.2.1) h.2.2.2 then none else some (k.phys h.2.2.1 * 16 + h.2.2.2)
  let clus := ((need.filter fun q => s.roomOn k.num (k.phys q.1) < 128).map fun q => k.phys q.1).eraseDups
  if clus.isEmpty && homes.isEmpty then none else some ⟨n.lrec.prio.toNat, k.num, clus, homes, n.stamp⟩

/-- What a queued record waits for: a first domain of its context on the die. -/
def State.recordWants (s : State) (die : Nat) (q : QRec) : Option Want :=
  if q.die != die then none
  else (s.active q.ctx).bind fun k =>
    if k.state = 4 || s.owners.any fun e => e.2 == q.ctx && dieOfCluster (e.1 / 16) = die then none
    else some ⟨q.prio, q.ctx, k.physSet.filter fun p => dieOfCluster p = die, [], q.stamp⟩

/-- Everything that waits for a domain of a die. -/
def State.wants (s : State) (die : Nat) : List Want :=
  (s.ctxs.flatMap fun k => if k.active && k.gate = 0 && !k.halted then k.launches.filterMap (s.launchWants k die) else [])
    ++ s.launchq.filterMap (s.recordWants die)

/-- A domain of a wanted cluster. -/
def Want.takes (w : Want) (d : Nat) : Bool := w.clus.contains (d / 16) || w.homes.contains d

/-- The domains of a die, in ascending order. -/
def dieDomains (die : Nat) : List Nat :=
  (List.range (Config.clustersPerDie * 16)).map fun i => die * Config.clustersPerDie * 16 + i

/-- The lowest free domain that serves a want, a home first. -/
def State.freeFor (s : State) (die : Nat) (w : Want) : Option Nat :=
  let free := (dieDomains die).filter fun d => (tget s.owners d).isNone && !s.barred (d / 16)
  (free.find? w.homes.contains).or (free.find? w.takes)

/-- Domains a context holds on a die. -/
def State.held (s : State) (c : CtxId) (die : Nat) : Nat := (s.owners.filter fun e => e.2 == c && dieOfCluster (e.1 / 16) = die).length

def State.shareOf (s : State) (c : CtxId) : Nat := max 1 (((s.ctx c).map (·.desc.share)).getD 1)

/-- Want a is served before want b: priority, then the lower ratio of domains held to share, then the lower context. -/
def State.before (s : State) (die : Nat) (a b : Want) : Bool :=
  if a.prio != b.prio then decide (b.prio < a.prio)
  else
    let x := s.held a.ctx die * s.shareOf b.ctx
    let y := s.held b.ctx die * s.shareOf a.ctx
    if x != y then decide (x < y) else decide (a.ctx.toNat < b.ctx.toNat)

/-- The want served next among those for which a domain can be found. -/
def firstWant (before : Want → Want → Bool) : List Want → Option Want
  | [] => none
  | w :: r => match firstWant before r with
    | none => some w
    | some v => if before v w then some v else some w

/-- Free domains given one at a time (R140, steps 1 and 2). -/
def State.giveFree (s : State) (die : Nat) : Nat → State
  | 0 => s
  | fuel + 1 =>
    match firstWant (s.before die) ((s.wants die).filter fun w => (s.freeFor die w).isSome) with
    | none => s
    | some w => match s.freeFor die w with
      | none => s
      | some d => State.giveFree { s with owners := tset s.owners d w.ctx } die fuel

/-- The blocks of a context in a domain. -/
def Ctx.inDomain (k : Ctx) (d : Nat) : List Placed :=
  k.placed.filter fun p => p.at_.any fun q => k.seatOf p * 16 + q.1 / 8 = d

/-- A domain that holds nothing in use: idle blocks, and no MATRIX block's home. -/
def Ctx.domainIdle (k : Ctx) (d : Nat) : Bool :=
  ((k.inDomain d).all fun p => k.idle p && p.old.isNone)
    && !(k.launches.any fun n => n.homes.any fun h => k.phys h.2.2.1 * 16 + h.2.2.2 = d)

/-- The highest priority of a context's launches with a thread on a die, plus one; 0 with none. -/
def Ctx.topPrio (k : Ctx) (die : Nat) : Nat :=
  k.threads.foldl (fun m x => if dieOfCluster (k.phys x.lcl) = die then max m ((((k.ln x.ln).map (·.lrec.prio.toNat)).getD 0) + 1) else m) 0

/-- By how much what a context holds of a die exceeds its entitlement, times the sum of the shares that count. -/
def State.overshoot (s : State) (die : Nat) (c : CtxId) : Int :=
  let who := ((s.ctxs.map (·.num)).filter fun q => decide (s.held q die > 0) || (s.wants die).any fun w => w.ctx == q)
  let total := who.foldl (fun n q => n + s.shareOf q) 0
  (s.held c die * total : Int) - (s.shareOf c * Config.clustersPerDie * 16 : Int)

/-- A domain that a waiting context may be given at another's cost (R140, step 3): the least recently used idle domain of
one that holds more than its entitlement. The domains of a context are those of its launches alike, so a context with a
PERSISTENT launch keeps them all (R141; DESIGN CHOICE, log entry 103). -/
def State.reclaimable (s : State) (die : Nat) (w : Want) : Option (Ctx × Nat) :=
  if s.overshoot die w.ctx ≥ 0 then none
  else
    let ks := s.ctxs.filter fun k => k.num != w.ctx && decide (s.overshoot die k.num > 0)
      && !(k.launches.any fun n => n.lrec.persistent) && decide (k.topPrio die ≤ w.prio + 1)
    let all := ks.flatMap fun k => ((dieDomains die).filter fun d =>
      tget s.owners d == some k.num && w.takes d && k.domainIdle d).map fun d => (k, d)
    leastBy (fun (q : Ctx × Nat) => (q.1.inDomain q.2).foldl (fun m p => max m p.lastUse) 0) all

/-- A domain that a context no longer has blocks in is as at a grant: its array, tiles and configurations (01 R39, 02 R51). -/
def Ctx.loseDomain (k : Ctx) (d : Nat) : Ctx :=
  { k with shares := k.shares.map fun (h : Share) =>
      if k.phys h.lcl = d / 16 then { h with doms := tdel h.doms (d % 16) } else h }

/-- A domain changes hands: its blocks leave their slots. While one of them cannot, for want of room in the overflow area, which is
that thread's fault (R31), the domain stays. -/
def State.takeDomain (s : State) (k : Ctx) (d : Nat) (c : Option CtxId) : State :=
  let k1 := (k.inDomain d).foldl Ctx.evictFit k
  if !(k1.inDomain d).isEmpty then s.setCtx k1
  else { s.setCtx (k1.loseDomain d) with
         owners := match c with
           | some c => tset s.owners d c
           | none => tdel s.owners d }

def State.reclaim (s : State) (die : Nat) : Nat → State
  | 0 => s
  | fuel + 1 =>
    match firstWant (s.before die) ((s.wants die).filter fun w => (s.reclaimable die w).isSome) with
    | none => s
    | some w => match s.reclaimable die w with
      | none => s
      | some (k, d) =>
        let t := s.takeDomain k d (some w.ctx)
        if tget t.owners d == some w.ctx then State.reclaim t die fuel else t

/-- The context that a waiting launch of priority p pre-empts (R141): the lowest highest running priority below p, then
the most domains over its entitlement, then the higher number. -/
def State.victimOf (s : State) (die : Nat) (w : Want) : Option CtxId :=
  let ks := s.ctxs.filter fun k => k.num != w.ctx && k.state = 1 && k.gate = 0 && decide (s.held k.num die > 0)
    && decide (k.topPrio die < w.prio + 1)
  let better (a b : Ctx) : Bool :=
    if a.topPrio die != b.topPrio die then decide (a.topPrio die < b.topPrio die)
    else if s.overshoot die a.num != s.overshoot die b.num then decide (s.overshoot die b.num < s.overshoot die a.num)
    else decide (b.num.toNat < a.num.toNat)
  (ks.foldl (fun (m : Option Ctx) k => match m with
    | none => some k
    | some v => if better k v then some k else some v) none).map (·.num)

/-! Test kernels of context 0 (R142). -/

/-- The domains that test kernels of a lease run in: those of a leased cluster, or else those context 0 holds on the die. -/
def State.testDomains (s : State) (die : Nat) (e : Lease) : List Nat :=
  if e.kind = 0 then (List.range 16).map fun d => e.unit.toNat * 16 + d
  else (dieDomains die).filter fun d => tget s.owners d == some 0 && !s.barred (d / 16)

/-- A launch of another context awaits one of some domains (05 R142). -/
def State.tenantNeeds (s : State) (die : Nat) (ds : List Nat) : Bool :=
  (s.wants die).any fun w => w.ctx != 0 && ds.any w.takes

/-- Context 0 gives up domains: its blocks leave them. -/
def State.houseLeaves (s : State) (ds : List Nat) : State :=
  (ds.filter fun d => tget s.owners d == some 0).foldl (fun (s : State) d => match s.ctx 0 with
    | some k => s.takeDomain k d none
    | none => { s with owners := tdel s.owners d }) s

/-- The lease entries of a die that are not free, by number. -/
def State.leasesOf (s : State) (die : Nat) : List (Nat × Lease) :=
  s.leases.filter fun e => e.1 / 8 = die && e.2.state != 0

/-- Entry `entry` of a die's leases. -/
def State.setLease (s : State) (die entry : Nat) (e : Lease) : State := { s with leases := tset s.leases (die * 8 + entry) e }

/-- A test kernel of a lease of a die runs in a domain that context 0 holds: it is in use. -/
def State.underTest (s : State) (die d : Nat) : Bool :=
  tget s.owners d == some 0 && (s.leasesOf die).any fun e => e.2.state = 2 && (s.testDomains die e.2).contains d

/-- A tenant's need takes the domains of a lease's test from it at once, and the test starts again (05 R142). -/
def State.endTest (s : State) (die entry : Nat) : State :=
  let e := s.lease die entry
  let ds := s.testDomains die e
  if e.state = 2 && s.tenantNeeds die ds then (s.houseLeaves ds).setLease die entry { e with kernels := 0, failed := 0 } else s

/-- No domain of a die is free or idle. -/
def State.noneLeft (s : State) (die : Nat) : Bool :=
  !((dieDomains die).any fun d => match tget s.owners d with
    | none => !s.barred (d / 16)
    | some c => match s.ctx c with | some k => k.domainIdle d && !s.underTest die d | none => true)

/-- GRANT_INTERVAL (R140 to R142): tests give way; the launches that have waited for a full interval in which no domain was free or
idle each pre-empt a context, whose domains they are heirs to. -/
def execGrantInterval (die : Nat) (s : State) : Out :=
  let s0 := (List.range 8).foldl (fun (s : State) i => s.endTest die i) s
  let s1 := (s0.giveFree die 384).reclaim die 384
  let ws := s1.wants die
  let none_ := s0.noneLeft die && s1.noneLeft die
  let chosen : List (CtxId × Nat × Nat) := if !none_ then [] else
    (ws.filter fun w => s.waited.contains (die, w.stamp)).filterMap fun w => (s1.victimOf die w).map fun v => (v, die, w.stamp)
  .next { s1 with
    waited := (s1.waited.filter fun e => e.1 != die) ++ (if none_ then ws.map fun w => (die, w.stamp) else [])
    victims := (s1.victims ++ chosen.map Prod.fst).eraseDups
    heirs := s1.heirs ++ chosen }

/-! ### The report of a save (R222, steps 5 and 6) -/

/-- A saved context's domains are free, but for those that go to a launch for which it was pre-empted (05 R141). -/
def State.bequeath (s : State) (c : CtxId) : State :=
  let mine := s.heirs.filter fun e => e.1 == c
  let heirOf (d : Nat) : Option CtxId := mine.findSome? fun e =>
    if dieOfCluster (d / 16) = e.2.1 then ((s.wants e.2.1).find? fun w => w.stamp = e.2.2 && w.takes d).map (·.ctx) else none
  { s with
    heirs := s.heirs.filter fun e => e.1 != c
    owners := s.owners.filterMap fun e => if e.2 == c then (heirOf e.1).map fun h => (e.1, h) else some e }

/-- CONTEXT_SAVE_REPORT (R222, steps 5 and 6): once every committed store is performed, STATE is 3, the domains are free
and the host is told. -/
def execContextSaveReport (c : CtxId) (s : State) : Out :=
  .next <| match s.ctx c with
    | none => s
    | some k =>
      if !(k.state = 1 || k.state = 2) || !k.preempt || k.gate != 2 || k.storesLeft s.mem || k.faultsLeft
          || k.shares.any Share.engineRuns || k.shares.any Share.completes then s
      else
        let (s1, ok) := s.flushLogs c
        if !ok then s
        else
          let s2 := { s1 with mem := k.physSet.foldl Mems.scClean s1.mem }.bequeath c
          ((s2.modCtx c fun k => (k.charge (k.phys 0) 4 0).leaveFabric).houseEvent).post c (hostEvent 5)

end Sys2Proof.Machine
end

