-- ==== Sys2Proof/Machine/Power.lean ====
section
/-! DEFINITION. Power intervals, ballast, temperature and coolant (02 R72, R73, 07 R200, R201, R207, R209, 08 R227,
16 R452 to R457). -/

namespace Sys2Proof.Machine

/-! ### Intervals (R207, R209, R452) -/

/-- A fold of the weights a unit has gathered for a context into its counters: whole microjoules of each class, and their sum
(R200). -/
def Ctx.fold (k : Ctx) (site : Nat) : Ctx :=
  let whole := (k.pending site).map (· / 1024)
  let total := whole.foldl (· + ·) 0
  { k with
    energy := (List.range 6).map fun i => k.energy.getD i 0 + BitVec.ofNat 64 (if i = 0 then total else whole.getD (i - 1) 0)
    unfolded := tset k.unfolded site ((k.pending site).map (· % 1024)) }

/-- What the cluster and its die's controllers have gathered for a context is folded (R200). -/
def Ctx.foldAt (clu : Nat) (k : Ctx) : Ctx := (k.fold clu).fold (dieSite clu)

/-- A domain at its spine's boundary: the counts of the complete interval, and its new grant. -/
def PwrDom.turn (w : PwrDom) (grant : BitVec 16) : PwrDom :=
  { ballast := w.ballastNow, used := w.usedNow, grant := grant, usedNow := 0, ballastNow := 0 }

/-- The power a die may draw: BUDGET, more than 900 W acting as 900 (02 R73). -/
def PwrCtl.watts (r : PwrCtl) : Nat := min 900 r.budget.toNat

/-- The next grant of a domain, the house's proposal g within the bounds: lower than the last where the die drew more than its
budget over the last interval, higher otherwise, at least MINGRANT, 0 acting as 1, and at most 9,216 (16 R452). -/
def PwrCtl.grantAfter (r : PwrCtl) (above : Bool) (last g : BitVec 16) : BitVec 16 :=
  let n := if above then min g.toNat (last.toNat - 1) else max g.toNat (last.toNat + 1)
  BitVec.ofNat 16 (min 9216 (max (max 1 r.mingrant.toNat) n))

/-- The microjoules that the clusters of a die and its controllers have folded so far. -/
def State.dieEnergy (s : State) (die : Nat) : Nat :=
  ((dieSite (die * Config.clustersPerDie)) :: (List.range Config.clustersPerDie).map (die * Config.clustersPerDie + ·)).foldl
    (fun n site => n + tgetD s.drawn site 0) 0

/-- The die's modelled draw over the last interval of a spine on a cluster, 1,024 cycles at 12.5 MHz × (20 + ECODE), exceeded its
budget: microjoules folded since that interval began, over its microseconds (16 R452, 07 R200, 02 R72; DEDUCED, log entry 146). -/
def State.overBudget (s : State) (clu spine : Nat) : Bool :=
  let die := dieOfCluster clu
  decide ((s.power die).watts * 2048
    < (s.dieEnergy die - tgetD s.drawnAt (clu * 8 + spine) 0) * (25 * (20 + (s.spine die spine).ecode.toNat)))

/-- The whole microjoules that a unit's weights make up now, over all contexts. -/
def State.wholeAt (s : State) (site : Nat) : Nat :=
  s.ctxs.foldl (fun n k => n + ((k.pending site).map (· / 1024)).foldl (· + ·) 0) 0

/-- What a cluster and its die's controllers have gathered is folded into the contexts' counters and into the die's draw (R200,
16 R452). -/
def State.foldSites (s : State) (clu : Nat) : State :=
  let add (t : Tab Nat) (site : Nat) : Tab Nat := tset t site (tgetD t site 0 + s.wholeAt site)
  { s with ctxs := s.ctxs.map (Ctx.foldAt clu), drawn := add (add s.drawn clu) (dieSite clu) }

/-- The floor under a domain's draw: the ballast firings of an interval in which `used` tokens are consumed (16 R453). -/
def PwrDom.ballastDue (w : PwrDom) : Nat :=
  min ((w.used.toNat + w.ballast.toNat) / 2 - w.usedNow.toNat) (w.grant.toNat - w.usedNow.toNat)

/-- Ballast firings of a domain, charged to context 0 (07 R201). -/
def State.fireBallast (s : State) (clu d n : Nat) : State :=
  let w := tgetD s.pwrdom (clu * 16 + d) PwrDom.zero
  { s with pwrdom := tset s.pwrdom (clu * 16 + d) { w with ballastNow := w.ballastNow + BitVec.ofNat 16 n } }.modCtx 0
    fun k => k.chargeN clu 1 2 n

/-- The ballast firings that an interval's end still owes are made, on a spine that runs (16 R453). -/
def State.endBallast (s : State) (clu d : Nat) : State :=
  let w := tgetD s.pwrdom (clu * 16 + d) PwrDom.zero
  if !(s.power (dieOfCluster clu)).ballast || tgetD s.spnow (clu * 16 + d) 0 = 7 then s
  else s.fireBallast clu d (w.ballastDue - w.ballastNow.toNat)

/-- The domains of a cluster that run on a spine. -/
def State.domainsOn (s : State) (clu spine : Nat) : List Nat :=
  (List.range 16).filter fun d => (tgetD s.spnow (clu * 16 + d) 0).toNat = spine

/-- One domain's boundary: tokens, the spine selected for it unless it is held parked, and its static power. -/
def State.turnDomain (s : State) (clu d : Nat) (above : Bool) (g : BitVec 16) : State :=
  let n := clu * 16 + d
  let w := tgetD s.pwrdom n PwrDom.zero
  let s1 := { s with
    pwrdom := tset s.pwrdom n (w.turn ((s.power (dieOfCluster clu)).grantAfter above w.grant g))
    spnow := tset s.spnow n (if s.parked.contains n then 7 else tgetD s.spsel n 0) }
  s1.modCtx ((tget s.owners n).getD 0) fun k => k.charge clu 1 1

/-- A spine's boundary: a requested code takes effect; under a throttle only one that is not above the code in effect does,
and it ends the throttle of the spine, whose code then is the one requested (16 R456). -/
def SpineFreq.turn (r : SpineFreq) : SpineFreq :=
  let e := if r.throt && decide (r.ecode.toNat < r.code.toNat) then r.ecode else r.code
  { r with busy := false, ecode := e, throt := r.throt && e != r.code }

/-- POWER_INTERVAL (R207, 16 R452): the boundary of a spine on a cluster, `cycles` after the last: ballast firings still due are made,
energy is folded, at the boundaries of every spine (R200; DESIGN CHOICE, log entry 53), and each domain has its next grant. -/
def execPowerInterval (clu spine cycles : Nat) (turn : PowerTurn) (s : State) : Out :=
  .next <|
    if clu ≥ Config.clusters || spine ≥ 8 then s
    else
      let ds := s.domainsOn clu spine
      let s0 := (ds.foldl (fun (s : State) d => s.endBallast clu d) s).foldSites clu
      let above := spine != 7 && s0.overBudget clu spine
      let s1 := ds.foldl (fun s d => s.turnDomain clu d above (turn.grants.getD d 0)) s0
      let s2 := { s1 with drawnAt := tset s1.drawnAt (clu * 8 + spine) (s1.dieEnergy (dieOfCluster clu)) }
      if spine = 7 then s2
      else
        let s3 := s2.setSpine (dieOfCluster clu) spine (s2.spine (dieOfCluster clu) spine).turn
        { s3 with cycles := tset s3.cycles (clu * 8 + spine) (tgetD s3.cycles (clu * 8 + spine) 0 + BitVec.ofNat 64 cycles) }

/-- A context has a ready slot in a PE of a cluster. -/
def Ctx.readyIn (k : Ctx) (clu pe : Nat) : Bool :=
  k.tokens.any fun a => !a.held && match k.th a.tok.thread with
    | none => false
    | some x => match k.placedAt x a.blk with
      | none => false
      | some p => k.seatOf p = clu && (List.range p.slots.length).any fun i =>
          (p.at_[i]?).map (·.1) == some pe && k.readyAt x p i a.tok.wave

/-- BALLAST_FIRING (R453): one of the firings that an interval ends with, in a domain none of whose PEs has a ready instruction; the
others follow, or are made at the boundary (DEDUCED, log entry 147). -/
def execBallastFiring (clu dom : Nat) (s : State) : Out :=
  let n := clu * 16 + dom
  let w := tgetD s.pwrdom n PwrDom.zero
  .next <|
    if clu ≥ Config.clusters || dom ≥ 16 || !(s.power (dieOfCluster clu)).ballast || tgetD s.spnow n 0 = 7
        || w.ballastNow.toNat ≥ w.ballastDue
        || (List.range 8).any (fun pe => s.ctxs.any fun k => k.active && k.readyIn clu (dom * 8 + pe)) then s
    else s.fireBallast clu dom 1

/-! ### Temperature (R455, R456) -/

/-- A reading of a cluster's sensor, in units of 0.125 °C. -/
def State.sense (s : State) (clu : Nat) (temp : BitVec 12) : State :=
  { s with temps := tset s.temps clu { s.tempOf clu with temp := temp, hot := decide (temp.toNat ≥ 760) } }

/-- Each share on a cluster is asked to migrate for a cause. -/
def Ctx.askAll (clu : Nat) (cause : BitVec 8) (k : Ctx) : Ctx :=
  let one (h : Share) : Share := if h.moveTo.isNone then { h with moveTo := some (0, cause) } else h
  if k.state.toNat > 2 then k
  else ((List.range k.lclusters).filter fun l => k.phys l = clu).foldl (fun k l => k.modShare l one) k

/-- THERMAL_HOT (R456): 95 °C. -/
def execThermalHot (clu : Nat) (temp : BitVec 12) (s : State) : Out :=
  .next <|
    if clu ≥ Config.clusters || temp.toNat < 760 then s
    else { s.sense clu temp with cooling := (s.cooling ++ [clu]).eraseDups, ctxs := s.ctxs.map (Ctx.askAll clu 4) }

/-- The spines that domains of a cluster use. -/
def State.spinesOf (s : State) (clu : Nat) : List Nat :=
  (((List.range 16).map fun d => (tgetD s.spnow (clu * 16 + d) 0).toNat).eraseDups).filter (· < 7)

/-- ECODE falls by 8 codes, down to 0. -/
def SpineFreq.slow (r : SpineFreq) : SpineFreq := { r with throt := true, ecode := BitVec.ofNat 7 (r.ecode.toNat - 8) }

/-- ECODE rises by 8 codes back to CODE, where THROT falls. -/
def SpineFreq.quicken (r : SpineFreq) : SpineFreq :=
  let e := min r.code.toNat (r.ecode.toNat + 8)
  { r with ecode := BitVec.ofNat 7 e, throt := decide (e ≠ r.code.toNat) }

/-- The throttled spines whose codes rise as a cluster cools: those its domains use, and those that no throttled cluster of the die
uses any more. -/
def State.recovering (s : State) (clu : Nat) : List Nat :=
  let die := dieOfCluster clu
  let others := ((List.range Config.clustersPerDie).map (die * Config.clustersPerDie + ·)).filter fun c => c != clu && (s.tempOf c).throt
  (List.range 7).filter fun n => (s.spine die n).throt
    && ((s.spinesOf clu).contains n || !(others.any fun c => (s.spinesOf c).contains n))

/-- THROTTLE_TICK (R456): 1 ms at or above 105 °C, or below 100 °C while throttled. -/
def execThrottleTick (clu : Nat) (temp : BitVec 12) (s : State) : Out :=
  let die := dieOfCluster clu
  let s1 := s.sense clu temp
  .next <|
    if clu ≥ Config.clusters then s
    else if temp.toNat ≥ 840 then
      let s2 := (s.spinesOf clu).foldl (fun s n => s.setSpine die n (s.spine die n).slow) s1
      { s2 with temps := tset s2.temps clu { s2.tempOf clu with throt := true } }
    else if temp.toNat < 800 && (s.tempOf clu).throt then
      let s2 := (s.recovering clu).foldl (fun s n => s.setSpine die n (s.spine die n).quicken) s1
      { s2 with temps := tset s2.temps clu { s2.tempOf clu with throt := (s.recovering clu).any fun n => (s2.spine die n).throt } }
    else s1

/-- Domains parked on spine 7 until the house selects a spine again; the register, which only the house and a reset write,
keeps what it selects (02 R76). -/
def State.park (s : State) (ds : List Nat) : State :=
  { s with parked := (s.parked ++ ds).eraseDups, spnow := ds.foldl (fun t d => tset t d 7) s.spnow }

/-- A context whose share stands on a tripped cluster: its shares there are gated and squashed for a forced migration, or
the whole context is pre-empted forced (R227); a migration that runs completes first, and the context is then a victim (R229). A
pre-emption under way is forced; one past its quiescence goes on to its save. A migration is forced by the squash of its waves alone:
engine commands go on with their share, as R226 has it, and FORCED, which R223 gives to a pre-emption, stays (DESIGN CHOICE, log
entry 142). -/
def State.tripCtx (s : State) (clu : Nat) (k : Ctx) : Ctx :=
  if k.state.toNat > 2 || !(k.physSet.contains clu) || k.gate = 2 then k
  else if k.gate = 1 then k.force
  else match s.migrationPlan k clu 0 4 with
    | [] => if k.state = 0 || k.shares.any (·.gated) then k else k.force
    | plan => let k1 := k.gateShares plan 4; k1.squashAll k1.leaving

/-- The contexts that a trip leaves no cluster to, and that a running migration keeps from being pre-empted yet. -/
def State.tripVictims (s : State) (clu : Nat) : List CtxId :=
  (s.ctxs.filter fun k => k.state = 1 && k.gate = 0 && k.physSet.contains clu && k.shares.any (·.gated)
    && (s.migrationPlan k clu 0 4).isEmpty).map (·.num)

/-- THERMAL_TRIP (R227, R456): 115 °C. -/
def execThermalTrip (clu : Nat) (temp : BitVec 12) (s : State) : Out :=
  .next <|
    if clu ≥ Config.clusters || temp.toNat < 920 then s
    else
      let s1 := (s.sense clu temp).park ((List.range 16).map fun d => clu * 16 + d)
      let s2 := { s1 with temps := tset s1.temps clu { s1.tempOf clu with trip := true }
                          cooling := (s1.cooling ++ [clu]).eraseDups }
      { s2 with ctxs := s2.ctxs.map (s2.tripCtx clu), victims := (s2.victims ++ s2.tripVictims clu).eraseDups }

/-- HOT_CLEAR (R456): below 95 °C HOT falls; below 85 °C the cluster may be a target again. -/
def execHotClear (clu : Nat) (temp : BitVec 12) (s : State) : Out :=
  .next <|
    if clu ≥ Config.clusters || temp.toNat ≥ 760 then s
    else { s.sense clu temp with cooling := if temp.toNat < 680 then s.cooling.filter (· != clu) else s.cooling }

/-! ### Coolant (R457) -/

/-- Flow in tenths of a litre per minute and inlet in °C break their limits. -/
def coolantPoor (flow inlet : Nat) : Bool := decide (flow < 20) || decide (inlet > 45)

/-- COOLANT_FAULT (R457). -/
def execCoolantFault (flow inlet : Nat) (s : State) : Out :=
  .next <| if !coolantPoor flow inlet then s
    else { s.park (List.range (Config.clusters * 16)) with coolantBad := true }

/-- COOLANT_CONDITION_CLEAR (R457): the house may now select spines again. -/
def execCoolantConditionClear (flow inlet : Nat) (s : State) : Out :=
  .next <| if coolantPoor flow inlet then s else { s with coolantBad := false }

end Sys2Proof.Machine
end

