-- ==== Sys2Proof/Machine/House.lean ====
section
/-! DEFINITION. What the house does to the module: test leases, retirement, hardware errors, warm reset and cold start,
teardown and patrol scrubbing (03 R95, 06 R192 to R197, 07 R202 to R205, 08 R220, R221, R228 to R233). -/

namespace Sys2Proof.Machine

/-! ### Units and links (R192, R194, 16 R448) -/

/-- Retirable units: clusters, links, pseudo-channels and lanes. -/
def unitExists (u : RetUnit) : Bool :=
  match u.kind.toNat with
  | 0 => u.unit.toNat < 96 | 1 => u.unit.toNat < 16 | 2 => u.unit.toNat < 4096 | 3 => u.unit.toNat < 128 | _ => false

/-- The die a unit that is leased belongs to. -/
def unitDie (u : RetUnit) : Nat :=
  match u.kind.toNat with
  | 0 => u.unit.toNat / 24 | 1 => u.unit.toNat / 4 | _ => u.unit.toNat / 1024

/-- The unit whose energy counts what is done to a retirable unit (07 R200, R201). -/
def unitSite (u : RetUnit) : Nat := if u.kind = 0 then u.unit.toNat else 96 + unitDie u

/-- Withdrawing a unit or returning it is charged to context 0 (07 R201). -/
def State.chargeHouse (s : State) (u : RetUnit) (event : Nat) : State := s.modCtx 0 fun k => k.charge (unitSite u) 2 event

def State.leased (s : State) (u : RetUnit) : Bool :=
  s.leases.any fun e => e.2.state != 0 && e.2.kind.toNat = u.kind.toNat && e.2.unit.toNat = u.unit.toNat

/-- A unit out of service: leased, being withdrawn for its retirement, or retired. -/
def State.unitOut (s : State) (u : RetUnit) : Bool := s.leased u || s.retiring.any (·.unit == u) || (s.scoreOf u).retired

/-- The widest width a link's lanes in service allow, no wider than was asked for; none of a retired link's are (16 R448). -/
def State.laneWidth (s : State) (link : Nat) : Nat :=
  let up := if (s.scoreOf (unitOf 1 link)).retired then 0 else 8 - (s.lanesOut.filter fun n => n / 8 = link).length
  (([8, 4, 2, 1].find? fun w => w ≤ up && w ≤ (s.link link).width.toNat)).getD 0

/-- A link carries traffic. -/
def State.linkCarries (s : State) (n : Nat) : Bool := (s.link n).pv && (s.link n).lanes != 0 && !s.unitOut (unitOf 1 n)

/-- The modules that the links reach: those at their far ends, and those at the far end of a link out of service whose traffic
goes over the other links of its die (06 R193). -/
def State.setReach (s : State) : State :=
  let ns := (List.range 16).filter fun n => (s.link n).pv &&
    (s.linkCarries n || (s.unitOut (unitOf 1 n) && (List.range 16).any fun m => m / 4 = n / 4 && s.linkCarries m))
  { s with mem := { s.mem with reach := (ns.map fun n => (s.link n).peer.toNat).eraseDups } }

/-- A lane goes out of service: its link sheds width. -/
def State.dropLane (s : State) (lane : Nat) : State :=
  let s1 := { s with lanesOut := (s.lanesOut ++ [lane]).eraseDups }
  let l := s1.link (lane / 8)
  ({ s1 with links := tset s1.links (lane / 8) { l with
      lanes := BitVec.ofNat 4 (min l.lanes.toNat (s1.laneWidth (lane / 8))) } } : State).setReach

/-! ### Withdrawal (06 R193, 08 R228) -/

/-- A unit begins to be withdrawn: a cluster's work is asked to migrate, a link's traffic goes over others, the contents of a
pseudo-channel are copied to the lease reserve while accesses to it wait. -/
def State.beginOut (s : State) (u : RetUnit) (cause : BitVec 8) : State :=
  match u.kind.toNat with
  | 0 => { s with ctxs := s.ctxs.map (Ctx.askAll u.unit.toNat cause) }
  | 1 => s.setReach
  | 2 => { s with mem := { s.mem with copying := (s.mem.copying ++ [u.unit.toNat]).eraseDups } }
  | _ => s

/-- The copying of a pseudo-channel's contents is done. -/
def State.copied (s : State) (u : RetUnit) : State :=
  if u.kind = 2 then { s with mem := { s.mem with copying := s.mem.copying.filter (· != u.unit.toNat) } } else s

/-- A unit's work has left it: no context on the fabric, or resident, maps to the cluster. -/
def State.emptied (s : State) (u : RetUnit) : Bool :=
  u.kind != 0 || !(s.ctxs.any fun k => (decide (k.state.toNat ≤ 2) || k.state == 4) && k.physSet.contains u.unit.toNat)

/-! ### Retirement (R194, R195, R203, R228) -/

/-- The 64 bytes of a retirement record before its signature, and the whole record (06 R194). -/
def Retired.body (r : Retired) : List Byte :=
  leBytes 4 1 ++ leBytes 2 r.index ++ [r.unit.kind, r.reason] ++ leBytes 2 r.unit.unit.toNat ++ leBytes 2 r.score.toNat
    ++ leBytes 4 r.cold.toNat ++ leBytes 8 r.seq.toNat ++ List.replicate 40 0
def Retired.bytes (r : Retired) : List Byte := r.body ++ leBytes 384 r.sig.toNat

/-- The signature of a record under a device identity key. -/
def Retired.signed (key : BitVec 256) (r : Retired) : BitVec 3072 := Config.rsaSign key (digestOf r.body)

/-- The device identity key of the firmware that runs (16 R445). -/
def State.identity (s : State) : BitVec 256 := Config.identityKey s.firmware.digest

/-- The record of a unit's retirement stands in flash, signed under the identity key of this time, and the unit is disabled. -/
def State.record (s : State) (u : RetUnit) (reason : BitVec 8) : State :=
  if (s.scoreOf u).retired then s
  else
    let s1 := s.houseEvent
    let r : Retired := { index := s1.flash.records.length, unit := u, reason := reason, score := (s1.scoreOf u).score
                         cold := s1.flash.colds, seq := s1.evseq, sig := 0 }
    let s2 := { s1 with flash := { s1.flash with records := s1.flash.records ++ [{ r with sig := r.signed s1.identity }] } }
    let s3 := s2.setScore u { s2.scoreOf u with retired := true }
    match u.kind.toNat with
    | 1 => ({ s3 with links := tset s3.links u.unit.toNat { s3.link u.unit.toNat with lanes := 0 } } : State).setReach
    | 3 => s3.dropLane u.unit.toNat
    | _ => s3

/-- A withdrawn unit is retired, and a link with the last of its lanes (16 R448). -/
def State.retire (s : State) (u : RetUnit) (reason : BitVec 8) : State :=
  let s1 := s.record u reason
  let link := u.unit.toNat / 8
  if u.kind = 3 && (s1.lanesOut.filter fun n => n / 8 = link).length = 8 then s1.record (unitOf 1 link) reason else s1

/-- The contexts whose data a unit holds: those on a cluster, and the owners of the key slots under which lines of a
pseudo-channel were written. -/
def State.holders (s : State) (u : RetUnit) : List CtxId :=
  match u.kind.toNat with
  | 0 => (s.ctxs.filter fun k => (decide (k.state.toNat ≤ 2) || k.state == 4) && k.physSet.contains u.unit.toNat).map (·.num)
  | 2 => ((s.mem.key.filter fun e => channelOf (64 * e.1) = u.unit.toNat).filterMap fun e =>
      (tget s.keys e.2).map (·.owner)).eraseDups
  | _ => []

/-- A unit that is to be retired begins to be withdrawn; a lane is retired at once. -/
def State.beginRetire (s : State) (u : RetUnit) (reason : BitVec 8) : State :=
  if (s.scoreOf u).retired || s.retiring.any (·.unit == u) then s
  else if u.kind = 3 then s.retire u reason
  else ({ s with retiring := s.retiring ++ [⟨u, reason, s.holders u⟩] } : State).beginOut u 2

/-- A cluster's caches hold nothing more. -/
def Mems.scrubCluster (m : Mems) (clu : Nat) : Mems :=
  ((m.scClean clu).l1.filter fun (e : L1Line) => e.clu == clu).foldl Mems.evict (m.scClean clu)

/-- A unit being retired is scrubbed first; one that cannot be is held powered off (R195). -/
def State.scrubUnit (s : State) (w : Withdrawal) (scrubbed : Bool) : State :=
  let s1 := if w.unit.kind = 0 then { s with mem := s.mem.scrubCluster w.unit.unit.toNat } else s
  if scrubbed then s1 else { s1 with poweredOff := s1.poweredOff ++ [(w.unit, w.ctxs)] }

/-- A lease is over: the management controller keeps its report (16 R451). -/
def State.closeLease (s : State) (e : Lease) : State :=
  { s with leaseHistory := s.leaseHistory ++ [⟨unitOf e.kind.toNat e.unit.toNat, e.seqStart, s.evseq, e.kernels, e.failed⟩] }

/-- A lease entry as it is when free. -/
def State.freeLeases (s : State) (u : RetUnit) : State :=
  let mine (e : Nat × Lease) : Bool := e.2.kind.toNat = u.kind.toNat && e.2.unit.toNat = u.unit.toNat
  let s1 := ((s.leases.filter fun e => mine e && e.2.state != 0).map (·.2)).foldl State.closeLease s
  { s1 with leases := s.leases.filter fun e => !(mine e) }

/-- RETIREMENT (R228): for a score of 4,096, or by the house's decision, the unit begins to be withdrawn; once it is, it is
scrubbed, its record is written, and it never returns. -/
def execRetirement (u : RetUnit) (how : RetireHow) (s : State) : Out :=
  .next <|
    match s.retiring.find? (·.unit == u) with
    | some w =>
      if !s.emptied u then s.beginOut u 2
      else
        let s1 := { s with retiring := s.retiring.filter fun x => x.unit != u }
        ((((s1.copied u).scrubUnit w how.scrubbed).retire u w.reason).freeLeases u).setReach
    | none =>
      if unitExists u && (how.reason = 3 || (how.reason = 1 && (s.scoreOf u).doomed)) then s.beginRetire u how.reason else s

/-- CONTROL_LOGIC_ERROR (R220): pinned to a cluster, link or pseudo-channel, which is withdrawn and retired with reason 4. -/
def execControlLogicError (u : RetUnit) (s : State) : Out :=
  .next <| if unitExists u && decide (u.kind.toNat < 3) then s.beginRetire u 4 else s

/-! ### Test leases (R192, R193) -/

/-- MAXCONC in force: 0 acts as 1, more than 8 as 8. -/
def LeaseCtl.limit (r : LeaseCtl) : Nat := min 8 (max 1 r.maxconc.toNat)

/-- The units a die may lease. -/
def dieUnits (die : Nat) : List RetUnit :=
  ((List.range 24).map fun i => unitOf 0 (die * 24 + i)) ++ ((List.range 4).map fun i => unitOf 1 (die * 4 + i))
    ++ (List.range 1024).map fun i => unitOf 2 (die * 1024 + i)

def State.leaseStamp (s : State) (u : RetUnit) : Nat := ((s.lastLease.find? (·.1 == u)).map (·.2)).getD 0

/-- A unit is the scheduler's choice: the highest score of those due, or else the longest since its last lease. -/
def State.leaseChoice (s : State) (die : Nat) (u : RetUnit) : Bool :=
  let us := (dieUnits die).filter fun v => !s.unitOut v
  let due := us.filter fun v => decide ((s.scoreOf v).score.toNat ≥ 512)
  if due.isEmpty then us.contains u && us.all fun v => s.leaseStamp u ≤ s.leaseStamp v
  else due.contains u && due.all fun v => decide ((s.scoreOf v).score.toNat ≤ (s.scoreOf u).score.toNat)

def Lease.retUnit (e : Lease) : RetUnit := unitOf e.kind.toNat e.unit.toNat

/-- LEASE_START (R193): the unit begins to be withdrawn. -/
def execLeaseStart (die : Nat) (u : RetUnit) (s : State) : Out :=
  let r := s.leasing die
  .next <|
    if die ≥ 4 || !r.en || r.hold || (s.leasesOf die).length ≥ r.limit || !s.leaseChoice die u then s
    else match (List.range 8).find? fun i => (s.lease die i).state = 0 with
      | none => s
      | some i =>
        let s1 := s.houseEvent
        let e : Lease := { seqStart := s1.evseq, state := 1, kind := u.kind.extractLsb' 0 2, unit := u.unit.extractLsb' 0 12
                           score := (s1.scoreOf u).score, kernels := 0, failed := 0 }
        ((({ s1.setLease die i e with lastLease := (s1.lastLease.filter (·.1 != u)) ++ [(u, s.tick + 1)] } : State).chargeHouse u
          7).beginOut u 1)

/-- The domains for the next kernel of a test: those of the lease, or else, where context 0 holds none on the die, the lowest free
one. -/
def State.testRoom (s : State) (die : Nat) (e : Lease) : List Nat :=
  let ds := s.testDomains die e
  if !ds.isEmpty then ds
  else ((dieDomains die).find? fun d => (tget s.owners d).isNone && !s.barred (d / 16)).toList

/-- Context 0 can run a kernel: it is on the fabric, and no gate of it is closed. -/
def State.houseRuns (s : State) : Bool := (s.ctx 0).any fun k => k.active && k.gate = 0 && !k.halted

/-- LEASE_TESTING (R193): the withdrawn unit is tested, one kernel a step, by context 0 in domains that no launch awaits; it waits
while there is none, and a tenant's need takes them away and starts the test again (05 R142). -/
def execLeaseTesting (die entry : Nat) (failed : Bool) (s : State) : Out :=
  let e := s.lease die entry
  let u := e.retUnit
  let ds := s.testRoom die e
  .next <|
    if e.state = 1 then
      (if s.emptied u then (s.copied u).setLease die entry { e with state := 2 } else s.beginOut u 1)
    else if e.state = 2 then
      (if s.tenantNeeds die (s.testDomains die e) then s.endTest die entry
       else if e.kernels = 255 || ds.isEmpty || s.tenantNeeds die ds || !s.houseRuns then s
       else
         let s1 := { s with owners := ds.foldl (fun o d => if (tget o d).isNone then tset o d 0 else o) s.owners }
         (s1.setLease die entry { e with kernels := e.kernels + 1, failed := if failed then e.failed + 1 else e.failed }).modCtx 0
           fun k => k.charge (unitSite u) 2 3)
    else s

/-- LEASE_VERDICT (R193, R203, R204): the test is over; then the score changes, and the unit is retired or returns. -/
def execLeaseVerdict (die entry : Nat) (s : State) : Out :=
  let e := s.lease die entry
  let u := e.retUnit
  .next <|
    if e.state = 2 && e.kernels != 0 then
      (s.houseLeaves ((s.testDomains die e).filter fun d =>
        e.kind = 0 || (s.ctx 0).all fun k => (k.inDomain d).isEmpty)).setLease die entry { e with state := 3 }
    else if e.state = 3 then
      let s1 := (s.addScore u (if e.failed = 0 then -8 else 256 * (e.failed.toNat : Int))).houseEvent.flashScore u
      if (s1.scoreOf u).doomed then
        (((s1.scrubUnit ⟨u, 1, s1.holders u⟩ (Config.scrubs s1.tick u)).retire u 1).closeLease e).setLease die entry Lease.free
      else
        let s2 := s1.setLease die entry { e with state := 4 }
        if e.kind = 2 then s2.beginOut u 1 else s2
    else s

/-- A folded context that was granted a cluster spreads onto it again (06 R173). -/
def State.unfold (s : State) (p : Nat) (k : Ctx) : Ctx :=
  if !k.active || k.gate != 0 || k.physSet.length ≥ k.lclusters || !(k.desc.granted.contains p) || k.physSet.contains p then k
  else
    let ps := (List.range Config.clusters).filter fun q => k.desc.granted.contains q && !s.barred q
    let m := k.foldMap ps
    (List.range k.lclusters).foldl (fun k l =>
      if m.getD l 0 != k.phys l && (k.share l).moveTo.isNone then
        k.modShare l fun h => { h with moveTo := some (m.getD l 0, 3) }
      else k) k

/-- LEASE_RETURN (R193): the unit is back in service, a pseudo-channel's contents copied back. -/
def execLeaseReturn (die entry : Nat) (s : State) : Out :=
  let e := s.lease die entry
  let u := e.retUnit
  .next <|
    if e.state != 4 then s
    else
      let s1 := ((((s.closeLease e).setLease die entry Lease.free).copied u).chargeHouse u 8).setReach
      if e.kind = 0 then { s1 with ctxs := s1.ctxs.map (s1.unfold e.unit.toNat) } else s1

/-! ### Errors that escalate (R220, R221) -/

/-- The warm reset that follows takes place before anything else. -/
def State.thenReset (s : State) : State := { s with agenda := .event .warmReset :: s.agenda }

/-- The contexts on the fabric or resident. -/
def State.present (s : State) : List Ctx := s.ctxs.filter fun k => k.state == 1 || k.state == 2 || k.state == 4

/-- The contexts that held state in a failing structure, or whose state would need it to be saved (R221; DEDUCED, log entry
105). -/
def State.touchedBy (s : State) : Failing → List CtxId
  | .slice n => ((s.mem.l2.filter fun (e : L2Line) => e.dirty && sliceOf e.line = n).filterMap (·.writer)
      ++ (s.mem.l1.filter fun (e : L1Line) => e.kind != LineKind.host && sliceOf e.line = n && (e.dirty != 0 || e.st == Mesi.m)).map (·.ctx))
  | .storeBuffer clu => (s.bufUsed clu).map (·.1)
  | .keyTable => (s.keys.filter fun e => e.2.state = 1).map (·.2.owner)
  | .placementTable => s.present.map (·.num)
  | .fabricManager die => (s.present.filter fun k => k.physSet.any fun p => dieOfCluster p = die).map (·.num)
  | .dieLink a b => (s.present.filter fun k => k.physSet.any (fun p => dieOfCluster p = a) && k.physSet.any fun p => dieOfCluster p = b).map (·.num)

/-- ESCALATING_ERROR (R220, R221): the contexts it touches, the failing structure, or several at once, and the warm reset. -/
def execEscalatingError (f : Failing) (more : List Failing) (s : State) : Out :=
  .next ({ s with touched := (s.touched ++ (f :: more).flatMap s.touchedBy).eraseDups
                  failing := (s.failing ++ f :: more).eraseDups }).thenReset

/-- Lines whose latest value is lost: poisoned, their writers touched. -/
def State.loseLines (s : State) (ls : List Nat) : State :=
  let who := (s.mem.l2.filter fun (e : L2Line) => ls.contains e.line).filterMap (·.writer)
  { s with touched := (s.touched ++ who).eraseDups
           mem := { s.mem with poison := (s.mem.poison ++ ls).eraseDups, l2 := s.mem.l2.filter fun (e : L2Line) => !ls.contains e.line } }

/-- L2_WRITEBACK_TIMEOUT (R230, stage 1): dirty lines not written back within 10 ms are lost. -/
def execL2WritebackTimeout (lost : List Nat) (s : State) : Out :=
  .next (s.loseLines (lost.filter s.mem.l2Dirty.contains)).thenReset

/-! ### Reset entry and the start sequences (R230, R231) -/

/-- Lines that only an L1 holds the latest value of. -/
def Mems.onlyL1 (m : Mems) : List Nat :=
  ((m.l1.filter fun (e : L1Line) => e.kind != LineKind.host && (e.st == Mesi.m || e.dirty != 0)).map (·.line)).eraseDups

/-- The key slot of the exposed range. -/
def State.hdmKey (s : State) : Option Nat := s.hdm.map fun h => h.2.2

/-- The host gives back a line: the dirty bytes it returns are written, under the range's key slot as every host access (16 R438), its
copy is gone (16 R443, step 2). -/
def State.hostReturns (s : State) (line : Nat) (dirty : Option (List Byte)) : State :=
  let m := match dirty with
    | some b => s.mem.homeWrite 0 s.hdmKey (64 * line) (b.take 64)
    | none => s.mem
  { s with mem := m.setDir line { m.dirOf line with host := false, dstate := 0 } }

/-- Every line that the host holds is back-invalidated, with the dirty data it returns, before stage 2 of a warm reset (16 R444). -/
def State.hostGivesBack (s : State) : State :=
  ((s.mem.dir.filter fun e => e.2.host).map (·.1)).foldl (fun (s : State) l =>
    s.hostReturns l ((Config.hostDirty s.tick l).map fun b => leBytes 64 b.toNat)) s

/-- The directory and the L1s are empty, and no lock stands. -/
def Mems.afterReset (m : Mems) : Mems := { m with l1 := [], dir := [], l2 := [], tlb := [], locked := [], copying := [] }

/-- What a context keeps of the fabric over a warm reset: its launches, until they are reported, and its bindings (R233, 06
R163). -/
def Ctx.clearFabric (k : Ctx) : Ctx :=
  { k with
    stalled := false, preempt := false, flt := k.flt - (k.threads.filter (·.delivered)).length
    pmap := k.pmap.map fun e => (e.1, setMoving e.2 false)
    pins := [], pq := [], threads := [], placed := [], tokens := [], kept := [], vreds := []
    committed := [], spilled := [], shares := [], parks := [], gate := if k.state = 4 then 1 else 0, halted := false, wanted := []
    steal := none, gated := [], discards := [], heldRecs := []
    launches := k.launches.map fun n => { n with abort := some (0x0F, 0) } }

/-- A context through a warm reset: saved ones keep everything but unfolded energy. -/
def Ctx.throughReset (k : Ctx) : Ctx :=
  let k1 := { k with unfolded := [], stalled := false, halted := false }
  if k.state.toNat = 3 then k1 else k1.clearFabric

/-- The start register as a start begins. -/
def Start.begun (warm : Bool) (restarts : BitVec 8) : Start :=
  { recbad := 0, restarts := restarts, failstep := 0, kind := warm, step := 1 }

/-- RESTARTS of a start that is requested now (R231). -/
def State.restartsNow (s : State) : BitVec 8 :=
  if s.up then 0 else if s.start.restarts = 255 then 255 else s.start.restarts + 1

/-- The unit a failing structure lies in. -/
def Failing.unit : Failing → Option RetUnit
  | .storeBuffer clu => some (clusterUnit clu)
  | _ => none

/-- The units a warm start tests: those due, those whose leases it interrupts, and those in the failing structures. -/
def State.suspectsNow (s : State) : List RetUnit :=
  (((s.scores.filter fun e => decide (e.2.score.toNat ≥ 512)).map (·.1))
    ++ ((s.leases.filter fun e => e.2.state != 0).map fun e => e.2.retUnit)
    ++ s.failing.filterMap Failing.unit).eraseDups.filter fun u => !(s.scoreOf u).retired

/-- Registers at their Warm values; domains parked for want of coolant stay parked. -/
def State.warmRegs (s : State) : State :=
  { s with
    spines := [], spsel := [], spnow := if s.coolantBad then s.parked.map fun d => (d, 7) else []
    parked := if s.coolantBad then s.parked else []
    pwrctl := [], pwrdom := [], cycles := [], drawn := [], drawnAt := [], owners := [], urgentRun := [], counted := []
    leasectl := s.leasectl.map fun e => (e.1, { e.2 with hold := false })
    leases := [], retiring := [], dbg := Dbg.off, waited := [], victims := [], heirs := [], swept := [], cooling := []
    temps := s.temps.map fun e => (e.1, { Temp.cold with trip := e.2.trip })
    hostBias := { BiasReq.idle with result := if s.hostBias.busy then 3 else 0 }
    sysBias := { BiasReq.idle with result := if s.sysBias.busy then 3 else 0 }
    failing := [] }

/-- Reset entry (R230, stages 1 and 2): the fabric stops, dirty L2 lines of slices that do not fail are written back, the others
are lost, and the logic is reset. -/
def State.beginWarm (s0 : State) : State :=
  let s := (s0.leases.map (·.2)).foldl (fun (s : State) e => if e.state = 0 then s else s.closeLease e) s0.hostGivesBack
  let gone := (s.mem.l2Dirty.filter fun l => s.failing.contains (.slice (sliceOf l))) ++ s.mem.onlyL1
  let s1 := s.loseLines gone
  let s2 := { s1.warmRegs with
    ctxs := s1.ctxs.map Ctx.throughReset, mem := s1.mem.afterReset, suspects := s1.suspectsNow
    start := Start.begun true s1.restartsNow }
  s2.setReach

/-- Power on (R231): everything but the flash, the host's and the peers' memories is lost, house event numbers resume above the
last copy (07 R205), and a staged firmware image is the one that boots (16 R451). The number resumed is copied at once, so that the
next start resumes above it (DEDUCED, log entry 106). -/
def State.beginCold (s : State) : State :=
  let next := BitVec.ofNat 64 ((s.flash.evseq.toNat / 0x10000 + 1) * 0x10000 + 0x10000)
  { State.reset with
    agenda := s.agenda, tick := s.tick, focus := s.focus, upset := s.upset
    mem := { Mems.empty with host := s.mem.host, peer := s.mem.peer }
    evseq := next
    flash := { s.flash with colds := s.flash.colds + 1, evseq := next
                            version := match s.staged with
                              | some f => max s.flash.version f.version
                              | none => s.flash.version }
    firmware := s.staged.getD s.firmware
    start := Start.begun false s.restartsNow }

/-- The built-in test (step 4): units that fail it are retired with reason 2; a warm start tests suspects alone. -/
def State.builtInTest (s : State) (failed : List RetUnit) : State :=
  let tested (u : RetUnit) : Bool := if s.start.kind then s.suspects.contains u else !(s.flash.records.any (·.unit == u))
  { (failed.filter fun u => unitExists u && tested u).foldl (fun (s : State) u =>
      (s.scrubUnit ⟨u, 2, s.holders u⟩ (Config.scrubs s.tick u)).retire u 2) s with suspects := [] }

/-- Records read at step 7: their units are disabled. -/
def State.disable (s : State) : State :=
  let s1 := s.flash.records.foldl (fun (s : State) r => s.setScore r.unit { s.scoreOf r.unit with retired := true }) s
  s1.flash.records.foldl (fun (s : State) r => if r.unit.kind = 3 then { s with lanesOut := (s.lanesOut ++ [r.unit.unit.toNat]).eraseDups } else s) s1

/-- A record fails its check: its signature is not that of its bytes under the identity key in force (R195). -/
def Retired.fails (key : BitVec 256) (r : Retired) : Bool := r.sig != r.signed key

/-- Step 7: retirement records read and checked, and on a cold start the scores reloaded. -/
def State.readRecords (s : State) : State :=
  let s1 := if s.start.kind then s
    else { s with scores := s.flash.scores.map fun (e : RetUnit × BitVec 16) =>
        (e.1, ({ retired := (s.scoreOf e.1).retired, doomed := decide (e.2.toNat ≥ 4096), score := e.2 } : Score)) }
  let bad := (s1.flash.records.filter (Retired.fails s1.identity)).length
  { s1.disable with start := { s1.start with recbad := BitVec.ofNat 16 (min 65535 bad) } }

/-- Every launch of a context, queued ones too, has its abort reported with cause 0x0F, one under abort already among them, and is
gone, its bindings undone (R230, stage 4). -/
def State.reportAll (s : State) (c : CtxId) : State :=
  match s.ctx c with
  | none => s
  | some k =>
    let s1 := k.launches.foldl (fun (s : State) n => (s.unbindAll c n.num).report c n.lrec n.fromHost 2 0x0F 0 n.num) s
    let s2 := (s.launchq.filter fun q => q.ctx == c).foldl (fun (s : State) q => s.report c q.lrec q.fromHost 2 0x0F 0 0xFFFFFFFF) s1
    s2.modCtx c fun k => { k with launches := [], binds := k.binds.filter fun b => !(k.launches.any fun n => n.num == b.ln) }

/-- A start is complete: a house event; after a warm start the launches of contexts that were not saved are reported, while a saved
context keeps its own in their queues, and a teardown begins again. -/
def State.endStart (s : State) : State :=
  let s1 := { s with start := { s.start with step := 10 } }.houseEvent
  if !s.start.kind then s1
  else
    let s2 := ((s1.ctxs.filter fun k => k.state != 3).map (·.num)).foldl State.reportAll s1
    { s2 with launchq := s2.launchq.filter fun q => (s2.ctx q.ctx).any (·.state = 3), tearing := s2.tearing.map fun w => { w with first := s2.evseq } }

/-- The step in progress is done, and the next of the start's kind begins (R231). -/
def State.endStep (s : State) (failed : List RetUnit) : State :=
  let n := s.start.step.toNat
  let s1 := if n = 4 then s.builtInTest failed else if n = 7 then s.readRecords else s
  if n ≥ 9 then s1.endStart
  else { s1 with start := { s1.start with step := if n = 2 && s.start.kind then 4 else BitVec.ofNat 4 (n + 1) } }

/-- The steps of a start in progress up to a given one. -/
def State.runStart (s : State) (failed : List RetUnit) (last : Nat) : Nat → State
  | 0 => s
  | fuel + 1 => if s.up || s.start.step.toNat > last then s else State.runStart (s.endStep failed) failed last fuel

/-- A start runs to a step, and is stopped by an error in the one after it. -/
def State.goOn (s : State) (run : StartRun) (failed : List RetUnit) : State :=
  let s1 := s.runStart failed run.last.toNat 9
  if run.error && !s1.up then { s1 with start := { s1.start with failstep := s1.start.step.zeroExtend 8 } } else s1

/-- A warm request that meets a cold start before its step 3 is complete (R231). -/
def State.stillCold (s : State) : Bool := !s.up && !s.start.kind && decide (s.start.step.toNat ≤ 3)

/-- WARM_RESET (R230, R231): a request begins one, or a cold start again. The warm start's own steps are taken by COLD_START
steps. -/
def execWarmReset (s : State) : Out := .next (if s.stillCold then s.beginCold else s.beginWarm)

/-- COLD_START (R231): the start sequence. A request begins a cold start; the start in progress, cold or warm, then takes its steps
up to a given one. -/
def execColdStart (run : StartRun) (failed : List RetUnit) (s : State) : Out :=
  .next ((if run.request then s.beginCold else s).goOn run failed)

/-! ### Teardown (R196, R197, R232) -/

/-- Ranges of (start, length) in order, adjoining ones joined. -/
def joinRanges : List (Nat × Nat) → List (Nat × Nat)
  | [] => []
  | (a, n) :: r => match joinRanges r with
    | (b, m) :: q => if a + n = b then (a, n + m) :: q else (a, n) :: (b, m) :: q
    | [] => [(a, n)]

/-- Items of one size as ranges. -/
def rangesOf (size : Nat) (starts : List Nat) : List (Nat × Nat) :=
  joinRanges ((sortBy (fun (n : Nat) => n) starts.eraseDups).map fun a => (a, size))

/-- The key slots a context owns. -/
def State.ownedKeys (s : State) (c : CtxId) : List Nat := (s.keys.filter fun e => e.2.owner == c && e.2.state = 1).map (·.1)

/-- Lines encrypted under key slots. -/
def Mems.keyedLines (m : Mems) (slots : List Nat) : List Nat := (m.key.filter fun e => slots.contains e.2).map (·.1)

/-- The physical bytes of a context's overflow area, page by page. -/
def State.areaPages (s : State) (k : Ctx) (va : Nat) : Nat → List (Nat × Nat)
  | 0 => []
  | n + 1 =>
    match translate s.mem k k.devSite va with
    | .ok t => (t.pa, 4096) :: State.areaPages s k (va + 4096) n
    | .error _ => State.areaPages s k (va + 4096) n

def State.overflowRanges (s : State) (k : Ctx) : List (Nat × Nat) :=
  let n := (k.ovf.extractLsb' 56 8).toNat
  if 16 ≤ n && n ≤ 40 then joinRanges (s.areaPages k ((k.ovf.extractLsb' 16 40).toNat * 0x10000) (2 ^ n / 4096)) else []

/-- PEs, counted over the module, of a context's placed slots. -/
def Placed.pes (k : Ctx) (p : Placed) : List Nat := p.at_.map fun q => k.seatOf p * 128 + q.1

/-- The matching-store entries of a placed block: tokens, kept operands, and VRED contributions that wait (01 R54). -/
def Ctx.entriesOf (k : Ctx) (p : Placed) : Nat :=
  (k.tokens.filter (k.tokenOf p)).length + (k.kept.filter fun e => k.serves p e.tok.thread e.blk).length
    + ((k.vreds.filter fun (v : Vred) => k.serves p v.thread v.blk).foldl (fun n v => n + v.held.length) 0)

/-- The PEs of the blocks in which a context has matching-store entries, and of those with a constant file, with their
counts. -/
def Ctx.tearingOf (k : Ctx) (first : BitVec 64) : Tearing :=
  { ctx := k.num, first := first, entries := (k.placed.filter k.entries).foldl (fun n p => n + k.entriesOf p) 0
    entryPes := (k.placed.filter k.entries).flatMap (Placed.pes k)
    files := k.placed.length, filePes := k.placed.flatMap fun p => (p.pes k).take 1 }

/-- The units held powered off that hold data of a context, as KIND × 4,096 + UNIT. -/
def State.heldOff (s : State) (c : CtxId) : List Nat :=
  (s.poweredOff.filter fun e => e.2.contains c).map fun e => e.1.kind.toNat * 4096 + e.1.unit.toNat

/-- What is scrubbed of a context, class by class, with counts and ranges (R197): the slots and tiles are those of its domains, the
matching-store entries and constant files those that its teardown began with. -/
def State.scrubList (s : State) (k : Ctx) (w : Tearing) : List (Nat × Nat × List (Nat × Nat)) :=
  let clus := k.physSet
  let keys := s.ownedKeys k.num
  let lines := s.mem.keyedLines keys
  let l1 := s.mem.l1.filter fun (e : L1Line) => lines.contains e.line && e.kind != LineKind.host
  let l2 := (s.mem.l2.filter fun (e : L2Line) => lines.contains e.line).map fun e => 64 * e.line
  let doms := (s.owners.filter fun e => e.2 == k.num).map (·.1)
  let ovf := s.overflowRanges k
  let off := s.heldOff k.num
  let pages := (lines.map fun l => l / 64 * 4096).eraseDups
  [(1, clus.length * 0x800000, rangesOf 0x800000 (clus.map fun p => p * 0x800000)),
   (2, l1.length, rangesOf 1 (l1.map (·.clu))),
   (3, l2.length, rangesOf 64 l2),
   (4, doms.length * 512, rangesOf 512 (doms.map (· * 512))),
   (5, w.entries, rangesOf 1 w.entryPes),
   (6, doms.length * 64, rangesOf 64 (doms.map (· * 64))),
   (7, w.files, rangesOf 1 w.filePes),
   (8, clus.length, rangesOf 1 clus),
   (9, ovf.foldl (fun n r => n + r.2) 0, ovf),
   (10, pages.length * 4096, rangesOf 4096 pages),
   (11, keys.length, rangesOf 1 keys),
   (12, off.length, rangesOf 1 off)]

/-- The bytes of a scrub receipt before its signature, and with it. -/
def receiptBody (key : BitVec 256) (r : Receipt) : List Byte :=
  let n := r.classes.foldl (fun n e => n + e.2.2.length) 0
  leBytes 4 1 ++ leBytes 2 r.ctx.toNat ++ leBytes 2 12 ++ leBytes 4 n ++ leBytes 4 (0x40 + 16 * 12 + 16 * n + 384)
    ++ leBytes 8 r.seqFirst.toNat ++ leBytes 8 r.seqLast.toNat ++ leBytes 32 key.toNat
    ++ (r.classes.flatMap fun e => leBytes 2 e.1 ++ leBytes 2 0 ++ leBytes 4 e.2.2.length ++ leBytes 8 e.2.1)
    ++ r.classes.flatMap fun e => e.2.2.flatMap fun q => leBytes 8 q.1 ++ leBytes 8 q.2

def receiptBytes (key : BitVec 256) (r : Receipt) : List Byte :=
  let b := receiptBody key r
  b ++ leBytes 384 (Config.rsaSign key (digestOf b)).toNat

/-- HBM lines scrubbed to zero, in every cache too. -/
def Mems.scrub (m : Mems) (lines : List Nat) : Mems :=
  { m with hbm := lines.foldl (fun h l => wipe h (64 * l) (64 * l + 64)) m.hbm
           key := m.key.filter fun e => !lines.contains e.1
           poison := m.poison.filter fun l => !lines.contains l
           l2 := m.l2.filter fun (e : L2Line) => !lines.contains e.line
           dir := m.dir.filter fun e => !lines.contains e.1
           l1 := m.l1.filter fun (e : L1Line) => e.kind == LineKind.host || !lines.contains e.line }

/-- A context torn down: free, its share of the priority queues given back, its queue pair left for the last event. -/
def Ctx.tornDown (k : Ctx) : Ctx :=
  { Ctx.fresh k.num { k.desc with pqQuota := [] } with
    cmdprod := k.cmdprod, cmdcons := k.cmdcons, evprod := k.evprod, evcons := k.evcons, events := k.events }

/-- The place of the next scrub receipt, of the classes found now, cannot be reached yet. -/
def State.receiptWaits (s : State) (k : Ctx) (w : Tearing) : Bool :=
  let r : Receipt := { ctx := k.num, seqFirst := w.first, seqLast := s.evseq, classes := s.scrubList k w }
  (s.ctx 0).any fun house => s.devWaits house (Config.receiptAddress s.receipts.length)
    (receiptBytes (Config.identityKey s.firmware.digest) r).length true

/-- The end of a teardown, steps 3 to 7. -/
def State.finishTeardown (s : State) (k : Ctx) (w : Tearing) : State :=
  let c := k.num
  let (s1, ok) := s.flushLogs c
  if !ok || s1.receiptWaits k w then s1
  else
    let classes := s1.scrubList k w
    let keys := s1.ownedKeys c
    let s2 := { s1 with
      mem := (s1.mem.dropTlb c true 0).scrub (s1.mem.keyedLines keys)
      keys := s1.keys.filter fun e => !keys.contains e.1
      owners := s1.owners.filter fun e => e.2 != c
      launchq := s1.launchq.filter fun q => q.ctx != c
      touched := s1.touched.filter (· != c), victims := s1.victims.filter (· != c)
      heirs := s1.heirs.filter fun e => e.1 != c
      tearing := s1.tearing.filter fun e => e.ctx != c }
    let s3 := ((s2.modCtx c Ctx.tornDown).modCtx 0 fun k => k.charge (dieSite 0) 2 4).houseEvent
    let r : Receipt := { ctx := c, seqFirst := w.first, seqLast := s3.evseq, classes := classes }
    let a := Config.receiptAddress s3.receipts.length
    let s4 := match s3.ctx 0 with
      | some house => s3.devPut house a (receiptBytes (Config.identityKey s3.firmware.digest) r)
      | none => s3
    ({ s4 with receipts := s4.receipts ++ [r] }).post c { hostEvent 8 with data := BitVec.ofNat 128 (a % 2 ^ 64) }

/-- The start of a teardown: STATE 4, every live launch to be aborted, the context gated (R232, steps 1 and 2). -/
def State.beginTeardown (s : State) (k : Ctx) : State :=
  let s1 := s.houseEvent
  let s2 := (s1.launchq.filter fun q => q.ctx == k.num).foldl (fun (s : State) q => s.report k.num q.lrec q.fromHost 2 0 0 0xFFFFFFFF) s1
  let stop (n : Launch) : Launch := { n with abort := some (n.abort.getD (0, 0)) }
  { s2 with launchq := s2.launchq.filter fun q => q.ctx != k.num, tearing := s2.tearing ++ [k.tearingOf s2.evseq] }.modCtx k.num
    fun k =>
      let k1 := ({ k with state := 4 } : Ctx).gateAll
      { k1 with launches := k1.launches.map stop, shares := k1.shares.map Share.cancelRunning }

/-- TEARDOWN (R232): begun once no migration of the context runs, and finished once its launches have ended and it is
quiescent. -/
def execTeardown (c : CtxId) (s : State) : Out :=
  .next <| match s.ctx c with
    | none => s
    | some k =>
      if k.state = 4 then
        (if k.launches.isEmpty && k.gate = 2 && !(k.storesLeft s.mem) && !(k.shares.any Share.engineRuns) && !(k.shares.any Share.completes) then
          s.finishTeardown k ((s.tearing.find? (·.ctx == c)).getD (k.tearingOf s.evseq)) else s)
      else if c = 0 || k.shares.any (·.gated) then s
      else s.beginTeardown k

/-! ### Patrol scrubbing (R95, R203) -/

/-- The controllers of a pseudo-channel's die. -/
def channelSite (ch : Nat) : Nat := 96 + ch / 1024

/-- PATROL_SCRUB (R95): the errors found are corrected, which gives HBM the bytes that the model's memory holds all the while, and
score their pseudo-channels; the work is context 0's. An entry from 4,096 on, n for pseudo-channel n − 4,096, is an error that another
access met and corrected, a placement's, a page walk's or one of the device itself: it scores alike, and the access has its own
charge (07 R203; DESIGN CHOICE, log entry 150). -/
def execPatrolScrub (corrected : List Nat) (s : State) : Out :=
  let found := corrected.filter (· < 4096)
  let met := (corrected.filter fun n => 4096 ≤ n && n < 8192).map (· - 4096)
  let s1 := (found ++ met).foldl (fun (s : State) p => s.addScore (unitOf 2 p) 16) s
  .next (s1.modCtx 0 fun k =>
    (if found.isEmpty && met.isEmpty then [0] else found).foldl (fun (k : Ctx) ch => k.charge (channelSite ch) 2 4) k)

end Sys2Proof.Machine
end

