-- ==== Sys2Proof/Machine/HostIf.lean ====
section
/-! DEFINITION. What reaches the module from outside: handler dispatch, the host's queues, bias and memory, SPDM, links,
peers and the pod, the debug port, the management controller, and contexts created by the house (04 R126, 05 R146, R150,
R159, R160, 02 R72, R75, 16 R438 to R451). -/

namespace Sys2Proof.Machine

/-! ### Handler dispatch (05 R150, 06 R185, 15 R411) -/

/-- A bound queue has a record to dispatch: one that no committed dequeue will take, and none is parked before it. -/
def Ctx.dispatchable (k : Ctx) (q : Queue) : Bool :=
  decide (q.held > k.getNeed .qget q.va 0 []) && !(k.parks.any fun p => p.2.2.2 == BitVec.ofNat 64 q.va && k.parkAct p == some .qget)

/-- QUEUE_DISPATCH (R150): a record of a bound queue becomes a new thread of the binding's launch. -/
def execQueueDispatch (c : CtxId) (desc : Addr) (s : State) : Out :=
  .next <| match s.active c with
    | none => s
    | some k =>
      match k.binds.find? fun b => b.desc == desc && b.bound, k.spareThread with
      | some b, some t =>
        let q := s.queue k desc.toNat
        let runs : List (Nat × Nat × BitVec 8) := [(q.va, 64, kRead ||| kWrite), (q.slot q.head, 16, kRead)]
        if b.running.length ≥ b.maxh || !k.dispatchable q || k.gateShut b.lcl || (k.ln b.ln).isNone
            || s.runsWait k runs || s.runsFull k runs then s
        else
          let v := BitVec.ofNat 128 (s.devWord k (q.slot q.head) 16)
          let x := Thread.fresh t b.ln b.lcl k.born [] b.handler
          let s1 := s.queueSet k q ((q.head + 1) % 2 ^ 64) q.tail
          let s2 := (s.countRuns k (k.phys b.lcl) runs s1).modCtx c fun k =>
            ({ k with threads := k.threads ++ [x], born := k.born + 1
                      binds := updFirst (· == b) (fun b => { b with running := b.running ++ [t] }) k.binds } : Ctx).enter
              (outsideToken t 0 b.handler 0 v) .outside false
          { s2 with mem := s2.mem.acquire (k.phys b.lcl) 1 q.scope }
      | _, _ => s

/-! ### The host's queues (05 R159, R160) -/

/-- HOST_DOORBELL (R159, R439): the host has advanced CMDPROD and rings. -/
def execHostDoorbell (c : CtxId) (prod : BitVec 32) (s : State) : Out :=
  .next ((s.modCtx c fun k => { k with cmdprod := prod }).barWrite (doorbellAt c) 0)

/-- A host command is consumed: refused with BAD-LAUNCH where its record breaks a rule of R133, or entered into its launch queue once
that has room; its admission checks it again, as things stand then (log entry 104). -/
def State.consume (s : State) (k : Ctx) (r : LaunchRec) : State :=
  let next (k : Ctx) : Ctx := { k with cmdcons := k.cmdcons + 1 }
  if s.devWaits k r.kimg.toNat 64 false || s.doneWaits k r then s
  else match s.launchBad k r with
  | some d => (s.report k.num r true 3 0x15 d 0xFFFFFFFF).modCtx k.num next
  | none =>
    let die := k.dieOf 0
    if s.queued die r.prio.toNat ≥ 1024 then s
    else
      let q : QRec := { die := die, prio := r.prio.toNat, ctx := k.num, lrec := r, fromHost := true, stamp := s.tick }
      ({ s with launchq := s.launchq ++ [q] } : State).modCtx k.num next

/-- HOST_COMMAND (R160): the next command in sequence; a wrong SEQ is reported, and the ring is left until the next
doorbell. -/
def execHostCommand (c : CtxId) (s : State) : Out :=
  .next <| match s.ctx c with
    | none => s
    | some k =>
      let n := k.cmdcons + 1
      let va := k.desc.cmdBase + n.toNat % 2 ^ k.desc.cmdLog2 * 64
      if !k.doorbell || k.cmdcons = k.cmdprod || k.state = 4 || s.devWaits k va 64 false then s
      else
        let r : LaunchRec := { launchRecOf (leBytes 64 (s.devWord k va 64)) with parent := 0xFFFFFFFF }
        if r.seq != n then
          (s.post c { hostEvent 4 with cmdseq := r.seq }).modCtx c fun k => { k with doorbell := false }
        else (s.consume k r).devSpend k va 64 false

/-- HOST_EVENT_WRITE (R160): the host's EVCONS as it stands, and the oldest waiting event where there is room. -/
def execHostEventWrite (c : CtxId) (cons : BitVec 32) (s : State) : Out :=
  .next <| match (s.modCtx c fun k => { k with evcons := cons }).ctx c with
    | none => s
    | some k =>
      let s1 := s.setCtx k
      match k.events with
      | [] => s1
      | e :: rest => if k.eventRoom then (s1.writeEvent k e).modCtx c fun k => { k with events := rest } else s1

/-! ### Bias and host memory (16 R438 to R444) -/

/-- A page lies in the range exposed to the host. -/
def State.exposed (s : State) (page : Nat) : Bool := inRange s.hdm page

/-- Every L1 copy of a page's lines is given up; dirty SC bytes are cleaned (R442, step 2). -/
def Mems.recallBias (m : Mems) (page : Nat) : Mems := m.recallPage (page * 4096, 4096)

/-- The lines of a page. -/
def pageLines (page : Nat) : List Nat := (List.range 64).map fun i => page * 64 + i

/-- Every line of a page that the host holds is back-invalidated, with the dirty data it returns. -/
def State.backInvalidate (s : State) (page : Nat) (hostData : List (Nat × List Byte)) : State :=
  ((pageLines page).filter fun l => (s.mem.dirOf l).host).foldl (fun (s : State) l =>
    s.hostReturns l ((hostData.find? fun e => e.1 = l).map (·.2))) s

/-- The bias bit of a page is written, COUNT increments, and the page is released. -/
def State.setBias (s : State) (page : Nat) (toHost : Bool) : State :=
  let bs := s.mem.bias.filter (· != page)
  { s with biascnt := s.biascnt + 1
           mem := { s.mem with bias := if toHost then bs ++ [page] else bs, locked := s.mem.locked.filter (· != page) } }

def State.biasReq (s : State) (byHouse : Bool) : BiasReq := if byHouse then s.sysBias else s.hostBias
def State.setBiasReq (s : State) (byHouse : Bool) (r : BiasReq) : State :=
  if byHouse then { s with sysBias := r } else { s with hostBias := r }

/-- A bias request ends with a result. -/
def State.endBias (s : State) (byHouse : Bool) (result : BitVec 2) : State :=
  s.setBiasReq byHouse { s.biasReq byHouse with busy := false, result := result, locks := false }

/-- The other requester's GO for the same page came first (R444). -/
def State.biasWaits (s : State) (byHouse : Bool) : Bool :=
  let mine := s.biasReq byHouse
  let his := s.biasReq (!byHouse)
  his.busy && his.goPage == mine.goPage && decide (his.since < mine.since)

/-- A step of a bias request: refused, done already, the lock, or steps 2 to 4 by `change` (R442 to R444). -/
def State.biasStep (s : State) (byHouse toHost : Bool) (page : BitVec 40) (change : State → State) : State :=
  let r := s.biasReq byHouse
  let p := page.toNat
  if !r.busy || r.goTo != toHost || r.goPage != page || s.biasWaits byHouse then s
  else if !s.exposed p then s.endBias byHouse 2
  else if r.locks && s.mem.locked.contains p then ((change s).setBias p toHost).endBias byHouse 1
  else if s.mem.bias.contains p == toHost then s.endBias byHouse 1
  else { s with mem := { s.mem with locked := (s.mem.locked.filter (· != p)) ++ [p] } }.setBiasReq byHouse { r with locks := true }

/-- The L1 copies of a page that a recall snoops or writes back. -/
def Mems.copiesOn (m : Mems) (page : Nat) : Nat := (m.l1.filter fun (e : L1Line) => e.kind != .host && e.line / 64 = page).length

/-- A page recalled for the host: its snoops and write-backs are charged to context 0, which serves the host (07 R201; log entry
53). -/
def State.recallFor (s : State) (page : Nat) : State :=
  ({ s with mem := s.mem.recallBias page } : State).modCtx 0 fun k => k.chargeN (homeSite (page * 4096)) 2 6 (s.mem.copiesOn page)

/-- BIAS_TO_HOST (R442): first the lock, then the rest. In device bias the host holds no line, so `hostData` has none. -/
def execBiasToHost (byHouse : Bool) (page : BitVec 40) (_hostData : List (Nat × List Byte)) (s : State) : Out :=
  .next (s.biasStep byHouse true page fun s => s.recallFor page.toNat)

/-- BIAS_TO_DEVICE (R443): first the lock, then the rest. -/
def execBiasToDevice (byHouse : Bool) (page : BitVec 40) (hostData : List (Nat × List Byte)) (s : State) : Out :=
  .next (s.biasStep byHouse false page fun s => s.backInvalidate page.toNat hostData)

/-- A host access to a page in host bias: its bytes, or its write; a cacheable one leaves a copy with the host. -/
def State.hostAccess (s : State) (pa : Nat) (cacheable : Bool) (write : Option (List Byte)) (n : Nat) : State :=
  let s1 := match write with
    | none => { s with hostReply := s.hostReply ++ [(List.range n).map fun i => s.mem.keyed s.hdmKey (pa + i)] }
    | some b => { s with mem := s.mem.homeWrite 0 s.hdmKey pa (b.take n) }
  if cacheable then { s1 with mem := s1.mem.setDir (pa / 64) { s1.mem.dirOf (pa / 64) with host := true, dstate := 2 } } else s1

/-- The host's traffic on the CXL link and its access at the line's home are charged to context 0, which serves it (07 R199; log entry
53). -/
def State.chargeCxl (s : State) (pa : Nat) : State :=
  s.modCtx 0 fun k => (k.charge (dieSite 0) 3 3).charge (homeSite pa) 2 5

/-- HOST_MEMORY_REQUEST (R438, R440): outside the exposed range an error, an empty reply; a page in device bias is first turned, and a
read of a poisoned line then has an error (03 R95). An access is of one line. -/
def execHostMemoryRequest (pa : Nat) (cacheable : Bool) (write : Option (List Byte)) (n : Nat) (s : State) : Out :=
  let page := pa / 4096
  .next <|
    if !s.exposed page || n > 64 || pa % 64 + n > 64 then { s with hostReply := s.hostReply ++ [[]] }
    else if s.mem.locked.contains page then s
    else
      let s1 := (if s.mem.bias.contains page then s else (s.recallFor page).setBias page true).chargeCxl pa
      if s1.mem.poison.contains (pa / 64) && write.isNone then { s1 with hostReply := s1.hostReply ++ [[]] }
      else s1.hostAccess pa cacheable write n

/-- HOST_SNOOP_RESPONSE (R441): the host answers BISnpData, keeping a shared copy, or gives the line up. -/
def execHostSnoopResponse (line : Nat) (dirty : Option (List Byte)) (keepShared : Bool) (s : State) : Out :=
  .next <|
    if !(s.mem.dirOf line).host then s
    else
      let s1 := s.hostReturns line dirty
      if keepShared then { s1 with mem := s1.mem.setDir line { s1.mem.dirOf line with host := true, dstate := 1 } } else s1

/-- HOST_CACHE_SNOOP (R97): the host, home of its own lines, takes back or downgrades the L1 copies of one. -/
def execHostCacheSnoop (line : Nat) (invalidate : Bool) (s : State) : Out :=
  let down (e : L1Line) : L1Line := if e.kind == LineKind.host && e.line == line then { e with st := .s } else e
  .next { s with mem := if invalidate then s.mem.hostDrop line none else { s.mem with l1 := s.mem.l1.map down } }

/-! ### SPDM (16 R445, R446) -/

/-- A measurement block. -/
def State.measurement (s : State) (index : Nat) : BitVec 256 :=
  match index with
  | 2 => s.firmware.digest
  | 5 => digestOf (s.flash.records.flatMap Retired.bytes)
  | 6 => match s.hdm with
    | some (a, n, key) => Config.rangeMeasurement a n key s.tspLock
    | none => Config.rangeMeasurement 0 0 0 s.tspLock
  | i => Config.fixedMeasurement i

/-- What an SPDM request asks for, by its code in SPDM 1.3: the digest or the contents of the certificate chain of a slot, a
challenge over that chain, a measurement, or something else (PRESUMED, log entry 70). -/
inductive SpdmAsk where
  | chain | challenge | measurements | other
  deriving DecidableEq, Repr, Inhabited

def spdmAsk (req : BitVec 8) : SpdmAsk :=
  match req.toNat with
  | 0x81 | 0x82 => .chain
  | 0x83 => .challenge
  | 0xE0 => .measurements
  | _ => .other

/-- An answer, signed under the identity key or not. -/
def State.spdmSay (s : State) (req : BitVec 8) (nonce d : BitVec 256) (signed : Bool) : State :=
  let key := Config.identityKey s.firmware.digest
  { s with spdm := some { busy := false, digest := d, sig := if signed then Config.spdmSign key req d nonce else 0 } }

/-- SPDM_REQUEST (R445): Busy before step 9. Then the certificate chain of slot 0, the only slot with one, is answered, or signed for a
challenge, and a measurement block, of the six of R446, is answered signed; an index or a slot that does not exist is not answered. Of
any other request the answer's contents are free. -/
def execSpdmRequest (req index : BitVec 8) (nonce : BitVec 256) (s : State) : Out :=
  let chain := Config.certChain (Config.identityKey s.firmware.digest)
  .next <|
    if s.start.step.toNat < 9 then { s with spdm := some { busy := true, digest := 0, sig := 0 } }
    else match spdmAsk req with
      | .chain => if index = 0 then s.spdmSay req nonce chain false else s
      | .challenge => if index = 0 then s.spdmSay req nonce chain true else s
      | .measurements => if index = 0 || index.toNat > 6 then s else s.spdmSay req nonce (s.measurement index.toNat) true
      | .other => s.spdmSay req nonce (Config.spdmAnswer req index) false

/-! ### Links, peers and the pod (04 R126, 05 R146, 16 R447 to R450) -/

/-- A reply to a peer. -/
def State.answer (s : State) (code : BitVec 8) (detail : BitVec 24) (b : List Byte) : State :=
  { s with peerReply := s.peerReply ++ [{ code := code, detail := detail, bytes := b }] }

/-- The pieces of a peer's access, translated and allowed under its context. -/
def State.peerPieces (s : State) (k : Ctx) (va n : Nat) (need : Need) : Except Fail (List Piece) :=
  match pieces s.mem k k.devSite va n with
  | .error e => .error e
  | .ok ps => match allAllowed s.keys ps need with
    | some e => .error e
    | none => if ps.all fun p => p.tr.place == .hbm then .ok ps else .error (protFail 5)

/-- A store by a peer: performed at the home slice, which gives up its own L1 copies. -/
def State.peerStore (s : State) (k : Ctx) (ps : List Piece) (b : List Byte) : State :=
  let m := ps.foldl (fun (m : Mems) p => m.hcRecall (p.tr.pa / 64)) s.mem
  ((({ s.engineSpend k.num (k.phys 0) true ps with mem := m } : State).storePieces k.num .home true ps b).logAccess k.num ps
    kWrite).answer 0 0 []

/-- An atomic or reduction of a peer, performed at the home slice; one that stores nothing is counted as a read only (R97, R361). -/
def State.peerRmw (s : State) (k : Ctx) (va n : Nat) (new : Nat → Option Nat) : State :=
  match s.peerPieces k va n .rdw with
  | .error e => s.answer 0x07 e.detail []
  | .ok ps =>
    let old := ps.flatMap fun p => (List.range p.n).map fun i => s.mem.keyed p.tr.key (p.tr.pa + i)
    let kinds := if (new (leNat old)).isSome then kRead ||| kWrite else kRead
    if va % n != 0 then s.answer 0x08 (BitVec.ofNat 24 n.log2) []
    else if s.logFull k.num ps kinds || ps.any (fun p => pieceWaits s.mem k p true) then s
    else if ps.any (piecePoison s.mem) then s.answer 0x0F 0 []
    else
      let m := ps.foldl (fun (m : Mems) p => m.hcRecall (p.tr.pa / 64)) s.mem
      let s0 := s.engineSpend k.num (k.phys 0) (new (leNat old)).isSome ps
      let s1 := match new (leNat old) with
        | none => { s0 with mem := s.mem.peek ps }
        | some v => ({ s0 with mem := m } : State).storePieces k.num .home true ps (leBytes n v)
      (s1.logAccess k.num ps kinds).answer 0 0 old

/-- A peer's traffic is charged, on the die of its link, to the context it acts under (07 R199). -/
def State.chargePeer (s : State) (peer : BitVec 8) (c : CtxId) : State :=
  let link := ((s.links.find? fun e => e.2.pv && e.2.peer == peer).map (·.1)).getD 0
  s.modCtx c fun k => k.charge (96 + link / 4) 3 2

/-- The house has bound a context of this module and a peer module to each other (R449; DEDUCED, log entry 151). -/
def State.bindsPeer (s : State) (peer : BitVec 8) (c : CtxId) : Bool :=
  s.mem.peerBinds.any fun b => b.1 = c.toNat && b.2.1 = peer.toNat

/-- PEER_REQUEST (R449, R97): an access from a peer module under the context its binding names; without one it is refused, and
failures are returned, as PROTECTION. -/
def execPeerRequest (peer : BitVec 8) (c : CtxId) (req : PeerReq) (s0 : State) : Out :=
  let s := s0.chargePeer peer c
  .next <| match s.ctx c with
    | none => s.answer 0x07 (protFail 5).detail []
    | some k =>
      let failed (e : Fail) : State := s.answer 0x07 e.detail []
      if !s.bindsPeer peer c then failed (protFail 5)
      else match req with
      | .load va n => match s.peerPieces k va.toNat n .rd with
        | .error e => failed e
        | .ok ps => if s.logFull c ps kRead || ps.any (fun p => pieceWaits s.mem k p false) then s
            else if ps.any (piecePoison s.mem) then s.answer 0x0F 0 []
            else (({ s.engineSpend c (k.phys 0) false ps with mem := s.mem.peek ps } : State).logAccess c ps kRead).answer 0 0 (ps.flatMap fun (p : Piece) => (List.range p.n).map fun i => s.mem.keyed p.tr.key (p.tr.pa + i))
      | .store va b => match s.peerPieces k va.toNat b.length .w with
        | .error e => failed e
        | .ok ps => if s.logFull c ps kWrite || ps.any (fun p => pieceWaits s.mem k p true) then s else s.peerStore k ps b
      | .rmw va n op b c => s.peerRmw k va.toNat n fun old => atomNew op (8 * n) old (b.toNat % 2 ^ (8 * n)) (c.toNat % 2 ^ (8 * n))
      | .redFadd va b => s.peerRmw k va.toNat 4 fun old => some (redFadd old b.toNat)

/-- LINK_WIDTH_CHANGE (R448): a link takes the width its lanes in service and the house's request allow. -/
def execLinkWidthChange (link : Nat) (lanes : BitVec 4) (s : State) : Out :=
  .next <|
    if link ≥ 16 || !(s.link link).pv || lanes.toNat != s.laneWidth link then s
    else ({ s with links := tset s.links link { s.link link with lanes := lanes } } : State).setReach

/-- LINK_CORRECTED_ERROR (07 R203): the link, and the lane when one is named. -/
def execLinkCorrectedError (link : Nat) (lane : Option Nat) (s : State) : Out :=
  .next <|
    if link ≥ 16 then s
    else
      let s1 := s.addScore (unitOf 1 link) 16
      match lane with
      | some n => if n < 8 then s1.addScore (unitOf 3 (link * 8 + n)) 16 else s1
      | none => s1

/-- FAR_MODULE_CONNECT (R450): a far module connects to a link with lanes in service, or disconnects. -/
def execFarModuleConnect (link : Nat) (peer : Option (BitVec 8)) (lanes : BitVec 4) (s : State) : Out :=
  let l := s.link link
  .next <|
    if link ≥ 16 then s
    else match peer with
      | none => ({ s with links := tset s.links link { l with pv := false, lanes := 0 } } : State).setReach
      | some p =>
        if !widthOk lanes then s
        else
          let l1 := { l with pv := true, peer := p, lanes := BitVec.ofNat 4 (min lanes.toNat (s.laneWidth link)) }
          ({ s with links := tset s.links link l1 } : State).setReach

/-- The free domains of the module, in units of 1/255 of its 1,536. -/
def State.freeDomains (s : State) : Nat := ((List.range 1536).filter fun d => (tget s.owners d).isNone && !s.barred (d / 16)).length

/-- The fields of a steal request. -/
def stealThief (r : BitVec 32) : BitVec 8 := r.extractLsb' 24 8
def stealCtx (r : BitVec 32) : CtxId := r.extractLsb' 12 12
def stealReq (thief : BitVec 8) (c : CtxId) (n : BitVec 12) : BitVec 32 := thief ++ c ++ n

/-- The outermost level of a launch has kind pod. -/
def LaunchRec.isPod (r : LaunchRec) : Bool := lvKind ((r.levels[0]?).getD 0) = 6

/-- A waiting record of a context's pod-level launch, and the launch with unsplit range intervals. -/
def State.stealRec (s : State) (c : CtxId) : Option QRec := s.launchq.find? fun q => q.ctx == c && q.lrec.isPod
def Ctx.stealRange (k : Ctx) : Option Launch := k.launches.find? fun n => n.lrec.isPod && n.isRange && n.ivals.any fun p => ivalLen p != 0

/-- This module has work for a request of another. -/
def State.canAnswer (s : State) (r : BitVec 32) : Bool :=
  r != 0 && stealThief r != s.modnum && ((s.stealRec (stealCtx r)).isSome || ((s.ctx (stealCtx r)).bind Ctx.stealRange).isSome)

/-- The requests this module attaches: those STEAL handed over, then one of its own where it is idle enough. -/
def State.ownRequests (s : State) : List (CtxId × BitVec 12) :=
  let asked := s.ctxs.filterMap fun k => k.steal.map fun n => (k.num, n)
  let idle := if s.freeDomains * 4 > 1536 && s.launchq.isEmpty then
      ((s.ctxs.find? fun k => k.desc.podLaunches && decide (k.state.toNat ≤ 1) && k.steal.isNone).map fun k =>
        (k.num, BitVec.ofNat 12 s.freeDomains)).toList
    else []
  asked ++ idle

/-- Requests put into free entries, as far as there are any: the entries, and the contexts whose request went in. -/
def attachAll (me : BitVec 8) : List (BitVec 32) → List (CtxId × BitVec 12) → List (BitVec 32) × List CtxId
  | [], _ => ([], [])
  | r :: rest, [] => let q := attachAll me rest []; (r :: q.1, q.2)
  | r :: rest, w :: ws =>
    if r = 0 then let q := attachAll me rest ws; (stealReq me w.1 w.2 :: q.1, w.1 :: q.2)
    else let q := attachAll me rest (w :: ws); (r :: q.1, q.2)

/-- GONDOLA_VISIT (R146): the gondola as it arrives; requests are answered, removed after a full circle, and attached. -/
def execGondolaVisit (g : GondolaTok) (s : State) : Out :=
  let req := (List.range 8).map fun i => g.req.getD i 0
  let taken := req.filter s.canAnswer
  let left := req.map fun r => if s.canAnswer r || stealThief r == s.modnum then 0 else r
  let (full, sent) := attachAll s.modnum left s.ownRequests
  let load := (List.range 256).map fun i => if i = s.modnum.toNat then BitVec.ofNat 8 (s.freeDomains * 255 / 1536) else g.load.getD i 0
  let drop (k : Ctx) : Ctx := if sent.contains k.num then { k with steal := none } else k
  .next { s with
    gondola := { seq := if s.modnum = 0 then g.seq + 1 else g.seq, load := load, req := full }
    taken := s.taken ++ taken
    ctxs := s.ctxs.map drop }

/-- The work moved to a thief: a whole waiting record, whose parent, if it is not detached, goes on waiting for it, or half of the
largest interval, whose iterations stay to be reported (01 R42, R44). -/
def State.giveWork (s : State) (c : CtxId) : State :=
  match s.stealRec c with
  | some q =>
    let s1 := { s with launchq := dropFirst (· == q) s.launchq }
    if isQueuedChild c q.lrec.parent q then
      s1.modCtx c fun k => k.modLn q.lrec.parent fun n => { n with away := n.away + 1 }
    else s1
  | none => s.modCtx c fun k => match k.stealRange with
    | none => k
    | some n => match n.richest with
      | none => k
      | some o =>
        let p := n.ival o
        let mid := if ivalLen p = 1 then p.1 else p.1 + ivalLen p / 2
        k.modLn n.num fun n => { n with ivals := setAt n.ivals o (p.1, mid), handed := n.handed + (p.2 - mid) }

/-- Iterations that arrive go to the lowest logical cluster of their launch that has none left. -/
def Launch.receive (n : Launch) (lo hi : Nat) : Launch :=
  match (List.range n.ivals.length).find? fun l => ivalLen (n.ival l) = 0 with
  | some l => { n with ivals := setAt n.ivals l (lo, hi), taken := n.taken + (hi - lo) }
  | none => n

/-- Work that arrives finds no place yet: the launch queue of its priority is full, or no logical cluster of its launch has used up
its interval (05 R132). -/
def State.noPlaceFor (s : State) (k : Ctx) (w : Stolen) : Bool :=
  match w with
  | .record b => decide (s.queued (k.dieOf 0) (min 15 (launchRecOf (b.take 64)).prio.toNat) ≥ 1024)
  | .interval ln _ _ => (k.ln ln).any fun n => n.isRange && n.lrec.isPod && n.ivals.all fun p => ivalLen p != 0
  | .nothing | .done _ _ | .ended _ => false

/-- Work that arrives from another module, once the thief's acquire at system scope is done: a record joins the launch queue of
its priority, on the die of logical cluster 0, with no parent on this module; an interval joins its launch (R146; DESIGN CHOICE of
the place, log entry 69). -/
def State.takeWork (s : State) (k : Ctx) (w : Stolen) : State :=
  let s1 := { s with mem := k.physSet.foldl (fun m p => m.acquire p 1 3) s.mem }
  match w with
  | .record b =>
    let r : LaunchRec := { launchRecOf (b.take 64) with parent := 0xFFFFFFFF }
    { s1 with launchq := s1.launchq ++
        [{ die := k.dieOf 0, prio := min 15 r.prio.toNat, ctx := k.num, lrec := r, fromHost := false, stamp := s1.tick }] }
  | .interval ln lo hi => s1.setCtx (k.modLn ln fun n => if n.isRange && n.lrec.isPod then n.receive lo hi else n)
  | .nothing | .done _ _ | .ended _ => s1

/-- A committed operation that a handshake waits for: every store, and whatever else is still to be performed (R126). -/
def Ctx.openStores (k : Ctx) (m : Mems) : Bool := k.committed.any fun e => e.isStore || k.leftToDo m e

/-- STEAL_HANDSHAKE (R126): on the thief, the acquire, and the work arrives once it finds a place. On the victim, once every committed store of the
context is performed, its SC bytes are cleaned and the work moves; later the thief tells which stolen iterations are done and which
stolen child has ended. -/
def execStealHandshake (c : CtxId) (thief : BitVec 8) (work : Stolen) (s : State) : Out :=
  .next <| match s.ctx c with
    | none => s
    | some k =>
      if thief = s.modnum then (if s.noPlaceFor k work then s else s.takeWork k work)
      else match work with
        | .done ln n => s.setCtx (k.modLn ln fun l => { l with doneIter := l.doneIter + n })
        | .ended ln => s.setCtx (k.modLn ln fun l => { l with away := l.away - 1 })
        | .nothing | .record _ | .interval _ _ _ =>
          match s.taken.find? fun r => stealThief r == thief && stealCtx r == c with
          | none => s
          | some r =>
            if k.openStores s.mem then s
            else ({ s with taken := dropFirst (· == r) s.taken, mem := k.physSet.foldl Mems.scClean s.mem } : State).giveWork c

/-- CXL_LINK_TRAINING (R438): a width of 16, 8 or 4 lanes and a rate of 128, 64 or 32 GT/s. -/
def execCxlLinkTraining (up : Bool) (lanes rate : Nat) (s : State) : Out :=
  .next <| if !up then { s with cxl := (false, 0, 0) }
    else if [16, 8, 4].contains lanes && [128, 64, 32].contains rate then { s with cxl := (true, lanes, rate) } else s

/-! ### Registers, debug port and management controller -/

/-- SPINEFREQ_WRITE (02 R72). -/
def execSpinefreqWrite (die spine : Nat) (code : BitVec 7) (s : State) : Out :=
  .next (if die < 4 && spine < 7 then s.writeSpineFreq die spine code else s)

/-- SPSEL_WRITE (16 R454). -/
def execSpselWrite (clu dom : Nat) (spine : BitVec 3) (s : State) : Out :=
  .next (if clu < Config.clusters && dom < 16 then s.writeSpsel clu dom spine else s)

/-- REGISTER_WRITE (00 R4). -/
def execRegisterWrite (r : WReg) (v : BitVec 64) (s : State) : Out := .next (s.writeReg r v)

/-- DBG_HALT (02 R75). -/
def execDbgHalt (s : State) : Out := .next (if s.dbg.en then s.halt else s)

/-- DBG_RESUME (02 R75). -/
def execDbgResume (s : State) : Out := .next (if s.dbg.halt || s.dbg.halted then s.unhalt else s)

/-- DBG_STEP (02 R75). -/
def execDbgStep (s : State) : Out := .next (if s.dbg.en then s.stepOne else s)

/-- FIRMWARE_UPDATE (R451): a signed image of no older security version is staged for the next cold start. -/
def execFirmwareUpdate (img : FirmwareImage) (s : State) : Out :=
  .next (if img.signed && decide (s.flash.version ≤ img.version) then { s with staged := some img } else s)

/-- What the management controller reports out of band (R451): the energy weights of R200, class by class for the events that the
model names, the leases that have ended and the retirement records. -/
structure ControllerReport where
  weights : List (List Nat)
  leases : List LeaseReport
  retired : List Retired
  deriving DecidableEq, Repr, Inhabited

def State.controllerReport (s : State) : ControllerReport :=
  { weights := (List.range 5).map fun cls => (List.range 9).map (Config.energyWeight cls)
    leases := s.leaseHistory, retired := s.flash.records }

/-- ORDERLY_POWER_DOWN (07 R204): every score is copied to flash. -/
def execOrderlyPowerDown (s : State) : Out := .next (s.scores.foldl (fun (s : State) e => s.flashScore e.1) s)

/-! ### Context creation (01 R12, 02 R69, 07 R205) -/

/-- A descriptor the house may write: 1 to 128 logical clusters, each on a granted cluster, a share of 1 to 1,536, rings of
2^4 to 2^16 entries. -/
def descrValid (d : CtxDescr) : Bool :=
  1 ≤ d.lcount && d.lcount ≤ 128 && d.phys.length = d.lcount && d.phys.all (fun p => p < Config.clusters && d.granted.contains p)
    && 1 ≤ d.share && d.share ≤ 1536 && 4 ≤ d.cmdLog2 && d.cmdLog2 ≤ 16 && 4 ≤ d.evLog2 && d.evLog2 ≤ 16

/-- The quotas of every die's priority queue stay within its 65,536 entries (05 R132, R143). -/
def State.quotaFits (s : State) (c : CtxId) (d : CtxDescr) : Bool :=
  (List.range Config.dies).all fun die =>
    decide (((s.ctxs.filter fun k => k.num != c).foldl (fun n k => n + k.desc.pqQuota.getD die 0) (d.pqQuota.getD die 0)) ≤ 65536)

/-- CONTEXT_CREATION (R205). -/
def execContextCreation (c : CtxId) (d : CtxDescr) (s : State) : Out :=
  let k := (Ctx.fresh c d).setMap d.phys
  .next <| match s.ctx c with
    | some old => if old.state = 0 && old.launches.isEmpty && descrValid d && s.quotaFits c d then (s.setCtx k).houseEvent else s
    | none => if descrValid d && s.quotaFits c d then ({ s with ctxs := s.ctxs ++ [k] } : State).houseEvent else s

end Sys2Proof.Machine
end

