-- ==== Sys2Proof/Machine/Integer.lean ====
section
/-! DEFINITION. The integer and address instructions (11 R304 to R315): what each computes, and its firing. -/

namespace Sys2Proof.Machine

/-! ### What the integer group computes -/

/-- Exact signed arithmetic narrowed to 64 bits. -/
def ofExact (x : Int) : BitVec 64 := BitVec.ofInt 64 x

def intMulh (a b : BitVec 64) : BitVec 64 := BitVec.ofInt 64 (a.toInt * b.toInt / 2 ^ 64)
def intMulhn (a b : BitVec 64) : BitVec 64 := BitVec.ofNat 64 (a.toNat * b.toNat / 2 ^ 64)

/-- Signed quotient and remainder (R307): truncation toward zero, with the two corners. -/
def intDiv (a b : BitVec 64) : BitVec 64 :=
  if b = 0 then BitVec.allOnes 64 else ofExact (a.toInt.tdiv b.toInt)
def intRem (a b : BitVec 64) : BitVec 64 := if b = 0 then a else ofExact (a.toInt.tmod b.toInt)
def intDivn (a b : BitVec 64) : BitVec 64 :=
  if b = 0 then BitVec.allOnes 64 else BitVec.ofNat 64 (a.toNat / b.toNat)
def intRemn (a b : BitVec 64) : BitVec 64 := if b = 0 then a else BitVec.ofNat 64 (a.toNat % b.toNat)

def intAbs (a : BitVec 64) : BitVec 64 := if a.toInt < 0 then 0 - a else a
def intMin (a b : BitVec 64) : BitVec 64 := if b.toInt < a.toInt then b else a
def intMax (a b : BitVec 64) : BitVec 64 := if a.toInt < b.toInt then b else a
def intMinn (a b : BitVec 64) : BitVec 64 := if b.toNat < a.toNat then b else a
def intMaxn (a b : BitVec 64) : BitVec 64 := if a.toNat < b.toNat then b else a

/-- Clamps an exact value to the signed range of 64 bits (R308). -/
def satSigned (x : Int) : BitVec 64 := ofExact (max (-(2 ^ 63)) (min (2 ^ 63 - 1) x))
def intAddsat (a b : BitVec 64) : BitVec 64 := satSigned (a.toInt + b.toInt)
def intSubsat (a b : BitVec 64) : BitVec 64 := satSigned (a.toInt - b.toInt)
def intClamp (a b c : BitVec 64) : BitVec 64 := intMin (intMax a b) c

/-- Shifts by the whole of bits 63:0 (R310). -/
def intShl (a n : BitVec 64) : BitVec 64 := if n.toNat ≥ 64 then 0 else a <<< n.toNat
def intShr (a n : BitVec 64) : BitVec 64 := if n.toNat ≥ 64 then 0 else a >>> n.toNat
def intSra (a n : BitVec 64) : BitVec 64 :=
  if n.toNat ≥ 64 then (if a.getLsbD 63 then BitVec.allOnes 64 else 0) else a.sshiftRight n.toNat
def intRot (a n : BitVec 64) : BitVec 64 :=
  let k := n.toNat % 64
  if k = 0 then a else (a <<< k) ||| (a >>> (64 - k))

/-- Counts the zero bits below bit n, going down while they are zero. -/
def zerosDown (a : BitVec 64) : Nat → Nat
  | 0 => 0
  | n + 1 => if a.getLsbD n then 0 else 1 + zerosDown a n
def zerosUp (a : BitVec 64) : Nat → Nat
  | 0 => 0
  | n + 1 => if a.getLsbD (63 - n) then 0 else 1 + zerosUp a n
def onesBelow (a : BitVec 64) : Nat → Nat
  | 0 => 0
  | n + 1 => (if a.getLsbD n then 1 else 0) + onesBelow a n

def intClz (a : BitVec 64) : BitVec 64 := BitVec.ofNat 64 (zerosDown a 64)
def intCtz (a : BitVec 64) : BitVec 64 := BitVec.ofNat 64 (zerosUp a 64)
def intPopc (a : BitVec 64) : BitVec 64 := BitVec.ofNat 64 (onesBelow a 64)
def intBrev (a : BitVec 64) : BitVec 64 := a.reverse

/-- Position and length of a bit-field control word (R312). -/
def bfPos (b : BitVec 64) : Nat := (b.extractLsb' 0 6).toNat
def bfLen (b : BitVec 64) : Nat := min (b.extractLsb' 8 7).toNat (64 - bfPos b)

/-- The low n bits set. -/
def lowOnes (n : Nat) : BitVec 64 := BitVec.ofNat 64 (2 ^ n - 1)

def intBfx (a b : BitVec 64) : BitVec 64 := (a >>> bfPos b) &&& lowOnes (bfLen b)
def intBfi (a b c : BitVec 64) : BitVec 64 :=
  let m := lowOnes (bfLen b) <<< bfPos b
  (c &&& ~~~m) ||| ((a <<< bfPos b) &&& m)

/-- Extensions from a width in B[6:0] (R313). -/
def intZext (a b : BitVec 64) : BitVec 64 :=
  let n := (b.extractLsb' 0 7).toNat
  if n ≥ 64 then a else a &&& lowOnes n
def intSext (a b : BitVec 64) : BitVec 64 :=
  let n := (b.extractLsb' 0 7).toNat
  if n = 0 then 0 else if n ≥ 64 then a
  else if a.getLsbD (n - 1) then a ||| ~~~(lowOnes n) else a &&& lowOnes n

/-- LEA: A + B × 2^k with k the low three bits of IMM16 (R314). -/
def intLea (imm : BitVec 16) (a b : BitVec 64) : BitVec 64 := a + (b <<< (imm.toNat % 8))

/-- CMP's conditions, codes 0 to 9 of side word [27:24] (R315). -/
def intCond (code : Nat) (a b : BitVec 64) : Bool :=
  match code with
  | 0 => a == b
  | 1 => a != b
  | 2 => decide (a.toInt < b.toInt)
  | 3 => decide (a.toInt ≤ b.toInt)
  | 4 => decide (b.toInt < a.toInt)
  | 5 => decide (b.toInt ≤ a.toInt)
  | 6 => decide (a.toNat < b.toNat)
  | 7 => decide (a.toNat ≤ b.toNat)
  | 8 => decide (b.toNat < a.toNat)
  | 9 => decide (b.toNat ≤ a.toNat)
  | _ => false

/-- The condition field of CMP and VCMP: RM and SAT's bits together. -/
def condOf (g : FormG) : Nat := g.rm.toNat * 2 + g.sat.toNat

/-! ### The shapes of the group (R304) -/

/-- One operand, one 64-bit result. -/
def intOne (t : Tmpl) (g : FormG) (op : BitVec 64 → BitVec 64) (s : State) : Out :=
  .next (s.fire t none false (litG g) fun f => f.result (scalar (op (lo64 f.q.a))))

/-- Two operands, one 64-bit result. -/
def intTwo (t : Tmpl) (g : FormG) (op : BitVec 64 → BitVec 64 → BitVec 64) (s : State) : Out :=
  .next (s.fire t none true (litG g) fun f => f.result (scalar (op (lo64 f.q.a) (lo64 f.q.b))))

/-- Three operands, one 64-bit result. -/
def intThree (t : Tmpl) (g : FormG) (xa : XArg) (op : BitVec 64 → BitVec 64 → BitVec 64 → BitVec 64)
    (s : State) : Out :=
  .next (s.fire t (some xa) true (litG g) fun f =>
    f.result (scalar (op (lo64 f.q.a) (lo64 f.q.b) (lo64 f.q.c))))

/-- Two operands, all 128 bits (R309). -/
def bitTwo (t : Tmpl) (g : FormG) (op : Value → Value → Value) (s : State) : Out :=
  .next (s.fire t none true (litG g) fun f => f.result (op f.q.a f.q.b))

/-! ### The instructions -/
/-- R305. -/
def execAdd (t : Tmpl) (g : FormG) (s : State) : Out := intTwo t g (· + ·) s
/-- R305. -/
def execSub (t : Tmpl) (g : FormG) (s : State) : Out := intTwo t g (· - ·) s
/-- R306. -/
def execMul (t : Tmpl) (g : FormG) (s : State) : Out := intTwo t g (· * ·) s
/-- R306. -/
def execMulh (t : Tmpl) (g : FormG) (s : State) : Out := intTwo t g intMulh s
/-- R306. -/
def execMulhn (t : Tmpl) (g : FormG) (s : State) : Out := intTwo t g intMulhn s
/-- R307. -/
def execDiv (t : Tmpl) (g : FormG) (s : State) : Out := intTwo t g intDiv s
/-- R307. -/
def execDivn (t : Tmpl) (g : FormG) (s : State) : Out := intTwo t g intDivn s
/-- R307. -/
def execRem (t : Tmpl) (g : FormG) (s : State) : Out := intTwo t g intRem s
/-- R307. -/
def execRemn (t : Tmpl) (g : FormG) (s : State) : Out := intTwo t g intRemn s
/-- R305. -/
def execMin (t : Tmpl) (g : FormG) (s : State) : Out := intTwo t g intMin s
/-- R305. -/
def execMax (t : Tmpl) (g : FormG) (s : State) : Out := intTwo t g intMax s
/-- R305. -/
def execMinn (t : Tmpl) (g : FormG) (s : State) : Out := intTwo t g intMinn s
/-- R305. -/
def execMaxn (t : Tmpl) (g : FormG) (s : State) : Out := intTwo t g intMaxn s
/-- R308. -/
def execAddsat (t : Tmpl) (g : FormG) (s : State) : Out := intTwo t g intAddsat s
/-- R308. -/
def execSubsat (t : Tmpl) (g : FormG) (s : State) : Out := intTwo t g intSubsat s
/-- R310. -/
def execShl (t : Tmpl) (g : FormG) (s : State) : Out := intTwo t g intShl s
/-- R310. -/
def execShr (t : Tmpl) (g : FormG) (s : State) : Out := intTwo t g intShr s
/-- R310. -/
def execSra (t : Tmpl) (g : FormG) (s : State) : Out := intTwo t g intSra s
/-- R310. -/
def execRot (t : Tmpl) (g : FormG) (s : State) : Out := intTwo t g intRot s
/-- R312. -/
def execBfx (t : Tmpl) (g : FormG) (s : State) : Out := intTwo t g intBfx s
/-- R313. -/
def execSext (t : Tmpl) (g : FormG) (s : State) : Out := intTwo t g intSext s
/-- R313. -/
def execZext (t : Tmpl) (g : FormG) (s : State) : Out := intTwo t g intZext s
/-- R314. -/
def execLea (t : Tmpl) (g : FormG) (s : State) : Out := intTwo t g (intLea g.imm) s
/-- R315. -/
def execCmp (t : Tmpl) (g : FormG) (s : State) : Out := intTwo t g (fun a b => BitVec.ofNat 64 (intCond (condOf g) a b).toNat) s
/-- R308. -/
def execNeg (t : Tmpl) (g : FormG) (s : State) : Out := intOne t g (0 - ·) s
/-- R308. -/
def execAbs (t : Tmpl) (g : FormG) (s : State) : Out := intOne t g intAbs s
/-- R311. -/
def execClz (t : Tmpl) (g : FormG) (s : State) : Out := intOne t g intClz s
/-- R311. -/
def execCtz (t : Tmpl) (g : FormG) (s : State) : Out := intOne t g intCtz s
/-- R311. -/
def execPopc (t : Tmpl) (g : FormG) (s : State) : Out := intOne t g intPopc s
/-- R311. -/
def execBrev (t : Tmpl) (g : FormG) (s : State) : Out := intOne t g intBrev s
/-- R306. -/
def execMad (t : Tmpl) (g : FormG) (xa : XArg) (s : State) : Out := intThree t g xa (fun a b c => a * b + c) s
/-- R308. -/
def execClamp (t : Tmpl) (g : FormG) (xa : XArg) (s : State) : Out := intThree t g xa intClamp s
/-- R312. -/
def execBfi (t : Tmpl) (g : FormG) (xa : XArg) (s : State) : Out := intThree t g xa intBfi s
/-- R309. -/
def execAnd (t : Tmpl) (g : FormG) (s : State) : Out := bitTwo t g (· &&& ·) s
/-- R309. -/
def execOr (t : Tmpl) (g : FormG) (s : State) : Out := bitTwo t g (· ||| ·) s
/-- R309. -/
def execXor (t : Tmpl) (g : FormG) (s : State) : Out := bitTwo t g (· ^^^ ·) s
/-- R309. -/
def execAndn (t : Tmpl) (g : FormG) (s : State) : Out := bitTwo t g (fun a b => a &&& ~~~b) s
/-- R309. -/
def execNot (t : Tmpl) (g : FormG) (s : State) : Out :=
  .next (s.fire t none false (litG g) fun f => f.result (~~~f.q.a))

end Sys2Proof.Machine
end

