-- ==== Sys2Proof/Machine/Memory.lean ====
section
/-! DEFINITION. The firing of the instructions on memories (13 R344): each delivers its operation to the store
buffer under its wave's chain. What the operation then does is at MEMORY_ORDER_ENTRY, LOAD_BIND and STORE_PERFORM. -/

namespace Sys2Proof.Machine

/-- LD (R350). -/
def execLd (t : Tmpl) (m : FormM) (s : State) : Out :=
  .next (s.fireM .ld t m none false)

/-- ST (R350). -/
def execSt (t : Tmpl) (m : FormM) (s : State) : Out :=
  .next (s.fireM .st t m none true)

/-- LDC (R352). -/
def execLdc (t : Tmpl) (m : FormM) (s : State) : Out :=
  .next (s.fireM .ldc t m none false)

/-- STF (R354). -/
def execStf (t : Tmpl) (m : FormM) (s : State) : Out :=
  .next (s.fireM .stf t m none true)

/-- LDI (R353). -/
def execLdi (t : Tmpl) (m : FormM) (s : State) : Out :=
  .next (s.fireM .ldi t m none false)

/-- STI (R355). -/
def execSti (t : Tmpl) (m : FormM) (s : State) : Out :=
  .next (s.fireM .sti t m none true)

/-- MNOP (R358). -/
def execMnop (t : Tmpl) (m : FormM) (s : State) : Out :=
  .next (s.fireM .mnop t m none false)

/-- PREF (R359). -/
def execPref (t : Tmpl) (m : FormM) (s : State) : Out :=
  .next (s.fireM .pref t m none false)

/-- ATADD (R361). -/
def execAtadd (t : Tmpl) (m : FormM) (s : State) : Out :=
  .next (s.fireM (.atom .add) t m none true)

/-- ATAND (R361). -/
def execAtand (t : Tmpl) (m : FormM) (s : State) : Out :=
  .next (s.fireM (.atom .and) t m none true)

/-- ATOR (R361). -/
def execAtor (t : Tmpl) (m : FormM) (s : State) : Out :=
  .next (s.fireM (.atom .or) t m none true)

/-- ATXOR (R361). -/
def execAtxor (t : Tmpl) (m : FormM) (s : State) : Out :=
  .next (s.fireM (.atom .xor) t m none true)

/-- ATMIN (R361). -/
def execAtmin (t : Tmpl) (m : FormM) (s : State) : Out :=
  .next (s.fireM (.atom .min) t m none true)

/-- ATMAX (R361). -/
def execAtmax (t : Tmpl) (m : FormM) (s : State) : Out :=
  .next (s.fireM (.atom .max) t m none true)

/-- ATMINN (R361). -/
def execAtminn (t : Tmpl) (m : FormM) (s : State) : Out :=
  .next (s.fireM (.atom .minn) t m none true)

/-- ATMAXN (R361). -/
def execAtmaxn (t : Tmpl) (m : FormM) (s : State) : Out :=
  .next (s.fireM (.atom .maxn) t m none true)

/-- ATXCHG (R361). -/
def execAtxchg (t : Tmpl) (m : FormM) (s : State) : Out :=
  .next (s.fireM (.atom .xchg) t m none true)

/-- ATCAS (R361). -/
def execAtcas (t : Tmpl) (m : FormM) (xa : XArg) (s : State) : Out :=
  .next (s.fireM (.atom .cas) t m (some xa) true)

/-- REDADD (R361). -/
def execRedadd (t : Tmpl) (m : FormM) (s : State) : Out :=
  .next (s.fireM (.red .add) t m none true)

/-- REDMIN (R361). -/
def execRedmin (t : Tmpl) (m : FormM) (s : State) : Out :=
  .next (s.fireM (.red .min) t m none true)

/-- REDMAX (R361). -/
def execRedmax (t : Tmpl) (m : FormM) (s : State) : Out :=
  .next (s.fireM (.red .max) t m none true)

/-- REDFADD (R362). -/
def execRedfadd (t : Tmpl) (m : FormM) (s : State) : Out :=
  .next (s.fireM .redFadd t m none true)

/-- FENCE (R117, R358). -/
def execFence (t : Tmpl) (m : FormM) (s : State) : Out :=
  .next (s.fireM .fence t m none false)

/-- OWN (R364). -/
def execOwn (t : Tmpl) (m : FormM) (s : State) : Out :=
  .next (s.fireM .own t m none false)

/-- FEQ (R356). -/
def execFeq (t : Tmpl) (m : FormM) (s : State) : Out :=
  .next (s.fireM .feq t m none false)

/-- FESET (R357). -/
def execFeset (t : Tmpl) (m : FormM) (s : State) : Out :=
  .next (s.fireM .feset t m none true)

/-- CLEAN (R365). -/
def execClean (t : Tmpl) (m : FormM) (s : State) : Out :=
  .next (s.fireM .clean t m none false)

/-- FLUSH (R365). -/
def execFlush (t : Tmpl) (m : FormM) (s : State) : Out :=
  .next (s.fireM .flush t m none false)

/-- INVL (R365). -/
def execInvl (t : Tmpl) (m : FormM) (s : State) : Out :=
  .next (s.fireM .invl t m none false)

end Sys2Proof.Machine
end

