-- ==== Sys2Proof/Machine/Vector.lean ====
section
/-! DEFINITION. The vector and floating instructions (12): lanes and masks, what each instruction computes on
an element, the block-format steps and the ordered reduction node VRED. -/

namespace Sys2Proof.Machine

/-! ### Lanes (R319) -/

/-- Element i of a value at a width. -/
def elem (v : Value) (w i : Nat) : Nat := v.toNat / 2 ^ (w * i) % 2 ^ w

/-- Element i lies wholly in masked lanes. -/
def maskedElem (w i : Nat) (lmask : BitVec 4) : Bool :=
  lmask.getLsbD (w * i / 32) && lmask.getLsbD ((w * i + w - 1) / 32)

/-- A value with its masked 32-bit lanes replaced by those of A. -/
def overLanes (lmask : BitVec 4) (a r : Value) : Value :=
  BitVec.ofNat 128 ((List.range 4).foldl (fun n j => n + (if lmask.getLsbD j then elem a 32 j else elem r 32 j) * 2 ^ (32 * j)) 0)

/-- Forms a value element by element: masked lanes are A's, and an element wholly in them is not evaluated; the flags of the
others are joined (R319). -/
def buildV (w : Nat) (lmask : BitVec 4) (a : Value) (f : Nat → Nat × FpFlags) : Value × FpFlags :=
  let r := (List.range (128 / w)).foldl (fun (acc : Nat × FpFlags) i =>
    let (v, fl) := if maskedElem w i lmask then (0, (0 : FpFlags)) else f i
    (acc.1 + v % 2 ^ w * 2 ^ (w * i), acc.2 ||| fl)) (0, 0)
  (overLanes lmask a (BitVec.ofNat 128 r.1), r.2)

/-- An operation on elements of A, of A and B, or of A, B and C. -/
def map1 (g : FormG) (a : Value) (f : Nat → Nat × FpFlags) : Value × FpFlags :=
  let w := tyWidth g.ty.toNat
  buildV w g.lmask a fun i => f (elem a w i)
def map2 (g : FormG) (a b : Value) (f : Nat → Nat → Nat × FpFlags) : Value × FpFlags :=
  let w := tyWidth g.ty.toNat
  buildV w g.lmask a fun i => f (elem a w i) (elem b w i)
def map3 (g : FormG) (a b c : Value) (f : Nat → Nat → Nat → Nat × FpFlags) : Value × FpFlags :=
  let w := tyWidth g.ty.toNat
  buildV w g.lmask a fun i => f (elem a w i) (elem b w i) (elem c w i)

/-- The format, mode and saturation a side word names. -/
def gFmt (g : FormG) : Fmt := fmtOf g.ty.toNat
def gRm (g : FormG) : Nat := g.rm.toNat
def decF (g : FormG) (v : Nat) : FV := decodeF (gFmt g) v
def delF (g : FormG) (x : Exact) : Nat × FpFlags := deliver (gFmt g) (gRm g) g.sat x

/-! ### Elementwise floating operations (R321, R322) -/

def vAddE (g : FormG) (a b : Nat) : Nat × FpFlags := delF g (sumExact (gRm g) [decF g a, decF g b])
def vSubE (g : FormG) (a b : Nat) : Nat × FpFlags := delF g (sumExact (gRm g) [decF g a, (decF g b).negate])
def vMulE (g : FormG) (a b : Nat) : Nat × FpFlags := delF g (mulFV (decF g a) (decF g b)).exact
def vDivE (g : FormG) (a b : Nat) : Nat × FpFlags := delF g (divExact (decF g a) (decF g b))
def vSqrtE (g : FormG) (a : Nat) : Nat × FpFlags := delF g (sqrtExact (decF g a))

/-- The fused family: ±(a × b) ± c with one rounding. A signalling NaN in C is noted even where the product
is a NaN already. -/
def vFusedE (g : FormG) (negP negC : Bool) (a b c : Nat) : Nat × FpFlags :=
  let p := mulFV (decF g a) (decF g b)
  let z := decF g c
  delF g (sumExact (gRm g) [if negP then p.negate else p, if negC then z.negate else z])

/-! ### Comparing and signs (R324 to R327) -/

/-- VCMP's condition on two elements with the flag it raises (R326). -/
def vCmpE (g : FormG) (a b : Nat) : Nat × FpFlags :=
  let ty := g.ty.toNat
  let ones := 2 ^ tyWidth ty - 1
  let code := condOf g
  let holds (x y : Int) : Bool :=
    match code with
    | 0 => x == y | 1 => x != y | 2 => decide (x < y) | 3 => decide (x ≤ y)
    | 4 => decide (y < x) | _ => decide (y ≤ x)
  if isF ty then
    let x := decF g a
    let y := decF g b
    if x.isNan || y.isNan then
      (if code = 1 then ones else 0, flagIf (code ≥ 2 || x.signals || y.signals) fNV)
    else (if holds (orderKey (gFmt g) a) (orderKey (gFmt g) b) then ones else 0, 0)
  else (if holds (intVal ty a) (intVal ty b) then ones else 0, 0)

/-- The element with a sign bit (R325); a NaN is canonical. -/
def signedE (g : FormG) (a : Nat) (neg : Bool) : Nat × FpFlags :=
  let f := gFmt g
  if (decF g a).isNan then (f.nanBits, 0) else (a % f.signBit + (if neg then f.signBit else 0), 0)

def negBit (g : FormG) (a : Nat) : Bool := a / (gFmt g).signBit % 2 = 1

/-! ### Conversions (R331, R332) -/

def dtyOf (g : FormG) : Nat := g.imm.toNat % 16
def partOf (g : FormG) : Nat := g.imm.toNat / 16 % 8

/-- One element converted from TY to DTY (R332). -/
def convertE (g : FormG) (v : Nat) : Nat × FpFlags :=
  let s := g.ty.toNat
  let d := dtyOf g
  let isFl (t : Nat) : Bool := t ≤ 2 || t = 11 || t = 12
  if isFl s && isFl d then floatToFloat (fmtOf s) (fmtOf d) (s = d) (gRm g) g.sat v
  else if isFl s then floatToInt (fmtOf s) d (gRm g) v
  else if isFl d then intToFloat (fmtOf d) s (gRm g) g.sat v
  else (deliverInt d g.sat (intVal s v), 0)

/-- The lane layout of the conversions: a widening one reads part PART of A, a narrowing one writes part PART
into B (R331). -/
def convertV (g : FormG) (a b : Value) : Value × FpFlags :=
  let ws := tyWidth g.ty.toNat
  let wd := tyWidth (dtyOf g)
  let n := 128 / max ws wd
  if wd < ws then
    buildV wd g.lmask a fun i =>
      if partOf g * n ≤ i && i < partOf g * n + n then convertE g (elem a ws (i - partOf g * n))
      else (elem b wd i, 0)
  else
    buildV wd g.lmask a fun i => convertE g (elem a ws (if ws < wd then partOf g * n + i else i))

/-! ### Sums of products and horizontal operations (R333, R334) -/

/-- Lane i of VDOT, 32 bits. -/
def vDotLane (g : FormG) (a b : Value) (i : Nat) : Nat × FpFlags :=
  let ty := g.ty.toNat
  let w := tyWidth ty
  if isF ty then
    let n := if ty = 0 then 4 else 2
    if ty = 0 && i ≠ 0 then (0, 0)
    else deliver (fmtOf 0) (gRm g) false (sumExact (gRm g) ((List.range n).map fun j =>
      mulFV (decF g (elem a w (n * i + j))) (decF g (elem b w (n * i + j)))))
  else
    let n := 32 / w
    let x := ((List.range n).map fun j =>
      intVal ty (elem a w (n * i + j)) * intVal ty (elem b w (n * i + j))).foldl (· + ·) 0
    (deliverInt (if isSignedTy ty then 5 else 9) g.sat x, 0)

def vDotV (g : FormG) (a b : Value) : Value × FpFlags := buildV 32 g.lmask a (vDotLane g a b)

/-- All elements of A under TY. -/
def elems (g : FormG) (a : Value) : List Nat :=
  (List.range (128 / tyWidth g.ty.toNat)).map (elem a (tyWidth g.ty.toNat))

/-- VHADD: the exact sum of all elements, rounded or wrapped once. -/
def vHaddV (g : FormG) (a : Value) : Value × FpFlags :=
  let ty := g.ty.toNat
  let r : Nat × FpFlags :=
    if isF ty then deliver (gFmt g) (gRm g) false (sumExact (gRm g) ((elems g a).map (decF g)))
    else (deliverInt ty g.sat (((elems g a).map (intVal ty)).foldl (· + ·) 0), 0)
  (BitVec.ofNat 128 r.1, r.2)

/-- VHMAX and VHMIN. -/
def vHextV (g : FormG) (isMax : Bool) (a : Value) : Value × FpFlags :=
  let ty := g.ty.toNat
  match elems g a with
  | [] => (0, 0)
  | e :: rest =>
    let r := rest.foldl (fun (acc : Nat × FpFlags) x =>
      if isF ty then
        let (v, fl) := minMaxF (gFmt g) isMax acc.1 x
        (v, acc.2 ||| fl)
      else if isMax then (if intVal ty acc.1 < intVal ty x then x else acc.1, 0)
      else (if intVal ty x < intVal ty acc.1 then x else acc.1, 0)) (e, 0)
    -- a signalling NaN anywhere accrues NV, and a NaN alone is canonical
    let fl := if isF ty then flagIf ((elems g a).any fun x => (decF g x).signals) fNV else 0
    (BitVec.ofNat 128 r.1, fl)

/-! ### Moving elements (R335, R336) -/

def shufV (g : FormG) (a b : Value) : Value × FpFlags :=
  let w := tyWidth g.ty.toNat
  map2 g a b fun _ idx => (if idx < 128 / w then elem a w idx else 0, 0)

def bcastV (g : FormG) (a : Value) : Value × FpFlags :=
  let w := tyWidth g.ty.toNat
  map1 g a fun _ => (elem a w (g.imm.toNat % 16), 0)

def packV (g : FormG) (a b : Value) : Value × FpFlags :=
  let w := tyWidth g.ty.toNat
  let h := g.imm.toNat % 2 * (128 / w / 2)
  buildV w 0 a fun i => (elem (if i % 2 = 0 then a else b) w (i / 2 + h), 0)

def unpkV (g : FormG) (a b : Value) : Value × FpFlags :=
  let w := tyWidth g.ty.toNat
  let half := 128 / w / 2
  let h := g.imm.toNat % 2
  buildV w 0 a fun i => (if i < half then elem a w (2 * i + h) else elem b w (2 * (i - half) + h), 0)

/-! ### Integer vectors (R337, R338) -/

def vIntE (g : FormG) (op : Int → Int → Int) (a b : Nat) : Nat × FpFlags :=
  let ty := g.ty.toNat
  (deliverInt ty g.sat (op (intVal ty a) (intVal ty b)), 0)

def vIextE (g : FormG) (isMax : Bool) (a b : Nat) : Nat × FpFlags :=
  let ty := g.ty.toNat
  if isMax then (if intVal ty a < intVal ty b then b else a, 0)
  else (if intVal ty b < intVal ty a then b else a, 0)

def vIabsE (g : FormG) (a : Nat) : Nat × FpFlags :=
  let ty := g.ty.toNat
  (deliverInt ty g.sat ((intVal ty a).natAbs : Int), 0)

/-- VSHL: with SAT the exact product clamps; an amount of the width or more gives 0, or the clamp. -/
def vShlE (g : FormG) (a n : Nat) : Nat × FpFlags :=
  let ty := g.ty.toNat
  let w := tyWidth ty
  if g.sat then
    if intVal ty a = 0 then (0, 0)
    else if n ≥ w then (wrapTo w (if intVal ty a < 0 then intLow ty else intHigh ty), 0)
    else (deliverInt ty true (intVal ty a * ((2 ^ n : Nat) : Int)), 0)
  else (if n ≥ w then 0 else a * 2 ^ n % 2 ^ w, 0)

def vShrE (g : FormG) (a n : Nat) : Nat × FpFlags :=
  (if n ≥ tyWidth g.ty.toNat then 0 else a / 2 ^ n, 0)

def vSraE (g : FormG) (a n : Nat) : Nat × FpFlags :=
  let w := tyWidth g.ty.toNat
  (wrapTo w (signed w a / ((2 ^ min n w : Nat) : Int)), 0)

/-! ### Block-format conversion (R339, R340) -/

def quantV (g : FormG) (a b : Value) : Value × FpFlags :=
  let f := gFmt g
  let bb := bqBits (g.imm.toNat % 4)
  let mode := g.imm.toNat / 4 % 4
  let xs := elems g a
  if mode = 0 then
    (BitVec.ofNat 128 ((xs.map (bqKey f)).foldl max (b.toNat % 65536)),
     flagIf (xs.any fun x => (decF g x).signals || (decF g x).isInf) fNV)
  else if mode = 2 then (BitVec.ofNat 128 (bqXb (a.toNat % 65536) bb), 0)
  else
    let xb := bqXb (b.toNat % 65536) bb
    let r := (List.range xs.length).foldl (fun (acc : Nat × FpFlags) j =>
      let (m, fl) := bqMant f bb xb (xs.getD j 0)
      (acc.1 + m * 2 ^ (bb * j), acc.2 ||| fl)) (0, 0)
    (BitVec.ofNat 128 r.1, r.2)

def deqV (g : FormG) (a b : Value) : Value × FpFlags :=
  let bb := bqBits (g.imm.toNat % 4)
  buildV (tyWidth g.ty.toNat) 0 a fun j =>
    delF g ((bqValue bb (b.toNat % 256) (a.toNat / 2 ^ (bb * j) % 2 ^ bb)).plainZero (gRm g)).exact

/-! ### Shapes -/

def vOne (t : Tmpl) (g : FormG) (op : Value → Value × FpFlags) (s : State) : Out :=
  .next (s.fire t none false (litV g false) fun f => f.result (op f.q.a).1 (op f.q.a).2)

def vTwo (t : Tmpl) (g : FormG) (op : Value → Value → Value × FpFlags) (s : State) : Out :=
  .next (s.fire t none true (litV g false) fun f => f.result (op f.q.a f.q.b).1 (op f.q.a f.q.b).2)

/-- Operand B is taken only when the instruction needs it (R331, R339). -/
def vMaybe (t : Tmpl) (g : FormG) (takesB : Bool) (op : Value → Value → Value × FpFlags) (s : State) : Out :=
  .next (s.fire t none takesB (litV g false) fun f => f.result (op f.q.a f.q.b).1 (op f.q.a f.q.b).2)

def vThree (t : Tmpl) (g : FormG) (xa : XArg) (op : Value → Value → Value → Value × FpFlags) (s : State) : Out :=
  .next (s.fire t (some xa) true (litV g false) fun f =>
    f.result (op f.q.a f.q.b f.q.c).1 (op f.q.a f.q.b f.q.c).2)

/-! ### The ordered reduction node (R341 to R343) -/

/-- One elementwise addition of VRED with its flags. -/
def vredAdd (g : FormG) (sum v : Value) : Value × FpFlags :=
  let g0 := { g with lmask := 0 }
  map2 g0 sum v fun a b =>
    if isF g.ty.toNat then deliver (gFmt g) (gRm g) false (sumExact (gRm g) [decF g a, decF g b])
    else vIntE g (· + ·) a b

/-- The younger of two waves. -/
def younger (a b : WaveId) : WaveId := if older a b then b else a

/-- The wave of a reduction's release once a contribution of wave w has joined it: its youngest one's (R342). -/
def Vred.youngWith (v : Vred) (w : WaveId) : WaveId := match v.young with | none => w | some y => younger y w

/-- The register after one addition, of the contribution whose tag is NEXTSEQ; with the end-of-reduction flag it returns to
zero (R342). -/
def Vred.added (g : FormG) (v : Vred) (c : Contrib) : Vred :=
  let r := vredAdd g v.sum c.value
  let y := v.youngWith c.wave
  let st : VStep := { con := c, flags := r.2, sumBefore := v.sum, nextBefore := v.nextSeq, youngBefore := v.young,
                      released := if c.eor then some y else none }
  let v1 : Vred := { v with held := v.held.filter fun d => d.seqTag != c.seqTag, log := st :: v.log }
  if c.eor then { v1 with sum := 0, nextSeq := 0, young := none }
  else { v1 with sum := r.1, nextSeq := v.nextSeq + 1, young := some y }

def Vred.fresh (t : ThreadId) (b : Addr) (i : Nat) : Vred :=
  { thread := t, blk := b, slot := i, sum := 0, nextSeq := 0, young := none, held := [], log := [] }

/-- A reduction is in progress (R55, R342). -/
def Vred.active (v : Vred) : Bool := !v.held.isEmpty || v.nextSeq != 0

/-- A counted EOR has arrived. -/
def Vred.eorSeen (v : Vred) : Bool := v.held.any (·.eor)

/-- The register of a slot and thread (R55). -/
def Vred.word (v : Vred) : BitVec 160 :=
  v.sum ++ v.nextSeq ++ BitVec.ofBool v.active ++ BitVec.ofBool v.eorSeen ++ (0 : BitVec 6)

def Ctx.vredAt (k : Ctx) (t : ThreadId) (b : Addr) (i : Nat) : Vred :=
  (k.vreds.find? fun v => v.thread == t && v.blk == b && v.slot == i).getD (Vred.fresh t b i)

def Ctx.setVred (k : Ctx) (v : Vred) : Ctx :=
  { k with vreds := v :: k.vreds.filter fun u => !(u.thread == v.thread && u.blk == v.blk && u.slot == v.slot) }

/-- The register of a VRED firing's slot and thread. -/
def Fire.vred (f : Fire) : Vred := f.k.vredAt f.x.num f.p.blk f.i

/-- The release of a VRED firing that adds the contribution that ends its reduction (R342). -/
def Fire.release (f : Fire) (g : FormG) (c : Contrib) : Em :=
  let y := f.vred.youngWith c.wave
  { (Em.plain f.all (vredAdd g f.vred.sum c.value).1 (if f.t.act.adds then y + 1 else y)).tagged f.t.act y with src := some y }

/-- One addition of VRED (R342). Its flags accrue at its wave's commit, from the register's log; or now, when that wave has
committed before (R343). -/
def Fire.vredAdds (f : Fire) (g : FormG) (c : Contrib) : Sem :=
  .act (if c.eor then [f.release g c] else []) 0 fun k =>
    let k1 := k.setVred (f.vred.added g c)
    if (f.x.wv c.wave).isSome then k1 else { k1 with fpflags := k1.fpflags ||| (vredAdd g f.vred.sum c.value).2 }

/-- What a firing of VRED on an arrived contribution does: its faults, or its addition (R341, R342). -/
def Fire.vredSem (f : Fire) (g : FormG) : Sem :=
  match f.q.ta with
  | none => .raise 0x02 0x040000 0
  | some tok =>
    if !tok.seq then .raise 0x02 0x040000 0
    else if wdist f.vred.nextSeq tok.seqTag ≥ 0x800000 || f.vred.held.any (·.seqTag == tok.seqTag) then .raise 0x0C 4 0
    else f.vredAdds g ⟨f.w, tok.seqTag, tok.eor, tok.value, false⟩

/-- An arrived contribution that lies ahead of NEXTSEQ (R341). -/
def Fire.vredAhead (f : Fire) : Option Contrib :=
  f.q.ta.bind fun tok =>
    if tok.seq && tok.seqTag != f.vred.nextSeq && decide (wdist f.vred.nextSeq tok.seqTag < 0x800000)
        && !(f.vred.held.any (·.seqTag == tok.seqTag))
    then some ⟨f.w, tok.seqTag, tok.eor, tok.value, false⟩ else none

/-- A contribution that cannot be added yet goes to those held, in the matching store: no firing (R341). -/
def State.vredHold (s : State) (f : Fire) (c : Contrib) : State :=
  s.setCtx ((f.k.consume f.p f.x.num f.w f.i f.t f.q).setVred { f.vred with held := f.vred.held ++ [c] })

/-- The firing of VRED on a held contribution of the focus's wave whose turn has come: it takes no token (R342). -/
def State.vredDue (s : State) (t : Tmpl) : Option Fire :=
  s.firingOf t none fun k x p =>
    ((k.vredAt x.num p.blk s.focus.slot).dueNow.filter (·.wave == s.focus.wave)).map fun c =>
      { a := c.value, b := 0, c := 0, tb := none, tc := none, useA := false, useB := false, useC := false
        ta := some { thread := x.num, wave := c.wave, fmt := 0, eor := c.eor, seq := true, urg := false, seqTag := c.seqTag, value := c.value } }

/-- R341, R342: a contribution that has arrived is held or added, one addition a firing; else a held one whose turn has come
is added. -/
def execVred (t : Tmpl) (g : FormG) (s : State) : Out :=
  .next <| match s.ready t none false (litV g false) with
    | some f => match f.vredAhead with
      | some c => s.vredHold f c
      | none => s.fireOn f fun f => f.vredSem g
    | none => match s.vredDue t with
      | some f => s.fireOn f fun f => match f.vred.dueNow with
        | some c => f.vredAdds g c
        | none => .wait
      | none => s

/-! ### The instructions -/
/-- R321. -/
def execVadd (t : Tmpl) (g : FormG) (s : State) : Out := vTwo t g (fun a b => map2 g a b (vAddE g)) s
/-- R321. -/
def execVsub (t : Tmpl) (g : FormG) (s : State) : Out := vTwo t g (fun a b => map2 g a b (vSubE g)) s
/-- R321. -/
def execVmul (t : Tmpl) (g : FormG) (s : State) : Out := vTwo t g (fun a b => map2 g a b (vMulE g)) s
/-- R322. -/
def execVfma (t : Tmpl) (g : FormG) (xa : XArg) (s : State) : Out :=
  vThree t g xa (fun a b c => map3 g a b c (vFusedE g false false)) s
/-- R322. -/
def execVfms (t : Tmpl) (g : FormG) (xa : XArg) (s : State) : Out :=
  vThree t g xa (fun a b c => map3 g a b c (vFusedE g false true)) s
/-- R322. -/
def execVfnma (t : Tmpl) (g : FormG) (xa : XArg) (s : State) : Out :=
  vThree t g xa (fun a b c => map3 g a b c (vFusedE g true false)) s
/-- R322. -/
def execVfnms (t : Tmpl) (g : FormG) (xa : XArg) (s : State) : Out :=
  vThree t g xa (fun a b c => map3 g a b c (vFusedE g true true)) s
/-- R321. -/
def execVdiv (t : Tmpl) (g : FormG) (s : State) : Out := vTwo t g (fun a b => map2 g a b (vDivE g)) s
/-- R321. -/
def execVsqrt (t : Tmpl) (g : FormG) (s : State) : Out := vOne t g (fun a => map1 g a (vSqrtE g)) s
/-- R323, R246, R248. -/
def execVrsqe (t : Tmpl) (g : FormG) (s : State) : Out := vOne t g (fun a => map1 g a (rsqrtEst (gFmt g))) s
/-- R323, R246, R248. -/
def execVrcpe (t : Tmpl) (g : FormG) (s : State) : Out := vOne t g (fun a => map1 g a (recipEst (gFmt g))) s
/-- R323, R246, R248. -/
def execVexpe (t : Tmpl) (g : FormG) (s : State) : Out := vOne t g (fun a => map1 g a (expEst (gFmt g))) s
/-- R323, R246, R248. -/
def execVloge (t : Tmpl) (g : FormG) (s : State) : Out := vOne t g (fun a => map1 g a (logEst (gFmt g))) s
/-- R324. -/
def execVmin (t : Tmpl) (g : FormG) (s : State) : Out := vTwo t g (fun a b => map2 g a b (minMaxF (gFmt g) false)) s
/-- R324. -/
def execVmax (t : Tmpl) (g : FormG) (s : State) : Out := vTwo t g (fun a b => map2 g a b (minMaxF (gFmt g) true)) s
/-- R325. -/
def execVabs (t : Tmpl) (g : FormG) (s : State) : Out := vOne t g (fun a => map1 g a (fun x => signedE g x false)) s
/-- R325. -/
def execVneg (t : Tmpl) (g : FormG) (s : State) : Out := vOne t g (fun a => map1 g a (fun x => signedE g x !(negBit g x))) s
/-- R325. -/
def execVcpys (t : Tmpl) (g : FormG) (s : State) : Out := vTwo t g (fun a b => map2 g a b (fun x y => signedE g x (negBit g y))) s
/-- R326. -/
def execVcmp (t : Tmpl) (g : FormG) (s : State) : Out := vTwo t g (fun a b => map2 g a b (vCmpE g)) s
/-- R327. -/
def execVsel (t : Tmpl) (g : FormG) (xa : XArg) (s : State) : Out :=
  vThree t g xa (fun a b c => map3 g a b c (fun x y z => (if x != 0 then y else z, 0))) s
/-- R328. -/
def execVclass (t : Tmpl) (g : FormG) (s : State) : Out := vOne t g (fun a => map1 g a (fun x => (classify (gFmt g) x, 0))) s
/-- R329. -/
def execVround (t : Tmpl) (g : FormG) (s : State) : Out := vOne t g (fun a => map1 g a (roundIntegral (gFmt g) (gRm g) (g.imm.getLsbD 0))) s
/-- R331, R332. -/
def execVcvt (t : Tmpl) (g : FormG) (s : State) : Out := vMaybe t g (narrows g) (convertV g) s
/-- R331, R332. -/
def execVcvti (t : Tmpl) (g : FormG) (s : State) : Out := vMaybe t g (narrows g) (convertV g) s
/-- R331, R332. -/
def execVcvtf (t : Tmpl) (g : FormG) (s : State) : Out := vMaybe t g (narrows g) (convertV g) s
/-- R330. -/
def execVscale (t : Tmpl) (g : FormG) (s : State) : Out :=
  .next (s.fire t none true (litV g true) fun f =>
    let r := map2 g f.q.a f.q.b fun x y => scaleBy (gFmt g) (gRm g) g.sat x (signed (tyWidth g.ty.toNat) y)
    f.result r.1 r.2)
/-- R333. -/
def execVdot (t : Tmpl) (g : FormG) (s : State) : Out := vTwo t g (vDotV g) s
/-- R334. -/
def execVhadd (t : Tmpl) (g : FormG) (s : State) : Out := vOne t g (vHaddV g) s
/-- R334. -/
def execVhmax (t : Tmpl) (g : FormG) (s : State) : Out := vOne t g (vHextV g true) s
/-- R334. -/
def execVhmin (t : Tmpl) (g : FormG) (s : State) : Out := vOne t g (vHextV g false) s
/-- R335. -/
def execVshuf (t : Tmpl) (g : FormG) (s : State) : Out := vTwo t g (shufV g) s
/-- R335. -/
def execVbcast (t : Tmpl) (g : FormG) (s : State) : Out := vOne t g (bcastV g) s
/-- R336. -/
def execVpack (t : Tmpl) (g : FormG) (s : State) : Out := vTwo t g (packV g) s
/-- R336. -/
def execVunpk (t : Tmpl) (g : FormG) (s : State) : Out := vTwo t g (unpkV g) s
/-- R337. -/
def execViadd (t : Tmpl) (g : FormG) (s : State) : Out := vTwo t g (fun a b => map2 g a b (vIntE g (· + ·))) s
/-- R337. -/
def execVisub (t : Tmpl) (g : FormG) (s : State) : Out := vTwo t g (fun a b => map2 g a b (vIntE g (· - ·))) s
/-- R337. -/
def execVimul (t : Tmpl) (g : FormG) (s : State) : Out := vTwo t g (fun a b => map2 g a b (vIntE g (· * ·))) s
/-- R337. -/
def execVimin (t : Tmpl) (g : FormG) (s : State) : Out := vTwo t g (fun a b => map2 g a b (vIextE g false)) s
/-- R337. -/
def execVimax (t : Tmpl) (g : FormG) (s : State) : Out := vTwo t g (fun a b => map2 g a b (vIextE g true)) s
/-- R337. -/
def execViabs (t : Tmpl) (g : FormG) (s : State) : Out := vOne t g (fun a => map1 g a (vIabsE g)) s
/-- R338. -/
def execVshl (t : Tmpl) (g : FormG) (s : State) : Out := vTwo t g (fun a b => map2 g a b (vShlE g)) s
/-- R338. -/
def execVshr (t : Tmpl) (g : FormG) (s : State) : Out := vTwo t g (fun a b => map2 g a b (vShrE g)) s
/-- R338. -/
def execVsra (t : Tmpl) (g : FormG) (s : State) : Out := vTwo t g (fun a b => map2 g a b (vSraE g)) s
/-- R331, R332. -/
def execVnarrow (t : Tmpl) (g : FormG) (s : State) : Out := vMaybe t g (narrows g) (convertV g) s
/-- R339. -/
def execVquant (t : Tmpl) (g : FormG) (s : State) : Out :=
  vMaybe t g (g.imm.extractLsb' 2 2 != 2) (quantV g) s
/-- R340. -/
def execVdeq (t : Tmpl) (g : FormG) (s : State) : Out := vTwo t g (deqV g) s

end Sys2Proof.Machine
end

