-- ==== Sys2Proof/Machine/Work.lean ====
section
/-! DEFINITION. The firing of the form-M instructions on queues, tables and counters (15 R397, R399): each delivers
its operation to the store buffer; KEYSET, LOGSET and XLINV are for context 0 (R427 to R430). -/

namespace Sys2Proof.Machine

/-- LAUNCH (R402). -/
def execLaunch (t : Tmpl) (m : FormM) (s : State) : Out :=
  .next (s.fireM .launch t m none false)

/-- LSTAT (R403). -/
def execLstat (t : Tmpl) (m : FormM) (s : State) : Out :=
  .next (s.fireM .lstat t m none false)

/-- LBAR (R404). -/
def execLbar (t : Tmpl) (m : FormM) (s : State) : Out :=
  .next (s.fireM .lbar t m none false)

/-- PQPUT (R406). -/
def execPqput (t : Tmpl) (m : FormM) (s : State) : Out :=
  .next (s.fireM .pqput t m none false)

/-- PQGET (R406). -/
def execPqget (t : Tmpl) (m : FormM) (s : State) : Out :=
  .next (s.fireM .pqget t m none false)

/-- RTGET (R407). -/
def execRtget (t : Tmpl) (m : FormM) (s : State) : Out :=
  .next (s.fireM .rtget t m none false)

/-- RTDONE (R408). -/
def execRtdone (t : Tmpl) (m : FormM) (s : State) : Out :=
  .next (s.fireM .rtdone t m none false)

/-- QPUT (R410). -/
def execQput (t : Tmpl) (m : FormM) (s : State) : Out :=
  .next (s.fireM .qput t m none true)

/-- QGET (R410). -/
def execQget (t : Tmpl) (m : FormM) (s : State) : Out :=
  .next (s.fireM .qget t m none false)

/-- QBIND (R410). -/
def execQbind (t : Tmpl) (m : FormM) (s : State) : Out :=
  .next (s.fireM .qbind t m none true)

/-- QUNBIND (R410). -/
def execQunbind (t : Tmpl) (m : FormM) (s : State) : Out :=
  .next (s.fireM .qunbind t m none false)

/-- IQPUT (R412). -/
def execIqput (t : Tmpl) (m : FormM) (s : State) : Out :=
  .next (s.fireM .iqput t m none true)

/-- IQGET (R413). -/
def execIqget (t : Tmpl) (m : FormM) (s : State) : Out :=
  .next (s.fireM .iqget t m none false)

/-- IQLOOK (R414). -/
def execIqlook (t : Tmpl) (m : FormM) (s : State) : Out :=
  .next (s.fireM .iqlook t m none true)

/-- IQCONS (R415). -/
def execIqcons (t : Tmpl) (m : FormM) (s : State) : Out :=
  .next (s.fireM .iqcons t m none false)

/-- IQADV (R412). -/
def execIqadv (t : Tmpl) (m : FormM) (s : State) : Out :=
  .next (s.fireM .iqadv t m none false)

/-- IQQUIET (R416). -/
def execIqquiet (t : Tmpl) (m : FormM) (s : State) : Out :=
  .next (s.fireM .iqquiet t m none false)

/-- CAPGET (R417). -/
def execCapget (t : Tmpl) (m : FormM) (s : State) : Out :=
  .next (s.fireM .capget t m none false)

/-- JOINW (R405). -/
def execJoinw (t : Tmpl) (m : FormM) (s : State) : Out :=
  .next (s.fireM .joinw t m none false)

/-- DPUT (R421). -/
def execDput (t : Tmpl) (m : FormM) (s : State) : Out :=
  .next (s.fireM .dput t m none true)

/-- DGET (R421). -/
def execDget (t : Tmpl) (m : FormM) (s : State) : Out :=
  .next (s.fireM .dget t m none false)

/-- PATTR (R432). -/
def execPattr (t : Tmpl) (m : FormM) (s : State) : Out :=
  .next (s.fireM .pattr t m none true)

/-- LOGSET (R429): PRIVILEGE outside context 0. -/
def execLogset (t : Tmpl) (m : FormM) (s : State) : Out :=
  .next (s.fireHouseM .logset 0xDB t m false)

/-- KEYSET (R428): PRIVILEGE outside context 0. -/
def execKeyset (t : Tmpl) (m : FormM) (s : State) : Out :=
  .next (s.fireHouseM .keyset 0xDD t m true)

/-- XLINV (R430): PRIVILEGE outside context 0. -/
def execXlinv (t : Tmpl) (m : FormM) (s : State) : Out :=
  .next (s.fireHouseM .xlinv 0xDF t m true)

end Sys2Proof.Machine
end

