-- ==== Sys2Proof/Machine/Dispatch.lean ====
section
/-! DEFINITION. The dispatch of every instruction and step to its meaning, one arm per constructor. -/

namespace Sys2Proof.Machine

/-- What an instruction does (for an encoded one: at the site the focus names). -/
def exec (i : Instr) (s : State) : Host.Outcome State Fault Refusal :=
  match i with
  | .blockPlacement c l b at_ => Sys2Proof.Machine.execBlockPlacement c l b at_ s
  | .blockMove c l b at_ => Sys2Proof.Machine.execBlockMove c l b at_ s
  | .tokenForward c l b => Sys2Proof.Machine.execTokenForward c l b s
  | .staleBlockEviction c l b => Sys2Proof.Machine.execStaleBlockEviction c l b s
  | .memoryOrderEntry c th w own => Sys2Proof.Machine.execMemoryOrderEntry c th w own s
  | .loadBind c th w own pick ecc => Sys2Proof.Machine.execLoadBind c th w own pick ecc s
  | .storePerform c th k pick ecc => Sys2Proof.Machine.execStorePerform c th k pick ecc s
  | .waveCommit c th => Sys2Proof.Machine.execWaveCommit c th s
  | .committedOperationWaitEnd c th pick => Sys2Proof.Machine.execCommittedOperationWaitEnd c th pick s
  | .pageWalk c w => Sys2Proof.Machine.execPageWalk c w s
  | .faultDelivery c th => Sys2Proof.Machine.execFaultDelivery c th s
  | .stallSweep pe slot => Sys2Proof.Machine.execStallSweep pe slot s
  | .launchAdmission die => Sys2Proof.Machine.execLaunchAdmission die s
  | .threadCreation c ln => Sys2Proof.Machine.execThreadCreation c ln s
  | .launchCompletion c ln => Sys2Proof.Machine.execLaunchCompletion c ln s
  | .launchAbort c ln => Sys2Proof.Machine.execLaunchAbort c ln s
  | .grantInterval die => Sys2Proof.Machine.execGrantInterval die s
  | .preemptionGate c => Sys2Proof.Machine.execPreemptionGate c s
  | .quiescenceReport c => Sys2Proof.Machine.execQuiescenceReport c s
  | .contextSaveReport c => Sys2Proof.Machine.execContextSaveReport c s
  | .preemptionForce c => Sys2Proof.Machine.execPreemptionForce c s
  | .restore c phys => Sys2Proof.Machine.execRestore c phys s
  | .migrationGate c l cause => Sys2Proof.Machine.execMigrationGate c l cause s
  | .migrationMove c l => Sys2Proof.Machine.execMigrationMove c l s
  | .thermalHot clu temp => Sys2Proof.Machine.execThermalHot clu temp s
  | .throttleTick clu temp => Sys2Proof.Machine.execThrottleTick clu temp s
  | .thermalTrip clu temp => Sys2Proof.Machine.execThermalTrip clu temp s
  | .coolantFault flow inlet => Sys2Proof.Machine.execCoolantFault flow inlet s
  | .leaseStart die u => Sys2Proof.Machine.execLeaseStart die u s
  | .leaseTesting die entry failed => Sys2Proof.Machine.execLeaseTesting die entry failed s
  | .leaseVerdict die entry => Sys2Proof.Machine.execLeaseVerdict die entry s
  | .leaseReturn die entry => Sys2Proof.Machine.execLeaseReturn die entry s
  | .retirement u how => Sys2Proof.Machine.execRetirement u how s
  | .controlLogicError u => Sys2Proof.Machine.execControlLogicError u s
  | .escalatingError f more => Sys2Proof.Machine.execEscalatingError f more s
  | .warmReset => Sys2Proof.Machine.execWarmReset s
  | .l2WritebackTimeout lost => Sys2Proof.Machine.execL2WritebackTimeout lost s
  | .coldStart run failed => Sys2Proof.Machine.execColdStart run failed s
  | .teardown c => Sys2Proof.Machine.execTeardown c s
  | .patrolScrub corrected => Sys2Proof.Machine.execPatrolScrub corrected s
  | .powerInterval clu spine cycles turn => Sys2Proof.Machine.execPowerInterval clu spine cycles turn s
  | .ballastFiring clu dom => Sys2Proof.Machine.execBallastFiring clu dom s
  | .chimeEvaluation c l => Sys2Proof.Machine.execChimeEvaluation c l s
  | .chimeCounterFire c l n => Sys2Proof.Machine.execChimeCounterFire c l n s
  | .drumEmit c l drum => Sys2Proof.Machine.execDrumEmit c l drum s
  | .drumEnd c l drum => Sys2Proof.Machine.execDrumEnd c l drum s
  | .streamElement c l n pick => Sys2Proof.Machine.execStreamElement c l n pick s
  | .streamEnd c l n => Sys2Proof.Machine.execStreamEnd c l n s
  | .wloadExecute c l d ecc => Sys2Proof.Machine.execWloadExecute c l d ecc s
  | .matrixAcceptance c l d => Sys2Proof.Machine.execMatrixAcceptance c l d s
  | .matrixRow c l d glitch ecc => Sys2Proof.Machine.execMatrixRow c l d glitch ecc s
  | .accumulatorRelease c l d tile => Sys2Proof.Machine.execAccumulatorRelease c l d tile s
  | .engineUnit c l k pick ecc => Sys2Proof.Machine.execEngineUnit c l k pick ecc s
  | .commandCompletion c l k => Sys2Proof.Machine.execCommandCompletion c l k s
  | .collectiveStart c collid => Sys2Proof.Machine.execCollectiveStart c collid s
  | .queueDispatch c desc => Sys2Proof.Machine.execQueueDispatch c desc s
  | .parkedQueueServe c th pick => Sys2Proof.Machine.execParkedQueueServe c th pick s
  | .barrierRelease c ln level inst => Sys2Proof.Machine.execBarrierRelease c ln level inst s
  | .gondolaVisit g => Sys2Proof.Machine.execGondolaVisit g s
  | .stealHandshake c thief work => Sys2Proof.Machine.execStealHandshake c thief work s
  | .hostDoorbell c prod => Sys2Proof.Machine.execHostDoorbell c prod s
  | .hostCommand c => Sys2Proof.Machine.execHostCommand c s
  | .hostEventWrite c cons => Sys2Proof.Machine.execHostEventWrite c cons s
  | .biasToHost byHouse page hostData => Sys2Proof.Machine.execBiasToHost byHouse page hostData s
  | .biasToDevice byHouse page hostData => Sys2Proof.Machine.execBiasToDevice byHouse page hostData s
  | .hostMemoryRequest pa cacheable write n => Sys2Proof.Machine.execHostMemoryRequest pa cacheable write n s
  | .hostSnoopResponse line dirty keepShared => Sys2Proof.Machine.execHostSnoopResponse line dirty keepShared s
  | .spdmRequest req index nonce => Sys2Proof.Machine.execSpdmRequest req index nonce s
  | .peerRequest peer c req => Sys2Proof.Machine.execPeerRequest peer c req s
  | .linkWidthChange link lanes => Sys2Proof.Machine.execLinkWidthChange link lanes s
  | .linkCorrectedError link lane => Sys2Proof.Machine.execLinkCorrectedError link lane s
  | .spinefreqWrite die spine code => Sys2Proof.Machine.execSpinefreqWrite die spine code s
  | .spselWrite clu dom spine => Sys2Proof.Machine.execSpselWrite clu dom spine s
  | .dbgHalt => Sys2Proof.Machine.execDbgHalt s
  | .dbgResume => Sys2Proof.Machine.execDbgResume s
  | .dbgStep => Sys2Proof.Machine.execDbgStep s
  | .dfenceCompletion c => Sys2Proof.Machine.execDfenceCompletion c s
  | .firmwareUpdate img => Sys2Proof.Machine.execFirmwareUpdate img s
  | .registerWrite r v => Sys2Proof.Machine.execRegisterWrite r v s
  | .mov t l => Sys2Proof.Machine.execMov t l s
  | .steer t l => Sys2Proof.Machine.execSteer t l s
  | .filter t l => Sys2Proof.Machine.execFilter t l s
  | .gate t l => Sys2Proof.Machine.execGate t l s
  | .sink t l => Sys2Proof.Machine.execSink t l s
  | .sel t l xa => Sys2Proof.Machine.execSel t l xa s
  | .fork t l xa => Sys2Proof.Machine.execFork t l xa s
  | .wadv t l => Sys2Proof.Machine.execWadv t l s
  | .wset t l => Sys2Proof.Machine.execWset t l s
  | .wrd t l => Sys2Proof.Machine.execWrd t l s
  | .trd t l => Sys2Proof.Machine.execTrd t l s
  | .tnew t l => Sys2Proof.Machine.execTnew t l s
  | .tend t l => Sys2Proof.Machine.execTend t l s
  | .seqt t l => Sys2Proof.Machine.execSeqt t l s
  | .switch t f => Sys2Proof.Machine.execSwitch t f s
  | .call t l => Sys2Proof.Machine.execCall t l s
  | .ret t l => Sys2Proof.Machine.execRet t l s
  | .bjump t l => Sys2Proof.Machine.execBjump t l s
  | .trap t g => Sys2Proof.Machine.execTrap t g s
  | .add t g => Sys2Proof.Machine.execAdd t g s
  | .sub t g => Sys2Proof.Machine.execSub t g s
  | .mul t g => Sys2Proof.Machine.execMul t g s
  | .mulh t g => Sys2Proof.Machine.execMulh t g s
  | .mulhn t g => Sys2Proof.Machine.execMulhn t g s
  | .mad t g xa => Sys2Proof.Machine.execMad t g xa s
  | .div t g => Sys2Proof.Machine.execDiv t g s
  | .divn t g => Sys2Proof.Machine.execDivn t g s
  | .rem t g => Sys2Proof.Machine.execRem t g s
  | .remn t g => Sys2Proof.Machine.execRemn t g s
  | .neg t g => Sys2Proof.Machine.execNeg t g s
  | .abs t g => Sys2Proof.Machine.execAbs t g s
  | .min t g => Sys2Proof.Machine.execMin t g s
  | .max t g => Sys2Proof.Machine.execMax t g s
  | .minn t g => Sys2Proof.Machine.execMinn t g s
  | .maxn t g => Sys2Proof.Machine.execMaxn t g s
  | .addsat t g => Sys2Proof.Machine.execAddsat t g s
  | .subsat t g => Sys2Proof.Machine.execSubsat t g s
  | .clamp t g xa => Sys2Proof.Machine.execClamp t g xa s
  | .and t g => Sys2Proof.Machine.execAnd t g s
  | .or t g => Sys2Proof.Machine.execOr t g s
  | .xor t g => Sys2Proof.Machine.execXor t g s
  | .andn t g => Sys2Proof.Machine.execAndn t g s
  | .not t g => Sys2Proof.Machine.execNot t g s
  | .shl t g => Sys2Proof.Machine.execShl t g s
  | .shr t g => Sys2Proof.Machine.execShr t g s
  | .sra t g => Sys2Proof.Machine.execSra t g s
  | .rot t g => Sys2Proof.Machine.execRot t g s
  | .clz t g => Sys2Proof.Machine.execClz t g s
  | .ctz t g => Sys2Proof.Machine.execCtz t g s
  | .popc t g => Sys2Proof.Machine.execPopc t g s
  | .brev t g => Sys2Proof.Machine.execBrev t g s
  | .bfx t g => Sys2Proof.Machine.execBfx t g s
  | .bfi t g xa => Sys2Proof.Machine.execBfi t g xa s
  | .sext t g => Sys2Proof.Machine.execSext t g s
  | .zext t g => Sys2Proof.Machine.execZext t g s
  | .lea t g => Sys2Proof.Machine.execLea t g s
  | .cmp t g => Sys2Proof.Machine.execCmp t g s
  | .vadd t g => Sys2Proof.Machine.execVadd t g s
  | .vsub t g => Sys2Proof.Machine.execVsub t g s
  | .vmul t g => Sys2Proof.Machine.execVmul t g s
  | .vfma t g xa => Sys2Proof.Machine.execVfma t g xa s
  | .vfms t g xa => Sys2Proof.Machine.execVfms t g xa s
  | .vfnma t g xa => Sys2Proof.Machine.execVfnma t g xa s
  | .vfnms t g xa => Sys2Proof.Machine.execVfnms t g xa s
  | .vdiv t g => Sys2Proof.Machine.execVdiv t g s
  | .vsqrt t g => Sys2Proof.Machine.execVsqrt t g s
  | .vrsqe t g => Sys2Proof.Machine.execVrsqe t g s
  | .vrcpe t g => Sys2Proof.Machine.execVrcpe t g s
  | .vexpe t g => Sys2Proof.Machine.execVexpe t g s
  | .vloge t g => Sys2Proof.Machine.execVloge t g s
  | .vmin t g => Sys2Proof.Machine.execVmin t g s
  | .vmax t g => Sys2Proof.Machine.execVmax t g s
  | .vabs t g => Sys2Proof.Machine.execVabs t g s
  | .vneg t g => Sys2Proof.Machine.execVneg t g s
  | .vcpys t g => Sys2Proof.Machine.execVcpys t g s
  | .vcmp t g => Sys2Proof.Machine.execVcmp t g s
  | .vsel t g xa => Sys2Proof.Machine.execVsel t g xa s
  | .vclass t g => Sys2Proof.Machine.execVclass t g s
  | .vround t g => Sys2Proof.Machine.execVround t g s
  | .vcvt t g => Sys2Proof.Machine.execVcvt t g s
  | .vcvti t g => Sys2Proof.Machine.execVcvti t g s
  | .vcvtf t g => Sys2Proof.Machine.execVcvtf t g s
  | .vscale t g => Sys2Proof.Machine.execVscale t g s
  | .vdot t g => Sys2Proof.Machine.execVdot t g s
  | .vhadd t g => Sys2Proof.Machine.execVhadd t g s
  | .vhmax t g => Sys2Proof.Machine.execVhmax t g s
  | .vhmin t g => Sys2Proof.Machine.execVhmin t g s
  | .vshuf t g => Sys2Proof.Machine.execVshuf t g s
  | .vbcast t g => Sys2Proof.Machine.execVbcast t g s
  | .vpack t g => Sys2Proof.Machine.execVpack t g s
  | .vunpk t g => Sys2Proof.Machine.execVunpk t g s
  | .viadd t g => Sys2Proof.Machine.execViadd t g s
  | .visub t g => Sys2Proof.Machine.execVisub t g s
  | .vimul t g => Sys2Proof.Machine.execVimul t g s
  | .vimin t g => Sys2Proof.Machine.execVimin t g s
  | .vimax t g => Sys2Proof.Machine.execVimax t g s
  | .viabs t g => Sys2Proof.Machine.execViabs t g s
  | .vshl t g => Sys2Proof.Machine.execVshl t g s
  | .vshr t g => Sys2Proof.Machine.execVshr t g s
  | .vsra t g => Sys2Proof.Machine.execVsra t g s
  | .vnarrow t g => Sys2Proof.Machine.execVnarrow t g s
  | .vquant t g => Sys2Proof.Machine.execVquant t g s
  | .vdeq t g => Sys2Proof.Machine.execVdeq t g s
  | .vred t g => Sys2Proof.Machine.execVred t g s
  | .ld t m => Sys2Proof.Machine.execLd t m s
  | .st t m => Sys2Proof.Machine.execSt t m s
  | .ldc t m => Sys2Proof.Machine.execLdc t m s
  | .stf t m => Sys2Proof.Machine.execStf t m s
  | .ldi t m => Sys2Proof.Machine.execLdi t m s
  | .sti t m => Sys2Proof.Machine.execSti t m s
  | .mnop t m => Sys2Proof.Machine.execMnop t m s
  | .pref t m => Sys2Proof.Machine.execPref t m s
  | .atadd t m => Sys2Proof.Machine.execAtadd t m s
  | .atand t m => Sys2Proof.Machine.execAtand t m s
  | .ator t m => Sys2Proof.Machine.execAtor t m s
  | .atxor t m => Sys2Proof.Machine.execAtxor t m s
  | .atmin t m => Sys2Proof.Machine.execAtmin t m s
  | .atmax t m => Sys2Proof.Machine.execAtmax t m s
  | .atminn t m => Sys2Proof.Machine.execAtminn t m s
  | .atmaxn t m => Sys2Proof.Machine.execAtmaxn t m s
  | .atxchg t m => Sys2Proof.Machine.execAtxchg t m s
  | .atcas t m xa => Sys2Proof.Machine.execAtcas t m xa s
  | .redadd t m => Sys2Proof.Machine.execRedadd t m s
  | .redmin t m => Sys2Proof.Machine.execRedmin t m s
  | .redmax t m => Sys2Proof.Machine.execRedmax t m s
  | .redfadd t m => Sys2Proof.Machine.execRedfadd t m s
  | .fence t m => Sys2Proof.Machine.execFence t m s
  | .own t m => Sys2Proof.Machine.execOwn t m s
  | .feq t m => Sys2Proof.Machine.execFeq t m s
  | .feset t m => Sys2Proof.Machine.execFeset t m s
  | .clean t m => Sys2Proof.Machine.execClean t m s
  | .flush t m => Sys2Proof.Machine.execFlush t m s
  | .invl t m => Sys2Proof.Machine.execInvl t m s
  | .wload t x => Sys2Proof.Machine.execWload t x s
  | .mma t x => Sys2Proof.Machine.execMma t x s
  | .mmasp t x => Sys2Proof.Machine.execMmasp t x s
  | .acccfg t x => Sys2Proof.Machine.execAcccfg t x s
  | .accrd t x => Sys2Proof.Machine.execAccrd t x s
  | .accspl t x => Sys2Proof.Machine.execAccspl t x s
  | .accrst t x => Sys2Proof.Machine.execAccrst t x s
  | .scacc t x => Sys2Proof.Machine.execScacc t x s
  | .scaccv t x => Sys2Proof.Machine.execScaccv t x s
  | .rinit t x => Sys2Proof.Machine.execRinit t x s
  | .rstat t x => Sys2Proof.Machine.execRstat t x s
  | .radv t x => Sys2Proof.Machine.execRadv t x s
  | .cpy t x => Sys2Proof.Machine.execCpy t x s
  | .cpy2d t x => Sys2Proof.Machine.execCpy2d t x s
  | .gath t x => Sys2Proof.Machine.execGath t x s
  | .scat t x => Sys2Proof.Machine.execScat t x s
  | .coll t x => Sys2Proof.Machine.execColl t x s
  | .ecan t x => Sys2Proof.Machine.execEcan t x s
  | .strcfg t x => Sys2Proof.Machine.execStrcfg t x s
  | .strgo t x => Sys2Proof.Machine.execStrgo t x s
  | .strstop t x => Sys2Proof.Machine.execStrstop t x s
  | .sqcfg t x => Sys2Proof.Machine.execSqcfg t x s
  | .sqgo t x => Sys2Proof.Machine.execSqgo t x s
  | .chwire t x => Sys2Proof.Machine.execChwire t x s
  | .chset t x => Sys2Proof.Machine.execChset t x s
  | .chpulse t x => Sys2Proof.Machine.execChpulse t x s
  | .launch t m => Sys2Proof.Machine.execLaunch t m s
  | .lstat t m => Sys2Proof.Machine.execLstat t m s
  | .lbar t m => Sys2Proof.Machine.execLbar t m s
  | .pqput t m => Sys2Proof.Machine.execPqput t m s
  | .pqget t m => Sys2Proof.Machine.execPqget t m s
  | .rtget t m => Sys2Proof.Machine.execRtget t m s
  | .rtdone t m => Sys2Proof.Machine.execRtdone t m s
  | .qput t m => Sys2Proof.Machine.execQput t m s
  | .qget t m => Sys2Proof.Machine.execQget t m s
  | .qbind t m => Sys2Proof.Machine.execQbind t m s
  | .qunbind t m => Sys2Proof.Machine.execQunbind t m s
  | .iqput t m => Sys2Proof.Machine.execIqput t m s
  | .iqget t m => Sys2Proof.Machine.execIqget t m s
  | .iqlook t m => Sys2Proof.Machine.execIqlook t m s
  | .iqcons t m => Sys2Proof.Machine.execIqcons t m s
  | .iqadv t m => Sys2Proof.Machine.execIqadv t m s
  | .iqquiet t m => Sys2Proof.Machine.execIqquiet t m s
  | .steal t g => Sys2Proof.Machine.execSteal t g s
  | .capget t m => Sys2Proof.Machine.execCapget t m s
  | .cfgreq t g => Sys2Proof.Machine.execCfgreq t g s
  | .joinw t m => Sys2Proof.Machine.execJoinw t m s
  | .dswitch t g => Sys2Proof.Machine.execDswitch t g s
  | .dfence t g => Sys2Proof.Machine.execDfence t g s
  | .dput t m => Sys2Proof.Machine.execDput t m s
  | .dget t m => Sys2Proof.Machine.execDget t m s
  | .ipin t g => Sys2Proof.Machine.execIpin t g s
  | .iunpin t g => Sys2Proof.Machine.execIunpin t g s
  | .yield t g => Sys2Proof.Machine.execYield t g s
  | .ctxst t g => Sys2Proof.Machine.execCtxst t g s
  | .cntrd t g => Sys2Proof.Machine.execCntrd t g s
  | .enrd t g => Sys2Proof.Machine.execEnrd t g s
  | .susrd t g => Sys2Proof.Machine.execSusrd t g s
  | .logset t m => Sys2Proof.Machine.execLogset t m s
  | .logrd t g => Sys2Proof.Machine.execLogrd t g s
  | .keyset t m => Sys2Proof.Machine.execKeyset t m s
  | .pattr t m => Sys2Proof.Machine.execPattr t m s
  | .xlinv t m => Sys2Proof.Machine.execXlinv t m s
  | .syscall t g => Sys2Proof.Machine.execSyscall t g s
  | .brk t g => Sys2Proof.Machine.execBrk t g s
  | .migrq t g => Sys2Proof.Machine.execMigrq t g s
  | .leaseq t g => Sys2Proof.Machine.execLeaseq t g s
  | .fresume t g => Sys2Proof.Machine.execFresume t g s
  | .fabort t g => Sys2Proof.Machine.execFabort t g s
  | .accumulatorCommandExecute c l d ecc => Sys2Proof.Machine.execAccumulatorCommandExecute c l d ecc s
  | .contextCreation c d => Sys2Proof.Machine.execContextCreation c d s
  | .switchOutResident c => Sys2Proof.Machine.execSwitchOutResident c s
  | .switchInResident c => Sys2Proof.Machine.execSwitchInResident c s
  | .orderlyPowerDown => Sys2Proof.Machine.execOrderlyPowerDown s
  | .hotClear clu temp => Sys2Proof.Machine.execHotClear clu temp s
  | .coolantConditionClear flow inlet => Sys2Proof.Machine.execCoolantConditionClear flow inlet s
  | .farModuleConnect link peer lanes => Sys2Proof.Machine.execFarModuleConnect link peer lanes s
  | .cxlLinkTraining up lanes rate => Sys2Proof.Machine.execCxlLinkTraining up lanes rate s
  | .hostCacheSnoop line invalidate => Sys2Proof.Machine.execHostCacheSnoop line invalidate s

end Sys2Proof.Machine
end

