-- ==== Sys2Proof/Machine/Step.lean ====
section
/-! DEFINITION. One step of the machine: a choice of what moves next is taken, and either one ready instruction
fires or one of the machine's own steps takes place. There is no program counter (01 R21). -/

namespace Sys2Proof.Machine

/-- One step. A choice whose conditions do not hold, or that may not move now, passes without effect. An encoded instruction comes
only from a slot, never from the agenda by itself. -/
def step (s : State) : Host.Outcome State Fault Refusal :=
  if !s.admits s.choice then .next s.begun
  else match s.choice with
  | .event i => if i.opcode.isSome then .next s.begun else exec i s.begun
  | .fire a u _ =>
    match s.begun.siteWords a with
    | none => .next s.begun
    | some w =>
      match decode w with
      | .error e => .fault (.illegalSlot e)
      | .ok i => exec i { s.begun with focus := a, upset := u }

/-- `s` with the instruction of a table word standing where the next step fires it (log entry 13). -/
def State.withFetchWord (s : State) (_nbits w : Nat) : State := s.withWords (tableWords w)

end Sys2Proof.Machine
end

