-- ==== Sys2Proof/Safety.lean ====
section
/-! DEFINITION. The terms claims are stated in: when a step is safe, the invariant of the memories, when a firing takes place,
and the state a firing leaves. -/

namespace Sys2Proof.Machine

/-! ### Safe steps -/

/-- A step that answers a next state. The one way out of a safe run is a slot whose words are no instruction. -/
def State.steps (s : State) : Prop := ∃ t, step s = .next t

/-! ### The memories -/

/-- Every byte memory of the module and of what it reaches is in its canonical form: HBM, host memory, and the memories of
the peers (03 R77 to R80; log entry 4). -/
def Mems.canonical (m : Mems) : Prop :=
  Memory.wf m.hbm = true ∧ Memory.wf m.host = true ∧ ∀ e ∈ m.peer, Memory.wf e.2 = true

/-- Every scratchpad of a context is in its canonical form. -/
def Ctx.canonical (k : Ctx) : Prop := ∀ h ∈ k.shares, Memory.wf h.bytes = true

/-- The invariant of a whole machine: its memories and the scratchpads of its contexts. -/
def State.Inv (s : State) : Prop := s.mem.canonical ∧ ∀ k ∈ s.ctxs, k.canonical

/-! ### Firings (01 R33 to R36) -/

/-- What an encoded instruction needs to fire: its template, its XARG slot, whether it takes an operand B, and its literals
(R33, R268 to R274, R285). -/
structure Needs where
  t : Tmpl
  xa : Option XArg
  takesB : Bool
  l : Lits
  deriving DecidableEq, Repr

/-- What each encoded instruction needs; a step of the machine itself needs none of it. -/
def needsOf (i : Instr) : Option Needs :=
  match i with
  | .mov t l | .sink t l | .wadv t l | .wrd t l | .trd t l | .tend t l => some ⟨t, none, false, litL l⟩
  | .steer t l | .filter t l | .gate t l | .wset t l | .tnew t l | .seqt t l | .ret t l | .bjump t l => some ⟨t, none,
    true, litL l⟩
  | .sel t l xa | .fork t l xa => some ⟨t, some xa, true, litL l⟩
  | .switch t _ | .call t _ | .st t _ | .stf t _ | .sti t _ | .atadd t _ | .atand t _ | .ator t _ | .atxor t _ |
    .atmin t _ | .atmax t _ | .atminn t _ | .atmaxn t _ | .atxchg t _ | .redadd t _ | .redmin t _ | .redmax t _ |
    .redfadd t _ | .feset t _ | .scaccv t _ | .cpy2d t _ | .gath t _ | .scat t _ | .qput t _ | .qbind t _ | .iqput t _
    | .iqlook t _ | .dput t _ | .keyset t _ | .pattr t _ | .xlinv t _ => some ⟨t, none, true, noLits⟩
  | .trap t _ | .ld t _ | .ldc t _ | .ldi t _ | .mnop t _ | .pref t _ | .fence t _ | .own t _ | .feq t _ | .clean t _
    | .flush t _ | .invl t _ | .wload t _ | .mma t _ | .mmasp t _ | .acccfg t _ | .accrd t _ | .accspl t _ | .accrst t
    _ | .scacc t _ | .rinit t _ | .rstat t _ | .radv t _ | .cpy t _ | .coll t _ | .ecan t _ | .strcfg t _ | .strgo t _
    | .strstop t _ | .sqcfg t _ | .sqgo t _ | .chwire t _ | .chset t _ | .chpulse t _ | .launch t _ | .lstat t _ |
    .lbar t _ | .pqput t _ | .pqget t _ | .rtget t _ | .rtdone t _ | .qget t _ | .qunbind t _ | .iqget t _ | .iqcons t
    _ | .iqadv t _ | .iqquiet t _ | .steal t _ | .capget t _ | .cfgreq t _ | .joinw t _ | .dswitch t _ | .dfence t _ |
    .dget t _ | .ipin t _ | .iunpin t _ | .yield t _ | .ctxst t _ | .cntrd t _ | .enrd t _ | .susrd t _ | .logset t _
    | .logrd t _ | .syscall t _ | .brk t _ | .migrq t _ | .leaseq t _ | .fresume t _ | .fabort t _ => some ⟨t, none,
    false, noLits⟩
  | .add t g | .sub t g | .mul t g | .mulh t g | .mulhn t g | .div t g | .divn t g | .rem t g | .remn t g | .min t g |
    .max t g | .minn t g | .maxn t g | .addsat t g | .subsat t g | .and t g | .or t g | .xor t g | .andn t g | .shl t
    g | .shr t g | .sra t g | .rot t g | .bfx t g | .sext t g | .zext t g | .lea t g | .cmp t g => some ⟨t, none,
    true, litG g⟩
  | .mad t g xa | .clamp t g xa | .bfi t g xa => some ⟨t, some xa, true, litG g⟩
  | .neg t g | .abs t g | .not t g | .clz t g | .ctz t g | .popc t g | .brev t g => some ⟨t, none, false, litG g⟩
  | .vadd t g | .vsub t g | .vmul t g | .vdiv t g | .vmin t g | .vmax t g | .vcpys t g | .vcmp t g | .vdot t g |
    .vshuf t g | .vpack t g | .vunpk t g | .viadd t g | .visub t g | .vimul t g | .vimin t g | .vimax t g | .vshl t g
    | .vshr t g | .vsra t g | .vdeq t g => some ⟨t, none, true, litV g false⟩
  | .vfma t g xa | .vfms t g xa | .vfnma t g xa | .vfnms t g xa | .vsel t g xa => some ⟨t, some xa, true, litV g
    false⟩
  | .vsqrt t g | .vrsqe t g | .vrcpe t g | .vexpe t g | .vloge t g | .vabs t g | .vneg t g | .vclass t g | .vround t g
    | .vhadd t g | .vhmax t g | .vhmin t g | .vbcast t g | .viabs t g | .vred t g => some ⟨t, none, false, litV g
    false⟩
  | .vcvt t g | .vcvti t g | .vcvtf t g | .vnarrow t g => some ⟨t, none, narrows g, litV g false⟩
  | .vscale t g => some ⟨t, none, true, litV g true⟩
  | .vquant t g => some ⟨t, none, g.imm.extractLsb' 2 2 != 2, litV g false⟩
  | .atcas t _ xa => some ⟨t, some xa, true, noLits⟩
    | .blockPlacement .. | .blockMove .. | .tokenForward .. | .staleBlockEviction .. | .memoryOrderEntry .. |
    .loadBind .. | .storePerform .. | .waveCommit .. | .committedOperationWaitEnd .. | .pageWalk .. | .faultDelivery
    .. | .stallSweep .. | .launchAdmission .. | .threadCreation .. | .launchCompletion .. | .launchAbort .. |
    .grantInterval .. | .preemptionGate .. | .quiescenceReport .. | .contextSaveReport .. | .preemptionForce .. |
    .restore .. | .migrationGate .. | .migrationMove .. | .thermalHot .. | .throttleTick .. | .thermalTrip .. |
    .coolantFault .. | .leaseStart .. | .leaseTesting .. | .leaseVerdict .. | .leaseReturn .. | .retirement .. |
    .controlLogicError .. | .escalatingError .. | .warmReset | .l2WritebackTimeout .. | .coldStart .. | .teardown
    .. | .patrolScrub .. | .powerInterval .. | .ballastFiring .. | .chimeEvaluation .. | .chimeCounterFire .. |
    .drumEmit .. | .drumEnd .. | .streamElement .. | .streamEnd .. | .wloadExecute .. | .matrixAcceptance .. |
    .matrixRow .. | .accumulatorRelease .. | .engineUnit .. | .commandCompletion .. | .collectiveStart .. |
    .queueDispatch .. | .parkedQueueServe .. | .barrierRelease .. | .gondolaVisit .. | .stealHandshake .. |
    .hostDoorbell .. | .hostCommand .. | .hostEventWrite .. | .biasToHost .. | .biasToDevice .. | .hostMemoryRequest
    .. | .hostSnoopResponse .. | .spdmRequest .. | .peerRequest .. | .linkWidthChange .. | .linkCorrectedError .. |
    .spinefreqWrite .. | .spselWrite .. | .dbgHalt .. | .dbgResume .. | .dbgStep .. | .dfenceCompletion .. |
    .firmwareUpdate .. | .registerWrite .. | .accumulatorCommandExecute .. | .contextCreation .. | .switchOutResident
    .. | .switchInResident .. | .orderlyPowerDown .. | .hotClear .. | .coolantConditionClear .. | .farModuleConnect ..
    | .cxlLinkTraining .. | .hostCacheSnoop .. => none

/-- An instruction whose firing reads a record of memory as a load does: STRCFG and SQCFG (14 R391, R393). -/
def readsRecord (i : Instr) : Bool :=
  match i with
  | .strcfg _ _ | .sqcfg _ _ => true
  | _ => false

/-- The PE at which the focus stands, counted over the module; a domain is eight of them. -/
def State.focusPe (s : State) : Option Nat :=
  (s.ctx s.focus.ctx).bind fun k => (k.th s.focus.thread).bind fun x => (k.placedAt x s.focus.blk).map fun p =>
    (k.standsAt p s.focus.slot).1 * 128 + (k.standsAt p s.focus.slot).2.1

/-- The firing the focus names, if an instruction's operands are there. -/
def State.readyFor (s : State) (n : Needs) : Option Fire := s.ready n.t n.xa n.takesB n.l

/-- The firing the focus names takes place now: its operands are there (R33, R35), its domain has a power token and a spine
that runs (07 R207, 02 R72), no breakpoint halts it (02 R75), and no hardware error meets it (08 R217, R220). -/
def State.canFire (s : State) (t : Tmpl) (xa : Option XArg) (takesB : Bool) (l : Lits) (f : Fire) : Prop :=
  s.ready t xa takesB l = some f ∧ s.powered f.domain = true
    ∧ (s.dbg.pass = some s.focus ∨ s.breakpoint f.k.num f.x.num f.p.blk f.i = none) ∧ s.upset = .none

/-- An emission starts a wave: it goes somewhere, into another wave than the firing's, and not on behalf of the wave it
belongs to already (R222, step 1). -/
def Fire.starts (f : Fire) (e : Em) : Bool :=
  e.wave != f.w && (f.t.act.adds || e.src.isNone) && e.dests.any (· != .none)

/-- Nothing holds the emissions of a firing: each one's wave can be entered (R20, R36, 11 R291), and none starts a wave at a
shut gate (R222). -/
def Fire.opens (f : Fire) (es : List Em) : Prop :=
  sendBlock f.x es = none ∧ (f.k.gateShut f.p.lcl = false ∨ es.any f.starts = false)

/-- The state after a firing that took place: the operands are consumed and the emissions sent with the change `g` made of
the context (`Fire.apply`), its energy charged, its block touched, one power token used, and a pass given by the debug port
used up (`State.took`). -/
def State.fired (s : State) (f : Fire) (es : List Em) (flags : BitVec 5) (g : Ctx → Ctx) : State :=
  (s.setCtx (((f.apply es flags g).charge (f.k.seatOf f.p) 1 0).touchBlock f.p s.tick)).took f

/-- The state after a firing that raised a precise fault: nothing consumed and nothing sent, the wave dropped and the fault
found (R35, R38, R286); its energy, counts and power token are those of any firing (07 R199, R207, R208). -/
def State.raised (s : State) (f : Fire) (cause origin : BitVec 8) (detail : BitVec 24) (faddr : BitVec 64) : State :=
  (s.fireFault f cause origin detail faddr).firingSpent f

/-- The emission of a computed value to every destination of the firing's instruction (R285). -/
def Fire.emit (f : Fire) (v : Value) : Em := (Em.plain f.all v f.outWave).tagged f.t.act f.w

end Sys2Proof.Machine
end

