-- ==== Sys2Proof/WellFormed.lean ====
section
/-! DEFINITION. When an instruction is well formed: an encoded one when the fields of its words are legal by the rules
that do not depend on the block around it (10 R265 to R278, the checks of its form), a step of the machine when what the
outside supplies lies in the ranges of the spec. Nothing here gives a meaning; a placement checks a slot in its block
(R278), and a step whose arguments lie outside these ranges passes without effect. -/

namespace Sys2Proof

/-! ### Encoded instructions -/

/-- A block that grants a slot everything its own words cannot show: sixteen ports each way, MATRIX, and a side word
present. -/
def SlotEnv.widest : SlotEnv := { slot := 0, nin := 16, nout := 16, matrix := true, sidePresent := true }

/-- The XARG slot a three-input instruction is read with, and none for any other (R269). -/
def Words.xarg (w : Words) : Option XArg :=
  if threeInput (w.tmpl.extractLsb' 24 8).toNat then XArg.dec w.xtmpl w.xside else none

/-- The words pass the checks of R278 that concern them alone. -/
def Words.legal (w : Words) : Bool :=
  match Tmpl.dec w.tmpl with
  | none => false
  | some t =>
    knownOpcode (w.tmpl.extractLsb' 24 8)
      && (checkSlot (w.tmpl.extractLsb' 24 8).toNat t w.side w.xarg SlotEnv.widest).isNone
      && (!threeInput (w.tmpl.extractLsb' 24 8).toNat
          || w.xarg.any fun a => (checkXArg (w.tmpl.extractLsb' 24 8).toNat false a).isNone)

/-! ### What the outside supplies to a step -/

/-- A physical cluster, one of its domains, a die, a spine that carries a clock (00 R6, 02 R72). -/
def validCluster (n : Nat) : Bool := n < Config.clusters
def validDomain (d : Nat) : Bool := d < Config.domainsPerCluster
def validDie (d : Nat) : Bool := d < Config.dies
def validSpine (n : Nat) : Bool := n < 7

/-- A logical cluster, the number a launch or a map can name (02 R69). -/
def validLogical (l : Nat) : Bool := l < 128

/-- A slot of a cluster, as PE and slot of the PE (R6). -/
def validSlot (p : Nat × Nat) : Bool := p.1 < 128 && p.2 < 64

/-- A retirable unit of R194. -/
def RetUnit.valid (u : RetUnit) : Bool :=
  match u.kind.toNat with
  | 0 => u.unit.toNat < 96
  | 1 => u.unit.toNat < 16
  | 2 => u.unit.toNat < 4096
  | 3 => u.unit.toNat < 128
  | _ => false

/-- The lane counts a link can have (R450). -/
def validLanes (n : BitVec 4) : Bool := [0, 1, 2, 4, 8].contains n.toNat

/-- An OWN number a form-M instruction may carry (R272). -/
def validOwn (n : BitVec 8) : Bool := n != 0xFE && n != 0xFF

/-- An access of a peer lies within one page run of at most 64 bytes (R449). -/
def PeerReq.valid : PeerReq → Bool
  | .load _ n => 1 ≤ n && n ≤ 64
  | .store _ bytes => 1 ≤ bytes.length && bytes.length ≤ 64
  | .rmw _ n _ _ _ => [1, 2, 4, 8, 16].contains n
  | .redFadd _ _ => true

/-- A structure an error can escalate from exists (00 R6). -/
def Failing.valid : Failing → Bool
  | .slice n => n < Config.dies * 64
  | .storeBuffer clu => validCluster clu
  | .fabricManager die => validDie die
  | .dieLink a b => validDie a && validDie b && (b = a ^^^ 1 || b = a ^^^ 2)
  | .keyTable | .placementTable => true

/-- A register a write names exists (02 R71 to R75, R439, R450). -/
def WReg.valid : WReg → Bool
  | .spineFreq die spine => validDie die && validSpine spine
  | .spsel clu dom | .pwrDom clu dom => validCluster clu && validDomain dom
  | .pwrCtl die | .leaseCtl die => validDie die
  | .sysLink n | .linkKey n => n < 16
  | .dbgBkpt n => n < 4
  | .dbgDreg row _ => row < 16
  | .dbgGen _ l _ => validLogical l
  | .dbgSlot clu pe slot => validCluster clu && validSlot (pe, slot)
  | .sysTemp clu => validCluster clu
  | .score kind unit => (RetUnit.mk (BitVec.ofNat 8 kind) (BitVec.ofNat 16 unit)).valid
  | .pageEntry pa => pa < Config.hbmBytes && pa % 8 = 0
  | .peerRoute peer | .peerBind _ peer => peer < 256
  | .hostBiasReq | .sysBiasReq | .sysModnum | .dbgCtl | .dbgStat | .dbgDsel | .dbgDdata | .sysEvseq | .sysStart
  | .hostBiasCnt | .tspLock => true
  | .ctxStatus _ | .ctxFqb _ | .ctxCapqb _ | .ctxLclust _ | .ctxSpine _ | .ctxOvf _ | .hdmRange _ => true

/-- The ranges of a step's arguments; an encoded instruction has none. -/
def Instr.inRange : Instr → Bool
  | .blockPlacement _ l _ at_ | .blockMove _ l _ at_ => validLogical l && at_.all validSlot
  | .tokenForward _ l _ | .staleBlockEviction _ l _ => validLogical l
  | .memoryOrderEntry _ _ _ num | .loadBind _ _ _ num _ _ => validOwn num
  | .stallSweep pe slot => pe < 128 && slot < 64
  | .launchAdmission die | .grantInterval die => validDie die
  | .restore _ phys => phys.all validCluster
  | .migrationGate _ l _ | .migrationMove _ l => validLogical l
  | .thermalHot clu _ | .throttleTick clu _ | .thermalTrip clu _ | .hotClear clu _ => validCluster clu
  | .leaseStart die u => validDie die && u.valid
  | .leaseTesting die _ _ | .leaseVerdict die _ | .leaseReturn die _ => validDie die
  | .retirement u how => u.valid && 1 ≤ how.reason.toNat && how.reason.toNat ≤ 4
  | .pageWalk _ w => validCluster w.clu
  | .controlLogicError u => u.valid
  | .coldStart run failed => run.last.toNat ≤ 9 && failed.all RetUnit.valid
  | .escalatingError f more => (f :: more).all Failing.valid
  | .powerInterval clu spine _ turn => validCluster clu && validSpine spine && turn.grants.length = Config.domainsPerCluster
  | .ballastFiring clu dom => validCluster clu && validDomain dom
  | .chimeEvaluation _ l => validLogical l
  | .chimeCounterFire _ l n => validLogical l && n < 16
  | .drumEmit _ l _ | .drumEnd _ l _ => validLogical l
  | .streamElement _ l n _ | .streamEnd _ l n => validLogical l && n < 4
  | .wloadExecute _ l d _ | .matrixAcceptance _ l d | .matrixRow _ l d _ _ | .accumulatorCommandExecute _ l d _ =>
    validLogical l && validDomain d
  | .accumulatorRelease _ l d tile => validLogical l && validDomain d && tile < 64
  | .engineUnit _ l _ _ _ | .commandCompletion _ l _ => validLogical l
  | .hostMemoryRequest pa _ _ n => pa < Config.hbmBytes && 1 ≤ n && n ≤ 64
  | .peerRequest _ _ req => req.valid
  | .linkWidthChange link lanes => link < 16 && validLanes lanes
  | .linkCorrectedError link lane => link < 16 && lane.all (· < 8)
  | .farModuleConnect link _ lanes => link < 16 && validLanes lanes
  | .spinefreqWrite die spine _ => validDie die && validSpine spine
  | .spselWrite clu dom _ => validCluster clu && validDomain dom
  | .registerWrite r _ => r.valid
  | _ => true

/-- A well-formed instruction. -/
def Instr.wf (i : Instr) : Bool :=
  match encode i with
  | some w => w.legal
  | none => i.inRange

end Sys2Proof
end

