-- ==== Sys2Proof/Certificates/Slice0/Obligations.lean ====
section
/-! DEFINITION. The statements about the VL-8400. Each one's docstring names the rules it follows; a clause that rests on a
choice of the model names its log entry. -/

namespace Sys2Proof.Machine

/-! ### Terms the statements share -/

/-- An instruction takes place, with the emissions, exception flags and change of its context named, at every firing that
stands ready, whose operands meet `ok`, and whose emissions nothing holds. -/
def completes (i : Instr) (t : Tmpl) (xa : Option XArg) (takesB : Bool) (l : Lits) (ok : State → Fire → Prop)
    (es : State → Fire → List Em) (flags : Fire → BitVec 5) (g : Fire → Ctx → Ctx) : Prop :=
  ∀ s f, s.canFire t xa takesB l f → ok s f → f.opens (es s f) → exec i s = .next (s.fired f (es s f) (flags f) (g f))

/-- A computing instruction of no condition: one value to every destination, no flag, no further change (R285). -/
def computes (i : Instr) (t : Tmpl) (xa : Option XArg) (takesB : Bool) (l : Lits) (v : Fire → Value) : Prop :=
  completes i t xa takesB l (fun _ _ => True) (fun _ f => [f.emit (v f)]) (fun _ => 0) (fun _ => id)

/-- An integer instruction of one, two or three operands computes a 64-bit result from bits 63:0 of each (R304). -/
def computesOne (mk : Tmpl → FormG → Instr) (op : FormG → BitVec 64 → BitVec 64) : Prop :=
  ∀ t g, computes (mk t g) t none false (litG g) fun f => scalar (op g (lo64 f.q.a))
def computesTwo (mk : Tmpl → FormG → Instr) (op : FormG → BitVec 64 → BitVec 64 → BitVec 64) : Prop :=
  ∀ t g, computes (mk t g) t none true (litG g) fun f => scalar (op g (lo64 f.q.a) (lo64 f.q.b))
def computesThree (mk : Tmpl → FormG → XArg → Instr) (op : BitVec 64 → BitVec 64 → BitVec 64 → BitVec 64) : Prop :=
  ∀ t g xa, computes (mk t g xa) t (some xa) true (litG g) fun f => scalar (op (lo64 f.q.a) (lo64 f.q.b) (lo64 f.q.c))

/-- An instruction on all 128 bits of two operands (R309). -/
def computesWide (mk : Tmpl → FormG → Instr) (op : Value → Value → Value) : Prop :=
  ∀ t g, computes (mk t g) t none true (litG g) fun f => op f.q.a f.q.b

/-- A vector instruction: its value, and the flags it adds to its wave's (12 R317, R319). -/
def vectorOne (mk : Tmpl → FormG → Instr) (op : FormG → Value → Value × FpFlags) : Prop :=
  ∀ t g, completes (mk t g) t none false (litV g false) (fun _ _ => True) (fun _ f => [f.emit (op g f.q.a).1])
    (fun f => (op g f.q.a).2) fun _ => id
def vectorTwo (mk : Tmpl → FormG → Instr) (takesB scaleB : FormG → Bool) (op : FormG → Value → Value → Value × FpFlags) : Prop :=
  ∀ t g, completes (mk t g) t none (takesB g) (litV g (scaleB g)) (fun _ _ => True)
    (fun _ f => [f.emit (op g f.q.a f.q.b).1]) (fun f => (op g f.q.a f.q.b).2) fun _ => id
def vectorThree (mk : Tmpl → FormG → XArg → Instr) (op : FormG → Value → Value → Value → Value × FpFlags) : Prop :=
  ∀ t g xa, completes (mk t g xa) t (some xa) true (litV g false) (fun _ _ => True)
    (fun _ f => [f.emit (op g f.q.a f.q.b f.q.c).1]) (fun f => (op g f.q.a f.q.b f.q.c).2) fun _ => id

/-- A vector instruction that raises no flag, by every bit of its result: A's in the 32-bit lanes that the lane mask names, else the
bit of its element that `law` says (12 R319). `ok` says which side words the law is about. -/
def lanesBy (ok : FormG → Prop) (op : FormG → Value → Value → Value × FpFlags) (law : FormG → Value → Value → Nat → Nat) : Prop :=
  ∀ g a b, ok g → (op g a b).2 = 0 ∧ ∀ p, p < 128 →
    (op g a b).1.getLsbD p
      = if g.lmask.getLsbD (p / 32) then a.getLsbD p
        else (law g a b (p / tyWidth g.ty.toNat)).testBit (p % tyWidth g.ty.toNat)
def laneTwo (mk : Tmpl → FormG → Instr) (ok : FormG → Prop) (law : FormG → Value → Value → Nat → Nat) : Prop :=
  ∃ op, vectorTwo mk (fun _ => true) (fun _ => false) op ∧ lanesBy ok op law
def laneOne (mk : Tmpl → FormG → Instr) (ok : FormG → Prop) (law : FormG → Value → Nat → Nat) : Prop :=
  ∃ op, vectorOne mk op ∧ lanesBy ok (fun g a _ => op g a) fun g a _ => law g a

/-- Element i of a value under the type of a side word, unsigned, and read as the type has it (09 R234). -/
def laneOf (g : FormG) (v : Value) (i : Nat) : Nat := elem v (tyWidth g.ty.toNat) i
def laneInt (g : FormG) (v : Value) (i : Nat) : Int :=
  if g.ty.toNat ≤ 6 then (BitVec.ofNat (tyWidth g.ty.toNat) (laneOf g v i)).toInt else laneOf g v i

/-- An exact integer as an element: its low bits, or with SAT the nearest value of the type (12 R337). -/
def fitsTy (g : FormG) (x : Int) : Nat :=
  if g.sat = false then (x % 2 ^ tyWidth g.ty.toNat).toNat
  else if g.ty.toNat ≤ 6 then
    (BitVec.ofInt (tyWidth g.ty.toNat) (max (-(2 ^ (tyWidth g.ty.toNat - 1))) (min (2 ^ (tyWidth g.ty.toNat - 1) - 1) x))).toNat
  else (max 0 (min (2 ^ tyWidth g.ty.toNat - 1) x)).toNat

/-- The type is an integer type, i8 to n64 (09 R234), or a floating one. -/
def intTy (g : FormG) : Prop := 3 ≤ g.ty.toNat ∧ g.ty.toNat ≤ 10
def floatTy (g : FormG) : Prop := g.ty.toNat ≤ 2

/-- What a form-M firing needs beside its operands: its links fit the chain its wave has so far (13 R349), and the wave a
result under an adding tag action is due to can be entered (R347). -/
def Fire.joins (f : Fire) (act : MemAct) (m : FormM) : Prop :=
  joinError (((f.x.wv f.live).map (·.ops)).getD []) (f.deliver act m) = none ∧ f.promise (f.deliver act m) = .go
    ∧ ((f.deliver act m).out = f.live ∨ (f.deliver act m).rt.any = false ∨ f.k.gateShut f.p.lcl = false)

/-- A firing of a form-X instruction that is held until its wave commits, with its acceptance (14 R368). -/
def holdsX (mk : Tmpl → FormX → Instr) (act : DefAct) (ok : FormX → State → Fire → Prop) (cfv : FormX → Fire → Value)
    (data : FormX → State → Fire → List Byte) : Prop :=
  ∀ t x s f, s.canFire t none false noLits f → ok x s f → f.opens [f.emit 0] →
    exec (mk t x) s = .next (s.fired f [f.emit 0] 0 (f.defer (f.deferred act x 0 (cfv x f) (data x s f))))

/-- A firing of a form-G instruction that is held until its wave commits: with its acceptance, or with its result still to
come (15 R398). -/
def holdsG (mk : Tmpl → FormG → Instr) (act : DefAct) (ok : FormG → State → Fire → Prop) (imm : FormG → BitVec 16)
    (now : Bool) (data : State → Fire → List Byte) : Prop :=
  ∀ t g s f, s.canFire t none false noLits f → ok g s f → f.opens (if now then [f.emit 0] else []) →
    exec (mk t g) s = .next (s.fired f (if now then [f.emit 0] else []) 0 (f.defer (f.deferred act default (imm g) 0 (data s f))))

/-- Bits hi to lo of a value are zero. -/
def zeroAt (v : Value) (hi lo : Nat) : Prop := ∀ i, lo ≤ i → i ≤ hi → v.getLsbD i = false

/-- An instruction raises a precise fault with this code, origin, detail and address: nothing consumed, nothing emitted
(R35, R286). -/
def faults (i : Instr) (t : Tmpl) (xa : Option XArg) (takesB : Bool) (l : Lits) (ok : State → Fire → Prop)
    (cause origin : BitVec 8) (detail : Fire → BitVec 24) (faddr : Fire → BitVec 64) : Prop :=
  ∀ s f, s.canFire t xa takesB l f → ok s f → exec i s = .next (s.raised f cause origin (detail f) (faddr f))

/-- A form-M firing hands its operation to the store buffer and emits nothing itself; a link that does not fit its wave's chain
raises WAVE-ORDER with the detail of R349 (13 R345, R347, R349). -/
def delivers (mk : Tmpl → FormM → Instr) (act : MemAct) (takesB : Bool) : Prop :=
  (∀ t m, completes (mk t m) t none takesB noLits (fun _ f => f.joins act m) (fun _ _ => []) (fun _ => 0)
    fun f => f.handOver (f.deliver act m))
  ∧ ∀ t m, faults (mk t m) t none takesB noLits
      (fun _ f => joinError (((f.x.wv f.live).map (·.ops)).getD []) (f.deliver act m) ≠ none) 0x0C 2
      (fun f => (joinError (((f.x.wv f.live).map (·.ops)).getD []) (f.deliver act m)).getD 0) fun _ => 0

/-- An instruction answers a next state, of which P holds. -/
def answers (i : Instr) (s : State) (P : State → Prop) : Prop := ∃ t, exec i s = .next t ∧ P t

/-- A state holds a context, of which P holds. -/
def inCtx (t : State) (c : CtxId) (P : Ctx → Prop) : Prop := ∃ k, t.ctx c = some k ∧ P k

/-- What the performance of a committed operation comes to, with no hardware error (R106). -/
def State.performance (s : State) (k : Ctx) (me : Committed) (pick : Nat) : Perf :=
  match me.item with
  | .mem o => s.performMem k me o pick none
  | .dfr d => s.performDfr k me d pick

end Sys2Proof.Machine

open Sys2Proof Sys2Proof.Machine

/-! ### Encoding -/

/-- Every encoded instruction, with every operand field at every value, is what its own words decode to (R265 to R275). -/
def Obligations.EncodingsRoundTrip : Prop := ∀ i w, encode i = some w → decode w = .ok i

/-- The words an instruction was decoded from are those it encodes to: template and side word, and the XARG slot of a
three-input instruction. No bit of them is lost (R265 to R275). -/
def Obligations.DecodingLosesNothing : Prop :=
  ∀ w i, decode w = .ok i → ∃ v, encode i = some v ∧ v.tmpl = w.tmpl ∧ v.side = w.side
    ∧ (threeInput (w.tmpl.extractLsb' 24 8).toNat = true → v.xtmpl = w.xtmpl ∧ v.xside = w.xside)

/-- Words written out from the encoding tables decode to the instructions they stand for: one of each form (R265 to R275, 13 R350, 14 R377). -/
def Obligations.WordsOfTheSpec : Prop :=
  decode ⟨0x01000102#32, 0, 0, 0⟩ = .ok (.mov ⟨.pass, .tok, .tok, 1, 2⟩ ⟨0⟩)
  ∧ decode ⟨0x19110003#32, 1#32, 0, 0⟩ = .ok (.sub ⟨.wave, .tok, .lit, 0, 3⟩ ⟨0, 0, false, 0, 0, 1⟩)
  ∧ decode ⟨0x3D018201#32, 0x04000000#32, 0, 0⟩ = .ok (.cmp ⟨.pass, .tok, .lit, 0x82, 1⟩ ⟨0, 2, false, 0, 0, 0⟩)
  ∧ decode ⟨0x01500400#32, 0, 0, 0⟩ = .ok (.mov ⟨.waveOut2, .tok, .tok, 4, 0⟩ ⟨0⟩)
  ∧ decode ⟨0x10000000#32, 0x80040004#32, 0, 0⟩ = .ok (.switch ⟨.pass, .tok, .tok, 0, 0⟩ ⟨true, 0, 0, 4, 0, 4⟩)
  ∧ decode ⟨0x06000102#32, 0, 0x0F000304#32, 0⟩ = .ok (.sel ⟨.pass, .tok, .tok, 1, 2⟩ ⟨0⟩ ⟨⟨.pass, .tok, .tok, 3, 4⟩, ⟨0⟩⟩)
  ∧ decode ⟨0x70000100#32, 0xFE00FF6C#32, 0, 0⟩ = .ok (.ld ⟨.pass, .tok, .tok, 1, 0⟩ ⟨0xFE, 0, 0xFF, 3, 1, 2, false⟩)
  ∧ decode ⟨0x91000505#32, 0x02190580#32, 0, 0⟩ = .ok (.mma ⟨.pass, .tok, .tok, 5, 5⟩ ⟨0, 2, 3, 8, 5, true, 0, 0, 0⟩)

/-- A reserved tag action, a reserved opcode, and a three-input instruction without its XARG slot are no instructions. -/
def Obligations.ReservedWordsRefused : Prop :=
  (∀ w : Words, 11 ≤ (w.tmpl.extractLsb' 20 4).toNat → ∃ e, decode w = .error e)
  ∧ (∀ w : Words, knownOpcode (w.tmpl.extractLsb' 24 8) = false → decode w = .error .illegalOpcode)
  ∧ (∀ w : Words, (w.tmpl.extractLsb' 20 4).toNat ≤ 10 → threeInput (w.tmpl.extractLsb' 24 8).toNat = true →
      w.xtmpl.extractLsb' 24 8 ≠ 0x0F#8 → decode w = .error .xargMissing)

/-! ### The machine as a whole -/

/-- No meaning refuses or faults: every instruction and every step of the machine answers a next state, from every state.
Only a slot whose words are no instruction stops a run, and then by its name; a step never refuses. -/
def Obligations.OnlyIllegalSlotsStop : Prop :=
  (∀ i s, ∃ t, exec i s = .next t)
  ∧ (∀ s f, step s = .fault f → ∃ a u late w e, s.choice = .fire a u late ∧ s.begun.siteWords a = some w
      ∧ decode w = .error e ∧ f = .illegalSlot e)
  ∧ ∀ s r, step s ≠ .refused r

/-- A step that fires a slot whose words decode to an instruction is that instruction's `exec`, on the state in which the
choice has been taken, at that site, with the hardware error that meets it; a step of the machine by itself is its `exec`; while
a start sequence runs nothing fires, and a firing that another ready instruction of its PE comes before waits (R21, R33, 08 R231;
log entry 1). -/
def Obligations.StepRunsTheDecodedInstruction : Prop :=
  (∀ s a u late w i, s.choice = .fire a u late → s.up = true → s.outranked a late = false → s.begun.siteWords a = some w →
      decode w = .ok i → step s = exec i { s.begun with focus := a, upset := u })
  ∧ (∀ s i, s.choice = .event i → i.opcode = none → s.up = true → step s = exec i s.begun)
  ∧ (∀ s a u late, s.choice = .fire a u late → s.up = false → step s = .next s.begun)
  ∧ (∀ s a u late, s.choice = .fire a u late → s.outranked a late = true → step s = .next s.begun)
  ∧ ∀ s i, s.choice = .event i → i.opcode.isSome = true → step s = .next s.begun

/-- The values the register maps give for reset: module number, start register, bias requests and counter, debug port, every
link at eight requested lanes, every power register, lease register, spine register and score at its Reset value, no temperature
flag, an empty launch queue, no owned domain and no context (02 R71 to R75, 07 R202 to R207, 08 R231, 16 R439, R450). That SYS.MODNUM is 0
is the model's choice (log entry 6), and so is that a module as manufactured has no scores (log entry 5). -/
def Obligations.ResetRegisters : Prop :=
  State.reset.readReg .sysModnum = 0 ∧ State.reset.readReg .sysStart = 1
  ∧ State.reset.readReg .hostBiasReq = 0 ∧ State.reset.readReg .sysBiasReq = 0 ∧ State.reset.readReg .hostBiasCnt = 0
  ∧ State.reset.readReg .dbgCtl = 0 ∧ State.reset.readReg .dbgStat = 0
  ∧ (∀ n, State.reset.readReg (.sysLink n) = 0x80) ∧ (∀ c, State.reset.readReg (.sysTemp c) = 0)
  ∧ (∀ n, State.reset.readReg (.dbgBkpt n) = 0) ∧ State.reset.readReg .dbgDsel = 0 ∧ State.reset.readReg .dbgDdata = 0
  ∧ (∀ die spine, spine < 7 → State.reset.readReg (.spineFreq die spine) = 0x3C3C)
  ∧ (∀ die, State.reset.readReg (.spineFreq die 7) = 0 ∧ State.reset.readReg (.pwrCtl die) = 0x38400018000
      ∧ State.reset.readReg (.leaseCtl die) = 0xE1000000201)
  ∧ (∀ clu dom, State.reset.readReg (.spsel clu dom) = 0 ∧ State.reset.readReg (.pwrDom clu dom) = 0)
  ∧ (∀ kind unit, State.reset.readReg (.score kind unit) = 0)
  ∧ State.reset.ctxs = [] ∧ State.reset.launchq = [] ∧ State.reset.owners = []

/-- Right after reset every byte memory and every scratchpad is in its canonical form, the model's own representation of bytes: strictly
rising addresses, and none that holds the 0 which unwritten memory reads as (log entry 4). -/
def Obligations.ResetIsCanonical : Prop := State.reset.Inv

/-- A step keeps every byte memory in its canonical form: HBM, host memory, the memories of the peers and every scratchpad. The
form is the model's own representation of bytes, and rests on what unwritten memory reads as (log entry 4). -/
def Obligations.StepKeepsMemoriesCanonical : Prop := ∀ s t, s.Inv → step s = .next t → t.Inv

/-- The frame of every encoded instruction: its firing changes no byte of any memory or cache, but for STRCFG and SQCFG, whose
reading of their record leaves there what a load leaves; no other context; and no register of the module but the power tokens of
its own domain, the counts that its own PE keeps of what fires and stands ready there (log entry 133), the debug port's status and,
where a shadow mismatch met it, the reliability score of its own cluster (R34, R35, R107, R217). Memory changes only at the steps of
the store buffer and of the engines. -/
def Obligations.EncodedInstructionsFrame : Prop :=
  ∀ i s t, i.opcode.isSome = true → exec i s = .next t →
    (readsRecord i = false → t.mem = s.mem) ∧ (∀ c, c ≠ s.focus.ctx → t.ctx c = s.ctx c)
    ∧ t.agenda = s.agenda ∧ t.tick = s.tick ∧ t.focus = s.focus ∧ t.upset = s.upset ∧ t.launchq = s.launchq ∧ t.owners = s.owners
    ∧ t.evseq = s.evseq ∧ t.modnum = s.modnum ∧ t.links = s.links ∧ t.lanesOut = s.lanesOut ∧ t.temps = s.temps ∧ t.spines = s.spines
    ∧ t.spsel = s.spsel ∧ t.spnow = s.spnow ∧ t.pwrctl = s.pwrctl ∧ t.leasectl = s.leasectl ∧ t.leases = s.leases
    ∧ t.cycles = s.cycles ∧ t.start = s.start ∧ t.hostBias = s.hostBias ∧ t.sysBias = s.sysBias ∧ t.biascnt = s.biascnt
    ∧ t.keys = s.keys ∧ t.flash.records = s.flash.records ∧ t.flash.version = s.flash.version ∧ t.flash.colds = s.flash.colds
    ∧ t.flash.evseq = s.flash.evseq ∧ t.receipts = s.receipts ∧ t.cxl = s.cxl ∧ t.lastLease = s.lastLease
    ∧ t.leaseHistory = s.leaseHistory ∧ t.drawn = s.drawn ∧ t.drawnAt = s.drawnAt ∧ t.coolantBad = s.coolantBad ∧ t.swept = s.swept
    ∧ t.hostReply = s.hostReply ∧ t.peerReply = s.peerReply ∧ t.spdm = s.spdm
    ∧ t.hdm = s.hdm ∧ t.tspLock = s.tspLock ∧ t.gondola = s.gondola ∧ t.firmware = s.firmware ∧ t.staged = s.staged
    ∧ t.parked = s.parked ∧ t.retiring = s.retiring ∧ t.poweredOff = s.poweredOff ∧ t.suspects = s.suspects
    ∧ t.tearing = s.tearing ∧ t.victims = s.victims ∧ t.heirs = s.heirs ∧ t.waited = s.waited ∧ t.failing = s.failing
    ∧ t.touched = s.touched ∧ t.cooling = s.cooling ∧ t.taken = s.taken
    ∧ (∀ d, s.focusPe.map (· / 8) ≠ some d → tget t.pwrdom d = tget s.pwrdom d)
    ∧ (∀ p, s.focusPe ≠ some p → tget t.urgentRun p = tget s.urgentRun p ∧ tget t.counted p = tget s.counted p)
    ∧ t.dbg.ctx = s.dbg.ctx ∧ t.dbg.thread = s.dbg.thread ∧ t.dbg.halt = s.dbg.halt ∧ t.dbg.allthr = s.dbg.allthr
    ∧ t.dbg.en = s.dbg.en ∧ t.dbg.stepping = s.dbg.stepping ∧ t.dbg.bkpt = s.dbg.bkpt ∧ t.dbg.dict = s.dbg.dict
    ∧ t.dbg.index = s.dbg.index
    ∧ (s.upset ≠ .shadow → t.scores = s.scores ∧ t.flash = s.flash)
    ∧ ∀ u, s.focusPe.map (fun p => clusterUnit (p / 128)) ≠ some u → t.scoreOf u = s.scoreOf u
        ∧ t.flash.scores.find? (·.1 == u) = s.flash.scores.find? (·.1 == u)

/-- Before an encoded instruction fires (R33 to R36): without its operands, or a held contribution whose turn has come (VRED, 12
R342), it does nothing; without a power token or on a spine that stands still it does nothing (07 R207, 02 R72), but that VRED takes a
contribution that is not due yet into the matching store (12 R341); and it waits while another instruction that stands ready on its
PE comes first: an urgent one before one that is not, until three urgent firings in a row have gone before; then the one of the older
launch, of the older thread, of the older wave, in the lower slot. One that stood ready at the PE's last firing is not passed over
(log entry 133). -/
def Obligations.InstructionsWait : Prop :=
  (∀ (i : Instr) (n : Needs) (s : State), needsOf i = some n → s.readyFor n = none → (∀ t g, i = .vred t g → s.vredDue t = none) →
      exec i s = .next s)
  ∧ (∀ (i : Instr) (n : Needs) (s : State) (f : Fire), needsOf i = some n → s.readyFor n = some f →
      s.powered f.domain = false → (∀ t g, i = .vred t g → f.vredAhead = none) → exec i s = .next s)
  ∧ (∀ (t : Tmpl) (g : FormG) (s : State) (f : Fire), s.ready t none false (litV g false) = none → s.vredDue t = some f →
      s.powered f.domain = false → exec (.vred t g) s = .next s)
  ∧ ∀ (s : State) (k : Ctx) (x y : Thread) (p r : Placed) (m n : Launch) (a b : Site) (u : Upset) (late : List Site) (pe : Nat × Nat)
      (runs i j : Nat), s.choice = .fire a u late → s.ctx a.ctx = some k → b.ctx = a.ctx → k.num = a.ctx →
    k.th a.thread = some x → k.placedAt x a.blk = some p → k.ln x.ln = some m →
    k.th b.thread = some y → k.placedAt y b.blk = some r → k.ln y.ln = some n →
    (k.standsAt p a.slot).1 = pe.1 → (k.standsAt p a.slot).2.1 = pe.2 → (k.standsAt r b.slot).1 = pe.1 →
    (k.standsAt r b.slot).2.1 = pe.2 → b.slot < r.slots.length → k.readyAt y r b.slot b.wave = true →
    (b ∉ late ∨ b ∈ tgetD s.counted (pe.1 * 128 + pe.2) []) →
    (∃ t ∈ k.tokens, t.blk = b.blk ∧ t.tok.thread = b.thread ∧ t.tok.wave = b.wave ∧ t.held = false) →
    runs = tgetD s.urgentRun (pe.1 * 128 + pe.2) 0 →
    i = (if ((p.slots[a.slot]?).map (·.urgent) = some true) ↔ runs < 3 then 0 else 1) →
    j = (if ((r.slots[b.slot]?).map (·.urgent) = some true) ↔ runs < 3 then 0 else 1) →
    (j < i ∨ j = i ∧ (n.born < m.born ∨ n.born = m.born ∧ (y.born < x.born ∨ y.born = x.born
      ∧ (y.waveAge b.wave < x.waveAge a.wave ∨ y.waveAge b.wave = x.waveAge a.wave
        ∧ (k.standsAt r b.slot).2.2 < (k.standsAt p a.slot).2.2)))) →
    step s = .next s.begun

/-- What meets a firing before anything is consumed: a breakpoint halts its context and records thread, wave and number, but
not the firing that the port has just let go (02 R75); a shadow mismatch raises SHADOW and adds 64 to its cluster's score (08 R217,
07 R203); a damaged slot raises UNCORRECTABLE, detail 3 (08 R220). BRK has a rule of its own under the debug port (15 R434). A
contribution to VRED that lies ahead of its register is no firing yet (12 R341). -/
def Obligations.FiringsAreMet : Prop :=
  (∀ (i : Instr) (n : Needs) (s : State) (f : Fire) (b : Nat), needsOf i = some n → (∀ t g, i ≠ .brk t g) →
      (∀ t g, i = .vred t g → f.vredAhead = none) →
      s.readyFor n = some f → s.powered f.domain = true → s.dbg.pass ≠ some s.focus →
      s.breakpoint f.k.num f.x.num f.p.blk f.i = some b → s.dbg.halted = false →
      ∃ t, exec i s = .next t ∧ t.mem = s.mem ∧ t.dbg.halted = true ∧ t.dbg.statThread = f.x.num ∧ t.dbg.wave = f.w
        ∧ t.dbg.cause = BitVec.ofNat 8 b ∧ ∀ k, s.ctx f.k.num = some k → t.ctx f.k.num = some { k with halted := true })
  ∧ (∀ (i : Instr) (n : Needs) (s : State) (f : Fire), needsOf i = some n → (∀ t g, i ≠ .brk t g) →
      (∀ t g, i = .vred t g → f.vredAhead = none) →
      s.readyFor n = some f → s.powered f.domain = true →
      (s.dbg.pass = some s.focus ∨ s.breakpoint f.k.num f.x.num f.p.blk f.i = none) → s.upset = .shadow →
      exec i s = .next (((s.fireFault f 0x10 0 0 0).addScore (clusterUnit (f.k.seatOf f.p)) 64).firingSpent f))
  ∧ ∀ (i : Instr) (n : Needs) (s : State) (f : Fire), needsOf i = some n → (∀ t g, i ≠ .brk t g) →
      (∀ t g, i = .vred t g → f.vredAhead = none) →
      s.readyFor n = some f → s.powered f.domain = true →
      (s.dbg.pass = some s.focus ∨ s.breakpoint f.k.num f.x.num f.p.blk f.i = none) → s.upset = .damaged →
      exec i s = .next (s.raised f 0x0F 0 3 0)

/-! ### Firings -/

/-- A firing that takes place with no further change of its context: memory, and of the context its descriptor, tables, queues,
launches, pins, gates, fault count, flags, committed operations and every other thread are as they were; of every share its bytes,
granules, rings, chimes, stream units, drums, domains and commands (R35, R284: the frame of every instruction whose statement has
no further change). -/
def Obligations.FiringFrame : Prop :=
  ∀ (s : State) (f : Fire) (es : List Em) (flags : BitVec 5) (tm : Tmpl) (xa : Option XArg) (takesB : Bool) (l : Lits),
    s.canFire tm xa takesB l f →
    (s.fired f es flags id).mem = s.mem
    ∧ ∃ k j : Ctx, s.ctx s.focus.ctx = some k ∧ (s.fired f es flags id).ctx s.focus.ctx = some j
      ∧ j.num = k.num ∧ j.desc = k.desc ∧ j.state = k.state ∧ j.flt = k.flt ∧ j.fpflags = k.fpflags ∧ j.sel = k.sel
      ∧ j.gen = k.gen ∧ j.dreg = k.dreg ∧ j.pmap = k.pmap ∧ j.pins = k.pins ∧ j.binds = k.binds ∧ j.ksel = k.ksel
      ∧ j.logs = k.logs ∧ j.energy = k.energy ∧ j.pq = k.pq ∧ j.events = k.events ∧ j.heldRecs = k.heldRecs
      ∧ j.launches = k.launches ∧ j.committed = k.committed ∧ j.vreds = k.vreds ∧ j.arrs = k.arrs
      ∧ j.gate = k.gate ∧ j.halted = k.halted ∧ j.spilled = k.spilled
      ∧ (∀ t, t ≠ f.x.num → j.th t = k.th t)
      ∧ ∀ l, (j.share l).bytes = (k.share l).bytes ∧ (j.share l).grans = (k.share l).grans
        ∧ (j.share l).engine = (k.share l).engine ∧ (j.share l).rings = (k.share l).rings
        ∧ (j.share l).chime = (k.share l).chime ∧ (j.share l).agens = (k.share l).agens
        ∧ (j.share l).drums = (k.share l).drums ∧ (j.share l).doms = (k.share l).doms
        ∧ (j.share l).cmds = (k.share l).cmds

/-- A precise fault at a firing of a thread whose earlier fault, if it has one, is not delivered: the faulting wave and every
younger one of the thread is dropped with its tokens, older waves stay, memory is as it was, and the thread holds the fault, not
yet delivered, with its record: code, origin, thread, wave, launch, block, slot, template, address and detail (R35, R38, R212,
R213, R286). -/
def Obligations.FaultDropsItsWave : Prop :=
  ∀ (s : State) (f : Fire) (cause origin : BitVec 8) (detail : BitVec 24) (faddr : BitVec 64) (tm : Tmpl) (xa : Option XArg)
    (takesB : Bool) (l : Lits), s.canFire tm xa takesB l f → f.x.isDropped f.live = false → f.x.delivered = false →
    (s.raised f cause origin detail faddr).mem = s.mem
    ∧ ∃ (k : Ctx) (y : Thread) (r : FaultRec), (s.raised f cause origin detail faddr).ctx s.focus.ctx = some k
      ∧ k.th f.x.num = some y ∧ y.fault = some r ∧ y.delivered = false
      ∧ r.cause = cause ∧ r.origin = origin ∧ r.detail = detail ∧ r.faddr = faddr ∧ r.thread = f.x.num ∧ r.wave = f.live
      ∧ r.launch = f.x.ln ∧ r.block = f.p.blk ∧ r.slot = BitVec.ofNat 8 f.i
      ∧ r.template = ((f.p.slots[f.i]?).getD default).tmpl
      ∧ (∀ v ∈ y.waves, notOlder f.live v.num = false)
      ∧ (∀ v ∈ f.x.waves, notOlder f.live v.num = false → ∃ u ∈ y.waves, u.num = v.num)
      ∧ ∀ a ∈ k.tokens, a.tok.thread = f.x.num → notOlder f.live a.tok.wave = true → a.held = true

/-! ### Token and control instructions (11 R287 to R303) -/

/-- The steering group (R288): MOV, GATE, FORK pass A everywhere; STEER passes A to dest1 or dest2 by B; FILTER passes A or
nothing by B; SEL passes B or C by A; SINK passes nothing. -/
def Obligations.SteeringResults : Prop :=
  (∀ t l, completes (.mov t l) t none false (litL l) (fun _ _ => True)
      (fun _ f => [f.pass f.all f.q.a f.q.ta f.outWave]) (fun _ => 0) fun _ => id)
  ∧ (∀ t l, completes (.gate t l) t none true (litL l) (fun _ _ => True)
      (fun _ f => [f.pass f.all f.q.a f.q.ta f.outWave]) (fun _ => 0) fun _ => id)
  ∧ (∀ t l xa, completes (.fork t l xa) t (some xa) true (litL l) (fun _ _ => True)
      (fun _ f => [f.pass f.all f.q.a f.q.ta f.outWave]) (fun _ => 0) fun _ => id)
  ∧ (∀ t l, completes (.steer t l) t none true (litL l) (fun _ f => lo64 f.q.b ≠ 0)
      (fun _ f => [f.pass [dest1 f.t f.i] f.q.a f.q.ta f.outWave]) (fun _ => 0) fun _ => id)
  ∧ (∀ t l, completes (.steer t l) t none true (litL l) (fun _ f => lo64 f.q.b = 0)
      (fun _ f => [f.pass [dest2 f.t f.i] f.q.a f.q.ta f.outWave]) (fun _ => 0) fun _ => id)
  ∧ (∀ t l, completes (.filter t l) t none true (litL l) (fun _ f => lo64 f.q.b ≠ 0)
      (fun _ f => [f.pass f.all f.q.a f.q.ta f.outWave]) (fun _ => 0) fun _ => id)
  ∧ (∀ t l, completes (.filter t l) t none true (litL l) (fun _ f => lo64 f.q.b = 0) (fun _ _ => []) (fun _ => 0) fun _ => id)
  ∧ (∀ t l xa, completes (.sel t l xa) t (some xa) true (litL l) (fun _ f => lo64 f.q.a ≠ 0)
      (fun _ f => [f.pass f.all f.q.b f.q.tb f.outWave]) (fun _ => 0) fun _ => id)
  ∧ (∀ t l xa, completes (.sel t l xa) t (some xa) true (litL l) (fun _ f => lo64 f.q.a = 0)
      (fun _ f => [f.pass f.all f.q.c f.q.tc f.outWave]) (fun _ => 0) fun _ => id)
  ∧ ∀ t l, completes (.sink t l) t none false (litL l) (fun _ _ => True) (fun _ _ => []) (fun _ => 0) fun _ => id

/-- WADV sends A into the next wave; WRD and TRD give the firing's wave and thread; SEQT sends A with SEQ and the sequence tag
of B. WSET sends A into wave B[23:0] when it lies less than 2^23 ahead, and the numbers between are skipped from then on; a
target behind raises WAVE-ORDER, detail 2 (R290, R291, R292, R296). -/
def Obligations.WaveAndTagResults : Prop :=
  (∀ t l, completes (.wadv t l) t none false (litL l) (fun _ _ => True)
      (fun _ f => [f.pass f.all f.q.a f.q.ta (f.w + 1)]) (fun _ => 0) fun _ => id)
  ∧ (∀ t l, computes (.wrd t l) t none false (litL l) fun f => f.w.zeroExtend 128)
  ∧ (∀ t l, computes (.trd t l) t none false (litL l) fun f => f.x.num.zeroExtend 128)
  ∧ (∀ t l, completes (.seqt t l) t none true (litL l) (fun _ _ => True)
      (fun _ f => [{ f.pass f.all f.q.a f.q.ta f.outWave with seq := true, seqTag := f.q.b.extractLsb' 0 24 }]) (fun _ => 0) fun _ => id)
  ∧ (∀ t l s f, s.canFire t none true (litL l) f → (f.q.b.extractLsb' 0 24 - f.w).toNat < 2 ^ 23 →
    f.opens [f.pass f.all f.q.a f.q.ta (f.q.b.extractLsb' 0 24)] →
    ∃ g, exec (.wset t l) s = .next (s.fired f [f.pass f.all f.q.a f.q.ta (f.q.b.extractLsb' 0 24)] 0 g)
      ∧ (2 ≤ (f.q.b.extractLsb' 0 24 - f.w).toNat → (∃ d ∈ f.all, d ≠ .none) →
          ∀ k x, k.th f.x.num = some x → ∃ y, (g k).th f.x.num = some y
            ∧ ∀ w : WaveId, 0 < (w - f.w).toNat → (w - f.w).toNat < (f.q.b.extractLsb' 0 24 - f.w).toNat → y.skippedNo w = true))
  ∧ ∀ t l, faults (.wset t l) t none true (litL l) (fun _ f => 2 ^ 23 ≤ (f.q.b.extractLsb' 0 24 - f.w).toNat) 0x0C 0
      (fun _ => 2) fun _ => 0

/-- SWITCH sends B through port BASE + A when A is below LEN, else through DEFPORT when DEF is 1, else it raises SWITCH-RANGE
with the index's low 24 bits (R298). -/
def Obligations.SwitchRoutes : Prop :=
  (∀ t m, completes (.switch t m) t none true noLits (fun _ f => (lo64 f.q.a).toNat < m.len.toNat)
      (fun _ f => [f.pass [.port (m.base.toNat + (lo64 f.q.a).toNat)] f.q.b f.q.tb f.outWave]) (fun _ => 0) fun _ => id)
  ∧ (∀ t m, completes (.switch t m) t none true noLits (fun _ f => m.len.toNat ≤ (lo64 f.q.a).toNat ∧ m.deflt = true)
      (fun _ f => [f.pass [.port m.defport.toNat] f.q.b f.q.tb f.outWave]) (fun _ => 0) fun _ => id)
  ∧ ∀ t m, faults (.switch t m) t none true noLits (fun _ f => m.len.toNat ≤ (lo64 f.q.a).toNat ∧ m.deflt = false) 0x05 0
      (fun f => f.q.a.extractLsb' 0 24) fun _ => 0

/-- BJUMP, CALL and RET deliver B, and CALL a return word of the calling block and port, into the wave after the firing's, at
the block an address of the kernel image names; an address or port that names nothing raises BAD-TARGET with the address
operand (R299 to R302), once the image's header and directory can be reached (16 R441 to R443). -/
def Obligations.TransfersByAddress : Prop :=
  (∀ t l, completes (.bjump t l) t none true (litL l)
      (fun s f => s.launchImageWaits f.k f.x.ln = false ∧ s.blockTarget f.k f.x.ln (lo64 f.q.a) 0 = .ok true)
      (fun _ f => [f.pass [.block (lo64 f.q.a) 0] f.q.b f.q.tb (f.w + 1)]) (fun _ => 0) fun _ => id)
  ∧ (∀ t l, completes (.call t l) t none true noLits
      (fun s f => s.launchImageWaits f.k f.x.ln = false ∧ s.blockTarget f.k f.x.ln (lo64 f.q.a) 1 = .ok true)
      (fun _ f => [f.pass [.block (lo64 f.q.a) 0] f.q.b f.q.tb (f.w + 1),
        Em.plain [.block (lo64 f.q.a) 1] (scalar ((f.p.blk.extractLsb' 4 52 ++ l.word.extractLsb' 0 4).zeroExtend 64)) (f.w + 1)])
      (fun _ => 0) fun _ => id)
  ∧ (∀ t l, completes (.ret t l) t none true (litL l)
      (fun s f => f.q.a.extractLsb' 56 72 = 0 ∧ s.launchImageWaits f.k f.x.ln = false ∧
        s.blockTarget f.k f.x.ln ((f.q.a.extractLsb' 4 52 ++ (0 : BitVec 4)).zeroExtend 64) (f.q.a.extractLsb' 0 4).toNat = .ok true)
      (fun _ f => [f.pass [.block ((f.q.a.extractLsb' 4 52 ++ (0 : BitVec 4)).zeroExtend 64) (f.q.a.extractLsb' 0 4).toNat]
        f.q.b f.q.tb (f.w + 1)]) (fun _ => 0) fun _ => id)
  ∧ (∀ t l, faults (.bjump t l) t none true (litL l)
      (fun s f => s.launchImageWaits f.k f.x.ln = false ∧ s.blockTarget f.k f.x.ln (lo64 f.q.a) 0 = .ok false) 0x04 0
      (fun _ => 0) fun f => lo64 f.q.a)
  ∧ (∀ t l, faults (.call t l) t none true noLits
      (fun s f => s.launchImageWaits f.k f.x.ln = false ∧ s.blockTarget f.k f.x.ln (lo64 f.q.a) 1 = .ok false) 0x04 0
      (fun _ => 0) fun f => lo64 f.q.a)
  ∧ (∀ t l, faults (.ret t l) t none true (litL l) (fun _ f => f.q.a.extractLsb' 56 72 ≠ 0) 0x04 0 (fun _ => 0) fun f => lo64 f.q.a)
  ∧ ∀ t l, faults (.ret t l) t none true (litL l)
      (fun s f => f.q.a.extractLsb' 56 72 = 0 ∧ s.launchImageWaits f.k f.x.ln = false ∧
        s.blockTarget f.k f.x.ln ((f.q.a.extractLsb' 4 52 ++ (0 : BitVec 4)).zeroExtend 64) (f.q.a.extractLsb' 0 4).toNat = .ok false)
      0x04 0 (fun _ => 0) fun f => lo64 f.q.a

/-- TRAP raises SOFTWARE with IMM16 as its detail and A as its address when A is true, and passes A when it is false (R303). -/
def Obligations.TrapResults : Prop :=
  (∀ t g, completes (.trap t g) t none false noLits (fun _ f => lo64 f.q.a = 0)
      (fun _ f => [f.pass f.all f.q.a f.q.ta f.outWave]) (fun _ => 0) fun _ => id)
  ∧ ∀ t g, faults (.trap t g) t none false noLits (fun _ f => lo64 f.q.a ≠ 0) 0x0E 0 (fun _ => g.imm.zeroExtend 24)
      fun f => lo64 f.q.a

/-- TNEW with a good entry word is held until its wave commits; an entry word that its probe refuses raises that fault at the
firing, its address B (log entry 132); TEND marks its wave as the thread's end and sets STATE to 3 at once (R293, R294, R295). -/
def Obligations.ThreadInstructionsAreHeld : Prop :=
  (∀ t l, completes (.tnew t l) t none true (litL l)
      (fun s f => s.launchImageWaits f.k f.x.ln = false ∧ s.entryWordFail f (lo64 f.q.b) = none)
      (fun _ _ => []) (fun _ => 0) fun f => f.defer (f.deferred .tnew default 0 0 []))
  ∧ (∀ t l c d, faults (.tnew t l) t none true (litL l)
      (fun s f => s.launchImageWaits f.k f.x.ln = false ∧ s.entryWordFail f (lo64 f.q.b) = some ⟨c, d⟩) c 2 (fun _ => d)
      fun f => lo64 f.q.b)
  ∧ ∀ t l s f, s.canFire t none false (litL l) f → ∃ g, exec (.tend t l) s = .next (s.fired f [] 0 g)
      ∧ ∀ k x, k.th f.x.num = some x → ∃ y, (g k).th f.x.num = some y ∧ y.state = 3
        ∧ ∀ v, x.wv f.live = some v → y.wv f.live = some { v with tend := true }

/-! ### Integer and address instructions (11 R304 to R315) -/

/-- ADD, SUB, NEG, MIN, MAX, MINN and MAXN on bits 63:0, modulo 2^64, signed or unsigned as the table says (R304, R305). -/
def Obligations.IntegerArithmetic : Prop :=
  computesTwo .add (fun _ a b => a + b) ∧ computesTwo .sub (fun _ a b => a - b) ∧ computesOne .neg (fun _ a => 0 - a)
  ∧ computesTwo .min (fun _ a b => BitVec.ofInt 64 (min a.toInt b.toInt))
  ∧ computesTwo .max (fun _ a b => BitVec.ofInt 64 (max a.toInt b.toInt))
  ∧ computesTwo .minn (fun _ a b => BitVec.ofNat 64 (min a.toNat b.toNat))
  ∧ computesTwo .maxn (fun _ a b => BitVec.ofNat 64 (max a.toNat b.toNat))

/-- MULH and MULHN give bits 127:64 of the exact signed and unsigned products, MUL the low 64 bits, MAD the low 64 bits of the
exact product plus C (R306). -/
def Obligations.IntegerProducts : Prop :=
  computesTwo .mulh (fun _ a b => (a.signExtend 128 * b.signExtend 128).extractLsb' 64 64)
  ∧ computesTwo .mulhn (fun _ a b => (a.zeroExtend 128 * b.zeroExtend 128).extractLsb' 64 64)
  ∧ computesTwo .mul (fun _ a b => BitVec.ofInt 64 (a.toInt * b.toInt))
  ∧ computesTwo .mul (fun _ a b => BitVec.ofNat 64 (a.toNat * b.toNat))
  ∧ computesThree .mad (fun a b c => BitVec.ofInt 64 (a.toInt * b.toInt + c.toInt))
  ∧ computesThree .mad (fun a b c => BitVec.ofNat 64 (a.toNat * b.toNat + c.toNat))

/-- Division by R307: truncation toward zero, the remainder from the quotient, the two corners, and the sign of the
remainder. -/
def Obligations.IntegerDivision : Prop :=
  ∃ quot rem quotn remn : BitVec 64 → BitVec 64 → BitVec 64,
    computesTwo .div (fun _ => quot) ∧ computesTwo .rem (fun _ => rem)
    ∧ computesTwo .divn (fun _ => quotn) ∧ computesTwo .remn (fun _ => remn)
    ∧ (∀ a, quot a 0 = BitVec.allOnes 64 ∧ rem a 0 = a ∧ quotn a 0 = BitVec.allOnes 64 ∧ remn a 0 = a)
    ∧ (∀ a b, b ≠ 0 → quot a b = BitVec.ofInt 64 (a.toInt.tdiv b.toInt) ∧ quotn a b = BitVec.ofNat 64 (a.toNat / b.toNat))
    ∧ quot (BitVec.intMin 64) (BitVec.allOnes 64) = BitVec.intMin 64 ∧ rem (BitVec.intMin 64) (BitVec.allOnes 64) = 0
    ∧ (∀ a b, b ≠ 0 → a = quot a b * b + rem a b ∧ a = quotn a b * b + remn a b)
    ∧ ∀ a b, b ≠ 0 → (0 ≤ a.toInt → 0 ≤ (rem a b).toInt) ∧ (a.toInt ≤ 0 → (rem a b).toInt ≤ 0)

/-- The saturating and selecting forms of R308. -/
def Obligations.IntegerSaturation : Prop :=
  computesOne .neg (fun _ a => BitVec.ofInt 64 (-a.toInt))
  ∧ computesOne .abs (fun _ a => BitVec.ofInt 64 a.toInt.natAbs)
  ∧ computesTwo .addsat (fun _ a b => BitVec.ofInt 64 (max (-(2 ^ 63)) (min (2 ^ 63 - 1) (a.toInt + b.toInt))))
  ∧ computesTwo .subsat (fun _ a b => BitVec.ofInt 64 (max (-(2 ^ 63)) (min (2 ^ 63 - 1) (a.toInt - b.toInt))))
  ∧ computesThree .clamp (fun a b c => BitVec.ofInt 64 (min (max a.toInt b.toInt) c.toInt))
  ∧ BitVec.ofInt 64 (-(BitVec.intMin 64).toInt) = BitVec.intMin 64
  ∧ BitVec.ofInt 64 (BitVec.intMin 64).toInt.natAbs = BitVec.intMin 64

/-- AND, OR, XOR, ANDN and NOT act on all 128 bits; a literal operand has bits 127:64 zero (R309). -/
def Obligations.BitwiseResults : Prop :=
  computesWide .and (· &&& ·) ∧ computesWide .or (· ||| ·) ∧ computesWide .xor (· ^^^ ·)
  ∧ computesWide .andn (fun a b => a &&& ~~~b)
  ∧ (∀ t g, computes (.not t g) t none false (litG g) fun f => ~~~f.q.a)
  ∧ ∀ g, (litG g).a.extractLsb' 64 64 = 0 ∧ (litG g).b.extractLsb' 64 64 = 0

/-- Shifts and rotates by the whole of B's bits 63:0 (R310). -/
def Obligations.ShiftResults : Prop :=
  computesTwo .shl (fun _ a b => if 64 ≤ b.toNat then 0 else a <<< b.toNat)
  ∧ computesTwo .shr (fun _ a b => if 64 ≤ b.toNat then 0 else a >>> b.toNat)
  ∧ computesTwo .sra (fun _ a b => if 64 ≤ b.toNat then (if a.getLsbD 63 then BitVec.allOnes 64 else 0) else a.sshiftRight b.toNat)
  ∧ computesTwo .rot (fun _ a b => a.rotateLeft (b.toNat % 64))

/-- CLZ and CTZ count the zero bits above the highest and below the lowest 1, and give 64 for 0; POPC counts the 1 bits; BREV
reverses (R311). -/
def Obligations.BitCounts : Prop :=
  computesOne .clz (fun _ a => BitVec.ofNat 64 ((List.range 64).takeWhile fun i => !a.getLsbD (63 - i)).length)
  ∧ computesOne .ctz (fun _ a => BitVec.ofNat 64 ((List.range 64).takeWhile fun i => !a.getLsbD i).length)
  ∧ computesOne .popc (fun _ a => BitVec.ofNat 64 ((List.range 64).filter fun i => a.getLsbD i).length)
  ∧ ∃ rev : BitVec 64 → BitVec 64, computesOne .brev (fun _ => rev) ∧ ∀ a i, i < 64 → (rev a).getLsbD i = a.getLsbD (63 - i)

/-- Bit fields: BFX takes len bits of A from pos; BFI puts the low len bits of A into C at pos; pos is B[5:0], len the lesser
of B[14:8] and 64 − pos (R312). SEXT and ZEXT extend from n = B[6:0] bits: 0 for n = 0, A for n of 64 or more (R313). -/
def Obligations.BitFieldsAndExtensions : Prop :=
  (∃ (bfx : BitVec 64 → BitVec 64 → BitVec 64) (bfi : BitVec 64 → BitVec 64 → BitVec 64 → BitVec 64),
    computesTwo .bfx (fun _ => bfx) ∧ computesThree .bfi bfi
    ∧ ∀ a b c, ∀ pos len, pos = (b.extractLsb' 0 6).toNat → len = min (b.extractLsb' 8 7).toNat (64 - pos) → ∀ i, i < 64 →
        (bfx a b).getLsbD i = (decide (i < len) && a.getLsbD (pos + i))
        ∧ (bfi a b c).getLsbD i = if pos ≤ i ∧ i < pos + len then a.getLsbD (i - pos) else c.getLsbD i)
  ∧ ∃ sext zext : BitVec 64 → BitVec 64 → BitVec 64,
    computesTwo .sext (fun _ => sext) ∧ computesTwo .zext (fun _ => zext)
    ∧ ∀ a b n, n = (b.extractLsb' 0 7).toNat →
        (n = 0 → sext a b = 0 ∧ zext a b = 0) ∧ (64 ≤ n → sext a b = a ∧ zext a b = a)
        ∧ (0 < n → n < 64 → ∀ i, i < 64 →
            (sext a b).getLsbD i = a.getLsbD (if i < n then i else n - 1) ∧ (zext a b).getLsbD i = (decide (i < n) && a.getLsbD i))

/-- LEA adds B scaled by 2 to the power IMM16[2:0]; its slot is refused with IMM16[15:3] not zero, or with a literal select
(R314). -/
def Obligations.LeaResult : Prop :=
  computesTwo .lea (fun g a b => BitVec.ofNat 64 (a.toNat + b.toNat * 2 ^ (g.imm.extractLsb' 0 3).toNat))
  ∧ (∀ t side e, t.sa = .tok → t.sb = .tok → t.act = .pass → side.extractLsb' 16 16 = 0#16 → side.extractLsb' 3 13 ≠ 0#13 →
      ∃ b, checkSlot 0x3C t side none e = some (.reserved 1 b))
  ∧ ∀ t side e, t.act = .pass → (t.sa = .lit ∨ t.sb = .lit) → ∃ b, checkSlot 0x3C t side none e = some (.reserved 2 b)

/-- CMP gives 1 or 0 by the condition in side word [27:24], codes 0 to 9 (R315). -/
def Obligations.CompareResult : Prop :=
  ∃ holds : Nat → BitVec 64 → BitVec 64 → Bool,
    computesTwo .cmp (fun g a b => if holds (g.rm ++ BitVec.ofBool g.sat).toNat a b then 1 else 0)
    ∧ ∀ a b, holds 0 a b = decide (a = b) ∧ holds 1 a b = decide (a ≠ b)
      ∧ holds 2 a b = decide (a.toInt < b.toInt) ∧ holds 3 a b = decide (a.toInt ≤ b.toInt)
      ∧ holds 4 a b = decide (a.toInt > b.toInt) ∧ holds 5 a b = decide (a.toInt ≥ b.toInt)
      ∧ holds 6 a b = decide (a.toNat < b.toNat) ∧ holds 7 a b = decide (a.toNat ≤ b.toNat)
      ∧ holds 8 a b = decide (a.toNat > b.toNat) ∧ holds 9 a b = decide (a.toNat ≥ b.toNat)

/-! ### Vector instructions (12) -/

/-- Every bit of a result formed element by element: A's in the 32-bit lanes that the lane mask names, else the operation's, of the
element the bit lies in; the flags are those of the elements that do not lie in masked lanes as a whole (R319). -/
def Obligations.VectorLanes : Prop :=
  ∀ (w : Nat) (lmask : BitVec 4) (a : Value) (op : Nat → Nat × FpFlags), w ∈ [8, 16, 32, 64] →
    (∀ p, p < 128 → (buildV w lmask a op).1.getLsbD p
      = if lmask.getLsbD (p / 32) then a.getLsbD p else (op (p / w)).1.testBit (p % w))
    ∧ ∀ j : Nat, (buildV w lmask a op).2.getLsbD j
        = (List.range (128 / w)).any fun i =>
            !(lmask.getLsbD (w * i / 32) && lmask.getLsbD ((w * i + w - 1) / 32)) && (op i).2.getLsbD j

/-- Every floating, comparing, converting and block-format vector instruction takes place at every firing that stands ready and
whose emission nothing holds: it sends one value, computed from its operands and its side word, to every destination, and adds its
flags to those of its wave (R285, R317, R319). The narrowing conversions, and VQUANT but in its XB mode, take an operand B; VSCALE
takes its literal B as an integer. -/
def Obligations.VectorFloatingInstructionsComplete : Prop :=
  vectorTwo .vadd (fun _ => true) (fun _ => false) (fun g a b => map2 g a b (vAddE g))
  ∧ vectorTwo .vsub (fun _ => true) (fun _ => false) (fun g a b => map2 g a b (vSubE g))
  ∧ vectorTwo .vmul (fun _ => true) (fun _ => false) (fun g a b => map2 g a b (vMulE g))
  ∧ vectorTwo .vdiv (fun _ => true) (fun _ => false) (fun g a b => map2 g a b (vDivE g))
  ∧ vectorThree .vfma (fun g a b c => map3 g a b c (vFusedE g false false))
  ∧ vectorThree .vfms (fun g a b c => map3 g a b c (vFusedE g false true))
  ∧ vectorThree .vfnma (fun g a b c => map3 g a b c (vFusedE g true false))
  ∧ vectorThree .vfnms (fun g a b c => map3 g a b c (vFusedE g true true))
  ∧ vectorTwo .vmin (fun _ => true) (fun _ => false) (fun g a b => map2 g a b (minMaxF (gFmt g) false))
  ∧ vectorTwo .vmax (fun _ => true) (fun _ => false) (fun g a b => map2 g a b (minMaxF (gFmt g) true))
  ∧ vectorTwo .vcmp (fun _ => true) (fun _ => false) (fun g a b => map2 g a b (vCmpE g))
  ∧ vectorTwo .vscale (fun _ => true) (fun _ => true)
      (fun g a b => map2 g a b fun x y => scaleBy (gFmt g) (gRm g) g.sat x (signed (tyWidth g.ty.toNat) y))
  ∧ vectorTwo .vdot (fun _ => true) (fun _ => false) vDotV
  ∧ vectorThree .vsel (fun g a b c => map3 g a b c fun x y z => (if x ≠ 0 then y else z, 0))
  ∧ vectorTwo .vcpys (fun _ => true) (fun _ => false) (fun g a b => map2 g a b fun x y => signedE g x (negBit g y))
  ∧ vectorOne .vsqrt (fun g a => map1 g a (vSqrtE g)) ∧ vectorOne .vrsqe (fun g a => map1 g a (rsqrtEst (gFmt g)))
  ∧ vectorOne .vrcpe (fun g a => map1 g a (recipEst (gFmt g))) ∧ vectorOne .vexpe (fun g a => map1 g a (expEst (gFmt g)))
  ∧ vectorOne .vloge (fun g a => map1 g a (logEst (gFmt g)))
  ∧ vectorOne .vround (fun g a => map1 g a (roundIntegral (gFmt g) (gRm g) (g.imm.getLsbD 0)))
  ∧ vectorOne .vhadd vHaddV ∧ vectorOne .vhmax (fun g => vHextV g true) ∧ vectorOne .vhmin (fun g => vHextV g false)
  ∧ vectorOne .vclass (fun g a => map1 g a fun x => (classify (gFmt g) x, 0))
  ∧ vectorOne .vabs (fun g a => map1 g a fun x => signedE g x false)
  ∧ vectorOne .vneg (fun g a => map1 g a fun x => signedE g x !(negBit g x))
  ∧ vectorOne .vbcast bcastV
  ∧ vectorTwo .vdeq (fun _ => true) (fun _ => false) deqV
  ∧ vectorTwo .vcvt narrows (fun _ => false) convertV ∧ vectorTwo .vcvti narrows (fun _ => false) convertV
  ∧ vectorTwo .vcvtf narrows (fun _ => false) convertV ∧ vectorTwo .vnarrow narrows (fun _ => false) convertV
  ∧ vectorTwo .vquant (fun g => g.imm.extractLsb' 2 2 != 2) (fun _ => false) quantV

/-- What those values are. Sums and products commute; a difference is the sum with B's sign turned; the fused family is VFMA with
the signs of A and of C turned; a NaN operand gives the canonical NaN; ∞ − ∞, 0 × ∞, 0 / 0, ∞ / ∞ and the root of a negative number
are NaN and raise NV, and a finite number over 0 is ∞ and raises DZ; the roots of −0 and +∞ are themselves; VMIN and VMAX pass a
number by a NaN; VCMP holds NE alone against a NaN; VSCALE and VROUND leave zeros and infinities; VCLASS sets one bit of ten
(R320 to R330). VCPYS, VABS and VNEG change the sign of an element that is no NaN, VBCAST gives one element to all, and VHADD
adds all elements of an integer type into element 0, element by element (R325, R334, R335). The worked examples of R322, R332 and
R340. -/
def Obligations.VectorFloatingLaws : Prop :=
  (∀ g a b, vAddE g a b = vAddE g b a ∧ vMulE g a b = vMulE g b a)
  ∧ (∀ g a b, b < 2 ^ (gFmt g).w → (decF g b).isNan = false → vSubE g a b = vAddE g a (b ^^^ 2 ^ ((gFmt g).w - 1)))
  ∧ (∀ g a b c, c < 2 ^ (gFmt g).w → (decF g c).isNan = false → ∀ n,
      vFusedE g n true a b c = vFusedE g n false a b (c ^^^ 2 ^ ((gFmt g).w - 1)))
  ∧ (∀ g a b c, a < 2 ^ (gFmt g).w → (decF g a).isNan = false → ∀ n,
      vFusedE g true n a b c = vFusedE g false n (a ^^^ 2 ^ ((gFmt g).w - 1)) b c)
  ∧ (∀ g a b c n m, (decF g a).isNan = true ∨ (decF g b).isNan = true →
      (vAddE g a b).1 = (gFmt g).nanBits ∧ (vSubE g a b).1 = (gFmt g).nanBits ∧ (vMulE g a b).1 = (gFmt g).nanBits
      ∧ (vDivE g a b).1 = (gFmt g).nanBits ∧ (vFusedE g n m a b c).1 = (gFmt g).nanBits
      ∧ (vFusedE g n m c a b).1 = (gFmt g).nanBits)
  ∧ (∀ g a b p q, decF g a = .inf p → decF g b = .inf q →
      (p ≠ q → vAddE g a b = ((gFmt g).nanBits, fNV)) ∧ (p = q → vSubE g a b = ((gFmt g).nanBits, fNV))
      ∧ vDivE g a b = ((gFmt g).nanBits, fNV))
  ∧ (∀ g a b p q e, decF g a = .inf p → decF g b = .fin q 0 e →
      vMulE g a b = ((gFmt g).nanBits, fNV) ∧ ∀ n m c, vFusedE g n m a b c = ((gFmt g).nanBits, fNV))
  ∧ (∀ g a b p m e q d, decF g a = .fin p m e → decF g b = .fin q 0 d →
      (m = 0 → vDivE g a b = ((gFmt g).nanBits, fNV))
      ∧ (m ≠ 0 → (gFmt g).hasInf = true → vDivE g a b
          = ((if p ≠ q then 2 ^ ((gFmt g).w - 1) else 0) + (if g.sat then (gFmt g).maxBits else (gFmt g).infBits), fDZ)))
  ∧ (∀ g a p m e, decF g a = .fin p m e →
      (m = 0 → vSqrtE g a = (if p then 2 ^ ((gFmt g).w - 1) else 0, 0))
      ∧ (m ≠ 0 → p = true → vSqrtE g a = ((gFmt g).nanBits, fNV)))
  ∧ (∀ g a p, decF g a = .inf p → (gFmt g).hasInf = true → g.sat = false →
      vSqrtE g a = if p then ((gFmt g).nanBits, fNV) else ((gFmt g).infBits, 0))
  ∧ (∀ f most a b, ((decodeF f a).isNan = true → (decodeF f b).isNan = false → (minMaxF f most a b).1 = b)
      ∧ ((decodeF f a).isNan = false → (decodeF f b).isNan = true → (minMaxF f most a b).1 = a)
      ∧ ((decodeF f a).isNan = true → (decodeF f b).isNan = true → (minMaxF f most a b).1 = f.nanBits))
  ∧ (∀ g a b, floatTy g → (decF g a).isNan = true ∨ (decF g b).isNan = true →
      (vCmpE g a b).1 = if condOf g = 1 then 2 ^ tyWidth g.ty.toNat - 1 else 0)
  ∧ (∀ f rm sat x v k, ((decodeF f v).isInf = true ∨ (decodeF f v).isZero = true) →
      scaleBy f rm sat v k = (v, 0) ∧ roundIntegral f rm x v = (v, 0))
  ∧ (∀ f v, ∃ n, n < 10 ∧ classify f v = 2 ^ n)
  ∧ lanesBy floatTy (fun g a b => map2 g a b fun x y => signedE g x (negBit g y)) (fun g a b i =>
      if (decF g (laneOf g a i)).isNan then (gFmt g).nanBits
      else laneOf g a i % 2 ^ (tyWidth g.ty.toNat - 1) + laneOf g b i / 2 ^ (tyWidth g.ty.toNat - 1) * 2 ^ (tyWidth g.ty.toNat - 1))
  ∧ lanesBy floatTy (fun g a _ => map1 g a fun x => signedE g x false) (fun g a _ i =>
      if (decF g (laneOf g a i)).isNan then (gFmt g).nanBits else laneOf g a i % 2 ^ (tyWidth g.ty.toNat - 1))
  ∧ lanesBy floatTy (fun g a _ => map1 g a fun x => signedE g x !(negBit g x)) (fun g a _ i =>
      if (decF g (laneOf g a i)).isNan then (gFmt g).nanBits else laneOf g a i ^^^ 2 ^ (tyWidth g.ty.toNat - 1))
  ∧ lanesBy (fun g => g.imm.toNat < 128 / tyWidth g.ty.toNat) (fun g a _ => bcastV g a) (fun g a _ _ => laneOf g a g.imm.toNat)
  ∧ (∀ g a, intTy g → (vHaddV g a).2 = 0 ∧ ∀ i, i < 128 / tyWidth g.ty.toNat → laneOf g (vHaddV g a).1 i
      = if i = 0 then fitsTy g ((List.range (128 / tyWidth g.ty.toNat)).map (laneInt g a)).sum else 0)
  ∧ (∀ g, g.ty = 0 → g.rm = 0 → g.sat = false →
      vFusedE g false false 0x3F800001 0x3F7FFFFE 0xBF800000 = (0xA8800000, 0)
      ∧ vMulE g 0x3F800001 0x3F7FFFFE = (0x3F800000, fNX))
  ∧ (∀ g, g.ty = 0 → g.rm = 0 → g.sat = true → g.lmask = 0 → g.imm = 0x2B →
      convertV g 0x43EB0000BEC00000406000003F800000 0 = (0x7EAC46380000000000000000, fNX ||| fOF))
  ∧ ∀ g, g.ty = 0 → g.rm = 0 → g.sat = false →
      (g.imm = 0x0002 → quantV g 0x000000003F000000BFA0000040400000 0 = (202, 0))
      ∧ (g.imm = 0x000A → ∀ b, quantV g 202 b = (0x7E, 0))
      ∧ (g.imm = 0x0006 → quantV g 0x000000003F000000BFA0000040400000 202 = (0x01E6, fNX))
      ∧ (g.imm = 0x0002 → deqV g 0x01E6 0x7E = (0x000000003F000000BF80000040400000, 0))

/-- The integer and lane instructions, element by element, in the signedness of the type, with wrapping or clamping, and with no
flag (R335, R336, R337, R338). -/
def Obligations.VectorIntegerResults : Prop :=
  laneTwo .viadd intTy (fun g a b i => fitsTy g (laneInt g a i + laneInt g b i))
  ∧ laneTwo .visub intTy (fun g a b i => fitsTy g (laneInt g a i - laneInt g b i))
  ∧ laneTwo .vimul intTy (fun g a b i => fitsTy g (laneInt g a i * laneInt g b i))
  ∧ laneTwo .vimin intTy (fun g a b i => if laneInt g a i ≤ laneInt g b i then laneOf g a i else laneOf g b i)
  ∧ laneTwo .vimax intTy (fun g a b i => if laneInt g b i ≤ laneInt g a i then laneOf g a i else laneOf g b i)
  ∧ laneOne .viabs intTy (fun g a i => fitsTy g ((laneInt g a i).natAbs : Int))
  ∧ laneTwo .vshl intTy (fun g a b i =>
      if g.sat = false ∧ tyWidth g.ty.toNat ≤ laneOf g b i then 0 else fitsTy g (laneInt g a i * 2 ^ laneOf g b i))
  ∧ laneTwo .vshr intTy (fun g a b i => if tyWidth g.ty.toNat ≤ laneOf g b i then 0 else laneOf g a i >>> laneOf g b i)
  ∧ laneTwo .vsra intTy (fun g a b i => ((BitVec.ofNat (tyWidth g.ty.toNat) (laneOf g a i)).sshiftRight (laneOf g b i)).toNat)
  ∧ laneTwo .vshuf (fun _ => True) (fun g a b i => if laneOf g b i < 128 / tyWidth g.ty.toNat then laneOf g a (laneOf g b i) else 0)
  ∧ laneTwo .vpack (fun g => g.lmask = 0 ∧ g.imm.toNat ≤ 1) (fun g a b i =>
      laneOf g (if i % 2 = 0 then a else b) (i / 2 + g.imm.toNat * (128 / tyWidth g.ty.toNat / 2)))
  ∧ laneTwo .vunpk (fun g => g.lmask = 0 ∧ g.imm.toNat ≤ 1) (fun g a b i =>
      if i < 128 / tyWidth g.ty.toNat / 2 then laneOf g a (2 * i + g.imm.toNat)
      else laneOf g b (2 * (i - 128 / tyWidth g.ty.toNat / 2) + g.imm.toNat))

/-! ### Ordered reduction (12 R341 to R343) -/

/-- What one addition of VRED leaves in its register: without the end-of-reduction flag the sum with the contribution and NEXT one
up; with it a zero register. The contribution's flags stand with the addition, for the commit of its wave, and it is held no
longer (12 R342, R343). -/
def Sys2Proof.Machine.addsTo (g : FormG) (v u : Vred) (c : Contrib) : Prop :=
  u.sum = (if c.eor then 0 else (vredAdd g v.sum c.value).1) ∧ u.nextSeq = (if c.eor then 0 else v.nextSeq + 1)
  ∧ u.held = v.held.filter (fun d => d.seqTag != c.seqTag)
  ∧ ∃ e, u.log = e :: v.log ∧ e.con = c ∧ e.flags = (vredAdd g v.sum c.value).2

/-- What it emits: the sum, once, in the wave of the youngest contribution, when the contribution ends its reduction (12 R342). -/
def Sys2Proof.Machine.releasesTo (g : FormG) (f : Fire) (v : Vred) (c : Contrib) (es : List Em) : Prop :=
  ∃ y, y = (match v.young with | none => c.wave | some z => younger z c.wave)
    ∧ es = if c.eor then [{ (Em.plain f.all (vredAdd g v.sum c.value).1 (if f.t.act.adds then y + 1 else y)).tagged f.t.act y with
        src := some y }] else []

/-- VRED at a slot with register (SUM, NEXT, held contributions): the contribution whose tag is NEXT is added, at one firing, and
NEXT goes up by 1, or, with the end-of-reduction flag, the sum is emitted once, in the wave of the youngest contribution, and the
register is zero again; one ahead of NEXT is held, without a firing, and added at a firing of its own once its turn has come; a
token without a sequence tag raises RESERVED-FIELD, and one behind NEXT or held already raises WAVE-ORDER, detail 4 (R341, R342,
R343). -/
def Obligations.OrderedReduction : Prop :=
  (∀ (t : Tmpl) (g : FormG) (s : State) (f : Fire) (tok : Token) (v : Vred) (es : List Em), s.canFire t none false (litV g false) f →
    f.q.ta = some tok → f.k.vredAt f.x.num f.p.blk f.i = v → tok.seq = true → tok.seqTag = v.nextSeq →
    (∀ c ∈ v.held, c.seqTag ≠ v.nextSeq) → releasesTo g f v ⟨f.w, tok.seqTag, tok.eor, tok.value, false⟩ es → f.opens es →
    ∃ h : Ctx → Ctx, exec (.vred t g) s = .next (s.fired f es 0 h) ∧ ∀ k : Ctx,
      addsTo g v ((h k).vredAt f.x.num f.p.blk f.i) ⟨f.w, tok.seqTag, tok.eor, tok.value, false⟩)
  ∧ (∀ (t : Tmpl) (g : FormG) (s : State) (f : Fire) (v : Vred) (c : Contrib) (es : List Em),
    s.ready t none false (litV g false) = none → s.vredDue t = some f → s.powered f.domain = true →
    (s.dbg.pass = some s.focus ∨ s.breakpoint f.k.num f.x.num f.p.blk f.i = none) → s.upset = .none →
    f.k.vredAt f.x.num f.p.blk f.i = v → v.dueNow = some c → releasesTo g f v c es → f.opens es →
    ∃ h : Ctx → Ctx, exec (.vred t g) s = .next (s.fired f es 0 h) ∧ ∀ k : Ctx, addsTo g v ((h k).vredAt f.x.num f.p.blk f.i) c)
  ∧ (∀ (t : Tmpl) (g : FormG) (s : State) (f : Fire) (tok : Token) (v : Vred), s.ready t none false (litV g false) = some f →
    f.q.ta = some tok → f.k.vredAt f.x.num f.p.blk f.i = v → tok.seq = true → tok.seqTag ≠ v.nextSeq →
    (tok.seqTag - v.nextSeq).toNat < 2 ^ 23 → (∀ c ∈ v.held, c.seqTag ≠ tok.seqTag) →
    answers (.vred t g) s fun u => u.mem = s.mem ∧ inCtx u s.focus.ctx fun j =>
      (j.vredAt f.x.num f.p.blk f.i).sum = v.sum ∧ (j.vredAt f.x.num f.p.blk f.i).nextSeq = v.nextSeq
      ∧ (j.vredAt f.x.num f.p.blk f.i).held = v.held ++ [⟨f.w, tok.seqTag, tok.eor, tok.value, false⟩])
  ∧ (∀ (t : Tmpl) (g : FormG), faults (.vred t g) t none false (litV g false)
      (fun _ f => ∀ tok, f.q.ta = some tok → tok.seq = false) 0x02 0 (fun _ => 0x040000) fun _ => 0)
  ∧ ∀ (t : Tmpl) (g : FormG), faults (.vred t g) t none false (litV g false)
      (fun _ f => ∃ tok, f.q.ta = some tok ∧ tok.seq = true
        ∧ (2 ^ 23 ≤ (tok.seqTag - (f.k.vredAt f.x.num f.p.blk f.i).nextSeq).toNat
          ∨ ∃ c ∈ (f.k.vredAt f.x.num f.p.blk f.i).held, c.seqTag = tok.seqTag)) 0x0C 0 (fun _ => 4) fun _ => 0

/-! ### Memory instructions: delivery (13 R345 to R349, 15 R397) -/

/-- A form-M firing whose links fit its wave's chain so far hands over its operation, which then stands in its wave, and emits
nothing; a link that repeats an OWN, or breaks the chain, raises WAVE-ORDER (R345, R347, R349). -/
def Obligations.MemoryDelivery : Prop :=
  delivers .ld .ld false ∧ delivers .st .st true ∧ delivers .ldc .ldc false ∧ delivers .stf .stf true
  ∧ delivers .ldi .ldi false ∧ delivers .sti .sti true ∧ delivers .mnop .mnop false ∧ delivers .pref .pref false
  ∧ delivers .fence .fence false ∧ delivers .own .own false ∧ delivers .feq .feq false ∧ delivers .feset .feset true
  ∧ delivers .clean .clean false ∧ delivers .flush .flush false ∧ delivers .invl .invl false
  ∧ delivers .atadd (.atom .add) true ∧ delivers .atand (.atom .and) true ∧ delivers .ator (.atom .or) true
  ∧ delivers .atxor (.atom .xor) true ∧ delivers .atmin (.atom .min) true ∧ delivers .atmax (.atom .max) true
  ∧ delivers .atminn (.atom .minn) true ∧ delivers .atmaxn (.atom .maxn) true ∧ delivers .atxchg (.atom .xchg) true
  ∧ delivers .redadd (.red .add) true ∧ delivers .redmin (.red .min) true ∧ delivers .redmax (.red .max) true
  ∧ delivers .redfadd .redFadd true
  ∧ (∀ t m xa, completes (.atcas t m xa) t (some xa) true noLits (fun _ f => f.joins (.atom .cas) m) (fun _ _ => [])
      (fun _ => 0) fun f => f.handOver (f.deliver (.atom .cas) m))
  ∧ ∀ (f : Fire) (o : MemOp) (k : Ctx) (v : Wave), k.wv f.x.num f.live = some v →
      (f.handOver o k).wv f.x.num f.live = some { v with ops := v.ops ++ [o] }

/-- The same of the instructions on launches, queues, tables, capacity, devices and registers, LOGSET, KEYSET and XLINV in
context 0 alone (15 R397, R427, R428, R430). -/
def Obligations.QueueDelivery : Prop :=
  delivers .launch .launch false ∧ delivers .lstat .lstat false ∧ delivers .lbar .lbar false ∧ delivers .pqput .pqput false
  ∧ delivers .pqget .pqget false ∧ delivers .rtget .rtget false ∧ delivers .rtdone .rtdone false ∧ delivers .qput .qput true
  ∧ delivers .qget .qget false ∧ delivers .qbind .qbind true ∧ delivers .qunbind .qunbind false ∧ delivers .iqput .iqput true
  ∧ delivers .iqget .iqget false ∧ delivers .iqlook .iqlook true ∧ delivers .iqcons .iqcons false
  ∧ delivers .iqadv .iqadv false ∧ delivers .iqquiet .iqquiet false ∧ delivers .capget .capget false
  ∧ delivers .joinw .joinw false ∧ delivers .dput .dput true ∧ delivers .dget .dget false ∧ delivers .pattr .pattr true
  ∧ (∀ t m, completes (.logset t m) t none false noLits (fun _ f => f.k.num = 0 ∧ f.joins .logset m) (fun _ _ => [])
      (fun _ => 0) fun f => f.handOver (f.deliver .logset m))
  ∧ (∀ t m, completes (.keyset t m) t none true noLits (fun _ f => f.k.num = 0 ∧ f.joins .keyset m) (fun _ _ => [])
      (fun _ => 0) fun f => f.handOver (f.deliver .keyset m))
  ∧ ∀ t m, completes (.xlinv t m) t none true noLits (fun _ f => f.k.num = 0 ∧ f.joins .xlinv m) (fun _ _ => [])
      (fun _ => 0) fun f => f.handOver (f.deliver .xlinv m)

/-- Outside context 0, LOGSET, KEYSET, XLINV and LEASEQ raise PRIVILEGE with their opcode as its detail, and SUSRD does so for
a kind other than a cluster or a cluster the context has not; in context 0, SUSRD reads any unit, and elsewhere the unit of one of
its own clusters (R426 to R430). -/
def Obligations.PrivilegedInstructions : Prop :=
  (∀ t m, faults (.logset t m) t none false noLits (fun _ f => f.k.num ≠ 0) 0x14 0 (fun _ => 0xDB) fun _ => 0)
  ∧ (∀ t m, faults (.keyset t m) t none true noLits (fun _ f => f.k.num ≠ 0) 0x14 0 (fun _ => 0xDD) fun _ => 0)
  ∧ (∀ t m, faults (.xlinv t m) t none true noLits (fun _ f => f.k.num ≠ 0) 0x14 0 (fun _ => 0xDF) fun _ => 0)
  ∧ (∀ t g, faults (.leaseq t g) t none false noLits (fun _ f => f.k.num ≠ 0) 0x14 0 (fun _ => 0xE3) fun _ => 0)
  ∧ (∀ t g, faults (.susrd t g) t none false noLits
      (fun _ f => f.k.num ≠ 0 ∧ zeroAt f.q.a 127 12 ∧ (g.imm.extractLsb' 0 2 ≠ 0 ∨ f.k.lclusters ≤ (f.q.a.extractLsb' 0 12).toNat))
      0x14 0 (fun _ => 0xDA) fun _ => 0)
  ∧ (∀ t g, completes (.susrd t g) t none false noLits
      (fun _ f => f.k.num = 0 ∧ zeroAt f.q.a 127 12
        ∧ unitExists (unitOf (g.imm.extractLsb' 0 2).toNat (f.q.a.extractLsb' 0 12).toNat) = true)
      (fun s f => [f.emit (scalar (s.scoreOf (unitOf (g.imm.extractLsb' 0 2).toNat (f.q.a.extractLsb' 0 12).toNat)).word)])
      (fun _ => 0) fun _ => id)
  ∧ ∀ t g, completes (.susrd t g) t none false noLits
      (fun _ f => f.k.num ≠ 0 ∧ zeroAt f.q.a 127 12 ∧ g.imm.extractLsb' 0 2 = 0
        ∧ (f.q.a.extractLsb' 0 12).toNat < f.k.lclusters ∧ (f.q.a.extractLsb' 0 12).toNat < 128)
      (fun s f => [f.emit (scalar (s.scoreOf (clusterUnit (f.k.phys (f.q.a.extractLsb' 0 12).toNat))).word)]) (fun _ => 0)
      fun _ => id

/-! ### Matrix, engine and unit commands (14) -/

/-- A completion word's offset is a multiple of 8 in a tile that no engine holds or is about to (R369). -/
def Sys2Proof.Machine.Fire.wordFits (f : Fire) (cw : Nat) : Prop :=
  cw % 8 = 0 ∧ (f.k.share f.p.lcl).engineTile (cw / 4096) = false ∧ (f.k.share f.p.lcl).reservedTile (cw / 4096) = false

/-- A firing that issues a command to its domain: with room in the queue of 16, the command joins it and an acceptance is
emitted; a full queue holds the firing (R370). -/
def Sys2Proof.Machine.issues (mk : Tmpl → FormX → Instr) (takesB : Bool) (act : DomAct) (ok : FormX → Fire → Prop)
    (cmd : Fire → DomCmd → DomCmd) : Prop :=
  ∀ (t : Tmpl) (x : FormX) (s : State) (f : Fire), s.canFire t none takesB noLits f → ok x f →
    (f.dom.queue.length < 16 → f.opens [f.emit 0] →
      exec (mk t x) s = .next (s.fired f [f.emit 0] 0 (f.enqueue (cmd f (f.command act x)))))
    ∧ (16 ≤ f.dom.queue.length → exec (mk t x) s = .next s)

/-- What an MMA or MMASP needs at its firing (R376): the token's fields in range, weights loaded and large enough for it, a
valid ring with rows long enough, and a first tile that is a reduction node where the token sets its EORCNT, carries a tag or goes
over the bus. -/
def Sys2Proof.Machine.Fire.multiplies (f : Fire) (act : DomAct) (x : FormX) : Prop :=
  let c := f.command act x
  let d := f.dom
  let cfg := (f.k.dom f.p.seat (c.target (f.p.domOf f.i))).cfg c.first
  let r := (f.k.share f.p.lcl).ring x.ring.toNat
  zeroAt f.q.a 31 28 ∧ zeroAt f.q.a 35 35 ∧ zeroAt f.q.a 63 48 ∧ zeroAt f.q.a 95 93 ∧ zeroAt f.q.a 127 119 ∧ f.wordFits c.cwoff
  ∧ c.first ≤ 63
  ∧ (0 < c.eorn → cfNode cfg = true) ∧ d.wdesc.getLsbD 31 = true
  ∧ c.kUsed ≤ (if act = .mmasp then 2 else 1) * ((d.wdesc.extractLsb' 20 9).toNat + 1)
  ∧ c.nUsed ≤ (d.wdesc.extractLsb' 14 6).toNat + 1 ∧ d.wdesc.getLsbD 13 = (act == .mmasp) ∧ rValid r = true
  ∧ (∃ q, q < 8 ∧ rowLen q c.kUsed false ≤ rRow r) ∧ (cfNode cfg = true → behind c.seqTag (cfNext cfg) = false)
  ∧ (c.bus = true → cfNode cfg = true)

/-- A command holds its wave when a tile that it may write, in either class, is a reduction node that releases a token (R378). -/
def Sys2Proof.Machine.Fire.keeping (f : Fire) (c : DomCmd) : DomCmd :=
  { c with hold := (f.dom.written c 0 ++ f.dom.written c 1).any fun t =>
      cfNode ((f.k.dom f.p.seat (c.target (f.p.domOf f.i))).cfg t) && cfTk ((f.k.dom f.p.seat (c.target (f.p.domOf f.i))).cfg t) }

/-- WLOAD, MMA, MMASP, ACCRD, ACCSPL, ACCRST, SCACC and SCACCV are accepted into their domain's queue (R370, R374, R375, R376,
R380, R381, R382), that of the cluster on which their block has its place (R43); MMA and MMASP hold their wave where a tile they may
write is a node that releases a token (R378; log entries 40 and 123). Blocks are seated by log entries 25 and 28. -/
def Obligations.MatrixCommands : Prop :=
  issues .wload false .wload (fun x f =>
      zeroAt f.q.a 2 0 ∧ zeroAt f.q.a 31 19 ∧ zeroAt f.q.a 95 32 ∧ zeroAt f.q.a 127 119 ∧ f.wordFits (vbits f.q.a 118 96)
      ∧ rValid ((f.k.share f.p.lcl).ring x.ring.toNat) = true
      ∧ (∃ q, q < 8 ∧ fitsFormat q (vbits f.q.a 12 4 + 1) = true
          ∧ rowLen q (vbits f.q.a 12 4 + 1) (f.q.a.getLsbD 3) = rRow ((f.k.share f.p.lcl).ring x.ring.toNat))
      ∧ rHead ((f.k.share f.p.lcl).ring x.ring.toNat) % rCap ((f.k.share f.p.lcl).ring x.ring.toNat) + (vbits f.q.a 18 13 + 1)
          ≤ rCap ((f.k.share f.p.lcl).ring x.ring.toNat)) (fun _ => id)
  ∧ issues .mma false .mma (fun x f => f.multiplies .mma x)
      Fire.keeping
  ∧ issues .mmasp false .mmasp (fun x f => f.multiplies .mmasp x)
      Fire.keeping
  ∧ issues .accrd false .accrd (fun x f => zeroAt f.q.a 95 0 ∧ zeroAt f.q.a 127 119 ∧ f.wordFits (vbits f.q.a 118 96)
      ∧ rValid ((f.k.share f.p.lcl).ring x.ring.toNat) = true ∧ 384 ≤ rRow ((f.k.share f.p.lcl).ring x.ring.toNat)) (fun _ => id)
  ∧ issues .accspl false .accspl (fun _ f => zeroAt f.q.a 5 0 ∧ zeroAt f.q.a 95 56 ∧ zeroAt f.q.a 127 119
      ∧ f.wordFits (vbits f.q.a 118 96)) (fun _ => id)
  ∧ issues .accrst false .accrst (fun _ f => zeroAt f.q.a 5 0 ∧ zeroAt f.q.a 95 56 ∧ zeroAt f.q.a 127 119
      ∧ f.wordFits (vbits f.q.a 118 96)) (fun _ => id)
  ∧ issues .scacc false .scacc (fun _ f => zeroAt f.q.a 31 11 ∧ zeroAt f.q.a 63 55 ∧ zeroAt f.q.a 95 64 ∧ zeroAt f.q.a 127 119
      ∧ f.wordFits (vbits f.q.a 118 96) ∧ vbits f.q.a 10 6 ∈ [4, 8, 16, 32]
      ∧ vbits f.q.a 5 0 % (vbits f.q.a 10 6 / 2) = 0) (fun _ => id)
  ∧ issues .scaccv true .scaccv (fun _ f => zeroAt f.q.a 31 11 ∧ zeroAt f.q.a 95 32 ∧ zeroAt f.q.a 127 119
      ∧ f.wordFits (vbits f.q.a 118 96) ∧ vbits f.q.a 10 6 ∈ [4, 8] ∧ vbits f.q.a 5 0 % (vbits f.q.a 10 6 / 2) = 0
      ∧ ∀ j, j < 8 → zeroAt f.q.b (16 * j + 15) (if j < vbits f.q.a 10 6 then 16 * j + 10 else 16 * j)) (fun _ => id)

/-- What every engine command needs (R369, R386): a COUNT, the descriptor's reserved bits zero, and its completion word. -/
def Sys2Proof.Machine.Fire.engages (f : Fire) (q : EngCmd) (zeros : List (Nat × Nat)) : Prop :=
  (∀ r ∈ (127, 96) :: (26, 23) :: zeros, zeroAt q.desc r.1 r.2) ∧ q.count ≠ 0 ∧ f.wordFits q.cwoff

/-- An engine has room for a command: its arm slot is free, or fewer than 64 commands run in the cluster (R370, R371). -/
def Sys2Proof.Machine.State.engineRoom (s : State) (f : Fire) (q : EngCmd) : Prop :=
  if q.armed then ∀ c ∈ (f.k.share f.p.lcl).cmds, c.armed = true → c.fin = none → c.slotNo ≠ q.slotNo
  else s.engineLoad (f.k.phys f.p.lcl) < 64

/-- A firing that issues an engine command: the command joins its cluster's engine and an acceptance is emitted (R370). -/
def Sys2Proof.Machine.engages (mk : Tmpl → FormX → Instr) (takesB : Bool) (act : EngAct) (ok : FormX → Fire → EngCmd → Prop)
    (cmd : EngCmd → EngCmd) : Prop :=
  ∀ (t : Tmpl) (x : FormX) (s : State) (f : Fire), s.canFire t none takesB noLits f → ok x f (f.engine act x) →
    s.engineRoom f (cmd (f.engine act x)) → f.opens [f.emit 0] →
    exec (mk t x) s = .next (s.fired f [f.emit 0] 0 fun k => k.modShare f.p.lcl fun h =>
      { h with cmds := h.cmds ++ [cmd (f.engine act x)] })

/-- CPY, CPY2D, GATH, SCAT and COLL are accepted into their cluster's engine, armed or running (R386, R387, R388); a COLL that
disagrees with its group ends at once with the status of a bad shape. -/
def Obligations.EngineCommands : Prop :=
  engages .cpy false .cpy (fun _ f q => f.engages q [(95, 71)] ∧ ¬(q.fromRing = true ∧ q.toRing = true)
      ∧ (q.fromRing = true → zeroAt q.a 63 0) ∧ (q.toRing = true → zeroAt q.a 127 64)
      ∧ (q.fromRing = true ∨ q.toRing = true → rValid ((f.k.share f.p.lcl).ring q.ringNo) = true)) id
  ∧ engages .cpy2d true .cpy2d (fun x f q => f.engages q [] ∧ q.rowBytes ≠ 0 ∧ q.rowBytes % unitBytes x.var = 0) id
  ∧ engages .gath true .gath (fun _ f q => f.engages q [(95, 67)] ∧ zeroAt q.b 127 64 ∧ vbits q.desc 66 64 ≤ 4) id
  ∧ engages .scat true .scat (fun _ f q => f.engages q [(95, 67)] ∧ zeroAt q.b 127 64 ∧ vbits q.desc 66 64 ≤ 4) id
  ∧ engages .coll false .coll (fun _ f q => f.engages q [(79, 79)] ∧ q.count % q.collElem = 0 ∧ q.misfit f.k f.p.lcl = false
      ∧ ∀ c ∈ f.k.collective q.collId, c.1 ≠ f.p.lcl) id
  ∧ engages .coll false .coll (fun _ f q => f.engages q [(79, 79)] ∧ q.count % q.collElem = 0 ∧ q.misfit f.k f.p.lcl = true)
      fun q => { q with armed := false, fin := some badShape }

/-- The held instructions of form X, with what their firing checks, and RSTAT's value (R368, R380, R383 to R385, R389, R391
to R396). -/
def Obligations.UnitInstructions : Prop :=
  holdsX .acccfg .acccfg (fun x _ f => zeroAt f.q.a 127 64 ∧ zeroAt f.q.a 46 35 ∧ zeroAt f.q.a 26 24
      ∧ (x.var = 0 → zeroAt f.q.a 23 0) ∧ cfFmt (lo64 f.q.a) ≠ 3 ∧ (cfNode (lo64 f.q.a) = true → cfEor (lo64 f.q.a) ≠ 0)
      ∧ (cfTk (lo64 f.q.a) = false → (cfTgt (lo64 f.q.a)).extractLsb' 5 3 = 0)) (fun _ _ => 0)
      (fun _ _ f => leBytes 1 (f.p.domOf f.i) ++ leBytes 1 f.p.seat)
  ∧ holdsX .rinit .rinit (fun x _ f => (x.var = 1 → zeroAt f.q.a 127 0)
      ∧ (x.var ≠ 1 → zeroAt f.q.a 34 34 ∧ zeroAt f.q.a 11 0)
      ∧ (x.var = 0 → rValid f.q.a = true ∧ rBase f.q.a + vbits f.q.a 33 23 ≤ 2047 ∧ rThresh f.q.a ≤ rCap f.q.a))
      (fun _ _ => 0) (fun _ _ _ => [])
  ∧ (∀ t x, computes (.rstat t x) t none false noLits fun f =>
      if rValid ((f.k.share f.p.lcl).ring x.ring.toNat) then (f.k.share f.p.lcl).ring x.ring.toNat else 0)
  ∧ holdsX .radv .radv (fun x _ f => zeroAt f.q.a 127 32 ∧ rValid ((f.k.share f.p.lcl).ring x.ring.toNat) = true
      ∧ vbits f.q.a 31 0 ≤ rCap ((f.k.share f.p.lcl).ring x.ring.toNat)) (fun _ _ => 0) (fun _ _ _ => [])
  ∧ holdsX .ecan .ecan (fun _ _ f => inScratch (lo64 f.q.a).toNat = true ∧ inMap f.k (lo64 f.q.a).toNat 1 = true)
      (fun _ _ => 0) (fun _ _ _ => [])
  ∧ (∀ t x s f b, s.canFire t none false noLits f → s.recordAt f (f.record x) = .ok b → patternBad b = none →
      s.recordWaits f (f.record x) = false → f.opens [f.emit 0] →
      exec (.strcfg t x) s = .next (State.readRecord (s.fired f [f.emit 0] 0 (f.defer (f.deferred .strcfg x 0 0 b))) s f (f.record x)))
  ∧ holdsX .strgo .strgo (fun x _ f => ∃ u, f.k.pattern f.x f.w f.p.lcl (x.var.toNat % 4) = some u
      ∧ ∀ d ∈ u.used, dimCount d ≠ 0) (fun _ _ => 0) (fun _ _ _ => [])
  ∧ holdsX .strstop .strstop (fun _ _ _ => True) (fun _ _ => 0) (fun _ _ _ => [])
  ∧ (∀ t x s f b, s.canFire t none false noLits f → s.recordAt f (f.record x) = .ok b → drumBad b = none →
      s.recordWaits f (f.record x) = false →
      f.opens [Em.plain [dest2 f.t f.i] ((f.p.drumNum f.i).zeroExtend 128) f.outWave] →
      exec (.sqcfg t x) s = .next (State.readRecord (s.fired f
        [Em.plain [dest2 f.t f.i] ((f.p.drumNum f.i).zeroExtend 128) f.outWave] 0
          (f.defer (f.deferred .sqcfg x ((f.p.drumNum f.i).zeroExtend 16) 0 b))) s f (f.record x)))
  ∧ holdsX .sqgo .sqgo (fun _ _ f => zeroAt f.q.a 127 13
      ∧ ∃ d ∈ (f.k.share f.p.lcl).drums, d.num = f.q.a.extractLsb' 0 13) (fun _ _ => 0) (fun _ _ _ => [])
  ∧ holdsX .chwire .chwire (fun x _ f =>
      (x.var.toNat % 4 ≠ 3 → zeroAt (if x.var.getLsbD 2 then f.cfv x else f.q.a) 127 (chimeWidth (x.var.toNat % 4)))
      ∧ chimeBad (x.var.toNat % 4) x.chin.toNat (if x.var.getLsbD 2 then f.cfv x else f.q.a) = none)
      (fun x f => if x.var.getLsbD 2 then f.cfv x else f.q.a) (fun _ _ _ => [])
  ∧ holdsX .chset .chset (fun _ _ _ => True) (fun _ _ => 0) (fun _ _ _ => [])
  ∧ holdsX .chpulse .chpulse (fun _ _ _ => True) (fun _ _ => 0) (fun _ _ _ => [])

/-! ### System instructions (15) -/

/-- The values CNTRD, ENRD, LOGRD, SUSRD in context 0 and LEASEQ in context 0 give (R425 to R427, R431). -/
def Obligations.SystemReads : Prop :=
  (∀ t g, completes (.cntrd t g) t none false noLits (fun _ _ => True) (fun s f => [f.emit (scalar
      (if (g.imm.extractLsb' 0 4).toNat = 0
        then tgetD s.cycles (f.k.seatOf f.p * 8 + (tgetD s.spnow f.domain 0).toNat) 0
        else (tgetD (f.k.share f.p.lcl).perf ((g.imm.extractLsb' 0 4).toNat - 1) 0).zeroExtend 64))]) (fun _ => 0) fun _ => id)
  ∧ (∀ t g, computes (.enrd t g) t none false noLits fun f =>
      scalar ((f.k.energy[(g.imm.extractLsb' 0 3).toNat]?).getD 0))
  ∧ (∀ t g, completes (.logrd t g) t none false noLits (fun _ f => f.k.num ≠ 0 ∧ zeroAt f.q.a 127 4) (fun _ f =>
      let w := ((tget f.k.logs (f.q.a.extractLsb' 0 4).toNat).getD LogRange.off).word (g.imm.extractLsb' 0 2).toNat
      [f.emit (scalar (if g.imm.extractLsb' 0 2 = 2 then w &&& 0xFF0000000000003F else w))]) (fun _ => 0) fun _ => id)
  ∧ (∀ t g, completes (.logrd t g) t none false noLits (fun _ f => f.k.num = 0 ∧ zeroAt f.q.a 127 16) (fun s f => [f.emit (scalar
      ((((s.ctx (f.q.a.extractLsb' 4 12)).bind fun k => tget k.logs (f.q.a.extractLsb' 0 4).toNat).getD
        LogRange.off).word (g.imm.extractLsb' 0 2).toNat))]) (fun _ => 0) fun _ => id)
  ∧ (∀ t g, completes (.susrd t g) t none false noLits (fun _ f => f.k.num = 0 ∧ zeroAt f.q.a 127 12
        ∧ (f.q.a.extractLsb' 0 12).toNat < (match (g.imm.extractLsb' 0 2).toNat with | 0 => 96 | 1 => 16 | 2 => 4096 | _ => 128))
      (fun s f => [f.emit (scalar (s.scoreOf (unitOf (g.imm.extractLsb' 0 2).toNat (f.q.a.extractLsb' 0 12).toNat)).word)])
      (fun _ => 0) fun _ => id)
  ∧ ∀ t g, completes (.leaseq t g) t none false noLits (fun _ f => f.k.num = 0 ∧ zeroAt f.q.a 127 5)
      (fun s f => [f.emit (s.lease (f.q.a.extractLsb' 0 2).toNat (f.q.a.extractLsb' 2 3).toNat).word]) (fun _ => 0) fun _ => id

/-- YIELD passes A unless a pre-emption or a move of its context is pending; BRK passes A unless the debug port watches its
thread, and then halts the context with CAUSE 0xFF (R423, R434, 02 R75). -/
def Obligations.YieldAndBreak : Prop :=
  (∀ t g, completes (.yield t g) t none false noLits (fun _ f => f.k.yieldPending = false)
      (fun _ f => [f.pass f.all f.q.a f.q.ta f.outWave]) (fun _ => 0) fun _ => id)
  ∧ (∀ t g, completes (.brk t g) t none false noLits
      (fun s f => s.dbg.pass = some s.focus ∨ s.debugging f.k.num f.x.num = false)
      (fun _ f => [f.pass f.all f.q.a f.q.ta f.outWave]) (fun _ => 0) fun _ => id)
  ∧ ∀ t g s f, s.ready t none false noLits = some f → s.powered f.domain = true → s.dbg.pass ≠ some s.focus →
      s.debugging f.k.num f.x.num = true → s.dbg.halted = false →
      ∃ u, exec (.brk t g) s = .next u ∧ u.dbg.halted = true ∧ u.dbg.cause = 0xFF ∧ u.dbg.statThread = f.x.num
        ∧ u.dbg.wave = f.w ∧ u.mem = s.mem ∧ ∀ k, s.ctx f.k.num = some k → u.ctx f.k.num = some { k with halted := true }

/-- STEAL, CFGREQ, DSWITCH and MIGRQ are held until their wave commits, with an acceptance; DSWITCH to an invalid row raises
DICT-UNDEF (R398, R409, R418, R419, R435). -/
def Obligations.SystemAccepted : Prop :=
  holdsG .steal .steal (fun _ _ f => zeroAt f.q.a 127 12 ∧ 1 ≤ (f.q.a.extractLsb' 0 12).toNat
      ∧ (f.q.a.extractLsb' 0 12).toNat ≤ 1536) (fun _ => 0) true (fun _ _ => [])
  ∧ (∀ hd bs, holdsG .cfgreq .cfgreq (fun _ s f => zeroAt f.q.a 127 28 ∧ s.imageWaits f.k f.p.kimg.toNat = false
      ∧ s.kernelHeader f.k f.p.kimg.toNat = .ok hd
      ∧ s.subgraph f.k f.p.kimg.toNat hd (f.q.a.extractLsb' 0 16).toNat ((f.q.a.extractLsb' 16 4).toNat + 1) = some bs
      ∧ (((f.p.links[(f.q.a.extractLsb' 20 4).toNat]?).getD none).map (·.1)) = some (bs.headD 0)
      ∧ ∃ b ∈ bs, s.linksTo f.k f.p.kimg.toNat hd b f.p.blk (f.q.a.extractLsb' 24 4).toNat = true) (fun _ => 0) true
      (fun _ _ => bs.flatMap fun b => leBytes 8 b.toNat))
  ∧ holdsG .dswitch .dswitch (fun g _ f => f.k.dictValid (g.imm.extractLsb' 0 4).toNat = true) (fun g => g.imm) true (fun _ _ => [])
  ∧ holdsG .migrq .migrq (fun _ _ f => zeroAt f.q.a 127 7 ∧ (f.q.a.extractLsb' 0 7).toNat < f.k.lclusters) (fun _ => 0) true
      (fun _ _ => [])
  ∧ ∀ t g, faults (.dswitch t g) t none false noLits (fun _ f => f.k.dictValid (g.imm.extractLsb' 0 4).toNat = false) 0x03 2
      (fun _ => 0x21) fun _ => 0

/-- DFENCE, IPIN, IUNPIN, CTXST, SYSCALL, FRESUME and FABORT are held until their wave commits, their result still to come
(R398, R420, R422, R424, R433, R436). -/
def Obligations.SystemAwaited : Prop :=
  holdsG .dfence .dfence (fun _ _ _ => True) (fun _ => 0) false (fun _ _ => [])
  ∧ (∀ hd, holdsG .ipin .ipin (fun _ s f => zeroAt f.q.a 127 32 ∧ s.imageWaits f.k f.p.kimg.toNat = false
      ∧ s.kernelHeader f.k f.p.kimg.toNat = .ok hd
      ∧ ((f.q.a.extractLsb' 16 16).toNat = 0
        ∨ (f.q.a.extractLsb' 0 16).toNat + (f.q.a.extractLsb' 16 16).toNat ≤ fieldAt hd 0x18 2)) (fun _ => 0) false
      (fun s f => ((s.subgraph f.k f.p.kimg.toNat hd (f.q.a.extractLsb' 0 16).toNat (f.q.a.extractLsb' 16 16).toNat).getD
        []).flatMap fun b => leBytes 8 b.toNat))
  ∧ (∀ hd, holdsG .iunpin .iunpin (fun _ s f => zeroAt f.q.a 127 32 ∧ s.imageWaits f.k f.p.kimg.toNat = false
      ∧ s.kernelHeader f.k f.p.kimg.toNat = .ok hd
      ∧ ((f.q.a.extractLsb' 16 16).toNat = 0
        ∨ (f.q.a.extractLsb' 0 16).toNat + (f.q.a.extractLsb' 16 16).toNat ≤ fieldAt hd 0x18 2)) (fun _ => 0) false
      (fun s f => ((s.subgraph f.k f.p.kimg.toNat hd (f.q.a.extractLsb' 0 16).toNat (f.q.a.extractLsb' 16 16).toNat).getD
        []).flatMap fun b => leBytes 8 b.toNat))
  ∧ holdsG .ctxst .ctxst (fun _ _ _ => True) (fun g => g.imm) false (fun _ _ => [])
  ∧ holdsG .syscall .syscall (fun _ _ _ => True) (fun g => g.imm) false (fun _ _ => [])
  ∧ holdsG .fresume .fresume (fun _ _ f => zeroAt f.q.a 127 32 ∧ f.q.a.extractLsb' 0 32 ≠ 0) (fun _ => 0) false (fun _ _ => [])
  ∧ holdsG .fabort .fabort (fun _ _ f => zeroAt f.q.a 127 32 ∧ f.q.a.extractLsb' 0 32 ≠ 0) (fun g => g.imm) false (fun _ _ => [])

/-! ### Blocks (01 R27 to R32, 06 R168) -/

/-- A block that something asks for, whose image is sound and whose slots suit it, is placed with its decoded slots and its
constants, in slots of its own cluster or of the one a CFGREQ found room on (R43); a placed block moves to other slots, keeping
the old ones until its tokens are forwarded; a block of an older dictionary generation that holds nothing leaves, where the overflow
area holds what it leaves behind (R27, R31, R32, R168). What an area's state takes is log entry 12, where a block goes 25, 28, 60 and 112,
and which block is idle 79. -/
def Obligations.BlockSteps : Prop :=
  (∀ (c : CtxId) (l seat : Nat) (b : Addr) (at_ : List (Nat × Nat)) (s : State) (k : Ctx) (ln : BitVec 32)
      (who : Option (Thread × WaveId)) (n : Launch) (m : BlockImage) (ws : List PSlot) (cf : List Value) (q : Berth),
    s.active c = some k → k.asks l b = some (ln, who) → k.ln ln = some n → (tgetD k.pmap l 0).getLsbD 30 = false →
    b.getLsbD 63 = false → s.blockOf k n b = .ok (m, ws, cf) → frontWaits m who = false →
    s.logFull c (s.fetched k n b m ws) (kRead ||| kPlace) = false →
    (∀ p ∈ s.fetched k n b m ws, pieceWaits s.mem k p false = false) →
    q = k.berth (some n.lrec) n.num l m.matrix ((n.home b l).map (·.2)) ws none →
    s.seatFor k n l b q = some seat → s.slotsFit k (k.phys seat) q at_ = true →
    answers (.blockPlacement c l b at_) s fun t => inCtx t c fun j => ∃ p ∈ j.placed, p.blk = b ∧ p.ln = n.num ∧ p.lcl = l
      ∧ p.seat = seat ∧ p.slots = ws ∧ p.cf = cf ∧ p.at_ = at_ ∧ p.old = none ∧ p.kimg = n.lrec.kimg)
  ∧ (∀ (c : CtxId) (l : Nat) (b : Addr) (at_ : List (Nat × Nat)) (s : State) (k : Ctx) (p : Placed),
    s.active c = some k → k.placed.find? (isPlaced l b) = some p → p.old = none → (tgetD k.pmap l 0).getLsbD 30 = false →
    (tgetD k.pmap p.seat 0).getLsbD 30 = false → s.slotsFit k (k.seatOf p) (k.berthOf p) at_ = true →
    answers (.blockMove c l b at_) s fun t => t.mem = s.mem ∧ inCtx t c fun j =>
      (∃ q ∈ j.placed, q.blk = b ∧ q.lcl = l ∧ q.at_ = at_ ∧ q.old = some p.at_ ∧ q.slots = p.slots)
      ∧ (∀ a ∈ j.tokens, k.tokenOf p a = true → a.old = true))
  ∧ (∀ (c : CtxId) (l : Nat) (b : Addr) (s : State) (k : Ctx) (p : Placed),
    s.active c = some k → (k.placed.find? fun q => isPlaced l b q && q.old.isSome) = some p →
    (∀ a ∈ k.tokens, a.old = true → k.tokenOf p a = false) →
    answers (.tokenForward c l b) s fun t => inCtx t c fun j => ∃ q ∈ j.placed, q.blk = b ∧ q.lcl = l ∧ q.at_ = p.at_ ∧ q.old = none)
  ∧ ∀ (c : CtxId) (l : Nat) (b : Addr) (s : State) (k : Ctx) (p : Placed),
    s.active c = some k →
    (k.placed.find? fun q => isPlaced l b q && q.gen != k.gen && q.old.isNone && k.drained q) = some p → (k.evict p).ovfFits = true →
    answers (.staleBlockEviction c l b) s fun t => inCtx t c fun j => j.placed = dropFirst (· == p) k.placed

/-! ### Memory order, binding and commit (01 R37, 04 R105 to R108, 13 R347, R348) -/

/-- An operation whose turn it is enters its wave's order with what its probe found, or its fault is raised in its wave; a load
whose waits are over is bound to its bytes, and its value is emitted, of an SC load after the release and the acquire that come
before it; an LDC or LDI that finds its granule FULL likewise, a consuming LDC taking its hold, and else it parks there as a deferred
reader; a load made a byte at a time takes one more byte at each step, in any order, and is bound with the last of them (R87, R88,
R89, R106, R111, R115, R347, R348, R352, R353, R366). Orders are entered as log entry 75 has it, a torn load is made as 45, what a
thread's own buffered stores give a presence load is 95, and a parked load's acquire 50. -/
def Obligations.OrderSteps : Prop :=
  (∀ (c : CtxId) (th : ThreadId) (w : WaveId) (own : BitVec 8) (s : State) (k k1 : Ctx) (x : Thread) (v : Wave) (o o1 : MemOp),
    s.active c = some k → k.th th = some x → k.wv th w = some v → v.op own = some o → k.turnToEnter x v o = true →
    scMisplaced v o = false → s.probeWaits k x o = false → s.roomFor k x w = some k1 → s.probeOp k x w o = .ok o1 → o1.m = o.m →
    answers (.memoryOrderEntry c th w own) s fun t => inCtx t c fun j => ∃ u p, j.wv th w = some u ∧ u.op own = some p
      ∧ p.entered = true ∧ p.ps = o1.ps ∧ p.data = o1.data ∧ p.act = o1.act)
  ∧ (∀ (c : CtxId) (th : ThreadId) (w : WaveId) (own : BitVec 8) (s : State) (k k1 : Ctx) (x : Thread) (v : Wave) (o : MemOp)
      (e : Fail) (a : BitVec 64),
    s.active c = some k → k.th th = some x → k.wv th w = some v → v.op own = some o → k.turnToEnter x v o = true →
    scMisplaced v o = false → s.probeWaits k x o = false → s.roomFor k x w = some k1 → s.probeOp k x w o = .error (e, a) →
    o.act ≠ .pref → e.code ≠ 0x0A →
    x.isDropped w = false → x.delivered = false →
    answers (.memoryOrderEntry c th w own) s fun t => t.mem = s.mem ∧ inCtx t c fun j => ∃ y r, j.th th = some y ∧ y.fault = some r
      ∧ r.cause = e.code ∧ r.origin = 2 ∧ r.detail = e.detail ∧ r.faddr = a ∧ r.wave = w)
  ∧ (∀ (c : CtxId) (th : ThreadId) (w : WaveId) (own : BitVec 8) (s : State) (k : Ctx) (x : Thread) (v : Wave) (o : MemOp),
    s.active c = some k → k.th th = some x → k.wv th w = some v → v.op own = some o → o.act = .ld → o.torn = false →
    s.mayBind k x w o = true → (∀ p ∈ o.ps, piecePoison s.mem p = false) → x.isDropped o.out = false →
    answers (.loadBind c th w own 0 none) s fun t => inCtx t c fun j =>
      (∃ u p, j.wv th w = some u ∧ u.op own = some p ∧ p.bound = true)
      ∧ ∀ d ∈ o.rt.to1 ++ o.rt.to2, ∃ a ∈ j.tokens, a.blk = d.1 ∧ a.dst = d.2 ∧ a.tok.thread = th ∧ a.tok.wave = o.out
          ∧ a.tok.value = ((s.scBefore c (k.phys x.lcl) o).loadValue k x w o).2)
  ∧ (∀ (c : CtxId) (th : ThreadId) (w : WaveId) (own : BitVec 8) (s : State) (k : Ctx) (x : Thread) (v : Wave) (o : MemOp)
      (l g off : Nat),
    s.active c = some k → k.th th = some x → k.wv th w = some v → v.op own = some o → o.act = .ldc ∨ o.act = .ldi →
    s.mayBind k x w o = true → (∀ p ∈ o.ps, piecePoison s.mem p = false) → x.isDropped o.out = false → o.granule = some (l, g, off) →
    (presenceReady o (k.prior x w own) (k.viewOf o) = true →
      answers (.loadBind c th w own 0 none) s fun t => inCtx t c fun j =>
        (∃ u p, j.wv th w = some u ∧ u.op own = some p ∧ p.bound = true)
        ∧ (∀ d ∈ o.rt.to1 ++ o.rt.to2, ∃ a ∈ j.tokens, a.blk = d.1 ∧ a.dst = d.2 ∧ a.tok.thread = th ∧ a.tok.wave = o.out
            ∧ a.tok.value = ((s.scBefore c (k.phys x.lcl) o).loadValue k x w o).2)
        ∧ (j.share l).gran g = if o.act = .ldc ∧ o.m.q = true
            then { (k.share l).gran g with st := 0, hold := some ⟨th, w, rdN (k.share l).bytes (16 * g) 16⟩ }
            else (k.share l).gran g)
    ∧ (presenceReady o (k.prior x w own) (k.viewOf o) = false → ((k.share l).gran g).readers.length < 65535 → k.ovfRoom = true →
      ((k.share l).gran g).hold = none →
      answers (.loadBind c th w own 0 none) s fun t => inCtx t c fun j => j.tokens = k.tokens
        ∧ (∃ u p, j.wv th w = some u ∧ u.op own = some p ∧ p.bound = o.bound ∧ p.parked = true)
        ∧ (j.share l).gran g = { (k.share l).gran g with st := 2, readers := ((k.share l).gran g).readers ++ [o.reader th w off] }))
  ∧ ∀ (c : CtxId) (th : ThreadId) (w : WaveId) (own : BitVec 8) (pick : Nat) (s : State) (k : Ctx) (x : Thread) (v : Wave) (o : MemOp),
    s.active c = some k → k.th th = some x → k.wv th w = some v → v.op own = some o → o.act = .ld → o.torn = true →
    s.mayBind k x w o = true → (∀ p ∈ o.ps, piecePoison s.mem p = false) →
    answers (.loadBind c th w own pick none) s fun t => inCtx t c fun j => ∃ u p, j.wv th w = some u ∧ u.op own = some p
      ∧ p.bound = decide (o.size ≤ o.part.length + 1)
      ∧ (p.bound = false → j.tokens = k.tokens ∧ ∃ b, p.part = o.part ++ [(o.nextByte pick, b)])

/-- The oldest wave of a thread commits once its chain is complete and performed and its tokens are gone: it is the last
committed one, its flags and those of its additions in the ordered reductions join its context's, and what it holds becomes committed
operations; a wave that TEND marked ends its thread; a CTXST that clears CTX.FPFLAGS takes the flags of every wave committed until
then, its own among them, and clears the named ones, at the commit of its wave (R37, R67, R107, R295, R342). An unclosed chain is found
here (log entry 54), and a firing held at a gate holds the wave it sends into (log entry 80). -/
def Obligations.WavesCommit : Prop :=
  (∀ (c : CtxId) (th : ThreadId) (s : State) (k : Ctx) (x : Thread) (v : Wave),
    s.active c = some k → k.th th = some x → x.oldest = some v → k.unclosed x v = none → k.chainDone x v = true → v.bound = true →
    k.spent x v = true → s.emptyGet k x v = none → v.tend = false →
    answers (.waveCommit c th) s fun t => t.mem = s.mem ∧ inCtx t c fun j => (∃ y, j.th th = some y ∧ y.last = some v.num
        ∧ y.wv v.num = none)
      ∧ ((∀ d ∈ v.defs, d.act ≠ .ctxst) → j.fpflags = k.fpflags ||| v.flags ||| k.sumFlags th v.num)
      ∧ ∀ i ∈ v.handedOver, (∀ d, i = .dfr d → d.act ≠ .ctxst) → ∃ e ∈ j.committed, e.item = i ∧ e.thread = th ∧ e.wave = v.num)
  ∧ (∀ (c : CtxId) (th : ThreadId) (s : State) (k : Ctx) (x : Thread) (v : Wave),
    s.active c = some k → k.th th = some x → x.oldest = some v → k.unclosed x v = none → k.chainDone x v = true → v.bound = true →
    k.spent x v = true → s.emptyGet k x v = none → v.tend = true →
    answers (.waveCommit c th) s fun t => t.mem = s.mem ∧ inCtx t c fun j => j.th th = none)
  ∧ ∀ (c : CtxId) (th : ThreadId) (s : State) (k : Ctx) (x : Thread) (v : Wave) (d : DefOp),
    s.active c = some k → k.th th = some x → x.oldest = some v → k.unclosed x v = none → k.chainDone x v = true → v.bound = true →
    k.spent x v = true → s.emptyGet k x v = none → v.tend = false → v.defs = [d] → d.act = .ctxst → d.imm = 0x0101 →
    answers (.waveCommit c th) s fun t => inCtx t c fun j =>
      j.fpflags = (k.fpflags ||| v.flags ||| k.sumFlags th v.num) &&& ~~~(d.a.extractLsb' 0 5)
      ∧ ∃ e ∈ j.committed, e.item = .dfr { d with data := leBytes 8 (k.fpflags ||| v.flags ||| k.sumFlags th v.num).toNat }
          ∧ e.thread = th ∧ e.wave = v.num

/-- No uncorrectable error meets a committed operation: not a queue operation that reads a poisoned line (R401). -/
def Sys2Proof.Machine.State.readable (s : State) (k : Ctx) (me : Committed) : Prop :=
  ∀ o, me.item = .mem o → s.queueHurt k o none = none

/-- The performance of a committed operation that nothing makes wait: it leaves the committed operations of its context, whether
it is performed at its turn, tried again, or served to a parked insertion (R106, R137, R148). What an uncorrectable error does to it is log
entries 43 and 96, and a queue that has gone bad is 44. -/
def Obligations.CommittedOperationsArePerformed : Prop :=
  (∀ (c : CtxId) (th : ThreadId) (n pick : Nat) (s t : State) (k j : Ctx) (me : Committed) (v1 v2 : Value),
    s.ctx c = some k → k.state ≠ 3 → (k.committed.filter fun e => e.thread == th && !e.waiting)[n]? = some me →
    k.followed s.mem me = false →
    s.readable k me → s.performance k me pick = .done t v1 v2 → t.ctx c = some j →
    answers (.storePerform c th n pick none) s fun u => u.mem = t.mem
      ∧ inCtx u c fun i => i.committed = dropFirst (· == me) j.committed)
  ∧ (∀ (c : CtxId) (th : ThreadId) (n pick : Nat) (s t : State) (k : Ctx) (me : Committed),
    s.ctx c = some k → k.state ≠ 3 → (k.committed.filter fun e => e.thread == th && !e.waiting)[n]? = some me →
    k.followed s.mem me = false →
    s.readable k me → s.performance k me pick = .wait t → exec (.storePerform c th n pick none) s
      = .next (t.modCtx c fun j => { j with committed := updFirst (· == me) (fun e => { e with waiting := true }) j.committed }))
  ∧ (∀ (c : CtxId) (th : ThreadId) (pick : Nat) (s t : State) (k j : Ctx) (me : Committed) (v1 v2 : Value),
    s.ctx c = some k → k.state ≠ 3 → (k.committed.find? fun e => e.thread == th && e.waiting && !e.elsewhere && !e.parkedPut
      && !k.followed s.mem e) = some me →
    s.readable k me → s.performance k me pick = .done t v1 v2 → t.ctx c = some j →
    answers (.committedOperationWaitEnd c th pick) s fun u => u.mem = t.mem
      ∧ inCtx u c fun i => i.committed = dropFirst (· == me) j.committed)
  ∧ ∀ (c : CtxId) (th : ThreadId) (pick : Nat) (s t : State) (k j : Ctx) (me : Committed) (v1 v2 : Value),
    s.active c = some k → (k.committed.find? fun e => e.thread == th && e.waiting && e.parkedPut) = some me →
    k.gateShut me.lcl = false →  s.readable k me → s.performance k me pick = .done t v1 v2 → t.ctx c = some j →
    answers (.parkedQueueServe c th pick) s fun u => u.mem = t.mem
      ∧ inCtx u c fun i => i.committed = dropFirst (· == me) j.committed

/-- The n-th committed operation of a thread that nothing holds yet, of a context that no log watches, is a plain access without a
release; its turn has come, and no result of it is due. -/
def Sys2Proof.Machine.State.nextStore (s : State) (c : CtxId) (th : ThreadId) (n : Nat) (k : Ctx) (me : Committed) (o : MemOp) : Prop :=
  s.ctx c = some k ∧ k.state ≠ 3 ∧ k.logs = [] ∧ (k.committed.filter fun e => e.thread == th && !e.waiting)[n]? = some me
    ∧ k.followed s.mem me = false ∧ me.due = false ∧ me.item = .mem o ∧ o.m.ord = 0

/-- A committed ST that nothing makes wait writes its bytes and no other: to uncached HBM, at its physical address, where the line
is not written under another key slot; to the scratchpad, in its share. One that is made a byte at a time writes one byte at each
step, in any order (R87, R106, R111; the frame of ST in memory). An aligned one is written whole, in one step, towards loads of any
size (log entry 140). -/
def Obligations.StoresWriteTheirBytes : Prop :=
  (∀ (c : CtxId) (th : ThreadId) (n pick : Nat) (s : State) (k : Ctx) (me : Committed) (o : MemOp) (p : Piece), s.Inv →
    s.nextStore c th n k me o → o.act = .st → o.torn = false → o.ps = [p] → p.n = o.size →
    p.tr.place = .hbm → s.mem.actsAs p.tr = 3 → (∀ r, tget s.mem.key (p.tr.pa / 64) = some r → p.tr.key = some r) →
    pieceWaits s.mem k p true = false →
    answers (.storePerform c th n pick none) s fun t =>
      rdN t.mem.hbm p.tr.pa o.size = o.storeBytes
      ∧ (∀ a, a < p.tr.pa ∨ p.tr.pa + o.size ≤ a → rd t.mem.hbm a = rd s.mem.hbm a)
      ∧ t.mem.host = s.mem.host ∧ t.mem.peer = s.mem.peer
      ∧ inCtx t c fun j => ∀ l, (j.share l).bytes = (k.share l).bytes)
  ∧ (∀ (c : CtxId) (th : ThreadId) (n pick : Nat) (s : State) (k : Ctx) (me : Committed) (o : MemOp) (p : Piece) (l off : Nat),
    s.nextStore c th n k me o → o.act = .st → o.torn = false → o.ps = [p] → p.n = o.size →
    p.tr.place = .scratch l off → pieceWaits s.mem k p true = false →
    k.bankHolds (me.thread, me.wave, o.m.own) o.ps = false →
    (∀ g, off / 16 ≤ g → g ≤ (off + o.size - 1) / 16 → ((k.share l).gran g).st ≠ 2) →
    answers (.storePerform c th n pick none) s fun t => t.mem = s.mem
      ∧ inCtx t c fun j => (j.share l).bytes = wrN (k.share l).bytes off o.storeBytes
        ∧ ∀ i, i ≠ l → (j.share i).bytes = (k.share i).bytes)
  ∧ (∀ (c : CtxId) (th : ThreadId) (n pick i : Nat) (s : State) (k : Ctx) (me : Committed) (o : MemOp) (p : Piece), s.Inv →
    s.nextStore c th n k me o → o.act = .st → o.torn = true → o.part.length < o.size → i = o.nextByte pick →
    o.ps = [p] → p.n = o.size → i < o.size → p.tr.place = .hbm →
    s.mem.actsAs (p.byteAt i).tr = 3 → (∀ r, tget s.mem.key ((p.tr.pa + i) / 64) = some r → p.tr.key = some r) →
    pieceWaits s.mem k p true = false →
    answers (.storePerform c th n pick none) s fun t =>
      rd t.mem.hbm (p.tr.pa + i) = o.storeBytes.getD i 0 ∧ ∀ a, a ≠ p.tr.pa + i → rd t.mem.hbm a = rd s.mem.hbm a)
  ∧ ∀ (c : CtxId) (th : ThreadId) (n pick i : Nat) (s : State) (k : Ctx) (me : Committed) (o : MemOp) (p : Piece) (l off : Nat),
    s.nextStore c th n k me o → o.act = .st → o.torn = true → i = o.nextByte pick → i < o.size →
    o.ps = [p] → p.n = o.size →
    p.tr.place = .scratch l off → pieceWaits s.mem k p true = false → k.bankHolds (me.thread, me.wave, o.m.own) o.ps = false →
    ((k.share l).gran ((off + i) / 16)).st ≠ 2 →
    answers (.storePerform c th n pick none) s fun t => t.mem = s.mem
      ∧ inCtx t c fun j => (j.share l).bytes = wrN (k.share l).bytes (off + i) [o.storeBytes.getD i 0]
        ∧ ∀ m, m ≠ l → (j.share m).bytes = (k.share m).bytes

/-- The n-th committed operation of a thread that nothing holds yet, of a context that no log watches; its turn has come, and no error
meets it. -/
def Sys2Proof.Machine.State.nextOp (s : State) (c : CtxId) (th : ThreadId) (n : Nat) (k : Ctx) (me : Committed) (o : MemOp) : Prop :=
  s.ctx c = some k ∧ k.state ≠ 3 ∧ k.logs = [] ∧ (k.committed.filter fun e => e.thread == th && !e.waiting)[n]? = some me
    ∧ k.followed s.mem me = false ∧ me.item = .mem o ∧ s.readable k me

/-- An operation of one piece of its size, which nothing makes wait. -/
def Sys2Proof.Machine.State.onePiece (s : State) (k : Ctx) (me : Committed) (o : MemOp) (p : Piece) : Prop :=
  o.ps = [p] ∧ p.n = o.size ∧ pieceWaits s.mem k p true = false ∧ piecePoison s.mem p = false
    ∧ k.bankHolds (me.thread, me.wave, o.m.own) o.ps = false

/-- What an atomic or reduction stores over a value of w bits; none where it stores nothing (R361, R362). -/
def Sys2Proof.Machine.storesOver (act : MemAct) (w old b c : Nat) (new : Option Nat) : Prop :=
  match act with
  | .atom op | .red op => match op with
    | .add => new = some ((old + b) % 2 ^ w)
    | .and => ∃ v, new = some v ∧ ∀ i, v.testBit i = (old.testBit i && b.testBit i)
    | .or => ∃ v, new = some v ∧ ∀ i, v.testBit i = (old.testBit i || b.testBit i)
    | .xor => ∃ v, new = some v ∧ ∀ i, v.testBit i = (old.testBit i != b.testBit i)
    | .min => new = some (if (BitVec.ofNat w old).toInt ≤ (BitVec.ofNat w b).toInt then old else b)
    | .max => new = some (if (BitVec.ofNat w b).toInt ≤ (BitVec.ofNat w old).toInt then old else b)
    | .minn => new = some (min old b)
    | .maxn => new = some (max old b)
    | .xchg => new = some b
    | .cas => new = if old = b then some c else none
  | .redFadd => ∃ g : FormG, g.ty = 0 ∧ gRm g = 0 ∧ g.sat = false ∧ new = some (vAddE g old b).1
  | _ => False

/-- What the other committed operations leave in memory when they are performed. A ST leaves its bytes under every cache mode, in host
and in peer memory; atomics and reductions store the value of R361 or R362 over the old one, which is their result; STF, STI and FESET
leave the bytes and the state of their granule, OWN its tile an engine's; PQPUT and PQGET add to and take from their partition; the
queue operations write their record, HEAD and TAIL, BIND and MAXH, and the frontier (R87, R88, R91, R92, R119, R143, R144, R147, R152,
R154, R357, R361, R362, R364, R410, R412). Each is performed in one step (log entries 130 and 140). -/
def Obligations.MemoryFamilyEffects : Prop :=
  (∀ (c : CtxId) (th : ThreadId) (n pick : Nat) (s : State) (k : Ctx) (me : Committed) (o : MemOp) (p : Piece), s.Inv →
    s.nextOp c th n k me o → o.act = .st → o.torn = false → s.onePiece k me o p →
    (p.tr.place = .hbm → s.mem.actsAs p.tr ≠ 1 →
      answers (.storePerform c th n pick none) s fun t => rdN t.mem.hbm p.tr.pa o.size = o.storeBytes)
    ∧ (p.tr.place = .hbm → s.mem.actsAs p.tr = 1 → p.tr.pa % 64 + o.size ≤ 64 →
      answers (.storePerform c th n pick none) s fun t => ∃ e ∈ t.mem.l1, isCopy (k.phys me.lcl) .sc (p.tr.pa / 64) e = true
        ∧ ∀ i, i < o.size → e.data.getD (p.tr.pa % 64 + i) 0 = o.storeBytes.getD i 0)
    ∧ (p.tr.place = .hostIo ∨ p.tr.place = .hostCache →
      answers (.storePerform c th n pick none) s fun t => rdN t.mem.host p.tr.pa o.size = o.storeBytes
        ∧ ∀ a, a < p.tr.pa ∨ p.tr.pa + o.size ≤ a → rd t.mem.host a = rd s.mem.host a)
    ∧ (∀ q, p.tr.place = .peer q →
      answers (.storePerform c th n pick none) s fun t => rdN (tgetD t.mem.peer q []) p.tr.pa o.size = o.storeBytes)
    ∧ ∀ l off, p.tr.place = .scratch l off → (∀ g, off / 16 ≤ g → g ≤ (off + o.size - 1) / 16 → ((k.share l).gran g).st ≠ 2) →
      answers (.storePerform c th n pick none) s fun t => inCtx t c fun j =>
        (j.share l).bytes = wrN (k.share l).bytes off o.storeBytes)
  ∧ (∀ (c : CtxId) (th : ThreadId) (n pick old : Nat) (s : State) (k : Ctx) (me : Committed) (o : MemOp) (p : Piece), s.Inv →
    s.nextOp c th n k me o → o.act.isRmw = true → (o.act = .redFadd → o.size = 4) → o.m.ord = 0 → s.onePiece k me o p →
    p.tr.place = .hbm → s.mem.actsAs p.tr = 3 → (∀ r, tget s.mem.key (p.tr.pa / 64) = some r → p.tr.key = some r) →
    old = leNat ((List.range p.n).map fun i => s.mem.keyed p.tr.key (p.tr.pa + i)) →
    (∃ u, s.performance k me pick = .done u (BitVec.ofNat 128 old) (BitVec.ofNat 128 old))
    ∧ answers (.storePerform c th n pick none) s fun t =>
      ∃ new, storesOver o.act (8 * o.size) old (o.b.toNat % 2 ^ (8 * o.size)) (o.c.toNat % 2 ^ (8 * o.size)) new
        ∧ rdN t.mem.hbm p.tr.pa o.size = leBytes o.size (new.getD old)
        ∧ ∀ a, a < p.tr.pa ∨ p.tr.pa + o.size ≤ a → rd t.mem.hbm a = rd s.mem.hbm a)
  ∧ (∀ (c : CtxId) (th : ThreadId) (n pick old : Nat) (s : State) (k : Ctx) (me : Committed) (o : MemOp) (p : Piece) (l off : Nat),
    s.Inv → s.nextOp c th n k me o → o.act.isRmw = true → (o.act = .redFadd → o.size = 4) → s.onePiece k me o p →
    p.tr.place = .scratch l off → off % 16 + o.size ≤ 16 → ((k.share l).gran (off / 16)).st ≠ 2 →
    old = leNat (rdN (k.share l).bytes off o.size) →
    (∃ u, s.performance k me pick = .done u (BitVec.ofNat 128 old) (BitVec.ofNat 128 old))
    ∧ answers (.storePerform c th n pick none) s fun t => inCtx t c fun j =>
      ∃ new, storesOver o.act (8 * o.size) old (o.b.toNat % 2 ^ (8 * o.size)) (o.c.toNat % 2 ^ (8 * o.size)) new
        ∧ rdN (j.share l).bytes off o.size = leBytes o.size (new.getD old)
        ∧ ∀ a, a < off ∨ off + o.size ≤ a → rd (j.share l).bytes a = rd (k.share l).bytes a)
  ∧ (∀ (c : CtxId) (th : ThreadId) (n pick : Nat) (s : State) (k : Ctx) (me : Committed) (o : MemOp) (p : Piece) (l off g : Nat),
    s.Inv → s.nextOp c th n k me o → o.act = .stf ∨ o.act = .sti → s.onePiece k me o p → p.tr.place = .scratch l off →
    off % 16 + o.size ≤ 16 → g = off / 16 →
    answers (.storePerform c th n pick none) s fun t => inCtx t c fun j =>
      rdN (j.share l).bytes off o.size = o.storeBytes
      ∧ (∀ a, a / 16 = g → a < off ∨ off + o.size ≤ a →
          rd (j.share l).bytes a = if ((k.share l).gran g).st = 2 then 0 else rd (k.share l).bytes a)
      ∧ (∀ a, a / 16 ≠ g → rd (j.share l).bytes a = rd (k.share l).bytes a)
      ∧ (((k.share l).gran g).readers = [] → ((j.share l).gran g).st = 1)
      ∧ (o.act = .sti → ((j.share l).gran g).sti ≠ some (me.thread, me.wave)))
  ∧ (∀ (c : CtxId) (th : ThreadId) (n pick : Nat) (s : State) (k : Ctx) (me : Committed) (o : MemOp) (p : Piece) (l off g : Nat),
    s.Inv → s.nextOp c th n k me o → o.act = .feset → s.onePiece k me o p → p.tr.place = .scratch l off → g = off / 16 →
    answers (.storePerform c th n pick none) s fun t => inCtx t c fun j =>
      ((j.share l).gran g).st = (if o.b.extractLsb' 0 64 = 0 then 0 else 1)
      ∧ (((k.share l).gran g).st = 2 → ((j.share l).gran g).readers = [])
      ∧ ∀ a, rd (j.share l).bytes a
          = if a / 16 = g ∧ ((k.share l).gran g).st = 2 then 0 else rd (k.share l).bytes a)
  ∧ (∀ (c : CtxId) (th : ThreadId) (n pick : Nat) (s : State) (k : Ctx) (me : Committed) (o : MemOp),
    s.nextOp c th n k me o → o.act = .own → o.m.ord = 0 → (∀ p ∈ o.ps, pieceWaits s.mem k p true = false) →
    (∀ q ∈ o.tiles, k.tileBusy me q = false) →
    answers (.storePerform c th n pick none) s fun t => t.mem = s.mem ∧ inCtx t c fun j => ∀ q ∈ o.tiles,
      q.2 ∈ (j.share q.1).engine ∧ (j.share q.1).bytes = (k.share q.1).bytes
      ∧ ∀ r ∈ (j.share q.1).ownRes, ¬(r.1 = q.2 ∧ r.2.1 = me.thread ∧ r.2.2 = me.wave))
  ∧ (∀ (c : CtxId) (th : ThreadId) (n pick : Nat) (s : State) (k : Ctx) (me : Committed) (o : MemOp), s.nextOp c th n k me o →
    (o.act = .pqput → answers (.storePerform c th n pick none) s fun t => t.mem = s.mem ∧ inCtx t c fun j => ∃ e,
      j.pq = k.pq ++ [e] ∧ e.die = k.phys me.lcl / 24 ∧ e.key = o.a.extractLsb' 0 32 ∧ e.payload = o.a.extractLsb' 32 96)
    ∧ (o.act = .pqget → k.pq ≠ [] → (∀ e ∈ k.pq, e.die < 4) → k.phys me.lcl < 96 →
      answers (.storePerform c th n pick none) s fun t => t.mem = s.mem ∧ inCtx t c fun j => ∃ e ∈ k.pq,
        j.pq = dropFirst (· == e) k.pq ∧ ((∃ x ∈ k.pq, x.die = k.phys me.lcl / 24) → e.die = k.phys me.lcl / 24)
        ∧ (k.pq.filter fun x => x.die == e.die && decide (x.key.toNat < e.key.toNat)).length < 32
        ∧ ∃ u, s.performance k me pick = .done u (e.payload ++ e.key) (e.payload ++ e.key)))
  ∧ (∀ (c : CtxId) (th : ThreadId) (n pick : Nat) (s : State) (k : Ctx) (me : Committed) (o : MemOp) (q : Queue),
    s.nextOp c th n k me o → s.queueGone k o = false → s.runsFull k (s.queueRuns k o) = false →
    s.runsWait k (s.queueRuns k o) = false → q = s.queue k o.desc →
    (o.act = .qput → q.held < q.cap → k.parkedAhead (parkOf me.thread me.wave o) .qput = false →
      answers (.storePerform c th n pick none) s fun t => t.mem
        = ((({ s with mem := s.mem.release (k.phys me.lcl) 2 q.scope } : State).devPut k (q.slot q.tail)
            (leBytes 16 o.b.toNat)).devPut k (q.va + 16) (leBytes 8 q.head ++ leBytes 8 ((q.tail + 1) % 2 ^ 64))).mem)
    ∧ (o.act = .qget → q.held ≠ 0 →
      (∃ u v, s.performance k me pick = .done u v v ∧ v = BitVec.ofNat 128 (s.devWord k (q.slot q.head) 16))
      ∧ answers (.storePerform c th n pick none) s fun t => t.mem
        = (s.devPut k (q.va + 16) (leBytes 8 ((q.head + 1) % 2 ^ 64) ++ leBytes 8 q.tail)).mem.acquire (k.phys me.lcl) 1 q.scope)
    ∧ (o.act = .qbind → answers (.storePerform c th n pick none) s fun t => t.mem
        = ((s.devPut k (q.va + 32) (leBytes 8 (o.b.extractLsb' 0 56).toNat)).devPut k (q.va + 40)
            (leBytes 2 (o.b.extractLsb' 64 12).toNat)).mem
        ∧ inCtx t c fun j => ∃ b ∈ j.binds, b.desc = BitVec.ofNat 64 o.desc ∧ b.bound = true ∧ b.ln = me.ln ∧ b.lcl = me.lcl
            ∧ b.handler.toNat = (o.b.extractLsb' 0 56).toNat ∧ b.maxh = (o.b.extractLsb' 64 12).toNat + 1)
    ∧ (o.act = .qunbind → (∃ b ∈ k.binds, b.desc = BitVec.ofNat 64 o.desc ∧ b.bound = true) →
      answers (.storePerform c th n pick none) s fun t => t.mem = (s.devPut k (o.desc + 32) (leBytes 8 0)).mem
        ∧ inCtx t c fun j => ∀ b ∈ j.binds, b.desc = BitVec.ofNat 64 o.desc → b.bound = false)
    ∧ (o.act = .iqadv → answers (.storePerform c th n pick none) s fun t => t.mem
        = (s.devPut k (q.front + 8 * (o.a.extractLsb' 56 4).toNat)
            (leBytes 8 (2 ^ 63 + max (s.frontier k q (o.a.extractLsb' 56 4).toNat) (o.a.extractLsb' 64 32).toNat))).mem)
    ∧ (o.act = .iqput → o.a.extractLsb' 96 32 ≠ 0 → q.held < q.cap →
      k.parkedAhead (parkOf me.thread me.wave o) .iqput = false → ∃ win r, win ≤ 256
        ∧ r.key = (o.b.extractLsb' 0 64).toNat ∧ r.value = (o.b.extractLsb' 64 64).toNat ∧ r.time = (o.a.extractLsb' 64 32).toNat
        ∧ r.mult = (o.a.extractLsb' 96 32).toInt
        ∧ answers (.storePerform c th n pick none) s fun t => t.mem
          = (((({ s with mem := s.mem.release (k.phys me.lcl) 2 q.scope } : State).devPut k
                (q.front + 8 * (o.a.extractLsb' 56 4).toNat)
                (leBytes 8 (2 ^ 63 + s.frontier k q (o.a.extractLsb' 56 4).toNat)))).irecsSet k q 1
              (insertRec (s.irecs k q) win r)).mem)
    ∧ (o.act = .iqcons → q.arr = 0 → answers (.storePerform c th n pick none) s fun t => t.mem
        = (s.irecsSet k q 0 (consolidate (fun r => r.time ≤ (o.a.extractLsb' 64 32).toNat) (s.irecs k q))).mem)
    ∧ (o.act = .iqget → q.arr = 0 → ∀ r rest, s.irecs k q = r :: rest → answers (.storePerform c th n pick none) s fun t => t.mem
        = (s.irecsSet k q 0 rest).mem.acquire (k.phys me.lcl) 1 q.scope))
  ∧ (∀ (s : State) (k : Ctx) (va : Nat) (b : List Byte) (p : Piece), s.Inv → pieces s.mem k k.devSite va b.length = .ok [p] →
    p.n = b.length → allAllowed s.keys [p] .w = none → p.tr.place = .hbm →
    (∀ r, tget s.mem.key (p.tr.pa / 64) = some r → p.tr.key = some r) →
    rdN (s.devPut k va b).mem.hbm p.tr.pa b.length = b
      ∧ (∀ a, a < p.tr.pa ∨ p.tr.pa + b.length ≤ a → rd (s.devPut k va b).mem.hbm a = rd s.mem.hbm a)
      ∧ (s.devPut k va b).mem.host = s.mem.host ∧ (s.devPut k va b).mem.peer = s.mem.peer)
  ∧ (∀ (rs : List IRec) (win : Nat) (r x : IRec), classSum (insertRec rs win r) x = classSum rs x + if x.same r then r.mult else 0)
  ∧ ∀ (rs : List IRec) (ok : IRec → Bool) (x : IRec), (∀ a b, a.same b = true → ok a = ok b) →
    classSum (consolidate ok rs) x = classSum rs x

/-! ### Faults, stalls and page walks (01 R49, 03 R81, 08 R213) -/

/-- A deliverable fault is delivered, once its queue can be written: the thread's STATE is 2 and FLT counts it; a context that two sweeps in a row find stalled
gets STALL in the oldest wave of its oldest thread; a walk of the page tables for a cluster fills the translation cache of the
cluster and that of its die (R49, R81, R213). What counts as in flight is log entry 127, as a token 76; held records are written
by 83, and entries leave the translation caches by 55. -/
def Obligations.FaultSteps : Prop :=
  (∀ (c : CtxId) (th : ThreadId) (s : State) (k : Ctx) (x : Thread) (r : FaultRec), s.ctx c = some k → k.heldRecs = [] →
    k.th th = some x → x.deliverable = some r → (k.state.toNat ≤ 1 ∨ k.state = 2 ∧ k.preempt = true) → s.faultQueueWaits k = false →
    answers (.faultDelivery c th) s fun t => inCtx t c fun j => j.flt = k.flt + 1
      ∧ ∃ y, j.th th = some y ∧ y.state = 2 ∧ y.delivered = true ∧ y.fault = some r)
  ∧ (∀ (pe slot : Nat) (s : State), (∀ k ∈ s.ctxs, s.stuck k = false) →
    exec (.stallSweep pe slot) s = .next { s with swept := [] })
  ∧ (∀ (pe slot : Nat) (c : CtxId) (s : State) (k : Ctx), s.ctx c = some k → s.stuck k = true → c ∉ s.swept →
    answers (.stallSweep pe slot) s fun t => c ∈ t.swept ∧ t.mem = s.mem ∧ t.ctx c = some { k with stalled := true })
  ∧ (∀ (pe slot : Nat) (c : CtxId) (s : State) (k : Ctx) (x : Thread) (v : Wave), s.ctx c = some k → s.stuck k = true →
    c ∈ s.swept → k.eldest = some (x, v) → k.th x.num = some x → x.isDropped v.num = false → x.delivered = false →
    answers (.stallSweep pe slot) s fun t => inCtx t c fun j => j.stalled = true ∧ ∃ y r, j.th x.num = some y ∧ y.fault = some r
      ∧ r.cause = 0x13 ∧ r.origin = 4 ∧ r.thread = x.num ∧ r.wave = v.num)
  ∧ ∀ (c : CtxId) (clu : Nat) (va : Addr) (s : State) (k : Ctx) (ea level : Nat), s.ctx c = some k → clu < Config.clusters →
    va.toNat / 4096 * 4096 < scratchBase → walk s.mem k (va.toNat / 4096 * 4096) = .ok (ea, level) →
    answers (.pageWalk c ⟨clu, va⟩) s fun t => t.mem.hbm = s.mem.hbm
      ∧ inCtx t c (fun j => j.tokens = k.tokens ∧ j.threads = k.threads ∧ j.shares = k.shares) ∧ ∀ site ∈ [clu, dieSite clu],
      (∃ e ∈ t.mem.tlb, e.ctx = c ∧ e.site = site ∧ e.vpn = va.toNat / 4096)
      ∧ ∀ e ∈ t.mem.tlb, e.ctx = c → e.site = site → e.vpn = va.toNat / 4096 →
          e.entryPA = ea ∧ e.entry = BitVec.ofNat 64 (s.mem.word64 ea)

/-! ### Launches (01 R18, 05 R134 to R139, 06 R164, R206) -/

/-- A queued launch record is admitted, with the next launch number, or refused with BAD-LAUNCH and its detail; then its entry
blocks are asked for on every logical cluster it will run on, and, once they and its pinned blocks are placed, its threads are
created with its barriers; it completes once nothing of it is left, or ends by its abort; a barrier all of whose members have
arrived or ended, and whose LBARs have all been performed, lets its threads go (R134, R135, R138, R139, R206). Events are posted by log
entry 21, entry blocks stand by 113, barriers open by 114, thread numbers are kept by 115, pins count by 19 and 111, and a failed
placement is dropped by 26. -/
def Obligations.LaunchSteps : Prop :=
  (∀ (die : Nat) (s : State) (q : QRec) (k : Ctx) (h : List Byte), s.nextLaunch die = some q → s.ctx q.ctx = some k →
    s.devWaits k q.lrec.kimg.toNat 64 false = false → s.doneWaits k q.lrec = false →
    s.launchBad k q.lrec = none → (k.launches = [] → k.genBusy = false) → s.devRead k q.lrec.kimg.toNat 64 .f = .ok h →
    answers (.launchAdmission die) s fun t => t.launchq = dropFirst (· == q) s.launchq ∧ t.mem = s.mem ∧ inCtx t q.ctx fun j =>
      (∃ n ∈ j.launches, n.num = k.nextLaunch ∧ n.lrec = q.lrec ∧ n.stage = 1 ∧ n.abort = none)
      ∧ (k.state = 0 → j.state = 1) ∧ (k.launches = [] → j.gen = k.gen + 1 ∧ j.sel = 0 ∧ j.fpend = true))
  ∧ (∀ (die : Nat) (s : State) (q : QRec) (k : Ctx) (d : Nat), s.nextLaunch die = some q → s.ctx q.ctx = some k →
    s.devWaits k q.lrec.kimg.toNat 64 false = false → s.doneWaits k q.lrec = false → s.launchBad k q.lrec = some d →
    answers (.launchAdmission die) s fun t => t.launchq = dropFirst (· == q) s.launchq ∧ inCtx t q.ctx fun j =>
      j.launches = k.launches ∧ ∃ e ∈ j.events, e.kind = 3 ∧ e.cause = 0x15 ∧ e.detail = BitVec.ofNat 16 d)
  ∧ (∀ (c : CtxId) (ln : BitVec 32) (s : State) (k : Ctx) (n : Launch), s.active c = some k → k.ln ln = some n → n.stage = 1 →
    n.abort = none → (∀ l, l < n.lrec.lclust.toNat → k.gateShut l = false) →
    answers (.threadCreation c ln) s fun t => inCtx t c fun j => (∃ m, j.ln ln = some m ∧ m.stage = 2) ∧ j.threads = k.threads
      ∧ (n.lrec.pin = false → ∀ idx ∈ indexVectors n.lrec.fans, ∀ p, .ok p ∈ s.entries k n.lrec →
          ⟨ln, n.lrec.placeOf idx, p.1, false⟩ ∈ j.wanted))
  ∧ (∀ (c : CtxId) (ln : BitVec 32) (s : State) (k : Ctx) (n : Launch), s.active c = some k → k.ln ln = some n → n.stage = 2 →
    n.abort = none → (∀ l, l < n.lrec.lclust.toNat → k.gateShut l = false) → k.placedAll n = true →
    k.threads.length + (indexVectors n.lrec.fans).length ≤ 65536 →
    answers (.threadCreation c ln) s fun t => inCtx t c fun j => (∃ m, j.ln ln = some m ∧ m.stage = 3
        ∧ m.barriers = newBarriers n.lrec.fans)
      ∧ ∀ idx ∈ indexVectors n.lrec.fans, ∃ x ∈ j.threads, x.ln = ln ∧ x.idx = idx ∧ x.lcl = n.lrec.placeOf idx)
  ∧ (∀ (c : CtxId) (ln : BitVec 32) (s : State) (k : Ctx) (n : Launch), s.ctx c = some k → k.ln ln = some n → s.complete k n = true →
    s.doneWaits k n.lrec = false →
    answers (.launchCompletion c ln) s fun t => inCtx t c fun j => (∀ m ∈ j.launches, m.num ≠ ln)
      ∧ ∃ e ∈ j.events, e.kind = 1 ∧ e.launch = ln)
  ∧ (∀ (c : CtxId) (ln : BitVec 32) (s : State) (k : Ctx) (n : Launch) (cause : BitVec 8) (detail : BitVec 16), s.ctx c = some k →
    k.ln ln = some n → n.abort = some (cause, detail) → k.launches = [n] → k.children ln = [] → (∀ x ∈ k.threads, x.ln ≠ ln) → k.committed = [] →
    k.binds = [] → (∀ q ∈ s.launchq, q.ctx ≠ c) → s.doneWaits k n.lrec = false →
    answers (.launchAbort c ln) s fun t => inCtx t c fun j => j.launches = []
      ∧ ∃ e ∈ j.events, e.kind = 2 ∧ e.cause = cause ∧ e.detail = detail ∧ e.launch = ln)
  ∧ ∀ (c : CtxId) (ln : BitVec 32) (level inst : Nat) (s : State) (k : Ctx) (n : Launch) (b : Barrier), s.ctx c = some k →
    k.ln ln = some n → n.barriers.find? (isBarrier level inst) = some b → b.arrived ≠ 0 →
    b.members.toNat ≤ b.arrived.toNat + b.ended.toNat →
    (∀ e ∈ k.committed, lbarOf ln level inst false e = true → laterPhase k.committed e = true) →
    answers (.barrierRelease c ln level inst) s fun t => inCtx t c fun j => (∃ m a, j.ln ln = some m
        ∧ m.barriers.find? (isBarrier level inst) = some a ∧ a.phase = !b.phase
        ∧ ((∀ e ∈ k.committed, lbarOf ln level inst false e = false) →
            (k.committed.filter (lbarOf ln level inst true)).Pairwise (fun d e => d.thread ≠ e.thread ∨ d.born ≠ e.born) →
            a.arrived = 0))
      ∧ ∀ e ∈ j.committed, lbarOf ln level inst true e = false

/-! ### Contexts leaving and entering the fabric (01 R14, 05 R140 to R142, 08 R222 to R226) -/

/-- A chosen context is gated, found quiet, forced, saved and restored; shares that leave together are gated, marked MOVING once
their waves are done, and move to their clusters at once, unless one of these has been withdrawn since, where they stay; a resident
switch keeps everything; the grant arbiter gives a free domain to the waiting context that comes first, and a launch that has waited
for a full interval in which no domain was free or idle pre-empts a context, whose domains it inherits (R14, R140, R141, R173, R222 to
R228). Which committed operations a save and a move still await is log entry 56; a forced pre-emption of a context on a tripped
cluster, log entry 142. Waves are marked MOVING by 58, a restore keeps clusters by 59, SC lines are cleaned by 57, grants are counted by
61, shares of a cause move together by 124, pre-emption is by 125, and the fabric's contexts are bounded by 129. -/
def Obligations.ContextSwitchSteps : Prop :=
  (∀ (c : CtxId) (s : State) (k : Ctx), s.ctx c = some k → c ∈ s.victims → k.state = 1 → k.gate = 0 →
    (∀ h ∈ k.shares, h.gated = false) → s.tripped k = false →
    answers (.preemptionGate c) s fun t => c ∉ t.victims ∧ t.mem = s.mem ∧ inCtx t c fun j => j.gate = 1 ∧ j.preempt = true
      ∧ j.committed = k.committed ∧ ∀ p ∈ j.parks, p.1 ∉ k.allThreads)
  ∧ (∀ (c : CtxId) (s : State) (k : Ctx), s.active c = some k → k.preempt = true → k.gate = 1 → s.quiet k = true →
    answers (.quiescenceReport c) s fun t => t.mem = s.mem ∧ inCtx t c fun j => j.gate = 2 ∧ j.forced = false
      ∧ j.committed = k.committed)
  ∧ (∀ (c : CtxId) (s : State) (k : Ctx), s.active c = some k → k.preempt = true → k.gate = 1 →
    answers (.preemptionForce c) s fun t => t.mem = s.mem ∧ inCtx t c fun j => j.gate = 2 ∧ j.forced = true
      ∧ j.committed = k.committed)
  ∧ (∀ (c : CtxId) (s s1 : State) (k : Ctx), s.ctx c = some k → k.state = 1 → k.preempt = true → k.gate = 2 →
    k.storesLeft s.mem = false → k.faultsLeft = false → (∀ h ∈ k.shares, h.engineRuns = false ∧ h.completes = false) →
    s.flushLogs c = (s1, true) →
    answers (.contextSaveReport c) s fun t => t.evseq = s1.evseq + 1 ∧ (∀ e ∈ t.heirs, e.1 ≠ c)
      ∧ ((∀ e ∈ s.heirs, e.1 ≠ c) → ∀ e ∈ t.owners, e.2 ≠ c) ∧ inCtx t c fun j => j.state = 3
      ∧ j.preempt = false ∧ j.placed = [] ∧ j.pins = [] ∧ j.savedPins = k.pins ∧ ∃ e ∈ j.events, e.kind = 5)
  ∧ (∀ (c : CtxId) (phys : List Nat) (s : State) (k : Ctx), s.ctx c = some k → k.state = 3 → s.fabricFull = false → c ∉ s.touched →
    (∃ p ∈ phys, p < Config.clusters) → s.capacityWaits k = false →
    (∀ p ∈ phys, p < Config.clusters → s.barred p = false ∧ k.desc.granted.contains p = true) →
    answers (.restore c phys) s fun t => inCtx t c fun j => j.state = 1 ∧ j.gate = 0 ∧ ∃ e ∈ j.events, e.kind = 6)
  ∧ (∀ (c : CtxId) (l p : Nat) (cause : BitVec 8) (s : State) (k : Ctx), s.ctx c = some k →
    (k.share l).moveTo = some (p, cause) → (∀ h ∈ k.shares, h.gated = false) → k.moves = true → cause ≠ 3 →
    answers (.migrationGate c l cause) s fun t => t.mem = s.mem ∧ inCtx t c fun j =>
      ∀ q ∈ s.migrationPlan k (k.phys l) l cause, (j.share q.1).gated = true)
  ∧ (∀ (c : CtxId) (l p : Nat) (cause : BitVec 8) (s : State) (k : Ctx), s.ctx c = some k →
    (k.share l).moveTo = some (p, cause) → (k.share l).gated = true → k.moves = true →
    (∀ q ∈ k.leavingFor cause, s.barred q.2 = false) → (∀ q ∈ k.leavingFor cause, k.shareDone q.1 = true) →
    (∃ q ∈ k.leavingFor cause, (tgetD k.pmap q.1 0).getLsbD 30 = false) →
    answers (.migrationMove c l) s fun t => t.mem = s.mem ∧ inCtx t c fun j =>
      ∀ q ∈ k.leavingFor cause, ∀ w, tget j.pmap q.1 = some w → w.getLsbD 30 = true)
  ∧ (∀ (c : CtxId) (l p : Nat) (cause : BitVec 8) (s : State) (k : Ctx), s.ctx c = some k →
    (k.share l).moveTo = some (p, cause) → (k.share l).gated = true → k.moves = true → k.lclusters ≤ 128 →
    (∀ q ∈ k.leavingFor cause, s.barred q.2 = false) → s.capacityWaits k = false →
    (∀ q ∈ k.leavingFor cause, k.shareStill s.mem q.1 = true ∧ (tgetD k.pmap q.1 0).getLsbD 30 = true ∧ q.1 < k.lclusters ∧ q.2 < 128) →
    ((k.leavingFor cause).map Prod.fst).Nodup → (s.moveShares k (k.leavingFor cause) cause).isSome = true →
    answers (.migrationMove c l) s fun t => inCtx t c fun j => ∀ q ∈ k.leavingFor cause,
      j.phys q.1 = q.2 ∧ (j.share q.1).gated = false ∧ (j.share q.1).moveTo = none)
  ∧ (∀ (c : CtxId) (l p : Nat) (cause : BitVec 8) (s : State) (k : Ctx), s.ctx c = some k →
    (k.share l).moveTo = some (p, cause) → (k.share l).gated = true → k.moves = true → s.barred p = true →
    answers (.migrationMove c l) s fun t => t.mem = s.mem ∧ t.owners = s.owners ∧ inCtx t c fun j => ∀ i, j.phys i = k.phys i)
  ∧ (∀ (c : CtxId) (s : State) (k : Ctx), s.ctx c = some k → k.state = 1 → k.gate = 0 →
    answers (.switchOutResident c) s fun t => t.mem = s.mem ∧ t.ctx c = some { k with state := 2 })
  ∧ (∀ (c : CtxId) (s : State) (k : Ctx), s.ctx c = some k → k.state = 2 → k.gate = 0 → s.fabricFull = false →
    answers (.switchInResident c) s fun t => t.mem = s.mem ∧ inCtx t c fun j => j.state = 1 ∧ j.placed = k.placed ∧ j.pins = k.pins)
  ∧ (∀ (die : Nat) (s : State) (w : Want) (d : Nat),
    (∀ i, i < 8 → s.tenantNeeds die (s.testDomains die (s.lease die i)) = false) →
    firstWant (s.before die) ((s.wants die).filter fun v => (s.freeFor die v).isSome) = some w → s.freeFor die w = some d →
    (∀ v ∈ (s.giveFree die 384).wants die, (s.giveFree die 384).reclaimable die v = none) →
    answers (.grantInterval die) s fun t => tget t.owners d = some w.ctx ∧ t.mem = s.mem)
  ∧ ∀ (die : Nat) (s s1 : State) (w : Want) (v : CtxId), s1 = (s.giveFree die 384).reclaim die 384 →
    (∀ i, i < 8 → s.tenantNeeds die (s.testDomains die (s.lease die i)) = false) →
    s.noneLeft die = true → s1.noneLeft die = true → w ∈ s1.wants die →
    answers (.grantInterval die) s fun t => (die, w.stamp) ∈ t.waited
      ∧ ((die, w.stamp) ∈ s.waited → s1.victimOf die w = some v → v ∈ t.victims ∧ (v, die, w.stamp) ∈ t.heirs)

/-! ### Power and temperature (02 R72, R73, 07 R207, 16 R452 to R457) -/

/-- A spine's boundary turns its domains' token counts, lets each take the spine selected for it unless it is held parked, and
takes a requested code; the next grant lies within MINGRANT and 9,216, and below the last one where the die drew more than its
budget; ballast fires where nothing is ready; a hot cluster is left, a throttled one slows by 8 codes, a tripped one stops; poor
coolant parks every domain (R72, R73, R207, R452 to R457). What a die has drawn is what its units have folded (log entries 53 and 146);
ballast fires where no PE of a domain is ready, and what its interval still owes is made up at the boundary (log entry 147). -/
def Obligations.PowerAndThermalSteps : Prop :=
  (∀ (clu spine cycles : Nat) (grants : List (BitVec 16)) (s : State), clu < Config.clusters → spine < 7 →
    answers (.powerInterval clu spine cycles ⟨grants⟩) s fun t => t.mem = s.mem
      ∧ t.spine (dieOfCluster clu) spine = (s.spine (dieOfCluster clu) spine).turn
      ∧ ∃ above : Bool, (above = true ↔ (s.power (dieOfCluster clu)).watts * 2048
          < (t.dieEnergy (dieOfCluster clu) - tgetD s.drawnAt (clu * 8 + spine) 0)
            * (25 * (20 + (s.spine (dieOfCluster clu) spine).ecode.toNat)))
      ∧ ∀ d w, d < 16 → (tgetD s.spnow (clu * 16 + d) 0).toNat = spine → w = tgetD s.pwrdom (clu * 16 + d) PwrDom.zero →
          tgetD t.spnow (clu * 16 + d) 0 = (if clu * 16 + d ∈ s.parked then 7 else tgetD s.spsel (clu * 16 + d) 0)
          ∧ ∃ g b, tgetD t.pwrdom (clu * 16 + d) PwrDom.zero = ({ w with ballastNow := b } : PwrDom).turn g
            ∧ b = (if (s.power (dieOfCluster clu)).ballast
                then w.ballastNow + BitVec.ofNat 16 (w.ballastDue - w.ballastNow.toNat) else w.ballastNow)
            ∧ 1 ≤ g.toNat ∧ g.toNat ≤ 9216 ∧ min 9216 (s.power (dieOfCluster clu)).mingrant.toNat ≤ g.toNat
            ∧ (above = true → max 1 (s.power (dieOfCluster clu)).mingrant.toNat < w.grant.toNat → g.toNat < w.grant.toNat)
            ∧ (above = false → w.grant.toNat < 9216 → w.grant.toNat < g.toNat))
  ∧ (∀ (clu dom : Nat) (s : State), clu < Config.clusters → dom < 16 → (s.power (dieOfCluster clu)).ballast = true →
    tgetD s.spnow (clu * 16 + dom) 0 ≠ 7 →
    (tgetD s.pwrdom (clu * 16 + dom) PwrDom.zero).ballastNow.toNat < (tgetD s.pwrdom (clu * 16 + dom) PwrDom.zero).ballastDue →
    (∀ pe, pe < 8 → ∀ k ∈ s.ctxs, k.active = true → k.readyIn clu (dom * 8 + pe) = false) →
    answers (.ballastFiring clu dom) s fun t => t.mem = s.mem ∧ tgetD t.pwrdom (clu * 16 + dom) PwrDom.zero
      = { tgetD s.pwrdom (clu * 16 + dom) PwrDom.zero with
          ballastNow := (tgetD s.pwrdom (clu * 16 + dom) PwrDom.zero).ballastNow + 1 })
  ∧ (∀ (clu : Nat) (temp : BitVec 12) (s : State), clu < Config.clusters → 760 ≤ temp.toNat →
    answers (.thermalHot clu temp) s fun t => (t.tempOf clu).hot = true ∧ (t.tempOf clu).temp = temp ∧ clu ∈ t.cooling
      ∧ t.mem = s.mem)
  ∧ (∀ (clu : Nat) (temp : BitVec 12) (s : State), clu < Config.clusters → 840 ≤ temp.toNat →
    answers (.throttleTick clu temp) s fun t => (t.tempOf clu).throt = true ∧ t.mem = s.mem
      ∧ ∀ n ∈ s.spinesOf clu, t.spine (dieOfCluster clu) n = (s.spine (dieOfCluster clu) n).slow)
  ∧ (∀ (clu : Nat) (temp : BitVec 12) (s : State), clu < Config.clusters → temp.toNat < 800 → (s.tempOf clu).throt = true →
    answers (.throttleTick clu temp) s fun t => t.mem = s.mem
      ∧ ∀ n, n < 7 → (s.spine (dieOfCluster clu) n).throt = true → n ∈ s.spinesOf clu →
          t.spine (dieOfCluster clu) n = (s.spine (dieOfCluster clu) n).quicken)
  ∧ (∀ (clu : Nat) (temp : BitVec 12) (s : State), clu < Config.clusters → 920 ≤ temp.toNat →
    answers (.thermalTrip clu temp) s fun t => (t.tempOf clu).trip = true ∧ clu ∈ t.cooling ∧ t.mem = s.mem
      ∧ ∀ d, d < 16 → tgetD t.spnow (clu * 16 + d) 0 = 7)
  ∧ (∀ (clu : Nat) (temp : BitVec 12) (s : State), clu < Config.clusters → temp.toNat < 760 →
    answers (.hotClear clu temp) s fun t => (t.tempOf clu).hot = false ∧ (temp.toNat < 680 → clu ∉ t.cooling) ∧ t.mem = s.mem)
  ∧ (∀ (flow inlet : Nat) (s : State), flow < 20 ∨ 45 < inlet →
    answers (.coolantFault flow inlet) s fun t => t.coolantBad = true ∧ t.mem = s.mem
      ∧ ∀ n, n < Config.clusters * 16 → tgetD t.spnow n 0 = 7)
  ∧ ∀ (flow inlet : Nat) (s : State), 20 ≤ flow → inlet ≤ 45 →
    exec (.coolantConditionClear flow inlet) s = .next { s with coolantBad := false }

/-! ### Leases, retirement, resets and teardown (06 R192 to R197, 07 R203, R204, 08 R220 to R232) -/

/-- A test lease starts, tests once the unit is withdrawn, starts again when a tenant needs its domains, is judged and returned; a
unit to be retired is withdrawn first and then retired with a signed record, a lane at once; an escalating error leads to a warm
reset, which empties the fabric and goes through its steps; a start that an error stops names the step; a cold start keeps the
flash alone; a context is torn down with a receipt (R142, R193 to R196, R203, R204, R220, R221, R228 to R232). Tests run as log entries
63 and 143 have it, a withdrawal as 126, a report of a launch as 64, what an escalating error touches as 105, and a
receipt and its place as 14 and 68. -/
def Obligations.HouseSteps : Prop :=
  (∀ (die i : Nat) (u : RetUnit) (s : State), die < 4 → (s.leasing die).en = true → (s.leasing die).hold = false →
    (s.leasesOf die).length < (s.leasing die).limit → s.leaseChoice die u = true →
    ((List.range 8).find? fun i => (s.lease die i).state = 0) = some i →
    answers (.leaseStart die u) s fun t => (t.lease die i).state = 1 ∧ (t.lease die i).unit = u.unit.extractLsb' 0 12
      ∧ t.evseq = s.evseq + 1 ∧ t.mem.hbm = s.mem.hbm)
  ∧ (∀ (die e : Nat) (failed : Bool) (s : State), (s.lease die e).state = 1 →
    answers (.leaseTesting die e failed) s fun t => t.mem.hbm = s.mem.hbm ∧ t.lease die e
      = if s.emptied (s.lease die e).retUnit then { s.lease die e with state := 2 } else s.lease die e)
  ∧ (∀ (die e : Nat) (failed : Bool) (s : State) (ds : List Nat), (s.lease die e).state = 2 →
    ds = s.testRoom die (s.lease die e) → ds ≠ [] → s.houseRuns = true →
    s.tenantNeeds die (s.testDomains die (s.lease die e)) = false → s.tenantNeeds die ds = false → (s.lease die e).kernels ≠ 255 →
    answers (.leaseTesting die e failed) s fun t => t.mem = s.mem ∧ (∀ d ∈ ds, (tget t.owners d).isSome = true) ∧ t.lease die e
      = { s.lease die e with kernels := (s.lease die e).kernels + 1
                             failed := if failed then (s.lease die e).failed + 1 else (s.lease die e).failed })
  ∧ (∀ (die e : Nat) (failed : Bool) (s : State), (s.lease die e).state = 2 →
    s.tenantNeeds die (s.testDomains die (s.lease die e)) = false →
    s.testRoom die (s.lease die e) = [] ∨ s.houseRuns = false → exec (.leaseTesting die e failed) s = .next s)
  ∧ (∀ (die e : Nat) (failed : Bool) (s : State), (s.lease die e).state = 2 →
    s.tenantNeeds die (s.testDomains die (s.lease die e)) = true →
    (∀ k, s.ctx 0 = some k → ∀ d ∈ s.testDomains die (s.lease die e), k.inDomain d = []) →
    answers (.leaseTesting die e failed) s fun t => t.lease die e = { s.lease die e with kernels := 0, failed := 0 }
      ∧ ∀ d ∈ s.testDomains die (s.lease die e), tget t.owners d ≠ some 0)
  ∧ (∀ (die e : Nat) (s : State), (s.lease die e).state = 2 → (s.lease die e).kernels ≠ 0 →
    answers (.leaseVerdict die e) s fun t => t.lease die e = { s.lease die e with state := 3 } ∧ t.mem = s.mem)
  ∧ (∀ (die e : Nat) (s : State), (s.lease die e).state = 3 → (s.lease die e).failed = 0 →
    (s.scoreOf (s.lease die e).retUnit).retired = false → (s.scoreOf (s.lease die e).retUnit).doomed = false →
    (s.scoreOf (s.lease die e).retUnit).score.toNat < 4096 →
    answers (.leaseVerdict die e) s fun t => t.lease die e = { s.lease die e with state := 4 } ∧ t.mem.hbm = s.mem.hbm
      ∧ (t.scoreOf (s.lease die e).retUnit).score.toNat = (s.scoreOf (s.lease die e).retUnit).score.toNat - 8)
  ∧ (∀ (die e : Nat) (s : State), (s.lease die e).state = 4 →
    answers (.leaseReturn die e) s fun t => t.lease die e = Lease.free ∧ t.mem.hbm = s.mem.hbm
      ∧ t.leaseHistory = s.leaseHistory ++ [⟨(s.lease die e).retUnit, (s.lease die e).seqStart, s.evseq, (s.lease die e).kernels,
          (s.lease die e).failed⟩])
  ∧ (∀ (u : RetUnit) (scrubbed : Bool) (s : State), unitExists u = true → u.kind.toNat < 3 → (s.scoreOf u).retired = false →
    (∀ w ∈ s.retiring, w.unit ≠ u) →
    answers (.retirement u ⟨3, scrubbed⟩) s (fun t => t.mem.hbm = s.mem.hbm ∧ t.flash = s.flash
      ∧ ∃ w ∈ t.retiring, w.unit = u ∧ w.reason = 3)
    ∧ answers (.controlLogicError u) s fun t => t.mem.hbm = s.mem.hbm ∧ t.flash = s.flash
      ∧ ∃ w ∈ t.retiring, w.unit = u ∧ w.reason = 4)
  ∧ (∀ (u : RetUnit) (reason : BitVec 8) (scrubbed : Bool) (s : State) (w : Withdrawal),
    s.retiring.find? (·.unit == u) = some w → s.emptied u = true → (s.scoreOf u).retired = false →
    answers (.retirement u ⟨reason, scrubbed⟩) s fun t => (t.scoreOf u).retired = true ∧ (∀ x ∈ t.retiring, x.unit ≠ u)
      ∧ (scrubbed = false → (u, w.ctxs) ∈ t.poweredOff)
      ∧ ∃ r ∈ t.flash.records, r.unit = u ∧ r.reason = w.reason ∧ r.sig = r.signed s.identity)
  ∧ (∀ (u : RetUnit) (scrubbed : Bool) (s : State), unitExists u = true → u.kind = 3 → (s.scoreOf u).retired = false →
    (∀ w ∈ s.retiring, w.unit ≠ u) →
    answers (.retirement u ⟨3, scrubbed⟩) s fun t => (t.scoreOf u).retired = true ∧ t.mem.hbm = s.mem.hbm ∧ u.unit.toNat ∈ t.lanesOut
      ∧ ∃ r ∈ t.flash.records, r.unit = u ∧ r.reason = 3)
  ∧ (∀ (f : Failing) (more : List Failing) (s : State),
    answers (.escalatingError f more) s fun t => t.agenda = .event .warmReset :: s.agenda ∧ t.mem = s.mem
      ∧ ∀ e ∈ f :: more, (∀ c ∈ s.touchedBy e, c ∈ t.touched) ∧ e ∈ t.failing)
  ∧ (∀ (lost : List Nat) (s : State), answers (.l2WritebackTimeout lost) s fun t =>
      t.agenda = .event .warmReset :: s.agenda
      ∧ ∀ l ∈ lost, l ∈ s.mem.l2Dirty → l ∈ t.mem.poison ∧ ∀ e ∈ t.mem.l2, e.line ≠ l)
  ∧ (∀ s : State, s.stillCold = false →
    answers .warmReset s fun t => t.owners = [] ∧ t.spines = [] ∧ t.leases = [] ∧ t.retiring = []
      ∧ t.start.kind = true ∧ t.start.step = 1 ∧ t.start.failstep = 0
      ∧ t.mem.l1 = [] ∧ t.mem.dir = [] ∧ t.mem.l2 = [] ∧ t.mem.tlb = []
      ∧ ∀ (c : CtxId) (k : Ctx), s.ctx c = some k → k.state ≠ 3 → inCtx t c fun j => j.threads = [] ∧ j.placed = []
          ∧ j.tokens = [] ∧ j.shares = [] ∧ ∀ n ∈ j.launches, n.abort.isSome = true)
  ∧ (∀ (last : BitVec 4) (error : Bool) (failed : List RetUnit) (s : State), s.start.kind = true → s.start.step.toNat ≤ 9 →
    1 ≤ s.start.step.toNat →
    answers (.coldStart ⟨false, last, error⟩ failed) s fun t => t.start.kind = true
      ∧ (last.toNat < 9 → last.toNat < t.start.step.toNat ∧ t.start.step.toNat ≤ 9
          ∧ (error = true → t.start.failstep.toNat = t.start.step.toNat))
      ∧ (9 ≤ last.toNat → (∀ q ∈ t.launchq, ∃ k, t.ctx q.ctx = some k ∧ k.state = 3) ∧ t.start.step = 10
          ∧ ∀ (c : CtxId) (k : Ctx), s.ctx c = some k → k.state ≠ 3 → inCtx t c fun j => j.launches = []))
  ∧ (∀ (error : Bool) (s : State), answers (.coldStart ⟨true, 9, error⟩ []) s fun t => t.ctxs = [] ∧ t.owners = [] ∧ t.mem.hbm = []
      ∧ t.start.kind = false ∧ t.start.step = 10 ∧ t.start.failstep = 0 ∧ t.flash.colds = s.flash.colds + 1
      ∧ t.flash.records = s.flash.records)
  ∧ (∀ (c : CtxId) (s : State) (k : Ctx), s.ctx c = some k → k.state ≠ 4 → c ≠ 0 → (∀ h ∈ k.shares, h.gated = false) →
    answers (.teardown c) s fun t => t.evseq = s.evseq + 1 ∧ (∀ q ∈ t.launchq, q.ctx ≠ c) ∧ inCtx t c fun j => j.state = 4
      ∧ j.gate = 1 ∧ ∀ n ∈ j.launches, n.abort.isSome = true)
  ∧ (∀ (c : CtxId) (s s1 : State) (k : Ctx), s.ctx c = some k → k.state = 4 → k.launches = [] → k.gate = 2 →
    k.storesLeft s.mem = false → (∀ h ∈ k.shares, h.engineRuns = false ∧ h.completes = false) → s.flushLogs c = (s1, true) →
    s1.receiptWaits k ((s.tearing.find? (·.ctx == c)).getD (k.tearingOf s.evseq)) = false →
    answers (.teardown c) s fun t => (∀ e ∈ t.owners, e.2 ≠ c) ∧ t.receipts.length = s.receipts.length + 1 ∧ inCtx t c fun j =>
      j.state = 0 ∧ j.threads = [] ∧ j.placed = [] ∧ j.tokens = [] ∧ ∃ e ∈ j.events, e.kind = 8)
  ∧ (∀ (p : Nat) (s : State), p < 4096 →
    answers (.patrolScrub [p]) s fun t => t.mem = s.mem ∧ t.scoreOf (unitOf 2 p) = (s.scoreOf (unitOf 2 p)).add 16)
  ∧ ∀ s : State, answers .orderlyPowerDown s fun t => t.mem = s.mem
      ∧ ∀ e ∈ s.scores, (e.1, (s.scoreOf e.1).score) ∈ t.flash.scores

/-! ### Units, matrix and engines (02 R57 to R64, 06 R180 to R184, 14) -/

/-- The bytes that local memory holds at a piece: HBM under its key slot, or the scratchpad, where a WAITING granule reads 0. -/
def Sys2Proof.Machine.State.bytesAt (s : State) (k : Ctx) (p : Piece) : List Byte :=
  (List.range p.n).map fun i => match p.tr.place with
    | .scratch m off => if ((k.share m).gran ((off + i) / 16)).st = 2 then 0 else rd (k.share m).bytes (off + i)
    | _ => s.mem.keyed p.tr.key (p.tr.pa + i)

/-- A scratchpad holds a tile's 8 rows at the TAIL of a ring, each row's 48 elements followed by zeros (R381). -/
def Sys2Proof.Machine.Share.holdsTile (h : Share) (r : Ring) (es : List (BitVec 64)) : Prop :=
  ∀ i, i < 8 → (∀ n, n < 48 → rdN h.bytes (rOff r (rTail r + i) + 8 * n) 8 = leBytes 8 (es.getD (i * 48 + n) 0).toNat)
    ∧ ∀ b, 384 ≤ b → b < rRow r → rd h.bytes (rOff r (rTail r + i) + b) = 0

/-- A ring of a share can take a tile: room, no granule held, no reader waiting in the scratchpad, rows that hold one; and its rows lie
apart from a completion word. -/
def Sys2Proof.Machine.Share.tileFits (h : Share) (n cwoff : Nat) : Prop :=
  h.takesTile n = true ∧ 384 ≤ rRow (h.ring n) ∧ Memory.wf h.bytes = true ∧ (∀ g, (h.gran g).readers = [])
  ∧ ∀ i, i < 8 → cwoff + 8 ≤ rOff (h.ring n) (rTail (h.ring n) + i)
      ∨ rOff (h.ring n) (rTail (h.ring n) + i) + rRow (h.ring n) ≤ cwoff

/-- A chime evaluation takes every pulse and counts its counters down; a counter at 0 fires; a drum emits its control token and
ends; a stream unit feeds or drains one element and ends (R62, R63, R64, R124, R181, R184, R392). What a loader feeds are the bytes at
its element's address. Pulses count as log entries 29 and 108 have it, a drain and the end of a pattern as 30. -/
def Obligations.UnitSteps : Prop :=
  (∀ (c : CtxId) (l : Nat) (s : State) (k : Ctx), s.active c = some k → (k.share l).chime.pulses ≠ [] →
    answers (.chimeEvaluation c l) s fun t => t.mem = s.mem ∧ inCtx t c fun j => (j.share l).chime.pulses = []
      ∧ ∀ (n : Nat) (e : BitVec 64), n < 16 → tgetD (k.share l).chime.ctrs n 0 = e → ctOn e = true → ctIn e < 48 →
          ((k.share l).chime.pulses.filter (· == ctIn e)).length < ctCount e →
          tgetD (j.share l).chime.ctrs n 0 = ctSet e (ctCount e - ((k.share l).chime.pulses.filter (· == ctIn e)).length))
  ∧ (∀ (c : CtxId) (l n : Nat) (s : State) (k : Ctx), s.active c = some k → n < 16 →
    ctOn (tgetD (k.share l).chime.ctrs n 0) = true → ctCount (tgetD (k.share l).chime.ctrs n 0) = 0 →
    answers (.chimeCounterFire c l n) s fun t => t.mem = s.mem ∧ inCtx t c fun j =>
      (j.share l).chime.pulses = (k.share l).chime.pulses ++ [32 + n] ∧ tgetD (j.share l).chime.ctrs n 0
        = ctSet (tgetD (k.share l).chime.ctrs n 0) (ctReload (tgetD (k.share l).chime.ctrs n 0)))
  ∧ (∀ (c : CtxId) (l : Nat) (n : BitVec 13) (s : State) (k : Ctx) (d : Drum) (x : Thread) (p : Placed), s.active c = some k →
    ((k.share l).drums.find? fun d => d.num == n) = some d → d.running = true → d.isOver = false → d.runOut = none →
    k.injection (d.tag.extractLsb' 0 16) (d.tag.extractLsb' 16 24) = .go → k.th (d.tag.extractLsb' 0 16) = some x →
    x.isDropped (d.tag.extractLsb' 16 24) = false → k.placedAt x d.blk = some p →
    s.powered (k.seatOf p * 16 + ((p.at_[d.slot]?).map (·.1) |>.getD 0) / 8) = true → k.gateShut l = false →
    answers (.drumEmit c l n) s fun t => t.mem = s.mem ∧ inCtx t c fun j =>
      (∃ e ∈ (j.share l).drums, e.num = n ∧ e.loops = d.advance.loops ∧ e.tag = nextTag d.tag)
      ∧ ∀ q, k.leads p (d.tag.extractLsb' 0 16) (dest1 d.t d.slot) = some q → ∃ a ∈ j.tokens, a.blk = q.1 ∧ a.dst = q.2
          ∧ a.tok.thread = d.tag.extractLsb' 0 16 ∧ a.tok.wave = d.tag.extractLsb' 16 24 ∧ a.tok.value = d.token)
  ∧ (∀ (c : CtxId) (l : Nat) (n : BitVec 13) (s : State) (k : Ctx) (d : Drum), s.active c = some k →
    ((k.share l).drums.find? fun d => d.num == n) = some d → d.running = true → d.isOver = true →
    answers (.drumEnd c l n) s fun t => t.mem = s.mem ∧ inCtx t c fun j => ∃ e ∈ (j.share l).drums, e.num = n
      ∧ e.running = false ∧ e.ctl.getLsbD 4 = true ∧ e.loops = d.loops)
  ∧ (∀ (c : CtxId) (l n pick : Nat) (s : State) (k : Ctx) (u : Agen) (a : Arrived) (x : Thread) (ps : List Piece),
    s.active c = some k → tget (k.share l).agens n = some u → u.running = true → u.isOver = false → u.ctl.getLsbD 30 = true →
    u.ctl.getLsbD 29 = false → k.drainTok u (u.ctl.extractLsb' 20 4).toNat = some a →
    k.injection (u.tag.extractLsb' 0 16) (u.tag.extractLsb' 16 24) = .go → k.th (u.tag.extractLsb' 0 16) = some x →
    0 ≤ u.address 0 → u.address 0 < 2 ^ 56 →
    s.probePlain k l (u.access (u.address 0).toNat a.tok.value) = .ok ps →
    answers (.streamElement c l n pick) s fun t => t.mem = s.mem ∧ inCtx t c fun j =>
      tget (j.share l).agens n = some u.advance ∧ j.tokens = dropFirst (· == a) k.tokens
      ∧ ∀ v, k.wv (u.tag.extractLsb' 0 16) (u.tag.extractLsb' 16 24) = some v →
          j.wv (u.tag.extractLsb' 0 16) (u.tag.extractLsb' 16 24)
            = some { v with drains := v.drains ++ [{ u.access (u.address 0).toNat a.tok.value with ps := ps }] })
  ∧ (∀ (c : CtxId) (l n pick : Nat) (s : State) (k : Ctx) (u : Agen) (x : Thread) (ps : List Piece),
    s.active c = some k → tget (k.share l).agens n = some u → u.running = true → u.isOver = false → u.ctl.getLsbD 30 = false →
    u.ctl.getLsbD 29 = false → k.injection (u.tag.extractLsb' 0 16) (u.tag.extractLsb' 16 24) = .go →
    k.th (u.tag.extractLsb' 0 16) = some x → x.isDropped (u.tag.extractLsb' 16 24) = false →
    0 ≤ u.address 0 → u.address 0 < 2 ^ 56 → s.probePlain k l (u.access (u.address 0).toNat 0) = .ok ps →
    (∀ p ∈ ps, piecePoison s.mem p = false) →
    s.feedWaits k l x (u.tag.extractLsb' 16 24) { u.access (u.address 0).toNat 0 with ps := ps } = false →
    ({ u.access (u.address 0).toNat 0 with ps := ps } : MemOp).torn = false → pick < 16 →
    answers (.streamElement c l n pick) s fun t => inCtx t c fun j => tget (j.share l).agens n = some { u.advance with part := [] }
      ∧ ∃ a ∈ j.tokens, a.blk = u.blk ∧ a.dst = .port (u.ctl.extractLsb' 20 4).toNat ∧ a.tok.thread = u.tag.extractLsb' 0 16
          ∧ a.tok.wave = u.tag.extractLsb' 16 24 ∧ (k.logs = [] → j.tokens = k.tokens ++ [a]
            ∧ (k.prior x (u.tag.extractLsb' 16 24) 0xFF = [] → u.ctl.extractLsb' 18 2 ≠ 3 → l ∉ k.discards → x.lcl = l →
              (∀ p ∈ ps, (p.tr.place = .hbm ∧ s.mem.actsAs p.tr = 3) ∨ ∃ m off, p.tr.place = .scratch m off) →
              a.tok.value = BitVec.ofNat 128 (leNat (ps.flatMap (s.bytesAt k))))))
  ∧ ∀ (c : CtxId) (l n : Nat) (s : State) (k : Ctx) (u : Agen), s.active c = some k → tget (k.share l).agens n = some u →
    u.running = true → u.isOver = true →
    answers (.streamEnd c l n) s fun t => t.mem = s.mem ∧ inCtx t c fun j => ∃ v, tget (j.share l).agens n = some v
      ∧ v.running = false ∧ v.pos = 0 ∧ v.dims = u.dims ∧ v.base = u.base

/-- Weights are loaded from a ring; an MMA is accepted and adds one row's passes, or, where the checksum column finds an error in
the array, adds nothing and scores its cluster; a due tile is released, to a ring or as a token, and cleared unless it is held; a tile is
appended to a ring; an engine command moves its units and writes its completion word; a collective starts (R57, R60, R218, R219, R369,
R374, R377, R378, R381, R387, R388). Rows take power tokens by log entry 41, a node's element is overwritten without ACC by 139, a TK
release is made while its command holds its wave by 40 and 123, an armed command may wait for a place by 128. -/
def Obligations.MatrixAndEngineSteps : Prop :=
  (∀ (c : CtxId) (l d : Nat) (s : State) (k : Ctx) (q : DomCmd) (w : Weights) (r : Ring), s.active c = some k →
    k.headCmd l d [.wload] = some q → q.cancel = false → (k.share q.lcl).ring q.x.ring.toNat = r → rValid r = true →
    q.loadN ≤ rFill r → weightsOf ((k.share q.lcl).ringRows r q.loadN) q.loadK q.loadN q.loadSparse (rRow r) = some w →
    answers (.wloadExecute c l d none) s fun t => t.mem = s.mem ∧ inCtx t c fun j => (j.dom l d).weights = some w
      ∧ (j.dom l d).wdesc = wdescOf w q.loadN ∧ (j.dom l d).wdig = digestOf ((k.share q.lcl).ringRows r q.loadN).flatten
      ∧ (j.share q.lcl).ring q.x.ring.toNat = rSetHead r (rHead r + q.loadN))
  ∧ (∀ (c : CtxId) (l d tag : Nat) (s : State) (k : Ctx) (q : DomCmd) (w : Weights) (r : Ring), s.active c = some k →
    k.headCmd l d [.mma, .mmasp] = some q → q.accepted = false → q.cancel = false → (k.share q.lcl).ring q.x.ring.toNat = r →
    rFill r ≠ 0 → (k.dom l d).weights = some w →
    headTag q ((k.share q.lcl).load (rOff r (rHead r)) (rRow r)) (rRow r) = some tag →
    tilesBad (k.dom l d) (k.dom l (q.target d)) q (classOf tag w.fmt) = false →
    answers (.matrixAcceptance c l d) s fun t => t.mem = s.mem ∧ inCtx t c fun j => ∃ e, (j.dom l d).queue.head? = some e
      ∧ e.accepted = true ∧ e.cls = classOf tag w.fmt ∧ e.a = q.a ∧ e.done = q.done)
  ∧ (∀ (c : CtxId) (l d tag : Nat) (s : State) (k : Ctx) (q : DomCmd) (w : Weights) (r : Ring) (outs : List (List Int × Nat)),
    s.active c = some k → k.headCmd l d [.mma, .mmasp] = some q → q.accepted = true → q.rel = [] → q.done < q.rows →
    s.powered (k.phys l * 16 + d) = true → q.cancel = false →
    (q.turn = true ∨ turnCome (k.dom l (q.target d)) q ((k.dom l d).nodes (k.dom l (q.target d)) q q.cls) = true) →
    (k.dom l d).weights = some w → (k.share q.lcl).ring q.x.ring.toNat = r → rFill r ≠ 0 →
    headTag q ((k.share q.lcl).load (rOff r (rHead r)) (rRow r)) (rRow r) = some tag →
    rowBad (k.dom l d) (k.dom l (q.target d)) w q tag = false → q.decay = false →
    checkPasses w tag q.cls q.kUsed ((k.dom l d).segments (q.act == .mmasp)) ((k.share q.lcl).load (rOff r (rHead r)) (rRow r)) []
      (passes w q q.cls tag ((k.dom l d).segments (q.act == .mmasp)) ((k.share q.lcl).load (rOff r (rHead r)) (rRow r)) none)
      = true →
    outs = (List.range q.nUsed).map (fun n => passOf w q q.cls tag ((k.dom l d).segments (q.act == .mmasp))
      ((k.share q.lcl).load (rOff r (rHead r)) (rRow r)) (w.rows.getD n []) none) →
    answers (.matrixRow c l d none none) s fun t => t.mem = s.mem ∧ inCtx t c fun j =>
      (j.share q.lcl).ring q.x.ring.toNat = rSetHead r (rHead r + 1)
      ∧ ∀ i, i < (k.dom l d).groupOf q q.cls → ∀ e,
          ((j.dom l (q.target d)).tile (q.first + q.done / 8 * (k.dom l d).groupOf q q.cls + i)).getD e 0
            = (rowInto q.cls i (q.done % 8) q.acc
                ((k.dom l (q.target d)).tile (q.first + q.done / 8 * (k.dom l d).groupOf q q.cls + i)) outs).getD e 0)
  ∧ (∀ (c : CtxId) (l d tag : Nat) (s : State) (k : Ctx) (q : DomCmd) (w : Weights) (r : Ring) (g : Glitch),
    s.active c = some k → k.headCmd l d [.mma, .mmasp] = some q → q.accepted = true → q.rel = [] → q.done < q.rows →
    s.powered (k.phys l * 16 + d) = true → q.cancel = false →
    (q.turn = true ∨ turnCome (k.dom l (q.target d)) q ((k.dom l d).nodes (k.dom l (q.target d)) q q.cls) = true) →
    (k.dom l d).weights = some w → (k.share q.lcl).ring q.x.ring.toNat = r → rFill r ≠ 0 →
    headTag q ((k.share q.lcl).load (rOff r (rHead r)) (rRow r)) (rRow r) = some tag →
    rowBad (k.dom l d) (k.dom l (q.target d)) w q tag = false →
    checkPasses w tag q.cls q.kUsed ((k.dom l d).segments (q.act == .mmasp)) ((k.share q.lcl).load (rOff r (rHead r)) (rRow r))
      [Glitch.term g] (passes w q q.cls tag ((k.dom l d).segments (q.act == .mmasp))
        ((k.share q.lcl).load (rOff r (rHead r)) (rRow r)) (some g)) = false →
    answers (.matrixRow c l d (some g) none) s fun t => t.mem = s.mem
      ∧ t.scoreOf (clusterUnit (k.phys l)) = (s.scoreOf (clusterUnit (k.phys l))).add 64
      ∧ inCtx t c fun j => (j.share q.lcl).ring q.x.ring.toNat = r
        ∧ ∀ i, (j.dom l (q.target d)).tile i = (k.dom l (q.target d)).tile i)
  ∧ (∀ (c : CtxId) (l d tile dq : Nat) (s : State) (k : Ctx) (cf : BitVec 64) (q : DomCmd), s.active c = some k →
    tile ∈ (k.dom l d).dues → k.matrixStill l = false → (k.dom l d).cfg tile = cf → (k.share l).completing d tile = some (dq, q) →
    (cfTk cf = true ∨ (rValid ((k.share q.lcl).ring ((cfTgt cf).toNat % 32)) = true
      ∧ 384 ≤ rRow ((k.share q.lcl).ring ((cfTgt cf).toNat % 32))
      ∧ (k.share q.lcl).takesTile ((cfTgt cf).toNat % 32) = true)) →
    answers (.accumulatorRelease c l d tile) s fun t => t.mem = s.mem ∧ inCtx t c fun j => tile ∉ (j.dom l d).dues
      ∧ (j.dom l d).cfg tile = cfSetSeen cf 0
      ∧ (cfHold cf = true ∨ q.holdElems = true → (j.dom l d).tile tile = (k.dom l d).tile tile)
      ∧ (cfHold cf = false → q.holdElems = false → (j.dom l d).tile tile = List.replicate 384 0)
      ∧ (cfTk cf = false → (k.share q.lcl).tileFits ((cfTgt cf).toNat % 32) q.cwoff →
          (j.share q.lcl).holdsTile ((k.share q.lcl).ring ((cfTgt cf).toNat % 32)) ((k.dom l d).tile tile)
          ∧ (j.share q.lcl).ring ((cfTgt cf).toNat % 32) = rSetTail ((k.share q.lcl).ring ((cfTgt cf).toNat % 32))
              (rTail ((k.share q.lcl).ring ((cfTgt cf).toNat % 32)) + 8))
      ∧ ∀ m b x, cfTk cf = true → dq = d → q.bus = false → q.hold = true → destByte false (cfTgt cf) q.slot = .slot m b →
          k.th q.thread = some x → x.isDropped q.wave = false → ∃ a more, j.tokens = k.tokens ++ a :: more ∧ a.blk = q.blk
            ∧ a.dst = .slot m b ∧ a.tok.thread = q.thread ∧ a.tok.wave = q.wave ∧ a.tok.value = BitVec.ofNat 128 tile)
  ∧ (∀ (c : CtxId) (l d : Nat) (s : State) (k : Ctx) (q : DomCmd), s.active c = some k →
    k.headCmd l d [.accrd, .accspl, .accrst, .scacc, .scaccv] = some q → q.cancel = false → q.act = .accrd →
    q.x.tile.toNat ∉ (k.dom l d).dues → (k.share q.lcl).takesTile q.x.ring.toNat = true → (k.share q.lcl).wordFree q.cwoff = true →
    answers (.accumulatorCommandExecute c l d none) s fun t => t.mem = s.mem ∧ inCtx t c fun j =>
      (j.share q.lcl).ring q.x.ring.toNat
        = rSetTail ((k.share q.lcl).ring q.x.ring.toNat) (rTail ((k.share q.lcl).ring q.x.ring.toNat) + 8)
      ∧ ((k.share q.lcl).tileFits q.x.ring.toNat q.cwoff →
          (j.share q.lcl).holdsTile ((k.share q.lcl).ring q.x.ring.toNat) ((k.dom l d).tile q.x.tile.toNat))
      ∧ (j.dom l d).tile q.x.tile.toNat = (k.dom l d).tile q.x.tile.toNat)
  ∧ (∀ (c : CtxId) (l i pick n : Nat) (s t : State) (k : Ctx) (q : EngCmd) (ts : List (Nat × Nat)), s.active c = some k →
    (k.share l).cmds[i]? = some q → q.started = true → q.armed = false → q.waits = false → q.fin = none → k.gate < 2 →
    (tgetD k.pmap l 0).getLsbD 30 = false → q.cancel = false → (q.x.ord = 2 → q.released = true) →
    s.unit k l q none = .moved t ts n →
    answers (.engineUnit c l i pick none) s fun u => u.mem = t.mem ∧ inCtx u c fun j => ∃ e, (j.share l).cmds[i]? = some e
      ∧ e.done = q.done + n ∧ (e.fin = if q.count ≤ q.done + n then some (1, 0) else none))
  ∧ (∀ (c : CtxId) (l i pick : Nat) (s : State) (k : Ctx) (q : EngCmd), s.active c = some k → (k.share l).cmds[i]? = some q →
    q.waits = true → q.fin = none → k.gate < 2 → (tgetD k.pmap l 0).getLsbD 30 = false →
    (64 ≤ s.engineLoad (k.phys l) → exec (.engineUnit c l i pick none) s = .next s)
    ∧ (s.engineLoad (k.phys l) < 64 → answers (.engineUnit c l i pick none) s fun t => t.mem = s.mem ∧ inCtx t c fun j =>
        (j.share l).cmds[i]? = some { q with waits := false, started := q.act != .coll }))
  ∧ (∀ (c : CtxId) (l i : Nat) (s : State) (k : Ctx) (q : EngCmd) (e : BitVec 8 × BitVec 24), s.ctx c = some k →
    (tgetD k.pmap l 0).getLsbD 30 = false → ((k.share l).cmds.filter (·.fin.isSome))[i]? = some q → q.fin = some e →
    (k.share l).wordFree q.cwoff = true → Memory.wf (k.share l).bytes = true → q.tiles = [] →
    answers (.commandCompletion c l i) s fun t => t.mem = s.mem ∧ inCtx t c fun j =>
      rdN (j.share l).bytes q.cwoff 8 = wordOf e.1 e.2 q.done ∧ (j.share l).cmds = dropFirst (· == q) (k.share l).cmds)
  ∧ ∀ (c : CtxId) (id : BitVec 16) (s : State) (k : Ctx) (m : Nat × EngCmd) (ms : List (Nat × EngCmd)), s.active c = some k →
    ((k.collective id.toNat).filter fun m => !m.2.armed && !m.2.waits && !m.2.started && !m.2.cancel) = m :: ms →
    m.2.collMembers ≤ ms.length + 1 →
    answers (.collectiveStart c id) s fun t => t.mem = s.mem ∧ inCtx t c fun j => ∀ h ∈ j.shares, ∀ e ∈ h.cmds, e.act = .coll →
      e.fin = none → e.collId = id.toNat → e.armed = false → e.started = true

/-! ### The host, peers, links and the pod (04 R126, 05 R146, R150, R159, R160, 16 R438 to R451) -/

/-- The host rings, its commands are taken in sequence, events reach its queue; a bound queue's record starts a handler; bias
changes, host and peer accesses, snoops, attestation, links and the gondola (R97, R126, R146, R150, R159, R160, R438 to R450). Launches
are checked when consumed by log entry 104, EVCONS comes with 71, bias requests go by 122, SPDM's codes by 70, a peer's binding by
151, and stolen work by 69. -/
def Obligations.HostAndPodSteps : Prop :=
  (∀ (c : CtxId) (prod : BitVec 32) (s : State) (k : Ctx), s.ctx c = some k →
    answers (.hostDoorbell c prod) s fun t => t.mem = s.mem ∧ t.ctx c = some { k with cmdprod := prod, doorbell := true })
  ∧ (∀ (c : CtxId) (s : State) (k : Ctx) (r : LaunchRec), s.ctx c = some k → k.doorbell = true → k.cmdcons ≠ k.cmdprod →
    k.state ≠ 4 → r = { launchRecOf (leBytes 64 (s.devWord k (k.desc.cmdBase + (k.cmdcons + 1).toNat % 2 ^ k.desc.cmdLog2 * 64) 64))
      with parent := 0xFFFFFFFF } → r.seq = k.cmdcons + 1 → s.launchBad k r = none → s.queued (k.dieOf 0) r.prio.toNat < 1024 →
    s.devWaits k (k.desc.cmdBase + (k.cmdcons + 1).toNat % 2 ^ k.desc.cmdLog2 * 64) 64 false = false →
    s.devWaits k r.kimg.toNat 64 false = false → s.doneWaits k r = false →
    answers (.hostCommand c) s fun t => t.mem = s.mem
      ∧ t.launchq = s.launchq ++
          [{ die := k.dieOf 0, prio := r.prio.toNat, ctx := c, lrec := r, fromHost := true, stamp := s.tick }]
      ∧ inCtx t c fun j => j.cmdcons = k.cmdcons + 1 ∧ j.doorbell = true ∧ j.cmdprod = k.cmdprod ∧ j.events = k.events)
  ∧ (∀ (c : CtxId) (s : State) (k : Ctx) (r : LaunchRec), s.ctx c = some k → k.doorbell = true → k.cmdcons ≠ k.cmdprod →
    k.state ≠ 4 → r = { launchRecOf (leBytes 64 (s.devWord k (k.desc.cmdBase + (k.cmdcons + 1).toNat % 2 ^ k.desc.cmdLog2 * 64) 64))
      with parent := 0xFFFFFFFF } → r.seq ≠ k.cmdcons + 1 →
    s.devWaits k (k.desc.cmdBase + (k.cmdcons + 1).toNat % 2 ^ k.desc.cmdLog2 * 64) 64 false = false →
    answers (.hostCommand c) s fun t => t.mem = s.mem ∧ t.launchq = s.launchq ∧ inCtx t c fun j =>
      j.cmdcons = k.cmdcons ∧ j.doorbell = false ∧ j.events = k.events ++ [{ hostEvent 4 with cmdseq := r.seq }])
  ∧ (∀ (c : CtxId) (cons : BitVec 32) (s : State) (k : Ctx) (e : HostEvent) (rest : List HostEvent), s.ctx c = some k →
    k.events = e :: rest → (k.evprod - cons).toNat < 2 ^ k.desc.evLog2 →
    answers (.hostEventWrite c cons) s fun t => inCtx t c fun j => j.events = rest ∧ j.evprod = k.evprod + 1 ∧ j.evcons = cons)
  ∧ (∀ (c : CtxId) (desc : Addr) (s : State) (k : Ctx) (b : Binding) (th : ThreadId), s.active c = some k →
    (k.binds.find? fun b => b.desc == desc && b.bound) = some b → k.spareThread = some th → b.running.length < b.maxh →
    k.dispatchable (s.queue k desc.toNat) = true → k.gateShut b.lcl = false → (k.ln b.ln).isSome = true →
    s.runsFull k [((s.queue k desc.toNat).va, 64, kRead ||| kWrite),
      ((s.queue k desc.toNat).slot (s.queue k desc.toNat).head, 16, kRead)] = false →
    s.runsWait k [((s.queue k desc.toNat).va, 64, kRead ||| kWrite),
      ((s.queue k desc.toNat).slot (s.queue k desc.toNat).head, 16, kRead)] = false →
    answers (.queueDispatch c desc) s fun t => inCtx t c fun j => (∃ x ∈ j.threads, x.num = th ∧ x.ln = b.ln ∧ x.lcl = b.lcl)
      ∧ ∃ a ∈ j.binds, a.desc = b.desc ∧ a.running = b.running ++ [th])
  ∧ (∀ (byHouse toHost : Bool) (page : BitVec 40) (hd : List (Nat × List Byte)) (s : State) (i : Instr),
    i = (if toHost then .biasToHost byHouse page hd else .biasToDevice byHouse page hd) → (s.biasReq byHouse).busy = true →
    (s.biasReq byHouse).goTo = toHost → (s.biasReq byHouse).goPage = page →
    (s.biasWaits byHouse = true → exec i s = .next s)
    ∧ (s.biasWaits byHouse = false →
      (s.exposed page.toNat = false → answers i s fun t => t.mem = s.mem ∧ t.biascnt = s.biascnt
        ∧ t.biasReq byHouse = { s.biasReq byHouse with busy := false, result := 2, locks := false })
      ∧ (s.exposed page.toNat = true → (s.biasReq byHouse).locks = false → s.mem.bias.contains page.toNat = toHost →
        answers i s fun t => t.mem = s.mem ∧ t.biascnt = s.biascnt
          ∧ t.biasReq byHouse = { s.biasReq byHouse with busy := false, result := 1, locks := false })
      ∧ (s.exposed page.toNat = true → (s.biasReq byHouse).locks = false → s.mem.bias.contains page.toNat = !toHost →
        answers i s fun t => page.toNat ∈ t.mem.locked ∧ t.mem.bias = s.mem.bias ∧ t.mem.hbm = s.mem.hbm
          ∧ t.biasReq byHouse = { s.biasReq byHouse with locks := true })
      ∧ (s.exposed page.toNat = true → (s.biasReq byHouse).locks = true → page.toNat ∈ s.mem.locked →
        answers i s fun t => t.mem.bias.contains page.toNat = toHost ∧ page.toNat ∉ t.mem.locked ∧ t.biascnt = s.biascnt + 1
          ∧ t.biasReq byHouse = { s.biasReq byHouse with busy := false, result := 1, locks := false })))
  ∧ (∀ (pa n : Nat) (s : State), s.exposed (pa / 4096) = true → n ≤ 64 → pa % 64 + n ≤ 64 → pa / 4096 ∉ s.mem.locked →
    pa / 64 ∉ s.mem.poison → pa / 4096 ∈ s.mem.bias →
    answers (.hostMemoryRequest pa false none n) s fun t => t.mem = s.mem
      ∧ t.hostReply = s.hostReply ++ [(List.range n).map fun i => s.mem.keyed s.hdmKey (pa + i)])
  ∧ (∀ (pa n : Nat) (cacheable : Bool) (w : Option (List Byte)) (s : State), s.exposed (pa / 4096) = true → n ≤ 64 →
    pa % 64 + n ≤ 64 → pa / 4096 ∉ s.mem.locked → pa / 4096 ∉ s.mem.bias →
    answers (.hostMemoryRequest pa cacheable w n) s fun t => pa / 4096 ∈ t.mem.bias ∧ t.biascnt = s.biascnt + 1
      ∧ ∀ e ∈ t.mem.l1, e.kind ≠ LineKind.host → e.line / 64 ≠ pa / 4096)
  ∧ (∀ (pa n : Nat) (cacheable : Bool) (w : Option (List Byte)) (s : State), s.exposed (pa / 4096) = false →
    answers (.hostMemoryRequest pa cacheable w n) s fun t => t.mem = s.mem ∧ t.hostReply = s.hostReply ++ [[]])
  ∧ (∀ (line : Nat) (dirty : Option (List Byte)) (keep : Bool) (s : State), (s.mem.dirOf line).host = true →
    answers (.hostSnoopResponse line dirty keep) s fun t => (t.mem.dirOf line).host = keep)
  ∧ (∀ (line : Nat) (s : State), answers (.hostCacheSnoop line true) s fun t =>
      (∀ e ∈ t.mem.l1, e.kind = LineKind.host → e.line ≠ line) ∧ t.mem.hbm = s.mem.hbm ∧ t.mem.host = s.mem.host)
  ∧ (∀ (index : BitVec 8) (nonce : BitVec 256) (s : State), 9 ≤ s.start.step.toNat → index ≠ 0 → index.toNat ≤ 6 →
    answers (.spdmRequest 0xE0 index nonce) s fun t => t.mem = s.mem ∧ ∃ r, t.spdm = some r ∧ r.busy = false
      ∧ r.digest = s.measurement index.toNat)
  ∧ (∀ (req index : BitVec 8) (nonce : BitVec 256) (s : State), s.start.step.toNat < 9 →
    answers (.spdmRequest req index nonce) s fun t => t.mem = s.mem ∧ ∃ r, t.spdm = some r ∧ r.busy = true)
  ∧ (∀ (peer : BitVec 8) (c : CtxId) (va : Addr) (n : Nat) (s : State) (k : Ctx) (ps : List Piece), s.ctx c = some k →
    s.bindsPeer peer c = true →
    s.peerPieces k va.toNat n .rd = .ok ps → s.logFull c ps kRead = false → (∀ p ∈ ps, pieceWaits s.mem k p false = false) →
    (∀ p ∈ ps, piecePoison s.mem p = false) →
    answers (.peerRequest peer c (.load va n)) s fun t => ∃ r, t.peerReply = s.peerReply ++ [r] ∧ r.code = 0
      ∧ r.bytes = ps.flatMap fun p => (List.range p.n).map fun i => s.mem.keyed p.tr.key (p.tr.pa + i))
  ∧ (∀ (peer : BitVec 8) (c : CtxId) (req : PeerReq) (s : State), s.bindsPeer peer c = false →
    answers (.peerRequest peer c req) s fun t => t.mem = s.mem ∧ ∃ r, t.peerReply = s.peerReply ++ [r] ∧ r.code = 7 ∧ r.bytes = [])
  ∧ (∀ (link : Nat) (lanes : BitVec 4) (s : State), link < 16 → (s.link link).pv = true → lanes.toNat = s.laneWidth link →
    answers (.linkWidthChange link lanes) s fun t => t.link link = { s.link link with lanes := lanes })
  ∧ (∀ (link : Nat) (s : State), link < 16 →
    answers (.linkCorrectedError link none) s fun t => t.mem = s.mem ∧ t.scoreOf (unitOf 1 link) = (s.scoreOf (unitOf 1 link)).add 16)
  ∧ (∀ (link : Nat) (p : BitVec 8) (lanes : BitVec 4) (s : State), link < 16 → widthOk lanes = true →
    answers (.farModuleConnect link (some p) lanes) s fun t => (t.link link).pv = true ∧ (t.link link).peer = p
      ∧ (t.link link).lanes.toNat ≤ lanes.toNat)
  ∧ (∀ (lanes rate : Nat) (s : State), lanes ∈ [16, 8, 4] → rate ∈ [128, 64, 32] →
    exec (.cxlLinkTraining true lanes rate) s = .next { s with cxl := (true, lanes, rate) })
  ∧ (∀ (g : GondolaTok) (s : State), s.modnum.toNat < 256 → answers (.gondolaVisit g) s fun t => t.mem = s.mem
      ∧ t.gondola.load.getD s.modnum.toNat 0 = BitVec.ofNat 8 (s.freeDomains * 255 / 1536)
      ∧ t.taken = s.taken ++ ((List.range 8).map fun i => g.req.getD i 0).filter s.canAnswer)
  ∧ (∀ (c : CtxId) (thief : BitVec 8) (s : State) (k : Ctx) (r : BitVec 32) (q : QRec), s.ctx c = some k →
    thief ≠ s.modnum → (s.taken.find? fun r => stealThief r == thief && stealCtx r == c) = some r → k.openStores s.mem = false →
    s.stealRec c = some q →
    answers (.stealHandshake c thief .nothing) s fun t => t.launchq = dropFirst (· == q) s.launchq
      ∧ t.taken = dropFirst (· == r) s.taken
      ∧ (isQueuedChild c q.lrec.parent q = true → ∀ n, k.ln q.lrec.parent = some n →
          inCtx t c fun j => ∃ m, j.ln q.lrec.parent = some m ∧ m.away = n.away + 1))
  ∧ (∀ (c : CtxId) (b : List Byte) (s : State) (k : Ctx), s.ctx c = some k →
    (s.noPlaceFor k (.record b) = true → exec (.stealHandshake c s.modnum (.record b)) s = .next s)
    ∧ (s.noPlaceFor k (.record b) = false →
    answers (.stealHandshake c s.modnum (.record b)) s fun t => t.ctxs = s.ctxs ∧ ∃ q, t.launchq = s.launchq ++ [q] ∧ q.ctx = c
      ∧ q.fromHost = false ∧ q.lrec = { launchRecOf (b.take 64) with parent := 0xFFFFFFFF }))
  ∧ (∀ (c : CtxId) (ln : BitVec 32) (lo hi : Nat) (s : State) (k : Ctx) (n : Launch), s.ctx c = some k → k.ln ln = some n →
    n.isRange = true → n.lrec.isPod = true → (∃ p ∈ n.ivals, ivalLen p = 0) →
    answers (.stealHandshake c s.modnum (.interval ln lo hi)) s fun t => inCtx t c fun j => j.ln ln = some (n.receive lo hi))
  ∧ ∀ (c : CtxId) (thief : BitVec 8) (ln : BitVec 32) (m : Nat) (s : State) (k : Ctx) (n : Launch), s.ctx c = some k →
    thief ≠ s.modnum → k.ln ln = some n →
    (answers (.stealHandshake c thief (.done ln m)) s fun t => t.mem = s.mem ∧ inCtx t c fun j =>
      j.ln ln = some { n with doneIter := n.doneIter + m })
    ∧ answers (.stealHandshake c thief (.ended ln)) s fun t => t.mem = s.mem ∧ inCtx t c fun j =>
      j.ln ln = some { n with away := n.away - 1 }

/-! ### Registers, the debug port, firmware and context creation (00 R4, 01 R12, 02 R72, R75, 06 R170, 16 R451, R454) -/

/-- Register writes reach the fields their maps name and no read-only one, bias requests, links, the debug port and the house's extra
forms among them (log entry 15); the debug port halts, resumes and steps (log entry 51); DFENCEs are answered; firmware is staged; the
house creates a context (R4, R12, R72, R75, R170, R438, R439, R449 to R451, R454). -/
def Obligations.RegisterAndDebugSteps : Prop :=
  (∀ (die spine : Nat) (code : BitVec 7) (s : State), die < 4 → spine < 7 → code.toNat ≤ 80 →
    answers (.spinefreqWrite die spine code) s fun t => t.mem = s.mem
      ∧ t.spine die spine = { s.spine die spine with code := code, busy := true })
  ∧ (∀ (clu dom : Nat) (sp : BitVec 3) (s : State), clu < Config.clusters → dom < 16 →
    answers (.spselWrite clu dom sp) s fun t => t.readReg (.spsel clu dom) = sp.zeroExtend 64 ∧ t.spnow = s.spnow ∧ t.mem = s.mem)
  ∧ (∀ (v : BitVec 64) (s : State),
      answers (.registerWrite .sysModnum v) s (fun t => t.readReg .sysModnum = (v.extractLsb' 0 8).zeroExtend 64)
      ∧ (∀ d, answers (.registerWrite (.pwrCtl d) v) s fun t =>
          t.readReg (.pwrCtl d) = (v.extractLsb' 15 33 ++ (0 : BitVec 15)).zeroExtend 64)
      ∧ (∀ d, answers (.registerWrite (.leaseCtl d) v) s fun t =>
          t.readReg (.leaseCtl d) = v.extractLsb' 32 32 ++ (0 : BitVec 16) ++ v.extractLsb' 8 8 ++ (0 : BitVec 6) ++ v.extractLsb' 0 2)
      ∧ ∀ r ∈ [WReg.dbgStat, .dbgDdata, .sysEvseq, .sysStart, .hostBiasCnt], exec (.registerWrite r v) s = .next s)
  ∧ (∀ (v : BitVec 64) (house : Bool) (s : State),
    answers (.registerWrite (if house then .sysBiasReq else .hostBiasReq) v) s fun t => t.mem = s.mem
      ∧ t.biasReq (!house) = s.biasReq (!house)
      ∧ (v.getLsbD 63 = false → t.biasReq house
          = { s.biasReq house with toHost := v.getLsbD 59, page := v.extractLsb' 12 40 })
      ∧ (v.getLsbD 63 = true → (s.biasReq house).busy = true → t.biasReq house = s.biasReq house)
      ∧ (v.getLsbD 63 = true → (s.biasReq house).busy = false → (t.biasReq house).busy = true ∧ (t.biasReq house).result = 0
          ∧ (t.biasReq house).goTo = v.getLsbD 59 ∧ (t.biasReq house).goPage = v.extractLsb' 12 40))
  ∧ (∀ (v : BitVec 64) (n : Nat) (s : State),
    (widthOk (v.extractLsb' 4 4) = false → exec (.registerWrite (.sysLink n) v) s = .next s)
    ∧ (widthOk (v.extractLsb' 4 4) = true → answers (.registerWrite (.sysLink n) v) s fun t => t.mem = s.mem
        ∧ t.link n = { s.link n with width := v.extractLsb' 4 4 } ∧ ∀ m, m ≠ n → t.link m = s.link m)
    ∧ answers (.registerWrite (.linkKey n) v) s fun t => t.mem = s.mem ∧ t.link n = { s.link n with key := v.extractLsb' 0 12 })
  ∧ (∀ (v : BitVec 64) (n : Nat) (s : State),
    answers (.registerWrite (.dbgBkpt n) v) s (fun t => t.mem = s.mem ∧ t.readReg (.dbgBkpt n) = v &&& ~~~15#64)
    ∧ answers (.registerWrite .dbgDsel v) s (fun t => t.mem = s.mem
        ∧ t.readReg .dbgDsel = (v.extractLsb' 10 4 ++ v.extractLsb' 0 10).zeroExtend 64)
    ∧ answers (.registerWrite .dbgCtl v) s fun t => t.mem = s.mem ∧ t.dbg.ctx = v.extractLsb' 20 12
        ∧ t.dbg.thread = v.extractLsb' 4 16 ∧ t.dbg.allthr = v.getLsbD 1 ∧ t.dbg.en = v.getLsbD 0 ∧ t.dbg.halt = v.getLsbD 2
        ∧ (v.getLsbD 3 = true → t.dbg.stepping = true)
        ∧ (v.getLsbD 2 = true → v.getLsbD 3 = false → ∀ k, s.ctx (v.extractLsb' 20 12) = some k →
            t.dbg.halted = true ∧ inCtx t (v.extractLsb' 20 12) fun j => j.halted = true)
        ∧ (v.getLsbD 2 = false → v.getLsbD 3 = false → s.dbg.halt = true → ∀ k, s.ctx s.dbg.ctx = some k →
            t.dbg.halted = false ∧ inCtx t s.dbg.ctx fun j => j.halted = false))
  ∧ (∀ (v : BitVec 64) (c : CtxId) (s : State) (k : Ctx), s.ctx c = some k →
    answers (.registerWrite (.ctxStatus c) v) s (fun t => t.mem = s.mem ∧ t.ctx c = some { k with
      priomax := v.extractLsb' 12 4, capchg := k.capchg && !v.getLsbD 22, forced := k.forced && !v.getLsbD 21 })
    ∧ answers (.registerWrite (.ctxFqb c) v) s (fun t => t.mem = s.mem ∧ t.ctx c = some { k with fqb := v &&& ~~~62#64 })
    ∧ answers (.registerWrite (.ctxCapqb c) v) s (fun t => t.mem = s.mem ∧ t.ctx c = some { k with capqb := v &&& ~~~62#64 })
    ∧ answers (.registerWrite (.ctxLclust c) v) s (fun t => t.mem = s.mem ∧ t.ctx c = some { k with lcount := v.extractLsb' 0 8 })
    ∧ answers (.registerWrite (.ctxSpine c) v) s (fun t => t.mem = s.mem ∧ t.ctx c = some { k with spine := v.extractLsb' 0 3 })
    ∧ answers (.registerWrite (.ctxOvf c) v) s fun t => t.mem = s.mem ∧ t.ctx c = some { k with ovf := v &&& ~~~0xFFFF#64 })
  ∧ (∀ (v : BitVec 64) (pa : Nat) (s : State), Memory.wf s.mem.hbm = true →
    answers (.registerWrite (.pageEntry pa) v) s fun t => rdN t.mem.hbm (pa / 8 * 8) 8 = leBytes 8 v.toNat
      ∧ ∀ a, a / 8 ≠ pa / 8 → rd t.mem.hbm a = rd s.mem.hbm a)
  ∧ (∀ (v : BitVec 64) (key : BitVec 12) (s : State),
    (s.tspLock = true → exec (.registerWrite (.hdmRange key) v) s = .next s)
    ∧ (s.tspLock = false → (v.extractLsb' 0 32).toNat + (v.extractLsb' 32 32).toNat ≤ 4096 →
        answers (.registerWrite (.hdmRange key) v) s fun t => t.mem.hbm = s.mem.hbm
          ∧ t.hdm = (if v.extractLsb' 32 32 = 0 then none
              else some ((v.extractLsb' 0 32).toNat * 2 ^ 28, (v.extractLsb' 32 32).toNat * 2 ^ 28, key.toNat)))
    ∧ answers (.registerWrite .tspLock v) s fun t => t.mem = s.mem ∧ t.tspLock = (s.tspLock || v.getLsbD 0))
  ∧ (∀ (v : BitVec 64) (p : Nat) (c : CtxId) (s : State),
    answers (.registerWrite (.peerRoute p) v) s (fun t => t.mem.hbm = s.mem.hbm ∧ (p ∈ t.mem.routes ↔ v.getLsbD 0 = true))
    ∧ (p < 256 → answers (.registerWrite (.peerBind c p) v) s fun t => t.mem.hbm = s.mem.hbm
        ∧ t.bindsPeer (BitVec.ofNat 8 p) c = v.getLsbD 63))
  ∧ (∀ (s : State) (k : Ctx), s.dbg.en = true → s.ctx s.dbg.ctx = some k →
    answers .dbgHalt s fun t => t.mem = s.mem ∧ t.dbg.halt = true ∧ t.dbg.halted = true ∧ t.ctx s.dbg.ctx = some { k with halted := true })
  ∧ (∀ (s : State) (k : Ctx), s.dbg.halt = true → s.ctx s.dbg.ctx = some k →
    answers .dbgResume s fun t => t.mem = s.mem ∧ t.dbg.halt = false ∧ t.dbg.halted = false
      ∧ inCtx t s.dbg.ctx fun j => j.halted = false)
  ∧ (∀ (s : State) (k : Ctx), s.dbg.en = true → s.ctx s.dbg.ctx = some k →
    answers .dbgStep s fun t => t.mem = s.mem ∧ t.dbg.stepping = true ∧ t.dbg.halted = false
      ∧ inCtx t s.dbg.ctx fun j => j.halted = false)
  ∧ (∀ (c : CtxId) (s : State) (k : Ctx), s.ctx c = some k → (k.committed.filter Committed.isFence) ≠ [] →
    answers (.dfenceCompletion c) s fun t => t.mem = s.mem ∧ inCtx t c fun j => j.fpend = false
      ∧ j.committed = k.committed.filter fun e => !e.isFence)
  ∧ (∀ (img : FirmwareImage) (s : State), img.signed = true → s.flash.version ≤ img.version →
    exec (.firmwareUpdate img) s = .next { s with staged := some img })
  ∧ ∀ (c : CtxId) (d : CtxDescr) (s : State), s.ctx c = none → descrValid d = true → s.quotaFits c d = true →
    answers (.contextCreation c d) s fun t => t.mem = s.mem ∧ t.evseq = s.evseq + 1 ∧ inCtx t c fun j => j.desc = d ∧ j.state = 0
      ∧ ∀ l, l < d.lcount → j.phys l = d.phys.getD l 0
end

