-- ==== Sys2Proof/Laws/Fields.lean ====
section
/-! SUPPORT. The fields of templates and side words: what an encoder puts together its decoder takes apart, and the other
way round. -/

namespace Sys2Proof

/-- Bits above the lower part of an appended word are those of its upper part. -/
theorem extract_above {a b : Nat} (x : BitVec a) (y : BitVec b) (k n : Nat) :
    (x ++ y).extractLsb' (b + k) n = x.extractLsb' k n := by
  ext i hi
  simp only [BitVec.getElem_extractLsb', BitVec.getLsbD_append]
  rw [if_neg (by omega)]
  congr 1; omega

/-- Bits inside the lower part are those of the lower part. -/
theorem extract_below {a b : Nat} (x : BitVec a) (y : BitVec b) (k n : Nat) (h : k + n ≤ b) :
    (x ++ y).extractLsb' k n = y.extractLsb' k n := by
  ext i hi
  simp only [BitVec.getElem_extractLsb', BitVec.getLsbD_append]
  rw [if_pos (by omega)]

theorem bit_above {a b : Nat} (x : BitVec a) (y : BitVec b) (k : Nat) : (x ++ y).getLsbD (b + k) = x.getLsbD k := by
  rw [BitVec.getLsbD_append, if_neg (by omega)]
  congr 1; omega

theorem bit_below {a b : Nat} (x : BitVec a) (y : BitVec b) (k : Nat) (h : k < b) : (x ++ y).getLsbD k = y.getLsbD k := by
  rw [BitVec.getLsbD_append, if_pos h]

theorem extract_all {n : Nat} (x : BitVec n) : x.extractLsb' 0 n = x := by simp

theorem ofBit_zero (b : Bool) : (ofBit b).getLsbD 0 = b := by cases b <;> rfl

@[simp] theorem tagAction_dec_enc (a : TagAction) : TagAction.dec a.enc = some a := by cases a <;> rfl
@[simp] theorem sel_dec_enc (s : Sel) : Sel.dec s.enc = s := by cases s <;> rfl

theorem sel_enc_dec (b : BitVec 2) : (Sel.dec b).enc = b := by
  revert b; decide

theorem tagAction_enc_dec {b : BitVec 4} {a : TagAction} (h : TagAction.dec b = some a) : a.enc = b := by
  revert b a; decide

/-- The opcode byte of a template. -/
@[simp] theorem tmpl_enc_opcode (t : Tmpl) (op : BitVec 8) : (t.enc op).extractLsb' 24 8 = op := by
  show (op ++ t.act.enc ++ t.sa.enc ++ t.sb.enc ++ t.d1 ++ t.d2).extractLsb' (8 + (8 + (2 + (2 + (4 + 0))))) 8 = op
  rw [extract_above, extract_above, extract_above, extract_above, extract_above, extract_all]

/-- A template's own fields (R265, R267, R268). -/
@[simp] theorem tmpl_dec_enc (t : Tmpl) (op : BitVec 8) : Tmpl.dec (t.enc op) = some t := by
  have h1 : (t.enc op).extractLsb' 20 4 = t.act.enc := by
    show (op ++ t.act.enc ++ t.sa.enc ++ t.sb.enc ++ t.d1 ++ t.d2).extractLsb' (8 + (8 + (2 + (2 + 0)))) 4 = _
    rw [extract_above, extract_above, extract_above, extract_above, extract_below _ _ _ _ (by omega), extract_all]
  have h2 : (t.enc op).extractLsb' 18 2 = t.sa.enc := by
    show (op ++ t.act.enc ++ t.sa.enc ++ t.sb.enc ++ t.d1 ++ t.d2).extractLsb' (8 + (8 + (2 + 0))) 2 = _
    rw [extract_above, extract_above, extract_above, extract_below _ _ _ _ (by omega), extract_all]
  have h3 : (t.enc op).extractLsb' 16 2 = t.sb.enc := by
    show (op ++ t.act.enc ++ t.sa.enc ++ t.sb.enc ++ t.d1 ++ t.d2).extractLsb' (8 + (8 + 0)) 2 = _
    rw [extract_above, extract_above, extract_below _ _ _ _ (by omega), extract_all]
  have h4 : (t.enc op).extractLsb' 8 8 = t.d1 := by
    show (op ++ t.act.enc ++ t.sa.enc ++ t.sb.enc ++ t.d1 ++ t.d2).extractLsb' (8 + 0) 8 = _
    rw [extract_above, extract_below _ _ _ _ (by omega), extract_all]
  have h5 : (t.enc op).extractLsb' 0 8 = t.d2 := by
    show (op ++ t.act.enc ++ t.sa.enc ++ t.sb.enc ++ t.d1 ++ t.d2).extractLsb' 0 8 = _
    rw [extract_below _ _ _ _ (by omega), extract_all]
  unfold Tmpl.dec
  rw [h1, h2, h3, h4, h5]; simp

/-- Form G (R270). -/
@[simp] theorem formG_dec_enc (g : FormG) : FormG.dec g.enc = g := by
  have h1 : g.enc.extractLsb' 28 4 = g.ty := by
    show (g.ty ++ g.rm ++ ofBit g.sat ++ g.cfx ++ g.lmask ++ g.imm).extractLsb' (16 + (4 + (4 + (1 + (3 + 0))))) 4 = _
    rw [extract_above, extract_above, extract_above, extract_above, extract_above, extract_all]
  have h2 : g.enc.extractLsb' 25 3 = g.rm := by
    show (g.ty ++ g.rm ++ ofBit g.sat ++ g.cfx ++ g.lmask ++ g.imm).extractLsb' (16 + (4 + (4 + (1 + 0)))) 3 = _
    rw [extract_above, extract_above, extract_above, extract_above, extract_below _ _ _ _ (by omega), extract_all]
  have h3 : bit g.enc 24 = g.sat := by
    show (g.ty ++ g.rm ++ ofBit g.sat ++ g.cfx ++ g.lmask ++ g.imm).getLsbD (16 + (4 + (4 + 0))) = _
    rw [bit_above, bit_above, bit_above, bit_below _ _ _ (by omega), ofBit_zero]
  have h4 : g.enc.extractLsb' 20 4 = g.cfx := by
    show (g.ty ++ g.rm ++ ofBit g.sat ++ g.cfx ++ g.lmask ++ g.imm).extractLsb' (16 + (4 + 0)) 4 = _
    rw [extract_above, extract_above, extract_below _ _ _ _ (by omega), extract_all]
  have h5 : g.enc.extractLsb' 16 4 = g.lmask := by
    show (g.ty ++ g.rm ++ ofBit g.sat ++ g.cfx ++ g.lmask ++ g.imm).extractLsb' (16 + 0) 4 = _
    rw [extract_above, extract_below _ _ _ _ (by omega), extract_all]
  have h6 : g.enc.extractLsb' 0 16 = g.imm := by
    show (g.ty ++ g.rm ++ ofBit g.sat ++ g.cfx ++ g.lmask ++ g.imm).extractLsb' 0 16 = _
    rw [extract_below _ _ _ _ (by omega), extract_all]
  unfold FormG.dec
  rw [h1, h2, h3, h4, h5, h6]

/-- Form M (R272). -/
@[simp] theorem formM_dec_enc (m : FormM) : FormM.dec m.enc = m := by
  have h1 : m.enc.extractLsb' 24 8 = m.pred := by
    show (m.pred ++ m.own ++ m.succ ++ m.sz ++ m.ord ++ m.scp ++ ofBit m.q).extractLsb' (1 + (2 + (2 + (3 + (8 + (8 + 0)))))) 8 = _
    rw [extract_above, extract_above, extract_above, extract_above, extract_above, extract_above, extract_all]
  have h2 : m.enc.extractLsb' 16 8 = m.own := by
    show (m.pred ++ m.own ++ m.succ ++ m.sz ++ m.ord ++ m.scp ++ ofBit m.q).extractLsb' (1 + (2 + (2 + (3 + (8 + 0))))) 8 = _
    rw [extract_above, extract_above, extract_above, extract_above, extract_above, extract_below _ _ _ _ (by omega), extract_all]
  have h3 : m.enc.extractLsb' 8 8 = m.succ := by
    show (m.pred ++ m.own ++ m.succ ++ m.sz ++ m.ord ++ m.scp ++ ofBit m.q).extractLsb' (1 + (2 + (2 + (3 + 0)))) 8 = _
    rw [extract_above, extract_above, extract_above, extract_above, extract_below _ _ _ _ (by omega), extract_all]
  have h4 : m.enc.extractLsb' 5 3 = m.sz := by
    show (m.pred ++ m.own ++ m.succ ++ m.sz ++ m.ord ++ m.scp ++ ofBit m.q).extractLsb' (1 + (2 + (2 + 0))) 3 = _
    rw [extract_above, extract_above, extract_above, extract_below _ _ _ _ (by omega), extract_all]
  have h5 : m.enc.extractLsb' 3 2 = m.ord := by
    show (m.pred ++ m.own ++ m.succ ++ m.sz ++ m.ord ++ m.scp ++ ofBit m.q).extractLsb' (1 + (2 + 0)) 2 = _
    rw [extract_above, extract_above, extract_below _ _ _ _ (by omega), extract_all]
  have h6 : m.enc.extractLsb' 1 2 = m.scp := by
    show (m.pred ++ m.own ++ m.succ ++ m.sz ++ m.ord ++ m.scp ++ ofBit m.q).extractLsb' (1 + 0) 2 = _
    rw [extract_above, extract_below _ _ _ _ (by omega), extract_all]
  have h7 : bit m.enc 0 = m.q := by
    show (m.pred ++ m.own ++ m.succ ++ m.sz ++ m.ord ++ m.scp ++ ofBit m.q).getLsbD 0 = _
    rw [bit_below _ _ _ (by omega), ofBit_zero]
  unfold FormM.dec
  rw [h1, h2, h3, h4, h5, h6, h7]

/-- Form X (R273). -/
@[simp] theorem formX_dec_enc (x : FormX) : FormX.dec x.enc = x := by
  have h1 : x.enc.extractLsb' 28 4 = x.var := by
    show (x.var ++ x.cfx ++ x.ring ++ x.tile ++ x.chin ++ ofBit x.chen ++ x.ord ++ x.scp ++ x.rsv).extractLsb'
      (3 + (2 + (2 + (1 + (5 + (6 + (5 + (4 + 0)))))))) 4 = _
    rw [extract_above, extract_above, extract_above, extract_above, extract_above, extract_above, extract_above, extract_above,
      extract_all]
  have h2 : x.enc.extractLsb' 24 4 = x.cfx := by
    show (x.var ++ x.cfx ++ x.ring ++ x.tile ++ x.chin ++ ofBit x.chen ++ x.ord ++ x.scp ++ x.rsv).extractLsb'
      (3 + (2 + (2 + (1 + (5 + (6 + (5 + 0))))))) 4 = _
    rw [extract_above, extract_above, extract_above, extract_above, extract_above, extract_above, extract_above,
      extract_below _ _ _ _ (by omega), extract_all]
  have h3 : x.enc.extractLsb' 19 5 = x.ring := by
    show (x.var ++ x.cfx ++ x.ring ++ x.tile ++ x.chin ++ ofBit x.chen ++ x.ord ++ x.scp ++ x.rsv).extractLsb'
      (3 + (2 + (2 + (1 + (5 + (6 + 0)))))) 5 = _
    rw [extract_above, extract_above, extract_above, extract_above, extract_above, extract_above,
      extract_below _ _ _ _ (by omega), extract_all]
  have h4 : x.enc.extractLsb' 13 6 = x.tile := by
    show (x.var ++ x.cfx ++ x.ring ++ x.tile ++ x.chin ++ ofBit x.chen ++ x.ord ++ x.scp ++ x.rsv).extractLsb'
      (3 + (2 + (2 + (1 + (5 + 0))))) 6 = _
    rw [extract_above, extract_above, extract_above, extract_above, extract_above, extract_below _ _ _ _ (by omega), extract_all]
  have h5 : x.enc.extractLsb' 8 5 = x.chin := by
    show (x.var ++ x.cfx ++ x.ring ++ x.tile ++ x.chin ++ ofBit x.chen ++ x.ord ++ x.scp ++ x.rsv).extractLsb'
      (3 + (2 + (2 + (1 + 0)))) 5 = _
    rw [extract_above, extract_above, extract_above, extract_above, extract_below _ _ _ _ (by omega), extract_all]
  have h6 : bit x.enc 7 = x.chen := by
    show (x.var ++ x.cfx ++ x.ring ++ x.tile ++ x.chin ++ ofBit x.chen ++ x.ord ++ x.scp ++ x.rsv).getLsbD (3 + (2 + (2 + 0))) = _
    rw [bit_above, bit_above, bit_above, bit_below _ _ _ (by omega), ofBit_zero]
  have h7 : x.enc.extractLsb' 5 2 = x.ord := by
    show (x.var ++ x.cfx ++ x.ring ++ x.tile ++ x.chin ++ ofBit x.chen ++ x.ord ++ x.scp ++ x.rsv).extractLsb' (3 + (2 + 0)) 2 = _
    rw [extract_above, extract_above, extract_below _ _ _ _ (by omega), extract_all]
  have h8 : x.enc.extractLsb' 3 2 = x.scp := by
    show (x.var ++ x.cfx ++ x.ring ++ x.tile ++ x.chin ++ ofBit x.chen ++ x.ord ++ x.scp ++ x.rsv).extractLsb' (3 + 0) 2 = _
    rw [extract_above, extract_below _ _ _ _ (by omega), extract_all]
  have h9 : x.enc.extractLsb' 0 3 = x.rsv := by
    show (x.var ++ x.cfx ++ x.ring ++ x.tile ++ x.chin ++ ofBit x.chen ++ x.ord ++ x.scp ++ x.rsv).extractLsb' 0 3 = _
    rw [extract_below _ _ _ _ (by omega), extract_all]
  unfold FormX.dec
  rw [h1, h2, h3, h4, h5, h6, h7, h8, h9]

/-- Form S (R274). -/
@[simp] theorem formS_dec_enc (f : FormS) : FormS.dec f.enc = f := by
  have h1 : bit f.enc 31 = f.deflt := by
    show (ofBit f.deflt ++ f.z1 ++ f.base ++ f.defport ++ f.z2 ++ f.len).getLsbD (5 + (11 + (4 + (4 + (7 + 0))))) = _
    rw [bit_above, bit_above, bit_above, bit_above, bit_above, ofBit_zero]
  have h2 : f.enc.extractLsb' 24 7 = f.z1 := by
    show (ofBit f.deflt ++ f.z1 ++ f.base ++ f.defport ++ f.z2 ++ f.len).extractLsb' (5 + (11 + (4 + (4 + 0)))) 7 = _
    rw [extract_above, extract_above, extract_above, extract_above, extract_below _ _ _ _ (by omega), extract_all]
  have h3 : f.enc.extractLsb' 20 4 = f.base := by
    show (ofBit f.deflt ++ f.z1 ++ f.base ++ f.defport ++ f.z2 ++ f.len).extractLsb' (5 + (11 + (4 + 0))) 4 = _
    rw [extract_above, extract_above, extract_above, extract_below _ _ _ _ (by omega), extract_all]
  have h4 : f.enc.extractLsb' 16 4 = f.defport := by
    show (ofBit f.deflt ++ f.z1 ++ f.base ++ f.defport ++ f.z2 ++ f.len).extractLsb' (5 + (11 + 0)) 4 = _
    rw [extract_above, extract_above, extract_below _ _ _ _ (by omega), extract_all]
  have h5 : f.enc.extractLsb' 5 11 = f.z2 := by
    show (ofBit f.deflt ++ f.z1 ++ f.base ++ f.defport ++ f.z2 ++ f.len).extractLsb' (5 + 0) 11 = _
    rw [extract_above, extract_below _ _ _ _ (by omega), extract_all]
  have h6 : f.enc.extractLsb' 0 5 = f.len := by
    show (ofBit f.deflt ++ f.z1 ++ f.base ++ f.defport ++ f.z2 ++ f.len).extractLsb' 0 5 = _
    rw [extract_below _ _ _ _ (by omega), extract_all]
  unfold FormS.dec
  rw [h1, h2, h3, h4, h5, h6]

/-- The XARG slot (R269). -/
@[simp] theorem xArg_dec_enc (xa : XArg) : XArg.dec (xa.t.enc 0x0F#8) xa.l.word = some xa := by
  unfold XArg.dec; simp

end Sys2Proof
end

