-- ==== Sys2Proof/Laws/Firing.lean ====
section
/-! SUPPORT. Everything a firing can come to, said once: what `State.fire` answers in each case of R33 to R36. -/

namespace Sys2Proof.Machine

/-- Without its operands an instruction does nothing (R33). -/
theorem fire_not_ready {s : State} {t : Tmpl} {xa : Option XArg} {b : Bool} {l : Lits} {sem : Fire → Sem}
    (h : s.ready t xa b l = none) : s.fire t xa b l sem = s := by
  unfold State.fire; rw [h]

/-- Without a power token, or on a spine that stands still, nothing fires (07 R207, 02 R72). -/
theorem fire_unpowered {s : State} {t : Tmpl} {xa : Option XArg} {b : Bool} {l : Lits} {sem : Fire → Sem} {f : Fire}
    (h : s.ready t xa b l = some f) (hp : s.powered f.domain = false) : s.fire t xa b l sem = s := by
  unfold State.fire; rw [h]; simp [State.fireOn, hp]

/-- A firing that takes place carries out what its instruction does. -/
theorem fire_carries {s : State} {t : Tmpl} {xa : Option XArg} {b : Bool} {l : Lits} {sem : Fire → Sem} {f : Fire}
    (h : s.canFire t xa b l f) :
    s.fire t xa b l sem = s.carry f (sem f) := by
  obtain ⟨h1, h2, h3, h4⟩ := h
  unfold State.fire; rw [h1]
  rcases h3 with h3 | h3 <;> simp [State.fireOn, h2, h3, h4]

/-- An effect whose emissions nothing holds leaves `State.fired`. -/
theorem fire_acts {s : State} {t : Tmpl} {xa : Option XArg} {b : Bool} {l : Lits} {sem : Fire → Sem} {f : Fire}
    {es : List Em} {flags : BitVec 5} {g : Ctx → Ctx} (h : s.canFire t xa b l f) (hs : sem f = .act es flags g)
    (ho : f.opens es) : s.fire t xa b l sem = s.fired f es flags g := by
  obtain ⟨h1, h2⟩ := ho
  rw [fire_carries h, hs]
  have h3 : (f.k.gateShut f.p.lcl && es.any f.starts) = false := by
    rcases h2 with h2 | h2 <;> simp [h2]
  unfold State.carry State.fired
  unfold Fire.starts at h3
  simp only [h3, h1]; rfl

/-- A precise fault leaves `State.raised` (R286). -/
theorem fire_raises {s : State} {t : Tmpl} {xa : Option XArg} {b : Bool} {l : Lits} {sem : Fire → Sem} {f : Fire}
    {c : BitVec 8} {d : BitVec 24} {a : BitVec 64} (h : s.canFire t xa b l f) (hs : sem f = .raise c d a) :
    s.fire t xa b l sem = s.raised f c 0 d a := by
  rw [fire_carries h, hs]; rfl

/-- So does the fault of a probe, with ORIGIN 2. -/
theorem fire_probes {s : State} {t : Tmpl} {xa : Option XArg} {b : Bool} {l : Lits} {sem : Fire → Sem} {f : Fire}
    {c : BitVec 8} {d : BitVec 24} {a : BitVec 64} (h : s.canFire t xa b l f) (hs : sem f = .probe c d a) :
    s.fire t xa b l sem = s.raised f c 2 d a := by
  rw [fire_carries h, hs]; rfl

/-- A firing that must wait leaves everything as it was, but that it no longer counts among what stands ready (R33, R36). -/
theorem fire_waits {s : State} {t : Tmpl} {xa : Option XArg} {b : Bool} {l : Lits} {sem : Fire → Sem} {f : Fire}
    (h : s.canFire t xa b l f) (hs : sem f = .wait) :
    s.fire t xa b l sem = s.stoodBack f := by
  rw [fire_carries h, hs]; rfl

end Sys2Proof.Machine
end

