-- ==== Sys2Proof/Laws/Memory.lean ====
section
/-! SUPPORT. Byte memories: every operation keeps the canonical form, and a read after a write. -/

namespace Sys2Proof.Machine

/-- Every address of a memory is above a bound. -/
def aboveAll (n : Nat) (m : List Host.Cell) : Prop := ∀ c ∈ m, n < c.1

theorem memory_wf_nil : Memory.wf [] = true := rfl

theorem memory_wf_cons (c : Host.Cell) (m : List Host.Cell) :
    Memory.wf (c :: m) = true ↔ c.2 ≠ 0 ∧ aboveAll c.1 m ∧ Memory.wf m = true := by
  induction m generalizing c with
  | nil => simp [Memory.wf, aboveAll]
  | cons d r ih =>
    simp only [Memory.wf, Bool.and_eq_true, bne_iff_ne, decide_eq_true_eq, and_assoc]
    constructor
    · rintro ⟨h1, h2, h3⟩
      refine ⟨h1, ?_, h3⟩
      intro e he
      rcases List.mem_cons.1 he with rfl | he
      · exact h2
      · exact Nat.lt_trans h2 (((ih d).1 h3).2.1 e he)
    · rintro ⟨h1, h2, h3⟩
      exact ⟨h1, h2 d (by simp), h3⟩

theorem aboveAll_wr {n a : Nat} {b : Byte} {m : List Host.Cell} (h : aboveAll n m) (ha : n < a) :
    aboveAll n (wr m a b) := by
  induction m with
  | nil => unfold wr; split <;> simp [aboveAll, ha]
  | cons c r ih =>
    have hc : n < c.1 := h c (by simp)
    have hr : aboveAll n r := fun e he => h e (by simp [he])
    unfold wr
    split
    · split
      · exact h
      · intro e he; rcases List.mem_cons.1 he with rfl | he
        · exact ha
        · exact h e he
    · split
      · split
        · exact hr
        · intro e he; rcases List.mem_cons.1 he with rfl | he
          · exact ha
          · exact hr e he
      · intro e he; rcases List.mem_cons.1 he with rfl | he
        · exact hc
        · exact ih hr e he

/-- Writing a byte keeps the canonical form. -/
theorem memory_wf_wr {m : List Host.Cell} (a : Nat) (b : Byte) (h : Memory.wf m = true) : Memory.wf (wr m a b) = true := by
  induction m with
  | nil =>
    unfold wr; split
    · rfl
    · rename_i hb; exact (memory_wf_cons _ _).2 ⟨hb, by simp [aboveAll], rfl⟩
  | cons c r ih =>
    obtain ⟨h1, h2, h3⟩ := (memory_wf_cons c r).1 h
    unfold wr
    split
    · rename_i hlt
      split
      · exact h
      · rename_i hb
        refine (memory_wf_cons _ _).2 ⟨hb, ?_, h⟩
        intro e he; rcases List.mem_cons.1 he with rfl | he
        · exact hlt
        · exact Nat.lt_trans hlt (h2 e he)
    · rename_i hlt
      split
      · rename_i heq
        split
        · exact h3
        · rename_i hb; exact (memory_wf_cons _ _).2 ⟨hb, heq ▸ h2, h3⟩
      · rename_i hne
        exact (memory_wf_cons _ _).2 ⟨h1, aboveAll_wr h2 (by omega), ih h3⟩

/-- Writing bytes keeps the canonical form. -/
theorem memory_wf_wrN {m : List Host.Cell} (a : Nat) (bs : List Byte) (h : Memory.wf m = true) :
    Memory.wf (wrN m a bs) = true := by
  induction bs generalizing m a with
  | nil => exact h
  | cons b r ih => exact ih _ (memory_wf_wr a b h)

/-- Dropping cells keeps the canonical form. -/
theorem memory_wf_filter {m : List Host.Cell} (p : Host.Cell → Bool) (h : Memory.wf m = true) :
    Memory.wf (m.filter p) = true := by
  induction m with
  | nil => rfl
  | cons c r ih =>
    obtain ⟨h1, h2, h3⟩ := (memory_wf_cons c r).1 h
    rw [List.filter_cons]
    split
    · exact (memory_wf_cons _ _).2 ⟨h1, fun e he => h2 e (List.mem_filter.1 he).1, ih h3⟩
    · exact ih h3

/-- Wiping a range keeps the canonical form. -/
theorem memory_wf_wipe {m : List Host.Cell} (lo hi : Nat) (h : Memory.wf m = true) : Memory.wf (wipe m lo hi) = true :=
  memory_wf_filter _ h

/-- A byte read after a write is the byte written. -/
theorem rd_of_aboveAll {m : List Host.Cell} {a n : Nat} (h : aboveAll n m) (ha : a ≤ n) : rd m a = memDefault := by
  induction m with
  | nil => rfl
  | cons c r ih =>
    have := h c (by simp)
    rw [rd, if_neg (by omega)]
    exact ih fun e he => h e (by simp [he])

theorem rd_wr_same {m : List Host.Cell} (a : Nat) (b : Byte) (h : Memory.wf m = true) : rd (wr m a b) a = b := by
  induction m with
  | nil => unfold wr; split <;> simp_all [rd]
  | cons c r ih =>
    obtain ⟨_, h2, h3⟩ := (memory_wf_cons c r).1 h
    unfold wr
    split
    · rename_i hlt
      split
      · rename_i hb
        rw [rd, if_neg (by omega), rd_of_aboveAll h2 (by omega), hb]
      · simp [rd]
    · split
      · rename_i heq
        split
        · rename_i hb; rw [rd_of_aboveAll h2 (by omega), hb]
        · simp [rd]
      · rw [rd, if_neg (by omega)]; exact ih h3

/-- A write of one byte leaves every other byte as it was. -/
theorem rd_wr_other {m : List Host.Cell} {a x : Nat} (b : Byte) (hx : x ≠ a) : rd (wr m a b) x = rd m x := by
  induction m with
  | nil => unfold wr; split <;> simp [rd, Ne.symm hx]
  | cons c r ih =>
    unfold wr
    split
    · split <;> simp [rd, Ne.symm hx]
    · split
      · rename_i heq
        split <;> simp [rd, Ne.symm hx, heq ▸ Ne.symm hx]
      · simp [rd, ih]

/-- A write of bytes leaves every byte outside them as it was. -/
theorem rd_wrN_other {m : List Host.Cell} {a x : Nat} (bs : List Byte) (hx : x < a ∨ a + bs.length ≤ x) :
    rd (wrN m a bs) x = rd m x := by
  induction bs generalizing m a with
  | nil => rfl
  | cons b r ih =>
    simp only [List.length_cons] at hx
    rw [wrN, ih (by omega), rd_wr_other b (by omega)]

/-- Bytes read after they were written. -/
theorem rdN_wrN_same {m : List Host.Cell} (a : Nat) (bs : List Byte) (h : Memory.wf m = true) :
    rdN (wrN m a bs) a bs.length = bs := by
  induction bs generalizing m a with
  | nil => rfl
  | cons b r ih =>
    simp only [List.length_cons, rdN, wrN]
    rw [ih (a + 1) (memory_wf_wr a b h), rd_wrN_other r (by omega), rd_wr_same a b h]

theorem memory_canonical_wr_hbm {m : Mems} (a : Nat) (bs : List Byte) (h : m.canonical) :
    ({ m with hbm := wrN m.hbm a bs } : Mems).canonical := ⟨memory_wf_wrN a bs h.1, h.2.1, h.2.2⟩

end Sys2Proof.Machine
end

