-- ==== Sys2Proof/Laws/PerInstr.lean ====
section
/-! SUPPORT. One law of every instruction as syntax: the opcode byte of its template word is its opcode, and a step of the
machine has neither words nor an opcode. -/

namespace Sys2Proof.Laws.Encoding

set_option Elab.async false

/-- The opcode byte of an instruction's words is the opcode the map of R277 gives it; a step has no words and no opcode. -/
def Statement (i : Instr) : Prop := (encode i).map (fun w => w.tmpl.extractLsb' 24 8) = i.opcode

theorem blockPlacement (c : CtxId) (l : Nat) (b : Addr) (at_ : List (Nat × Nat)) : Statement (.blockPlacement c l b at_) := rfl
theorem blockMove (c : CtxId) (l : Nat) (b : Addr) (at_ : List (Nat × Nat)) : Statement (.blockMove c l b at_) := rfl
theorem tokenForward (c : CtxId) (l : Nat) (b : Addr) : Statement (.tokenForward c l b) := rfl
theorem staleBlockEviction (c : CtxId) (l : Nat) (b : Addr) : Statement (.staleBlockEviction c l b) := rfl
theorem memoryOrderEntry (c : CtxId) (th : ThreadId) (w : WaveId) (own : BitVec 8) : Statement (.memoryOrderEntry c th w own) := rfl
theorem loadBind (c : CtxId) (th : ThreadId) (w : WaveId) (own : BitVec 8) (pick : Nat) (ecc : Option (BitVec 2)) : Statement (.loadBind c th w own pick ecc) := rfl
theorem storePerform (c : CtxId) (th : ThreadId) (k : Nat) (pick : Nat) (ecc : Option (BitVec 2)) : Statement (.storePerform c th k pick ecc) := rfl
theorem waveCommit (c : CtxId) (th : ThreadId) : Statement (.waveCommit c th) := rfl
theorem committedOperationWaitEnd (c : CtxId) (th : ThreadId) (pick : Nat) : Statement (.committedOperationWaitEnd c th pick) := rfl
theorem pageWalk (c : CtxId) (w : Walk) : Statement (.pageWalk c w) := rfl
theorem faultDelivery (c : CtxId) (th : ThreadId) : Statement (.faultDelivery c th) := rfl
theorem stallSweep (pe : Nat) (slot : Nat) : Statement (.stallSweep pe slot) := rfl
theorem launchAdmission (die : Nat) : Statement (.launchAdmission die) := rfl
theorem threadCreation (c : CtxId) (ln : BitVec 32) : Statement (.threadCreation c ln) := rfl
theorem launchCompletion (c : CtxId) (ln : BitVec 32) : Statement (.launchCompletion c ln) := rfl
theorem launchAbort (c : CtxId) (ln : BitVec 32) : Statement (.launchAbort c ln) := rfl
theorem grantInterval (die : Nat) : Statement (.grantInterval die) := rfl
theorem preemptionGate (c : CtxId) : Statement (.preemptionGate c) := rfl
theorem quiescenceReport (c : CtxId) : Statement (.quiescenceReport c) := rfl
theorem contextSaveReport (c : CtxId) : Statement (.contextSaveReport c) := rfl
theorem preemptionForce (c : CtxId) : Statement (.preemptionForce c) := rfl
theorem restore (c : CtxId) (phys : List Nat) : Statement (.restore c phys) := rfl
theorem migrationGate (c : CtxId) (l : Nat) (cause : BitVec 8) : Statement (.migrationGate c l cause) := rfl
theorem migrationMove (c : CtxId) (l : Nat) : Statement (.migrationMove c l) := rfl
theorem thermalHot (clu : Nat) (temp : BitVec 12) : Statement (.thermalHot clu temp) := rfl
theorem throttleTick (clu : Nat) (temp : BitVec 12) : Statement (.throttleTick clu temp) := rfl
theorem thermalTrip (clu : Nat) (temp : BitVec 12) : Statement (.thermalTrip clu temp) := rfl
theorem coolantFault (flow : Nat) (inlet : Nat) : Statement (.coolantFault flow inlet) := rfl
theorem leaseStart (die : Nat) (u : RetUnit) : Statement (.leaseStart die u) := rfl
theorem leaseTesting (die : Nat) (entry : Nat) (failed : Bool) : Statement (.leaseTesting die entry failed) := rfl
theorem leaseVerdict (die : Nat) (entry : Nat) : Statement (.leaseVerdict die entry) := rfl
theorem leaseReturn (die : Nat) (entry : Nat) : Statement (.leaseReturn die entry) := rfl
theorem retirement (u : RetUnit) (how : RetireHow) : Statement (.retirement u how) := rfl
theorem controlLogicError (u : RetUnit) : Statement (.controlLogicError u) := rfl
theorem escalatingError (f : Failing) (more : List Failing) : Statement (.escalatingError f more) := rfl
theorem warmReset : Statement .warmReset := rfl
theorem l2WritebackTimeout (lost : List Nat) : Statement (.l2WritebackTimeout lost) := rfl
theorem coldStart (run : StartRun) (failed : List RetUnit) : Statement (.coldStart run failed) := rfl
theorem teardown (c : CtxId) : Statement (.teardown c) := rfl
theorem patrolScrub (corrected : List Nat) : Statement (.patrolScrub corrected) := rfl
theorem powerInterval (clu : Nat) (spine : Nat) (cycles : Nat) (turn : PowerTurn) :
    Statement (.powerInterval clu spine cycles turn) := rfl
theorem ballastFiring (clu : Nat) (dom : Nat) : Statement (.ballastFiring clu dom) := rfl
theorem chimeEvaluation (c : CtxId) (l : Nat) : Statement (.chimeEvaluation c l) := rfl
theorem chimeCounterFire (c : CtxId) (l : Nat) (n : Nat) : Statement (.chimeCounterFire c l n) := rfl
theorem drumEmit (c : CtxId) (l : Nat) (drum : BitVec 13) : Statement (.drumEmit c l drum) := rfl
theorem drumEnd (c : CtxId) (l : Nat) (drum : BitVec 13) : Statement (.drumEnd c l drum) := rfl
theorem streamElement (c : CtxId) (l : Nat) (n : Nat) (pick : Nat) : Statement (.streamElement c l n pick) := rfl
theorem streamEnd (c : CtxId) (l : Nat) (n : Nat) : Statement (.streamEnd c l n) := rfl
theorem wloadExecute (c : CtxId) (l : Nat) (d : Nat) (ecc : Option (BitVec 2)) : Statement (.wloadExecute c l d ecc) := rfl
theorem matrixAcceptance (c : CtxId) (l : Nat) (d : Nat) : Statement (.matrixAcceptance c l d) := rfl
theorem matrixRow (c : CtxId) (l : Nat) (d : Nat) (glitch : Option Glitch) (ecc : Option (BitVec 2)) :
    Statement (.matrixRow c l d glitch ecc) := rfl
theorem accumulatorRelease (c : CtxId) (l : Nat) (d : Nat) (tile : Nat) : Statement (.accumulatorRelease c l d tile) := rfl
theorem engineUnit (c : CtxId) (l : Nat) (k : Nat) (pick : Nat) (ecc : Option (BitVec 2)) : Statement (.engineUnit c l k pick ecc) := rfl
theorem commandCompletion (c : CtxId) (l : Nat) (k : Nat) : Statement (.commandCompletion c l k) := rfl
theorem collectiveStart (c : CtxId) (collid : BitVec 16) : Statement (.collectiveStart c collid) := rfl
theorem queueDispatch (c : CtxId) (desc : Addr) : Statement (.queueDispatch c desc) := rfl
theorem parkedQueueServe (c : CtxId) (th : ThreadId) (pick : Nat) : Statement (.parkedQueueServe c th pick) := rfl
theorem barrierRelease (c : CtxId) (ln : BitVec 32) (level : Nat) (inst : Nat) : Statement (.barrierRelease c ln level inst) := rfl
theorem gondolaVisit (g : GondolaTok) : Statement (.gondolaVisit g) := rfl
theorem stealHandshake (c : CtxId) (thief : BitVec 8) (work : Stolen) : Statement (.stealHandshake c thief work) := rfl
theorem hostDoorbell (c : CtxId) (prod : BitVec 32) : Statement (.hostDoorbell c prod) := rfl
theorem hostCommand (c : CtxId) : Statement (.hostCommand c) := rfl
theorem hostEventWrite (c : CtxId) (cons : BitVec 32) : Statement (.hostEventWrite c cons) := rfl
theorem biasToHost (byHouse : Bool) (page : BitVec 40) (hostData : List (Nat × List Byte)) : Statement (.biasToHost byHouse page hostData) := rfl
theorem biasToDevice (byHouse : Bool) (page : BitVec 40) (hostData : List (Nat × List Byte)) : Statement (.biasToDevice byHouse page hostData) := rfl
theorem hostMemoryRequest (pa : Nat) (cacheable : Bool) (write : Option (List Byte)) (n : Nat) : Statement (.hostMemoryRequest pa cacheable write n) := rfl
theorem hostSnoopResponse (line : Nat) (dirty : Option (List Byte)) (keepShared : Bool) : Statement (.hostSnoopResponse line dirty keepShared) := rfl
theorem spdmRequest (req : BitVec 8) (index : BitVec 8) (nonce : BitVec 256) : Statement (.spdmRequest req index nonce) := rfl
theorem peerRequest (peer : BitVec 8) (c : CtxId) (req : PeerReq) : Statement (.peerRequest peer c req) := rfl
theorem linkWidthChange (link : Nat) (lanes : BitVec 4) : Statement (.linkWidthChange link lanes) := rfl
theorem linkCorrectedError (link : Nat) (lane : Option Nat) : Statement (.linkCorrectedError link lane) := rfl
theorem spinefreqWrite (die : Nat) (spine : Nat) (code : BitVec 7) : Statement (.spinefreqWrite die spine code) := rfl
theorem spselWrite (clu : Nat) (dom : Nat) (spine : BitVec 3) : Statement (.spselWrite clu dom spine) := rfl
theorem dbgHalt : Statement (.dbgHalt) := rfl
theorem dbgResume : Statement (.dbgResume) := rfl
theorem dbgStep : Statement (.dbgStep) := rfl
theorem dfenceCompletion (c : CtxId) : Statement (.dfenceCompletion c) := rfl
theorem firmwareUpdate (img : FirmwareImage) : Statement (.firmwareUpdate img) := rfl
theorem registerWrite (r : WReg) (v : BitVec 64) : Statement (.registerWrite r v) := rfl
theorem mov (t : Tmpl) (l : FormL) : Statement (.mov t l) := congrArg some (tmpl_enc_opcode t _)
theorem steer (t : Tmpl) (l : FormL) : Statement (.steer t l) := congrArg some (tmpl_enc_opcode t _)
theorem filter (t : Tmpl) (l : FormL) : Statement (.filter t l) := congrArg some (tmpl_enc_opcode t _)
theorem gate (t : Tmpl) (l : FormL) : Statement (.gate t l) := congrArg some (tmpl_enc_opcode t _)
theorem sink (t : Tmpl) (l : FormL) : Statement (.sink t l) := congrArg some (tmpl_enc_opcode t _)
theorem sel (t : Tmpl) (l : FormL) (xa : XArg) : Statement (.sel t l xa) := congrArg some (tmpl_enc_opcode t _)
theorem fork (t : Tmpl) (l : FormL) (xa : XArg) : Statement (.fork t l xa) := congrArg some (tmpl_enc_opcode t _)
theorem wadv (t : Tmpl) (l : FormL) : Statement (.wadv t l) := congrArg some (tmpl_enc_opcode t _)
theorem wset (t : Tmpl) (l : FormL) : Statement (.wset t l) := congrArg some (tmpl_enc_opcode t _)
theorem wrd (t : Tmpl) (l : FormL) : Statement (.wrd t l) := congrArg some (tmpl_enc_opcode t _)
theorem trd (t : Tmpl) (l : FormL) : Statement (.trd t l) := congrArg some (tmpl_enc_opcode t _)
theorem tnew (t : Tmpl) (l : FormL) : Statement (.tnew t l) := congrArg some (tmpl_enc_opcode t _)
theorem tend (t : Tmpl) (l : FormL) : Statement (.tend t l) := congrArg some (tmpl_enc_opcode t _)
theorem seqt (t : Tmpl) (l : FormL) : Statement (.seqt t l) := congrArg some (tmpl_enc_opcode t _)
theorem switch (t : Tmpl) (f : FormS) : Statement (.switch t f) := congrArg some (tmpl_enc_opcode t _)
theorem call (t : Tmpl) (l : FormL) : Statement (.call t l) := congrArg some (tmpl_enc_opcode t _)
theorem ret (t : Tmpl) (l : FormL) : Statement (.ret t l) := congrArg some (tmpl_enc_opcode t _)
theorem bjump (t : Tmpl) (l : FormL) : Statement (.bjump t l) := congrArg some (tmpl_enc_opcode t _)
theorem trap (t : Tmpl) (g : FormG) : Statement (.trap t g) := congrArg some (tmpl_enc_opcode t _)
theorem add (t : Tmpl) (g : FormG) : Statement (.add t g) := congrArg some (tmpl_enc_opcode t _)
theorem sub (t : Tmpl) (g : FormG) : Statement (.sub t g) := congrArg some (tmpl_enc_opcode t _)
theorem mul (t : Tmpl) (g : FormG) : Statement (.mul t g) := congrArg some (tmpl_enc_opcode t _)
theorem mulh (t : Tmpl) (g : FormG) : Statement (.mulh t g) := congrArg some (tmpl_enc_opcode t _)
theorem mulhn (t : Tmpl) (g : FormG) : Statement (.mulhn t g) := congrArg some (tmpl_enc_opcode t _)
theorem mad (t : Tmpl) (g : FormG) (xa : XArg) : Statement (.mad t g xa) := congrArg some (tmpl_enc_opcode t _)
theorem div (t : Tmpl) (g : FormG) : Statement (.div t g) := congrArg some (tmpl_enc_opcode t _)
theorem divn (t : Tmpl) (g : FormG) : Statement (.divn t g) := congrArg some (tmpl_enc_opcode t _)
theorem rem (t : Tmpl) (g : FormG) : Statement (.rem t g) := congrArg some (tmpl_enc_opcode t _)
theorem remn (t : Tmpl) (g : FormG) : Statement (.remn t g) := congrArg some (tmpl_enc_opcode t _)
theorem neg (t : Tmpl) (g : FormG) : Statement (.neg t g) := congrArg some (tmpl_enc_opcode t _)
theorem abs (t : Tmpl) (g : FormG) : Statement (.abs t g) := congrArg some (tmpl_enc_opcode t _)
theorem min (t : Tmpl) (g : FormG) : Statement (.min t g) := congrArg some (tmpl_enc_opcode t _)
theorem max (t : Tmpl) (g : FormG) : Statement (.max t g) := congrArg some (tmpl_enc_opcode t _)
theorem minn (t : Tmpl) (g : FormG) : Statement (.minn t g) := congrArg some (tmpl_enc_opcode t _)
theorem maxn (t : Tmpl) (g : FormG) : Statement (.maxn t g) := congrArg some (tmpl_enc_opcode t _)
theorem addsat (t : Tmpl) (g : FormG) : Statement (.addsat t g) := congrArg some (tmpl_enc_opcode t _)
theorem subsat (t : Tmpl) (g : FormG) : Statement (.subsat t g) := congrArg some (tmpl_enc_opcode t _)
theorem clamp (t : Tmpl) (g : FormG) (xa : XArg) : Statement (.clamp t g xa) := congrArg some (tmpl_enc_opcode t _)
theorem and (t : Tmpl) (g : FormG) : Statement (.and t g) := congrArg some (tmpl_enc_opcode t _)
theorem or (t : Tmpl) (g : FormG) : Statement (.or t g) := congrArg some (tmpl_enc_opcode t _)
theorem xor (t : Tmpl) (g : FormG) : Statement (.xor t g) := congrArg some (tmpl_enc_opcode t _)
theorem andn (t : Tmpl) (g : FormG) : Statement (.andn t g) := congrArg some (tmpl_enc_opcode t _)
theorem not (t : Tmpl) (g : FormG) : Statement (.not t g) := congrArg some (tmpl_enc_opcode t _)
theorem shl (t : Tmpl) (g : FormG) : Statement (.shl t g) := congrArg some (tmpl_enc_opcode t _)
theorem shr (t : Tmpl) (g : FormG) : Statement (.shr t g) := congrArg some (tmpl_enc_opcode t _)
theorem sra (t : Tmpl) (g : FormG) : Statement (.sra t g) := congrArg some (tmpl_enc_opcode t _)
theorem rot (t : Tmpl) (g : FormG) : Statement (.rot t g) := congrArg some (tmpl_enc_opcode t _)
theorem clz (t : Tmpl) (g : FormG) : Statement (.clz t g) := congrArg some (tmpl_enc_opcode t _)
theorem ctz (t : Tmpl) (g : FormG) : Statement (.ctz t g) := congrArg some (tmpl_enc_opcode t _)
theorem popc (t : Tmpl) (g : FormG) : Statement (.popc t g) := congrArg some (tmpl_enc_opcode t _)
theorem brev (t : Tmpl) (g : FormG) : Statement (.brev t g) := congrArg some (tmpl_enc_opcode t _)
theorem bfx (t : Tmpl) (g : FormG) : Statement (.bfx t g) := congrArg some (tmpl_enc_opcode t _)
theorem bfi (t : Tmpl) (g : FormG) (xa : XArg) : Statement (.bfi t g xa) := congrArg some (tmpl_enc_opcode t _)
theorem sext (t : Tmpl) (g : FormG) : Statement (.sext t g) := congrArg some (tmpl_enc_opcode t _)
theorem zext (t : Tmpl) (g : FormG) : Statement (.zext t g) := congrArg some (tmpl_enc_opcode t _)
theorem lea (t : Tmpl) (g : FormG) : Statement (.lea t g) := congrArg some (tmpl_enc_opcode t _)
theorem cmp (t : Tmpl) (g : FormG) : Statement (.cmp t g) := congrArg some (tmpl_enc_opcode t _)
theorem vadd (t : Tmpl) (g : FormG) : Statement (.vadd t g) := congrArg some (tmpl_enc_opcode t _)
theorem vsub (t : Tmpl) (g : FormG) : Statement (.vsub t g) := congrArg some (tmpl_enc_opcode t _)
theorem vmul (t : Tmpl) (g : FormG) : Statement (.vmul t g) := congrArg some (tmpl_enc_opcode t _)
theorem vfma (t : Tmpl) (g : FormG) (xa : XArg) : Statement (.vfma t g xa) := congrArg some (tmpl_enc_opcode t _)
theorem vfms (t : Tmpl) (g : FormG) (xa : XArg) : Statement (.vfms t g xa) := congrArg some (tmpl_enc_opcode t _)
theorem vfnma (t : Tmpl) (g : FormG) (xa : XArg) : Statement (.vfnma t g xa) := congrArg some (tmpl_enc_opcode t _)
theorem vfnms (t : Tmpl) (g : FormG) (xa : XArg) : Statement (.vfnms t g xa) := congrArg some (tmpl_enc_opcode t _)
theorem vdiv (t : Tmpl) (g : FormG) : Statement (.vdiv t g) := congrArg some (tmpl_enc_opcode t _)
theorem vsqrt (t : Tmpl) (g : FormG) : Statement (.vsqrt t g) := congrArg some (tmpl_enc_opcode t _)
theorem vrsqe (t : Tmpl) (g : FormG) : Statement (.vrsqe t g) := congrArg some (tmpl_enc_opcode t _)
theorem vrcpe (t : Tmpl) (g : FormG) : Statement (.vrcpe t g) := congrArg some (tmpl_enc_opcode t _)
theorem vexpe (t : Tmpl) (g : FormG) : Statement (.vexpe t g) := congrArg some (tmpl_enc_opcode t _)
theorem vloge (t : Tmpl) (g : FormG) : Statement (.vloge t g) := congrArg some (tmpl_enc_opcode t _)
theorem vmin (t : Tmpl) (g : FormG) : Statement (.vmin t g) := congrArg some (tmpl_enc_opcode t _)
theorem vmax (t : Tmpl) (g : FormG) : Statement (.vmax t g) := congrArg some (tmpl_enc_opcode t _)
theorem vabs (t : Tmpl) (g : FormG) : Statement (.vabs t g) := congrArg some (tmpl_enc_opcode t _)
theorem vneg (t : Tmpl) (g : FormG) : Statement (.vneg t g) := congrArg some (tmpl_enc_opcode t _)
theorem vcpys (t : Tmpl) (g : FormG) : Statement (.vcpys t g) := congrArg some (tmpl_enc_opcode t _)
theorem vcmp (t : Tmpl) (g : FormG) : Statement (.vcmp t g) := congrArg some (tmpl_enc_opcode t _)
theorem vsel (t : Tmpl) (g : FormG) (xa : XArg) : Statement (.vsel t g xa) := congrArg some (tmpl_enc_opcode t _)
theorem vclass (t : Tmpl) (g : FormG) : Statement (.vclass t g) := congrArg some (tmpl_enc_opcode t _)
theorem vround (t : Tmpl) (g : FormG) : Statement (.vround t g) := congrArg some (tmpl_enc_opcode t _)
theorem vcvt (t : Tmpl) (g : FormG) : Statement (.vcvt t g) := congrArg some (tmpl_enc_opcode t _)
theorem vcvti (t : Tmpl) (g : FormG) : Statement (.vcvti t g) := congrArg some (tmpl_enc_opcode t _)
theorem vcvtf (t : Tmpl) (g : FormG) : Statement (.vcvtf t g) := congrArg some (tmpl_enc_opcode t _)
theorem vscale (t : Tmpl) (g : FormG) : Statement (.vscale t g) := congrArg some (tmpl_enc_opcode t _)
theorem vdot (t : Tmpl) (g : FormG) : Statement (.vdot t g) := congrArg some (tmpl_enc_opcode t _)
theorem vhadd (t : Tmpl) (g : FormG) : Statement (.vhadd t g) := congrArg some (tmpl_enc_opcode t _)
theorem vhmax (t : Tmpl) (g : FormG) : Statement (.vhmax t g) := congrArg some (tmpl_enc_opcode t _)
theorem vhmin (t : Tmpl) (g : FormG) : Statement (.vhmin t g) := congrArg some (tmpl_enc_opcode t _)
theorem vshuf (t : Tmpl) (g : FormG) : Statement (.vshuf t g) := congrArg some (tmpl_enc_opcode t _)
theorem vbcast (t : Tmpl) (g : FormG) : Statement (.vbcast t g) := congrArg some (tmpl_enc_opcode t _)
theorem vpack (t : Tmpl) (g : FormG) : Statement (.vpack t g) := congrArg some (tmpl_enc_opcode t _)
theorem vunpk (t : Tmpl) (g : FormG) : Statement (.vunpk t g) := congrArg some (tmpl_enc_opcode t _)
theorem viadd (t : Tmpl) (g : FormG) : Statement (.viadd t g) := congrArg some (tmpl_enc_opcode t _)
theorem visub (t : Tmpl) (g : FormG) : Statement (.visub t g) := congrArg some (tmpl_enc_opcode t _)
theorem vimul (t : Tmpl) (g : FormG) : Statement (.vimul t g) := congrArg some (tmpl_enc_opcode t _)
theorem vimin (t : Tmpl) (g : FormG) : Statement (.vimin t g) := congrArg some (tmpl_enc_opcode t _)
theorem vimax (t : Tmpl) (g : FormG) : Statement (.vimax t g) := congrArg some (tmpl_enc_opcode t _)
theorem viabs (t : Tmpl) (g : FormG) : Statement (.viabs t g) := congrArg some (tmpl_enc_opcode t _)
theorem vshl (t : Tmpl) (g : FormG) : Statement (.vshl t g) := congrArg some (tmpl_enc_opcode t _)
theorem vshr (t : Tmpl) (g : FormG) : Statement (.vshr t g) := congrArg some (tmpl_enc_opcode t _)
theorem vsra (t : Tmpl) (g : FormG) : Statement (.vsra t g) := congrArg some (tmpl_enc_opcode t _)
theorem vnarrow (t : Tmpl) (g : FormG) : Statement (.vnarrow t g) := congrArg some (tmpl_enc_opcode t _)
theorem vquant (t : Tmpl) (g : FormG) : Statement (.vquant t g) := congrArg some (tmpl_enc_opcode t _)
theorem vdeq (t : Tmpl) (g : FormG) : Statement (.vdeq t g) := congrArg some (tmpl_enc_opcode t _)
theorem vred (t : Tmpl) (g : FormG) : Statement (.vred t g) := congrArg some (tmpl_enc_opcode t _)
theorem ld (t : Tmpl) (m : FormM) : Statement (.ld t m) := congrArg some (tmpl_enc_opcode t _)
theorem st (t : Tmpl) (m : FormM) : Statement (.st t m) := congrArg some (tmpl_enc_opcode t _)
theorem ldc (t : Tmpl) (m : FormM) : Statement (.ldc t m) := congrArg some (tmpl_enc_opcode t _)
theorem stf (t : Tmpl) (m : FormM) : Statement (.stf t m) := congrArg some (tmpl_enc_opcode t _)
theorem ldi (t : Tmpl) (m : FormM) : Statement (.ldi t m) := congrArg some (tmpl_enc_opcode t _)
theorem sti (t : Tmpl) (m : FormM) : Statement (.sti t m) := congrArg some (tmpl_enc_opcode t _)
theorem mnop (t : Tmpl) (m : FormM) : Statement (.mnop t m) := congrArg some (tmpl_enc_opcode t _)
theorem pref (t : Tmpl) (m : FormM) : Statement (.pref t m) := congrArg some (tmpl_enc_opcode t _)
theorem atadd (t : Tmpl) (m : FormM) : Statement (.atadd t m) := congrArg some (tmpl_enc_opcode t _)
theorem atand (t : Tmpl) (m : FormM) : Statement (.atand t m) := congrArg some (tmpl_enc_opcode t _)
theorem ator (t : Tmpl) (m : FormM) : Statement (.ator t m) := congrArg some (tmpl_enc_opcode t _)
theorem atxor (t : Tmpl) (m : FormM) : Statement (.atxor t m) := congrArg some (tmpl_enc_opcode t _)
theorem atmin (t : Tmpl) (m : FormM) : Statement (.atmin t m) := congrArg some (tmpl_enc_opcode t _)
theorem atmax (t : Tmpl) (m : FormM) : Statement (.atmax t m) := congrArg some (tmpl_enc_opcode t _)
theorem atminn (t : Tmpl) (m : FormM) : Statement (.atminn t m) := congrArg some (tmpl_enc_opcode t _)
theorem atmaxn (t : Tmpl) (m : FormM) : Statement (.atmaxn t m) := congrArg some (tmpl_enc_opcode t _)
theorem atxchg (t : Tmpl) (m : FormM) : Statement (.atxchg t m) := congrArg some (tmpl_enc_opcode t _)
theorem atcas (t : Tmpl) (m : FormM) (xa : XArg) : Statement (.atcas t m xa) := congrArg some (tmpl_enc_opcode t _)
theorem redadd (t : Tmpl) (m : FormM) : Statement (.redadd t m) := congrArg some (tmpl_enc_opcode t _)
theorem redmin (t : Tmpl) (m : FormM) : Statement (.redmin t m) := congrArg some (tmpl_enc_opcode t _)
theorem redmax (t : Tmpl) (m : FormM) : Statement (.redmax t m) := congrArg some (tmpl_enc_opcode t _)
theorem redfadd (t : Tmpl) (m : FormM) : Statement (.redfadd t m) := congrArg some (tmpl_enc_opcode t _)
theorem fence (t : Tmpl) (m : FormM) : Statement (.fence t m) := congrArg some (tmpl_enc_opcode t _)
theorem own (t : Tmpl) (m : FormM) : Statement (.own t m) := congrArg some (tmpl_enc_opcode t _)
theorem feq (t : Tmpl) (m : FormM) : Statement (.feq t m) := congrArg some (tmpl_enc_opcode t _)
theorem feset (t : Tmpl) (m : FormM) : Statement (.feset t m) := congrArg some (tmpl_enc_opcode t _)
theorem clean (t : Tmpl) (m : FormM) : Statement (.clean t m) := congrArg some (tmpl_enc_opcode t _)
theorem flush (t : Tmpl) (m : FormM) : Statement (.flush t m) := congrArg some (tmpl_enc_opcode t _)
theorem invl (t : Tmpl) (m : FormM) : Statement (.invl t m) := congrArg some (tmpl_enc_opcode t _)
theorem wload (t : Tmpl) (x : FormX) : Statement (.wload t x) := congrArg some (tmpl_enc_opcode t _)
theorem mma (t : Tmpl) (x : FormX) : Statement (.mma t x) := congrArg some (tmpl_enc_opcode t _)
theorem mmasp (t : Tmpl) (x : FormX) : Statement (.mmasp t x) := congrArg some (tmpl_enc_opcode t _)
theorem acccfg (t : Tmpl) (x : FormX) : Statement (.acccfg t x) := congrArg some (tmpl_enc_opcode t _)
theorem accrd (t : Tmpl) (x : FormX) : Statement (.accrd t x) := congrArg some (tmpl_enc_opcode t _)
theorem accspl (t : Tmpl) (x : FormX) : Statement (.accspl t x) := congrArg some (tmpl_enc_opcode t _)
theorem accrst (t : Tmpl) (x : FormX) : Statement (.accrst t x) := congrArg some (tmpl_enc_opcode t _)
theorem scacc (t : Tmpl) (x : FormX) : Statement (.scacc t x) := congrArg some (tmpl_enc_opcode t _)
theorem scaccv (t : Tmpl) (x : FormX) : Statement (.scaccv t x) := congrArg some (tmpl_enc_opcode t _)
theorem rinit (t : Tmpl) (x : FormX) : Statement (.rinit t x) := congrArg some (tmpl_enc_opcode t _)
theorem rstat (t : Tmpl) (x : FormX) : Statement (.rstat t x) := congrArg some (tmpl_enc_opcode t _)
theorem radv (t : Tmpl) (x : FormX) : Statement (.radv t x) := congrArg some (tmpl_enc_opcode t _)
theorem cpy (t : Tmpl) (x : FormX) : Statement (.cpy t x) := congrArg some (tmpl_enc_opcode t _)
theorem cpy2d (t : Tmpl) (x : FormX) : Statement (.cpy2d t x) := congrArg some (tmpl_enc_opcode t _)
theorem gath (t : Tmpl) (x : FormX) : Statement (.gath t x) := congrArg some (tmpl_enc_opcode t _)
theorem scat (t : Tmpl) (x : FormX) : Statement (.scat t x) := congrArg some (tmpl_enc_opcode t _)
theorem coll (t : Tmpl) (x : FormX) : Statement (.coll t x) := congrArg some (tmpl_enc_opcode t _)
theorem ecan (t : Tmpl) (x : FormX) : Statement (.ecan t x) := congrArg some (tmpl_enc_opcode t _)
theorem strcfg (t : Tmpl) (x : FormX) : Statement (.strcfg t x) := congrArg some (tmpl_enc_opcode t _)
theorem strgo (t : Tmpl) (x : FormX) : Statement (.strgo t x) := congrArg some (tmpl_enc_opcode t _)
theorem strstop (t : Tmpl) (x : FormX) : Statement (.strstop t x) := congrArg some (tmpl_enc_opcode t _)
theorem sqcfg (t : Tmpl) (x : FormX) : Statement (.sqcfg t x) := congrArg some (tmpl_enc_opcode t _)
theorem sqgo (t : Tmpl) (x : FormX) : Statement (.sqgo t x) := congrArg some (tmpl_enc_opcode t _)
theorem chwire (t : Tmpl) (x : FormX) : Statement (.chwire t x) := congrArg some (tmpl_enc_opcode t _)
theorem chset (t : Tmpl) (x : FormX) : Statement (.chset t x) := congrArg some (tmpl_enc_opcode t _)
theorem chpulse (t : Tmpl) (x : FormX) : Statement (.chpulse t x) := congrArg some (tmpl_enc_opcode t _)
theorem launch (t : Tmpl) (m : FormM) : Statement (.launch t m) := congrArg some (tmpl_enc_opcode t _)
theorem lstat (t : Tmpl) (m : FormM) : Statement (.lstat t m) := congrArg some (tmpl_enc_opcode t _)
theorem lbar (t : Tmpl) (m : FormM) : Statement (.lbar t m) := congrArg some (tmpl_enc_opcode t _)
theorem pqput (t : Tmpl) (m : FormM) : Statement (.pqput t m) := congrArg some (tmpl_enc_opcode t _)
theorem pqget (t : Tmpl) (m : FormM) : Statement (.pqget t m) := congrArg some (tmpl_enc_opcode t _)
theorem rtget (t : Tmpl) (m : FormM) : Statement (.rtget t m) := congrArg some (tmpl_enc_opcode t _)
theorem rtdone (t : Tmpl) (m : FormM) : Statement (.rtdone t m) := congrArg some (tmpl_enc_opcode t _)
theorem qput (t : Tmpl) (m : FormM) : Statement (.qput t m) := congrArg some (tmpl_enc_opcode t _)
theorem qget (t : Tmpl) (m : FormM) : Statement (.qget t m) := congrArg some (tmpl_enc_opcode t _)
theorem qbind (t : Tmpl) (m : FormM) : Statement (.qbind t m) := congrArg some (tmpl_enc_opcode t _)
theorem qunbind (t : Tmpl) (m : FormM) : Statement (.qunbind t m) := congrArg some (tmpl_enc_opcode t _)
theorem iqput (t : Tmpl) (m : FormM) : Statement (.iqput t m) := congrArg some (tmpl_enc_opcode t _)
theorem iqget (t : Tmpl) (m : FormM) : Statement (.iqget t m) := congrArg some (tmpl_enc_opcode t _)
theorem iqlook (t : Tmpl) (m : FormM) : Statement (.iqlook t m) := congrArg some (tmpl_enc_opcode t _)
theorem iqcons (t : Tmpl) (m : FormM) : Statement (.iqcons t m) := congrArg some (tmpl_enc_opcode t _)
theorem iqadv (t : Tmpl) (m : FormM) : Statement (.iqadv t m) := congrArg some (tmpl_enc_opcode t _)
theorem iqquiet (t : Tmpl) (m : FormM) : Statement (.iqquiet t m) := congrArg some (tmpl_enc_opcode t _)
theorem steal (t : Tmpl) (g : FormG) : Statement (.steal t g) := congrArg some (tmpl_enc_opcode t _)
theorem capget (t : Tmpl) (m : FormM) : Statement (.capget t m) := congrArg some (tmpl_enc_opcode t _)
theorem cfgreq (t : Tmpl) (g : FormG) : Statement (.cfgreq t g) := congrArg some (tmpl_enc_opcode t _)
theorem joinw (t : Tmpl) (m : FormM) : Statement (.joinw t m) := congrArg some (tmpl_enc_opcode t _)
theorem dswitch (t : Tmpl) (g : FormG) : Statement (.dswitch t g) := congrArg some (tmpl_enc_opcode t _)
theorem dfence (t : Tmpl) (g : FormG) : Statement (.dfence t g) := congrArg some (tmpl_enc_opcode t _)
theorem dput (t : Tmpl) (m : FormM) : Statement (.dput t m) := congrArg some (tmpl_enc_opcode t _)
theorem dget (t : Tmpl) (m : FormM) : Statement (.dget t m) := congrArg some (tmpl_enc_opcode t _)
theorem ipin (t : Tmpl) (g : FormG) : Statement (.ipin t g) := congrArg some (tmpl_enc_opcode t _)
theorem iunpin (t : Tmpl) (g : FormG) : Statement (.iunpin t g) := congrArg some (tmpl_enc_opcode t _)
theorem yield (t : Tmpl) (g : FormG) : Statement (.yield t g) := congrArg some (tmpl_enc_opcode t _)
theorem ctxst (t : Tmpl) (g : FormG) : Statement (.ctxst t g) := congrArg some (tmpl_enc_opcode t _)
theorem cntrd (t : Tmpl) (g : FormG) : Statement (.cntrd t g) := congrArg some (tmpl_enc_opcode t _)
theorem enrd (t : Tmpl) (g : FormG) : Statement (.enrd t g) := congrArg some (tmpl_enc_opcode t _)
theorem susrd (t : Tmpl) (g : FormG) : Statement (.susrd t g) := congrArg some (tmpl_enc_opcode t _)
theorem logset (t : Tmpl) (m : FormM) : Statement (.logset t m) := congrArg some (tmpl_enc_opcode t _)
theorem logrd (t : Tmpl) (g : FormG) : Statement (.logrd t g) := congrArg some (tmpl_enc_opcode t _)
theorem keyset (t : Tmpl) (m : FormM) : Statement (.keyset t m) := congrArg some (tmpl_enc_opcode t _)
theorem pattr (t : Tmpl) (m : FormM) : Statement (.pattr t m) := congrArg some (tmpl_enc_opcode t _)
theorem xlinv (t : Tmpl) (m : FormM) : Statement (.xlinv t m) := congrArg some (tmpl_enc_opcode t _)
theorem syscall (t : Tmpl) (g : FormG) : Statement (.syscall t g) := congrArg some (tmpl_enc_opcode t _)
theorem brk (t : Tmpl) (g : FormG) : Statement (.brk t g) := congrArg some (tmpl_enc_opcode t _)
theorem migrq (t : Tmpl) (g : FormG) : Statement (.migrq t g) := congrArg some (tmpl_enc_opcode t _)
theorem leaseq (t : Tmpl) (g : FormG) : Statement (.leaseq t g) := congrArg some (tmpl_enc_opcode t _)
theorem fresume (t : Tmpl) (g : FormG) : Statement (.fresume t g) := congrArg some (tmpl_enc_opcode t _)
theorem fabort (t : Tmpl) (g : FormG) : Statement (.fabort t g) := congrArg some (tmpl_enc_opcode t _)
theorem accumulatorCommandExecute (c : CtxId) (l : Nat) (d : Nat) (ecc : Option (BitVec 2)) :
    Statement (.accumulatorCommandExecute c l d ecc) := rfl
theorem contextCreation (c : CtxId) (d : CtxDescr) : Statement (.contextCreation c d) := rfl
theorem switchOutResident (c : CtxId) : Statement (.switchOutResident c) := rfl
theorem switchInResident (c : CtxId) : Statement (.switchInResident c) := rfl
theorem orderlyPowerDown : Statement (.orderlyPowerDown) := rfl
theorem hotClear (clu : Nat) (temp : BitVec 12) : Statement (.hotClear clu temp) := rfl
theorem coolantConditionClear (flow : Nat) (inlet : Nat) : Statement (.coolantConditionClear flow inlet) := rfl
theorem farModuleConnect (link : Nat) (peer : Option (BitVec 8)) (lanes : BitVec 4) : Statement (.farModuleConnect link peer lanes) := rfl
theorem cxlLinkTraining (up : Bool) (lanes : Nat) (rate : Nat) : Statement (.cxlLinkTraining up lanes rate) := rfl
theorem hostCacheSnoop (line : Nat) (invalidate : Bool) : Statement (.hostCacheSnoop line invalidate) := rfl

end Sys2Proof.Laws.Encoding
end

