-- ==== Sys2Proof/Laws/Tables.lean ====
section
/-! SUPPORT. The sparse tables and lists of the state: what is read after an entry is written, replaced or removed. -/

namespace Sys2Proof.Machine

@[simp] theorem tget_tset_same {α : Type} (t : Tab α) (n : Nat) (v : α) : tget (tset t n v) n = some v := by
  induction t with
  | nil => simp [tset, tget]
  | cons e r ih =>
    unfold tset
    split
    · simp [tget]
    · split
      · simp [tget]
      · rename_i h1 h2; rw [tget, if_neg (fun h => h2 h.symm)]; exact ih

theorem tget_tset_other {α : Type} (t : Tab α) {n m : Nat} (v : α) (h : m ≠ n) : tget (tset t n v) m = tget t m := by
  induction t with
  | nil => simp [tset, tget, Ne.symm h]
  | cons e r ih =>
    unfold tset
    split
    · simp [tget, Ne.symm h]
    · split
      · rename_i h2; simp [tget, Ne.symm h, ← h2]
      · simp only [tget, ih]

@[simp] theorem tgetD_tset_same {α : Type} (t : Tab α) (n : Nat) (v d : α) : tgetD (tset t n v) n d = v := by
  unfold tgetD; simp

theorem tgetD_tset_other {α : Type} (t : Tab α) {n m : Nat} (v d : α) (h : m ≠ n) :
    tgetD (tset t n v) m d = tgetD t m d := by
  unfold tgetD; rw [tget_tset_other t v h]

theorem tgetD_tset {α : Type} (t : Tab α) (n m : Nat) (v d : α) :
    tgetD (tset t n v) m d = if m = n then v else tgetD t m d := by
  split
  · rename_i h; subst h; simp
  · rename_i h; exact tgetD_tset_other t v d h

theorem tget_tset {α : Type} (t : Tab α) (n m : Nat) (v : α) :
    tget (tset t n v) m = if m = n then some v else tget t m := by
  split
  · rename_i h; subst h; simp
  · rename_i h; exact tget_tset_other t v h

theorem tget_tdel {α : Type} (t : Tab α) (n m : Nat) : tget (tdel t n) m = if m = n then none else tget t m := by
  induction t with
  | nil => simp [tdel, tget]
  | cons e r ih =>
    unfold tdel at *
    rw [List.filter_cons]
    by_cases he : e.1 = n
    · simp only [he, bne_self_eq_false, Bool.false_eq_true, if_false, ih, tget]
      by_cases hm : m = n <;> simp [hm, Ne.symm]
    · simp only [bne_iff_ne, ne_eq, he, not_false_eq_true, if_true, tget, ih]
      by_cases hm : m = n
      · subst hm; simp [he]
      · simp [hm]

/-- What `find?` finds after the element it found was changed, when the change keeps the test. -/
theorem find_updFirst {α : Type} (p : α → Bool) (f : α → α) (hf : ∀ x, p x = true → p (f x) = true) (l : List α) :
    (updFirst p f l).find? p = (l.find? p).map f := by
  induction l with
  | nil => rfl
  | cons x r ih =>
    unfold updFirst
    cases h : p x <;> simp [h, hf, ih]

/-- A change of an element that another test refuses, before and after, leaves what that test finds. -/
theorem find_updFirst_other {α : Type} (p q : α → Bool) (f : α → α)
    (hf : ∀ x, p x = true → q x = false ∧ q (f x) = false) (l : List α) : (updFirst p f l).find? q = l.find? q := by
  induction l with
  | nil => rfl
  | cons x r ih =>
    unfold updFirst
    cases h : p x
    · simp [ih, List.find?_cons]
    · simp [(hf x h).1, (hf x h).2]

theorem mem_updFirst {α : Type} {p : α → Bool} {f : α → α} {l : List α} {y : α} (h : y ∈ updFirst p f l) :
    y ∈ l ∨ ∃ x ∈ l, p x = true ∧ y = f x := by
  induction l with
  | nil => simp [updFirst] at h
  | cons x r ih =>
    unfold updFirst at h
    split at h
    · rename_i hp
      rcases List.mem_cons.1 h with h | h
      · exact .inr ⟨x, by simp, hp, h⟩
      · exact .inl (by simp [h])
    · rcases List.mem_cons.1 h with h | h
      · exact .inl (by simp [h])
      · rcases ih h with h | ⟨z, hz, hp, e⟩
        · exact .inl (by simp [h])
        · exact .inr ⟨z, by simp [hz], hp, e⟩

theorem mem_of_mem_dropFirst {α : Type} {p : α → Bool} {l : List α} {y : α} (h : y ∈ dropFirst p l) : y ∈ l := by
  induction l with
  | nil => simp [dropFirst] at h
  | cons x r ih =>
    unfold dropFirst at h
    split at h
    · simp [h]
    · rcases List.mem_cons.1 h with h | h
      · simp [h]
      · simp [ih h]

theorem length_setAt {α : Type} (l : List α) (n : Nat) (v : α) : (setAt l n v).length = l.length := by
  induction l generalizing n with
  | nil => rfl
  | cons x r ih => cases n <;> simp [setAt, ih]

theorem getD_setAt_other {α : Type} (l : List α) {n m : Nat} (v d : α) (h : m ≠ n) : (setAt l n v).getD m d = l.getD m d := by
  induction l generalizing n m with
  | nil => rfl
  | cons x r ih =>
    cases n with
    | zero => cases m with
      | zero => exact absurd rfl h
      | succ m => rfl
    | succ n => cases m with
      | zero => rfl
      | succ m => simpa [setAt] using ih (n := n) (m := m) (by omega)

theorem getD_setAt_same {α : Type} (l : List α) {n : Nat} (v d : α) (h : n < l.length) : (setAt l n v).getD n d = v := by
  induction l generalizing n with
  | nil => simp at h
  | cons x r ih =>
    cases n with
    | zero => rfl
    | succ n => simpa [setAt] using ih (n := n) (by simpa using h)

end Sys2Proof.Machine
end

