-- ==== Sys2Proof/Laws/State.lean ====
section
/-! SUPPORT. The state under its updates: one lemma per field that an update leaves, and what each lookup finds after each
update. -/

namespace Sys2Proof.Machine

set_option Elab.async false

/-! ### The machine -/

@[simp] theorem State.setCtx_agenda (s : State) (k : Ctx) : (s.setCtx k).agenda = s.agenda := rfl
@[simp] theorem State.setCtx_tick (s : State) (k : Ctx) : (s.setCtx k).tick = s.tick := rfl
@[simp] theorem State.setCtx_focus (s : State) (k : Ctx) : (s.setCtx k).focus = s.focus := rfl
@[simp] theorem State.setCtx_upset (s : State) (k : Ctx) : (s.setCtx k).upset = s.upset := rfl
@[simp] theorem State.setCtx_mem (s : State) (k : Ctx) : (s.setCtx k).mem = s.mem := rfl
@[simp] theorem State.setCtx_launchq (s : State) (k : Ctx) : (s.setCtx k).launchq = s.launchq := rfl
@[simp] theorem State.setCtx_owners (s : State) (k : Ctx) : (s.setCtx k).owners = s.owners := rfl
@[simp] theorem State.setCtx_evseq (s : State) (k : Ctx) : (s.setCtx k).evseq = s.evseq := rfl
@[simp] theorem State.setCtx_modnum (s : State) (k : Ctx) : (s.setCtx k).modnum = s.modnum := rfl
@[simp] theorem State.setCtx_links (s : State) (k : Ctx) : (s.setCtx k).links = s.links := rfl
@[simp] theorem State.setCtx_lanesOut (s : State) (k : Ctx) : (s.setCtx k).lanesOut = s.lanesOut := rfl
@[simp] theorem State.setCtx_temps (s : State) (k : Ctx) : (s.setCtx k).temps = s.temps := rfl
@[simp] theorem State.setCtx_cooling (s : State) (k : Ctx) : (s.setCtx k).cooling = s.cooling := rfl
@[simp] theorem State.setCtx_spines (s : State) (k : Ctx) : (s.setCtx k).spines = s.spines := rfl
@[simp] theorem State.setCtx_spsel (s : State) (k : Ctx) : (s.setCtx k).spsel = s.spsel := rfl
@[simp] theorem State.setCtx_parked (s : State) (k : Ctx) : (s.setCtx k).parked = s.parked := rfl
@[simp] theorem State.setCtx_spnow (s : State) (k : Ctx) : (s.setCtx k).spnow = s.spnow := rfl
@[simp] theorem State.setCtx_pwrctl (s : State) (k : Ctx) : (s.setCtx k).pwrctl = s.pwrctl := rfl
@[simp] theorem State.setCtx_leasectl (s : State) (k : Ctx) : (s.setCtx k).leasectl = s.leasectl := rfl
@[simp] theorem State.setCtx_leases (s : State) (k : Ctx) : (s.setCtx k).leases = s.leases := rfl
@[simp] theorem State.setCtx_lastLease (s : State) (k : Ctx) : (s.setCtx k).lastLease = s.lastLease := rfl
@[simp] theorem State.setCtx_scores (s : State) (k : Ctx) : (s.setCtx k).scores = s.scores := rfl
@[simp] theorem State.setCtx_pwrdom (s : State) (k : Ctx) : (s.setCtx k).pwrdom = s.pwrdom := rfl
@[simp] theorem State.setCtx_cycles (s : State) (k : Ctx) : (s.setCtx k).cycles = s.cycles := rfl
@[simp] theorem State.setCtx_start (s : State) (k : Ctx) : (s.setCtx k).start = s.start := rfl
@[simp] theorem State.setCtx_hostBias (s : State) (k : Ctx) : (s.setCtx k).hostBias = s.hostBias := rfl
@[simp] theorem State.setCtx_sysBias (s : State) (k : Ctx) : (s.setCtx k).sysBias = s.sysBias := rfl
@[simp] theorem State.setCtx_biascnt (s : State) (k : Ctx) : (s.setCtx k).biascnt = s.biascnt := rfl
@[simp] theorem State.setCtx_dbg (s : State) (k : Ctx) : (s.setCtx k).dbg = s.dbg := rfl
@[simp] theorem State.setCtx_keys (s : State) (k : Ctx) : (s.setCtx k).keys = s.keys := rfl
@[simp] theorem State.setCtx_flash (s : State) (k : Ctx) : (s.setCtx k).flash = s.flash := rfl
@[simp] theorem State.setCtx_receipts (s : State) (k : Ctx) : (s.setCtx k).receipts = s.receipts := rfl
@[simp] theorem State.setCtx_tearing (s : State) (k : Ctx) : (s.setCtx k).tearing = s.tearing := rfl
@[simp] theorem State.setCtx_hdm (s : State) (k : Ctx) : (s.setCtx k).hdm = s.hdm := rfl
@[simp] theorem State.setCtx_tspLock (s : State) (k : Ctx) : (s.setCtx k).tspLock = s.tspLock := rfl
@[simp] theorem State.setCtx_cxl (s : State) (k : Ctx) : (s.setCtx k).cxl = s.cxl := rfl
@[simp] theorem State.setCtx_gondola (s : State) (k : Ctx) : (s.setCtx k).gondola = s.gondola := rfl
@[simp] theorem State.setCtx_taken (s : State) (k : Ctx) : (s.setCtx k).taken = s.taken := rfl
@[simp] theorem State.setCtx_firmware (s : State) (k : Ctx) : (s.setCtx k).firmware = s.firmware := rfl
@[simp] theorem State.setCtx_staged (s : State) (k : Ctx) : (s.setCtx k).staged = s.staged := rfl
@[simp] theorem State.setCtx_coolantBad (s : State) (k : Ctx) : (s.setCtx k).coolantBad = s.coolantBad := rfl
@[simp] theorem State.setCtx_touched (s : State) (k : Ctx) : (s.setCtx k).touched = s.touched := rfl
@[simp] theorem State.setCtx_failing (s : State) (k : Ctx) : (s.setCtx k).failing = s.failing := rfl
@[simp] theorem State.setCtx_hostReply (s : State) (k : Ctx) : (s.setCtx k).hostReply = s.hostReply := rfl
@[simp] theorem State.setCtx_peerReply (s : State) (k : Ctx) : (s.setCtx k).peerReply = s.peerReply := rfl
@[simp] theorem State.setCtx_spdm (s : State) (k : Ctx) : (s.setCtx k).spdm = s.spdm := rfl
@[simp] theorem State.setCtx_swept (s : State) (k : Ctx) : (s.setCtx k).swept = s.swept := rfl
@[simp] theorem State.setCtx_waited (s : State) (k : Ctx) : (s.setCtx k).waited = s.waited := rfl
@[simp] theorem State.setCtx_victims (s : State) (k : Ctx) : (s.setCtx k).victims = s.victims := rfl
@[simp] theorem State.setCtx_heirs (s : State) (k : Ctx) : (s.setCtx k).heirs = s.heirs := rfl
@[simp] theorem State.setCtx_urgentRun (s : State) (k : Ctx) : (s.setCtx k).urgentRun = s.urgentRun := rfl
@[simp] theorem State.setCtx_counted (s : State) (k : Ctx) : (s.setCtx k).counted = s.counted := rfl
@[simp] theorem State.setCtx_retiring (s : State) (k : Ctx) : (s.setCtx k).retiring = s.retiring := rfl
@[simp] theorem State.setCtx_poweredOff (s : State) (k : Ctx) : (s.setCtx k).poweredOff = s.poweredOff := rfl
@[simp] theorem State.setCtx_suspects (s : State) (k : Ctx) : (s.setCtx k).suspects = s.suspects := rfl
@[simp] theorem State.setCtx_drawn (s : State) (k : Ctx) : (s.setCtx k).drawn = s.drawn := rfl
@[simp] theorem State.setCtx_drawnAt (s : State) (k : Ctx) : (s.setCtx k).drawnAt = s.drawnAt := rfl
@[simp] theorem State.setCtx_leaseHistory (s : State) (k : Ctx) : (s.setCtx k).leaseHistory = s.leaseHistory := rfl
@[simp] theorem State.usePower_agenda (s : State) (d : Nat) : (s.usePower d).agenda = s.agenda := rfl
@[simp] theorem State.usePower_tick (s : State) (d : Nat) : (s.usePower d).tick = s.tick := rfl
@[simp] theorem State.usePower_focus (s : State) (d : Nat) : (s.usePower d).focus = s.focus := rfl
@[simp] theorem State.usePower_upset (s : State) (d : Nat) : (s.usePower d).upset = s.upset := rfl
@[simp] theorem State.usePower_mem (s : State) (d : Nat) : (s.usePower d).mem = s.mem := rfl
@[simp] theorem State.usePower_ctxs (s : State) (d : Nat) : (s.usePower d).ctxs = s.ctxs := rfl
@[simp] theorem State.usePower_launchq (s : State) (d : Nat) : (s.usePower d).launchq = s.launchq := rfl
@[simp] theorem State.usePower_owners (s : State) (d : Nat) : (s.usePower d).owners = s.owners := rfl
@[simp] theorem State.usePower_evseq (s : State) (d : Nat) : (s.usePower d).evseq = s.evseq := rfl
@[simp] theorem State.usePower_modnum (s : State) (d : Nat) : (s.usePower d).modnum = s.modnum := rfl
@[simp] theorem State.usePower_links (s : State) (d : Nat) : (s.usePower d).links = s.links := rfl
@[simp] theorem State.usePower_lanesOut (s : State) (d : Nat) : (s.usePower d).lanesOut = s.lanesOut := rfl
@[simp] theorem State.usePower_temps (s : State) (d : Nat) : (s.usePower d).temps = s.temps := rfl
@[simp] theorem State.usePower_cooling (s : State) (d : Nat) : (s.usePower d).cooling = s.cooling := rfl
@[simp] theorem State.usePower_spines (s : State) (d : Nat) : (s.usePower d).spines = s.spines := rfl
@[simp] theorem State.usePower_spsel (s : State) (d : Nat) : (s.usePower d).spsel = s.spsel := rfl
@[simp] theorem State.usePower_parked (s : State) (d : Nat) : (s.usePower d).parked = s.parked := rfl
@[simp] theorem State.usePower_spnow (s : State) (d : Nat) : (s.usePower d).spnow = s.spnow := rfl
@[simp] theorem State.usePower_pwrctl (s : State) (d : Nat) : (s.usePower d).pwrctl = s.pwrctl := rfl
@[simp] theorem State.usePower_leasectl (s : State) (d : Nat) : (s.usePower d).leasectl = s.leasectl := rfl
@[simp] theorem State.usePower_leases (s : State) (d : Nat) : (s.usePower d).leases = s.leases := rfl
@[simp] theorem State.usePower_lastLease (s : State) (d : Nat) : (s.usePower d).lastLease = s.lastLease := rfl
@[simp] theorem State.usePower_scores (s : State) (d : Nat) : (s.usePower d).scores = s.scores := rfl
@[simp] theorem State.usePower_cycles (s : State) (d : Nat) : (s.usePower d).cycles = s.cycles := rfl
@[simp] theorem State.usePower_start (s : State) (d : Nat) : (s.usePower d).start = s.start := rfl
@[simp] theorem State.usePower_hostBias (s : State) (d : Nat) : (s.usePower d).hostBias = s.hostBias := rfl
@[simp] theorem State.usePower_sysBias (s : State) (d : Nat) : (s.usePower d).sysBias = s.sysBias := rfl
@[simp] theorem State.usePower_biascnt (s : State) (d : Nat) : (s.usePower d).biascnt = s.biascnt := rfl
@[simp] theorem State.usePower_dbg (s : State) (d : Nat) : (s.usePower d).dbg = s.dbg := rfl
@[simp] theorem State.usePower_keys (s : State) (d : Nat) : (s.usePower d).keys = s.keys := rfl
@[simp] theorem State.usePower_flash (s : State) (d : Nat) : (s.usePower d).flash = s.flash := rfl
@[simp] theorem State.usePower_receipts (s : State) (d : Nat) : (s.usePower d).receipts = s.receipts := rfl
@[simp] theorem State.usePower_tearing (s : State) (d : Nat) : (s.usePower d).tearing = s.tearing := rfl
@[simp] theorem State.usePower_hdm (s : State) (d : Nat) : (s.usePower d).hdm = s.hdm := rfl
@[simp] theorem State.usePower_tspLock (s : State) (d : Nat) : (s.usePower d).tspLock = s.tspLock := rfl
@[simp] theorem State.usePower_cxl (s : State) (d : Nat) : (s.usePower d).cxl = s.cxl := rfl
@[simp] theorem State.usePower_gondola (s : State) (d : Nat) : (s.usePower d).gondola = s.gondola := rfl
@[simp] theorem State.usePower_taken (s : State) (d : Nat) : (s.usePower d).taken = s.taken := rfl
@[simp] theorem State.usePower_firmware (s : State) (d : Nat) : (s.usePower d).firmware = s.firmware := rfl
@[simp] theorem State.usePower_staged (s : State) (d : Nat) : (s.usePower d).staged = s.staged := rfl
@[simp] theorem State.usePower_coolantBad (s : State) (d : Nat) : (s.usePower d).coolantBad = s.coolantBad := rfl
@[simp] theorem State.usePower_touched (s : State) (d : Nat) : (s.usePower d).touched = s.touched := rfl
@[simp] theorem State.usePower_failing (s : State) (d : Nat) : (s.usePower d).failing = s.failing := rfl
@[simp] theorem State.usePower_hostReply (s : State) (d : Nat) : (s.usePower d).hostReply = s.hostReply := rfl
@[simp] theorem State.usePower_peerReply (s : State) (d : Nat) : (s.usePower d).peerReply = s.peerReply := rfl
@[simp] theorem State.usePower_spdm (s : State) (d : Nat) : (s.usePower d).spdm = s.spdm := rfl
@[simp] theorem State.usePower_swept (s : State) (d : Nat) : (s.usePower d).swept = s.swept := rfl
@[simp] theorem State.usePower_waited (s : State) (d : Nat) : (s.usePower d).waited = s.waited := rfl
@[simp] theorem State.usePower_victims (s : State) (d : Nat) : (s.usePower d).victims = s.victims := rfl
@[simp] theorem State.usePower_heirs (s : State) (d : Nat) : (s.usePower d).heirs = s.heirs := rfl
@[simp] theorem State.usePower_urgentRun (s : State) (d : Nat) : (s.usePower d).urgentRun = s.urgentRun := rfl
@[simp] theorem State.usePower_counted (s : State) (d : Nat) : (s.usePower d).counted = s.counted := rfl
@[simp] theorem State.usePower_retiring (s : State) (d : Nat) : (s.usePower d).retiring = s.retiring := rfl
@[simp] theorem State.usePower_poweredOff (s : State) (d : Nat) : (s.usePower d).poweredOff = s.poweredOff := rfl
@[simp] theorem State.usePower_suspects (s : State) (d : Nat) : (s.usePower d).suspects = s.suspects := rfl
@[simp] theorem State.usePower_drawn (s : State) (d : Nat) : (s.usePower d).drawn = s.drawn := rfl
@[simp] theorem State.usePower_drawnAt (s : State) (d : Nat) : (s.usePower d).drawnAt = s.drawnAt := rfl
@[simp] theorem State.usePower_leaseHistory (s : State) (d : Nat) : (s.usePower d).leaseHistory = s.leaseHistory := rfl
@[simp] theorem State.took_agenda (s : State) (f : Fire) : (s.took f).agenda = s.agenda := rfl
@[simp] theorem State.took_tick (s : State) (f : Fire) : (s.took f).tick = s.tick := rfl
@[simp] theorem State.took_focus (s : State) (f : Fire) : (s.took f).focus = s.focus := rfl
@[simp] theorem State.took_upset (s : State) (f : Fire) : (s.took f).upset = s.upset := rfl
@[simp] theorem State.took_mem (s : State) (f : Fire) : (s.took f).mem = s.mem := rfl
@[simp] theorem State.took_ctxs (s : State) (f : Fire) : (s.took f).ctxs = s.ctxs := rfl
@[simp] theorem State.took_launchq (s : State) (f : Fire) : (s.took f).launchq = s.launchq := rfl
@[simp] theorem State.took_owners (s : State) (f : Fire) : (s.took f).owners = s.owners := rfl
@[simp] theorem State.took_evseq (s : State) (f : Fire) : (s.took f).evseq = s.evseq := rfl
@[simp] theorem State.took_modnum (s : State) (f : Fire) : (s.took f).modnum = s.modnum := rfl
@[simp] theorem State.took_links (s : State) (f : Fire) : (s.took f).links = s.links := rfl
@[simp] theorem State.took_lanesOut (s : State) (f : Fire) : (s.took f).lanesOut = s.lanesOut := rfl
@[simp] theorem State.took_temps (s : State) (f : Fire) : (s.took f).temps = s.temps := rfl
@[simp] theorem State.took_cooling (s : State) (f : Fire) : (s.took f).cooling = s.cooling := rfl
@[simp] theorem State.took_spines (s : State) (f : Fire) : (s.took f).spines = s.spines := rfl
@[simp] theorem State.took_spsel (s : State) (f : Fire) : (s.took f).spsel = s.spsel := rfl
@[simp] theorem State.took_parked (s : State) (f : Fire) : (s.took f).parked = s.parked := rfl
@[simp] theorem State.took_spnow (s : State) (f : Fire) : (s.took f).spnow = s.spnow := rfl
@[simp] theorem State.took_pwrctl (s : State) (f : Fire) : (s.took f).pwrctl = s.pwrctl := rfl
@[simp] theorem State.took_leasectl (s : State) (f : Fire) : (s.took f).leasectl = s.leasectl := rfl
@[simp] theorem State.took_leases (s : State) (f : Fire) : (s.took f).leases = s.leases := rfl
@[simp] theorem State.took_lastLease (s : State) (f : Fire) : (s.took f).lastLease = s.lastLease := rfl
@[simp] theorem State.took_scores (s : State) (f : Fire) : (s.took f).scores = s.scores := rfl
@[simp] theorem State.took_cycles (s : State) (f : Fire) : (s.took f).cycles = s.cycles := rfl
@[simp] theorem State.took_start (s : State) (f : Fire) : (s.took f).start = s.start := rfl
@[simp] theorem State.took_hostBias (s : State) (f : Fire) : (s.took f).hostBias = s.hostBias := rfl
@[simp] theorem State.took_sysBias (s : State) (f : Fire) : (s.took f).sysBias = s.sysBias := rfl
@[simp] theorem State.took_biascnt (s : State) (f : Fire) : (s.took f).biascnt = s.biascnt := rfl
@[simp] theorem State.took_keys (s : State) (f : Fire) : (s.took f).keys = s.keys := rfl
@[simp] theorem State.took_flash (s : State) (f : Fire) : (s.took f).flash = s.flash := rfl
@[simp] theorem State.took_receipts (s : State) (f : Fire) : (s.took f).receipts = s.receipts := rfl
@[simp] theorem State.took_tearing (s : State) (f : Fire) : (s.took f).tearing = s.tearing := rfl
@[simp] theorem State.took_hdm (s : State) (f : Fire) : (s.took f).hdm = s.hdm := rfl
@[simp] theorem State.took_tspLock (s : State) (f : Fire) : (s.took f).tspLock = s.tspLock := rfl
@[simp] theorem State.took_cxl (s : State) (f : Fire) : (s.took f).cxl = s.cxl := rfl
@[simp] theorem State.took_gondola (s : State) (f : Fire) : (s.took f).gondola = s.gondola := rfl
@[simp] theorem State.took_taken (s : State) (f : Fire) : (s.took f).taken = s.taken := rfl
@[simp] theorem State.took_firmware (s : State) (f : Fire) : (s.took f).firmware = s.firmware := rfl
@[simp] theorem State.took_staged (s : State) (f : Fire) : (s.took f).staged = s.staged := rfl
@[simp] theorem State.took_coolantBad (s : State) (f : Fire) : (s.took f).coolantBad = s.coolantBad := rfl
@[simp] theorem State.took_touched (s : State) (f : Fire) : (s.took f).touched = s.touched := rfl
@[simp] theorem State.took_failing (s : State) (f : Fire) : (s.took f).failing = s.failing := rfl
@[simp] theorem State.took_hostReply (s : State) (f : Fire) : (s.took f).hostReply = s.hostReply := rfl
@[simp] theorem State.took_peerReply (s : State) (f : Fire) : (s.took f).peerReply = s.peerReply := rfl
@[simp] theorem State.took_spdm (s : State) (f : Fire) : (s.took f).spdm = s.spdm := rfl
@[simp] theorem State.took_swept (s : State) (f : Fire) : (s.took f).swept = s.swept := rfl
@[simp] theorem State.took_waited (s : State) (f : Fire) : (s.took f).waited = s.waited := rfl
@[simp] theorem State.took_victims (s : State) (f : Fire) : (s.took f).victims = s.victims := rfl
@[simp] theorem State.took_heirs (s : State) (f : Fire) : (s.took f).heirs = s.heirs := rfl
@[simp] theorem State.took_retiring (s : State) (f : Fire) : (s.took f).retiring = s.retiring := rfl
@[simp] theorem State.took_poweredOff (s : State) (f : Fire) : (s.took f).poweredOff = s.poweredOff := rfl
@[simp] theorem State.took_suspects (s : State) (f : Fire) : (s.took f).suspects = s.suspects := rfl
@[simp] theorem State.took_drawn (s : State) (f : Fire) : (s.took f).drawn = s.drawn := rfl
@[simp] theorem State.took_drawnAt (s : State) (f : Fire) : (s.took f).drawnAt = s.drawnAt := rfl
@[simp] theorem State.took_leaseHistory (s : State) (f : Fire) : (s.took f).leaseHistory = s.leaseHistory := rfl
@[simp] theorem State.stoodBack_agenda (s : State) (f : Fire) : (s.stoodBack f).agenda = s.agenda := rfl
@[simp] theorem State.stoodBack_tick (s : State) (f : Fire) : (s.stoodBack f).tick = s.tick := rfl
@[simp] theorem State.stoodBack_focus (s : State) (f : Fire) : (s.stoodBack f).focus = s.focus := rfl
@[simp] theorem State.stoodBack_upset (s : State) (f : Fire) : (s.stoodBack f).upset = s.upset := rfl
@[simp] theorem State.stoodBack_mem (s : State) (f : Fire) : (s.stoodBack f).mem = s.mem := rfl
@[simp] theorem State.stoodBack_ctxs (s : State) (f : Fire) : (s.stoodBack f).ctxs = s.ctxs := rfl
@[simp] theorem State.stoodBack_launchq (s : State) (f : Fire) : (s.stoodBack f).launchq = s.launchq := rfl
@[simp] theorem State.stoodBack_owners (s : State) (f : Fire) : (s.stoodBack f).owners = s.owners := rfl
@[simp] theorem State.stoodBack_evseq (s : State) (f : Fire) : (s.stoodBack f).evseq = s.evseq := rfl
@[simp] theorem State.stoodBack_modnum (s : State) (f : Fire) : (s.stoodBack f).modnum = s.modnum := rfl
@[simp] theorem State.stoodBack_links (s : State) (f : Fire) : (s.stoodBack f).links = s.links := rfl
@[simp] theorem State.stoodBack_lanesOut (s : State) (f : Fire) : (s.stoodBack f).lanesOut = s.lanesOut := rfl
@[simp] theorem State.stoodBack_temps (s : State) (f : Fire) : (s.stoodBack f).temps = s.temps := rfl
@[simp] theorem State.stoodBack_cooling (s : State) (f : Fire) : (s.stoodBack f).cooling = s.cooling := rfl
@[simp] theorem State.stoodBack_spines (s : State) (f : Fire) : (s.stoodBack f).spines = s.spines := rfl
@[simp] theorem State.stoodBack_spsel (s : State) (f : Fire) : (s.stoodBack f).spsel = s.spsel := rfl
@[simp] theorem State.stoodBack_parked (s : State) (f : Fire) : (s.stoodBack f).parked = s.parked := rfl
@[simp] theorem State.stoodBack_spnow (s : State) (f : Fire) : (s.stoodBack f).spnow = s.spnow := rfl
@[simp] theorem State.stoodBack_pwrctl (s : State) (f : Fire) : (s.stoodBack f).pwrctl = s.pwrctl := rfl
@[simp] theorem State.stoodBack_leasectl (s : State) (f : Fire) : (s.stoodBack f).leasectl = s.leasectl := rfl
@[simp] theorem State.stoodBack_leases (s : State) (f : Fire) : (s.stoodBack f).leases = s.leases := rfl
@[simp] theorem State.stoodBack_lastLease (s : State) (f : Fire) : (s.stoodBack f).lastLease = s.lastLease := rfl
@[simp] theorem State.stoodBack_scores (s : State) (f : Fire) : (s.stoodBack f).scores = s.scores := rfl
@[simp] theorem State.stoodBack_pwrdom (s : State) (f : Fire) : (s.stoodBack f).pwrdom = s.pwrdom := rfl
@[simp] theorem State.stoodBack_cycles (s : State) (f : Fire) : (s.stoodBack f).cycles = s.cycles := rfl
@[simp] theorem State.stoodBack_start (s : State) (f : Fire) : (s.stoodBack f).start = s.start := rfl
@[simp] theorem State.stoodBack_hostBias (s : State) (f : Fire) : (s.stoodBack f).hostBias = s.hostBias := rfl
@[simp] theorem State.stoodBack_sysBias (s : State) (f : Fire) : (s.stoodBack f).sysBias = s.sysBias := rfl
@[simp] theorem State.stoodBack_biascnt (s : State) (f : Fire) : (s.stoodBack f).biascnt = s.biascnt := rfl
@[simp] theorem State.stoodBack_dbg (s : State) (f : Fire) : (s.stoodBack f).dbg = s.dbg := rfl
@[simp] theorem State.stoodBack_keys (s : State) (f : Fire) : (s.stoodBack f).keys = s.keys := rfl
@[simp] theorem State.stoodBack_flash (s : State) (f : Fire) : (s.stoodBack f).flash = s.flash := rfl
@[simp] theorem State.stoodBack_receipts (s : State) (f : Fire) : (s.stoodBack f).receipts = s.receipts := rfl
@[simp] theorem State.stoodBack_tearing (s : State) (f : Fire) : (s.stoodBack f).tearing = s.tearing := rfl
@[simp] theorem State.stoodBack_hdm (s : State) (f : Fire) : (s.stoodBack f).hdm = s.hdm := rfl
@[simp] theorem State.stoodBack_tspLock (s : State) (f : Fire) : (s.stoodBack f).tspLock = s.tspLock := rfl
@[simp] theorem State.stoodBack_cxl (s : State) (f : Fire) : (s.stoodBack f).cxl = s.cxl := rfl
@[simp] theorem State.stoodBack_gondola (s : State) (f : Fire) : (s.stoodBack f).gondola = s.gondola := rfl
@[simp] theorem State.stoodBack_taken (s : State) (f : Fire) : (s.stoodBack f).taken = s.taken := rfl
@[simp] theorem State.stoodBack_firmware (s : State) (f : Fire) : (s.stoodBack f).firmware = s.firmware := rfl
@[simp] theorem State.stoodBack_staged (s : State) (f : Fire) : (s.stoodBack f).staged = s.staged := rfl
@[simp] theorem State.stoodBack_coolantBad (s : State) (f : Fire) : (s.stoodBack f).coolantBad = s.coolantBad := rfl
@[simp] theorem State.stoodBack_touched (s : State) (f : Fire) : (s.stoodBack f).touched = s.touched := rfl
@[simp] theorem State.stoodBack_failing (s : State) (f : Fire) : (s.stoodBack f).failing = s.failing := rfl
@[simp] theorem State.stoodBack_hostReply (s : State) (f : Fire) : (s.stoodBack f).hostReply = s.hostReply := rfl
@[simp] theorem State.stoodBack_peerReply (s : State) (f : Fire) : (s.stoodBack f).peerReply = s.peerReply := rfl
@[simp] theorem State.stoodBack_spdm (s : State) (f : Fire) : (s.stoodBack f).spdm = s.spdm := rfl
@[simp] theorem State.stoodBack_swept (s : State) (f : Fire) : (s.stoodBack f).swept = s.swept := rfl
@[simp] theorem State.stoodBack_waited (s : State) (f : Fire) : (s.stoodBack f).waited = s.waited := rfl
@[simp] theorem State.stoodBack_victims (s : State) (f : Fire) : (s.stoodBack f).victims = s.victims := rfl
@[simp] theorem State.stoodBack_heirs (s : State) (f : Fire) : (s.stoodBack f).heirs = s.heirs := rfl
@[simp] theorem State.stoodBack_urgentRun (s : State) (f : Fire) : (s.stoodBack f).urgentRun = s.urgentRun := rfl
@[simp] theorem State.stoodBack_retiring (s : State) (f : Fire) : (s.stoodBack f).retiring = s.retiring := rfl
@[simp] theorem State.stoodBack_poweredOff (s : State) (f : Fire) : (s.stoodBack f).poweredOff = s.poweredOff := rfl
@[simp] theorem State.stoodBack_suspects (s : State) (f : Fire) : (s.stoodBack f).suspects = s.suspects := rfl
@[simp] theorem State.stoodBack_drawn (s : State) (f : Fire) : (s.stoodBack f).drawn = s.drawn := rfl
@[simp] theorem State.stoodBack_drawnAt (s : State) (f : Fire) : (s.stoodBack f).drawnAt = s.drawnAt := rfl
@[simp] theorem State.stoodBack_leaseHistory (s : State) (f : Fire) : (s.stoodBack f).leaseHistory = s.leaseHistory := rfl
@[simp] theorem State.setScore_agenda (s : State) (u : RetUnit) (r : Score) : (s.setScore u r).agenda = s.agenda := rfl
@[simp] theorem State.setScore_tick (s : State) (u : RetUnit) (r : Score) : (s.setScore u r).tick = s.tick := rfl
@[simp] theorem State.setScore_focus (s : State) (u : RetUnit) (r : Score) : (s.setScore u r).focus = s.focus := rfl
@[simp] theorem State.setScore_upset (s : State) (u : RetUnit) (r : Score) : (s.setScore u r).upset = s.upset := rfl
@[simp] theorem State.setScore_mem (s : State) (u : RetUnit) (r : Score) : (s.setScore u r).mem = s.mem := rfl
@[simp] theorem State.setScore_ctxs (s : State) (u : RetUnit) (r : Score) : (s.setScore u r).ctxs = s.ctxs := rfl
@[simp] theorem State.setScore_launchq (s : State) (u : RetUnit) (r : Score) : (s.setScore u r).launchq = s.launchq := rfl
@[simp] theorem State.setScore_owners (s : State) (u : RetUnit) (r : Score) : (s.setScore u r).owners = s.owners := rfl
@[simp] theorem State.setScore_evseq (s : State) (u : RetUnit) (r : Score) : (s.setScore u r).evseq = s.evseq := rfl
@[simp] theorem State.setScore_modnum (s : State) (u : RetUnit) (r : Score) : (s.setScore u r).modnum = s.modnum := rfl
@[simp] theorem State.setScore_links (s : State) (u : RetUnit) (r : Score) : (s.setScore u r).links = s.links := rfl
@[simp] theorem State.setScore_lanesOut (s : State) (u : RetUnit) (r : Score) : (s.setScore u r).lanesOut = s.lanesOut := rfl
@[simp] theorem State.setScore_temps (s : State) (u : RetUnit) (r : Score) : (s.setScore u r).temps = s.temps := rfl
@[simp] theorem State.setScore_cooling (s : State) (u : RetUnit) (r : Score) : (s.setScore u r).cooling = s.cooling := rfl
@[simp] theorem State.setScore_spines (s : State) (u : RetUnit) (r : Score) : (s.setScore u r).spines = s.spines := rfl
@[simp] theorem State.setScore_spsel (s : State) (u : RetUnit) (r : Score) : (s.setScore u r).spsel = s.spsel := rfl
@[simp] theorem State.setScore_parked (s : State) (u : RetUnit) (r : Score) : (s.setScore u r).parked = s.parked := rfl
@[simp] theorem State.setScore_spnow (s : State) (u : RetUnit) (r : Score) : (s.setScore u r).spnow = s.spnow := rfl
@[simp] theorem State.setScore_pwrctl (s : State) (u : RetUnit) (r : Score) : (s.setScore u r).pwrctl = s.pwrctl := rfl
@[simp] theorem State.setScore_leasectl (s : State) (u : RetUnit) (r : Score) : (s.setScore u r).leasectl = s.leasectl := rfl
@[simp] theorem State.setScore_leases (s : State) (u : RetUnit) (r : Score) : (s.setScore u r).leases = s.leases := rfl
@[simp] theorem State.setScore_lastLease (s : State) (u : RetUnit) (r : Score) : (s.setScore u r).lastLease = s.lastLease := rfl
@[simp] theorem State.setScore_pwrdom (s : State) (u : RetUnit) (r : Score) : (s.setScore u r).pwrdom = s.pwrdom := rfl
@[simp] theorem State.setScore_cycles (s : State) (u : RetUnit) (r : Score) : (s.setScore u r).cycles = s.cycles := rfl
@[simp] theorem State.setScore_start (s : State) (u : RetUnit) (r : Score) : (s.setScore u r).start = s.start := rfl
@[simp] theorem State.setScore_hostBias (s : State) (u : RetUnit) (r : Score) : (s.setScore u r).hostBias = s.hostBias := rfl
@[simp] theorem State.setScore_sysBias (s : State) (u : RetUnit) (r : Score) : (s.setScore u r).sysBias = s.sysBias := rfl
@[simp] theorem State.setScore_biascnt (s : State) (u : RetUnit) (r : Score) : (s.setScore u r).biascnt = s.biascnt := rfl
@[simp] theorem State.setScore_dbg (s : State) (u : RetUnit) (r : Score) : (s.setScore u r).dbg = s.dbg := rfl
@[simp] theorem State.setScore_keys (s : State) (u : RetUnit) (r : Score) : (s.setScore u r).keys = s.keys := rfl
@[simp] theorem State.setScore_flash (s : State) (u : RetUnit) (r : Score) : (s.setScore u r).flash = s.flash := rfl
@[simp] theorem State.setScore_receipts (s : State) (u : RetUnit) (r : Score) : (s.setScore u r).receipts = s.receipts := rfl
@[simp] theorem State.setScore_tearing (s : State) (u : RetUnit) (r : Score) : (s.setScore u r).tearing = s.tearing := rfl
@[simp] theorem State.setScore_hdm (s : State) (u : RetUnit) (r : Score) : (s.setScore u r).hdm = s.hdm := rfl
@[simp] theorem State.setScore_tspLock (s : State) (u : RetUnit) (r : Score) : (s.setScore u r).tspLock = s.tspLock := rfl
@[simp] theorem State.setScore_cxl (s : State) (u : RetUnit) (r : Score) : (s.setScore u r).cxl = s.cxl := rfl
@[simp] theorem State.setScore_gondola (s : State) (u : RetUnit) (r : Score) : (s.setScore u r).gondola = s.gondola := rfl
@[simp] theorem State.setScore_taken (s : State) (u : RetUnit) (r : Score) : (s.setScore u r).taken = s.taken := rfl
@[simp] theorem State.setScore_firmware (s : State) (u : RetUnit) (r : Score) : (s.setScore u r).firmware = s.firmware := rfl
@[simp] theorem State.setScore_staged (s : State) (u : RetUnit) (r : Score) : (s.setScore u r).staged = s.staged := rfl
@[simp] theorem State.setScore_coolantBad (s : State) (u : RetUnit) (r : Score) : (s.setScore u r).coolantBad = s.coolantBad := rfl
@[simp] theorem State.setScore_touched (s : State) (u : RetUnit) (r : Score) : (s.setScore u r).touched = s.touched := rfl
@[simp] theorem State.setScore_failing (s : State) (u : RetUnit) (r : Score) : (s.setScore u r).failing = s.failing := rfl
@[simp] theorem State.setScore_hostReply (s : State) (u : RetUnit) (r : Score) : (s.setScore u r).hostReply = s.hostReply := rfl
@[simp] theorem State.setScore_peerReply (s : State) (u : RetUnit) (r : Score) : (s.setScore u r).peerReply = s.peerReply := rfl
@[simp] theorem State.setScore_spdm (s : State) (u : RetUnit) (r : Score) : (s.setScore u r).spdm = s.spdm := rfl
@[simp] theorem State.setScore_swept (s : State) (u : RetUnit) (r : Score) : (s.setScore u r).swept = s.swept := rfl
@[simp] theorem State.setScore_waited (s : State) (u : RetUnit) (r : Score) : (s.setScore u r).waited = s.waited := rfl
@[simp] theorem State.setScore_victims (s : State) (u : RetUnit) (r : Score) : (s.setScore u r).victims = s.victims := rfl
@[simp] theorem State.setScore_heirs (s : State) (u : RetUnit) (r : Score) : (s.setScore u r).heirs = s.heirs := rfl
@[simp] theorem State.setScore_urgentRun (s : State) (u : RetUnit) (r : Score) : (s.setScore u r).urgentRun = s.urgentRun := rfl
@[simp] theorem State.setScore_counted (s : State) (u : RetUnit) (r : Score) : (s.setScore u r).counted = s.counted := rfl
@[simp] theorem State.setScore_retiring (s : State) (u : RetUnit) (r : Score) : (s.setScore u r).retiring = s.retiring := rfl
@[simp] theorem State.setScore_poweredOff (s : State) (u : RetUnit) (r : Score) : (s.setScore u r).poweredOff = s.poweredOff := rfl
@[simp] theorem State.setScore_suspects (s : State) (u : RetUnit) (r : Score) : (s.setScore u r).suspects = s.suspects := rfl
@[simp] theorem State.setScore_drawn (s : State) (u : RetUnit) (r : Score) : (s.setScore u r).drawn = s.drawn := rfl
@[simp] theorem State.setScore_drawnAt (s : State) (u : RetUnit) (r : Score) : (s.setScore u r).drawnAt = s.drawnAt := rfl
@[simp] theorem State.setScore_leaseHistory (s : State) (u : RetUnit) (r : Score) : (s.setScore u r).leaseHistory = s.leaseHistory := rfl
@[simp] theorem State.flashScore_agenda (s : State) (u : RetUnit) : (s.flashScore u).agenda = s.agenda := rfl
@[simp] theorem State.flashScore_tick (s : State) (u : RetUnit) : (s.flashScore u).tick = s.tick := rfl
@[simp] theorem State.flashScore_focus (s : State) (u : RetUnit) : (s.flashScore u).focus = s.focus := rfl
@[simp] theorem State.flashScore_upset (s : State) (u : RetUnit) : (s.flashScore u).upset = s.upset := rfl
@[simp] theorem State.flashScore_mem (s : State) (u : RetUnit) : (s.flashScore u).mem = s.mem := rfl
@[simp] theorem State.flashScore_ctxs (s : State) (u : RetUnit) : (s.flashScore u).ctxs = s.ctxs := rfl
@[simp] theorem State.flashScore_launchq (s : State) (u : RetUnit) : (s.flashScore u).launchq = s.launchq := rfl
@[simp] theorem State.flashScore_owners (s : State) (u : RetUnit) : (s.flashScore u).owners = s.owners := rfl
@[simp] theorem State.flashScore_evseq (s : State) (u : RetUnit) : (s.flashScore u).evseq = s.evseq := rfl
@[simp] theorem State.flashScore_modnum (s : State) (u : RetUnit) : (s.flashScore u).modnum = s.modnum := rfl
@[simp] theorem State.flashScore_links (s : State) (u : RetUnit) : (s.flashScore u).links = s.links := rfl
@[simp] theorem State.flashScore_lanesOut (s : State) (u : RetUnit) : (s.flashScore u).lanesOut = s.lanesOut := rfl
@[simp] theorem State.flashScore_temps (s : State) (u : RetUnit) : (s.flashScore u).temps = s.temps := rfl
@[simp] theorem State.flashScore_cooling (s : State) (u : RetUnit) : (s.flashScore u).cooling = s.cooling := rfl
@[simp] theorem State.flashScore_spines (s : State) (u : RetUnit) : (s.flashScore u).spines = s.spines := rfl
@[simp] theorem State.flashScore_spsel (s : State) (u : RetUnit) : (s.flashScore u).spsel = s.spsel := rfl
@[simp] theorem State.flashScore_parked (s : State) (u : RetUnit) : (s.flashScore u).parked = s.parked := rfl
@[simp] theorem State.flashScore_spnow (s : State) (u : RetUnit) : (s.flashScore u).spnow = s.spnow := rfl
@[simp] theorem State.flashScore_pwrctl (s : State) (u : RetUnit) : (s.flashScore u).pwrctl = s.pwrctl := rfl
@[simp] theorem State.flashScore_leasectl (s : State) (u : RetUnit) : (s.flashScore u).leasectl = s.leasectl := rfl
@[simp] theorem State.flashScore_leases (s : State) (u : RetUnit) : (s.flashScore u).leases = s.leases := rfl
@[simp] theorem State.flashScore_lastLease (s : State) (u : RetUnit) : (s.flashScore u).lastLease = s.lastLease := rfl
@[simp] theorem State.flashScore_scores (s : State) (u : RetUnit) : (s.flashScore u).scores = s.scores := rfl
@[simp] theorem State.flashScore_pwrdom (s : State) (u : RetUnit) : (s.flashScore u).pwrdom = s.pwrdom := rfl
@[simp] theorem State.flashScore_cycles (s : State) (u : RetUnit) : (s.flashScore u).cycles = s.cycles := rfl
@[simp] theorem State.flashScore_start (s : State) (u : RetUnit) : (s.flashScore u).start = s.start := rfl
@[simp] theorem State.flashScore_hostBias (s : State) (u : RetUnit) : (s.flashScore u).hostBias = s.hostBias := rfl
@[simp] theorem State.flashScore_sysBias (s : State) (u : RetUnit) : (s.flashScore u).sysBias = s.sysBias := rfl
@[simp] theorem State.flashScore_biascnt (s : State) (u : RetUnit) : (s.flashScore u).biascnt = s.biascnt := rfl
@[simp] theorem State.flashScore_dbg (s : State) (u : RetUnit) : (s.flashScore u).dbg = s.dbg := rfl
@[simp] theorem State.flashScore_keys (s : State) (u : RetUnit) : (s.flashScore u).keys = s.keys := rfl
@[simp] theorem State.flashScore_receipts (s : State) (u : RetUnit) : (s.flashScore u).receipts = s.receipts := rfl
@[simp] theorem State.flashScore_tearing (s : State) (u : RetUnit) : (s.flashScore u).tearing = s.tearing := rfl
@[simp] theorem State.flashScore_hdm (s : State) (u : RetUnit) : (s.flashScore u).hdm = s.hdm := rfl
@[simp] theorem State.flashScore_tspLock (s : State) (u : RetUnit) : (s.flashScore u).tspLock = s.tspLock := rfl
@[simp] theorem State.flashScore_cxl (s : State) (u : RetUnit) : (s.flashScore u).cxl = s.cxl := rfl
@[simp] theorem State.flashScore_gondola (s : State) (u : RetUnit) : (s.flashScore u).gondola = s.gondola := rfl
@[simp] theorem State.flashScore_taken (s : State) (u : RetUnit) : (s.flashScore u).taken = s.taken := rfl
@[simp] theorem State.flashScore_firmware (s : State) (u : RetUnit) : (s.flashScore u).firmware = s.firmware := rfl
@[simp] theorem State.flashScore_staged (s : State) (u : RetUnit) : (s.flashScore u).staged = s.staged := rfl
@[simp] theorem State.flashScore_coolantBad (s : State) (u : RetUnit) : (s.flashScore u).coolantBad = s.coolantBad := rfl
@[simp] theorem State.flashScore_touched (s : State) (u : RetUnit) : (s.flashScore u).touched = s.touched := rfl
@[simp] theorem State.flashScore_failing (s : State) (u : RetUnit) : (s.flashScore u).failing = s.failing := rfl
@[simp] theorem State.flashScore_hostReply (s : State) (u : RetUnit) : (s.flashScore u).hostReply = s.hostReply := rfl
@[simp] theorem State.flashScore_peerReply (s : State) (u : RetUnit) : (s.flashScore u).peerReply = s.peerReply := rfl
@[simp] theorem State.flashScore_spdm (s : State) (u : RetUnit) : (s.flashScore u).spdm = s.spdm := rfl
@[simp] theorem State.flashScore_swept (s : State) (u : RetUnit) : (s.flashScore u).swept = s.swept := rfl
@[simp] theorem State.flashScore_waited (s : State) (u : RetUnit) : (s.flashScore u).waited = s.waited := rfl
@[simp] theorem State.flashScore_victims (s : State) (u : RetUnit) : (s.flashScore u).victims = s.victims := rfl
@[simp] theorem State.flashScore_heirs (s : State) (u : RetUnit) : (s.flashScore u).heirs = s.heirs := rfl
@[simp] theorem State.flashScore_urgentRun (s : State) (u : RetUnit) : (s.flashScore u).urgentRun = s.urgentRun := rfl
@[simp] theorem State.flashScore_counted (s : State) (u : RetUnit) : (s.flashScore u).counted = s.counted := rfl
@[simp] theorem State.flashScore_retiring (s : State) (u : RetUnit) : (s.flashScore u).retiring = s.retiring := rfl
@[simp] theorem State.flashScore_poweredOff (s : State) (u : RetUnit) : (s.flashScore u).poweredOff = s.poweredOff := rfl
@[simp] theorem State.flashScore_suspects (s : State) (u : RetUnit) : (s.flashScore u).suspects = s.suspects := rfl
@[simp] theorem State.flashScore_drawn (s : State) (u : RetUnit) : (s.flashScore u).drawn = s.drawn := rfl
@[simp] theorem State.flashScore_drawnAt (s : State) (u : RetUnit) : (s.flashScore u).drawnAt = s.drawnAt := rfl
@[simp] theorem State.flashScore_leaseHistory (s : State) (u : RetUnit) : (s.flashScore u).leaseHistory = s.leaseHistory := rfl

/-! ### A context -/

@[simp] theorem Ctx.setTh_num (k : Ctx) (x : Thread) : (k.setTh x).num = k.num := rfl
@[simp] theorem Ctx.setTh_flt (k : Ctx) (x : Thread) : (k.setTh x).flt = k.flt := rfl
@[simp] theorem Ctx.setTh_stalled (k : Ctx) (x : Thread) : (k.setTh x).stalled = k.stalled := rfl
@[simp] theorem Ctx.setTh_capchg (k : Ctx) (x : Thread) : (k.setTh x).capchg = k.capchg := rfl
@[simp] theorem Ctx.setTh_forced (k : Ctx) (x : Thread) : (k.setTh x).forced = k.forced := rfl
@[simp] theorem Ctx.setTh_preempt (k : Ctx) (x : Thread) : (k.setTh x).preempt = k.preempt := rfl
@[simp] theorem Ctx.setTh_state (k : Ctx) (x : Thread) : (k.setTh x).state = k.state := rfl
@[simp] theorem Ctx.setTh_priomax (k : Ctx) (x : Thread) : (k.setTh x).priomax = k.priomax := rfl
@[simp] theorem Ctx.setTh_fpflags (k : Ctx) (x : Thread) : (k.setTh x).fpflags = k.fpflags := rfl
@[simp] theorem Ctx.setTh_fpend (k : Ctx) (x : Thread) : (k.setTh x).fpend = k.fpend := rfl
@[simp] theorem Ctx.setTh_sel (k : Ctx) (x : Thread) : (k.setTh x).sel = k.sel := rfl
@[simp] theorem Ctx.setTh_gen (k : Ctx) (x : Thread) : (k.setTh x).gen = k.gen := rfl
@[simp] theorem Ctx.setTh_fqb (k : Ctx) (x : Thread) : (k.setTh x).fqb = k.fqb := rfl
@[simp] theorem Ctx.setTh_capqb (k : Ctx) (x : Thread) : (k.setTh x).capqb = k.capqb := rfl
@[simp] theorem Ctx.setTh_avail (k : Ctx) (x : Thread) : (k.setTh x).avail = k.avail := rfl
@[simp] theorem Ctx.setTh_lcount (k : Ctx) (x : Thread) : (k.setTh x).lcount = k.lcount := rfl
@[simp] theorem Ctx.setTh_spine (k : Ctx) (x : Thread) : (k.setTh x).spine = k.spine := rfl
@[simp] theorem Ctx.setTh_ovf (k : Ctx) (x : Thread) : (k.setTh x).ovf = k.ovf := rfl
@[simp] theorem Ctx.setTh_desc (k : Ctx) (x : Thread) : (k.setTh x).desc = k.desc := rfl
@[simp] theorem Ctx.setTh_dreg (k : Ctx) (x : Thread) : (k.setTh x).dreg = k.dreg := rfl
@[simp] theorem Ctx.setTh_pmap (k : Ctx) (x : Thread) : (k.setTh x).pmap = k.pmap := rfl
@[simp] theorem Ctx.setTh_pins (k : Ctx) (x : Thread) : (k.setTh x).pins = k.pins := rfl
@[simp] theorem Ctx.setTh_savedPins (k : Ctx) (x : Thread) : (k.setTh x).savedPins = k.savedPins := rfl
@[simp] theorem Ctx.setTh_binds (k : Ctx) (x : Thread) : (k.setTh x).binds = k.binds := rfl
@[simp] theorem Ctx.setTh_ksel (k : Ctx) (x : Thread) : (k.setTh x).ksel = k.ksel := rfl
@[simp] theorem Ctx.setTh_logs (k : Ctx) (x : Thread) : (k.setTh x).logs = k.logs := rfl
@[simp] theorem Ctx.setTh_energy (k : Ctx) (x : Thread) : (k.setTh x).energy = k.energy := rfl
@[simp] theorem Ctx.setTh_unfolded (k : Ctx) (x : Thread) : (k.setTh x).unfolded = k.unfolded := rfl
@[simp] theorem Ctx.setTh_pq (k : Ctx) (x : Thread) : (k.setTh x).pq = k.pq := rfl
@[simp] theorem Ctx.setTh_cmdprod (k : Ctx) (x : Thread) : (k.setTh x).cmdprod = k.cmdprod := rfl
@[simp] theorem Ctx.setTh_cmdcons (k : Ctx) (x : Thread) : (k.setTh x).cmdcons = k.cmdcons := rfl
@[simp] theorem Ctx.setTh_evprod (k : Ctx) (x : Thread) : (k.setTh x).evprod = k.evprod := rfl
@[simp] theorem Ctx.setTh_evcons (k : Ctx) (x : Thread) : (k.setTh x).evcons = k.evcons := rfl
@[simp] theorem Ctx.setTh_doorbell (k : Ctx) (x : Thread) : (k.setTh x).doorbell = k.doorbell := rfl
@[simp] theorem Ctx.setTh_events (k : Ctx) (x : Thread) : (k.setTh x).events = k.events := rfl
@[simp] theorem Ctx.setTh_heldRecs (k : Ctx) (x : Thread) : (k.setTh x).heldRecs = k.heldRecs := rfl
@[simp] theorem Ctx.setTh_nextLaunch (k : Ctx) (x : Thread) : (k.setTh x).nextLaunch = k.nextLaunch := rfl
@[simp] theorem Ctx.setTh_born (k : Ctx) (x : Thread) : (k.setTh x).born = k.born := rfl
@[simp] theorem Ctx.setTh_launches (k : Ctx) (x : Thread) : (k.setTh x).launches = k.launches := rfl
@[simp] theorem Ctx.setTh_placed (k : Ctx) (x : Thread) : (k.setTh x).placed = k.placed := rfl
@[simp] theorem Ctx.setTh_tokens (k : Ctx) (x : Thread) : (k.setTh x).tokens = k.tokens := rfl
@[simp] theorem Ctx.setTh_kept (k : Ctx) (x : Thread) : (k.setTh x).kept = k.kept := rfl
@[simp] theorem Ctx.setTh_vreds (k : Ctx) (x : Thread) : (k.setTh x).vreds = k.vreds := rfl
@[simp] theorem Ctx.setTh_committed (k : Ctx) (x : Thread) : (k.setTh x).committed = k.committed := rfl
@[simp] theorem Ctx.setTh_spilled (k : Ctx) (x : Thread) : (k.setTh x).spilled = k.spilled := rfl
@[simp] theorem Ctx.setTh_shares (k : Ctx) (x : Thread) : (k.setTh x).shares = k.shares := rfl
@[simp] theorem Ctx.setTh_parks (k : Ctx) (x : Thread) : (k.setTh x).parks = k.parks := rfl
@[simp] theorem Ctx.setTh_arrs (k : Ctx) (x : Thread) : (k.setTh x).arrs = k.arrs := rfl
@[simp] theorem Ctx.setTh_gate (k : Ctx) (x : Thread) : (k.setTh x).gate = k.gate := rfl
@[simp] theorem Ctx.setTh_halted (k : Ctx) (x : Thread) : (k.setTh x).halted = k.halted := rfl
@[simp] theorem Ctx.setTh_wanted (k : Ctx) (x : Thread) : (k.setTh x).wanted = k.wanted := rfl
@[simp] theorem Ctx.setTh_steal (k : Ctx) (x : Thread) : (k.setTh x).steal = k.steal := rfl
@[simp] theorem Ctx.setTh_gated (k : Ctx) (x : Thread) : (k.setTh x).gated = k.gated := rfl
@[simp] theorem Ctx.setTh_discards (k : Ctx) (x : Thread) : (k.setTh x).discards = k.discards := rfl
@[simp] theorem Ctx.modTh_num (k : Ctx) (t : ThreadId) (f : Thread → Thread) : (k.modTh t f).num = k.num := rfl
@[simp] theorem Ctx.modTh_flt (k : Ctx) (t : ThreadId) (f : Thread → Thread) : (k.modTh t f).flt = k.flt := rfl
@[simp] theorem Ctx.modTh_stalled (k : Ctx) (t : ThreadId) (f : Thread → Thread) : (k.modTh t f).stalled = k.stalled := rfl
@[simp] theorem Ctx.modTh_capchg (k : Ctx) (t : ThreadId) (f : Thread → Thread) : (k.modTh t f).capchg = k.capchg := rfl
@[simp] theorem Ctx.modTh_forced (k : Ctx) (t : ThreadId) (f : Thread → Thread) : (k.modTh t f).forced = k.forced := rfl
@[simp] theorem Ctx.modTh_preempt (k : Ctx) (t : ThreadId) (f : Thread → Thread) : (k.modTh t f).preempt = k.preempt := rfl
@[simp] theorem Ctx.modTh_state (k : Ctx) (t : ThreadId) (f : Thread → Thread) : (k.modTh t f).state = k.state := rfl
@[simp] theorem Ctx.modTh_priomax (k : Ctx) (t : ThreadId) (f : Thread → Thread) : (k.modTh t f).priomax = k.priomax := rfl
@[simp] theorem Ctx.modTh_fpflags (k : Ctx) (t : ThreadId) (f : Thread → Thread) : (k.modTh t f).fpflags = k.fpflags := rfl
@[simp] theorem Ctx.modTh_fpend (k : Ctx) (t : ThreadId) (f : Thread → Thread) : (k.modTh t f).fpend = k.fpend := rfl
@[simp] theorem Ctx.modTh_sel (k : Ctx) (t : ThreadId) (f : Thread → Thread) : (k.modTh t f).sel = k.sel := rfl
@[simp] theorem Ctx.modTh_gen (k : Ctx) (t : ThreadId) (f : Thread → Thread) : (k.modTh t f).gen = k.gen := rfl
@[simp] theorem Ctx.modTh_fqb (k : Ctx) (t : ThreadId) (f : Thread → Thread) : (k.modTh t f).fqb = k.fqb := rfl
@[simp] theorem Ctx.modTh_capqb (k : Ctx) (t : ThreadId) (f : Thread → Thread) : (k.modTh t f).capqb = k.capqb := rfl
@[simp] theorem Ctx.modTh_avail (k : Ctx) (t : ThreadId) (f : Thread → Thread) : (k.modTh t f).avail = k.avail := rfl
@[simp] theorem Ctx.modTh_lcount (k : Ctx) (t : ThreadId) (f : Thread → Thread) : (k.modTh t f).lcount = k.lcount := rfl
@[simp] theorem Ctx.modTh_spine (k : Ctx) (t : ThreadId) (f : Thread → Thread) : (k.modTh t f).spine = k.spine := rfl
@[simp] theorem Ctx.modTh_ovf (k : Ctx) (t : ThreadId) (f : Thread → Thread) : (k.modTh t f).ovf = k.ovf := rfl
@[simp] theorem Ctx.modTh_desc (k : Ctx) (t : ThreadId) (f : Thread → Thread) : (k.modTh t f).desc = k.desc := rfl
@[simp] theorem Ctx.modTh_dreg (k : Ctx) (t : ThreadId) (f : Thread → Thread) : (k.modTh t f).dreg = k.dreg := rfl
@[simp] theorem Ctx.modTh_pmap (k : Ctx) (t : ThreadId) (f : Thread → Thread) : (k.modTh t f).pmap = k.pmap := rfl
@[simp] theorem Ctx.modTh_pins (k : Ctx) (t : ThreadId) (f : Thread → Thread) : (k.modTh t f).pins = k.pins := rfl
@[simp] theorem Ctx.modTh_savedPins (k : Ctx) (t : ThreadId) (f : Thread → Thread) : (k.modTh t f).savedPins = k.savedPins := rfl
@[simp] theorem Ctx.modTh_binds (k : Ctx) (t : ThreadId) (f : Thread → Thread) : (k.modTh t f).binds = k.binds := rfl
@[simp] theorem Ctx.modTh_ksel (k : Ctx) (t : ThreadId) (f : Thread → Thread) : (k.modTh t f).ksel = k.ksel := rfl
@[simp] theorem Ctx.modTh_logs (k : Ctx) (t : ThreadId) (f : Thread → Thread) : (k.modTh t f).logs = k.logs := rfl
@[simp] theorem Ctx.modTh_energy (k : Ctx) (t : ThreadId) (f : Thread → Thread) : (k.modTh t f).energy = k.energy := rfl
@[simp] theorem Ctx.modTh_unfolded (k : Ctx) (t : ThreadId) (f : Thread → Thread) : (k.modTh t f).unfolded = k.unfolded := rfl
@[simp] theorem Ctx.modTh_pq (k : Ctx) (t : ThreadId) (f : Thread → Thread) : (k.modTh t f).pq = k.pq := rfl
@[simp] theorem Ctx.modTh_cmdprod (k : Ctx) (t : ThreadId) (f : Thread → Thread) : (k.modTh t f).cmdprod = k.cmdprod := rfl
@[simp] theorem Ctx.modTh_cmdcons (k : Ctx) (t : ThreadId) (f : Thread → Thread) : (k.modTh t f).cmdcons = k.cmdcons := rfl
@[simp] theorem Ctx.modTh_evprod (k : Ctx) (t : ThreadId) (f : Thread → Thread) : (k.modTh t f).evprod = k.evprod := rfl
@[simp] theorem Ctx.modTh_evcons (k : Ctx) (t : ThreadId) (f : Thread → Thread) : (k.modTh t f).evcons = k.evcons := rfl
@[simp] theorem Ctx.modTh_doorbell (k : Ctx) (t : ThreadId) (f : Thread → Thread) : (k.modTh t f).doorbell = k.doorbell := rfl
@[simp] theorem Ctx.modTh_events (k : Ctx) (t : ThreadId) (f : Thread → Thread) : (k.modTh t f).events = k.events := rfl
@[simp] theorem Ctx.modTh_heldRecs (k : Ctx) (t : ThreadId) (f : Thread → Thread) : (k.modTh t f).heldRecs = k.heldRecs := rfl
@[simp] theorem Ctx.modTh_nextLaunch (k : Ctx) (t : ThreadId) (f : Thread → Thread) : (k.modTh t f).nextLaunch = k.nextLaunch := rfl
@[simp] theorem Ctx.modTh_born (k : Ctx) (t : ThreadId) (f : Thread → Thread) : (k.modTh t f).born = k.born := rfl
@[simp] theorem Ctx.modTh_launches (k : Ctx) (t : ThreadId) (f : Thread → Thread) : (k.modTh t f).launches = k.launches := rfl
@[simp] theorem Ctx.modTh_placed (k : Ctx) (t : ThreadId) (f : Thread → Thread) : (k.modTh t f).placed = k.placed := rfl
@[simp] theorem Ctx.modTh_tokens (k : Ctx) (t : ThreadId) (f : Thread → Thread) : (k.modTh t f).tokens = k.tokens := rfl
@[simp] theorem Ctx.modTh_kept (k : Ctx) (t : ThreadId) (f : Thread → Thread) : (k.modTh t f).kept = k.kept := rfl
@[simp] theorem Ctx.modTh_vreds (k : Ctx) (t : ThreadId) (f : Thread → Thread) : (k.modTh t f).vreds = k.vreds := rfl
@[simp] theorem Ctx.modTh_committed (k : Ctx) (t : ThreadId) (f : Thread → Thread) : (k.modTh t f).committed = k.committed := rfl
@[simp] theorem Ctx.modTh_spilled (k : Ctx) (t : ThreadId) (f : Thread → Thread) : (k.modTh t f).spilled = k.spilled := rfl
@[simp] theorem Ctx.modTh_shares (k : Ctx) (t : ThreadId) (f : Thread → Thread) : (k.modTh t f).shares = k.shares := rfl
@[simp] theorem Ctx.modTh_parks (k : Ctx) (t : ThreadId) (f : Thread → Thread) : (k.modTh t f).parks = k.parks := rfl
@[simp] theorem Ctx.modTh_arrs (k : Ctx) (t : ThreadId) (f : Thread → Thread) : (k.modTh t f).arrs = k.arrs := rfl
@[simp] theorem Ctx.modTh_gate (k : Ctx) (t : ThreadId) (f : Thread → Thread) : (k.modTh t f).gate = k.gate := rfl
@[simp] theorem Ctx.modTh_halted (k : Ctx) (t : ThreadId) (f : Thread → Thread) : (k.modTh t f).halted = k.halted := rfl
@[simp] theorem Ctx.modTh_wanted (k : Ctx) (t : ThreadId) (f : Thread → Thread) : (k.modTh t f).wanted = k.wanted := rfl
@[simp] theorem Ctx.modTh_steal (k : Ctx) (t : ThreadId) (f : Thread → Thread) : (k.modTh t f).steal = k.steal := rfl
@[simp] theorem Ctx.modTh_gated (k : Ctx) (t : ThreadId) (f : Thread → Thread) : (k.modTh t f).gated = k.gated := rfl
@[simp] theorem Ctx.modTh_discards (k : Ctx) (t : ThreadId) (f : Thread → Thread) : (k.modTh t f).discards = k.discards := rfl
@[simp] theorem Ctx.modWv_num (k : Ctx) (t : ThreadId) (w : WaveId) (f : Wave → Wave) : (k.modWv t w f).num = k.num := rfl
@[simp] theorem Ctx.modWv_flt (k : Ctx) (t : ThreadId) (w : WaveId) (f : Wave → Wave) : (k.modWv t w f).flt = k.flt := rfl
@[simp] theorem Ctx.modWv_stalled (k : Ctx) (t : ThreadId) (w : WaveId) (f : Wave → Wave) : (k.modWv t w f).stalled = k.stalled := rfl
@[simp] theorem Ctx.modWv_capchg (k : Ctx) (t : ThreadId) (w : WaveId) (f : Wave → Wave) : (k.modWv t w f).capchg = k.capchg := rfl
@[simp] theorem Ctx.modWv_forced (k : Ctx) (t : ThreadId) (w : WaveId) (f : Wave → Wave) : (k.modWv t w f).forced = k.forced := rfl
@[simp] theorem Ctx.modWv_preempt (k : Ctx) (t : ThreadId) (w : WaveId) (f : Wave → Wave) : (k.modWv t w f).preempt = k.preempt := rfl
@[simp] theorem Ctx.modWv_state (k : Ctx) (t : ThreadId) (w : WaveId) (f : Wave → Wave) : (k.modWv t w f).state = k.state := rfl
@[simp] theorem Ctx.modWv_priomax (k : Ctx) (t : ThreadId) (w : WaveId) (f : Wave → Wave) : (k.modWv t w f).priomax = k.priomax := rfl
@[simp] theorem Ctx.modWv_fpflags (k : Ctx) (t : ThreadId) (w : WaveId) (f : Wave → Wave) : (k.modWv t w f).fpflags = k.fpflags := rfl
@[simp] theorem Ctx.modWv_fpend (k : Ctx) (t : ThreadId) (w : WaveId) (f : Wave → Wave) : (k.modWv t w f).fpend = k.fpend := rfl
@[simp] theorem Ctx.modWv_sel (k : Ctx) (t : ThreadId) (w : WaveId) (f : Wave → Wave) : (k.modWv t w f).sel = k.sel := rfl
@[simp] theorem Ctx.modWv_gen (k : Ctx) (t : ThreadId) (w : WaveId) (f : Wave → Wave) : (k.modWv t w f).gen = k.gen := rfl
@[simp] theorem Ctx.modWv_fqb (k : Ctx) (t : ThreadId) (w : WaveId) (f : Wave → Wave) : (k.modWv t w f).fqb = k.fqb := rfl
@[simp] theorem Ctx.modWv_capqb (k : Ctx) (t : ThreadId) (w : WaveId) (f : Wave → Wave) : (k.modWv t w f).capqb = k.capqb := rfl
@[simp] theorem Ctx.modWv_avail (k : Ctx) (t : ThreadId) (w : WaveId) (f : Wave → Wave) : (k.modWv t w f).avail = k.avail := rfl
@[simp] theorem Ctx.modWv_lcount (k : Ctx) (t : ThreadId) (w : WaveId) (f : Wave → Wave) : (k.modWv t w f).lcount = k.lcount := rfl
@[simp] theorem Ctx.modWv_spine (k : Ctx) (t : ThreadId) (w : WaveId) (f : Wave → Wave) : (k.modWv t w f).spine = k.spine := rfl
@[simp] theorem Ctx.modWv_ovf (k : Ctx) (t : ThreadId) (w : WaveId) (f : Wave → Wave) : (k.modWv t w f).ovf = k.ovf := rfl
@[simp] theorem Ctx.modWv_desc (k : Ctx) (t : ThreadId) (w : WaveId) (f : Wave → Wave) : (k.modWv t w f).desc = k.desc := rfl
@[simp] theorem Ctx.modWv_dreg (k : Ctx) (t : ThreadId) (w : WaveId) (f : Wave → Wave) : (k.modWv t w f).dreg = k.dreg := rfl
@[simp] theorem Ctx.modWv_pmap (k : Ctx) (t : ThreadId) (w : WaveId) (f : Wave → Wave) : (k.modWv t w f).pmap = k.pmap := rfl
@[simp] theorem Ctx.modWv_pins (k : Ctx) (t : ThreadId) (w : WaveId) (f : Wave → Wave) : (k.modWv t w f).pins = k.pins := rfl
@[simp] theorem Ctx.modWv_savedPins (k : Ctx) (t : ThreadId) (w : WaveId) (f : Wave → Wave) : (k.modWv t w f).savedPins = k.savedPins := rfl
@[simp] theorem Ctx.modWv_binds (k : Ctx) (t : ThreadId) (w : WaveId) (f : Wave → Wave) : (k.modWv t w f).binds = k.binds := rfl
@[simp] theorem Ctx.modWv_ksel (k : Ctx) (t : ThreadId) (w : WaveId) (f : Wave → Wave) : (k.modWv t w f).ksel = k.ksel := rfl
@[simp] theorem Ctx.modWv_logs (k : Ctx) (t : ThreadId) (w : WaveId) (f : Wave → Wave) : (k.modWv t w f).logs = k.logs := rfl
@[simp] theorem Ctx.modWv_energy (k : Ctx) (t : ThreadId) (w : WaveId) (f : Wave → Wave) : (k.modWv t w f).energy = k.energy := rfl
@[simp] theorem Ctx.modWv_unfolded (k : Ctx) (t : ThreadId) (w : WaveId) (f : Wave → Wave) : (k.modWv t w f).unfolded = k.unfolded := rfl
@[simp] theorem Ctx.modWv_pq (k : Ctx) (t : ThreadId) (w : WaveId) (f : Wave → Wave) : (k.modWv t w f).pq = k.pq := rfl
@[simp] theorem Ctx.modWv_cmdprod (k : Ctx) (t : ThreadId) (w : WaveId) (f : Wave → Wave) : (k.modWv t w f).cmdprod = k.cmdprod := rfl
@[simp] theorem Ctx.modWv_cmdcons (k : Ctx) (t : ThreadId) (w : WaveId) (f : Wave → Wave) : (k.modWv t w f).cmdcons = k.cmdcons := rfl
@[simp] theorem Ctx.modWv_evprod (k : Ctx) (t : ThreadId) (w : WaveId) (f : Wave → Wave) : (k.modWv t w f).evprod = k.evprod := rfl
@[simp] theorem Ctx.modWv_evcons (k : Ctx) (t : ThreadId) (w : WaveId) (f : Wave → Wave) : (k.modWv t w f).evcons = k.evcons := rfl
@[simp] theorem Ctx.modWv_doorbell (k : Ctx) (t : ThreadId) (w : WaveId) (f : Wave → Wave) : (k.modWv t w f).doorbell = k.doorbell := rfl
@[simp] theorem Ctx.modWv_events (k : Ctx) (t : ThreadId) (w : WaveId) (f : Wave → Wave) : (k.modWv t w f).events = k.events := rfl
@[simp] theorem Ctx.modWv_heldRecs (k : Ctx) (t : ThreadId) (w : WaveId) (f : Wave → Wave) : (k.modWv t w f).heldRecs = k.heldRecs := rfl
@[simp] theorem Ctx.modWv_nextLaunch (k : Ctx) (t : ThreadId) (w : WaveId) (f : Wave → Wave) : (k.modWv t w f).nextLaunch = k.nextLaunch := rfl
@[simp] theorem Ctx.modWv_born (k : Ctx) (t : ThreadId) (w : WaveId) (f : Wave → Wave) : (k.modWv t w f).born = k.born := rfl
@[simp] theorem Ctx.modWv_launches (k : Ctx) (t : ThreadId) (w : WaveId) (f : Wave → Wave) : (k.modWv t w f).launches = k.launches := rfl
@[simp] theorem Ctx.modWv_placed (k : Ctx) (t : ThreadId) (w : WaveId) (f : Wave → Wave) : (k.modWv t w f).placed = k.placed := rfl
@[simp] theorem Ctx.modWv_tokens (k : Ctx) (t : ThreadId) (w : WaveId) (f : Wave → Wave) : (k.modWv t w f).tokens = k.tokens := rfl
@[simp] theorem Ctx.modWv_kept (k : Ctx) (t : ThreadId) (w : WaveId) (f : Wave → Wave) : (k.modWv t w f).kept = k.kept := rfl
@[simp] theorem Ctx.modWv_vreds (k : Ctx) (t : ThreadId) (w : WaveId) (f : Wave → Wave) : (k.modWv t w f).vreds = k.vreds := rfl
@[simp] theorem Ctx.modWv_committed (k : Ctx) (t : ThreadId) (w : WaveId) (f : Wave → Wave) : (k.modWv t w f).committed = k.committed := rfl
@[simp] theorem Ctx.modWv_spilled (k : Ctx) (t : ThreadId) (w : WaveId) (f : Wave → Wave) : (k.modWv t w f).spilled = k.spilled := rfl
@[simp] theorem Ctx.modWv_shares (k : Ctx) (t : ThreadId) (w : WaveId) (f : Wave → Wave) : (k.modWv t w f).shares = k.shares := rfl
@[simp] theorem Ctx.modWv_parks (k : Ctx) (t : ThreadId) (w : WaveId) (f : Wave → Wave) : (k.modWv t w f).parks = k.parks := rfl
@[simp] theorem Ctx.modWv_arrs (k : Ctx) (t : ThreadId) (w : WaveId) (f : Wave → Wave) : (k.modWv t w f).arrs = k.arrs := rfl
@[simp] theorem Ctx.modWv_gate (k : Ctx) (t : ThreadId) (w : WaveId) (f : Wave → Wave) : (k.modWv t w f).gate = k.gate := rfl
@[simp] theorem Ctx.modWv_halted (k : Ctx) (t : ThreadId) (w : WaveId) (f : Wave → Wave) : (k.modWv t w f).halted = k.halted := rfl
@[simp] theorem Ctx.modWv_wanted (k : Ctx) (t : ThreadId) (w : WaveId) (f : Wave → Wave) : (k.modWv t w f).wanted = k.wanted := rfl
@[simp] theorem Ctx.modWv_steal (k : Ctx) (t : ThreadId) (w : WaveId) (f : Wave → Wave) : (k.modWv t w f).steal = k.steal := rfl
@[simp] theorem Ctx.modWv_gated (k : Ctx) (t : ThreadId) (w : WaveId) (f : Wave → Wave) : (k.modWv t w f).gated = k.gated := rfl
@[simp] theorem Ctx.modWv_discards (k : Ctx) (t : ThreadId) (w : WaveId) (f : Wave → Wave) : (k.modWv t w f).discards = k.discards := rfl
@[simp] theorem Ctx.modLn_num (k : Ctx) (n : BitVec 32) (f : Launch → Launch) : (k.modLn n f).num = k.num := rfl
@[simp] theorem Ctx.modLn_flt (k : Ctx) (n : BitVec 32) (f : Launch → Launch) : (k.modLn n f).flt = k.flt := rfl
@[simp] theorem Ctx.modLn_stalled (k : Ctx) (n : BitVec 32) (f : Launch → Launch) : (k.modLn n f).stalled = k.stalled := rfl
@[simp] theorem Ctx.modLn_capchg (k : Ctx) (n : BitVec 32) (f : Launch → Launch) : (k.modLn n f).capchg = k.capchg := rfl
@[simp] theorem Ctx.modLn_forced (k : Ctx) (n : BitVec 32) (f : Launch → Launch) : (k.modLn n f).forced = k.forced := rfl
@[simp] theorem Ctx.modLn_preempt (k : Ctx) (n : BitVec 32) (f : Launch → Launch) : (k.modLn n f).preempt = k.preempt := rfl
@[simp] theorem Ctx.modLn_state (k : Ctx) (n : BitVec 32) (f : Launch → Launch) : (k.modLn n f).state = k.state := rfl
@[simp] theorem Ctx.modLn_priomax (k : Ctx) (n : BitVec 32) (f : Launch → Launch) : (k.modLn n f).priomax = k.priomax := rfl
@[simp] theorem Ctx.modLn_fpflags (k : Ctx) (n : BitVec 32) (f : Launch → Launch) : (k.modLn n f).fpflags = k.fpflags := rfl
@[simp] theorem Ctx.modLn_fpend (k : Ctx) (n : BitVec 32) (f : Launch → Launch) : (k.modLn n f).fpend = k.fpend := rfl
@[simp] theorem Ctx.modLn_sel (k : Ctx) (n : BitVec 32) (f : Launch → Launch) : (k.modLn n f).sel = k.sel := rfl
@[simp] theorem Ctx.modLn_gen (k : Ctx) (n : BitVec 32) (f : Launch → Launch) : (k.modLn n f).gen = k.gen := rfl
@[simp] theorem Ctx.modLn_fqb (k : Ctx) (n : BitVec 32) (f : Launch → Launch) : (k.modLn n f).fqb = k.fqb := rfl
@[simp] theorem Ctx.modLn_capqb (k : Ctx) (n : BitVec 32) (f : Launch → Launch) : (k.modLn n f).capqb = k.capqb := rfl
@[simp] theorem Ctx.modLn_avail (k : Ctx) (n : BitVec 32) (f : Launch → Launch) : (k.modLn n f).avail = k.avail := rfl
@[simp] theorem Ctx.modLn_lcount (k : Ctx) (n : BitVec 32) (f : Launch → Launch) : (k.modLn n f).lcount = k.lcount := rfl
@[simp] theorem Ctx.modLn_spine (k : Ctx) (n : BitVec 32) (f : Launch → Launch) : (k.modLn n f).spine = k.spine := rfl
@[simp] theorem Ctx.modLn_ovf (k : Ctx) (n : BitVec 32) (f : Launch → Launch) : (k.modLn n f).ovf = k.ovf := rfl
@[simp] theorem Ctx.modLn_desc (k : Ctx) (n : BitVec 32) (f : Launch → Launch) : (k.modLn n f).desc = k.desc := rfl
@[simp] theorem Ctx.modLn_dreg (k : Ctx) (n : BitVec 32) (f : Launch → Launch) : (k.modLn n f).dreg = k.dreg := rfl
@[simp] theorem Ctx.modLn_pmap (k : Ctx) (n : BitVec 32) (f : Launch → Launch) : (k.modLn n f).pmap = k.pmap := rfl
@[simp] theorem Ctx.modLn_pins (k : Ctx) (n : BitVec 32) (f : Launch → Launch) : (k.modLn n f).pins = k.pins := rfl
@[simp] theorem Ctx.modLn_savedPins (k : Ctx) (n : BitVec 32) (f : Launch → Launch) : (k.modLn n f).savedPins = k.savedPins := rfl
@[simp] theorem Ctx.modLn_binds (k : Ctx) (n : BitVec 32) (f : Launch → Launch) : (k.modLn n f).binds = k.binds := rfl
@[simp] theorem Ctx.modLn_ksel (k : Ctx) (n : BitVec 32) (f : Launch → Launch) : (k.modLn n f).ksel = k.ksel := rfl
@[simp] theorem Ctx.modLn_logs (k : Ctx) (n : BitVec 32) (f : Launch → Launch) : (k.modLn n f).logs = k.logs := rfl
@[simp] theorem Ctx.modLn_energy (k : Ctx) (n : BitVec 32) (f : Launch → Launch) : (k.modLn n f).energy = k.energy := rfl
@[simp] theorem Ctx.modLn_unfolded (k : Ctx) (n : BitVec 32) (f : Launch → Launch) : (k.modLn n f).unfolded = k.unfolded := rfl
@[simp] theorem Ctx.modLn_pq (k : Ctx) (n : BitVec 32) (f : Launch → Launch) : (k.modLn n f).pq = k.pq := rfl
@[simp] theorem Ctx.modLn_cmdprod (k : Ctx) (n : BitVec 32) (f : Launch → Launch) : (k.modLn n f).cmdprod = k.cmdprod := rfl
@[simp] theorem Ctx.modLn_cmdcons (k : Ctx) (n : BitVec 32) (f : Launch → Launch) : (k.modLn n f).cmdcons = k.cmdcons := rfl
@[simp] theorem Ctx.modLn_evprod (k : Ctx) (n : BitVec 32) (f : Launch → Launch) : (k.modLn n f).evprod = k.evprod := rfl
@[simp] theorem Ctx.modLn_evcons (k : Ctx) (n : BitVec 32) (f : Launch → Launch) : (k.modLn n f).evcons = k.evcons := rfl
@[simp] theorem Ctx.modLn_doorbell (k : Ctx) (n : BitVec 32) (f : Launch → Launch) : (k.modLn n f).doorbell = k.doorbell := rfl
@[simp] theorem Ctx.modLn_events (k : Ctx) (n : BitVec 32) (f : Launch → Launch) : (k.modLn n f).events = k.events := rfl
@[simp] theorem Ctx.modLn_heldRecs (k : Ctx) (n : BitVec 32) (f : Launch → Launch) : (k.modLn n f).heldRecs = k.heldRecs := rfl
@[simp] theorem Ctx.modLn_nextLaunch (k : Ctx) (n : BitVec 32) (f : Launch → Launch) : (k.modLn n f).nextLaunch = k.nextLaunch := rfl
@[simp] theorem Ctx.modLn_born (k : Ctx) (n : BitVec 32) (f : Launch → Launch) : (k.modLn n f).born = k.born := rfl
@[simp] theorem Ctx.modLn_threads (k : Ctx) (n : BitVec 32) (f : Launch → Launch) : (k.modLn n f).threads = k.threads := rfl
@[simp] theorem Ctx.modLn_placed (k : Ctx) (n : BitVec 32) (f : Launch → Launch) : (k.modLn n f).placed = k.placed := rfl
@[simp] theorem Ctx.modLn_tokens (k : Ctx) (n : BitVec 32) (f : Launch → Launch) : (k.modLn n f).tokens = k.tokens := rfl
@[simp] theorem Ctx.modLn_kept (k : Ctx) (n : BitVec 32) (f : Launch → Launch) : (k.modLn n f).kept = k.kept := rfl
@[simp] theorem Ctx.modLn_vreds (k : Ctx) (n : BitVec 32) (f : Launch → Launch) : (k.modLn n f).vreds = k.vreds := rfl
@[simp] theorem Ctx.modLn_committed (k : Ctx) (n : BitVec 32) (f : Launch → Launch) : (k.modLn n f).committed = k.committed := rfl
@[simp] theorem Ctx.modLn_spilled (k : Ctx) (n : BitVec 32) (f : Launch → Launch) : (k.modLn n f).spilled = k.spilled := rfl
@[simp] theorem Ctx.modLn_shares (k : Ctx) (n : BitVec 32) (f : Launch → Launch) : (k.modLn n f).shares = k.shares := rfl
@[simp] theorem Ctx.modLn_parks (k : Ctx) (n : BitVec 32) (f : Launch → Launch) : (k.modLn n f).parks = k.parks := rfl
@[simp] theorem Ctx.modLn_arrs (k : Ctx) (n : BitVec 32) (f : Launch → Launch) : (k.modLn n f).arrs = k.arrs := rfl
@[simp] theorem Ctx.modLn_gate (k : Ctx) (n : BitVec 32) (f : Launch → Launch) : (k.modLn n f).gate = k.gate := rfl
@[simp] theorem Ctx.modLn_halted (k : Ctx) (n : BitVec 32) (f : Launch → Launch) : (k.modLn n f).halted = k.halted := rfl
@[simp] theorem Ctx.modLn_wanted (k : Ctx) (n : BitVec 32) (f : Launch → Launch) : (k.modLn n f).wanted = k.wanted := rfl
@[simp] theorem Ctx.modLn_steal (k : Ctx) (n : BitVec 32) (f : Launch → Launch) : (k.modLn n f).steal = k.steal := rfl
@[simp] theorem Ctx.modLn_gated (k : Ctx) (n : BitVec 32) (f : Launch → Launch) : (k.modLn n f).gated = k.gated := rfl
@[simp] theorem Ctx.modLn_discards (k : Ctx) (n : BitVec 32) (f : Launch → Launch) : (k.modLn n f).discards = k.discards := rfl
@[simp] theorem Ctx.setShare_num (k : Ctx) (h : Share) : (k.setShare h).num = k.num := rfl
@[simp] theorem Ctx.setShare_flt (k : Ctx) (h : Share) : (k.setShare h).flt = k.flt := rfl
@[simp] theorem Ctx.setShare_stalled (k : Ctx) (h : Share) : (k.setShare h).stalled = k.stalled := rfl
@[simp] theorem Ctx.setShare_capchg (k : Ctx) (h : Share) : (k.setShare h).capchg = k.capchg := rfl
@[simp] theorem Ctx.setShare_forced (k : Ctx) (h : Share) : (k.setShare h).forced = k.forced := rfl
@[simp] theorem Ctx.setShare_preempt (k : Ctx) (h : Share) : (k.setShare h).preempt = k.preempt := rfl
@[simp] theorem Ctx.setShare_state (k : Ctx) (h : Share) : (k.setShare h).state = k.state := rfl
@[simp] theorem Ctx.setShare_priomax (k : Ctx) (h : Share) : (k.setShare h).priomax = k.priomax := rfl
@[simp] theorem Ctx.setShare_fpflags (k : Ctx) (h : Share) : (k.setShare h).fpflags = k.fpflags := rfl
@[simp] theorem Ctx.setShare_fpend (k : Ctx) (h : Share) : (k.setShare h).fpend = k.fpend := rfl
@[simp] theorem Ctx.setShare_sel (k : Ctx) (h : Share) : (k.setShare h).sel = k.sel := rfl
@[simp] theorem Ctx.setShare_gen (k : Ctx) (h : Share) : (k.setShare h).gen = k.gen := rfl
@[simp] theorem Ctx.setShare_fqb (k : Ctx) (h : Share) : (k.setShare h).fqb = k.fqb := rfl
@[simp] theorem Ctx.setShare_capqb (k : Ctx) (h : Share) : (k.setShare h).capqb = k.capqb := rfl
@[simp] theorem Ctx.setShare_avail (k : Ctx) (h : Share) : (k.setShare h).avail = k.avail := rfl
@[simp] theorem Ctx.setShare_lcount (k : Ctx) (h : Share) : (k.setShare h).lcount = k.lcount := rfl
@[simp] theorem Ctx.setShare_spine (k : Ctx) (h : Share) : (k.setShare h).spine = k.spine := rfl
@[simp] theorem Ctx.setShare_ovf (k : Ctx) (h : Share) : (k.setShare h).ovf = k.ovf := rfl
@[simp] theorem Ctx.setShare_desc (k : Ctx) (h : Share) : (k.setShare h).desc = k.desc := rfl
@[simp] theorem Ctx.setShare_dreg (k : Ctx) (h : Share) : (k.setShare h).dreg = k.dreg := rfl
@[simp] theorem Ctx.setShare_pmap (k : Ctx) (h : Share) : (k.setShare h).pmap = k.pmap := rfl
@[simp] theorem Ctx.setShare_pins (k : Ctx) (h : Share) : (k.setShare h).pins = k.pins := rfl
@[simp] theorem Ctx.setShare_savedPins (k : Ctx) (h : Share) : (k.setShare h).savedPins = k.savedPins := rfl
@[simp] theorem Ctx.setShare_binds (k : Ctx) (h : Share) : (k.setShare h).binds = k.binds := rfl
@[simp] theorem Ctx.setShare_ksel (k : Ctx) (h : Share) : (k.setShare h).ksel = k.ksel := rfl
@[simp] theorem Ctx.setShare_logs (k : Ctx) (h : Share) : (k.setShare h).logs = k.logs := rfl
@[simp] theorem Ctx.setShare_energy (k : Ctx) (h : Share) : (k.setShare h).energy = k.energy := rfl
@[simp] theorem Ctx.setShare_unfolded (k : Ctx) (h : Share) : (k.setShare h).unfolded = k.unfolded := rfl
@[simp] theorem Ctx.setShare_pq (k : Ctx) (h : Share) : (k.setShare h).pq = k.pq := rfl
@[simp] theorem Ctx.setShare_cmdprod (k : Ctx) (h : Share) : (k.setShare h).cmdprod = k.cmdprod := rfl
@[simp] theorem Ctx.setShare_cmdcons (k : Ctx) (h : Share) : (k.setShare h).cmdcons = k.cmdcons := rfl
@[simp] theorem Ctx.setShare_evprod (k : Ctx) (h : Share) : (k.setShare h).evprod = k.evprod := rfl
@[simp] theorem Ctx.setShare_evcons (k : Ctx) (h : Share) : (k.setShare h).evcons = k.evcons := rfl
@[simp] theorem Ctx.setShare_doorbell (k : Ctx) (h : Share) : (k.setShare h).doorbell = k.doorbell := rfl
@[simp] theorem Ctx.setShare_events (k : Ctx) (h : Share) : (k.setShare h).events = k.events := rfl
@[simp] theorem Ctx.setShare_heldRecs (k : Ctx) (h : Share) : (k.setShare h).heldRecs = k.heldRecs := rfl
@[simp] theorem Ctx.setShare_nextLaunch (k : Ctx) (h : Share) : (k.setShare h).nextLaunch = k.nextLaunch := rfl
@[simp] theorem Ctx.setShare_born (k : Ctx) (h : Share) : (k.setShare h).born = k.born := rfl
@[simp] theorem Ctx.setShare_launches (k : Ctx) (h : Share) : (k.setShare h).launches = k.launches := rfl
@[simp] theorem Ctx.setShare_threads (k : Ctx) (h : Share) : (k.setShare h).threads = k.threads := rfl
@[simp] theorem Ctx.setShare_placed (k : Ctx) (h : Share) : (k.setShare h).placed = k.placed := rfl
@[simp] theorem Ctx.setShare_tokens (k : Ctx) (h : Share) : (k.setShare h).tokens = k.tokens := rfl
@[simp] theorem Ctx.setShare_kept (k : Ctx) (h : Share) : (k.setShare h).kept = k.kept := rfl
@[simp] theorem Ctx.setShare_vreds (k : Ctx) (h : Share) : (k.setShare h).vreds = k.vreds := rfl
@[simp] theorem Ctx.setShare_committed (k : Ctx) (h : Share) : (k.setShare h).committed = k.committed := rfl
@[simp] theorem Ctx.setShare_spilled (k : Ctx) (h : Share) : (k.setShare h).spilled = k.spilled := rfl
@[simp] theorem Ctx.setShare_parks (k : Ctx) (h : Share) : (k.setShare h).parks = k.parks := rfl
@[simp] theorem Ctx.setShare_arrs (k : Ctx) (h : Share) : (k.setShare h).arrs = k.arrs := rfl
@[simp] theorem Ctx.setShare_gate (k : Ctx) (h : Share) : (k.setShare h).gate = k.gate := rfl
@[simp] theorem Ctx.setShare_halted (k : Ctx) (h : Share) : (k.setShare h).halted = k.halted := rfl
@[simp] theorem Ctx.setShare_wanted (k : Ctx) (h : Share) : (k.setShare h).wanted = k.wanted := rfl
@[simp] theorem Ctx.setShare_steal (k : Ctx) (h : Share) : (k.setShare h).steal = k.steal := rfl
@[simp] theorem Ctx.setShare_gated (k : Ctx) (h : Share) : (k.setShare h).gated = k.gated := rfl
@[simp] theorem Ctx.setShare_discards (k : Ctx) (h : Share) : (k.setShare h).discards = k.discards := rfl
@[simp] theorem Ctx.modShare_num (k : Ctx) (l : Nat) (f : Share → Share) : (k.modShare l f).num = k.num := rfl
@[simp] theorem Ctx.modShare_flt (k : Ctx) (l : Nat) (f : Share → Share) : (k.modShare l f).flt = k.flt := rfl
@[simp] theorem Ctx.modShare_stalled (k : Ctx) (l : Nat) (f : Share → Share) : (k.modShare l f).stalled = k.stalled := rfl
@[simp] theorem Ctx.modShare_capchg (k : Ctx) (l : Nat) (f : Share → Share) : (k.modShare l f).capchg = k.capchg := rfl
@[simp] theorem Ctx.modShare_forced (k : Ctx) (l : Nat) (f : Share → Share) : (k.modShare l f).forced = k.forced := rfl
@[simp] theorem Ctx.modShare_preempt (k : Ctx) (l : Nat) (f : Share → Share) : (k.modShare l f).preempt = k.preempt := rfl
@[simp] theorem Ctx.modShare_state (k : Ctx) (l : Nat) (f : Share → Share) : (k.modShare l f).state = k.state := rfl
@[simp] theorem Ctx.modShare_priomax (k : Ctx) (l : Nat) (f : Share → Share) : (k.modShare l f).priomax = k.priomax := rfl
@[simp] theorem Ctx.modShare_fpflags (k : Ctx) (l : Nat) (f : Share → Share) : (k.modShare l f).fpflags = k.fpflags := rfl
@[simp] theorem Ctx.modShare_fpend (k : Ctx) (l : Nat) (f : Share → Share) : (k.modShare l f).fpend = k.fpend := rfl
@[simp] theorem Ctx.modShare_sel (k : Ctx) (l : Nat) (f : Share → Share) : (k.modShare l f).sel = k.sel := rfl
@[simp] theorem Ctx.modShare_gen (k : Ctx) (l : Nat) (f : Share → Share) : (k.modShare l f).gen = k.gen := rfl
@[simp] theorem Ctx.modShare_fqb (k : Ctx) (l : Nat) (f : Share → Share) : (k.modShare l f).fqb = k.fqb := rfl
@[simp] theorem Ctx.modShare_capqb (k : Ctx) (l : Nat) (f : Share → Share) : (k.modShare l f).capqb = k.capqb := rfl
@[simp] theorem Ctx.modShare_avail (k : Ctx) (l : Nat) (f : Share → Share) : (k.modShare l f).avail = k.avail := rfl
@[simp] theorem Ctx.modShare_lcount (k : Ctx) (l : Nat) (f : Share → Share) : (k.modShare l f).lcount = k.lcount := rfl
@[simp] theorem Ctx.modShare_spine (k : Ctx) (l : Nat) (f : Share → Share) : (k.modShare l f).spine = k.spine := rfl
@[simp] theorem Ctx.modShare_ovf (k : Ctx) (l : Nat) (f : Share → Share) : (k.modShare l f).ovf = k.ovf := rfl
@[simp] theorem Ctx.modShare_desc (k : Ctx) (l : Nat) (f : Share → Share) : (k.modShare l f).desc = k.desc := rfl
@[simp] theorem Ctx.modShare_dreg (k : Ctx) (l : Nat) (f : Share → Share) : (k.modShare l f).dreg = k.dreg := rfl
@[simp] theorem Ctx.modShare_pmap (k : Ctx) (l : Nat) (f : Share → Share) : (k.modShare l f).pmap = k.pmap := rfl
@[simp] theorem Ctx.modShare_pins (k : Ctx) (l : Nat) (f : Share → Share) : (k.modShare l f).pins = k.pins := rfl
@[simp] theorem Ctx.modShare_savedPins (k : Ctx) (l : Nat) (f : Share → Share) : (k.modShare l f).savedPins = k.savedPins := rfl
@[simp] theorem Ctx.modShare_binds (k : Ctx) (l : Nat) (f : Share → Share) : (k.modShare l f).binds = k.binds := rfl
@[simp] theorem Ctx.modShare_ksel (k : Ctx) (l : Nat) (f : Share → Share) : (k.modShare l f).ksel = k.ksel := rfl
@[simp] theorem Ctx.modShare_logs (k : Ctx) (l : Nat) (f : Share → Share) : (k.modShare l f).logs = k.logs := rfl
@[simp] theorem Ctx.modShare_energy (k : Ctx) (l : Nat) (f : Share → Share) : (k.modShare l f).energy = k.energy := rfl
@[simp] theorem Ctx.modShare_unfolded (k : Ctx) (l : Nat) (f : Share → Share) : (k.modShare l f).unfolded = k.unfolded := rfl
@[simp] theorem Ctx.modShare_pq (k : Ctx) (l : Nat) (f : Share → Share) : (k.modShare l f).pq = k.pq := rfl
@[simp] theorem Ctx.modShare_cmdprod (k : Ctx) (l : Nat) (f : Share → Share) : (k.modShare l f).cmdprod = k.cmdprod := rfl
@[simp] theorem Ctx.modShare_cmdcons (k : Ctx) (l : Nat) (f : Share → Share) : (k.modShare l f).cmdcons = k.cmdcons := rfl
@[simp] theorem Ctx.modShare_evprod (k : Ctx) (l : Nat) (f : Share → Share) : (k.modShare l f).evprod = k.evprod := rfl
@[simp] theorem Ctx.modShare_evcons (k : Ctx) (l : Nat) (f : Share → Share) : (k.modShare l f).evcons = k.evcons := rfl
@[simp] theorem Ctx.modShare_doorbell (k : Ctx) (l : Nat) (f : Share → Share) : (k.modShare l f).doorbell = k.doorbell := rfl
@[simp] theorem Ctx.modShare_events (k : Ctx) (l : Nat) (f : Share → Share) : (k.modShare l f).events = k.events := rfl
@[simp] theorem Ctx.modShare_heldRecs (k : Ctx) (l : Nat) (f : Share → Share) : (k.modShare l f).heldRecs = k.heldRecs := rfl
@[simp] theorem Ctx.modShare_nextLaunch (k : Ctx) (l : Nat) (f : Share → Share) : (k.modShare l f).nextLaunch = k.nextLaunch := rfl
@[simp] theorem Ctx.modShare_born (k : Ctx) (l : Nat) (f : Share → Share) : (k.modShare l f).born = k.born := rfl
@[simp] theorem Ctx.modShare_launches (k : Ctx) (l : Nat) (f : Share → Share) : (k.modShare l f).launches = k.launches := rfl
@[simp] theorem Ctx.modShare_threads (k : Ctx) (l : Nat) (f : Share → Share) : (k.modShare l f).threads = k.threads := rfl
@[simp] theorem Ctx.modShare_placed (k : Ctx) (l : Nat) (f : Share → Share) : (k.modShare l f).placed = k.placed := rfl
@[simp] theorem Ctx.modShare_tokens (k : Ctx) (l : Nat) (f : Share → Share) : (k.modShare l f).tokens = k.tokens := rfl
@[simp] theorem Ctx.modShare_kept (k : Ctx) (l : Nat) (f : Share → Share) : (k.modShare l f).kept = k.kept := rfl
@[simp] theorem Ctx.modShare_vreds (k : Ctx) (l : Nat) (f : Share → Share) : (k.modShare l f).vreds = k.vreds := rfl
@[simp] theorem Ctx.modShare_committed (k : Ctx) (l : Nat) (f : Share → Share) : (k.modShare l f).committed = k.committed := rfl
@[simp] theorem Ctx.modShare_spilled (k : Ctx) (l : Nat) (f : Share → Share) : (k.modShare l f).spilled = k.spilled := rfl
@[simp] theorem Ctx.modShare_parks (k : Ctx) (l : Nat) (f : Share → Share) : (k.modShare l f).parks = k.parks := rfl
@[simp] theorem Ctx.modShare_arrs (k : Ctx) (l : Nat) (f : Share → Share) : (k.modShare l f).arrs = k.arrs := rfl
@[simp] theorem Ctx.modShare_gate (k : Ctx) (l : Nat) (f : Share → Share) : (k.modShare l f).gate = k.gate := rfl
@[simp] theorem Ctx.modShare_halted (k : Ctx) (l : Nat) (f : Share → Share) : (k.modShare l f).halted = k.halted := rfl
@[simp] theorem Ctx.modShare_wanted (k : Ctx) (l : Nat) (f : Share → Share) : (k.modShare l f).wanted = k.wanted := rfl
@[simp] theorem Ctx.modShare_steal (k : Ctx) (l : Nat) (f : Share → Share) : (k.modShare l f).steal = k.steal := rfl
@[simp] theorem Ctx.modShare_gated (k : Ctx) (l : Nat) (f : Share → Share) : (k.modShare l f).gated = k.gated := rfl
@[simp] theorem Ctx.modShare_discards (k : Ctx) (l : Nat) (f : Share → Share) : (k.modShare l f).discards = k.discards := rfl
@[simp] theorem Ctx.perfAdd_num (k : Ctx) (l n b : Nat) : (k.perfAdd l n b).num = k.num := rfl
@[simp] theorem Ctx.perfAdd_flt (k : Ctx) (l n b : Nat) : (k.perfAdd l n b).flt = k.flt := rfl
@[simp] theorem Ctx.perfAdd_stalled (k : Ctx) (l n b : Nat) : (k.perfAdd l n b).stalled = k.stalled := rfl
@[simp] theorem Ctx.perfAdd_capchg (k : Ctx) (l n b : Nat) : (k.perfAdd l n b).capchg = k.capchg := rfl
@[simp] theorem Ctx.perfAdd_forced (k : Ctx) (l n b : Nat) : (k.perfAdd l n b).forced = k.forced := rfl
@[simp] theorem Ctx.perfAdd_preempt (k : Ctx) (l n b : Nat) : (k.perfAdd l n b).preempt = k.preempt := rfl
@[simp] theorem Ctx.perfAdd_state (k : Ctx) (l n b : Nat) : (k.perfAdd l n b).state = k.state := rfl
@[simp] theorem Ctx.perfAdd_priomax (k : Ctx) (l n b : Nat) : (k.perfAdd l n b).priomax = k.priomax := rfl
@[simp] theorem Ctx.perfAdd_fpflags (k : Ctx) (l n b : Nat) : (k.perfAdd l n b).fpflags = k.fpflags := rfl
@[simp] theorem Ctx.perfAdd_fpend (k : Ctx) (l n b : Nat) : (k.perfAdd l n b).fpend = k.fpend := rfl
@[simp] theorem Ctx.perfAdd_sel (k : Ctx) (l n b : Nat) : (k.perfAdd l n b).sel = k.sel := rfl
@[simp] theorem Ctx.perfAdd_gen (k : Ctx) (l n b : Nat) : (k.perfAdd l n b).gen = k.gen := rfl
@[simp] theorem Ctx.perfAdd_fqb (k : Ctx) (l n b : Nat) : (k.perfAdd l n b).fqb = k.fqb := rfl
@[simp] theorem Ctx.perfAdd_capqb (k : Ctx) (l n b : Nat) : (k.perfAdd l n b).capqb = k.capqb := rfl
@[simp] theorem Ctx.perfAdd_avail (k : Ctx) (l n b : Nat) : (k.perfAdd l n b).avail = k.avail := rfl
@[simp] theorem Ctx.perfAdd_lcount (k : Ctx) (l n b : Nat) : (k.perfAdd l n b).lcount = k.lcount := rfl
@[simp] theorem Ctx.perfAdd_spine (k : Ctx) (l n b : Nat) : (k.perfAdd l n b).spine = k.spine := rfl
@[simp] theorem Ctx.perfAdd_ovf (k : Ctx) (l n b : Nat) : (k.perfAdd l n b).ovf = k.ovf := rfl
@[simp] theorem Ctx.perfAdd_desc (k : Ctx) (l n b : Nat) : (k.perfAdd l n b).desc = k.desc := rfl
@[simp] theorem Ctx.perfAdd_dreg (k : Ctx) (l n b : Nat) : (k.perfAdd l n b).dreg = k.dreg := rfl
@[simp] theorem Ctx.perfAdd_pmap (k : Ctx) (l n b : Nat) : (k.perfAdd l n b).pmap = k.pmap := rfl
@[simp] theorem Ctx.perfAdd_pins (k : Ctx) (l n b : Nat) : (k.perfAdd l n b).pins = k.pins := rfl
@[simp] theorem Ctx.perfAdd_savedPins (k : Ctx) (l n b : Nat) : (k.perfAdd l n b).savedPins = k.savedPins := rfl
@[simp] theorem Ctx.perfAdd_binds (k : Ctx) (l n b : Nat) : (k.perfAdd l n b).binds = k.binds := rfl
@[simp] theorem Ctx.perfAdd_ksel (k : Ctx) (l n b : Nat) : (k.perfAdd l n b).ksel = k.ksel := rfl
@[simp] theorem Ctx.perfAdd_logs (k : Ctx) (l n b : Nat) : (k.perfAdd l n b).logs = k.logs := rfl
@[simp] theorem Ctx.perfAdd_energy (k : Ctx) (l n b : Nat) : (k.perfAdd l n b).energy = k.energy := rfl
@[simp] theorem Ctx.perfAdd_unfolded (k : Ctx) (l n b : Nat) : (k.perfAdd l n b).unfolded = k.unfolded := rfl
@[simp] theorem Ctx.perfAdd_pq (k : Ctx) (l n b : Nat) : (k.perfAdd l n b).pq = k.pq := rfl
@[simp] theorem Ctx.perfAdd_cmdprod (k : Ctx) (l n b : Nat) : (k.perfAdd l n b).cmdprod = k.cmdprod := rfl
@[simp] theorem Ctx.perfAdd_cmdcons (k : Ctx) (l n b : Nat) : (k.perfAdd l n b).cmdcons = k.cmdcons := rfl
@[simp] theorem Ctx.perfAdd_evprod (k : Ctx) (l n b : Nat) : (k.perfAdd l n b).evprod = k.evprod := rfl
@[simp] theorem Ctx.perfAdd_evcons (k : Ctx) (l n b : Nat) : (k.perfAdd l n b).evcons = k.evcons := rfl
@[simp] theorem Ctx.perfAdd_doorbell (k : Ctx) (l n b : Nat) : (k.perfAdd l n b).doorbell = k.doorbell := rfl
@[simp] theorem Ctx.perfAdd_events (k : Ctx) (l n b : Nat) : (k.perfAdd l n b).events = k.events := rfl
@[simp] theorem Ctx.perfAdd_heldRecs (k : Ctx) (l n b : Nat) : (k.perfAdd l n b).heldRecs = k.heldRecs := rfl
@[simp] theorem Ctx.perfAdd_nextLaunch (k : Ctx) (l n b : Nat) : (k.perfAdd l n b).nextLaunch = k.nextLaunch := rfl
@[simp] theorem Ctx.perfAdd_born (k : Ctx) (l n b : Nat) : (k.perfAdd l n b).born = k.born := rfl
@[simp] theorem Ctx.perfAdd_launches (k : Ctx) (l n b : Nat) : (k.perfAdd l n b).launches = k.launches := rfl
@[simp] theorem Ctx.perfAdd_threads (k : Ctx) (l n b : Nat) : (k.perfAdd l n b).threads = k.threads := rfl
@[simp] theorem Ctx.perfAdd_placed (k : Ctx) (l n b : Nat) : (k.perfAdd l n b).placed = k.placed := rfl
@[simp] theorem Ctx.perfAdd_tokens (k : Ctx) (l n b : Nat) : (k.perfAdd l n b).tokens = k.tokens := rfl
@[simp] theorem Ctx.perfAdd_kept (k : Ctx) (l n b : Nat) : (k.perfAdd l n b).kept = k.kept := rfl
@[simp] theorem Ctx.perfAdd_vreds (k : Ctx) (l n b : Nat) : (k.perfAdd l n b).vreds = k.vreds := rfl
@[simp] theorem Ctx.perfAdd_committed (k : Ctx) (l n b : Nat) : (k.perfAdd l n b).committed = k.committed := rfl
@[simp] theorem Ctx.perfAdd_spilled (k : Ctx) (l n b : Nat) : (k.perfAdd l n b).spilled = k.spilled := rfl
@[simp] theorem Ctx.perfAdd_parks (k : Ctx) (l n b : Nat) : (k.perfAdd l n b).parks = k.parks := rfl
@[simp] theorem Ctx.perfAdd_arrs (k : Ctx) (l n b : Nat) : (k.perfAdd l n b).arrs = k.arrs := rfl
@[simp] theorem Ctx.perfAdd_gate (k : Ctx) (l n b : Nat) : (k.perfAdd l n b).gate = k.gate := rfl
@[simp] theorem Ctx.perfAdd_halted (k : Ctx) (l n b : Nat) : (k.perfAdd l n b).halted = k.halted := rfl
@[simp] theorem Ctx.perfAdd_wanted (k : Ctx) (l n b : Nat) : (k.perfAdd l n b).wanted = k.wanted := rfl
@[simp] theorem Ctx.perfAdd_steal (k : Ctx) (l n b : Nat) : (k.perfAdd l n b).steal = k.steal := rfl
@[simp] theorem Ctx.perfAdd_gated (k : Ctx) (l n b : Nat) : (k.perfAdd l n b).gated = k.gated := rfl
@[simp] theorem Ctx.perfAdd_discards (k : Ctx) (l n b : Nat) : (k.perfAdd l n b).discards = k.discards := rfl
@[simp] theorem Ctx.charge_num (k : Ctx) (u c e : Nat) : (k.charge u c e).num = k.num := rfl
@[simp] theorem Ctx.charge_flt (k : Ctx) (u c e : Nat) : (k.charge u c e).flt = k.flt := rfl
@[simp] theorem Ctx.charge_stalled (k : Ctx) (u c e : Nat) : (k.charge u c e).stalled = k.stalled := rfl
@[simp] theorem Ctx.charge_capchg (k : Ctx) (u c e : Nat) : (k.charge u c e).capchg = k.capchg := rfl
@[simp] theorem Ctx.charge_forced (k : Ctx) (u c e : Nat) : (k.charge u c e).forced = k.forced := rfl
@[simp] theorem Ctx.charge_preempt (k : Ctx) (u c e : Nat) : (k.charge u c e).preempt = k.preempt := rfl
@[simp] theorem Ctx.charge_state (k : Ctx) (u c e : Nat) : (k.charge u c e).state = k.state := rfl
@[simp] theorem Ctx.charge_priomax (k : Ctx) (u c e : Nat) : (k.charge u c e).priomax = k.priomax := rfl
@[simp] theorem Ctx.charge_fpflags (k : Ctx) (u c e : Nat) : (k.charge u c e).fpflags = k.fpflags := rfl
@[simp] theorem Ctx.charge_fpend (k : Ctx) (u c e : Nat) : (k.charge u c e).fpend = k.fpend := rfl
@[simp] theorem Ctx.charge_sel (k : Ctx) (u c e : Nat) : (k.charge u c e).sel = k.sel := rfl
@[simp] theorem Ctx.charge_gen (k : Ctx) (u c e : Nat) : (k.charge u c e).gen = k.gen := rfl
@[simp] theorem Ctx.charge_fqb (k : Ctx) (u c e : Nat) : (k.charge u c e).fqb = k.fqb := rfl
@[simp] theorem Ctx.charge_capqb (k : Ctx) (u c e : Nat) : (k.charge u c e).capqb = k.capqb := rfl
@[simp] theorem Ctx.charge_avail (k : Ctx) (u c e : Nat) : (k.charge u c e).avail = k.avail := rfl
@[simp] theorem Ctx.charge_lcount (k : Ctx) (u c e : Nat) : (k.charge u c e).lcount = k.lcount := rfl
@[simp] theorem Ctx.charge_spine (k : Ctx) (u c e : Nat) : (k.charge u c e).spine = k.spine := rfl
@[simp] theorem Ctx.charge_ovf (k : Ctx) (u c e : Nat) : (k.charge u c e).ovf = k.ovf := rfl
@[simp] theorem Ctx.charge_desc (k : Ctx) (u c e : Nat) : (k.charge u c e).desc = k.desc := rfl
@[simp] theorem Ctx.charge_dreg (k : Ctx) (u c e : Nat) : (k.charge u c e).dreg = k.dreg := rfl
@[simp] theorem Ctx.charge_pmap (k : Ctx) (u c e : Nat) : (k.charge u c e).pmap = k.pmap := rfl
@[simp] theorem Ctx.charge_pins (k : Ctx) (u c e : Nat) : (k.charge u c e).pins = k.pins := rfl
@[simp] theorem Ctx.charge_savedPins (k : Ctx) (u c e : Nat) : (k.charge u c e).savedPins = k.savedPins := rfl
@[simp] theorem Ctx.charge_binds (k : Ctx) (u c e : Nat) : (k.charge u c e).binds = k.binds := rfl
@[simp] theorem Ctx.charge_ksel (k : Ctx) (u c e : Nat) : (k.charge u c e).ksel = k.ksel := rfl
@[simp] theorem Ctx.charge_logs (k : Ctx) (u c e : Nat) : (k.charge u c e).logs = k.logs := rfl
@[simp] theorem Ctx.charge_energy (k : Ctx) (u c e : Nat) : (k.charge u c e).energy = k.energy := rfl
@[simp] theorem Ctx.charge_pq (k : Ctx) (u c e : Nat) : (k.charge u c e).pq = k.pq := rfl
@[simp] theorem Ctx.charge_cmdprod (k : Ctx) (u c e : Nat) : (k.charge u c e).cmdprod = k.cmdprod := rfl
@[simp] theorem Ctx.charge_cmdcons (k : Ctx) (u c e : Nat) : (k.charge u c e).cmdcons = k.cmdcons := rfl
@[simp] theorem Ctx.charge_evprod (k : Ctx) (u c e : Nat) : (k.charge u c e).evprod = k.evprod := rfl
@[simp] theorem Ctx.charge_evcons (k : Ctx) (u c e : Nat) : (k.charge u c e).evcons = k.evcons := rfl
@[simp] theorem Ctx.charge_doorbell (k : Ctx) (u c e : Nat) : (k.charge u c e).doorbell = k.doorbell := rfl
@[simp] theorem Ctx.charge_events (k : Ctx) (u c e : Nat) : (k.charge u c e).events = k.events := rfl
@[simp] theorem Ctx.charge_heldRecs (k : Ctx) (u c e : Nat) : (k.charge u c e).heldRecs = k.heldRecs := rfl
@[simp] theorem Ctx.charge_nextLaunch (k : Ctx) (u c e : Nat) : (k.charge u c e).nextLaunch = k.nextLaunch := rfl
@[simp] theorem Ctx.charge_born (k : Ctx) (u c e : Nat) : (k.charge u c e).born = k.born := rfl
@[simp] theorem Ctx.charge_launches (k : Ctx) (u c e : Nat) : (k.charge u c e).launches = k.launches := rfl
@[simp] theorem Ctx.charge_threads (k : Ctx) (u c e : Nat) : (k.charge u c e).threads = k.threads := rfl
@[simp] theorem Ctx.charge_placed (k : Ctx) (u c e : Nat) : (k.charge u c e).placed = k.placed := rfl
@[simp] theorem Ctx.charge_tokens (k : Ctx) (u c e : Nat) : (k.charge u c e).tokens = k.tokens := rfl
@[simp] theorem Ctx.charge_kept (k : Ctx) (u c e : Nat) : (k.charge u c e).kept = k.kept := rfl
@[simp] theorem Ctx.charge_vreds (k : Ctx) (u c e : Nat) : (k.charge u c e).vreds = k.vreds := rfl
@[simp] theorem Ctx.charge_committed (k : Ctx) (u c e : Nat) : (k.charge u c e).committed = k.committed := rfl
@[simp] theorem Ctx.charge_spilled (k : Ctx) (u c e : Nat) : (k.charge u c e).spilled = k.spilled := rfl
@[simp] theorem Ctx.charge_shares (k : Ctx) (u c e : Nat) : (k.charge u c e).shares = k.shares := rfl
@[simp] theorem Ctx.charge_parks (k : Ctx) (u c e : Nat) : (k.charge u c e).parks = k.parks := rfl
@[simp] theorem Ctx.charge_arrs (k : Ctx) (u c e : Nat) : (k.charge u c e).arrs = k.arrs := rfl
@[simp] theorem Ctx.charge_gate (k : Ctx) (u c e : Nat) : (k.charge u c e).gate = k.gate := rfl
@[simp] theorem Ctx.charge_halted (k : Ctx) (u c e : Nat) : (k.charge u c e).halted = k.halted := rfl
@[simp] theorem Ctx.charge_wanted (k : Ctx) (u c e : Nat) : (k.charge u c e).wanted = k.wanted := rfl
@[simp] theorem Ctx.charge_steal (k : Ctx) (u c e : Nat) : (k.charge u c e).steal = k.steal := rfl
@[simp] theorem Ctx.charge_gated (k : Ctx) (u c e : Nat) : (k.charge u c e).gated = k.gated := rfl
@[simp] theorem Ctx.charge_discards (k : Ctx) (u c e : Nat) : (k.charge u c e).discards = k.discards := rfl
@[simp] theorem Ctx.touchBlock_num (k : Ctx) (p : Placed) (n : Nat) : (k.touchBlock p n).num = k.num := rfl
@[simp] theorem Ctx.touchBlock_flt (k : Ctx) (p : Placed) (n : Nat) : (k.touchBlock p n).flt = k.flt := rfl
@[simp] theorem Ctx.touchBlock_stalled (k : Ctx) (p : Placed) (n : Nat) : (k.touchBlock p n).stalled = k.stalled := rfl
@[simp] theorem Ctx.touchBlock_capchg (k : Ctx) (p : Placed) (n : Nat) : (k.touchBlock p n).capchg = k.capchg := rfl
@[simp] theorem Ctx.touchBlock_forced (k : Ctx) (p : Placed) (n : Nat) : (k.touchBlock p n).forced = k.forced := rfl
@[simp] theorem Ctx.touchBlock_preempt (k : Ctx) (p : Placed) (n : Nat) : (k.touchBlock p n).preempt = k.preempt := rfl
@[simp] theorem Ctx.touchBlock_state (k : Ctx) (p : Placed) (n : Nat) : (k.touchBlock p n).state = k.state := rfl
@[simp] theorem Ctx.touchBlock_priomax (k : Ctx) (p : Placed) (n : Nat) : (k.touchBlock p n).priomax = k.priomax := rfl
@[simp] theorem Ctx.touchBlock_fpflags (k : Ctx) (p : Placed) (n : Nat) : (k.touchBlock p n).fpflags = k.fpflags := rfl
@[simp] theorem Ctx.touchBlock_fpend (k : Ctx) (p : Placed) (n : Nat) : (k.touchBlock p n).fpend = k.fpend := rfl
@[simp] theorem Ctx.touchBlock_sel (k : Ctx) (p : Placed) (n : Nat) : (k.touchBlock p n).sel = k.sel := rfl
@[simp] theorem Ctx.touchBlock_gen (k : Ctx) (p : Placed) (n : Nat) : (k.touchBlock p n).gen = k.gen := rfl
@[simp] theorem Ctx.touchBlock_fqb (k : Ctx) (p : Placed) (n : Nat) : (k.touchBlock p n).fqb = k.fqb := rfl
@[simp] theorem Ctx.touchBlock_capqb (k : Ctx) (p : Placed) (n : Nat) : (k.touchBlock p n).capqb = k.capqb := rfl
@[simp] theorem Ctx.touchBlock_avail (k : Ctx) (p : Placed) (n : Nat) : (k.touchBlock p n).avail = k.avail := rfl
@[simp] theorem Ctx.touchBlock_lcount (k : Ctx) (p : Placed) (n : Nat) : (k.touchBlock p n).lcount = k.lcount := rfl
@[simp] theorem Ctx.touchBlock_spine (k : Ctx) (p : Placed) (n : Nat) : (k.touchBlock p n).spine = k.spine := rfl
@[simp] theorem Ctx.touchBlock_ovf (k : Ctx) (p : Placed) (n : Nat) : (k.touchBlock p n).ovf = k.ovf := rfl
@[simp] theorem Ctx.touchBlock_desc (k : Ctx) (p : Placed) (n : Nat) : (k.touchBlock p n).desc = k.desc := rfl
@[simp] theorem Ctx.touchBlock_dreg (k : Ctx) (p : Placed) (n : Nat) : (k.touchBlock p n).dreg = k.dreg := rfl
@[simp] theorem Ctx.touchBlock_pmap (k : Ctx) (p : Placed) (n : Nat) : (k.touchBlock p n).pmap = k.pmap := rfl
@[simp] theorem Ctx.touchBlock_pins (k : Ctx) (p : Placed) (n : Nat) : (k.touchBlock p n).pins = k.pins := rfl
@[simp] theorem Ctx.touchBlock_savedPins (k : Ctx) (p : Placed) (n : Nat) : (k.touchBlock p n).savedPins = k.savedPins := rfl
@[simp] theorem Ctx.touchBlock_binds (k : Ctx) (p : Placed) (n : Nat) : (k.touchBlock p n).binds = k.binds := rfl
@[simp] theorem Ctx.touchBlock_ksel (k : Ctx) (p : Placed) (n : Nat) : (k.touchBlock p n).ksel = k.ksel := rfl
@[simp] theorem Ctx.touchBlock_logs (k : Ctx) (p : Placed) (n : Nat) : (k.touchBlock p n).logs = k.logs := rfl
@[simp] theorem Ctx.touchBlock_energy (k : Ctx) (p : Placed) (n : Nat) : (k.touchBlock p n).energy = k.energy := rfl
@[simp] theorem Ctx.touchBlock_unfolded (k : Ctx) (p : Placed) (n : Nat) : (k.touchBlock p n).unfolded = k.unfolded := rfl
@[simp] theorem Ctx.touchBlock_pq (k : Ctx) (p : Placed) (n : Nat) : (k.touchBlock p n).pq = k.pq := rfl
@[simp] theorem Ctx.touchBlock_cmdprod (k : Ctx) (p : Placed) (n : Nat) : (k.touchBlock p n).cmdprod = k.cmdprod := rfl
@[simp] theorem Ctx.touchBlock_cmdcons (k : Ctx) (p : Placed) (n : Nat) : (k.touchBlock p n).cmdcons = k.cmdcons := rfl
@[simp] theorem Ctx.touchBlock_evprod (k : Ctx) (p : Placed) (n : Nat) : (k.touchBlock p n).evprod = k.evprod := rfl
@[simp] theorem Ctx.touchBlock_evcons (k : Ctx) (p : Placed) (n : Nat) : (k.touchBlock p n).evcons = k.evcons := rfl
@[simp] theorem Ctx.touchBlock_doorbell (k : Ctx) (p : Placed) (n : Nat) : (k.touchBlock p n).doorbell = k.doorbell := rfl
@[simp] theorem Ctx.touchBlock_events (k : Ctx) (p : Placed) (n : Nat) : (k.touchBlock p n).events = k.events := rfl
@[simp] theorem Ctx.touchBlock_heldRecs (k : Ctx) (p : Placed) (n : Nat) : (k.touchBlock p n).heldRecs = k.heldRecs := rfl
@[simp] theorem Ctx.touchBlock_nextLaunch (k : Ctx) (p : Placed) (n : Nat) : (k.touchBlock p n).nextLaunch = k.nextLaunch := rfl
@[simp] theorem Ctx.touchBlock_born (k : Ctx) (p : Placed) (n : Nat) : (k.touchBlock p n).born = k.born := rfl
@[simp] theorem Ctx.touchBlock_launches (k : Ctx) (p : Placed) (n : Nat) : (k.touchBlock p n).launches = k.launches := rfl
@[simp] theorem Ctx.touchBlock_threads (k : Ctx) (p : Placed) (n : Nat) : (k.touchBlock p n).threads = k.threads := rfl
@[simp] theorem Ctx.touchBlock_tokens (k : Ctx) (p : Placed) (n : Nat) : (k.touchBlock p n).tokens = k.tokens := rfl
@[simp] theorem Ctx.touchBlock_kept (k : Ctx) (p : Placed) (n : Nat) : (k.touchBlock p n).kept = k.kept := rfl
@[simp] theorem Ctx.touchBlock_vreds (k : Ctx) (p : Placed) (n : Nat) : (k.touchBlock p n).vreds = k.vreds := rfl
@[simp] theorem Ctx.touchBlock_committed (k : Ctx) (p : Placed) (n : Nat) : (k.touchBlock p n).committed = k.committed := rfl
@[simp] theorem Ctx.touchBlock_spilled (k : Ctx) (p : Placed) (n : Nat) : (k.touchBlock p n).spilled = k.spilled := rfl
@[simp] theorem Ctx.touchBlock_shares (k : Ctx) (p : Placed) (n : Nat) : (k.touchBlock p n).shares = k.shares := rfl
@[simp] theorem Ctx.touchBlock_parks (k : Ctx) (p : Placed) (n : Nat) : (k.touchBlock p n).parks = k.parks := rfl
@[simp] theorem Ctx.touchBlock_arrs (k : Ctx) (p : Placed) (n : Nat) : (k.touchBlock p n).arrs = k.arrs := rfl
@[simp] theorem Ctx.touchBlock_gate (k : Ctx) (p : Placed) (n : Nat) : (k.touchBlock p n).gate = k.gate := rfl
@[simp] theorem Ctx.touchBlock_halted (k : Ctx) (p : Placed) (n : Nat) : (k.touchBlock p n).halted = k.halted := rfl
@[simp] theorem Ctx.touchBlock_wanted (k : Ctx) (p : Placed) (n : Nat) : (k.touchBlock p n).wanted = k.wanted := rfl
@[simp] theorem Ctx.touchBlock_steal (k : Ctx) (p : Placed) (n : Nat) : (k.touchBlock p n).steal = k.steal := rfl
@[simp] theorem Ctx.touchBlock_gated (k : Ctx) (p : Placed) (n : Nat) : (k.touchBlock p n).gated = k.gated := rfl
@[simp] theorem Ctx.touchBlock_discards (k : Ctx) (p : Placed) (n : Nat) : (k.touchBlock p n).discards = k.discards := rfl
@[simp] theorem Ctx.modDom_num (k : Ctx) (l d : Nat) (f : Dom → Dom) : (k.modDom l d f).num = k.num := rfl
@[simp] theorem Ctx.modDom_flt (k : Ctx) (l d : Nat) (f : Dom → Dom) : (k.modDom l d f).flt = k.flt := rfl
@[simp] theorem Ctx.modDom_stalled (k : Ctx) (l d : Nat) (f : Dom → Dom) : (k.modDom l d f).stalled = k.stalled := rfl
@[simp] theorem Ctx.modDom_capchg (k : Ctx) (l d : Nat) (f : Dom → Dom) : (k.modDom l d f).capchg = k.capchg := rfl
@[simp] theorem Ctx.modDom_forced (k : Ctx) (l d : Nat) (f : Dom → Dom) : (k.modDom l d f).forced = k.forced := rfl
@[simp] theorem Ctx.modDom_preempt (k : Ctx) (l d : Nat) (f : Dom → Dom) : (k.modDom l d f).preempt = k.preempt := rfl
@[simp] theorem Ctx.modDom_state (k : Ctx) (l d : Nat) (f : Dom → Dom) : (k.modDom l d f).state = k.state := rfl
@[simp] theorem Ctx.modDom_priomax (k : Ctx) (l d : Nat) (f : Dom → Dom) : (k.modDom l d f).priomax = k.priomax := rfl
@[simp] theorem Ctx.modDom_fpflags (k : Ctx) (l d : Nat) (f : Dom → Dom) : (k.modDom l d f).fpflags = k.fpflags := rfl
@[simp] theorem Ctx.modDom_fpend (k : Ctx) (l d : Nat) (f : Dom → Dom) : (k.modDom l d f).fpend = k.fpend := rfl
@[simp] theorem Ctx.modDom_sel (k : Ctx) (l d : Nat) (f : Dom → Dom) : (k.modDom l d f).sel = k.sel := rfl
@[simp] theorem Ctx.modDom_gen (k : Ctx) (l d : Nat) (f : Dom → Dom) : (k.modDom l d f).gen = k.gen := rfl
@[simp] theorem Ctx.modDom_fqb (k : Ctx) (l d : Nat) (f : Dom → Dom) : (k.modDom l d f).fqb = k.fqb := rfl
@[simp] theorem Ctx.modDom_capqb (k : Ctx) (l d : Nat) (f : Dom → Dom) : (k.modDom l d f).capqb = k.capqb := rfl
@[simp] theorem Ctx.modDom_avail (k : Ctx) (l d : Nat) (f : Dom → Dom) : (k.modDom l d f).avail = k.avail := rfl
@[simp] theorem Ctx.modDom_lcount (k : Ctx) (l d : Nat) (f : Dom → Dom) : (k.modDom l d f).lcount = k.lcount := rfl
@[simp] theorem Ctx.modDom_spine (k : Ctx) (l d : Nat) (f : Dom → Dom) : (k.modDom l d f).spine = k.spine := rfl
@[simp] theorem Ctx.modDom_ovf (k : Ctx) (l d : Nat) (f : Dom → Dom) : (k.modDom l d f).ovf = k.ovf := rfl
@[simp] theorem Ctx.modDom_desc (k : Ctx) (l d : Nat) (f : Dom → Dom) : (k.modDom l d f).desc = k.desc := rfl
@[simp] theorem Ctx.modDom_dreg (k : Ctx) (l d : Nat) (f : Dom → Dom) : (k.modDom l d f).dreg = k.dreg := rfl
@[simp] theorem Ctx.modDom_pmap (k : Ctx) (l d : Nat) (f : Dom → Dom) : (k.modDom l d f).pmap = k.pmap := rfl
@[simp] theorem Ctx.modDom_pins (k : Ctx) (l d : Nat) (f : Dom → Dom) : (k.modDom l d f).pins = k.pins := rfl
@[simp] theorem Ctx.modDom_savedPins (k : Ctx) (l d : Nat) (f : Dom → Dom) : (k.modDom l d f).savedPins = k.savedPins := rfl
@[simp] theorem Ctx.modDom_binds (k : Ctx) (l d : Nat) (f : Dom → Dom) : (k.modDom l d f).binds = k.binds := rfl
@[simp] theorem Ctx.modDom_ksel (k : Ctx) (l d : Nat) (f : Dom → Dom) : (k.modDom l d f).ksel = k.ksel := rfl
@[simp] theorem Ctx.modDom_logs (k : Ctx) (l d : Nat) (f : Dom → Dom) : (k.modDom l d f).logs = k.logs := rfl
@[simp] theorem Ctx.modDom_energy (k : Ctx) (l d : Nat) (f : Dom → Dom) : (k.modDom l d f).energy = k.energy := rfl
@[simp] theorem Ctx.modDom_unfolded (k : Ctx) (l d : Nat) (f : Dom → Dom) : (k.modDom l d f).unfolded = k.unfolded := rfl
@[simp] theorem Ctx.modDom_pq (k : Ctx) (l d : Nat) (f : Dom → Dom) : (k.modDom l d f).pq = k.pq := rfl
@[simp] theorem Ctx.modDom_cmdprod (k : Ctx) (l d : Nat) (f : Dom → Dom) : (k.modDom l d f).cmdprod = k.cmdprod := rfl
@[simp] theorem Ctx.modDom_cmdcons (k : Ctx) (l d : Nat) (f : Dom → Dom) : (k.modDom l d f).cmdcons = k.cmdcons := rfl
@[simp] theorem Ctx.modDom_evprod (k : Ctx) (l d : Nat) (f : Dom → Dom) : (k.modDom l d f).evprod = k.evprod := rfl
@[simp] theorem Ctx.modDom_evcons (k : Ctx) (l d : Nat) (f : Dom → Dom) : (k.modDom l d f).evcons = k.evcons := rfl
@[simp] theorem Ctx.modDom_doorbell (k : Ctx) (l d : Nat) (f : Dom → Dom) : (k.modDom l d f).doorbell = k.doorbell := rfl
@[simp] theorem Ctx.modDom_events (k : Ctx) (l d : Nat) (f : Dom → Dom) : (k.modDom l d f).events = k.events := rfl
@[simp] theorem Ctx.modDom_heldRecs (k : Ctx) (l d : Nat) (f : Dom → Dom) : (k.modDom l d f).heldRecs = k.heldRecs := rfl
@[simp] theorem Ctx.modDom_nextLaunch (k : Ctx) (l d : Nat) (f : Dom → Dom) : (k.modDom l d f).nextLaunch = k.nextLaunch := rfl
@[simp] theorem Ctx.modDom_born (k : Ctx) (l d : Nat) (f : Dom → Dom) : (k.modDom l d f).born = k.born := rfl
@[simp] theorem Ctx.modDom_launches (k : Ctx) (l d : Nat) (f : Dom → Dom) : (k.modDom l d f).launches = k.launches := rfl
@[simp] theorem Ctx.modDom_threads (k : Ctx) (l d : Nat) (f : Dom → Dom) : (k.modDom l d f).threads = k.threads := rfl
@[simp] theorem Ctx.modDom_placed (k : Ctx) (l d : Nat) (f : Dom → Dom) : (k.modDom l d f).placed = k.placed := rfl
@[simp] theorem Ctx.modDom_tokens (k : Ctx) (l d : Nat) (f : Dom → Dom) : (k.modDom l d f).tokens = k.tokens := rfl
@[simp] theorem Ctx.modDom_kept (k : Ctx) (l d : Nat) (f : Dom → Dom) : (k.modDom l d f).kept = k.kept := rfl
@[simp] theorem Ctx.modDom_vreds (k : Ctx) (l d : Nat) (f : Dom → Dom) : (k.modDom l d f).vreds = k.vreds := rfl
@[simp] theorem Ctx.modDom_committed (k : Ctx) (l d : Nat) (f : Dom → Dom) : (k.modDom l d f).committed = k.committed := rfl
@[simp] theorem Ctx.modDom_spilled (k : Ctx) (l d : Nat) (f : Dom → Dom) : (k.modDom l d f).spilled = k.spilled := rfl
@[simp] theorem Ctx.modDom_parks (k : Ctx) (l d : Nat) (f : Dom → Dom) : (k.modDom l d f).parks = k.parks := rfl
@[simp] theorem Ctx.modDom_arrs (k : Ctx) (l d : Nat) (f : Dom → Dom) : (k.modDom l d f).arrs = k.arrs := rfl
@[simp] theorem Ctx.modDom_gate (k : Ctx) (l d : Nat) (f : Dom → Dom) : (k.modDom l d f).gate = k.gate := rfl
@[simp] theorem Ctx.modDom_halted (k : Ctx) (l d : Nat) (f : Dom → Dom) : (k.modDom l d f).halted = k.halted := rfl
@[simp] theorem Ctx.modDom_wanted (k : Ctx) (l d : Nat) (f : Dom → Dom) : (k.modDom l d f).wanted = k.wanted := rfl
@[simp] theorem Ctx.modDom_steal (k : Ctx) (l d : Nat) (f : Dom → Dom) : (k.modDom l d f).steal = k.steal := rfl
@[simp] theorem Ctx.modDom_gated (k : Ctx) (l d : Nat) (f : Dom → Dom) : (k.modDom l d f).gated = k.gated := rfl
@[simp] theorem Ctx.modDom_discards (k : Ctx) (l d : Nat) (f : Dom → Dom) : (k.modDom l d f).discards = k.discards := rfl

/-! ### A thread, a share, a domain -/

@[simp] theorem Thread.modWv_num (x : Thread) (w : WaveId) (f : Wave → Wave) : (x.modWv w f).num = x.num := rfl
@[simp] theorem Thread.modWv_state (x : Thread) (w : WaveId) (f : Wave → Wave) : (x.modWv w f).state = x.state := rfl
@[simp] theorem Thread.modWv_ln (x : Thread) (w : WaveId) (f : Wave → Wave) : (x.modWv w f).ln = x.ln := rfl
@[simp] theorem Thread.modWv_lcl (x : Thread) (w : WaveId) (f : Wave → Wave) : (x.modWv w f).lcl = x.lcl := rfl
@[simp] theorem Thread.modWv_born (x : Thread) (w : WaveId) (f : Wave → Wave) : (x.modWv w f).born = x.born := rfl
@[simp] theorem Thread.modWv_idx (x : Thread) (w : WaveId) (f : Wave → Wave) : (x.modWv w f).idx = x.idx := rfl
@[simp] theorem Thread.modWv_skips (x : Thread) (w : WaveId) (f : Wave → Wave) : (x.modWv w f).skips = x.skips := rfl
@[simp] theorem Thread.modWv_last (x : Thread) (w : WaveId) (f : Wave → Wave) : (x.modWv w f).last = x.last := rfl
@[simp] theorem Thread.modWv_lastBlk (x : Thread) (w : WaveId) (f : Wave → Wave) : (x.modWv w f).lastBlk = x.lastBlk := rfl
@[simp] theorem Thread.modWv_fault (x : Thread) (w : WaveId) (f : Wave → Wave) : (x.modWv w f).fault = x.fault := rfl
@[simp] theorem Thread.modWv_delivered (x : Thread) (w : WaveId) (f : Wave → Wave) : (x.modWv w f).delivered = x.delivered := rfl
@[simp] theorem Thread.modWv_seqNo (x : Thread) (w : WaveId) (f : Wave → Wave) : (x.modWv w f).seqNo = x.seqNo := rfl
@[simp] theorem Thread.modWv_dropped (x : Thread) (w : WaveId) (f : Wave → Wave) : (x.modWv w f).dropped = x.dropped := rfl
@[simp] theorem Share.setGran_lcl (h : Share) (g : Nat) (x : Gran) : (h.setGran g x).lcl = h.lcl := rfl
@[simp] theorem Share.setGran_bytes (h : Share) (g : Nat) (x : Gran) : (h.setGran g x).bytes = h.bytes := rfl
@[simp] theorem Share.setGran_engine (h : Share) (g : Nat) (x : Gran) : (h.setGran g x).engine = h.engine := rfl
@[simp] theorem Share.setGran_ownRes (h : Share) (g : Nat) (x : Gran) : (h.setGran g x).ownRes = h.ownRes := rfl
@[simp] theorem Share.setGran_rings (h : Share) (g : Nat) (x : Gran) : (h.setGran g x).rings = h.rings := rfl
@[simp] theorem Share.setGran_chime (h : Share) (g : Nat) (x : Gran) : (h.setGran g x).chime = h.chime := rfl
@[simp] theorem Share.setGran_agens (h : Share) (g : Nat) (x : Gran) : (h.setGran g x).agens = h.agens := rfl
@[simp] theorem Share.setGran_drums (h : Share) (g : Nat) (x : Gran) : (h.setGran g x).drums = h.drums := rfl
@[simp] theorem Share.setGran_doms (h : Share) (g : Nat) (x : Gran) : (h.setGran g x).doms = h.doms := rfl
@[simp] theorem Share.setGran_cmds (h : Share) (g : Nat) (x : Gran) : (h.setGran g x).cmds = h.cmds := rfl
@[simp] theorem Share.setGran_perf (h : Share) (g : Nat) (x : Gran) : (h.setGran g x).perf = h.perf := rfl
@[simp] theorem Share.setGran_gated (h : Share) (g : Nat) (x : Gran) : (h.setGran g x).gated = h.gated := rfl
@[simp] theorem Share.setGran_moveTo (h : Share) (g : Nat) (x : Gran) : (h.setGran g x).moveTo = h.moveTo := rfl
@[simp] theorem Share.setRing_lcl (h : Share) (n : Nat) (r : Ring) : (h.setRing n r).lcl = h.lcl := rfl
@[simp] theorem Share.setRing_bytes (h : Share) (n : Nat) (r : Ring) : (h.setRing n r).bytes = h.bytes := rfl
@[simp] theorem Share.setRing_grans (h : Share) (n : Nat) (r : Ring) : (h.setRing n r).grans = h.grans := rfl
@[simp] theorem Share.setRing_engine (h : Share) (n : Nat) (r : Ring) : (h.setRing n r).engine = h.engine := rfl
@[simp] theorem Share.setRing_ownRes (h : Share) (n : Nat) (r : Ring) : (h.setRing n r).ownRes = h.ownRes := rfl
@[simp] theorem Share.setRing_chime (h : Share) (n : Nat) (r : Ring) : (h.setRing n r).chime = h.chime := rfl
@[simp] theorem Share.setRing_agens (h : Share) (n : Nat) (r : Ring) : (h.setRing n r).agens = h.agens := rfl
@[simp] theorem Share.setRing_drums (h : Share) (n : Nat) (r : Ring) : (h.setRing n r).drums = h.drums := rfl
@[simp] theorem Share.setRing_doms (h : Share) (n : Nat) (r : Ring) : (h.setRing n r).doms = h.doms := rfl
@[simp] theorem Share.setRing_cmds (h : Share) (n : Nat) (r : Ring) : (h.setRing n r).cmds = h.cmds := rfl
@[simp] theorem Share.setRing_perf (h : Share) (n : Nat) (r : Ring) : (h.setRing n r).perf = h.perf := rfl
@[simp] theorem Share.setRing_gated (h : Share) (n : Nat) (r : Ring) : (h.setRing n r).gated = h.gated := rfl
@[simp] theorem Share.setRing_moveTo (h : Share) (n : Nat) (r : Ring) : (h.setRing n r).moveTo = h.moveTo := rfl
@[simp] theorem Share.setDom_lcl (h : Share) (d : Nat) (x : Dom) : (h.setDom d x).lcl = h.lcl := rfl
@[simp] theorem Share.setDom_bytes (h : Share) (d : Nat) (x : Dom) : (h.setDom d x).bytes = h.bytes := rfl
@[simp] theorem Share.setDom_grans (h : Share) (d : Nat) (x : Dom) : (h.setDom d x).grans = h.grans := rfl
@[simp] theorem Share.setDom_engine (h : Share) (d : Nat) (x : Dom) : (h.setDom d x).engine = h.engine := rfl
@[simp] theorem Share.setDom_ownRes (h : Share) (d : Nat) (x : Dom) : (h.setDom d x).ownRes = h.ownRes := rfl
@[simp] theorem Share.setDom_rings (h : Share) (d : Nat) (x : Dom) : (h.setDom d x).rings = h.rings := rfl
@[simp] theorem Share.setDom_chime (h : Share) (d : Nat) (x : Dom) : (h.setDom d x).chime = h.chime := rfl
@[simp] theorem Share.setDom_agens (h : Share) (d : Nat) (x : Dom) : (h.setDom d x).agens = h.agens := rfl
@[simp] theorem Share.setDom_drums (h : Share) (d : Nat) (x : Dom) : (h.setDom d x).drums = h.drums := rfl
@[simp] theorem Share.setDom_cmds (h : Share) (d : Nat) (x : Dom) : (h.setDom d x).cmds = h.cmds := rfl
@[simp] theorem Share.setDom_perf (h : Share) (d : Nat) (x : Dom) : (h.setDom d x).perf = h.perf := rfl
@[simp] theorem Share.setDom_gated (h : Share) (d : Nat) (x : Dom) : (h.setDom d x).gated = h.gated := rfl
@[simp] theorem Share.setDom_moveTo (h : Share) (d : Nat) (x : Dom) : (h.setDom d x).moveTo = h.moveTo := rfl
@[simp] theorem Share.ringHead_lcl (h : Share) (n b : Nat) : (h.ringHead n b).lcl = h.lcl := rfl
@[simp] theorem Share.ringHead_bytes (h : Share) (n b : Nat) : (h.ringHead n b).bytes = h.bytes := rfl
@[simp] theorem Share.ringHead_grans (h : Share) (n b : Nat) : (h.ringHead n b).grans = h.grans := rfl
@[simp] theorem Share.ringHead_engine (h : Share) (n b : Nat) : (h.ringHead n b).engine = h.engine := rfl
@[simp] theorem Share.ringHead_ownRes (h : Share) (n b : Nat) : (h.ringHead n b).ownRes = h.ownRes := rfl
@[simp] theorem Share.ringHead_chime (h : Share) (n b : Nat) : (h.ringHead n b).chime = h.chime := rfl
@[simp] theorem Share.ringHead_agens (h : Share) (n b : Nat) : (h.ringHead n b).agens = h.agens := rfl
@[simp] theorem Share.ringHead_drums (h : Share) (n b : Nat) : (h.ringHead n b).drums = h.drums := rfl
@[simp] theorem Share.ringHead_doms (h : Share) (n b : Nat) : (h.ringHead n b).doms = h.doms := rfl
@[simp] theorem Share.ringHead_cmds (h : Share) (n b : Nat) : (h.ringHead n b).cmds = h.cmds := rfl
@[simp] theorem Share.ringHead_perf (h : Share) (n b : Nat) : (h.ringHead n b).perf = h.perf := rfl
@[simp] theorem Share.ringHead_gated (h : Share) (n b : Nat) : (h.ringHead n b).gated = h.gated := rfl
@[simp] theorem Share.ringHead_moveTo (h : Share) (n b : Nat) : (h.ringHead n b).moveTo = h.moveTo := rfl
@[simp] theorem Dom.setTile_mode (d : Dom) (t : Nat) (e : List (BitVec 64)) : (d.setTile t e).mode = d.mode := rfl
@[simp] theorem Dom.setTile_wsrc (d : Dom) (t : Nat) (e : List (BitVec 64)) : (d.setTile t e).wsrc = d.wsrc := rfl
@[simp] theorem Dom.setTile_wdesc (d : Dom) (t : Nat) (e : List (BitVec 64)) : (d.setTile t e).wdesc = d.wdesc := rfl
@[simp] theorem Dom.setTile_wdig (d : Dom) (t : Nat) (e : List (BitVec 64)) : (d.setTile t e).wdig = d.wdig := rfl
@[simp] theorem Dom.setTile_weights (d : Dom) (t : Nat) (e : List (BitVec 64)) : (d.setTile t e).weights = d.weights := rfl
@[simp] theorem Dom.setTile_cfgs (d : Dom) (t : Nat) (e : List (BitVec 64)) : (d.setTile t e).cfgs = d.cfgs := rfl
@[simp] theorem Dom.setTile_queue (d : Dom) (t : Nat) (e : List (BitVec 64)) : (d.setTile t e).queue = d.queue := rfl
@[simp] theorem Dom.setTile_dues (d : Dom) (t : Nat) (e : List (BitVec 64)) : (d.setTile t e).dues = d.dues := rfl
@[simp] theorem Dom.setCfg_mode (d : Dom) (t : Nat) (c : BitVec 64) : (d.setCfg t c).mode = d.mode := rfl
@[simp] theorem Dom.setCfg_wsrc (d : Dom) (t : Nat) (c : BitVec 64) : (d.setCfg t c).wsrc = d.wsrc := rfl
@[simp] theorem Dom.setCfg_wdesc (d : Dom) (t : Nat) (c : BitVec 64) : (d.setCfg t c).wdesc = d.wdesc := rfl
@[simp] theorem Dom.setCfg_wdig (d : Dom) (t : Nat) (c : BitVec 64) : (d.setCfg t c).wdig = d.wdig := rfl
@[simp] theorem Dom.setCfg_weights (d : Dom) (t : Nat) (c : BitVec 64) : (d.setCfg t c).weights = d.weights := rfl
@[simp] theorem Dom.setCfg_tiles (d : Dom) (t : Nat) (c : BitVec 64) : (d.setCfg t c).tiles = d.tiles := rfl
@[simp] theorem Dom.setCfg_queue (d : Dom) (t : Nat) (c : BitVec 64) : (d.setCfg t c).queue = d.queue := rfl
@[simp] theorem Dom.setCfg_dues (d : Dom) (t : Nat) (c : BitVec 64) : (d.setCfg t c).dues = d.dues := rfl

/-! ### Contexts -/

/-- What is found under a context number is the context of that number. -/
theorem ctx_num {s : State} {c : CtxId} {k : Ctx} (h : s.ctx c = some k) : k.num = c := by
  unfold State.ctx at h; simpa using List.find?_some h

theorem active_ctx {s : State} {c : CtxId} {k : Ctx} (h : s.active c = some k) : s.ctx c = some k ∧ k.active = true := by
  unfold State.active at h; simpa [Option.filter_eq_some_iff] using h

theorem active_num {s : State} {c : CtxId} {k : Ctx} (h : s.active c = some k) : k.num = c := ctx_num (active_ctx h).1

theorem ctx_setCtx {s : State} {c : CtxId} {k j : Ctx} (h : s.ctx c = some k) (hj : j.num = c) :
    (s.setCtx j).ctx c = some j := by
  unfold State.ctx State.setCtx at *
  subst hj
  simp only
  rw [find_updFirst _ _ (by simp), h]; rfl

theorem ctx_setCtx_other {s : State} {c : CtxId} {j : Ctx} (h : c ≠ j.num) : (s.setCtx j).ctx c = s.ctx c := by
  unfold State.ctx State.setCtx
  simp only
  rw [find_updFirst_other]
  intro x hx
  simp only [beq_iff_eq, beq_eq_false_iff_ne, ne_eq] at *
  exact ⟨fun e => h (by rw [← e, hx]), fun e => h e.symm⟩

theorem modCtx_some {s : State} {c : CtxId} {k : Ctx} {f : Ctx → Ctx} (h : s.ctx c = some k) :
    s.modCtx c f = s.setCtx (f k) := by
  unfold State.modCtx; rw [h]

theorem modActive_some {s : State} {c : CtxId} {k : Ctx} {f : Ctx → Ctx} (h : s.active c = some k) :
    s.modActive c f = s.setCtx (f k) := by
  unfold State.modActive; rw [h]

/-- A change of a context keeps its memory and what stands outside the contexts. -/
@[simp] theorem modCtx_mem (s : State) (c : CtxId) (f : Ctx → Ctx) : (s.modCtx c f).mem = s.mem := by
  unfold State.modCtx; split <;> rfl

@[simp] theorem modActive_mem (s : State) (c : CtxId) (f : Ctx → Ctx) : (s.modActive c f).mem = s.mem := by
  unfold State.modActive; split <;> rfl

theorem ctx_modCtx {s : State} {c : CtxId} {k : Ctx} {f : Ctx → Ctx} (h : s.ctx c = some k) (hf : (f k).num = k.num) :
    (s.modCtx c f).ctx c = some (f k) := by
  rw [modCtx_some h]; exact ctx_setCtx h (hf.trans (ctx_num h))

theorem ctx_modCtx_other {s : State} {c d : CtxId} {f : Ctx → Ctx} (hf : ∀ k, (f k).num = k.num) (h : d ≠ c) :
    (s.modCtx c f).ctx d = s.ctx d := by
  unfold State.modCtx
  split
  · rfl
  · rename_i k hk; exact ctx_setCtx_other (by rw [hf, ctx_num hk]; exact h)

theorem ctx_modActive {s : State} {c : CtxId} {k : Ctx} {f : Ctx → Ctx} (h : s.active c = some k) (hf : (f k).num = k.num) :
    (s.modActive c f).ctx c = some (f k) := by
  rw [modActive_some h]; exact ctx_setCtx (active_ctx h).1 (hf.trans (active_num h))

/-! ### Threads and waves -/

theorem th_num {k : Ctx} {t : ThreadId} {x : Thread} (h : k.th t = some x) : x.num = t := by
  unfold Ctx.th at h; simpa using List.find?_some h

theorem wv_num {x : Thread} {w : WaveId} {v : Wave} (h : x.wv w = some v) : v.num = w := by
  unfold Thread.wv at h; simpa using List.find?_some h

theorem th_modTh (k : Ctx) (t : ThreadId) {f : Thread → Thread} (hf : ∀ x, (f x).num = x.num) :
    (k.modTh t f).th t = (k.th t).map f := by
  unfold Ctx.modTh Ctx.th
  exact find_updFirst _ _ (by simp [hf]) _

theorem th_modTh_other (k : Ctx) {t u : ThreadId} {f : Thread → Thread} (hf : ∀ x, (f x).num = x.num) (h : u ≠ t) :
    (k.modTh t f).th u = k.th u := by
  unfold Ctx.modTh Ctx.th
  refine find_updFirst_other _ _ _ (fun x hx => ?_) _
  simp only [beq_iff_eq, beq_eq_false_iff_ne, ne_eq, hf] at *
  rw [hx]; exact ⟨Ne.symm h, Ne.symm h⟩

theorem th_setTh {k : Ctx} {x y : Thread} (h : k.th y.num = some x) : (k.setTh y).th y.num = some y := by
  unfold Ctx.setTh Ctx.th at *
  rw [find_updFirst _ _ (by simp), h]; rfl

theorem th_setTh_other (k : Ctx) {y : Thread} {u : ThreadId} (h : u ≠ y.num) : (k.setTh y).th u = k.th u := by
  unfold Ctx.setTh Ctx.th
  refine find_updFirst_other _ _ _ (fun x hx => ?_) _
  simp only [beq_iff_eq, beq_eq_false_iff_ne, ne_eq] at *
  rw [hx]; exact ⟨Ne.symm h, Ne.symm h⟩

theorem wv_modWv (x : Thread) (w : WaveId) {f : Wave → Wave} (hf : ∀ v, (f v).num = v.num) :
    (x.modWv w f).wv w = (x.wv w).map f := by
  unfold Thread.modWv Thread.wv
  exact find_updFirst _ _ (by simp [hf]) _

theorem wv_modWv_other (x : Thread) {w u : WaveId} {f : Wave → Wave} (hf : ∀ v, (f v).num = v.num) (h : u ≠ w) :
    (x.modWv w f).wv u = x.wv u := by
  unfold Thread.modWv Thread.wv
  refine find_updFirst_other _ _ _ (fun v hv => ?_) _
  simp only [beq_iff_eq, beq_eq_false_iff_ne, ne_eq, hf] at *
  rw [hv]; exact ⟨Ne.symm h, Ne.symm h⟩

theorem ctx_wv_modWv (k : Ctx) (t : ThreadId) (w : WaveId) {f : Wave → Wave} (hf : ∀ v, (f v).num = v.num) :
    (k.modWv t w f).wv t w = (k.wv t w).map f := by
  unfold Ctx.modWv Ctx.wv
  rw [th_modTh k t (f := fun x => x.modWv w f) (fun x => rfl)]
  cases k.th t with
  | none => rfl
  | some x => exact wv_modWv x w hf

/-! ### Shares -/

theorem share_lcl (k : Ctx) (l : Nat) : (k.share l).lcl = l := by
  unfold Ctx.share
  split
  · rename_i h hh; simpa using List.find?_some hh
  · rfl

theorem find_putShare (h : Share) (l : Nat) (hs : List Share) :
    (putShare h hs).find? (·.lcl == l) = if h.lcl = l then some h else hs.find? (·.lcl == l) := by
  induction hs with
  | nil => by_cases hl : h.lcl = l <;> simp [putShare, hl]
  | cons x r ih =>
    unfold putShare
    by_cases hl : h.lcl = l
    · split
      · simp [hl]
      · split
        · simp [hl]
        · rename_i h1 h2
          have hx : (x.lcl == l) = false := by simpa using fun e => h2 (hl.trans e.symm)
          rw [List.find?_cons, ih]; simp [hl, hx]
    · split
      · simp [hl]
      · split
        · rename_i h1 h2
          have hx : ¬ x.lcl = l := fun e => hl (h2.trans e)
          simp [hl, hx]
        · rw [List.find?_cons, ih]; simp only [hl, if_false]; rw [List.find?_cons]

theorem share_setShare (k : Ctx) (h : Share) (l : Nat) : (k.setShare h).share l = if h.lcl = l then h else k.share l := by
  unfold Ctx.share Ctx.setShare
  simp only [find_putShare]
  by_cases hl : h.lcl = l <;> simp [hl]

/-- A change of one share leaves every other. -/
theorem share_modShare (k : Ctx) (l m : Nat) {f : Share → Share} (hf : (f (k.share l)).lcl = l) :
    (k.modShare l f).share m = if m = l then f (k.share l) else k.share m := by
  unfold Ctx.modShare
  rw [share_setShare, hf]
  by_cases h : m = l
  · subst h; simp
  · simp [h, Ne.symm h]

theorem share_modShare_same (k : Ctx) (l : Nat) {f : Share → Share} (hf : (f (k.share l)).lcl = l) :
    (k.modShare l f).share l = f (k.share l) := by rw [share_modShare k l l hf, if_pos rfl]

theorem share_perfAdd (k : Ctx) (l n b m : Nat) :
    (k.perfAdd l n b).share m = if m = l then { k.share l with perf := tset (k.share l).perf n (tgetD (k.share l).perf n 0 + BitVec.ofNat 48 b) }
      else k.share m := by
  unfold Ctx.perfAdd; exact share_modShare k l m (share_lcl k l)

@[simp] theorem share_modTh (k : Ctx) (t : ThreadId) (f : Thread → Thread) (l : Nat) : (k.modTh t f).share l = k.share l := rfl
@[simp] theorem share_setTh (k : Ctx) (x : Thread) (l : Nat) : (k.setTh x).share l = k.share l := rfl
@[simp] theorem share_modWv (k : Ctx) (t : ThreadId) (w : WaveId) (f : Wave → Wave) (l : Nat) :
    (k.modWv t w f).share l = k.share l := rfl
@[simp] theorem share_modLn (k : Ctx) (n : BitVec 32) (f : Launch → Launch) (l : Nat) : (k.modLn n f).share l = k.share l := rfl
@[simp] theorem share_charge (k : Ctx) (u c e l : Nat) : (k.charge u c e).share l = k.share l := rfl
@[simp] theorem share_touchBlock (k : Ctx) (p : Placed) (n l : Nat) : (k.touchBlock p n).share l = k.share l := rfl

@[simp] theorem ring_setRing (h : Share) (n : Nat) (r : Ring) : (h.setRing n r).ring n = r := by
  unfold Share.ring Share.setRing; simp

theorem ring_setRing_other (h : Share) {n m : Nat} (r : Ring) (hm : m ≠ n) : (h.setRing n r).ring m = h.ring m := by
  unfold Share.ring Share.setRing; exact tgetD_tset_other _ _ _ hm

theorem dom_setDom (h : Share) (d e : Nat) (x : Dom) : (h.setDom d x).dom e = if e = d then x else h.dom e := by
  unfold Share.dom Share.setDom; exact tgetD_tset _ _ _ _ _

theorem dom_modDom (k : Ctx) (l d m e : Nat) (f : Dom → Dom) :
    (k.modDom l d f).dom m e = if m = l ∧ e = d then f (k.dom l d) else k.dom m e := by
  unfold Ctx.modDom Ctx.dom
  rw [share_modShare _ _ _ (share_lcl k l)]
  by_cases h : m = l
  · subst h; simp only [if_true, true_and, dom_setDom]
  · simp [h]

theorem gran_setGran (h : Share) (g m : Nat) (x : Gran) : (h.setGran g x).gran m = if m = g then x else h.gran m := by
  unfold Share.gran Share.setGran
  simp only
  split
  · rename_i hx
    unfold tgetD; rw [tget_tdel]
    split
    · simp [hx]
    · rfl
  · exact tgetD_tset _ _ _ _ _

end Sys2Proof.Machine
end

