-- ==== Sys2Proof/Tests/Slice0.lean ====
section
/-! SUPPORT. Tests: ill-formed terms that the checks refuse, words of the manual and what they decode to, the manual's worked
results, and for every statement with hypotheses a state that meets them. -/

namespace Sys2Proof.Tests

open Sys2Proof Sys2Proof.Machine

set_option Elab.async false

/-! ### A machine with one instruction ready -/

/-- An opcode with side word, PASS, A and B from tokens, dest1 slot 1 operand A and no dest2 (10 R265 to R269). -/
def tWords (op : Nat) (side : BitVec 32) : Words :=
  ⟨BitVec.ofNat 8 op ++ 0x000100#24, side, if threeInput op then 0x0F000101#32 else 0, 0⟩

/-- The tokens' values. -/
def tokVal (a b c : Nat) (x : Arrived) : Arrived :=
  { x with tok := { x.tok with value := BitVec.ofNat 128 (match x.dst with | .slot 0 false => a | .slot 0 true => b | _ => c) } }

/-- Context 0 after reset, with the instruction of some words ready in slot 0 and values at its operands. -/
def readyWith (w : Words) (a b c : Nat) : State :=
  (State.reset.withWords w).modCtx 0 fun k => { k with tokens := k.tokens.map (tokVal a b c) }

def ready (op : Nat) (side : BitVec 32) (a b c : Nat) : State := readyWith (tWords op side) a b c

/-- The firing of slot 0, and what its instruction needs. -/
def firing (s : State) : Option (Needs × Fire) :=
  match s.siteWords s.focus with
  | none => none
  | some w => match decode w with
    | .error _ => none
    | .ok i => (needsOf i).bind fun n => (s.readyFor n).map fun f => (n, f)

/-- The firing takes place now, and P holds of it. -/
def fires (s : State) (P : Fire → Bool) : Bool :=
  match firing s with
  | none => false
  | some (_, f) => s.powered f.domain && (s.breakpoint f.k.num f.x.num f.p.blk f.i).isNone && s.upset == .none && P f

def opensB (f : Fire) (es : List Em) : Bool :=
  (sendBlock f.x es).isNone && (!f.k.gateShut f.p.lcl || !es.any f.starts)

/-- What `fires` says of a state is what the statements ask for. -/
theorem fires_sound (s : State) (P : Fire → Bool) (h : fires s P = true) :
    ∃ (n : Needs) (f : Fire), s.canFire n.t n.xa n.takesB n.l f ∧ P f = true := by
  unfold fires at h
  split at h
  · cases h
  · rename_i n f he
    simp only [Bool.and_eq_true, Option.isNone_iff_eq_none, beq_iff_eq] at h
    refine ⟨n, f, ⟨?_, h.1.1.1, .inr h.1.1.2, h.1.2⟩, h.2⟩
    unfold firing at he
    split at he
    · cases he
    · split at he
      · cases he
      · rename_i i hd
        cases hn : needsOf i with
        | none => simp [hn] at he
        | some m =>
          simp only [hn, Option.bind_some, Option.map_eq_some_iff, Prod.mk.injEq] at he
          obtain ⟨g, hg, rfl, rfl⟩ := he
          exact hg

theorem opens_of (f : Fire) (es : List Em) (h : opensB f es = true) : f.opens es := by
  simp only [opensB, Bool.and_eq_true, Option.isNone_iff_eq_none, Bool.or_eq_true, Bool.not_eq_true'] at h
  exact ⟨h.1, h.2⟩

/-- The opcodes of the table but XARG's. -/
def opcodes : List Nat := (List.range 256).filter fun op => knownOpcode (BitVec.ofNat 8 op) && op != 0x0F

/-- Every encoded instruction can fire, and nothing holds what it emits. -/
theorem test_every_instruction_can_fire :
    (opcodes.all fun op => fires (ready op 0 0 0 0) fun f => opensB f [f.emit 0] && opensB f []) = true := by decide +kernel

/-- What slot 1 receives from one step. -/
def received (s : State) : List Nat :=
  match step s with
  | .next t => match t.ctx 0 with
    | some k => (k.tokens.filter fun a => a.dst == .slot 1 false).map fun a => a.tok.value.toNat
    | none => []
  | _ => []

/-! ### Words of the manual and the instructions they stand for -/

/-- What some words decode to, and why they do not. -/
def reads (w : Words) : Option Instr := match decode w with | .ok i => some i | .error _ => none
def refusedFor (w : Words) : Option DecodeErr := match decode w with | .ok _ => none | .error e => some e

/-- The worked kernel of 10: slot 0 from entry 3 with H1 in dest1, slot 1 as F48, slot 2 from entry 200. -/
theorem test_decode_axpy4 :
    reads ⟨0x42020102#32, 0, 0, 0⟩ = some (.vmul ⟨.pass, .tok, .cf, 1, 2⟩ ⟨0, 0, false, 0, 0, 0⟩)
    ∧ reads ⟨0x40320001#32, 0x00100000#32, 0, 0⟩ = some (.vadd ⟨.out1, .tok, .cf, 0, 1⟩ ⟨0, 0, false, 1, 0, 0⟩)
    ∧ reads ⟨0x5C300102#32, 0, 0, 0⟩ = some (.vhmax ⟨.out1, .tok, .tok, 1, 2⟩ ⟨0, 0, false, 0, 0, 0⟩)
    ∧ reads ⟨0x05000000#32, 0, 0, 0⟩ = some (.sink ⟨.pass, .tok, .tok, 0, 0⟩ ⟨0⟩) := by decide +kernel

/-- 12 R317: VCMP.f32.lt tok, #0; 12 R331: VCVT.f32.rne.sat tok, #0x2B. -/
theorem test_decode_vector :
    reads ⟨0x52018201#32, 0x02000000#32, 0, 0⟩ = some (.vcmp ⟨.pass, .tok, .lit, 0x82, 1⟩ ⟨0, 1, false, 0, 0, 0⟩)
    ∧ reads ⟨0x56000102#32, 0x0100002B#32, 0, 0⟩ = some (.vcvt ⟨.pass, .tok, .tok, 1, 2⟩ ⟨0, 0, true, 0, 0, 0x2B⟩) := by
  decide +kernel

/-- 11 R298: SWITCH with DEF 1, DEFPORT 4, LEN 4; 11 R288: SEL with its XARG slot. -/
theorem test_decode_tokens :
    reads ⟨0x10000000#32, 0x80040004#32, 0, 0⟩ = some (.switch ⟨.pass, .tok, .tok, 0, 0⟩ ⟨true, 0, 0, 4, 0, 4⟩)
    ∧ reads ⟨0x06000102#32, 0, 0x0F000304#32, 0⟩ = some (.sel ⟨.pass, .tok, .tok, 1, 2⟩ ⟨0⟩ ⟨⟨.pass, .tok, .tok, 3, 4⟩, ⟨0⟩⟩)
    ∧ refusedFor ⟨0x06000102#32, 0, 0x05000304#32, 0⟩ = some .xargMissing := by decide +kernel

/-- 13 R350: LD.sz8.acq.dev, with side word 0xFE00_FF6C; 15 R416: IQLOOK in slot 4. -/
theorem test_decode_memory_and_queues :
    reads ⟨0x70000100#32, 0xFE00FF6C#32, 0, 0⟩ = some (.ld ⟨.pass, .tok, .tok, 1, 0⟩ ⟨0xFE, 0, 0xFF, 3, 1, 2, false⟩)
    ∧ reads ⟨0xBD000506#32, 0xFE00FE00#32, 0, 0⟩ = some (.iqlook ⟨.pass, .tok, .tok, 5, 6⟩ ⟨0xFE, 0, 0xFE, 0, 0, 0, false⟩) := by decide +kernel

/-- 14 R377: MMA.ring=3.tile=8.chin=5.cf=2 in slot 5. -/
theorem test_decode_matrix :
    reads ⟨0x91000505#32, 0x02190580#32, 0, 0⟩ = some (.mma ⟨.pass, .tok, .tok, 5, 5⟩ ⟨0, 2, 3, 8, 5, true, 0, 0, 0⟩) := by
  decide +kernel

/-- 11 R304: an integer instruction with a literal; 15 R398: SYSCALL with IMM16. -/
theorem test_decode_integer_and_system :
    reads ⟨0x19110003#32, 1#32, 0, 0⟩ = some (.sub ⟨.wave, .tok, .lit, 0, 3⟩ ⟨0, 0, false, 0, 0, 1⟩)
    ∧ reads ⟨0xE0000100#32, 0x00001234#32, 0, 0⟩ = some (.syscall ⟨.pass, .tok, .tok, 1, 0⟩ ⟨0, 0, false, 0, 0, 0x1234⟩) := by
  decide +kernel

/-! ### Terms that a check refuses (10 R278), and what the outside may not supply -/

def legal (t side : BitVec 32) : Bool := Words.legal ⟨t, side, 0, 0⟩

/-- Each of the checks on an encoded instruction refuses an ill-formed one. -/
theorem test_ill_formed_words_refused :
    legal 0x18000102 0 = true                                   -- ADD is well formed
    ∧ legal 0x00000102 0 = false                                -- a reserved opcode (R277)
    ∧ legal 0x18B00102 0 = false                                -- a reserved tag action (R267)
    ∧ legal 0x08100102 0 = false                                -- WADV refuses the WAVE actions (R287)
    ∧ legal 0x70040102 0 = false                                -- a select on a memory instruction (R268)
    ∧ legal 0x22010102 0 = false                                -- a select on an operand NEG does not take
    ∧ legal 0x3C010102 0 = false                                -- LEA takes no literal (R314)
    ∧ legal 0x18150102 0 = false                                -- KEEPA with A not from a token
    ∧ legal 0x18000102 1 = false                                -- IMM16 where no operand selects it (R304)
    ∧ legal 0x3D000102 0x0A000000 = false                       -- CMP code 10 (R315)
    ∧ Words.legal ⟨0x06000102#32, 0, 0x0F100304#32, 0⟩ = false  -- an XARG slot's tag action (R269)
    ∧ Words.legal ⟨0x06000102#32, 0, 0, 0⟩ = false              -- no XARG slot
    := by decide +kernel

/-- Steps whose arguments lie outside the ranges of the manual are not well formed. -/
theorem test_ill_formed_steps_refused :
    Instr.wf (.powerInterval 96 0 0 ⟨[]⟩) = false ∧ Instr.wf (.stallSweep 128 0) = false
    ∧ Instr.wf (.retirement ⟨4, 0⟩ ⟨3, true⟩) = false ∧ Instr.wf (.launchAdmission 4) = false
    ∧ Instr.wf (.blockPlacement 1 0 0 [(128, 0)]) = false ∧ Instr.wf (.chimeCounterFire 1 0 16) = false
    ∧ Instr.wf (.streamEnd 1 0 4) = false ∧ Instr.wf (.accumulatorRelease 1 0 0 64) = false
    ∧ Instr.wf (.memoryOrderEntry 1 0 0 0xFF) = false ∧ Instr.wf (.linkCorrectedError 16 none) = false
    ∧ Instr.wf (.linkWidthChange 0 3) = false ∧ Instr.wf (.peerRequest 1 1 (.load 0 65)) = false
    ∧ Instr.wf (.registerWrite (.dbgBkpt 4) 0) = false ∧ Instr.wf (.spselWrite 0 16 0) = false
    ∧ Instr.wf (.coldStart ⟨true, 10, false⟩ []) = false
    ∧ Instr.wf (.coldStart ⟨true, 9, false⟩ []) = true ∧ Instr.wf .warmReset = true := by decide +kernel

/-! ### The manual's worked results -/

/-- 11 R315, integer results at the limits. -/
theorem test_integer_results_at_the_limits :
    received (ready 0x1E 0 7 0 0) = [0xFFFFFFFFFFFFFFFF] ∧ received (ready 0x20 0 7 0 0) = [7]
    ∧ received (ready 0x1E 0 0x8000000000000000 0xFFFFFFFFFFFFFFFF 0) = [0x8000000000000000]
    ∧ received (ready 0x20 0 0x8000000000000000 0xFFFFFFFFFFFFFFFF 0) = [0]
    ∧ received (ready 0x1E 0 0xFFFFFFFFFFFFFFF9 2 0) = [0xFFFFFFFFFFFFFFFD]
    ∧ received (ready 0x20 0 0xFFFFFFFFFFFFFFF9 2 0) = [0xFFFFFFFFFFFFFFFF]
    ∧ received (ready 0x1F 0 0xFFFFFFFFFFFFFFF9 2 0) = [0x7FFFFFFFFFFFFFFC]
    ∧ received (ready 0x21 0 0xFFFFFFFFFFFFFFF9 2 0) = [1] := by decide +kernel

theorem test_integer_results_at_the_limits_2 :
    received (ready 0x1B 0 0x8000000000000000 2 0) = [0xFFFFFFFFFFFFFFFF]
    ∧ received (ready 0x1C 0 0x8000000000000000 2 0) = [1]
    ∧ received (ready 0x28 0 0x7FFFFFFFFFFFFFFF 1 0) = [0x7FFFFFFFFFFFFFFF]
    ∧ received (ready 0x30 0 1 64 0) = [0] ∧ received (ready 0x32 0 0x8000000000000000 200 0) = [0xFFFFFFFFFFFFFFFF]
    ∧ received (ready 0x33 0 1 65 0) = [2] ∧ received (ready 0x34 0 0 0 0) = [64]
    ∧ received (ready 0x38 0 0xABCD 0x0804 0) = [0xBC] ∧ received (ready 0x38 0 0xABCD 0x403C 0) = [0]
    ∧ received (ready 0x3A 0 0x80 8 0) = [0xFFFFFFFFFFFFFF80] := by decide +kernel

/-- 12 R322: the fused multiply-add rounds once, VMUL and VADD twice. -/
theorem test_fused_rounds_once :
    received (ready 0x43 0 0x3F800001 0x3F7FFFFE 0xBF800000) = [0xA8800000]
    ∧ received (ready 0x42 0 0x3F800001 0x3F7FFFFE 0) = [0x3F800000]
    ∧ received (ready 0x40 0 0x3F800000 0xBF800000 0) = [0] := by decide +kernel

/-- 12 R331: VCVT.f32.rne.sat #0x2B of (1.0, 3.5, -0.375, 470.0). -/
theorem test_convert_to_e4m3 :
    received (ready 0x56 0x0100002B 0x43EB0000BEC00000406000003F800000 0 0) = [0x7EAC4638 * 2 ^ 64] := by decide +kernel

/-- 12 R326: a comparison gives all ones; 12 R337: 8-bit elements clamp with SAT and wrap without. -/
theorem test_vector_results :
    received (ready 0x52 0x02000000 0xBF800000 0x3F800000 0) = [0xFFFFFFFF]
    ∧ received (ready 0x62 0x31000000 0x7F 1 0) = [0x7F] ∧ received (ready 0x62 0x30000000 0x7F 1 0) = [0x80] := by
  decide +kernel

/-- 11 R291: WSET behind its wave raises WAVE-ORDER, detail 2; 11 R298: SWITCH beyond LEN raises SWITCH-RANGE, detail 7. -/
def faultOf (s : State) : Option (BitVec 8 × BitVec 24) :=
  match step s with
  | .next t => match t.ctx 0 with
    | some k => (k.th 0).bind fun x => x.fault.map fun r => (r.cause, r.detail)
    | none => none
  | _ => none
theorem test_firing_faults :
    faultOf (ready 0x09 0 0 0xFFFFFF 0) = some (0x0C, 2) ∧ faultOf (ready 0x10 4 7 0 0) = some (0x05, 7)
    ∧ faultOf (ready 0x14 0x99 1 0 0) = some (0x0E, 0x99) ∧ faultOf (ready 0x14 0x99 0 0 0) = none := by decide +kernel

/-- 16 R442: SHA-256 of the empty string begins e3b0c442. -/
theorem test_sha256 : (digestOf []).toNat % 2 ^ 32 = 0x42c4b0e3 := by decide +kernel
/-! ### States that meet the hypotheses of the statements about firings -/

/-- Bits hi to lo are zero. -/
def zb (v : Value) (hi lo : Nat) : Bool := (List.range (hi + 1)).all fun i => i < lo || !v.getLsbD i

theorem zeroAt_of (v : Value) (hi lo : Nat) (h : zb v hi lo = true) : zeroAt v hi lo := by
  intro i h1 h2
  have := List.all_eq_true.mp h i (List.mem_range.mpr (by omega))
  simp only [Bool.or_eq_true, decide_eq_true_eq, Bool.not_eq_true'] at this
  rcases this with h3 | h3
  · omega
  · exact h3

/-- One word of bytes written at an address. -/
def put (m : List Host.Cell) (q : Nat × Nat × Nat) : List Host.Cell := wrN m q.1 (leBytes q.2.1 q.2.2)

/-- The block `fin` of the worked kernel of 10 R282, alone in an image at address 0: header, directory, block. -/
def finImage : List Host.Cell := [(0, 2, 0x0101), (4, 4, 0x1000), (0x12, 2, 1), (0x14, 4, 0x40), (0x18, 2, 1), (0x1A, 1, 1), (0x1C, 4, 0x50),
  (0x2C, 4, 0x60), (0x40, 4, 0x100), (0x100, 8, 0x0006000001010200), (0x121, 1, 1), (0x130, 16, 2 ^ 128 - 1), (0x140, 16, 2 ^ 128 - 1),
  (0x150, 6, 0x00000500C000), (0x156, 6, 0x01010500C000)].foldl put []

/-- Page 0 of context 0: physical page 0, read, write and fetch, uncached, in the translation cache of die 0. -/
def page0 : Tlb := { ctx := 0, site := 96, vpn := 0, entry := 0x984000000000000E, pa := 0, entryPA := 0x2000 }

/-- A launch of the image at address 0 with one thread. -/
def launch0 : Launch := { (default : Launch) with num := 0, stage := 3, lrec := { (default : LaunchRec) with lclust := 1, nlev := 1 } }

/-- The context of the firing in that launch, its first page mapped under key slot 0. -/
def mapped (k : Ctx) : Ctx := { k with launches := [launch0], ksel := [(0, 0x8000)] }
def imaged (m : List Host.Cell) (s : State) : State :=
  { s with mem := { s.mem with hbm := m, tlb := [page0] }, keys := [(0, { state := 1, owner := 0, key := 0 })] }.modCtx 0 mapped

/-- Form-M side word of a wave's only operation: PRED and SUCC ".", OWN 0. -/
def lone : BitVec 32 := 0xFE00FE00#32

/-- The links and the wave of a form-M firing. -/
def joinsB (f : Fire) (act : MemAct) (m : FormM) : Bool :=
  (joinError (((f.x.wv f.live).map (·.ops)).getD []) (f.deliver act m)).isNone && f.promise (f.deliver act m) == .go

/-- FiringsAreMet, InstructionsWait: a firing at a breakpoint, with a shadow mismatch, on a damaged slot, with no token, with no
power. -/
theorem test_firings_are_met :
    fires (ready 0x01 0 0 0 0) (fun f =>
      (({ ready 0x01 0 0 0 0 with dbg := { Dbg.off with en := true, bkpt := [(0, 0x8000000000000000#64)] } } : State).breakpoint
        f.k.num f.x.num f.p.blk f.i) == some 0) = true
    ∧ (firing { ready 0x01 0 0 0 0 with upset := .shadow }).isSome = true
    ∧ (firing { ready 0x01 0 0 0 0 with upset := .damaged }).isSome = true
    ∧ (firing ((ready 0x01 0 0 0 0).modCtx 0 fun k => { k with tokens := [] })).isNone = true
    ∧ ((firing (ready 0x01 0 0 0 0)).map fun q => ({ ready 0x01 0 0 0 0 with pwrdom := [] } : State).powered q.2.domain) = some false
    := by decide +kernel

/-- FiringFrame, FaultDropsItsWave: the wave of the firing stands. -/
theorem test_fault_drops_its_wave : fires (ready 0x01 0 5 0 0) (fun f => !f.x.isDropped f.live) = true := by decide +kernel

/-- SteeringResults: both ways of STEER, FILTER and SEL. -/
theorem test_steering_both_ways :
    ([(0x02, 0), (0x02, 1), (0x03, 0), (0x03, 1)].all fun q => fires (ready q.1 0 5 q.2 0) fun f =>
      (lo64 f.q.b == BitVec.ofNat 64 q.2) && opensB f [f.pass f.all f.q.a f.q.ta f.outWave]) = true
    ∧ ([0, 1].all fun a => fires (ready 0x06 0 a 0 0) fun f => (lo64 f.q.a == BitVec.ofNat 64 a)
        && opensB f [f.pass f.all f.q.b f.q.tb f.outWave]) = true := by decide +kernel

/-- WaveAndTagResults: WSET to a wave two ahead, with the numbers between, and behind. -/
theorem test_wset_ahead_and_behind :
    fires (ready 0x09 0 0 2 0) (fun f => decide ((f.q.b.extractLsb' 0 24 - f.w).toNat < 2 ^ 23)
      && decide (2 ≤ (f.q.b.extractLsb' 0 24 - f.w).toNat) && f.all.any (· != .none)
      && opensB f [f.pass f.all f.q.a f.q.ta (f.q.b.extractLsb' 0 24)]) = true
    ∧ fires (ready 0x09 0 0 0xFFFFFF 0) (fun f => decide (2 ^ 23 ≤ (f.q.b.extractLsb' 0 24 - f.w).toNat)) = true := by decide +kernel

/-- SwitchRoutes: within LEN, at LEN with DEF 1 and with DEF 0. -/
theorem test_switch_clauses :
    fires (ready 0x10 0x80040004 3 0 0) (fun f => decide ((lo64 f.q.a).toNat < 4) && opensB f [f.emit 0]) = true
    ∧ fires (ready 0x10 0x80040004 4 0 0) (fun f => decide (4 ≤ (lo64 f.q.a).toNat) && opensB f [f.emit 0]) = true
    ∧ fires (ready 0x10 0x00000004 4 0 0) (fun f => decide (4 ≤ (lo64 f.q.a).toNat)) = true := by decide +kernel

/-- What the target of a transfer comes to. -/
def target (s : State) (f : Fire) (port : Nat) : Option Bool :=
  match s.blockTarget f.k f.x.ln (lo64 f.q.a) port with | .ok b => some b | .error _ => none

/-- TransfersByAddress: a block of the image, an address that is none, and a return word that is none. -/
theorem test_transfer_targets :
    fires (imaged finImage (ready 0x13 0 0x100 0 0)) (fun f => target (imaged finImage (ready 0x13 0 0x100 0 0)) f 0 == some true
      && opensB f [f.pass [.block (lo64 f.q.a) 0] f.q.b f.q.tb (f.w + 1)]) = true
    ∧ fires (imaged finImage (ready 0x11 0 0x100 0 0)) (fun f => target (imaged finImage (ready 0x11 0 0x100 0 0)) f 1 == some true) = true
    ∧ fires (imaged finImage (ready 0x12 0 0x101 0 0)) (fun f => target (imaged finImage (ready 0x13 0 0x100 0 0)) { f with q := { f.q with a := 0x100 } } 1 == some true
      && f.q.a.extractLsb' 56 72 == 0) = true
    ∧ fires (imaged finImage (ready 0x13 0 0x180 0 0)) (fun f => target (imaged finImage (ready 0x13 0 0x180 0 0)) f 0 == some false) = true
    ∧ fires (imaged finImage (ready 0x11 0 0x180 0 0)) (fun f => target (imaged finImage (ready 0x11 0 0x180 0 0)) f 1 == some false) = true
    ∧ fires (ready 0x12 0 (2 ^ 56) 0 0) (fun f => f.q.a.extractLsb' 56 72 != 0) = true
    ∧ fires (imaged finImage (ready 0x12 0 0x102 0 0)) (fun f => target (imaged finImage (ready 0x13 0 0x100 0 0)) { f with q := { f.q with a := 0x100 } } 2 == some false) = true
    := by decide +kernel

/-- TrapResults: A true and A false. -/
theorem test_trap_clauses :
    fires (ready 0x14 7 1 0 0) (fun f => lo64 f.q.a != 0) = true
    ∧ fires (ready 0x14 7 0 0 0) (fun f => lo64 f.q.a == 0 && opensB f [f.pass f.all f.q.a f.q.ta f.outWave]) = true := by decide +kernel

/-- ThreadInstructionsAreHeld: a TNEW of block 0, port 1. -/
theorem test_tnew_entry_word :
    fires (imaged finImage (ready 0x0C 0 0 0x10000 0)) (fun f =>
      ((imaged finImage (ready 0x0C 0 0 0x10000 0)).entryWordFail f (lo64 f.q.b)).isNone) = true := by decide +kernel

/-- OrderedReduction: a contribution that is next, one with the end flag, one ahead, one without a tag, one behind. -/
def contribution (seq eor : Bool) (tag : Nat) : State :=
  (ready 0x6E 0 7 0 0).modCtx 0 fun k => { k with tokens := k.tokens.map fun a =>
    { a with tok := { a.tok with seq := seq, eor := eor, seqTag := BitVec.ofNat 24 tag } } }
theorem test_vred_clauses :
    ([(true, false, 0), (true, true, 0), (true, false, 5), (false, false, 0), (true, false, 0xFFFFFF)].all fun q =>
      fires (contribution q.1 q.2.1 q.2.2) fun f => f.q.ta.any fun a => a.seq == q.1 && a.eor == q.2.1
        && a.seqTag == BitVec.ofNat 24 q.2.2 && (f.k.vredAt f.x.num f.p.blk f.i).nextSeq == 0
        && (f.k.vredAt f.x.num f.p.blk f.i).held.isEmpty) = true := by decide +kernel
theorem test_vred_emits : fires (contribution true true 0) (fun f => opensB f
    [{ (Em.plain f.all 7 (if f.t.act.adds then f.w + 1 else f.w)).tagged f.t.act f.w with src := some f.w }]) = true := by decide +kernel

/-- MemoryDelivery, QueueDelivery: a wave's only operation joins; a second operation of the same number does not. -/
theorem test_memory_joins :
    ([(0x70, MemAct.ld), (0x71, .st), (0x72, .ldc), (0x78, .atom .add), (0x81, .atom .cas), (0x86, .fence), (0xB0, .launch), (0xB7, .qput),
      (0xDB, .logset), (0xDD, .keyset), (0xDF, .xlinv)].all fun q =>
      fires (ready q.1 lone 0 0 0) fun f => joinsB f q.2 (FormM.dec lone) && f.k.num == 0 && opensB f []) = true
    ∧ fires ((ready 0x70 lone 0 0 0).modCtx 0 fun k => k.modTh 0 fun x => { x with waves := x.waves.map fun v =>
        { v with ops := [{ (default : MemOp) with m := FormM.dec lone }] } }) (fun f => !joinsB f .ld (FormM.dec lone)) = true := by decide +kernel

/-- The same firing in context 1. -/
def elsewhere (s : State) : State :=
  { s with ctxs := s.ctxs.map fun k => if k.num = 0 then { k with num := 1 } else k, focus := { s.focus with ctx := 1 } }

/-- PrivilegedInstructions: outside context 0; SUSRD of another kind, of a cluster the context has, of one it has not. -/
theorem test_privileged_clauses :
    ([0xDB, 0xDD, 0xDF, 0xE3].all fun op => fires (elsewhere (ready op lone 0 0 0)) fun f => f.k.num != 0) = true
    ∧ fires (elsewhere (ready 0xDA 1 0 0 0)) (fun f => f.k.num != 0 && zb f.q.a 127 12) = true
    ∧ fires (elsewhere (ready 0xDA 0 1 0 0)) (fun f => f.k.num != 0 && zb f.q.a 127 12
        && decide (f.k.lclusters ≤ (f.q.a.extractLsb' 0 12).toNat)) = true
    ∧ fires (elsewhere (ready 0xDA 0 0 0 0)) (fun f => f.k.num != 0 && zb f.q.a 127 12
        && decide ((f.q.a.extractLsb' 0 12).toNat < f.k.lclusters) && opensB f [f.emit 0]) = true := by decide +kernel
/-- A ring of 32-byte rows, 100 of them full; of 384-byte rows, empty. -/
def ring32 : BitVec 128 := BitVec.ofNat 128 (100 * 2 ^ 96 + 2 ^ 63 + 1 * 2 ^ 35)
def ring384 : BitVec 128 := BitVec.ofNat 128 (2 ^ 63 + 23 * 2 ^ 35 + 3 * 2 ^ 23)

/-- Logical cluster 0 with rings 0 and 1, and a domain 0 with weights of any shape loaded. -/
def share0 (sparse : Nat) : Share :=
  { Share.fresh 0 with rings := [(0, ring32), (1, ring384)]
                       doms := [(0, { Dom.zero with wdesc := BitVec.ofNat 32 (0x80000000 + 511 * 2 ^ 20 + 63 * 2 ^ 14 + sparse * 2 ^ 13) })] }

/-- The firing's cluster with that share, and constant file entry 0. -/
def prepared (h : Share) (cf : Nat) (s : State) : State :=
  s.modCtx 0 fun k => { k with shares := [h], placed := k.placed.map fun p => { p with cf := [BitVec.ofNat 128 cf] } }

def wordB (f : Fire) (cw : Nat) : Bool :=
  cw % 8 == 0 && !(f.k.share f.p.lcl).engineTile (cw / 4096) && !(f.k.share f.p.lcl).reservedTile (cw / 4096)

def multipliesB (f : Fire) (act : DomAct) (x : FormX) : Bool :=
  let c := f.command act x
  let d := f.k.dom f.p.lcl (f.p.domOf f.i)
  let cfg := (f.k.dom f.p.lcl (c.target (f.p.domOf f.i))).cfg c.first
  let r := (f.k.share f.p.lcl).ring x.ring.toNat
  zb f.q.a 31 28 && zb f.q.a 35 35 && zb f.q.a 95 93 && zb f.q.a 127 119 && wordB f c.cwoff && decide (c.first ≤ 63)
  && c.eorn == 0 && d.wdesc.getLsbD 31 && decide (c.kUsed ≤ (d.wdesc.extractLsb' 20 9).toNat + 1)
  && decide (c.nUsed ≤ (d.wdesc.extractLsb' 14 6).toNat + 1) && d.wdesc.getLsbD 13 == (act == .mmasp) && rValid r
  && (List.range 8).any (fun q => decide (rowLen q c.kUsed false ≤ rRow r)) && !cfNode cfg && !c.bus

/-- MatrixCommands: each command with room in its queue. -/
theorem test_matrix_commands :
    fires (prepared (share0 0) 0 (ready 0x91 0 0 0 0)) (fun f => multipliesB f .mma (FormX.dec 0) && opensB f [f.emit 0]) = true
    ∧ fires (prepared (share0 1) 0 (ready 0x92 0 0 0 0)) (fun f => multipliesB f .mmasp (FormX.dec 0) && opensB f [f.emit 0]) = true
    ∧ fires (prepared (share0 0) 0 (ready 0x90 0 (15 * 16) 0 0)) (fun f => zb f.q.a 2 0 && zb f.q.a 31 19 && zb f.q.a 95 32
        && zb f.q.a 127 119 && wordB f 0 && (List.range 8).any (fun q => fitsFormat q 16 && decide (rowLen q 16 false = rRow ring32))
        && decide (rHead ring32 % rCap ring32 + 1 ≤ rCap ring32)) = true
    ∧ fires (prepared (share0 0) 0 (ready 0x94 0x00080000 0 0 0)) (fun f => zb f.q.a 95 0 && wordB f 0
        && decide (384 ≤ rRow ((f.k.share 0).ring 1))) = true
    ∧ ([0x95, 0x96].all fun op => fires (prepared (share0 0) 0 (ready op 0 0 0 0)) fun f => zb f.q.a 95 56 && wordB f 0) = true
    ∧ fires (prepared (share0 0) 0 (ready 0x97 0 (4 * 64) 0 0)) (fun f => zb f.q.a 31 11 && zb f.q.a 63 55
        && [4, 8, 16, 32].contains (vbits f.q.a 10 6) && vbits f.q.a 5 0 % (vbits f.q.a 10 6 / 2) == 0 && wordB f 0) = true
    ∧ fires (prepared (share0 0) 0 (ready 0x98 0 (4 * 64) 0 0)) (fun f => zb f.q.a 31 11 && zb f.q.b 127 0
        && [4, 8].contains (vbits f.q.a 10 6) && wordB f 0) = true := by decide +kernel

/-- MatrixCommands: a full queue. -/
theorem test_matrix_queue_full :
    fires (prepared { share0 0 with doms := [(0, { Dom.zero with queue := List.replicate 16 default })] } 0 (ready 0x95 0 0 0 0))
      (fun f => decide (16 ≤ (f.k.dom 0 (f.p.domOf f.i)).queue.length) && zb f.q.a 127 0 && wordB f 0) = true := by decide +kernel

def engagesB (f : Fire) (act : EngAct) : Bool :=
  let q := f.engine act (FormX.dec 0)
  (engZero act).all (fun r => zb q.desc r.1 r.2) && q.count != 0 && wordB f q.cwoff && opensB f [f.emit 0]

/-- EngineCommands: each command, running and armed, and a COLL that does not fit. -/
theorem test_engine_commands :
    ([(0x9C, EngAct.cpy, 2 ^ 32), (0x9D, .cpy2d, 2 ^ 64 + 2 ^ 32), (0x9E, .gath, 2 ^ 32), (0x9F, .scat, 2 ^ 32), (0xA0, .coll, 2 ^ 32),
      (0x9C, .cpy, 2 ^ 32 + 2 ^ 31)].all fun q => fires (prepared (Share.fresh 0) q.2.2 (ready q.1 0 0 0 0)) fun f =>
        engagesB f q.2.1 && (q.2.1 != .coll || !(f.engine q.2.1 (FormX.dec 0)).misfit f.k 0) && (f.k.collective 0).isEmpty) = true
    ∧ fires (prepared (Share.fresh 0) (2 ^ 64 + 2 ^ 32) (ready 0xA0 0 0 0 0)) (fun f => engagesB f .coll
        && (f.engine .coll (FormX.dec 0)).misfit f.k 0) = true := by decide +kernel

/-- The record an address names, and a drum record of one level at 0x800. -/
def recordOf (s : State) (f : Fire) : List Byte := match s.recordAt f (f.record (FormX.dec 0)) with | .ok b => b | .error _ => []
def drumImage : List Host.Cell := put finImage (0x838, 8, 1)

/-- UnitInstructions. -/
theorem test_unit_instructions :
    fires (ready 0x93 0 0 0 0) (fun f => zb f.q.a 127 64 && cfFmt (lo64 f.q.a) != 3 && !cfNode (lo64 f.q.a) && opensB f [f.emit 0]) = true
    ∧ fires (ready 0x99 0 (2 ^ 63) 0 0) (fun f => zb f.q.a 34 34 && zb f.q.a 11 0 && rValid f.q.a
        && decide (rBase f.q.a + vbits f.q.a 33 23 ≤ 2047) && decide (rThresh f.q.a ≤ rCap f.q.a)) = true
    ∧ fires (ready 0x99 0x10000000 0 0 0) (fun f => zb f.q.a 127 0) = true
    ∧ fires (prepared (share0 0) 0 (ready 0x9B 0 5 0 0)) (fun f => zb f.q.a 127 32 && rValid ((f.k.share 0).ring 0)
        && decide (5 ≤ rCap ((f.k.share 0).ring 0))) = true
    ∧ fires (ready 0xA1 0 scratchBase 0 0) (fun f => inScratch (lo64 f.q.a).toNat && inMap f.k (lo64 f.q.a).toNat 1) = true
    ∧ fires (imaged finImage (ready 0xA2 0 0x400 0 0)) (fun f => (recordOf (imaged finImage (ready 0xA2 0 0x400 0 0)) f).length == 64
        && (patternBad (recordOf (imaged finImage (ready 0xA2 0 0x400 0 0)) f)).isNone
        && !(imaged finImage (ready 0xA2 0 0x400 0 0)).recordWaits f (f.record (FormX.dec 0))) = true
    ∧ fires (imaged drumImage (ready 0xA5 0 0x800 0 0)) (fun f => (recordOf (imaged drumImage (ready 0xA5 0 0x800 0 0)) f).length == 64
        && (drumBad (recordOf (imaged drumImage (ready 0xA5 0 0x800 0 0)) f)).isNone
        && !(imaged drumImage (ready 0xA5 0 0x800 0 0)).recordWaits f (f.record (FormX.dec 0))) = true
    ∧ fires (prepared { Share.fresh 0 with agens := [(0, { agenOf [] 0 with dims := [1] })] } 0 (ready 0xA3 0 0 0 0)) (fun f =>
        (f.k.pattern f.x f.w f.p.lcl 0).any fun u => u.used.all fun d => dimCount d != 0) = true
    ∧ fires (prepared { Share.fresh 0 with drums := [{ (default : Drum) with num := 5 }] } 0 (ready 0xA6 0 5 0 0)) (fun f => zb f.q.a 127 13
        && (f.k.share 0).drums.any fun d => d.num == f.q.a.extractLsb' 0 13) = true
    ∧ fires (ready 0xA7 0 0 0 0) (fun f => (chimeBad 0 0 f.q.a).isNone && zb f.q.a 127 (chimeWidth 0)) = true := by decide +kernel

/-- SystemReads, YieldAndBreak, SystemAccepted and SystemAwaited. -/
theorem test_system_instructions :
    fires (elsewhere (ready 0xDC 0 0 0 0)) (fun f => f.k.num != 0 && zb f.q.a 127 4 && opensB f [f.emit 0]) = true
    ∧ ([0xDC, 0xDA, 0xE3].all fun op => fires (ready op 0 0 0 0) fun f => f.k.num == 0 && zb f.q.a 127 0 && opensB f [f.emit 0]) = true
    ∧ fires (ready 0xD6 0 0 0 0) (fun f => !f.k.yieldPending && opensB f [f.pass f.all f.q.a f.q.ta f.outWave]) = true
    ∧ fires (ready 0xE1 0 0 0 0) (fun f => !(ready 0xE1 0 0 0 0).debugging f.k.num f.x.num) = true
    ∧ fires (ready 0xC1 0 1 0 0) (fun f => zb f.q.a 127 12 && (f.q.a.extractLsb' 0 12).toNat == 1) = true
    ∧ fires ((ready 0xD0 0 0 0 0).modCtx 0 fun k => { k with dreg := [(0, 0x18000000000000000)] }) (fun f => f.k.dictValid 0) = true
    ∧ fires (ready 0xD0 0 0 0 0) (fun f => !f.k.dictValid 0) = true
    ∧ fires (ready 0xE2 0 0 0 0) (fun f => zb f.q.a 127 7 && decide (0 < f.k.lclusters)) = true
    ∧ ([0xE4, 0xE5].all fun op => fires (ready op 0 1 0 0) fun f => zb f.q.a 127 32 && f.q.a.extractLsb' 0 32 != 0) = true
    ∧ ([0xD4, 0xD5].all fun op => fires (imaged finImage (ready op 0 0x10000 0 0)) fun f => zb f.q.a 127 32
        && (match (imaged finImage (ready op 0 0x10000 0 0)).kernelHeader f.k 0 with
            | .ok hd => decide (0 + 1 ≤ fieldAt hd 0x18 2) | .error _ => false)) = true := by decide +kernel

/-- YieldAndBreak: the debug port watches the thread. -/
theorem test_brk_watched :
    (match firing { ready 0xE1 0 0 0 0 with dbg := { Dbg.off with en := true, allthr := true } } with
     | some (_, f) => ({ ready 0xE1 0 0 0 0 with dbg := { Dbg.off with en := true, allthr := true } } : State).debugging f.k.num f.x.num
        && (ready 0xE1 0 0 0 0).powered f.domain
     | none => false) = true := by decide +kernel

/-- An image of two blocks, the second of which leads to the first, and a firing in the first. -/
def loopImage : List Host.Cell := [(0x18, 2, 2), (0x1C, 4, 0x80), (0x2C, 4, 0x90), (0x30, 4, 1), (0x50, 4, 0x180), (0x58, 1, 1), (0x90, 4, 1),
  (0x180, 8, 0x0003000001000001), (0x1D0, 6, 0x00000500C000)].foldl put finImage
def inBlock (b : Addr) (s : State) : State :=
  { s.modCtx 0 fun k => { k with placed := k.placed.map (fun p => { p with blk := b, links := [some (0x180, 0)] })
                                 tokens := k.tokens.map fun a => { a with blk := b } }
    with focus := { s.focus with blk := b } }

/-- SystemAccepted: CFGREQ of the second block, which the first's port 0 leads to and which leads back. -/
def cfgState : State := inBlock 0x100 (imaged loopImage (ready 0xC3 0 1 0 0))
theorem test_cfgreq :
    fires cfgState (fun f => zb f.q.a 127 28 && match cfgState.kernelHeader f.k f.p.kimg.toNat with
      | .error _ => false
      | .ok hd => cfgState.subgraph f.k f.p.kimg.toNat hd 1 1 == some [0x180]
          && (((f.p.links[0]?).getD none).map (·.1)) == some 0x180 && cfgState.linksTo f.k f.p.kimg.toNat hd 0x180 f.p.blk 0) = true := by
  decide +kernel
/-! ### States that meet the hypotheses of the statements about the machine's own events -/

/-- A context of a state, of which P holds. -/
def at0 (s : State) (P : Ctx → Bool) : Bool := match s.active 0 with | some k => P k | none => false

def after (i : Instr) (s : State) : State := match exec i s with | .next t => t | _ => s
def stepped (s : State) : State := match step s with | .next t => t | _ => s

/-- Context 0 on the fabric with one image, one placed block with a token of wave 0, and the domains of its cluster. -/
def base : State := { imaged finImage (ready 0x01 0 0 0 0) with owners := [(0, 0)] }
def with0 (f : Ctx → Ctx) : State := base.modCtx 0 f

/-- EncodingsRoundTrip, DecodingLosesNothing, ReservedWordsRefused: words that decode, and words that do not. -/
theorem test_words_decode_or_not :
    (opcodes.all fun op => match decode (tWords op 0) with | .ok i => (encode i).isSome | .error _ => false) = true
    ∧ ([0x00, 0xFF].all fun op => match decode (tWords op 0) with | .ok _ => false | .error _ => true) = true := by decide +kernel

/-- OnlyIllegalSlotsStop, StepRunsTheDecodedInstruction, EncodedInstructionsFrame: a slot that stops a step and slots that do not. -/
theorem test_steps_stop_or_not :
    (match step (ready 0x00 0 0 0 0) with | .fault _ => true | _ => false) = true
    ∧ (match step (ready 0x18 0 1 2 0) with | .next t => t.mem == (ready 0x18 0 1 2 0).mem | _ => false) = true
    ∧ ((ready 0x18 0 1 2 0).begun.siteWords ⟨0, 0, 0, 0, 0⟩).isSome = true := by decide +kernel

/-- Slots 0 and 1 of one block and PE, both ready. -/
def twoReady : State := (ready 0x01 0 1 0 0).modCtx 0 fun k => { k with
  placed := k.placed.map fun p => { p with slots := List.replicate 2 (p.slots.headD default) }
  tokens := k.tokens ++ k.tokens.map fun a => { a with dst := .slot 1 false } }

/-- StepRunsTheDecodedInstruction: a slot that another outranks (R33), a machine in its start, and a step of the machine. -/
theorem test_what_may_move :
    twoReady.outranked ⟨0, 0, 1, 0, 0⟩ [] = true ∧ twoReady.outranked ⟨0, 0, 0, 0, 0⟩ [] = false
    ∧ twoReady.outranked ⟨0, 0, 1, 0, 0⟩ [⟨0, 0, 0, 0, 0⟩] = false
    ∧ State.reset.up = false ∧ base.up = true ∧ Instr.opcode .dbgHalt = none
    ∧ (Instr.opcode (.mov ⟨.pass, .tok, .tok, 0, 0⟩ ⟨0⟩)).isSome = true := by decide +kernel

/-- StepKeepsMemoriesCanonical: a state that is not the reset state meets the invariant. -/
theorem test_invariant_met : base.Inv := by
  refine ⟨⟨by decide +kernel, by decide +kernel, by decide +kernel⟩, ?_⟩
  show ∀ k ∈ base.ctxs, ∀ h ∈ k.shares, Memory.wf h.bytes = true
  decide +kernel

/-- BlockSteps: a request for block 0x100 on logical cluster 0, room for it, and its slots. -/
def asked : State := with0 fun k => { k with wanted := [⟨0, 0, 0x100, false⟩] }
theorem test_placement : at0 asked (fun k => (k.asks 0 0x100 == some (0, none)) && match k.ln 0 with
    | none => false
    | some n => !(tgetD k.pmap 0 0).getLsbD 30 && match asked.blockOf k n 0x100 with
      | .error _ => false
      | .ok (m, ws, _) => !frontWaits m none && !asked.logFull 0 (asked.fetched k n 0x100 m ws) (kRead ||| kPlace)
          && (asked.fetched k n 0x100 m ws).all (fun p => !pieceWaits asked.mem k p false)
          && let q := k.berth (some n.lrec) n.num 0 m.matrix ((n.home 0x100 0).map (·.2)) ws none
             asked.seatFor k n 0 0x100 q == some 0
              && asked.slotsFit k (k.phys 0) q ((List.range ws.length).map fun i => (0, 2 + i))) = true := by decide +kernel

/-- BlockSteps: a placed block that may move, one whose old slots are empty, and a stale one that holds nothing. -/
def movable : State := with0 fun k => { k with placed := k.placed.map fun p => { p with at_ := [(0, 4), (0, 5)], old := some [(0, 0), (0, 1)] } }
def stale : State := with0 fun k => { k with gen := 1, tokens := [] }
theorem test_block_moves :
    at0 base (fun k => match k.placed.find? (isPlaced 0 0) with
      | some p => p.old.isNone && !(tgetD k.pmap p.seat 0).getLsbD 30 && base.slotsFit k (k.seatOf p) (k.berthOf p) [(0, 4), (0, 5)]
      | none => false) = true
    ∧ at0 movable (fun k => match k.placed.find? fun q => isPlaced 0 0 q && q.old.isSome with
      | some p => k.tokens.all fun a => !a.old || !k.tokenOf p a
      | none => false) = true
    ∧ at0 stale (fun k => (k.placed.find? fun q => isPlaced 0 0 q && q.gen != k.gen && q.old.isNone && k.drained q).isSome) = true := by
  decide +kernel

/-- Wave 0's operation numbered 0. -/
def oneOp (s : State) (P : Ctx → Thread → Wave → MemOp → Bool) : Bool :=
  at0 s fun k => match k.th 0 with
    | none => false
    | some x => match k.wv 0 0 with
      | none => false
      | some v => match v.op 0 with
        | none => false
        | some o => P k x v o

/-- A load of the image's first bytes and one of an address that no page maps, each delivered by its firing. -/
def loading (a : Nat) : State := stepped (imaged finImage (ready 0x70 lone a 0 0))
def entersOk (s : State) : Bool := oneOp s fun k x v o => k.turnToEnter x v o && !scMisplaced v o && match s.roomFor k x 0 with
  | none => false
  | some _ => match s.probeOp k x 0 o with | .ok o1 => o1.m == o.m | .error _ => false
theorem test_order_entry : entersOk (loading 0x100) = true := by decide +kernel
theorem test_order_entry_fault :
    oneOp (loading (2 ^ 50)) (fun k x v o => k.turnToEnter x v o && !scMisplaced v o && o.act != .pref && !x.isDropped 0
      && !x.delivered && match (loading (2 ^ 50)).roomFor k x 0 with
        | none => false
        | some _ => match (loading (2 ^ 50)).probeOp k x 0 o with | .ok _ => false | .error (e, _) => e.code != 0x0A) = true := by decide +kernel

def entered : State := after (.memoryOrderEntry 0 0 0 0) (loading 0x100)
/-- A load of an unaligned address, which is made a byte at a time. -/
def tearing : State := after (.memoryOrderEntry 0 0 0 0) (stepped (imaged finImage (ready 0x70 (lone ||| 0x60) 0x101 0 0)))
theorem test_load_binds :
    oneOp entered (fun k x _ o => o.act == .ld && !o.torn && entered.mayBind k x 0 o && o.ps.all (fun p => !piecePoison entered.mem p)
      && !x.isDropped o.out) = true
    ∧ oneOp tearing (fun k x _ o => o.act == .ld && o.torn && tearing.mayBind k x 0 o && o.ps.all (fun p => !piecePoison tearing.mem p)
      && decide (o.part.length + 1 < o.size)) = true := by decide +kernel

/-- WavesCommit: a wave whose tokens are gone, plain and marked by TEND. -/
def spentWave (tend : Bool) : State := with0 fun k => { k with
  tokens := [], threads := k.threads.map fun x => { x with waves := x.waves.map fun v => { v with tend := tend } } }
def commits (s : State) : Bool := at0 s fun k => match k.th 0 with
  | none => false
  | some x => match x.oldest with
    | none => false
    | some v => (k.unclosed x v).isNone && k.chainDone x v && v.bound && k.spent x v && (s.emptyGet k x v).isNone
/-- A wave that holds a CTXST of CTX.FPFLAGS. -/
def clearing : State := (spentWave false).modCtx 0 fun k => { k with threads := k.threads.map fun x => { x with
  waves := x.waves.map fun v => { v with flags := 3, defs := [{ (default : DefOp) with act := .ctxst, imm := 0x0101, a := 1 }] } } }
theorem test_wave_commits : commits (spentWave false) = true ∧ commits (spentWave true) = true ∧ commits clearing = true := by
  decide +kernel

/-- A committed ST of 8 bytes at HBM address 0x200 under key slot 0, uncached; one at scratchpad offset 0. -/
def opOf (act : MemAct) (ps : List Piece) : MemOp := { (default : MemOp) with act := act, m := { FormM.dec lone with sz := 3 }, ps := ps, entered := true }
def hbmPiece : Piece := ⟨0x200, 8, ⟨.hbm, 0x200, 3, some 0, true, true, true, 0, 0x2000, true⟩⟩
def scratchPiece : Piece := ⟨scratchBase, 8, ⟨.scratch 0 0, 0, 0, none, true, true, false, 0, 0, true⟩⟩
def pending (o : MemOp) (waiting : Bool) : Committed :=
  { (default : Committed) with thread := 0, born := 0, ln := 0, lcl := 0, wave := 0, item := .mem o, waiting := waiting }
def holding (e : Committed) : State := with0 fun k => { k with committed := [e] }
def performs (s : State) (e : Committed) : Option Bool := match s.ctx 0 with
  | none => none
  | some k => match s.performance k e 0 with
    | .done t _ _ => if (t.ctx 0).isSome && (match e.item with | .mem o => (s.queueHurt k o none).isNone | _ => true)
        then some true else none
    | .wait _ => some false
    | _ => none
def stHbm : Committed := pending (opOf .st [hbmPiece]) false
def stScratch : Committed := pending (opOf .st [scratchPiece]) false
/-- Unaligned ones. -/
def stTorn : Committed := pending { opOf .st [{ hbmPiece with va := 0x201 }] with a := 0x201 } false
def stTornScratch : Committed := pending { opOf .st [{ scratchPiece with va := scratchBase + 1 }] with a := scratchBase + 1 } false
def tornB (e : Committed) : Bool := match e.item with
  | .mem o => o.act == .st && o.torn && decide (o.part.length < o.size) && o.nextByte 5 == 5 && o.size == 8 && o.m.ord == 0
  | .dfr _ => false
theorem test_store_shapes :
    at0 (holding stHbm) (fun k => k.logs.isEmpty && !k.followed (holding stHbm).mem stHbm && (opOf .st [hbmPiece]).size == 8
      && (holding stHbm).mem.actsAs hbmPiece.tr == 3 && (tget (holding stHbm).mem.key (0x200 / 64)).isNone
      && !pieceWaits (holding stHbm).mem k hbmPiece true && (opOf .st [hbmPiece]).m.ord == 0 && !(opOf .st [hbmPiece]).torn
      && !stHbm.due) = true
    ∧ tornB stTorn = true ∧ tornB stTornScratch = true
    ∧ at0 (holding stTorn) (fun k => k.logs.isEmpty && !k.followed (holding stTorn).mem stTorn
      && (holding stTorn).mem.actsAs ({ hbmPiece with va := 0x201 } : Piece).tr == 3
      && !pieceWaits (holding stTorn).mem k { hbmPiece with va := 0x201 } true) = true
    ∧ at0 (holding stTornScratch) (fun k => !k.followed (holding stTornScratch).mem stTornScratch
      && !pieceWaits (holding stTornScratch).mem k { scratchPiece with va := scratchBase + 1 } true
      && !k.bankHolds (0, 0, (opOf .st []).m.own) [{ scratchPiece with va := scratchBase + 1 }] && ((k.share 0).gran 0).st != 2) = true
    ∧ at0 (holding stScratch) (fun k => !k.followed (holding stScratch).mem stScratch && !pieceWaits (holding stScratch).mem k scratchPiece true
      && !k.bankHolds (0, 0, (opOf .st []).m.own) [scratchPiece] && ((k.share 0).gran 0).st != 2) = true := by decide +kernel
theorem test_committed_operations :
    performs (holding stHbm) stHbm = some true
    ∧ performs { holding stHbm with mem := { (holding stHbm).mem with locked := [0] } } stHbm = some false
    ∧ performs (holding (pending (opOf .st [hbmPiece]) true)) (pending (opOf .st [hbmPiece]) true) = some true
    ∧ (pending (opOf .st [hbmPiece]) true).elsewhere = false ∧ (pending (opOf .st [hbmPiece]) true).parkedPut = false := by decide +kernel
/-- A page 1 of HC memory for queues and DONE words, and an empty queue of 16 records at 0x1000 with its area at 0x1100. -/
def page1 : Tlb := { ctx := 0, site := 96, vpn := 1, entry := 0x804000000000100E, pa := 0x1000, entryPA := 0x2008 }
def queued (tail : Nat) (s : State) : State :=
  { s with mem := { s.mem with hbm := [(0x1000, 8, 0x1100), (0x1008, 8, 4), (0x1018, 8, tail)].foldl put s.mem.hbm
                               tlb := s.mem.tlb ++ [page1] } }
def putOp : Committed := pending { opOf .qput [] with a := 0x1000 } true
theorem test_parked_put :
    performs (queued 0 (holding putOp)) putOp = some true
    ∧ at0 (queued 0 (holding putOp)) (fun k => !k.shutFor 0
        && (k.committed.find? fun e => e.thread == 0 && e.waiting && e.parkedPut) == some putOp) = true := by decide +kernel

/-- MemoryFamilyEffects: a committed operation whose turn has come, and one of one piece that nothing makes wait. -/
def turnB (s : State) (e : Committed) (P : Ctx → MemOp → Bool) : Bool :=
  (s.ctx 0).any fun k => k.state != 3 && k.logs.isEmpty && (k.committed.filter fun e => e.thread == 0 && !e.waiting)[0]? == some e
    && !k.followed s.mem e && match e.item with
      | .mem o => (s.queueHurt k o none).isNone && P k o
      | .dfr _ => false
def alone (o : MemOp) (P : Ctx → MemOp → Bool) : Bool :=
  turnB (holding (pending o false)) (pending o false) fun k o => match o.ps with
    | [p] => p.n == o.size && !pieceWaits base.mem k p true && !piecePoison base.mem p && !k.bankHolds (0, 0, o.m.own) o.ps && P k o
    | _ => false
def placedAt (pl : Place) : Piece := { hbmPiece with tr := { hbmPiece.tr with place := pl } }
def withCoh (c : Nat) : Piece := { hbmPiece with tr := { hbmPiece.tr with coh := c } }
def rmws : List MemAct := [.atom .add, .atom .and, .atom .or, .atom .xor, .atom .min, .atom .max, .atom .minn, .atom .maxn, .atom .xchg,
  .atom .cas, .red .add, .red .and, .red .or, .red .xor, .red .min, .red .max, .red .minn, .red .maxn]
def fadd (p : Piece) : MemOp := { opOf .redFadd [{ p with n := 4 }] with m := { FormM.dec lone with sz := 2 } }
theorem test_store_places :
    ([0, 2, 3].all fun c => alone (opOf .st [withCoh c]) fun _ o => !o.torn && o.ps.all fun p => base.mem.actsAs p.tr == c) = true
    ∧ alone (opOf .st [withCoh 1]) (fun _ o => !o.torn && o.ps.all fun p => base.mem.actsAs p.tr == 1
      && decide (p.tr.pa % 64 + o.size ≤ 64)) = true
    ∧ ([.hostIo, .hostCache].all fun q => alone (opOf .st [placedAt q]) fun _ o => !o.torn) = true
    ∧ (let o := opOf .st [placedAt (.peer 1)]
       let s := { holding (pending o false) with mem := { base.mem with routes := [1] } }
       turnB s (pending o false) fun k o => !pieceWaits s.mem k (placedAt (.peer 1)) true && !piecePoison s.mem (placedAt (.peer 1))
         && !k.bankHolds (0, 0, o.m.own) o.ps && !o.torn) = true
    ∧ alone (opOf .st [scratchPiece]) (fun k o => !o.torn && ((k.share 0).gran 0).st == 0) = true := by decide +kernel
theorem test_read_modify_writes :
    (rmws.all fun a => alone (opOf a [hbmPiece]) (fun _ o => o.act.isRmw && o.m.ord == 0 && base.mem.actsAs hbmPiece.tr == 3
        && (tget base.mem.key (0x200 / 64)).isNone)
      && alone (opOf a [scratchPiece]) fun k o => o.act.isRmw && ((k.share 0).gran 0).st != 2 && decide (0 % 16 + o.size ≤ 16)) = true
    ∧ alone (fadd hbmPiece) (fun _ o => o.size == 4) = true ∧ alone (fadd scratchPiece) (fun _ o => o.size == 4) = true := by
  decide +kernel
theorem test_presence_and_own :
    ([MemAct.stf, .sti, .feset].all fun a => alone (opOf a [scratchPiece]) fun k o => decide (0 % 16 + o.size ≤ 16)
      && ((k.share 0).gran 0).readers.isEmpty) = true
    ∧ turnB (holding (pending (opOf .own [{ scratchPiece with n := 1 }]) false)) (pending (opOf .own [{ scratchPiece with n := 1 }]) false)
      (fun k o => o.m.ord == 0 && o.tiles == [(0, 0)] && o.tiles.all (fun q => !k.tileBusy (pending o false) q)
        && o.ps.all fun p => !pieceWaits base.mem k p true) = true := by decide +kernel
/-- A priority queue with one entry. -/
theorem test_priority_queue :
    turnB (holding (pending (opOf .pqput []) false)) (pending (opOf .pqput []) false) (fun _ _ => true) = true
    ∧ turnB ((holding (pending (opOf .pqget []) false)).modCtx 0 fun k => { k with pq := [⟨0, 7, 9⟩] }) (pending (opOf .pqget []) false)
      (fun k _ => !k.pq.isEmpty && k.pq.all (fun e => decide (e.die < 4)) && decide (k.phys 0 < 96)) = true := by decide +kernel
/-- An incremental queue of 16 records at 0x1000, its area at 0x1100, its frontier words at 0x1080, and some records in it. -/
def iqueued (tail : Nat) (s : State) : State :=
  { s with mem := { s.mem with hbm := [(0x1000, 8, 0x1100), (0x1008, 8, 4 + 2 ^ 16), (0x1018, 8, tail), (0x1038, 8, 0x1080),
                                       (0x1118, 4, 1), (0x111C, 4, 1)].foldl put s.mem.hbm
                               tlb := s.mem.tlb ++ [page1] } }
def queueTurn (mk : State → State) (o : MemOp) (P : Ctx → Queue → Bool) : Bool :=
  let s := mk (holding (pending o false))
  turnB s (pending o false) fun k o => !s.queueGone k o && !s.runsFull k (s.queueRuns k o) && !s.runsWait k (s.queueRuns k o)
    && P k (s.queue k o.desc)
def onQ (act : MemAct) (a b : Nat) : MemOp := { opOf act [] with a := BitVec.ofNat 128 (a * 2 ^ 64 + 0x1000), b := BitVec.ofNat 128 b }
theorem test_queue_operations :
    queueTurn (queued 0) (onQ .qput 0 7) (fun k q => decide (q.held < q.cap) && !k.parkedAhead (parkOf 0 0 (onQ .qput 0 7)) .qput) = true
    ∧ queueTurn (queued 1) (onQ .qget 0 0) (fun _ q => q.held != 0) = true
    ∧ queueTurn (queued 0) (onQ .qbind 0 0x100) (fun _ _ => true) = true
    ∧ queueTurn (fun s => (queued 0 s).modCtx 0 fun k => { k with binds := [{ (default : Binding) with desc := 0x1000, maxh := 1, bound := true }] })
      (onQ .qunbind 0 0) (fun k _ => k.binds.any fun b => b.desc == 0x1000 && b.bound) = true
    ∧ queueTurn (iqueued 0) (onQ .iqadv 3 0) (fun _ _ => true) = true
    ∧ queueTurn (iqueued 0) (onQ .iqput (2 ^ 32 + 3) 7) (fun k q => decide (q.held < q.cap)
      && !k.parkedAhead (parkOf 0 0 (onQ .iqput (2 ^ 32 + 3) 7)) .iqput) = true
    ∧ queueTurn (iqueued 1) (onQ .iqcons 3 0) (fun _ q => q.arr == 0) = true
    ∧ queueTurn (iqueued 1) (onQ .iqget 3 0) (fun k q => q.arr == 0
      && !((iqueued 1 (holding (pending (onQ .iqget 3 0) false))).irecs k q).isEmpty) = true := by decide +kernel
theorem test_device_write :
    ((queued 0 base).ctx 0).any (fun k => match pieces (queued 0 base).mem k k.devSite 0x1010 8 with
      | .ok [p] => p.n == 8 && (allAllowed base.keys [p] .w).isNone && p.tr.place == .hbm
          && (tget base.mem.key (p.tr.pa / 64)).isNone
      | _ => false) = true
    ∧ ∀ a b : IRec, a.same b = true → (fun _ : IRec => true) a = (fun _ => true) b := ⟨by decide +kernel, fun _ _ _ => rfl⟩

/-- FaultSteps: a fault that no wave holds back, a context that is not stalled, one that is, one found so twice, and a page. -/
def faulted : State := with0 fun k => { k with
  tokens := [], threads := k.threads.map fun x => { x with waves := [], fault := some default } }
def stalledCtx : State := { (ready 0x18 0 1 2 0).modCtx 0 fun k => { k with
  tokens := k.tokens.filter fun a => a.dst == .slot 0 false } with agenda := [] }
def tables : State := { with0 (fun k => { k with desc := { k.desc with rootPA := 0x4000 } }) with
  mem := { base.mem with hbm := [(0x4000, 8, 0x8000000000005000), (0x5000, 8, 0x984000000000000E)].foldl put base.mem.hbm } }
theorem test_faults_and_stalls :
    at0 faulted (fun k => k.heldRecs.isEmpty && decide (k.state.toNat ≤ 1)
      && match k.th 0 with | some x => x.deliverable.isSome | none => false) = true
    ∧ base.ctxs.all (fun k => !base.stuck k) = true
    ∧ at0 stalledCtx (fun k => stalledCtx.stuck k && match k.eldest with
        | some (x, v) => k.th x.num == some x && !x.isDropped v.num && !x.delivered
        | none => false) = true
    ∧ at0 tables (fun k => match walk tables.mem k 0 with | .ok _ => true | .error _ => false) = true := by decide +kernel

/-- LaunchSteps: a record that is sound, one that is not, a launch whose threads are to be created, one that has completed, one
aborted, and a full barrier. -/
def record1 : LaunchRec := { (default : LaunchRec) with lclust := 1, nlev := 1, levels := List.replicate 8 0, seq := 1, parent := 0xFFFFFFFF }
def waiting (r : LaunchRec) : State :=
  { with0 (fun k => { k with launches := [] }) with
    launchq := [{ die := 0, prio := r.prio.toNat, ctx := 0, lrec := r, fromHost := true, stamp := 7 }] }
def launchState (n : Launch) (threads : List Thread) : State := with0 fun k => { k with
  launches := [{ n with lrec := record1 }], threads := threads, tokens := [], placed := [] }
def admits (s : State) : Option (Option Nat) := (s.nextLaunch 0).bind fun q => (s.ctx q.ctx).map fun k => s.launchBad k q.lrec
theorem test_launches :
    admits (waiting record1) = some none
    ∧ at0 (waiting record1) (fun k => !k.genBusy && match (waiting record1).devRead k 0 64 .f with | .ok _ => true | .error _ => false) = true
    ∧ admits (waiting { record1 with nlev := 0 }) = some (some 8)
    ∧ at0 (launchState { launch0 with stage := 1 } []) (fun k => !k.gateShut 0
        && (indexVectors record1.fans).length == 1) = true
    ∧ at0 (launchState { launch0 with stage := 2 } []) (fun k => !k.gateShut 0 && match k.ln 0 with
        | some n => k.placedAll n
        | none => false) = true
    ∧ at0 (launchState launch0 []) (fun k => match k.ln 0 with
        | some n => (launchState launch0 []).complete k n
        | none => false) = true
    ∧ at0 (launchState { launch0 with abort := some (0x15, 1) } []) (fun k => (k.children 0).isEmpty && k.committed.isEmpty
        && k.binds.isEmpty) = true
    ∧ at0 (launchState { launch0 with barriers := [{ (default : Barrier) with members := 2, arrived := 1, ended := 1 }] } []) (fun k =>
        match (k.ln 0).bind fun n => n.barriers.find? (isBarrier 0 0) with
        | some b => b.arrived != 0 && decide (b.members.toNat ≤ b.arrived.toNat + b.ended.toNat)
        | none => false) = true := by decide +kernel

/-- ContextSwitchSteps: the stages of a pre-emption, a restore, a migration, a resident switch and a grant. -/
def emptied (f : Ctx → Ctx) : State := with0 fun k => f { k with tokens := [], threads := [] }
def moving (gated : Bool) : State := emptied fun k => { k with desc := { k.desc with granted := [0, 1] }, shares := [{ Share.fresh 0 with gated := gated, moveTo := some (1, 1) }] }
/-- A share whose waves are done and whose map entry says MOVING. -/
def leaving : State := emptied fun k => { k with
  pmap := [(0, 0xC0000100#32)], shares := [{ Share.fresh 0 with gated := true, moveTo := some (1, 1) }], placed := [] }
/-- Context 1 holds the one cluster of die 0 that is not left, all of it in use, and context 0 waits for room at a priority above. -/
def contended : State :=
  let r := { record1 with prio := 5 }
  let k1 (k : Ctx) : Ctx := { k with num := 1, launches := [{ launch0 with homes := (List.range 16).map fun i => (0, 0, 0, i) }] }
  { waiting r with
    cooling := (List.range 23).map (· + 1)
    owners := (List.range 16).map fun d => (d, 1)
    ctxs := (waiting r).ctxs.map (fun k => { k with threads := [], tokens := [], placed := [] }) ++ base.ctxs.map k1
    waited := [(0, 7)] }
def away : State := { emptied (fun k => { k with state := 3, placed := [], desc := { k.desc with granted := [0] } }) with owners := [] }
def granting : State := { waiting record1 with owners := [] }
theorem test_context_switches :
    at0 { base with victims := [0] } (fun k => k.state == 1 && k.gate == 0 && k.shares.isEmpty) = true
    ∧ at0 (emptied fun k => { k with preempt := true, gate := 1 }) (fun k => (emptied fun k => { k with preempt := true, gate := 1 }).quiet k) = true
    ∧ (((emptied fun k => { k with preempt := true, gate := 2 }).ctx 0).any fun k => k.state == 1 && !k.storesLeft base.mem && !k.faultsLeft
        && k.shares.isEmpty && ((emptied fun k => { k with preempt := true, gate := 2 }).flushLogs 0).2) = true
    ∧ ((away.ctx 0).any fun k => k.state == 3 && !away.fabricFull && k.desc.granted.contains 0 && !away.barred 0
        && !away.touched.contains 0) = true
    ∧ at0 (moving false) (fun k => (k.share 0).moveTo == some (1, 1) && k.moves && !((moving false).migrationPlan k (k.phys 0) 0 1).isEmpty) = true
    ∧ at0 (moving true) (fun k => (k.share 0).gated && k.moves && k.leavingFor 1 == [(0, 1)] && k.shareDone 0
        && !(tgetD k.pmap 0 0).getLsbD 30) = true
    ∧ at0 leaving (fun k => (k.share 0).moveTo == some (1, 1) && (k.share 0).gated && k.moves && k.leavingFor 1 == [(0, 1)]
        && k.shareStill leaving.mem 0 && !leaving.barred 1 && !leaving.capacityWaits k && (tgetD k.pmap 0 0).getLsbD 30 && decide (0 < k.lclusters) && decide (k.lclusters ≤ 128)
        && (leaving.moveShares k (k.leavingFor 1) 1).isSome) = true
    ∧ (((with0 fun k => { k with state := 2 }).ctx 0).any fun k => k.state == 2 && k.gate == 0) = true
    ∧ !(with0 fun k => { k with state := 2 }).fabricFull = true
    ∧ (contended.noneLeft 0 && ((contended.giveFree 0 384).reclaim 0 384).noneLeft 0
        && (((contended.giveFree 0 384).reclaim 0 384).wants 0).any fun w => contended.waited.contains (0, w.stamp)
          && ((contended.giveFree 0 384).reclaim 0 384).victimOf 0 w == some 1) = true
    ∧ ((firstWant (granting.before 0) ((granting.wants 0).filter fun v => (granting.freeFor 0 v).isSome)).any fun w =>
        (granting.freeFor 0 w).isSome) = true := by decide +kernel

/-- PowerAndThermalSteps: the limits each clause names, and a domain with room for ballast. -/
def cold : State := { emptied id with
  pwrctl := [(0, { budget := 500, mingrant := 2, ballast := true })], pwrdom := [(0, { PwrDom.zero with used := 8, grant := 4 })] }
theorem test_power_and_heat :
    (0 < Config.clusters ∧ 95 < Config.clusters ∧ 760 ≤ (760#12).toNat ∧ 840 ≤ (840#12).toNat ∧ 920 ≤ (920#12).toNat ∧ (759#12).toNat < 760
      ∧ (679#12).toNat < 680 ∧ (cold.power 0).watts < 600 ∧ max 1 (cold.power 0).mingrant.toNat < (4#16).toNat)
    ∧ ((cold.power (dieOfCluster 0)).ballast && tgetD cold.spnow 0 0 != 7
      && decide ((tgetD cold.pwrdom 0 PwrDom.zero).ballastNow.toNat < (tgetD cold.pwrdom 0 PwrDom.zero).ballastDue)
      && (List.range 8).any fun pe => cold.ctxs.all fun k => !k.readyIn 0 (0 * 8 + pe)) = true := by decide +kernel

/-- HouseSteps: leases in each state, units to retire, and contexts to tear down. -/
def leasing (e : Lease) : State := { State.reset with leases := [(0, e)] }
def letting : State := { State.reset with leasectl := [(0, { gap := 0, maxconc := 1, hold := false, en := true })] }
theorem test_leases :
    ((letting.leasing 0).en && !(letting.leasing 0).hold && decide ((letting.leasesOf 0).length < (letting.leasing 0).limit)
      && letting.leaseChoice 0 (unitOf 0 0) && ((List.range 8).find? fun i => (letting.lease 0 i).state = 0) == some 0) = true
    ∧ (leasing { Lease.free with state := 1 }).emptied (Lease.retUnit { Lease.free with state := 1 }) = true
    ∧ (let s := leasing { Lease.free with state := 2, kernels := 3 }
       (s.lease 0 0).state == 2 && (s.lease 0 0).kernels == 3 && !s.tenantNeeds 0 (s.testDomains 0 (s.lease 0 0))) = true
    ∧ (let s : State := { elsewhere (waiting record1) with
         launchq := [{ die := 0, prio := 0, ctx := 1, lrec := record1, fromHost := true, stamp := 7 }]
         leases := [(0, { Lease.free with state := 2 })] }
       (s.lease 0 0).state == 2 && s.tenantNeeds 0 (s.testDomains 0 (s.lease 0 0))) = true
    ∧ (let s := leasing { Lease.free with state := 3, kernels := 3 }
       (s.lease 0 0).state == 3 && (s.lease 0 0).failed == 0 && !(s.scoreOf (s.lease 0 0).retUnit).doomed) = true
    ∧ ((leasing { Lease.free with state := 4 }).lease 0 0).state = 4 := by decide +kernel
theorem test_retirements :
    (unitExists (unitOf 0 95) && unitExists (unitOf 3 127) && !(State.reset.scoreOf (unitOf 0 95)).retired && State.reset.retiring.isEmpty)
      = true
    ∧ (let s : State := { State.reset with retiring := [{ unit := unitOf 0 95, reason := 4, ctxs := [1] }] }
       (s.retiring.find? (·.unit == unitOf 0 95)).isSome && s.emptied (unitOf 0 95)) = true
    ∧ base.stillCold = false := by decide +kernel
theorem test_teardowns :
    (((elsewhere base).ctx 1).any fun k => k.state != 4 && k.shares.isEmpty) = true
    ∧ (((emptied fun k => { k with state := 4, launches := [], gate := 2 }).ctx 0).any fun k => k.state == 4 && k.gate == 2 && !k.storesLeft base.mem
      && k.shares.isEmpty && ((emptied fun k => { k with state := 4, launches := [], gate := 2 }).flushLogs 0).2) = true := by decide +kernel
/-- UnitSteps: chimes with a pulse and with a counter at 0, a drum that emits and one that has ended, stream units. -/
def shared (h : Share) : State := with0 fun k => { k with shares := [h] }
def chimed : State := shared { Share.fresh 0 with chime := { Chime.fresh with pulses := [0], ctrs := [(0, BitVec.ofNat 64 (512 + 5 * 2 ^ 40)), (1, 512)] } }
def aDrum (done : Bool) : Drum :=
  { (default : Drum) with num := 5, t := ⟨.pass, .tok, .tok, 1, 0⟩, ctl := if done then 8 else 9, loops := List.replicate 4 0 }
def drumming (done : Bool) : State := shared { Share.fresh 0 with drums := [aDrum done] }
def anAgen (ctl : BitVec 32) (counts : Nat) : Agen :=
  { ctl := ctl, base := 0x100, dims := [BitVec.ofNat 64 counts, 0, 0, 0], pos := 0, tag := 0, blk := 0, faulted := false, part := [] }
def streaming (u : Agen) : State := { shared { Share.fresh 0 with agens := [(0, u)] } with spnow := [(0, 0)] }.modCtx 0 fun k =>
  { k with tokens := k.tokens ++ [{ (probeToken 0 false) with dst := .out 0 }] }
def element (u : Agen) : Bool := at0 (streaming u) fun k => match tget (k.share 0).agens 0 with
  | none => false
  | some v => v.running && !v.isOver && (k.th 0).isSome && k.injection 0 0 == .go && decide (0 ≤ v.address 0) && decide (v.address 0 < 2 ^ 56)
      && match (streaming u).probePlain k 0 (v.access (v.address 0).toNat 0) with | .ok _ => true | .error _ => false
theorem test_units :
    at0 chimed (fun k => !(k.share 0).chime.pulses.isEmpty && ctOn (tgetD (k.share 0).chime.ctrs 1 0)
      && ctCount (tgetD (k.share 0).chime.ctrs 1 0) == 0 && ctOn (tgetD (k.share 0).chime.ctrs 0 0)
      && decide (1 < ctCount (tgetD (k.share 0).chime.ctrs 0 0))) = true
    ∧ at0 (drumming false) (fun k => (aDrum false).running && !(aDrum false).isOver && (aDrum false).runOut.isNone && k.injection 0 0 == .go
      && (drumming false).powered 0 && !k.gateShut 0 && match k.th 0 with
        | some x => !x.isDropped 0 && (k.placedAt x 0).isSome
        | none => false) = true
    ∧ at0 (drumming true) (fun k => (k.share 0).drums.any fun d => d.running && d.isOver) = true
    ∧ element (anAgen 0xC0000000 1) = true ∧ element (anAgen 0x80000000 1) = true
    ∧ at0 (streaming (anAgen 0xC0000000 1)) (fun k => (k.drainTok (anAgen 0xC0000000 1) 0).isSome) = true
    ∧ at0 (streaming (anAgen 0x80000000 1)) (fun k => match k.th 0 with
        | some x => !(streaming (anAgen 0x80000000 1)).feedWaits k 0 x 0 ((anAgen 0x80000000 1).access 0x100 0) && !x.isDropped 0
          && !((anAgen 0x80000000 1).access 0x100 0).torn
        | none => false) = true
    ∧ at0 (streaming (anAgen 0x80000000 0)) (fun k => match tget (k.share 0).agens 0 with
        | some u => u.running && u.isOver
        | none => false) = true := by decide +kernel

/-- MatrixAndEngineSteps: a domain with one command, whose ring 0 holds rows of sixteen E4M3 elements. -/
def aRow : List Byte := [4] ++ List.replicate 15 0 ++ List.replicate 16 0x38
def anArray : Weights := Weights.ofRows 4 false 16 [aRow]
def matrixState (c : DomCmd) (loaded : Bool) : State := shared { Share.fresh 0 with
  bytes := wrN [] 0 aRow, rings := [(0, ring32), (1, ring384)]
  doms := [(0, { Dom.zero with queue := [c], weights := if loaded then some anArray else none, dues := [3], cfgs := [(3, BitVec.ofNat 64 (2 ^ 63 + 2 ^ 59))] })] }
def aCmd (act : DomAct) (a : Nat) (accepted : Bool) : DomCmd :=
  { (default : DomCmd) with act := act, a := BitVec.ofNat 128 a, accepted := accepted, cls := 2 }
def headIs (c : DomCmd) (P : Ctx → DomCmd → Bool) (loaded : Bool) : Bool := at0 (matrixState c loaded) fun k => match k.headCmd 0 0 [c.act] with
  | some q => !q.cancel && P k q
  | none => false
/-- An error that adds 1024 to the first output of the array. -/
def aGlitch : Glitch := { col := 0, seg := 0, neg := false, mant := 1, exp := 10 }
def headRow (k : Ctx) : List Byte := (k.share 0).load (rOff ring32 (rHead ring32)) (rRow ring32)
theorem test_matrix_steps :
    headIs (aCmd .wload (15 * 16) false) (fun k q => rValid ring32 && decide (q.loadN ≤ rFill ring32)
      && (weightsOf ((k.share 0).ringRows ring32 q.loadN) q.loadK q.loadN q.loadSparse (rRow ring32)).isSome) false = true
    ∧ headIs (aCmd .mma (15 * 2 ^ 12) false) (fun k q => rFill ring32 != 0 && headTag q (headRow k) (rRow ring32) == some 4
      && !tilesBad (k.dom 0 0) (k.dom 0 (q.target 0)) q (classOf 4 4)) true = true
    ∧ headIs (aCmd .mma (15 * 2 ^ 12) true) (fun k q => q.rel.isEmpty && decide (q.done < q.rows)
      && (matrixState (aCmd .mma (15 * 2 ^ 12) true) true).powered (k.phys 0 * 16 + 0)
      && !rowBad (k.dom 0 0) (k.dom 0 (q.target 0)) anArray q 4 && !q.decay
      && turnCome (k.dom 0 (q.target 0)) q ((k.dom 0 0).nodes (k.dom 0 (q.target 0)) q q.cls)
      && headTag q (headRow k) (rRow ring32) == some 4
      && checkPasses anArray 4 q.cls q.kUsed ((k.dom 0 0).segments false) (headRow k) []
          (passes anArray q q.cls 4 ((k.dom 0 0).segments false) (headRow k) none)
      && !checkPasses anArray 4 q.cls q.kUsed ((k.dom 0 0).segments false) (headRow k) [Glitch.term aGlitch]
          (passes anArray q q.cls 4 ((k.dom 0 0).segments false) (headRow k) (some aGlitch))) true = true
    ∧ at0 (matrixState (aCmd .mma 0 false) true) (fun k => (k.dom 0 0).dues.contains 3 && !k.matrixStill 0 && cfTk ((k.dom 0 0).cfg 3)) = true
    ∧ headIs { aCmd .accrd 0 false with x := { (default : FormX) with ring := 1 } } (fun k q =>
      !(k.dom 0 0).dues.contains q.x.tile.toNat && (k.share 0).takesTile q.x.ring.toNat) true = true := by decide +kernel

def aCopy (act : EngAct) (started : Bool) (fin : Option (BitVec 8 × BitVec 24)) : EngCmd :=
  { (default : EngCmd) with act := act, desc := BitVec.ofNat 128 (2 ^ 33), a := BitVec.ofNat 128 (0x800 * 2 ^ 64 + 0x100), started := started, fin := fin }
def engineState (c : EngCmd) : State := shared { Share.fresh 0 with cmds := [c] }
theorem test_engine_steps :
    at0 (engineState (aCopy .cpy true none)) (fun k => decide (k.gate < 2) && !(tgetD k.pmap 0 0).getLsbD 30
      && match (engineState (aCopy .cpy true none)).unit k 0 (aCopy .cpy true none) none with | .moved _ _ n => n == 2 | _ => false) = true
    ∧ at0 (engineState (aCopy .cpy true (some (1, 0)))) (fun k => (k.share 0).wordFree 0 && Memory.wf (k.share 0).bytes) = true
    ∧ at0 (engineState (aCopy .coll false none)) (fun k =>
      match (k.collective 0).filter fun m => !m.2.armed && !m.2.started && !m.2.cancel with
      | m :: ms => decide (m.2.collMembers ≤ ms.length + 1)
      | [] => false) = true := by decide +kernel

/-- HostAndPodSteps: a command in the ring, an event to write, a record for a handler, pages of the exposed range, and links. -/
def ringing : State := { with0 (fun k => { k with launches := [], doorbell := true, cmdprod := 1, desc := { k.desc with cmdBase := 0x800 } }) with
  mem := { base.mem with hbm := [(0x863, 1, 1), (0x864, 1, 1), (0x878, 1, 1)].foldl put base.mem.hbm } }
def handling : State := (queued 1 base).modCtx 0 fun k => { k with binds := [{ (default : Binding) with desc := 0x1000, maxh := 1, bound := true }] }
def biased (toHost locks : Bool) (page : Nat) : State := { base with
  hdm := some (0, 0x10000000, 0)
  hostBias := { BiasReq.idle with busy := true, goTo := toHost, goPage := BitVec.ofNat 40 page, since := 5, locks := locks }
  mem := { base.mem with locked := if locks then [page] else [] } }
def linked2 : State := { State.reset with links := [(2, { pv := true, peer := 1, width := 8, lanes := 8, key := 0 })] }
def podRec : LaunchRec := { record1 with levels := 0x6000 :: List.replicate 7 0 }
def stolen : State := { waiting podRec with taken := [stealReq 1 0 4] }
theorem test_host_and_pod :
    ((ringing.ctx 0).any fun k => k.doorbell && k.cmdcons != k.cmdprod && k.state != 4 &&
      let r := { launchRecOf (leBytes 64 (ringing.devWord k (k.desc.cmdBase + (k.cmdcons + 1).toNat % 2 ^ k.desc.cmdLog2 * 64) 64))
        with parent := 0xFFFFFFFF }
      r.seq == 1 && (ringing.fieldBad k r).isNone && decide (ringing.queued (k.dieOf 0) r.prio.toNat < 1024)) = true
    ∧ (((with0 fun k => { k with events := [default] }).ctx 0).any fun k => !k.events.isEmpty
      && decide ((k.evprod - 0).toNat < 2 ^ k.desc.evLog2)) = true
    ∧ at0 handling (fun k => k.spareThread.isSome && k.dispatchable (handling.queue k 0x1000) && !k.gateShut 0 && (k.ln 0).isSome
      && !handling.runsFull k [((handling.queue k 0x1000).va, 64, kRead ||| kWrite),
          ((handling.queue k 0x1000).slot (handling.queue k 0x1000).head, 16, kRead)]) = true
    ∧ ([(true, true), (false, true), (true, false), (false, false)].all fun q =>
        (biased q.1 q.2 0).exposed 0 && !(biased q.1 q.2 0).biasWaits false && !(biased q.1 q.2 0).mem.bias.contains 0
        && (biased q.1 q.2 0).mem.locked.contains 0 == q.2) = true
    ∧ ((biased true false 0x20000).exposed 0x20000 = false)
    ∧ ({ biased true false 0 with sysBias := { BiasReq.idle with busy := true, since := 4 } } : State).biasWaits false = true
    ∧ ({ (biased false false 0) with mem := { base.mem with bias := [0] } } : State).mem.bias.contains 0 = !false
    ∧ ((ringing.ctx 0).any fun k => match ringing.peerPieces k 0x100 8 .rd with
      | .ok ps => !ringing.logFull 0 ps kRead && ps.all fun p => !pieceWaits ringing.mem k p false && !piecePoison ringing.mem p
      | .error _ => false) = true
    ∧ (linked2.laneWidth 2 == 8 && (linked2.link 2).pv && widthOk 8) = true
    ∧ ((stolen.ctx 0).any fun k => !k.openStores stolen.mem && (stolen.stealRec 0).isSome && stolen.modnum != 1
      && (stolen.taken.find? fun r => stealThief r == 1 && stealCtx r == 0).isSome) = true
    ∧ (let q : QRec := { die := 0, prio := 0, ctx := 0, lrec := { podRec with parent := 0 }, fromHost := false, stamp := 0 }
       let s : State := { base with launchq := [q] }
       s.stealRec 0 == some q && isQueuedChild 0 0 q && (s.ctx 0).any fun k => (k.ln 0).isSome) = true
    ∧ (let n : Launch := { launch0 with lrec := { podRec with flags := 2 }, ivals := [(0, 8)] }
       n.isRange && n.lrec.isPod) = true := by decide +kernel

/-- HostAndPodSteps: a page in host bias that the host reads, a line the host holds, and a machine that has started. -/
theorem test_host_pages :
    (({ biased true true 0 with mem := { base.mem with bias := [0], locked := [] } } : State).exposed 0
      && (({ State.reset with mem := { Mems.empty with dir := [(5, { sharers := 0, owner := 0, host := true, dstate := 1 })] } } : State).mem.dirOf 5).host)
      = true
    ∧ 9 ≤ ({ State.reset with start := { Start.cold with step := 10 } } : State).start.step.toNat := by decide +kernel

/-- RegisterAndDebugSteps: a debug port that is enabled, and halted, on a context; a DFENCE that waits; a descriptor. -/
def fencing : State := with0 fun k => { k with committed := [{ (default : Committed) with item := .dfr { (default : DefOp) with act := .dfence }, waiting := true }] }
theorem test_registers_and_debug :
    ((({ base with dbg := { Dbg.off with en := true, halt := true } } : State).ctx 0).isSome
      && (fencing.ctx 0).any fun k => !(k.committed.filter Committed.isFence).isEmpty) = true
    ∧ (descrValid { CtxDescr.none with phys := [0], granted := [0] } && (base.ctx 5).isNone
      && base.quotaFits 5 { CtxDescr.none with phys := [0], granted := [0] }) = true
    ∧ (80#7).toNat ≤ 80 := by decide +kernel

/-! ### Premises about what waits -/

/-- Nothing waits for the image's pages: TransfersByAddress, ThreadInstructionsAreHeld, SystemAccepted, SystemAwaited; and an entry
word that TNEW's probe refuses. -/
theorem test_images_reached :
    ([0x11, 0x12, 0x13, 0x0C].all fun op => fires (imaged finImage (ready op 0 0x100 0x10000 0)) fun f =>
      !(imaged finImage (ready op 0 0x100 0x10000 0)).launchImageWaits f.k f.x.ln) = true
    ∧ ([0xD4, 0xD5].all fun op => fires (imaged finImage (ready op 0 0x10000 0 0)) fun f =>
      !(imaged finImage (ready op 0 0x10000 0 0)).imageWaits f.k f.p.kimg.toNat) = true
    ∧ fires cfgState (fun f => !cfgState.imageWaits f.k f.p.kimg.toNat) = true
    ∧ fires (imaged finImage (ready 0x0C 0 0 5 0)) (fun f => !(imaged finImage (ready 0x0C 0 0 5 0)).launchImageWaits f.k f.x.ln
      && ((imaged finImage (ready 0x0C 0 0 5 0)).entryWordFail f (lo64 f.q.b)).isSome) = true := by decide +kernel

/-- OrderedReduction, InstructionsWait: a held contribution whose turn has come and which ends its reduction, with power and without. -/
def dueState : State := (ready 0x6E 0 7 0 0).modCtx 0 fun k => { k with tokens := [], vreds := k.placed.map fun p =>
  { Vred.fresh 0 p.blk 0 with held := [⟨0, 0, true, 7, false⟩] } }
def dueFiring (s : State) : Option Fire := match (s.siteWords s.focus).map decode with
  | some (.ok (.vred t _)) => s.vredDue t
  | _ => none
theorem test_vred_due :
    (firing dueState).isNone = true
    ∧ (match dueFiring dueState with
      | some f => dueState.powered f.domain && (dueState.breakpoint f.k.num f.x.num f.p.blk f.i).isNone && dueState.upset == .none
        && (f.k.vredAt f.x.num f.p.blk f.i).dueNow == some ⟨0, 0, true, 7, false⟩
        && opensB f [{ (Em.plain f.all 7 (if f.t.act.adds then 0 + 1 else 0)).tagged f.t.act 0 with src := some 0 }]
      | none => false) = true
    ∧ ((dueFiring { dueState with pwrdom := [] }).any fun f => !({ dueState with pwrdom := [] } : State).powered f.domain) = true := by
  decide +kernel

/-- OrderSteps: nothing makes a probe wait; an LDC that takes a FULL granule and an LDI that parks at an EMPTY one. -/
def presenceLoad (op st : Nat) : State := after (.memoryOrderEntry 0 0 0 0) ((stepped (imaged finImage
  (ready op (lone ||| 0x60 ||| (if op = 0x72 then 0x10 else 0)) scratchBase 0 0))).modCtx 0 fun k => { k with
    ovf := 0x1000000000000000, desc := { k.desc with lcount := 1 }
    shares := [(Share.fresh 0).setGran 0 { (Share.fresh 0).gran 0 with st := BitVec.ofNat 2 st }] })
def presenceOk (op st : Nat) (P : Ctx → Thread → MemOp → Bool) : Bool := oneOp (presenceLoad op st) fun k x _ o =>
  (o.act == .ldc || o.act == .ldi) && (presenceLoad op st).mayBind k x 0 o && !x.isDropped o.out && o.granule == some (0, 0, 0)
    && o.ps.all (fun p => !piecePoison (presenceLoad op st).mem p) && P k x o
theorem test_presence_loads :
    oneOp (loading 0x100) (fun k x _ o => !(loading 0x100).probeWaits k x o) = true
    ∧ oneOp (loading (2 ^ 50)) (fun k x _ o => !(loading (2 ^ 50)).probeWaits k x o) = true
    ∧ ([0x72, 0x74].all fun op => presenceOk op 1 fun k x o => presenceReady o (k.prior x 0 0) (k.viewOf o)) = true
    ∧ ([0x72, 0x74].all fun op => presenceOk op 0 fun k x o => !presenceReady o (k.prior x 0 0) (k.viewOf o)
      && decide (((k.share 0).gran 0).readers.length < 65535) && k.ovfRoom && ((k.share 0).gran 0).hold.isNone) = true := by
  decide +kernel

/-- FaultSteps, LaunchSteps, ContextSwitchSteps, BlockSteps: the queues and pages they use can be reached now. -/
theorem test_nothing_waits :
    at0 faulted (fun k => !faulted.faultQueueWaits k) = true
    ∧ ([waiting record1, waiting { record1 with nlev := 0 }].all fun s => at0 s fun k =>
      !s.devWaits k 0 64 false && !s.doneWaits k record1 && !s.doneWaits k { record1 with nlev := 0 }) = true
    ∧ at0 base (fun k => !base.doneWaits k record1 && !base.tripped k && !base.capacityWaits k && k.shares.all fun h => !h.gated) = true
    ∧ at0 stale (fun k => match k.placed.head? with | some p => (k.evict p).ovfFits | none => false) = true
    ∧ ((away.ctx 0).any fun k => !away.capacityWaits k) = true
    ∧ ([granting, contended].all fun s => (List.range 8).all fun i => !s.tenantNeeds 0 (s.testDomains 0 (s.lease 0 i))) = true
    ∧ ((granting.giveFree 0 384).wants 0).all (fun v => ((granting.giveFree 0 384).reclaimable 0 v).isNone) = true
    ∧ (({ moving true with cooling := [1] } : State).barred 1 && !(moving true).barred 1) = true := by decide +kernel

/-- PowerAndThermalSteps: a cluster that has been throttled, on a spine that has. -/
theorem test_recovery :
    ({ base with temps := [(0, { trip := false, throt := true, hot := true, temp := 790 })], spines := [(0, { State.reset.spine 0 0 with throt := true })]
                 spnow := [(0, 0)] } : State).spinesOf 0 = (0 :: (base.spinesOf 0).filter (· != 0))
    ∧ (({ base with spines := [(0, { State.reset.spine 0 0 with throt := true })] } : State).spine 0 0).throt = true
    ∧ (({ base with temps := [(0, { trip := false, throt := true, hot := true, temp := 790 })] } : State).tempOf 0).throt = true := by
  decide +kernel

/-- HouseSteps: a test that can run, one that finds no room, one whose context is gated, one that a tenant's need ends, and one of a link
that takes a free domain; a receipt's page; a step of a warm reset. -/
def testing : State := { with0 (fun k => { k with launches := [], tokens := [], threads := [], placed := [] }) with
  leases := [(0, { Lease.free with state := 2 })] }
theorem test_lease_tests :
    (!(testing.testRoom 0 (testing.lease 0 0)).isEmpty && testing.houseRuns
      && !testing.tenantNeeds 0 (testing.testRoom 0 (testing.lease 0 0)) && !testing.tenantNeeds 0 (testing.testDomains 0 (testing.lease 0 0)))
      = true
    ∧ ((testing.modCtx 0 fun k => { k with gate := 1 }).houseRuns = false)
    ∧ (let e : Lease := { Lease.free with state := 2, kind := 1 }
       let s : State := { testing with owners := [] }
       s.testDomains 0 e == [] && (s.testRoom 0 e).length == 1 && !s.tenantNeeds 0 (s.testRoom 0 e)
         && ({ testing with owners := (List.range 384).map fun d => (d, 1) } : State).testRoom 0 e == []) = true
    ∧ (elsewhere (waiting record1)).ctx 0 = none
    ∧ (let s := elsewhere (emptied fun k => { k with state := 4, launches := [], gate := 2 })
       (s.ctx 1).any fun k => !s.receiptWaits k ((s.tearing.find? (·.ctx == 1)).getD (k.tearingOf s.evseq))
         && !k.storesLeft s.mem && (s.flushLogs 1).2 && k.shares.all fun h => !h.engineRuns && !h.completes) = true
    ∧ (let s := after .warmReset base
       s.start.kind && decide (s.start.step.toNat ≤ 9) && decide (1 ≤ s.start.step.toNat)) = true := by decide +kernel

/-- UnitSteps: what a loader feeds is the bytes at its element's address. -/
theorem test_feeds :
    at0 (streaming (anAgen 0x80000000 1)) (fun k => match k.th 0 with
      | some x => k.logs.isEmpty && (k.prior x 0 0xFF).isEmpty && (anAgen 0x80000000 1).ctl.extractLsb' 18 2 != 3 && !k.discards.contains 0
          && x.lcl == 0 && match (streaming (anAgen 0x80000000 1)).probePlain k 0 ((anAgen 0x80000000 1).access 0x100 0) with
            | .ok ps => ps.all fun p => p.tr.place == .hbm && base.mem.actsAs p.tr == 3 && !piecePoison base.mem p
            | .error _ => false
      | none => false) = true := by decide +kernel

/-- MatrixAndEngineSteps: a due tile whose release goes to a ring and one whose goes to a token, an ACCRD whose rows fit, an armed
command that waits for a place. -/
def fitsB (h : Share) (n cwoff : Nat) : Bool :=
  h.takesTile n && decide (384 ≤ rRow (h.ring n)) && h.wordFree cwoff && Memory.wf h.bytes && h.grans.isEmpty
    && (List.range 8).all fun i => decide (cwoff + 8 ≤ rOff (h.ring n) (rTail (h.ring n) + i))
        || decide (rOff (h.ring n) (rTail (h.ring n) + i) + rRow (h.ring n) ≤ cwoff)
def releasing (cf : Nat) : State := matrixState { aCmd .mma (15 * 2 ^ 12 + 0x5000 * 2 ^ 96) true with rel := [(0, 3)], hold := true, slot := 5 } true |>.modCtx 0
  fun k => { k with shares := k.shares.map fun h => { h with doms := h.doms.map fun e => (e.1, { e.2 with cfgs := [(3, BitVec.ofNat 64 cf)] }) } }
theorem test_releases :
    ([2 ^ 63 + 2 ^ 59 + 2 ^ 27, 2 ^ 63 + 2 ^ 27, 2 ^ 63 + 2 ^ 60 + 2 ^ 27].all fun cf => at0 (releasing cf) fun k => match (k.share 0).completing 0 3 with
      | some (dq, q) => (k.dom 0 0).dues.contains 3 && !k.matrixStill 0 && dq == 0 && q.lcl == 0 && !q.bus && q.hold && !q.holdElems
          && (cfTk ((k.dom 0 0).cfg 3) || (let n := (cfTgt ((k.dom 0 0).cfg 3)).toNat % 32
              n == 1 && rValid ((k.share 0).ring n) && fitsB (k.share 0) n q.cwoff))
          && (destByte false (cfTgt ((k.dom 0 0).cfg 3)) 5 == .slot 1 false)
          && match k.th q.thread with | some x => !x.isDropped q.wave | none => false
      | none => false) = true := by decide +kernel
theorem test_tile_fits : headIs { aCmd .accrd (0x5000 * 2 ^ 96) false with x := { (default : FormX) with ring := 1 } } (fun k q =>
    fitsB (k.share 0) 1 q.cwoff) true = true := by decide +kernel
theorem test_armed_waits :
    at0 (engineState { aCopy .cpy false none with waits := true }) (fun k =>
      decide ((engineState { aCopy .cpy false none with waits := true }).engineLoad (k.phys 0) < 64)) = true
    ∧ (let s := shared { Share.fresh 0 with cmds := { aCopy .cpy false none with waits := true } :: List.replicate 64 (aCopy .cpy true none) }
       at0 s fun k => decide (64 ≤ s.engineLoad (k.phys 0))) = true := by decide +kernel

/-- HostAndPodSteps: a command out of sequence, pages the host may reach, peers bound and unbound, and places for stolen work. -/
theorem test_host_places :
    (ringing.ctx 0).any (fun k => !ringing.devWaits k (k.desc.cmdBase + (k.cmdcons + 1).toNat % 2 ^ k.desc.cmdLog2 * 64) 64 false
      && !ringing.devWaits k 0 64 false && !ringing.doneWaits k record1
      && (ringing.launchBad k { launchRecOf (leBytes 64 (ringing.devWord k (k.desc.cmdBase + (k.cmdcons + 1).toNat % 2 ^ k.desc.cmdLog2 * 64) 64))
          with parent := 0xFFFFFFFF }).isNone) = true
    ∧ (({ ringing with mem := { ringing.mem with hbm := put ringing.mem.hbm (0x878, 1, 2) } } : State).ctx 0).any (fun k =>
      (launchRecOf (leBytes 64 (({ ringing with mem := { ringing.mem with hbm := put ringing.mem.hbm (0x878, 1, 2) } } : State).devWord k
        (k.desc.cmdBase + (k.cmdcons + 1).toNat % 2 ^ k.desc.cmdLog2 * 64) 64))).seq != k.cmdcons + 1) = true
    ∧ at0 handling (fun k => !handling.runsWait k [((handling.queue k 0x1000).va, 64, kRead ||| kWrite),
        ((handling.queue k 0x1000).slot (handling.queue k 0x1000).head, 16, kRead)]) = true
    ∧ ((biased false false 0).exposed 0 && !(biased false false 0).mem.locked.contains 0 && !(biased false false 0).mem.bias.contains 0
      && !(biased false false 0).mem.poison.contains 0 && !(biased false false 0).exposed 0x20000) = true
    ∧ (({ base with mem := { base.mem with peerBinds := [(0, 1, 0)] } } : State).bindsPeer 1 0 && !base.bindsPeer 1 0) = true
    ∧ (at0 (waiting record1) fun k => !(waiting record1).noPlaceFor k (.record []) && !(waiting record1).noPlaceFor k (.interval 0 0 1)) = true
    ∧ (let s : State := { base with launchq := List.replicate 1024 { die := 0, prio := 0, ctx := 0, lrec := record1, fromHost := false, stamp := 0 } }
       at0 s fun k => s.noPlaceFor k (.record [])) = true
    ∧ (let n : Launch := { launch0 with lrec := { podRec with flags := 2 }, ivals := [(8, 8)] }
       n.isRange && n.lrec.isPod && n.ivals.any fun p => ivalLen p == 0) = true := by decide +kernel

end Sys2Proof.Tests
end

section
/-! PROOFS. Registers, the debug port, firmware and context creation: what a delivery of tokens leaves of a context, then a law of
each register write, debug command and house step, and `Obligations.RegisterAndDebugSteps` from them. -/

namespace Sys2Proof.Machine

/-! ### What an instruction answers -/

theorem answers_of_exec {i : Instr} {s t : State} {P : State → Prop} (h : exec i s = .next t) (hP : P t) : answers i s P :=
  ⟨t, h, hP⟩

/-- A register write answers the state with the register written (00 R4). -/
theorem exec_registerWrite (r : WReg) (v : BitVec 64) (s : State) : exec (.registerWrite r v) s = .next (s.writeReg r v) := rfl

theorem answers_registerWrite {r : WReg} {v : BitVec 64} {s : State} {P : State → Prop} (h : P (s.writeReg r v)) :
    answers (.registerWrite r v) s P := answers_of_exec (exec_registerWrite r v s) h

/-- A state whose context has been changed holds the changed context. -/
theorem inCtx_modCtx {s : State} {c : CtxId} {k : Ctx} {f : Ctx → Ctx} {P : Ctx → Prop} (h : s.ctx c = some k)
    (hf : (f k).num = k.num) (hP : P (f k)) : inCtx (s.modCtx c f) c P := ⟨f k, ctx_modCtx h hf, hP⟩

/-! ### What stands of a context while tokens are delivered and waves dropped -/

/-- A context without the fields that a delivery of tokens, a fault or a resumption works on: what is left stands through them. -/
def Ctx.fixedPart (k : Ctx) : Ctx :=
  { k with threads := [], tokens := [], spilled := [], kept := [], vreds := [], parks := [], gated := [], shares := [],
           discards := [] }

/-- A context keeps what stands through a run of changes that each keep it. -/
theorem fixedPart_foldl {α : Type} {f : Ctx → α → Ctx} (hf : ∀ k a, (f k a).fixedPart = k.fixedPart) (l : List α)
    (k : Ctx) : (l.foldl f k).fixedPart = k.fixedPart := by
  induction l generalizing k with
  | nil => rfl
  | cons a l ih => rw [List.foldl_cons, ih, hf]

@[simp] theorem fixedPart_modTh (k : Ctx) (t : ThreadId) (f : Thread → Thread) : (k.modTh t f).fixedPart = k.fixedPart := rfl
@[simp] theorem fixedPart_modWv (k : Ctx) (t : ThreadId) (w : WaveId) (f : Wave → Wave) :
    (k.modWv t w f).fixedPart = k.fixedPart := rfl
@[simp] theorem fixedPart_setShare (k : Ctx) (h : Share) : (k.setShare h).fixedPart = k.fixedPart := rfl
@[simp] theorem fixedPart_paid (k : Ctx) (t : ThreadId) (w : WaveId) : (k.paid t w).fixedPart = k.fixedPart := rfl
@[simp] theorem fixedPart_owe (k : Ctx) (t : ThreadId) (w : WaveId) (b : Addr) : (k.owe t w b).fixedPart = k.fixedPart := rfl
@[simp] theorem fixedPart_squashWaves (k : Ctx) (t : ThreadId) (gone : WaveId → Bool) :
    (k.squashWaves t gone).fixedPart = k.fixedPart := rfl

@[simp] theorem fixedPart_enter (k : Ctx) (a : Arrived) (src : Src) (inside : Bool) :
    (k.enter a src inside).fixedPart = k.fixedPart := by
  unfold Ctx.enter
  split
  · rfl
  · split
    · split <;> rfl
    · rfl

@[simp] theorem fixedPart_put (k : Ctx) (t : ThreadId) (fw w : WaveId) (r : Route) (v1 v2 : Value) :
    (k.put t fw w r v1 v2).fixedPart = k.fixedPart := by
  unfold Ctx.put
  rw [fixedPart_foldl (fun _ _ => fixedPart_enter ..), fixedPart_foldl (fun _ _ => fixedPart_enter ..)]

@[simp] theorem fixedPart_bind (k : Ctx) (th : ThreadId) (w : WaveId) (own : BitVec 8) (v : Value) :
    (k.bind th w own v).fixedPart = k.fixedPart := by
  have marked (f : Wave → Wave) (fw out : WaveId) (r : Route) :
      ((k.modWv th w f).put th fw out r v v).fixedPart = k.fixedPart := by simp
  unfold Ctx.bind
  split
  · rfl
  · dsimp only
    split <;> split <;> exact marked ..

@[simp] theorem fixedPart_answerAll (bytes : List Byte) (rs : List Reader) (k : Ctx) :
    (k.answerAll bytes rs).fixedPart = k.fixedPart := by
  induction rs generalizing k with
  | nil => rfl
  | cons r rs ih => rw [Ctx.answerAll, ih, fixedPart_bind]

@[simp] theorem fixedPart_filled (k : Ctx) (l g : Nat) : (k.filled l g).fixedPart = k.fixedPart := by
  unfold Ctx.filled
  dsimp only
  rw [fixedPart_answerAll, fixedPart_setShare]

@[simp] theorem fixedPart_restoreHolds (k : Ctx) (t : ThreadId) (gone : WaveId → Bool) :
    (k.restoreHolds t gone).fixedPart = k.fixedPart :=
  fixedPart_foldl (fun _ _ => fixedPart_filled ..) _ k

@[simp] theorem fixedPart_raise (k : Ctx) (t : ThreadId) (r : FaultRec) : (k.raise t r).fixedPart = k.fixedPart := by
  unfold Ctx.raise
  split
  · rfl
  · split
    · rfl
    · simp

@[simp] theorem fixedPart_raiseAt (k : Ctx) (t : ThreadId) (b : Addr) (n : Seen) (w : WaveId) (cause origin : BitVec 8)
    (detail : BitVec 24) (faddr : BitVec 64) : (k.raiseAt t b n w cause origin detail faddr).fixedPart = k.fixedPart := by
  unfold Ctx.raiseAt
  split
  · rfl
  · exact fixedPart_raise ..

/-- A late result leaves everything of its context but what a delivery or a fault works on. -/
@[simp] theorem fixedPart_emitLate (k : Ctx) (c : Committed) (blk : Addr) (seen : Seen) (r : Route) (v1 v2 : Value) :
    (k.emitLate c blk seen r v1 v2).fixedPart = k.fixedPart := by
  unfold Ctx.emitLate
  split
  · rfl
  · split
    · rfl
    · split
      · exact fixedPart_raiseAt ..
      · have emitted (K : Ctx) (hK : K.fixedPart = k.fixedPart) (b : Bool) (t : ThreadId) (w : WaveId) :
            (if b then K.paid t w else K).fixedPart = k.fixedPart := by
          split
          · rw [fixedPart_paid, hK]
          · exact hK
        refine emitted _ ?_ ..
        split
        · rfl
        · exact fixedPart_put ..

@[simp] theorem fixedPart_oweResult (k : Ctx) (c : Committed) : (k.oweResult c).1.fixedPart = k.fixedPart := by
  unfold Ctx.oweResult
  split
  · rfl
  · split
    · rfl
    · exact fixedPart_owe ..

/-- The same without the list of committed operations, in which the results that a context owes are marked. -/
def Ctx.fixedButCommitted (k : Ctx) : Ctx := { k.fixedPart with committed := [] }

theorem fixedButCommitted_of_fixedPart {j k : Ctx} (h : j.fixedPart = k.fixedPart) :
    j.fixedButCommitted = k.fixedButCommitted := congrArg (fun i : Ctx => { i with committed := [] }) h

theorem fixedButCommitted_oweResults (k : Ctx) : k.oweResults.fixedButCommitted = k.fixedButCommitted := by
  have counted (cs : List Committed) (q : Ctx × List Committed) :
      (cs.foldl (fun (q : Ctx × List Committed) c => let o := q.1.oweResult c; (o.1, q.2 ++ [o.2])) q).1.fixedPart
        = q.1.fixedPart := by
    induction cs generalizing q with
    | nil => rfl
    | cons c cs ih => rw [List.foldl_cons, ih, fixedPart_oweResult]
  exact (fixedButCommitted_of_fixedPart (counted k.committed (k, [])) :)

/-- Feeding the held results changes nothing that stands but the list of committed operations. -/
theorem fixedButCommitted_feedHeld (k : Ctx) : k.feedHeld.fixedButCommitted = k.fixedButCommitted := by
  unfold Ctx.feedHeld
  dsimp only
  rw [fixedButCommitted_oweResults]
  exact fixedButCommitted_of_fixedPart (fixedPart_foldl (fun _ _ => fixedPart_enter ..) _ _)

@[simp] theorem feedHeld_num (k : Ctx) : k.feedHeld.num = k.num := (congrArg Ctx.num (fixedButCommitted_feedHeld k) :)
@[simp] theorem feedHeld_halted (k : Ctx) : k.feedHeld.halted = k.halted :=
  (congrArg Ctx.halted (fixedButCommitted_feedHeld k) :)

/-! ### The debug port (02 R75) -/

/-- What HALT cleared, and STEP, do to their target. -/
def Ctx.goesOn (k : Ctx) : Ctx := if k.gate = 0 then ({ k with halted := false } : Ctx).feedHeld else { k with halted := false }

@[simp] theorem goesOn_num (k : Ctx) : k.goesOn.num = k.num := by
  unfold Ctx.goesOn
  split
  · exact feedHeld_num _
  · rfl

@[simp] theorem goesOn_halted (k : Ctx) : k.goesOn.halted = false := by
  unfold Ctx.goesOn
  split
  · exact feedHeld_halted _
  · rfl

@[simp] theorem halt_mem (s : State) : s.halt.mem = s.mem := modCtx_mem ..
@[simp] theorem unhalt_mem (s : State) : s.unhalt.mem = s.mem := modCtx_mem ..
@[simp] theorem stepOne_mem (s : State) : s.stepOne.mem = s.mem := modCtx_mem ..

theorem halt_ctx {s : State} {k : Ctx} (h : s.ctx s.dbg.ctx = some k) :
    s.halt.ctx s.dbg.ctx = some { k with halted := true } :=
  ctx_modCtx (f := fun k : Ctx => { k with halted := true }) h rfl

theorem halt_dbg_halted {s : State} {k : Ctx} (h : s.ctx s.dbg.ctx = some k) : s.halt.dbg.halted = true :=
  Option.isSome_of_eq_some h

theorem unhalt_ctx {s : State} {k : Ctx} (h : s.ctx s.dbg.ctx = some k) : s.unhalt.ctx s.dbg.ctx = some k.goesOn :=
  ctx_modCtx (f := Ctx.goesOn) h (goesOn_num k)

theorem stepOne_ctx {s : State} {k : Ctx} (h : s.ctx s.dbg.ctx = some k) : s.stepOne.ctx s.dbg.ctx = some k.goesOn :=
  ctx_modCtx (f := Ctx.goesOn) h (goesOn_num k)

/-- A context is there after a change of one context exactly when it was there before. -/
theorem ctx_modCtx_isSome {f : Ctx → Ctx} (hf : ∀ k, (f k).num = k.num) (s : State) (c d : CtxId) :
    ((s.modCtx c f).ctx d).isSome = (s.ctx d).isSome := by
  by_cases h : d = c
  · subst h
    cases hk : s.ctx d with
    | none => unfold State.modCtx; rw [hk]; simp [hk]
    | some k => rw [ctx_modCtx hk (hf k)]; rfl
  · rw [ctx_modCtx_other hf h]

theorem unhalt_ctx_isSome (s : State) (c : CtxId) : (s.unhalt.ctx c).isSome = (s.ctx c).isSome :=
  ctx_modCtx_isSome (f := Ctx.goesOn) goesOn_num s s.dbg.ctx c

/-- What a write of DBG.CTL makes of the RW fields of the port. -/
def Dbg.written (g : Dbg) (v : BitVec 64) : Dbg :=
  { g with ctx := v.extractLsb' 20 12, thread := v.extractLsb' 4 16, halt := v.getLsbD 2, allthr := v.getLsbD 1, en := v.getLsbD 0 }

/-- A held context goes on first when the port turns from it, or when HALT and STEP are both written 0. -/
def State.released (s : State) (v : BitVec 64) : State :=
  if (s.dbg.halt || s.dbg.halted) && (v.extractLsb' 20 12 != s.dbg.ctx || (!v.getLsbD 2 && !v.getLsbD 3)) then s.unhalt else s

@[simp] theorem released_mem (s : State) (v : BitVec 64) : (s.released v).mem = s.mem := by
  unfold State.released
  split
  · exact unhalt_mem s
  · rfl

theorem released_ctx_isSome (s : State) (v : BitVec 64) (c : CtxId) : ((s.released v).ctx c).isSome = (s.ctx c).isSome := by
  unfold State.released
  split
  · exact unhalt_ctx_isSome s c
  · rfl

/-- The state in which STEP and HALT of a write of DBG.CTL act. -/
def State.dbgFields (s : State) (v : BitVec 64) : State := { s.released v with dbg := (s.released v).dbg.written v }

/-- STEP outranks HALT; where neither is written 1, the fields stay as written. -/
theorem writeDbgCtl_eq (s : State) (v : BitVec 64) : s.writeDbgCtl v =
    if v.getLsbD 3 then (s.dbgFields v).stepOne else if v.getLsbD 2 then (s.dbgFields v).halt else s.dbgFields v := rfl

/-- STEP written 1 steps. -/
theorem writeDbgCtl_step {s : State} {v : BitVec 64} (h : v.getLsbD 3 = true) : s.writeDbgCtl v = (s.dbgFields v).stepOne :=
  if_pos h

theorem writeDbgCtl_halt {s : State} {v : BitVec 64} (h3 : v.getLsbD 3 = false) (h2 : v.getLsbD 2 = true) :
    s.writeDbgCtl v = (s.dbgFields v).halt := by
  rw [writeDbgCtl_eq, h3, h2]
  rfl

theorem writeDbgCtl_clear {s : State} {v : BitVec 64} (h3 : v.getLsbD 3 = false) (h2 : v.getLsbD 2 = false) :
    s.writeDbgCtl v = s.dbgFields v := by
  rw [writeDbgCtl_eq, h3, h2]
  rfl

@[simp] theorem writeDbgCtl_mem (s : State) (v : BitVec 64) : (s.writeDbgCtl v).mem = s.mem := by
  have h : (s.dbgFields v).mem = s.mem := released_mem s v
  rw [writeDbgCtl_eq]
  split
  · rw [stepOne_mem, h]
  · split
    · rw [halt_mem, h]
    · exact h

/-- The RW fields of DBG.CTL hold what was written, whatever STEP and HALT do. -/
theorem writeDbgCtl_fields (s : State) (v : BitVec 64) :
    let g := (s.writeDbgCtl v).dbg
    g.ctx = v.extractLsb' 20 12 ∧ g.thread = v.extractLsb' 4 16 ∧ g.allthr = v.getLsbD 1 ∧ g.en = v.getLsbD 0
      ∧ g.halt = v.getLsbD 2 := by
  rw [writeDbgCtl_eq]
  split
  · exact ⟨rfl, rfl, rfl, rfl, rfl⟩
  · split
    · next h2 => exact ⟨rfl, rfl, rfl, rfl, h2.symm⟩
    · exact ⟨rfl, rfl, rfl, rfl, rfl⟩

/-- HALT written 1 without STEP holds the context that is named. -/
theorem writeDbgCtl_holds {s : State} {v : BitVec 64} {k : Ctx} (h2 : v.getLsbD 2 = true) (h3 : v.getLsbD 3 = false)
    (hk : s.ctx (v.extractLsb' 20 12) = some k) :
    (s.writeDbgCtl v).dbg.halted = true ∧ inCtx (s.writeDbgCtl v) (v.extractLsb' 20 12) fun j => j.halted = true := by
  have hs : ((s.dbgFields v).ctx (s.dbgFields v).dbg.ctx).isSome = true :=
    (released_ctx_isSome s v _).trans (Option.isSome_of_eq_some hk)
  obtain ⟨j, hj⟩ := Option.isSome_iff_exists.1 hs
  rw [writeDbgCtl_halt h3 h2]
  exact ⟨halt_dbg_halted hj, _, halt_ctx hj, rfl⟩

/-- HALT and STEP written 0 let the context go on that the port held. -/
theorem writeDbgCtl_releases {s : State} {v : BitVec 64} {k : Ctx} (h2 : v.getLsbD 2 = false) (h3 : v.getLsbD 3 = false)
    (hh : s.dbg.halt = true) (hk : s.ctx s.dbg.ctx = some k) :
    (s.writeDbgCtl v).dbg.halted = false ∧ inCtx (s.writeDbgCtl v) s.dbg.ctx fun j => j.halted = false := by
  have hr : s.released v = s.unhalt := if_pos (by rw [hh, h2, h3]; simp)
  rw [writeDbgCtl_clear h3 h2, State.dbgFields, hr]
  exact ⟨rfl, _, unhalt_ctx hk, goesOn_halted k⟩

/-- A write of DBG.CTL. -/
theorem answers_dbgCtl (v : BitVec 64) (s : State) : answers (.registerWrite .dbgCtl v) s fun t => t.mem = s.mem
    ∧ t.dbg.ctx = v.extractLsb' 20 12 ∧ t.dbg.thread = v.extractLsb' 4 16 ∧ t.dbg.allthr = v.getLsbD 1
    ∧ t.dbg.en = v.getLsbD 0 ∧ t.dbg.halt = v.getLsbD 2
    ∧ (v.getLsbD 3 = true → t.dbg.stepping = true)
    ∧ (v.getLsbD 2 = true → v.getLsbD 3 = false → ∀ k, s.ctx (v.extractLsb' 20 12) = some k →
        t.dbg.halted = true ∧ inCtx t (v.extractLsb' 20 12) fun j => j.halted = true)
    ∧ (v.getLsbD 2 = false → v.getLsbD 3 = false → s.dbg.halt = true → ∀ k, s.ctx s.dbg.ctx = some k →
        t.dbg.halted = false ∧ inCtx t s.dbg.ctx fun j => j.halted = false) := by
  obtain ⟨hctx, hthread, hall, hen, hhalt⟩ := writeDbgCtl_fields s v
  refine answers_registerWrite ⟨writeDbgCtl_mem s v, hctx, hthread, hall, hen, hhalt, ?_, ?_, ?_⟩
  · intro h3
    show (s.writeDbgCtl v).dbg.stepping = true
    rw [writeDbgCtl_step h3]
    rfl
  · exact fun h2 h3 _ hk => writeDbgCtl_holds h2 h3 hk
  · exact fun h2 h3 hh _ hk => writeDbgCtl_releases h2 h3 hh hk

theorem answers_dbgHalt {s : State} {k : Ctx} (hen : s.dbg.en = true) (hk : s.ctx s.dbg.ctx = some k) :
    answers .dbgHalt s fun t => t.mem = s.mem ∧ t.dbg.halt = true ∧ t.dbg.halted = true
      ∧ t.ctx s.dbg.ctx = some { k with halted := true } := by
  have hx : exec .dbgHalt s = .next s.halt := congrArg Host.Outcome.next (if_pos hen)
  exact answers_of_exec hx ⟨halt_mem s, rfl, halt_dbg_halted hk, halt_ctx hk⟩

theorem answers_dbgResume {s : State} {k : Ctx} (hh : s.dbg.halt = true) (hk : s.ctx s.dbg.ctx = some k) :
    answers .dbgResume s fun t => t.mem = s.mem ∧ t.dbg.halt = false ∧ t.dbg.halted = false
      ∧ inCtx t s.dbg.ctx fun j => j.halted = false := by
  have hx : exec .dbgResume s = .next s.unhalt := congrArg Host.Outcome.next (if_pos (by rw [hh]; rfl))
  exact answers_of_exec hx ⟨unhalt_mem s, rfl, rfl, _, unhalt_ctx hk, goesOn_halted k⟩

theorem answers_dbgStep {s : State} {k : Ctx} (hen : s.dbg.en = true) (hk : s.ctx s.dbg.ctx = some k) :
    answers .dbgStep s fun t => t.mem = s.mem ∧ t.dbg.stepping = true ∧ t.dbg.halted = false
      ∧ inCtx t s.dbg.ctx fun j => j.halted = false := by
  have hx : exec .dbgStep s = .next s.stepOne := congrArg Host.Outcome.next (if_pos hen)
  exact answers_of_exec hx ⟨stepOne_mem s, rfl, rfl, _, stepOne_ctx hk, goesOn_halted k⟩

/-! ### Registers of the house (02 R72, 16 R454) -/

theorem answers_spinefreqWrite {die spine : Nat} {code : BitVec 7} (s : State) (hd : die < 4) (hs : spine < 7)
    (hc : code.toNat ≤ 80) : answers (.spinefreqWrite die spine code) s fun t => t.mem = s.mem
      ∧ t.spine die spine = { s.spine die spine with code := code, busy := true } := by
  have hx : exec (.spinefreqWrite die spine code) s = .next (s.writeSpineFreq die spine code) :=
    congrArg Host.Outcome.next (if_pos (by simp [hd, hs]))
  have hw : s.writeSpineFreq die spine code = s.setSpine die spine { s.spine die spine with code := code, busy := true } :=
    if_neg (by
      simp only [Bool.or_eq_true, decide_eq_true_eq]
      omega)
  exact answers_of_exec hx (hw ▸ ⟨rfl, tgetD_tset_same ..⟩)

theorem answers_spselWrite {clu dom : Nat} (sp : BitVec 3) (s : State) (hc : clu < Config.clusters) (hd : dom < 16) :
    answers (.spselWrite clu dom sp) s fun t =>
      t.readReg (.spsel clu dom) = sp.zeroExtend 64 ∧ t.spnow = s.spnow ∧ t.mem = s.mem := by
  have hx : exec (.spselWrite clu dom sp) s = .next (s.writeSpsel clu dom sp) :=
    congrArg Host.Outcome.next (if_pos (by simp [hc, hd]))
  exact answers_of_exec hx ⟨congrArg (BitVec.zeroExtend 64) (tgetD_tset_same ..), rfl, rfl⟩

theorem ofBool_getLsbD {n : Nat} (x : BitVec n) (i : Nat) : BitVec.ofBool (x.getLsbD i) = x.extractLsb' i 1 := by
  ext j hj
  obtain rfl : j = 0 := by omega
  simp

theorem readReg_pwrCtl_written (v : BitVec 64) (d : Nat) (s : State) :
    (s.writeReg (.pwrCtl d) v).readReg (.pwrCtl d) = (v.extractLsb' 15 33 ++ (0 : BitVec 15)).zeroExtend 64 := by
  have hp : (s.writeReg (.pwrCtl d) v).power d
      = { budget := v.extractLsb' 32 16, mingrant := v.extractLsb' 16 16, ballast := v.getLsbD 15 } := tgetD_tset_same ..
  simp only [State.readReg, hp]
  rw [ofBool_getLsbD, BitVec.extractLsb'_append_extractLsb'_eq_extractLsb' (show 32 = 16 + 16 from rfl),
    BitVec.extractLsb'_append_extractLsb'_eq_extractLsb' (show 16 = 15 + 1 from rfl)]

theorem readReg_leaseCtl_written (v : BitVec 64) (d : Nat) (s : State) :
    (s.writeReg (.leaseCtl d) v).readReg (.leaseCtl d)
      = v.extractLsb' 32 32 ++ (0 : BitVec 16) ++ v.extractLsb' 8 8 ++ (0 : BitVec 6) ++ v.extractLsb' 0 2 := by
  have hp : (s.writeReg (.leaseCtl d) v).leasing d
      = { gap := v.extractLsb' 32 32, maxconc := v.extractLsb' 8 8, hold := v.getLsbD 1, en := v.getLsbD 0 } :=
    tgetD_tset_same ..
  have hb : v.extractLsb' 0 2 = BitVec.ofBool (v.getLsbD 1) ++ BitVec.ofBool (v.getLsbD 0) := by
    rw [ofBool_getLsbD, ofBool_getLsbD, BitVec.extractLsb'_append_extractLsb'_eq_extractLsb' (show 1 = 0 + 1 from rfl)]
  simp only [State.readReg, hp]
  rw [hb, BitVec.append_assoc]
  rfl

/-- Registers without a writable field stand (00 R4). -/
theorem exec_registerWrite_readOnly {r : WReg} (v : BitVec 64) (s : State)
    (hr : r ∈ [WReg.dbgStat, .dbgDdata, .sysEvseq, .sysStart, .hostBiasCnt]) : exec (.registerWrite r v) s = .next s := by
  simp only [List.mem_cons, List.not_mem_nil, or_false] at hr
  rcases hr with rfl | rfl | rfl | rfl | rfl <;> rfl

/-! ### Bias requests (16 R439) -/

/-- Both bias request registers are written by one rule. -/
theorem writeReg_biasReq (v : BitVec 64) (house : Bool) (s : State) :
    s.writeReg (if house then .sysBiasReq else .hostBiasReq) v
      = s.setBiasReq house ((s.biasReq house).write s.tick v) := by
  cases house <;> rfl

@[simp] theorem setBiasReq_mem (s : State) (house : Bool) (r : BiasReq) : (s.setBiasReq house r).mem = s.mem := by
  cases house <;> rfl

@[simp] theorem biasReq_setBiasReq_same (s : State) (house : Bool) (r : BiasReq) : (s.setBiasReq house r).biasReq house = r := by
  cases house <;> rfl

@[simp] theorem biasReq_setBiasReq_other (s : State) (house : Bool) (r : BiasReq) :
    (s.setBiasReq house r).biasReq (!house) = s.biasReq (!house) := by
  cases house <;> rfl

theorem biasWrite_fields {r : BiasReq} {v : BitVec 64} (now : Nat) (h : v.getLsbD 63 = false) :
    r.write now v = { r with toHost := v.getLsbD 59, page := v.extractLsb' 12 40 } := if_pos (by rw [h]; rfl)

/-- A GO while a request runs is ignored (16 R439). -/
theorem biasWrite_busy {r : BiasReq} {v : BitVec 64} (now : Nat) (h : v.getLsbD 63 = true) (hb : r.busy = true) :
    r.write now v = r := by
  rw [BiasReq.write, h, hb]
  rfl

theorem biasWrite_go {r : BiasReq} {v : BitVec 64} (now : Nat) (h : v.getLsbD 63 = true) (hb : r.busy = false) :
    r.write now v = { busy := true, result := 0, toHost := v.getLsbD 59, page := v.extractLsb' 12 40, goTo := v.getLsbD 59,
                      goPage := v.extractLsb' 12 40, since := now, locks := false } := by
  rw [BiasReq.write, h, hb]
  rfl

theorem answers_biasReq (v : BitVec 64) (house : Bool) (s : State) :
    answers (.registerWrite (if house then .sysBiasReq else .hostBiasReq) v) s fun t => t.mem = s.mem
      ∧ t.biasReq (!house) = s.biasReq (!house)
      ∧ (v.getLsbD 63 = false → t.biasReq house
          = { s.biasReq house with toHost := v.getLsbD 59, page := v.extractLsb' 12 40 })
      ∧ (v.getLsbD 63 = true → (s.biasReq house).busy = true → t.biasReq house = s.biasReq house)
      ∧ (v.getLsbD 63 = true → (s.biasReq house).busy = false → (t.biasReq house).busy = true ∧ (t.biasReq house).result = 0
          ∧ (t.biasReq house).goTo = v.getLsbD 59 ∧ (t.biasReq house).goPage = v.extractLsb' 12 40) := by
  apply answers_registerWrite
  rw [writeReg_biasReq, setBiasReq_mem, biasReq_setBiasReq_same, biasReq_setBiasReq_other]
  refine ⟨rfl, rfl, biasWrite_fields _, biasWrite_busy _, fun h hb => ?_⟩
  rw [biasWrite_go _ h hb]
  exact ⟨rfl, rfl, rfl, rfl⟩

/-! ### Links (16 R447, R450) -/

/-- A width that no link has leaves the link (16 R450). -/
theorem exec_sysLink_badWidth {v : BitVec 64} (n : Nat) (s : State) (h : widthOk (v.extractLsb' 4 4) = false) :
    exec (.registerWrite (.sysLink n) v) s = .next s :=
  congrArg Host.Outcome.next (if_neg (by rw [h]; decide))

theorem answers_sysLink {v : BitVec 64} (n : Nat) (s : State) (h : widthOk (v.extractLsb' 4 4) = true) :
    answers (.registerWrite (.sysLink n) v) s fun t => t.mem = s.mem
      ∧ t.link n = { s.link n with width := v.extractLsb' 4 4 } ∧ ∀ m, m ≠ n → t.link m = s.link m := by
  have hw : s.writeReg (.sysLink n) v = { s with links := tset s.links n { s.link n with width := v.extractLsb' 4 4 } } := if_pos h
  apply answers_registerWrite
  rw [hw]
  exact ⟨rfl, tgetD_tset_same .., fun m hm => tgetD_tset_other _ _ _ hm⟩

theorem answers_linkKey (v : BitVec 64) (n : Nat) (s : State) :
    answers (.registerWrite (.linkKey n) v) s fun t => t.mem = s.mem
      ∧ t.link n = { s.link n with key := v.extractLsb' 0 12 } :=
  answers_registerWrite ⟨rfl, tgetD_tset_same ..⟩

/-! ### Breakpoints and the dictionary selection of the debug port (02 R75, 06 R171) -/

theorem answers_dbgBkpt (v : BitVec 64) (n : Nat) (s : State) :
    answers (.registerWrite (.dbgBkpt n) v) s fun t => t.mem = s.mem ∧ t.readReg (.dbgBkpt n) = v &&& ~~~15#64 :=
  answers_registerWrite ⟨rfl, tgetD_tset_same ..⟩

theorem answers_dbgDsel (v : BitVec 64) (s : State) :
    answers (.registerWrite .dbgDsel v) s fun t => t.mem = s.mem
      ∧ t.readReg .dbgDsel = (v.extractLsb' 10 4 ++ v.extractLsb' 0 10).zeroExtend 64 :=
  answers_registerWrite ⟨rfl, rfl⟩

/-! ### Registers of a context (02 R66 to R69) -/

/-- A register write that changes one context keeps the memory and changes that context. -/
theorem answers_ctxWrite {r : WReg} {v : BitVec 64} {c : CtxId} {s : State} {k j : Ctx} (f : Ctx → Ctx)
    (hr : s.writeReg r v = s.modCtx c f) (hk : s.ctx c = some k) (hj : f k = j) (hn : j.num = k.num) :
    answers (.registerWrite r v) s fun t => t.mem = s.mem ∧ t.ctx c = some j :=
  answers_registerWrite (hr ▸ ⟨modCtx_mem .., hj ▸ ctx_modCtx hk (hj ▸ hn)⟩)

/-! ### Page-table entries, the exposed range, routes and bindings -/

theorem length_leBytes (n v : Nat) : (leBytes n v).length = n := by
  induction n generalizing v with
  | zero => rfl
  | succ n ih => rw [leBytes, List.length_cons, ih]

theorem answers_pageEntry (v : BitVec 64) (pa : Nat) (s : State) (h : Memory.wf s.mem.hbm = true) :
    answers (.registerWrite (.pageEntry pa) v) s fun t => rdN t.mem.hbm (pa / 8 * 8) 8 = leBytes 8 v.toNat
      ∧ ∀ a, a / 8 ≠ pa / 8 → rd t.mem.hbm a = rd s.mem.hbm a := by
  have hl := length_leBytes 8 v.toNat
  refine answers_registerWrite ⟨?_, fun a ha => rd_wrN_other _ ?_⟩
  · have hw := rdN_wrN_same (pa / 8 * 8) (leBytes 8 v.toNat) h
    rwa [hl] at hw
  · rw [hl]
    omega

/-- The TSP lock freezes the exposed range (16 R438). -/
theorem exec_hdmRange_locked (v : BitVec 64) (key : BitVec 12) (s : State) (h : s.tspLock = true) :
    exec (.registerWrite (.hdmRange key) v) s = .next s :=
  congrArg Host.Outcome.next (if_pos (by rw [h]; rfl))

theorem answers_hdmRange {v : BitVec 64} (key : BitVec 12) (s : State) (h : s.tspLock = false)
    (hv : (v.extractLsb' 0 32).toNat + (v.extractLsb' 32 32).toNat ≤ 4096) :
    answers (.registerWrite (.hdmRange key) v) s fun t => t.mem.hbm = s.mem.hbm
      ∧ t.hdm = (if v.extractLsb' 32 32 = 0 then none
          else some ((v.extractLsb' 0 32).toNat * 2 ^ 28, (v.extractLsb' 32 32).toNat * 2 ^ 28, key.toNat)) := by
  have hw : ¬ (s.tspLock || (v.extractLsb' 0 32).toNat + (v.extractLsb' 32 32).toNat > 4096) = true := by
    simp only [h, Bool.false_or, decide_eq_true_eq]
    omega
  have hz : v.extractLsb' 32 32 = 0 ↔ (v.extractLsb' 32 32).toNat = 0 := BitVec.toNat_eq
  apply answers_registerWrite
  rw [State.writeReg, State.setHdm, if_neg hw]
  exact ⟨rfl, if_congr hz.symm rfl rfl⟩

theorem answers_tspLock (v : BitVec 64) (s : State) :
    answers (.registerWrite .tspLock v) s fun t => t.mem = s.mem ∧ t.tspLock = (s.tspLock || v.getLsbD 0) :=
  answers_registerWrite ⟨rfl, rfl⟩

theorem answers_peerRoute (v : BitVec 64) (p : Nat) (s : State) :
    answers (.registerWrite (.peerRoute p) v) s fun t => t.mem.hbm = s.mem.hbm ∧ (p ∈ t.mem.routes ↔ v.getLsbD 0 = true) := by
  refine answers_registerWrite ⟨rfl, ?_⟩
  show p ∈ (if v.getLsbD 0 then s.mem.routes.filter (· != p) ++ [p] else s.mem.routes.filter (· != p)) ↔ _
  cases v.getLsbD 0 <;> simp

/-- None of the entries left without those of a kind is of the kind. -/
theorem any_filter_not {α : Type} (p : α → Bool) (l : List α) : (l.filter fun a => !p a).any p = false := by
  simp [List.any_filter]

/-- A binding written names its context and peer exactly when bit 63 says so (16 R449). -/
theorem answers_peerBind (v : BitVec 64) {p : Nat} (c : CtxId) (s : State) (hp : p < 256) :
    answers (.registerWrite (.peerBind c p) v) s fun t => t.mem.hbm = s.mem.hbm
      ∧ t.bindsPeer (BitVec.ofNat 8 p) c = v.getLsbD 63 := by
  refine answers_registerWrite ⟨rfl, ?_⟩
  have hn : (BitVec.ofNat 8 p).toNat = p := (BitVec.toNat_ofNat ..).trans (Nat.mod_eq_of_lt hp)
  show (if v.getLsbD 63 then _ else _ : List (Nat × Nat × Nat)).any _ = _
  rw [hn]
  cases v.getLsbD 63 with
  | true => simp
  | false => exact any_filter_not (fun b : Nat × Nat × Nat => b.1 = c.toNat && b.2.1 = p) _

/-! ### DFENCE, firmware and context creation (06 R170, 16 R451, 01 R12, 07 R205) -/

/-- Every waiting DFENCE of a list gives the generation. -/
def Ctx.answerFences (k : Ctx) (gen : Value) (fs : List Committed) : Ctx :=
  fs.foldl (fun k e => match e.item with
    | .dfr d => k.emitLate e d.blk d.seen d.rt gen gen
    | .mem _ => k) k

theorem fixedPart_answerFences (k : Ctx) (gen : Value) (fs : List Committed) :
    (k.answerFences gen fs).fixedPart = k.fixedPart := by
  refine fixedPart_foldl (fun k e => ?_) fs k
  split
  · exact fixedPart_emitLate ..
  · rfl

/-- A context whose DFENCEs have been answered (06 R170). -/
def Ctx.fenced (k : Ctx) : Ctx :=
  if (k.committed.filter Committed.isFence).isEmpty then k
  else ({ k with fpend := false, committed := k.committed.filter fun e => !e.isFence } : Ctx).answerFences (k.gen.zeroExtend 128)
    (k.committed.filter Committed.isFence)

theorem exec_dfenceCompletion (c : CtxId) (s : State) : exec (.dfenceCompletion c) s = .next (s.modCtx c Ctx.fenced) := rfl

theorem fixedPart_fenced {k : Ctx} (h : k.committed.filter Committed.isFence ≠ []) :
    k.fenced.fixedPart = { k with fpend := false, committed := k.committed.filter fun e => !e.isFence }.fixedPart := by
  rw [Ctx.fenced, if_neg (by simpa using h), fixedPart_answerFences]

theorem answers_dfenceCompletion {c : CtxId} {s : State} {k : Ctx} (hk : s.ctx c = some k)
    (hf : (k.committed.filter Committed.isFence) ≠ []) :
    answers (.dfenceCompletion c) s fun t => t.mem = s.mem ∧ inCtx t c fun j => j.fpend = false
      ∧ j.committed = k.committed.filter fun e => !e.isFence := by
  have h := fixedPart_fenced hf
  exact answers_of_exec (exec_dfenceCompletion c s) ⟨modCtx_mem .., inCtx_modCtx hk (congrArg Ctx.num h :)
    ⟨(congrArg Ctx.fpend h :), (congrArg Ctx.committed h :)⟩⟩

theorem exec_firmwareUpdate_staged {img : FirmwareImage} {s : State} (h : img.signed = true)
    (hv : s.flash.version ≤ img.version) : exec (.firmwareUpdate img) s = .next { s with staged := some img } :=
  congrArg Host.Outcome.next (if_pos (by simp [h, hv]))

theorem tget_zip_range' {α : Type} (es : List α) (m l : Nat) : tget ((List.range' m es.length).zip es) (m + l) = es[l]? := by
  induction es generalizing m l with
  | nil => rfl
  | cons e es ih =>
    rw [List.length_cons, List.range'_succ, List.zip_cons_cons, tget]
    cases l with
    | zero => simp
    | succ l =>
      rw [if_neg (by omega), List.getElem?_cons_succ, ← ih (m + 1) l]
      congr 1
      omega

/-- The entries of a list as a table by their places. -/
theorem tget_zip_range {α : Type} (es : List α) (l : Nat) : tget ((List.range es.length).zip es) l = es[l]? := by
  have h := tget_zip_range' es 0 l
  rwa [Nat.zero_add, ← List.range_eq_range'] at h

/-- PHYS of a placement-map entry is the cluster it was made of (06 R172). -/
theorem phys_mapWord {p fold : Nat} (hp : p < 128) (hf : fold < 256) : ((mapWord p fold).extractLsb' 16 7).toNat = p := by
  simp only [mapWord, BitVec.extractLsb'_toNat, BitVec.toNat_ofNat, Nat.shiftRight_eq_div_pow]
  omega

/-- The map puts each logical cluster on the cluster listed for it (06 R172). -/
theorem phys_setMap (k : Ctx) {ps : List Nat} {l : Nat} (hl : l < ps.length) (hn : ps.length < 256) (hp : ∀ p ∈ ps, p < 128) :
    (k.setMap ps).phys l = ps.getD l 0 := by
  have hw (p : Nat) (h : p ∈ ps) : ((mapWord p (ps.filter (· == p)).length).extractLsb' 16 7).toNat = p :=
    phys_mapWord (hp p h) (Nat.lt_of_le_of_lt (List.length_filter_le ..) hn)
  have ht := tget_zip_range (ps.map fun p => mapWord p (ps.filter (· == p)).length) l
  rw [List.length_map, List.getElem?_map, List.getElem?_eq_getElem hl] at ht
  have hg : ps.getD l 0 = ps[l] := by simp [hl]
  rw [hg, Ctx.phys, Ctx.setMap, tgetD, ht]
  exact hw _ (List.getElem_mem hl)

/-- The physical clusters of a valid descriptor: one for each logical cluster, at most 128, each on the module. -/
theorem descrValid_phys {d : CtxDescr} (h : descrValid d = true) :
    d.phys.length = d.lcount ∧ d.lcount ≤ 128 ∧ ∀ p ∈ d.phys, p < Config.clusters := by
  simp only [descrValid, Bool.and_eq_true, decide_eq_true_eq, List.all_eq_true] at h
  obtain ⟨⟨⟨⟨⟨⟨⟨⟨⟨-, hcount⟩, hlen⟩, hphys⟩, -⟩, -⟩, -⟩, -⟩, -⟩, -⟩ := h
  exact ⟨hlen, hcount, fun p hp => (hphys p hp).1⟩

theorem ctx_append_new {s : State} {k : Ctx} (h : s.ctx k.num = none) :
    ({ s with ctxs := s.ctxs ++ [k] } : State).ctx k.num = some k := by
  unfold State.ctx at *
  simp only
  rw [List.find?_append, h]
  simp

theorem answers_contextCreation {c : CtxId} {d : CtxDescr} {s : State} (hc : s.ctx c = none) (hd : descrValid d = true)
    (hq : s.quotaFits c d = true) :
    answers (.contextCreation c d) s fun t => t.mem = s.mem ∧ t.evseq = s.evseq + 1
      ∧ inCtx t c fun j => j.desc = d ∧ j.state = 0 ∧ ∀ l, l < d.lcount → j.phys l = d.phys.getD l 0 := by
  obtain ⟨hlen, hcount, hphys⟩ := descrValid_phys hd
  let k := (Ctx.fresh c d).setMap d.phys
  have hx : exec (.contextCreation c d) s = .next (({ s with ctxs := s.ctxs ++ [k] } : State).houseEvent) := by
    show execContextCreation c d s = _
    rw [execContextCreation, hc]
    simp only [hd, hq, Bool.and_self, if_true]
    rfl
  refine answers_of_exec hx ⟨rfl, rfl, k, ctx_append_new (k := k) hc, rfl, rfl, fun l hl => ?_⟩
  exact phys_setMap _ (by omega) (by omega) fun p hp => Nat.lt_trans (hphys p hp) (by decide)

/-- Settles O60: a law for each register, debug command and house step, and the frame of what a delivery of tokens leaves. -/
theorem registerAndDebugSteps : Obligations.RegisterAndDebugSteps := by
  unfold Obligations.RegisterAndDebugSteps
  refine ⟨?spinefreq, ?spsel, ?words, ?bias, ?links, ?port, ?context, ?page, ?exposed, ?peers, ?halt, ?resume, ?step, ?fences,
    ?firmware, ?creation⟩
  case spinefreq => exact fun _ _ _ s => answers_spinefreqWrite s
  case spsel => exact fun _ _ sp s => answers_spselWrite sp s
  case words =>
    exact fun v s => ⟨answers_registerWrite rfl, fun d => answers_registerWrite (readReg_pwrCtl_written v d s),
      fun d => answers_registerWrite (readReg_leaseCtl_written v d s), fun _ => exec_registerWrite_readOnly v s⟩
  case bias => exact answers_biasReq
  case links => exact fun v n s => ⟨exec_sysLink_badWidth n s, answers_sysLink n s, answers_linkKey v n s⟩
  case port => exact fun v n s => ⟨answers_dbgBkpt v n s, answers_dbgDsel v s, answers_dbgCtl v s⟩
  case context =>
    exact fun v c s k hk => ⟨answers_ctxWrite _ rfl hk rfl rfl, answers_ctxWrite _ rfl hk rfl rfl, answers_ctxWrite _ rfl hk rfl rfl,
      answers_ctxWrite _ rfl hk rfl rfl, answers_ctxWrite _ rfl hk rfl rfl, answers_ctxWrite _ rfl hk rfl rfl⟩
  case page => exact answers_pageEntry
  case exposed => exact fun v key s => ⟨exec_hdmRange_locked v key s, answers_hdmRange key s, answers_tspLock v s⟩
  case peers => exact fun v p c s => ⟨answers_peerRoute v p s, answers_peerBind v c s⟩
  case halt => exact fun _ _ => answers_dbgHalt
  case resume => exact fun _ _ => answers_dbgResume
  case step => exact fun _ _ => answers_dbgStep
  case fences => exact fun _ _ _ => answers_dfenceCompletion
  case firmware => exact fun _ _ => exec_firmwareUpdate_staged
  case creation => exact fun _ _ _ => answers_contextCreation

end Sys2Proof.Machine
end

section
/-! PROOFS. What a step of the machine comes to, by its choice and what may move: `Obligations.StepRunsTheDecodedInstruction`. -/

namespace Sys2Proof.Machine

/-! ### What a step comes to -/

/-- A choice that may not move passes without effect. -/
theorem step_of_not_admitted {s : State} (h : s.admits s.choice = false) : step s = .next s.begun := by
  simp [step, h]

/-- A firing may move once the fabric runs and nothing of its PE comes before it. -/
theorem admits_fire {s : State} {a : Site} {u : Upset} {late : List Site} (hc : s.choice = .fire a u late) :
    s.admits s.choice = (s.up && !s.outranked a late) := by rw [hc]; rfl

theorem admits_event {s : State} {i : Instr} (hc : s.choice = .event i) :
    s.admits s.choice = (s.up || Instr.atStart i) := by rw [hc]; rfl

/-- An encoded instruction is no step of the machine by itself. -/
theorem step_of_encoded_event {s : State} {i : Instr} (hc : s.choice = .event i) (hi : i.opcode.isSome = true) :
    step s = .next s.begun := by
  unfold step
  split
  · rfl
  · rw [hc]; exact if_pos hi

theorem step_of_event {s : State} {i : Instr} (hc : s.choice = .event i) (hi : i.opcode = none)
    (ha : s.admits s.choice = true) : step s = exec i s.begun := by
  unfold step
  rw [ha, hc]
  simp only [Bool.not_true, Bool.false_eq_true, if_false, hi, Option.isSome_none]

theorem step_of_fire {s : State} {a : Site} {u : Upset} {late : List Site} {w : Words} {i : Instr}
    (hc : s.choice = .fire a u late) (ha : s.admits s.choice = true) (hw : s.begun.siteWords a = some w)
    (hi : decode w = .ok i) : step s = exec i { s.begun with focus := a, upset := u } := by
  unfold step
  rw [ha, hc]
  simp only [Bool.not_true, Bool.false_eq_true, if_false, hw, hi]

/-- Settles O6: each kind of choice, by what may move. -/
theorem stepRunsTheDecodedInstruction : Obligations.StepRunsTheDecodedInstruction := by
  unfold Obligations.StepRunsTheDecodedInstruction
  refine ⟨?fires, ?event, ?starting, ?outranked, fun _ _ hc hi => step_of_encoded_event hc hi⟩
  case fires =>
    intro s a u late w i hc hup ho hw hi
    exact step_of_fire hc (by rw [admits_fire hc, hup, ho]; rfl) hw hi
  case event =>
    intro s i hc hi hup
    exact step_of_event hc hi (by rw [admits_event hc, hup]; rfl)
  case starting =>
    intro s a u late hc hup
    exact step_of_not_admitted (by rw [admits_fire hc, hup]; rfl)
  case outranked =>
    intro s a u late hc ho
    exact step_of_not_admitted (by rw [admits_fire hc, ho]; simp)

end Sys2Proof.Machine
end

section
/-! PROOFS. The floating vector instructions: each one's firing computes a value and flags, and so completes with them:
`Obligations.VectorFloatingInstructionsComplete`. -/

namespace Sys2Proof.Machine

/-- An instruction whose firing computes a value and flags completes with them (12 R317). -/
theorem completes_of_result {i : Instr} {t : Tmpl} {xa : Option XArg} {takesB : Bool} {l : Lits} {op : Fire → Value × FpFlags}
    (h : ∀ s, exec i s = .next (s.fire t xa takesB l fun f => f.result (op f).1 (op f).2)) :
    completes i t xa takesB l (fun _ _ => True) (fun _ f => [f.emit (op f).1]) (fun f => (op f).2) fun _ => id := by
  intro s f hf _ ho
  rw [h, fire_acts hf rfl ho]

theorem vectorOne_of_exec {mk : Tmpl → FormG → Instr} {op : FormG → Value → Value × FpFlags}
    (h : ∀ t g s, exec (mk t g) s = vOne t g (op g) s) : vectorOne mk op :=
  fun t g => completes_of_result (op := fun f => op g f.q.a) (h t g)

theorem vectorTwo_of_exec {mk : Tmpl → FormG → Instr} {takesB : FormG → Bool} {op : FormG → Value → Value → Value × FpFlags}
    (h : ∀ t g s, exec (mk t g) s = vMaybe t g (takesB g) (op g) s) : vectorTwo mk takesB (fun _ => false)
      op :=
  fun t g => completes_of_result (op := fun f => op g f.q.a f.q.b) (h t g)

theorem vectorThree_of_exec {mk : Tmpl → FormG → XArg → Instr} {op : FormG → Value → Value → Value → Value × FpFlags}
    (h : ∀ t g xa s, exec (mk t g xa) s = vThree t g xa (op g) s) : vectorThree mk op :=
  fun t g xa => completes_of_result (op := fun f => op g f.q.a f.q.b f.q.c) (h t g xa)

/-- Settles O32: every one of the instructions is of one of the shapes above; VSEL tests its element with `!=`, and VSCALE has literals
of its own. -/
theorem vectorFloatingInstructionsComplete : Obligations.VectorFloatingInstructionsComplete := by
  unfold Obligations.VectorFloatingInstructionsComplete
  have two {mk : Tmpl → FormG → Instr} {op : FormG → Value → Value → Value × FpFlags}
      (h : ∀ t g s, exec (mk t g) s = vTwo t g (op g) s) : vectorTwo mk (fun _ => true) (fun _ => false) op :=
    vectorTwo_of_exec h
  have hsel : vectorThree .vsel fun g a b c => map3 g a b c fun x y z => (if x ≠ 0 then y else z, 0) :=
    vectorThree_of_exec fun t g xa s => by
      show vThree t g xa (fun a b c => map3 g a b c fun x y z => (if x != 0 then y else z, 0)) s = _
      simp only [bne_iff_ne]
  have hscale : vectorTwo .vscale (fun _ => true) (fun _ => true)
      fun g a b => map2 g a b fun x y => scaleBy (gFmt g) (gRm g) g.sat x (signed (tyWidth g.ty.toNat) y) :=
    fun t g => completes_of_result (op := fun f => map2 g f.q.a f.q.b fun x y =>
      scaleBy (gFmt g) (gRm g) g.sat x (signed (tyWidth g.ty.toNat) y)) fun _ => rfl
  exact ⟨two fun _ _ _ => rfl, two fun _ _ _ => rfl, two fun _ _ _ => rfl, two fun _ _ _ => rfl,
    vectorThree_of_exec fun _ _ _ _ => rfl, vectorThree_of_exec fun _ _ _ _ => rfl, vectorThree_of_exec fun _ _ _ _ => rfl,
    vectorThree_of_exec fun _ _ _ _ => rfl, two fun _ _ _ => rfl, two fun _ _ _ => rfl, two fun _ _ _ => rfl, hscale,
    two fun _ _ _ => rfl, hsel, two fun _ _ _ => rfl, vectorOne_of_exec fun _ _ _ => rfl, vectorOne_of_exec fun _ _ _ => rfl,
    vectorOne_of_exec fun _ _ _ => rfl, vectorOne_of_exec fun _ _ _ => rfl, vectorOne_of_exec fun _ _ _ => rfl,
    vectorOne_of_exec fun _ _ _ => rfl, vectorOne_of_exec fun _ _ _ => rfl, vectorOne_of_exec fun _ _ _ => rfl,
    vectorOne_of_exec fun _ _ _ => rfl, vectorOne_of_exec fun _ _ _ => rfl, vectorOne_of_exec fun _ _ _ => rfl,
    vectorOne_of_exec fun _ _ _ => rfl, vectorOne_of_exec fun _ _ _ => rfl, two fun _ _ _ => rfl,
    vectorTwo_of_exec fun _ _ _ => rfl, vectorTwo_of_exec fun _ _ _ => rfl, vectorTwo_of_exec fun _ _ _ => rfl,
    vectorTwo_of_exec fun _ _ _ => rfl, vectorTwo_of_exec fun _ _ _ => rfl⟩

end Sys2Proof.Machine
end

section
/-! PROOFS. A firing and the context around it: what stands ready, what the delivery of a firing's tokens leaves, and
`Obligations.FiringFrame`. -/

namespace Sys2Proof.Machine

/-! ### The firing at the focus -/

/-- A firing found at the focus is one of an active context: the thread and the placed block that the focus names there. -/
theorem firingOf_some {s : State} {m : Tmpl} {xt : Option Tmpl} {get : Ctx → Thread → Placed → Option Args} {f : Fire}
    (h : s.firingOf m xt get = some f) :
    ∃ k, s.active s.focus.ctx = some k ∧ f.k = { k with stalled := false } ∧ k.th s.focus.thread = some f.x
      ∧ k.placedAt f.x s.focus.blk = some f.p ∧ f.i = s.focus.slot ∧ f.w = s.focus.wave ∧ f.t = m := by
  unfold State.firingOf at h
  split at h
  · cases h
  · next k hk =>
    split at h
    · cases h
    · next x hx =>
      split at h
      · cases h
      · next p hp =>
        split at h
        · cases h
        · cases h
          exact ⟨k, hk, rfl, hx, hp, rfl, rfl, rfl⟩

/-- The context of a firing is the one the focus names, without its mark of a stall. -/
theorem firingOf_ctx {s : State} {m : Tmpl} {xt : Option Tmpl} {get : Ctx → Thread → Placed → Option Args} {f : Fire}
    (h : s.firingOf m xt get = some f) :
    ∃ k, s.ctx s.focus.ctx = some k ∧ f.k = { k with stalled := false } ∧ k.th f.x.num = some f.x := by
  obtain ⟨k, hk, hf, hx, -⟩ := firingOf_some h
  exact ⟨k, (active_ctx hk).1, hf, th_num hx ▸ hx⟩

/-- A run of changes keeps what each of them keeps. -/
theorem foldl_keeps {α β γ : Type} (p : β → γ) {f : β → α → β} (hf : ∀ b a, p (f b a) = p b) (l : List α) (b : β) :
    p (l.foldl f b) = p b := by
  induction l generalizing b with
  | nil => rfl
  | cons a l ih => rw [List.foldl_cons, ih, hf]

/-! ### What the parts of a firing leave of its context (01 R35) -/

/-- A context without the fields that a firing with no further change works on. -/
def Ctx.unfired (k : Ctx) : Ctx :=
  { k with stalled := false, unfolded := [], threads := [], placed := [], tokens := [], kept := [], shares := [] }

/-- What can be read of a context without those fields is equal where the rest is. -/
theorem eq_of_unfired {β : Type} {j k : Ctx} (h : j.unfired = k.unfired) (p : Ctx → β)
    (hp : ∀ k, p k.unfired = p k := by intro; rfl) :
    p j = p k := (hp j).symm.trans ((congrArg p h).trans (hp k))

/-- A share without its performance counters. -/
def Share.uncounted (h : Share) : Share := { h with perf := [] }

@[simp] theorem unfired_modWv (k : Ctx) (t : ThreadId) (w : WaveId) (f : Wave → Wave) : (k.modWv t w f).unfired = k.unfired := rfl
@[simp] theorem unfired_perfAdd (k : Ctx) (l n b : Nat) : (k.perfAdd l n b).unfired = k.unfired := rfl
@[simp] theorem unfired_charge (k : Ctx) (u c e : Nat) : (k.charge u c e).unfired = k.unfired := rfl
@[simp] theorem unfired_touchBlock (k : Ctx) (p : Placed) (n : Nat) : (k.touchBlock p n).unfired = k.unfired := rfl

/-- The waves `ws` are those of `vs`, changed or not, and wave `w`. -/
def sameWavesAnd (w : WaveId) (vs ws : List Wave) : Prop :=
  (∀ v ∈ ws, v.num = w ∨ ∃ u ∈ vs, u.num = v.num) ∧ ∀ v ∈ vs, ∃ u ∈ ws, u.num = v.num

theorem sameWavesAnd_refl (w : WaveId) (vs : List Wave) : sameWavesAnd w vs vs :=
  ⟨fun v hv => .inr ⟨v, hv, rfl⟩, fun v hv => ⟨v, hv, rfl⟩⟩

theorem sameWavesAnd_append {w : WaveId} (vs : List Wave) {v : Wave} (hv : v.num = w) : sameWavesAnd w vs (vs ++ [v]) := by
  refine ⟨fun u hu => ?_, fun u hu => ⟨u, List.mem_append_left _ hu, rfl⟩⟩
  rcases List.mem_append.1 hu with h | h
  · exact .inr ⟨u, h, rfl⟩
  · exact .inl (List.mem_singleton.1 h ▸ hv)

/-- A change of one wave that keeps its number keeps the numbers. -/
theorem map_num_updFirst (p : Wave → Bool) {f : Wave → Wave} (hf : ∀ v, (f v).num = v.num) (vs : List Wave) :
    (updFirst p f vs).map (·.num) = vs.map (·.num) := by
  induction vs with
  | nil => rfl
  | cons v vs ih =>
    unfold updFirst
    split <;> simp [hf, ih]

theorem sameWavesAnd_of_nums (w : WaveId) {vs ws : List Wave} (h : ws.map (·.num) = vs.map (·.num)) : sameWavesAnd w vs ws := by
  have hm (n : WaveId) : (∃ u ∈ ws, u.num = n) ↔ ∃ u ∈ vs, u.num = n := by
    rw [← List.mem_map, h, List.mem_map]
  exact ⟨fun v hv => .inr ((hm _).1 ⟨v, hv, rfl⟩), fun v hv => (hm _).2 ⟨v, hv, rfl⟩⟩

theorem sameWavesAnd_logInto (vs : List Wave) (r : LogRec) : sameWavesAnd r.arr.tok.wave vs (logInto vs r) := by
  unfold logInto
  split
  · exact sameWavesAnd_of_nums _ (map_num_updFirst _ (f := fun v => v.logged r) (fun _ => rfl) vs)
  · exact sameWavesAnd_append vs rfl

/-- What a token's entry comes to: nothing; a record in the log of a dropped wave; or a token in the matching store, in a wave of
its thread (01 R20, R38). -/
theorem enter_cases (k : Ctx) (a : Arrived) (src : Src) (inside : Bool) :
    k.enter a src inside = k
    ∨ (∃ x ds, k.th a.tok.thread = some x ∧ k.enter a src inside = k.setTh { x with dropped := ds })
    ∨ ∃ x ws, k.th a.tok.thread = some x ∧ x.isDropped a.tok.wave = false ∧ sameWavesAnd a.tok.wave x.waves ws
        ∧ k.enter a src inside = { k.setTh { x with waves := ws } with tokens := k.tokens ++ [a] } := by
  unfold Ctx.enter
  split
  · exact .inl rfl
  · next x hx =>
    split
    · split
      · exact .inl rfl
      · exact .inr (.inl ⟨x, _, hx, rfl⟩)
    · next hd =>
      refine .inr (.inr ?_)
      have hd : x.isDropped a.tok.wave = false := by simpa using hd
      split
      · split
        · exact ⟨x, _, hx, hd, sameWavesAnd_refl .., rfl⟩
        · exact ⟨x, _, hx, hd, sameWavesAnd_append _ rfl, rfl⟩
      · exact ⟨x, _, hx, hd, sameWavesAnd_logInto _ ⟨a, src⟩, rfl⟩

@[simp] theorem unfired_enter (k : Ctx) (a : Arrived) (src : Src) (inside : Bool) :
    (k.enter a src inside).unfired = k.unfired := by
  obtain h | ⟨_, _, _, h⟩ | ⟨_, _, _, _, _, h⟩ := enter_cases k a src inside <;> rw [h] <;> rfl

@[simp] theorem shares_enter (k : Ctx) (a : Arrived) (src : Src) (inside : Bool) :
    (k.enter a src inside).shares = k.shares := by
  obtain h | ⟨_, _, _, h⟩ | ⟨_, _, _, _, _, h⟩ := enter_cases k a src inside <;> rw [h] <;> rfl

theorem th_enter_other {k : Ctx} {a : Arrived} {t : ThreadId} (src : Src) (inside : Bool) (ht : t ≠ a.tok.thread) :
    (k.enter a src inside).th t = k.th t := by
  obtain h | ⟨x, ds, hx, h⟩ | ⟨x, ws, hx, _, _, h⟩ := enter_cases k a src inside
  · rw [h]
  · rw [h]
    exact th_setTh_other k (y := { x with dropped := ds }) ((th_num hx).symm ▸ ht)
  · rw [h]
    exact th_setTh_other k (y := { x with waves := ws }) ((th_num hx).symm ▸ ht)

@[simp] theorem unfired_send (k : Ctx) (p : Placed) (t : ThreadId) (fw : WaveId) (urg : Bool) (e : Em) :
    (k.send p t fw urg e).unfired = k.unfired := foldl_keeps Ctx.unfired (fun _ _ => unfired_enter ..) _ k

@[simp] theorem shares_send (k : Ctx) (p : Placed) (t : ThreadId) (fw : WaveId) (urg : Bool) (e : Em) :
    (k.send p t fw urg e).shares = k.shares := foldl_keeps Ctx.shares (fun _ _ => shares_enter ..) _ k

theorem th_send_other {k : Ctx} {t u : ThreadId} (p : Placed) (fw : WaveId) (urg : Bool) (e : Em) (h : u ≠ t) :
    (k.send p t fw urg e).th u = k.th u :=
  foldl_keeps (fun k : Ctx => k.th u) (fun _ _ => th_enter_other _ _ h) _ k

theorem unfired_take (k : Ctx) (p : Placed) (t : ThreadId) (w : WaveId) (i : Nat) (b used : Bool) :
    (k.take p t w i b used).unfired = k.unfired := by cases used <;> rfl

theorem unfired_keep (k : Ctx) (p : Placed) (i : Nat) (b used : Bool) (tok : Option Token) :
    (k.keep p i b used tok).unfired = k.unfired := by cases tok <;> cases used <;> rfl

@[simp] theorem unfired_consume (k : Ctx) (p : Placed) (t : ThreadId) (w : WaveId) (i : Nat) (m : Tmpl) (q : Args) :
    (k.consume p t w i m q).unfired = k.unfired := by
  simp only [Ctx.consume, unfired_keep, unfired_take]

/-- Consuming the operands leaves the threads and the shares. -/
theorem consume_threads_shares (k : Ctx) (p : Placed) (t : ThreadId) (w : WaveId) (i : Nat) (m : Tmpl) (q : Args) :
    (k.consume p t w i m q).threads = k.threads ∧ (k.consume p t w i m q).shares = k.shares := by
  have take (k : Ctx) (i : Nat) (b used : Bool) :
      (k.take p t w i b used).threads = k.threads ∧ (k.take p t w i b used).shares = k.shares := by cases used <;> exact ⟨rfl, rfl⟩
  have keep (k : Ctx) (b used : Bool) (tok : Option Token) :
      (k.keep p i b used tok).threads = k.threads ∧ (k.keep p i b used tok).shares = k.shares := by
    cases tok <;> cases used <;> exact ⟨rfl, rfl⟩
  simp only [Ctx.consume, take, keep, and_self]

theorem share_of_shares {j k : Ctx} (h : j.shares = k.shares) (l : Nat) : j.share l = k.share l := by
  unfold Ctx.share; rw [h]

@[simp] theorem uncounted_perfAdd (k : Ctx) (l n b m : Nat) : ((k.perfAdd l n b).share m).uncounted = (k.share m).uncounted := by
  rw [share_perfAdd]
  split
  · next h => rw [h]; rfl
  · rfl

/-! ### A whole firing -/

/-- A firing that takes place leaves of its context what its further change leaves. -/
theorem unfired_apply (f : Fire) (es : List Em) (flags : BitVec 5) {g : Ctx → Ctx} (hg : ∀ k, (g k).unfired = k.unfired) :
    (f.apply es flags g).unfired = f.k.unfired := by
  unfold Fire.apply
  simp only [unfired_perfAdd, unfired_modWv]
  rw [foldl_keeps Ctx.unfired fun _ _ => unfired_send .., hg, unfired_consume]

theorem th_apply_other {f : Fire} (es : List Em) (flags : BitVec 5) {u : ThreadId} (h : u ≠ f.x.num) :
    (f.apply es flags id).th u = f.k.th u := by
  unfold Fire.apply
  have hp (k : Ctx) (l n b : Nat) : (k.perfAdd l n b).th u = k.th u := rfl
  simp only [hp, id]
  rw [Ctx.modWv, th_modTh_other _ (f := fun x => x.modWv f.live _) (fun _ => rfl) h,
    foldl_keeps (fun k : Ctx => k.th u) fun _ _ => th_send_other _ _ _ _ h]
  unfold Ctx.th
  rw [(consume_threads_shares ..).1]

theorem share_apply (f : Fire) (es : List Em) (flags : BitVec 5) (l : Nat) :
    ((f.apply es flags id).share l).uncounted = (f.k.share l).uncounted := by
  unfold Fire.apply
  simp only [uncounted_perfAdd, share_modWv, id]
  rw [share_of_shares ((foldl_keeps Ctx.shares (fun _ _ => shares_send ..) _ _).trans (consume_threads_shares ..).2)]

/-- The context that a firing leaves. -/
def State.firedCtx (s : State) (f : Fire) (es : List Em) (flags : BitVec 5) (g : Ctx → Ctx) : Ctx :=
  ((f.apply es flags g).charge (f.k.seatOf f.p) 1 0).touchBlock f.p s.tick

theorem unfired_firedCtx (s : State) (f : Fire) (es : List Em) (flags : BitVec 5) {g : Ctx → Ctx}
    (hg : ∀ k, (g k).unfired = k.unfired) : (s.firedCtx f es flags g).unfired = f.k.unfired := by
  unfold State.firedCtx
  rw [unfired_touchBlock, unfired_charge, unfired_apply f es flags hg]

theorem fired_ctx {s : State} {f : Fire} {k : Ctx} {c : CtxId} {es : List Em} {flags : BitVec 5} {g : Ctx → Ctx}
    (hk : s.ctx c = some k) (hn : (s.firedCtx f es flags g).num = c) :
    (s.fired f es flags g).ctx c = some (s.firedCtx f es flags g) := ctx_setCtx hk hn

/-- Settles O13: the delivery of tokens leaves everything but the firing's thread, its tokens and the counters. -/
theorem firingFrame : Obligations.FiringFrame := by
  unfold Obligations.FiringFrame
  intro s f es flags tm xa takesB l ⟨hr, _⟩
  obtain ⟨k, hk, hfk, _⟩ := firingOf_ctx hr
  have hu : (s.firedCtx f es flags id).unfired = k.unfired := by
    rw [unfired_firedCtx s f es flags (g := id) fun _ => rfl, hfk]
    rfl
  have hs (m : Nat) : ((s.firedCtx f es flags id).share m).uncounted = (k.share m).uncounted := by
    have h : ((s.firedCtx f es flags id).share m).uncounted = ((f.apply es flags id).share m).uncounted := rfl
    rw [h, share_apply, hfk]
    rfl
  have ht (u : ThreadId) (h : u ≠ f.x.num) : (s.firedCtx f es flags id).th u = k.th u := by
    have h0 : (s.firedCtx f es flags id).th u = (f.apply es flags id).th u := rfl
    rw [h0, th_apply_other es flags h, hfk]
    rfl
  have hn : (s.firedCtx f es flags id).num = s.focus.ctx := (eq_of_unfired hu Ctx.num).trans (ctx_num hk)
  have he {β : Type} (p : Ctx → β) (hp : ∀ k, p k.unfired = p k) := eq_of_unfired hu p hp
  refine ⟨rfl, k, _, hk, fired_ctx hk hn, he Ctx.num ?_, he Ctx.desc ?_, he Ctx.state ?_, he Ctx.flt ?_, he Ctx.fpflags ?_,
    he Ctx.sel ?_, he Ctx.gen ?_, he Ctx.dreg ?_, he Ctx.pmap ?_, he Ctx.pins ?_, he Ctx.binds ?_, he Ctx.ksel ?_, he Ctx.logs ?_,
    he Ctx.energy ?_, he Ctx.pq ?_, he Ctx.events ?_, he Ctx.heldRecs ?_, he Ctx.launches ?_, he Ctx.committed ?_, he Ctx.vreds ?_,
    he Ctx.arrs ?_, he Ctx.gate ?_, he Ctx.halted ?_, he Ctx.spilled ?_, ht, fun m => ?_⟩
  case refine_25 =>
    have h := hs m
    exact ⟨(congrArg Share.bytes h :), (congrArg Share.grans h :), (congrArg Share.engine h :), (congrArg Share.rings h :),
      (congrArg Share.chime h :), (congrArg Share.agens h :), (congrArg Share.drums h :), (congrArg Share.doms h :),
      (congrArg Share.cmds h :)⟩
  all_goals exact fun _ => rfl

end Sys2Proof.Machine
end

section
/-! PROOFS. A precise fault: what the waves dropped leave, and `Obligations.FaultDropsItsWave`. A restored consume hold fills its
granule, whose readers are answered; none of these tokens enters a dropped wave. -/

namespace Sys2Proof.Machine

/-! ### What holds of a thread from the moment its fault is found (01 R38, 08 R213) -/

/-- The thread holds the fault, not yet delivered; none of its waves is the faulting one or younger; and its waves with the numbers
`keep` stand. -/
structure Thread.Faulted (y : Thread) (r : FaultRec) (keep : List WaveId) : Prop where
  fault : y.fault = some r
  pending : y.delivered = false
  older : ∀ v ∈ y.waves, notOlder r.wave v.num = false
  kept : ∀ n ∈ keep, ∃ v ∈ y.waves, v.num = n

/-- A token lies in no dropped wave of the thread, or is held. -/
def Arrived.spared (a : Arrived) (t : ThreadId) (r : FaultRec) : Prop :=
  a.tok.thread = t → notOlder r.wave a.tok.wave = true → a.held = true

/-- The context holds such a thread, and no token of it in a dropped wave but held ones. -/
def Ctx.Faulted (k : Ctx) (t : ThreadId) (r : FaultRec) (keep : List WaveId) : Prop :=
  (∃ y, k.th t = some y ∧ y.Faulted r keep) ∧ ∀ a ∈ k.tokens, a.spared t r

theorem isDropped_of_faulted {y : Thread} {r : FaultRec} {keep : List WaveId} (h : y.Faulted r keep) (w : WaveId) :
    y.isDropped w = notOlder r.wave w := by
  unfold Thread.isDropped; rw [h.fault]

/-- A thread keeps its fault while its waves are changed, and joined by one that is older than the faulting one. -/
theorem thread_faulted_waves {y z : Thread} {r : FaultRec} {keep : List WaveId} {w : WaveId} (h : y.Faulted r keep)
    (hf : z.fault = y.fault) (hd : z.delivered = y.delivered) (hw : sameWavesAnd w y.waves z.waves)
    (ho : (∀ v ∈ z.waves, ∃ u ∈ y.waves, u.num = v.num) ∨ notOlder r.wave w = false) : z.Faulted r keep := by
  obtain ⟨hnew, hold⟩ := hw
  refine ⟨hf.trans h.fault, hd.trans h.pending, fun v hv => ?_, fun n hn => ?_⟩
  · have ofOld : (∃ u ∈ y.waves, u.num = v.num) → notOlder r.wave v.num = false := fun ⟨u, hu, e⟩ => e ▸ h.older u hu
    rcases ho with ho | ho
    · exact ofOld (ho v hv)
    · rcases hnew v hv with e | hu
      · exact e ▸ ho
      · exact ofOld hu
  · obtain ⟨v, hv, rfl⟩ := h.kept n hn
    exact hold v hv

theorem thread_faulted_of_nums {y z : Thread} {r : FaultRec} {keep : List WaveId} (h : y.Faulted r keep)
    (hf : z.fault = y.fault) (hd : z.delivered = y.delivered) (hw : z.waves.map (·.num) = y.waves.map (·.num)) :
    z.Faulted r keep := by
  refine thread_faulted_waves h hf hd (sameWavesAnd_of_nums 0 hw) (.inl fun v hv => ?_)
  have hm := List.mem_map_of_mem (f := (·.num)) hv
  rw [hw] at hm
  exact List.mem_map.1 hm

theorem th_setTh_at {k : Ctx} {t : ThreadId} {x y : Thread} (h : k.th t = some x) (hy : y.num = x.num) :
    (k.setTh y).th t = some y := by
  have hn : y.num = t := hy.trans (th_num h)
  subst hn
  exact th_setTh h

section
variable {k : Ctx} {t : ThreadId} {r : FaultRec} {keep : List WaveId}

theorem faulted_congr {j : Ctx} (h : k.Faulted t r keep) (ht : j.th t = k.th t) (ha : j.tokens = k.tokens) : j.Faulted t r keep := by
  unfold Ctx.Faulted; rw [ht, ha]; exact h

/-- A change of a thread that keeps its fault and the numbers of its waves. -/
theorem faulted_modTh {f : Thread → Thread} (h : k.Faulted t r keep) (u : ThreadId) (hn : ∀ x, (f x).num = x.num)
    (hf : ∀ x, (f x).fault = x.fault ∧ (f x).delivered = x.delivered ∧ (f x).waves.map (·.num) = x.waves.map (·.num)) :
    (k.modTh u f).Faulted t r keep := by
  by_cases hu : t = u
  · subst hu
    obtain ⟨⟨y, hy, hyf⟩, ha⟩ := h
    obtain ⟨h1, h2, h3⟩ := hf y
    exact ⟨⟨f y, by rw [th_modTh k t hn, hy]; rfl, thread_faulted_of_nums hyf h1 h2 h3⟩, ha⟩
  · exact faulted_congr h (th_modTh_other k hn hu) rfl

theorem faulted_modWv {f : Wave → Wave} (h : k.Faulted t r keep) (u : ThreadId) (w : WaveId) (hf : ∀ v, (f v).num = v.num) :
    (k.modWv u w f).Faulted t r keep :=
  faulted_modTh (f := fun x => x.modWv w f) h u (fun _ => rfl) fun x => ⟨rfl, rfl, map_num_updFirst _ hf x.waves⟩

/-- No token enters a dropped wave: it goes to that wave's log. -/
theorem faulted_enter (h : k.Faulted t r keep) (a : Arrived) (src : Src) (inside : Bool) :
    (k.enter a src inside).Faulted t r keep := by
  obtain ⟨⟨y, hy, hyf⟩, ha⟩ := h
  obtain e | ⟨x, ds, hx, e⟩ | ⟨x, ws, hx, hd, hw, e⟩ := enter_cases k a src inside <;> rw [e]
  · exact ⟨⟨y, hy, hyf⟩, ha⟩
  · by_cases ht : t = a.tok.thread
    · subst ht
      obtain rfl : y = x := Option.some.inj (hy.symm.trans hx)
      exact ⟨⟨_, th_setTh_at (y := { y with dropped := ds }) hy rfl, hyf.fault, hyf.pending, hyf.older, hyf.kept⟩, ha⟩
    · exact ⟨⟨y, (th_setTh_other k (y := { x with dropped := ds }) ((th_num hx).symm ▸ ht)).trans hy, hyf⟩, ha⟩
  · have tokens (hs : a.spared t r) : ∀ b ∈ k.tokens ++ [a], b.spared t r := fun b hb =>
      (List.mem_append.1 hb).elim (ha b) fun hb => List.mem_singleton.1 hb ▸ hs
    by_cases ht : t = a.tok.thread
    · subst ht
      obtain rfl : y = x := Option.some.inj (hy.symm.trans hx)
      rw [isDropped_of_faulted hyf] at hd
      refine ⟨⟨_, th_setTh_at (y := { y with waves := ws }) hy rfl, thread_faulted_waves hyf rfl rfl hw (.inr hd)⟩, tokens ?_⟩
      intro _ hno
      rw [hd] at hno
      cases hno
    · exact ⟨⟨y, (th_setTh_other k (y := { x with waves := ws }) ((th_num hx).symm ▸ ht)).trans hy, hyf⟩,
        tokens fun e => absurd e.symm ht⟩

theorem faulted_foldl {α : Type} {f : Ctx → α → Ctx} (hf : ∀ k a, Ctx.Faulted k t r keep → (f k a).Faulted t r keep)
    (l : List α) (h : k.Faulted t r keep) : (l.foldl f k).Faulted t r keep := by
  induction l generalizing k with
  | nil => exact h
  | cons a l ih => exact ih (hf k a h)

theorem faulted_put (h : k.Faulted t r keep) (u : ThreadId) (fw w : WaveId) (q : Route) (v1 v2 : Value) :
    (k.put u fw w q v1 v2).Faulted t r keep := by
  unfold Ctx.put
  exact faulted_foldl (fun _ _ h => faulted_enter h ..) _ (faulted_foldl (fun _ _ h => faulted_enter h ..) _ h)

theorem faulted_paid (h : k.Faulted t r keep) (u : ThreadId) (w : WaveId) : (k.paid u w).Faulted t r keep := by
  unfold Ctx.paid
  refine faulted_modTh h u (fun x => ?_) fun x => ?_
  · split <;> rfl
  · split
    · exact ⟨rfl, rfl, map_num_updFirst _ (f := fun v => { v with holds := v.holds - 1 }) (fun _ => rfl) x.waves⟩
    · exact ⟨rfl, rfl, rfl⟩

theorem faulted_bind (h : k.Faulted t r keep) (u : ThreadId) (w : WaveId) (own : BitVec 8) (v : Value) :
    (k.bind u w own v).Faulted t r keep := by
  unfold Ctx.bind
  split
  · exact h
  · next o _ =>
    have discardsIf (K : Ctx) (hK : K.Faulted t r keep) (b : Bool) (ds : List Nat) :
        (if b then { K with discards := ds } else K).Faulted t r keep := by cases b <;> exact hK
    have paidIf (K : Ctx) (hK : K.Faulted t r keep) (b : Bool) : (if b then K.paid u o.out else K).Faulted t r keep := by
      cases b
      · exact hK
      · exact faulted_paid hK ..
    exact paidIf _ (discardsIf _ (faulted_put (faulted_modWv h u w (by intro; rfl)) ..) ..) _

theorem faulted_answerAll (bytes : List Byte) (rs : List Reader) (h : k.Faulted t r keep) :
    (k.answerAll bytes rs).Faulted t r keep := by
  induction rs generalizing k with
  | nil => exact h
  | cons q rs ih => exact ih (faulted_bind h ..)

theorem faulted_filled (h : k.Faulted t r keep) (l g : Nat) : (k.filled l g).Faulted t r keep := by
  unfold Ctx.filled
  exact faulted_answerAll _ _ (faulted_congr h rfl rfl)

theorem faulted_restoreHolds (h : k.Faulted t r keep) (u : ThreadId) (gone : WaveId → Bool) :
    (k.restoreHolds u gone).Faulted t r keep := faulted_foldl (fun _ _ h => faulted_filled h ..) _ h

/-- The waves of a thread after those that a test names are dropped. -/
theorem th_squashWaves {x : Thread} (hx : k.th t = some x) (gone : WaveId → Bool) :
    ∃ y, (k.squashWaves t gone).th t = some y ∧ y.waves = x.waves.filter fun v => !gone v.num := by
  unfold Ctx.squashWaves
  exact ⟨_, (th_modTh _ t (by intro; rfl)).trans (congrArg (Option.map _) hx), rfl⟩

/-- A thread that a fault has struck, with its dropped waves. -/
def Thread.struck (y : Thread) (r : FaultRec) (ds : List Wave) : Thread :=
  { y with fault := some r, delivered := false, seqNo := none, dropped := ds }

/-- The fault of a thread that has none in an older wave, and none delivered, drops its wave and the younger ones (08 R213). -/
theorem raise_struck {x : Thread} (hx : k.th t = some x) (hd : x.isDropped r.wave = false) (hv : x.delivered = false) :
    ∃ ds, k.raise t r = ((k.squashWaves t (notOlder r.wave)).modTh t fun y => y.struck r ds).restoreHolds t (notOlder r.wave) := by
  unfold Ctx.raise
  rw [hx]
  simp only [hd, hv, Bool.or_self, Bool.false_eq_true, if_false]
  exact ⟨_, rfl⟩

theorem faulted_raise {x : Thread} (hx : k.th t = some x) (hd : x.isDropped r.wave = false) (hv : x.delivered = false) :
    (k.raise t r).Faulted t r ((x.waves.filter fun v => !notOlder r.wave v.num).map (·.num)) := by
  obtain ⟨ds, e⟩ := raise_struck hx hd hv
  obtain ⟨y, hy, hw⟩ := th_squashWaves hx (notOlder r.wave)
  rw [e]
  apply faulted_restoreHolds
  refine ⟨⟨y.struck r ds, ?_, rfl, rfl, fun v hv => ?_, fun n hn => ?_⟩, fun a ha ht hno => ?_⟩
  · rw [th_modTh (f := fun y => y.struck r ds) _ t fun _ => rfl, hy]
    rfl
  · have hv : v ∈ y.waves := hv
    rw [hw] at hv
    simpa using (List.mem_filter.1 hv).2
  · rw [← hw] at hn
    exact List.mem_map.1 hn
  · have ha : a ∈ k.tokens.filter fun a => !(a.tok.thread == t && notOlder r.wave a.tok.wave && !a.held) := ha
    simpa [ht, hno] using (List.mem_filter.1 ha).2

end

/-! ### The state a fault of a firing leaves (08 R212, R286) -/

/-- The record of a firing's fault. -/
def Fire.faultRec (f : Fire) (cause origin : BitVec 8) (detail : BitVec 24) (faddr : BitVec 64) : FaultRec :=
  f.k.slotRec f.x f.p f.i f.live cause origin detail faddr

@[simp] theorem raise_num (k : Ctx) (t : ThreadId) (r : FaultRec) : (k.raise t r).num = k.num :=
  (congrArg Ctx.num (fixedPart_raise k t r) :)

/-- What a firing spends, its counts and its energy. -/
def Fire.spent (f : Fire) (k : Ctx) : Ctx :=
  ((k.perfAdd f.p.lcl 0 1).perfAdd f.p.lcl 1 (if f.urgent then 1 else 0)).charge (f.k.seatOf f.p) 1 0

theorem spent_th (f : Fire) (k : Ctx) (t : ThreadId) : (f.spent k).th t = k.th t := rfl
theorem spent_tokens (f : Fire) (k : Ctx) : (f.spent k).tokens = k.tokens := rfl

theorem firingSpent_mem (s : State) (f : Fire) : (s.firingSpent f).mem = s.mem := modCtx_mem ..

theorem firingSpent_ctx {s : State} {f : Fire} {k : Ctx} (hk : s.ctx f.k.num = some k) :
    (s.firingSpent f).ctx f.k.num = some (f.spent k) := ctx_modCtx (f := f.spent) hk rfl

theorem raised_mem (s : State) (f : Fire) (cause origin : BitVec 8) (detail : BitVec 24) (faddr : BitVec 64) :
    (s.raised f cause origin detail faddr).mem = s.mem := firingSpent_mem ..

theorem raised_ctx {s : State} {f : Fire} {k : Ctx} (hk : s.ctx f.k.num = some k) (cause origin : BitVec 8) (detail : BitVec 24)
    (faddr : BitVec 64) : (s.raised f cause origin detail faddr).ctx f.k.num
      = some (f.spent (f.k.raise f.x.num (f.faultRec cause origin detail faddr))) :=
  firingSpent_ctx (ctx_setCtx hk (raise_num ..))

/-- Settles O14: the thread stays struck while the holds of the dropped waves are restored, and what the firing spends leaves it. -/
theorem faultDropsItsWave : Obligations.FaultDropsItsWave := by
  unfold Obligations.FaultDropsItsWave
  intro s f cause origin detail faddr tm xa takesB l ⟨hr, _⟩ hd hv
  obtain ⟨k, hk, hfk, hx⟩ := firingOf_ctx hr
  have hn : f.k.num = s.focus.ctx := by rw [← ctx_num hk, hfk]
  have hfx : f.k.th f.x.num = some f.x := by rw [hfk]; exact hx
  obtain ⟨⟨y, hy, hyf⟩, ha⟩ := faulted_raise (r := f.faultRec cause origin detail faddr) hfx hd hv
  have hc := raised_ctx (hn ▸ hk) cause origin detail faddr
  rw [hn] at hc
  refine ⟨raised_mem .., _, y, f.faultRec cause origin detail faddr, hc, (spent_th ..).trans hy, hyf.fault, hyf.pending,
    rfl, rfl, rfl, rfl, rfl, rfl, rfl, rfl, rfl, rfl, hyf.older, fun v hv ho => ?_, ?_⟩
  · have ho : notOlder (f.faultRec cause origin detail faddr).wave v.num = false := ho
    exact hyf.kept v.num (List.mem_map_of_mem (List.mem_filter.2 ⟨hv, by rw [ho]; rfl⟩))
  · rw [spent_tokens]
    exact ha

end Sys2Proof.Machine
end

section
/-! PROOFS. Encoded instructions: each one is a firing with the needs of `needsOf`, and so waits without operands, power or its turn
(`Obligations.InstructionsWait`); and the state that refutes `Obligations.EncodedInstructionsFrame`. -/

namespace Sys2Proof.Machine

/-! ### An encoded instruction is a firing (01 R33) -/

/-- An instruction answers the firing that its needs name, with some effect. -/
def firesBy (i : Instr) (n : Needs) : Prop :=
  ∀ s, ∃ sem : Fire → Sem, exec i s = .next (s.fire n.t n.xa n.takesB n.l sem)

/-- An instruction does nothing without its operands, and nothing without power. -/
structure WaitsFor (i : Instr) (n : Needs) : Prop where
  operands : ∀ s : State, s.readyFor n = none → exec i s = .next s
  power : ∀ (s : State) (f : Fire), s.readyFor n = some f → s.powered f.domain = false → exec i s = .next s

theorem waitsFor_of_firesBy {i : Instr} {n : Needs} (h : firesBy i n) : WaitsFor i n where
  operands s hr := by
    obtain ⟨sem, e⟩ := h s
    rw [e, fire_not_ready hr]
  power s f hr hp := by
    obtain ⟨sem, e⟩ := h s
    rw [e, fire_unpowered hr hp]

/-- STRCFG and SQCFG read their record only when they take place (14 R391, R393). -/
theorem waitsFor_of_fireRecord {i : Instr} {t : Tmpl} {x : FormX} {bad : List Byte → Option Nat} {eff : Fire → List Byte → Sem}
    (h : ∀ s, exec i s = .next (s.fireRecord t x bad eff)) : WaitsFor i ⟨t, none, false, noLits⟩ where
  operands s hr := by
    have hr : s.ready t none false (litX x) = none := hr
    rw [h, State.fireRecord, hr]
    exact congrArg _ (fire_not_ready hr)
  power s f hr hp := by
    have hr : s.ready t none false (litX x) = some f := hr
    have hg (es : List Em) : s.goes f es = false := by simp [State.goes, hp]
    rw [h, State.fireRecord, hr]
    simp only [hg, Bool.and_false, Bool.false_eq_true, if_false]
    have hf (sem : Fire → Sem) : s.fireX t x false sem = s := fire_unpowered hr hp
    split <;> rw [hf]

/-- BRK under the debug port waits as any other instruction (15 R434). -/
theorem brk_waitsFor (t : Tmpl) (g : FormG) : WaitsFor (.brk t g) ⟨t, none, false, noLits⟩ where
  operands s hr := by
    have hr : s.ready t none false noLits = none := hr
    show execBrk t g s = _
    rw [execBrk, hr]
  power s f hr hp := by
    have hr : s.ready t none false noLits = some f := hr
    show execBrk t g s = _
    rw [execBrk, hr]
    simp only [hp, Bool.false_and, Bool.false_eq_true, if_false]
    exact congrArg _ (fire_unpowered hr hp)

/-- Every encoded instruction but VRED waits so. -/
theorem waitsFor_of_needsOf {i : Instr} {n : Needs} (h : needsOf i = some n) (hv : ∀ t g, i ≠ .vred t g) : WaitsFor i n := by
  cases i with
  | vred t g => exact absurd rfl (hv t g)
  | brk t g => cases h; exact brk_waitsFor t g
  | strcfg t x => cases h; exact waitsFor_of_fireRecord fun _ => rfl
  | sqcfg t x => cases h; exact waitsFor_of_fireRecord fun _ => rfl
  | _ => cases h <;> exact waitsFor_of_firesBy fun _ => ⟨_, rfl⟩

/-! ### VRED, which also fires on a contribution it holds (12 R341, R342) -/

theorem fireOn_unpowered {s : State} {f : Fire} (sem : Fire → Sem) (h : s.powered f.domain = false) : s.fireOn f sem = s := by
  simp [State.fireOn, h]

theorem exec_vred_idle {s : State} {t : Tmpl} {g : FormG} (hr : s.ready t none false (litV g false) = none)
    (hd : s.vredDue t = none) : exec (.vred t g) s = .next s := by
  show execVred t g s = _
  rw [execVred, hr, hd]

theorem exec_vred_unpowered {s : State} {t : Tmpl} {g : FormG} {f : Fire} (hr : s.ready t none false (litV g false) = some f)
    (ha : f.vredAhead = none) (hp : s.powered f.domain = false) : exec (.vred t g) s = .next s := by
  show execVred t g s = _
  rw [execVred, hr]
  simp only [ha]
  rw [fireOn_unpowered _ hp]

theorem exec_vred_due_unpowered {s : State} {t : Tmpl} {g : FormG} {f : Fire}
    (hr : s.ready t none false (litV g false) = none) (hd : s.vredDue t = some f) (hp : s.powered f.domain = false) :
    exec (.vred t g) s = .next s := by
  show execVred t g s = _
  rw [execVred, hr]
  simp only [hd]
  rw [fireOn_unpowered _ hp]

/-! ### The order of a PE (01 R33, R34) -/

/-- A slot whose operands have all arrived stands ready on its PE, with its rank. -/
theorem mem_readyOn {k : Ctx} {b : Site} {y : Thread} {r : Placed} {t : Arrived} {clu pe : Nat} (runs : Nat) (hn : k.num = b.ctx)
    (hy : k.th b.thread = some y) (hr : k.placedAt y b.blk = some r) (hclu : (k.standsAt r b.slot).1 = clu)
    (hpe : (k.standsAt r b.slot).2.1 = pe) (hs : b.slot < r.slots.length) (hready : k.readyAt y r b.slot b.wave = true)
    (ht : t ∈ k.tokens) (hblk : t.blk = b.blk) (hth : t.tok.thread = b.thread) (hw : t.tok.wave = b.wave) (hh : t.held = false) :
    (b, k.rank y r b.slot b.wave runs) ∈ k.readyOn clu pe runs := by
  have hstand : (b.thread, b.blk, b.wave) ∈ k.standing :=
    List.mem_append_left _ (List.mem_map.2 ⟨t, List.mem_filter.2 ⟨ht, by rw [hh]; rfl⟩, by rw [hblk, hth, hw]⟩)
  have hslot : b.slot ∈ k.readySlots y r b.wave :=
    List.mem_filter.2 ⟨List.mem_range.2 hs, by rw [hready]; rfl⟩
  have hb : (⟨k.num, r.blk, b.slot, y.num, b.wave⟩ : Site) = b := by
    have hrb : r.blk = b.blk := by
      have := List.find?_some hr
      simp only [Bool.and_eq_true, beq_iff_eq] at this
      exact this.1.1
    rw [hn, hrb, th_num hy]
  refine List.mem_flatMap.2 ⟨_, hstand, ?_⟩
  simp only [hy, hr]
  refine List.mem_filterMap.2 ⟨b.slot, hslot, ?_⟩
  rw [if_pos (by rw [hclu, hpe]; simp), hb]

/-- An instruction that stands ready, is not late or was counted before, and has a lower rank, comes before the one at a site. -/
theorem outranked_of_readyOn {s : State} {a b : Site} {late : List Site} {k : Ctx} {x : Thread} {p : Placed} {rb : List Nat}
    {clu pe : Nat} (hk : s.ctx a.ctx = some k) (hx : k.th a.thread = some x) (hp : k.placedAt x a.blk = some p)
    (hclu : (k.standsAt p a.slot).1 = clu) (hpe : (k.standsAt p a.slot).2.1 = pe)
    (hb : (b, rb) ∈ k.readyOn clu pe (tgetD s.urgentRun (clu * 128 + pe) 0))
    (hc : b ∉ late ∨ b ∈ tgetD s.counted (clu * 128 + pe) [])
    (hl : lexBefore rb (k.rank x p a.slot a.wave (tgetD s.urgentRun (clu * 128 + pe) 0)) = true) : s.outranked a late = true := by
  unfold State.outranked
  simp only [hk, hx, hp, hclu, hpe]
  refine List.any_eq_true.2 ⟨_, hb, ?_⟩
  rw [hl]
  simpa using hc

/-- The first place of a rank: urgent slots first, but after three urgent firings the others (R34). -/
theorem rank_urgency (k : Ctx) (x : Thread) (p : Placed) (i : Nat) (w : WaveId) (runs : Nat) : k.rank x p i w runs
    = [if ((p.slots[i]?).map (·.urgent) = some true) ↔ runs < 3 then 0 else 1, ((k.ln x.ln).map (·.born)).getD 0, x.born,
       x.waveAge w, (k.standsAt p i).2.2] := by
  unfold Ctx.rank
  by_cases hu : (p.slots[i]?).map (·.urgent) = some true <;> by_cases hr : runs < 3 <;>
    simp [hu, hr, show (3 ≤ runs) ↔ ¬ runs < 3 from by omega]

theorem lexBefore_cons_iff (a b : Nat) (r q : List Nat) :
    lexBefore (a :: r) (b :: q) = true ↔ a < b ∨ a = b ∧ lexBefore r q = true := by
  simp [lexBefore]

theorem lexBefore_nil_nil : lexBefore [] [] = false := rfl

/-- Settles O11: a firing without operands or power is none, and one that another ready instruction outranks may not move. -/
theorem instructionsWait : Obligations.InstructionsWait := by
  unfold Obligations.InstructionsWait
  refine ⟨?operands, ?power, fun _ _ _ _ => exec_vred_due_unpowered, ?order⟩
  case operands =>
    intro i n s hn hr hv
    by_cases h : ∃ t g, i = .vred t g
    · obtain ⟨t, g, rfl⟩ := h
      cases hn
      exact exec_vred_idle hr (hv t g rfl)
    · exact (waitsFor_of_needsOf hn fun t g e => h ⟨t, g, e⟩).operands s hr
  case power =>
    intro i n s f hn hr hp hv
    by_cases h : ∃ t g, i = .vred t g
    · obtain ⟨t, g, rfl⟩ := h
      cases hn
      exact exec_vred_unpowered hr (hv t g rfl) hp
    · exact (waitsFor_of_needsOf hn fun t g e => h ⟨t, g, e⟩).power s f hr hp
  case order =>
    intro s k x y p r m n a b u late pe runs i j hc hk hbc hkn hx hp hm hy hr hn hac hap hbc' hbp hs hready hlate ht hruns hi hj
      hbefore
    obtain ⟨t, htm, hblk, hth, hw, hh⟩ := ht
    have hb := mem_readyOn runs (hkn.trans hbc.symm) hy hr hbc' hbp hs hready htm hblk hth hw hh
    have hl : lexBefore (k.rank y r b.slot b.wave runs) (k.rank x p a.slot a.wave runs) = true := by
      rw [rank_urgency, rank_urgency, hm, hn, ← hi, ← hj]
      simpa only [lexBefore_cons_iff, lexBefore_nil_nil, Option.map_some, Option.getD_some, Bool.false_eq_true, and_false,
        or_false] using hbefore
    rw [hruns] at hb hl
    exact step_of_not_admitted (by rw [admits_fire hc, outranked_of_readyOn hk hx hp hac hap hb hlate hl]; simp)

/-! ### The frame of the encoded instructions -/

/-- MOV ready in slot 0 of a block that lies on PE 128 of cluster 0, a place that no cluster has, with a shadow mismatch to come. -/
def misplacedMov : State :=
  let s := State.reset.withWords ⟨0x01000102#32, 0, 0, 0⟩
  { s with
    focus := ⟨0, 0, 0, 0, 0⟩, upset := .shadow, pwrdom := [(16, { PwrDom.zero with grant := 64 })]
    ctxs := s.ctxs.map fun k => { k with placed := k.placed.map fun p => { p with at_ := [(128, 0), (0, 1)] } } }

/-- The score of a unit after an instruction. -/
def scoreAfter (i : Instr) (s : State) (u : RetUnit) : Option Score :=
  match exec i s with
  | .next t => some (t.scoreOf u)
  | _ => none

theorem scoreAfter_of_exec {i : Instr} {s t : State} (u : RetUnit) (h : exec i s = .next t) :
    scoreAfter i s u = some (t.scoreOf u) := by
  unfold scoreAfter
  rw [h]

/-- PE 128 of cluster 0 has the number of the first PE of cluster 1. -/
theorem misplacedMov_focusPe : misplacedMov.focusPe = some 128 := by decide +kernel

/-- The mismatch is scored to cluster 0, where the block lies (07 R203). -/
theorem misplacedMov_scores_cluster_0 :
    scoreAfter (.mov ⟨.pass, .tok, .tok, 1, 2⟩ ⟨0⟩) misplacedMov (clusterUnit 0)
      = some { retired := false, doomed := false, score := 64 }
    ∧ misplacedMov.scoreOf (clusterUnit 0) = { retired := false, doomed := false, score := 0 } := by decide +kernel

/-- Refutes O10: its last clause takes the cluster of a firing from the number of its PE, cluster × 128 + PE. The statement is about
every state, also one whose block lies on a PE that no cluster has; there a shadow mismatch adds 64 to the score of the block's
cluster, which is not the one that the number names. -/
theorem not_encodedInstructionsFrame : ¬ Obligations.EncodedInstructionsFrame := by
  unfold Obligations.EncodedInstructionsFrame
  intro h
  obtain ⟨t, ht⟩ : ∃ t, exec (.mov ⟨.pass, .tok, .tok, 1, 2⟩ ⟨0⟩) misplacedMov = .next t := ⟨_, rfl⟩
  obtain ⟨hafter, hbefore⟩ := misplacedMov_scores_cluster_0
  have hscores := h _ _ t rfl ht
  repeat obtain ⟨-, hscores⟩ := hscores
  obtain ⟨hsame, -⟩ := hscores (clusterUnit 0) (by rw [misplacedMov_focusPe]; decide)
  rw [scoreAfter_of_exec _ ht, hsame, hbefore] at hafter
  exact absurd hafter (by decide)

end Sys2Proof.Machine
end

section
/-! PROOFS. What the device's own accesses leave: records written to a ring, logs of accesses, energy counted. They write memory,
a scratchpad among it, with whom that answers; all else of a context and of the machine stands. -/

namespace Sys2Proof.Machine

theorem scratchSt_num (k : Ctx) (l off : Nat) (bytes : List Byte) : (k.scratchSt l off bytes).num = k.num :=
  foldl_keeps Ctx.num (f := fun k g => k.filled l g) (fun k g => (congrArg Ctx.num (fixedPart_filled k l g) :)) _ _

/-- A part of a context that the device's own accesses leave: a store in a scratchpad, an access log, energy to be counted. -/
structure Spared {β : Type} (p : Ctx → β) : Prop where
  scratchSt : ∀ (k : Ctx) (l off : Nat) (bytes : List Byte), p (k.scratchSt l off bytes) = p k
  logs : ∀ (k : Ctx) (ls : Tab LogRange), p { k with logs := ls } = p k
  charge : ∀ (k : Ctx) (site cls event : Nat), p (k.charge site cls event) = p k

theorem spared_num : Spared Ctx.num := ⟨scratchSt_num, fun _ _ => rfl, fun _ _ _ _ => rfl⟩

/-- The machine without its memory and its contexts. -/
def State.outside (s : State) : State := { s with mem := default, ctxs := [] }

/-- Two states have the same contexts, alike in one part, and are alike outside memory and contexts. -/
structure State.Agrees {β : Type} (p : Ctx → β) (t s : State) : Prop where
  ctx : ∀ c, (t.ctx c).map p = (s.ctx c).map p
  outside : t.outside = s.outside

section
variable {β : Type} {p : Ctx → β}

theorem agrees_refl (s : State) : s.Agrees p s := ⟨fun _ => rfl, rfl⟩

theorem agrees_trans {u t s : State} (h : u.Agrees p t) (h' : t.Agrees p s) : u.Agrees p s :=
  ⟨fun c => (h.ctx c).trans (h'.ctx c), h.outside.trans h'.outside⟩

/-- A context of one state has its like in the other. -/
theorem found_of_agrees {t s : State} {c : CtxId} {k : Ctx} (h : t.Agrees p s) (hk : s.ctx c = some k) :
    ∃ j, t.ctx c = some j ∧ p j = p k := by
  have h' := h.ctx c
  rw [hk, Option.map_some] at h'
  exact Option.map_eq_some_iff.1 h'

theorem agrees_setMem (s : State) (m : Mems) : ({ s with mem := m } : State).Agrees p s := ⟨fun _ => rfl, rfl⟩

theorem modCtx_outside (s : State) (c : CtxId) (f : Ctx → Ctx) : (s.modCtx c f).outside = s.outside := by
  unfold State.modCtx
  split <;> rfl

theorem agrees_modCtx {f : Ctx → Ctx} (s : State) (c : CtxId) (hn : ∀ k, (f k).num = k.num) (hf : ∀ k, p (f k) = p k) :
    (s.modCtx c f).Agrees p s := by
  refine ⟨fun d => ?_, modCtx_outside s c f⟩
  by_cases h : d = c
  · subst h
    cases hk : s.ctx d with
    | none => rw [State.modCtx, hk]; simp [hk]
    | some k => rw [ctx_modCtx hk (hn k), Option.map_some, hf, Option.map_some]
  · rw [ctx_modCtx_other hn h]

/-- A run of steps, each of which may answer beside its state. -/
theorem agrees_foldl_fst {α γ : Type} {f : State × γ → α → State × γ} (hf : ∀ q a, (f q a).1.Agrees p q.1) (l : List α)
    (q : State × γ) : (l.foldl f q).1.Agrees p q.1 := by
  induction l generalizing q with
  | nil => exact agrees_refl q.1
  | cons a l ih => exact agrees_trans (ih _) (hf q a)

variable (hp : Spared p)
include hp

/-! ### Writes (03 R82, 05 R156) -/

theorem agrees_storePieces (c : CtxId) (a : Agent) (through : Bool) (ps : List Piece) (s : State) (bytes : List Byte) :
    (s.storePieces c a through ps bytes).Agrees p s := by
  induction ps generalizing s bytes with
  | nil => exact agrees_refl s
  | cons q ps ih =>
    refine agrees_trans (ih _ _) ?_
    unfold State.storePiece
    split
    · exact agrees_modCtx s c (fun k => scratchSt_num ..) fun k => hp.scratchSt ..
    · exact agrees_setMem s _

theorem agrees_devWrite {s t : State} {k : Ctx} {va : Nat} {bytes : List Byte} (h : s.devWrite k va bytes = .ok t) :
    t.Agrees p s := by
  unfold State.devWrite at h
  split at h
  · cases h
  · split at h
    · cases h
    · cases h; exact agrees_storePieces hp ..

theorem agrees_devPut (s : State) (k : Ctx) (va : Nat) (bytes : List Byte) : (s.devPut k va bytes).Agrees p s := by
  unfold State.devPut
  split
  · exact agrees_devWrite hp (by assumption)
  · exact agrees_refl s

theorem agrees_ringPut {s t : State} {k : Ctx} {base log2n size : Nat} {full : Bool} {mk : Nat → List Byte}
    (h : s.ringPut k base log2n size full mk = .ok (some t)) : t.Agrees p s := by
  unfold State.ringPut at h
  split at h
  · cases h
  · dsimp only at h
    split at h
    · cases h
    · split at h
      · cases h
      · next s1 h1 =>
        split at h
        · cases h
        · next s2 h2 =>
          cases h
          exact agrees_trans (agrees_devPut hp ..) (agrees_trans (agrees_devPut hp ..)
            (agrees_trans (agrees_devWrite hp h2) (agrees_devWrite hp h1)))

/-! ### Access logs (06 R189 to R191) -/

theorem agrees_logWrite (s : State) (c : CtxId) (n : Nat) (r : LogRange) (q : Nat × Nat × BitVec 8 × Nat) :
    (s.logWrite c n r q).1.Agrees p s := by
  unfold State.logWrite
  split
  · exact agrees_refl s
  · split
    · exact agrees_refl s
    · split
      · exact agrees_ringPut hp (by assumption)
      · exact agrees_refl s
      · exact agrees_refl s

theorem agrees_setLogs (s : State) (c : CtxId) (ls : Ctx → Tab LogRange) :
    (s.modCtx c fun k => { k with logs := ls k }).Agrees p s :=
  agrees_modCtx s c (fun _ => rfl) fun _ => hp.logs ..

theorem agrees_logOne (s : State) (c : CtxId) (va pa : Nat) (kinds : BitVec 8) (n : Nat) :
    (s.logOne c va pa kinds n).1.Agrees p s := by
  unfold State.logOne
  split
  · exact agrees_refl s
  · split
    · exact agrees_refl s
    · dsimp only
      split
      · split
        · exact agrees_trans (agrees_setLogs hp ..) (agrees_logWrite hp ..)
        · exact agrees_refl s
      · exact agrees_setLogs hp ..

theorem agrees_logAccess (s : State) (c : CtxId) (ps : List Piece) (kinds : BitVec 8) : (s.logAccess c ps kinds).Agrees p s := by
  refine agrees_foldl_fst (fun q a => ?_) ps (s, true)
  dsimp only
  split
  · exact agrees_refl q.1
  · refine agrees_foldl_fst (fun q r => ?_) _ q
    exact agrees_logOne hp ..

theorem agrees_flushRange (c : CtxId) (n fuel : Nat) (s : State) : (s.flushRange c n fuel).1.Agrees p s := by
  induction fuel generalizing s with
  | zero => exact agrees_refl s
  | succ fuel ih =>
    unfold State.flushRange
    split
    · exact agrees_refl s
    · split
      · exact agrees_refl s
      · dsimp only
        split
        · exact agrees_trans (ih _) (agrees_trans (agrees_setLogs hp ..) (agrees_logWrite hp ..))
        · exact agrees_refl s

theorem agrees_flushLogs (s : State) (c : CtxId) : (s.flushLogs c).1.Agrees p s := by
  unfold State.flushLogs
  split
  · exact agrees_refl s
  · refine agrees_foldl_fst (fun q e => ?_) _ (s, true)
    exact agrees_flushRange hp ..

/-! ### Energy (07 R199) -/

theorem spared_chargeN (k : Ctx) (site cls event n : Nat) : p (k.chargeN site cls event n) = p k :=
  foldl_keeps p (f := fun k _ => k.charge site cls event) (fun _ _ => hp.charge ..) _ _

theorem spared_chargeHome (k : Ctx) (m : Mems) (clu : Nat) (write : Bool) (q : Piece) : p (k.chargeHome m clu write q) = p k := by
  unfold Ctx.chargeHome
  split
  · rw [spared_chargeN hp, hp.charge]
  · exact hp.charge ..
  · exact hp.charge ..

theorem spared_chargeFetch (k : Ctx) (m : Mems) (ps : List Piece) (clu : Nat) : p (k.chargeFetch m ps clu) = p k :=
  foldl_keeps p (fun k q => spared_chargeHome hp k m clu false q) ps k

theorem agrees_engineSpend (s : State) (c : CtxId) (clu : Nat) (write : Bool) (ps : List Piece) :
    (s.engineSpend c clu write ps).Agrees p s :=
  agrees_modCtx s c (foldl_keeps Ctx.num (fun k q => spared_chargeHome spared_num k s.mem clu write q) ps)
    (foldl_keeps p (fun k q => spared_chargeHome hp k s.mem clu write q) ps)

theorem agrees_devSpend (s : State) (k : Ctx) (va n : Nat) (write : Bool) : (s.devSpend k va n write).Agrees p s := by
  unfold State.devSpend
  split
  · exact agrees_engineSpend hp ..
  · exact agrees_refl s

theorem agrees_ringSpend (s : State) (k : Ctx) (base log2n size : Nat) : (s.ringSpend k base log2n size).Agrees p s :=
  agrees_trans (agrees_devSpend hp ..) (agrees_trans (agrees_devSpend hp ..) (agrees_devSpend hp ..))

end

end Sys2Proof.Machine
end

section
/-! PROOFS. Blocks are placed, moved, forwarded to and evicted when stale (`Obligations.BlockSteps`). -/

namespace Sys2Proof.Machine

/-- What a context holds that takes the place of an active one. -/
theorem inCtx_setCtx {s : State} {c : CtxId} {k j : Ctx} {P : Ctx → Prop} (hk : s.active c = some k) (hj : j.num = k.num)
    (hP : P j) : inCtx (s.setCtx j) c P := ⟨j, ctx_setCtx (active_ctx hk).1 (hj.trans (active_num hk)), hP⟩

/-! ### What keeps the placed blocks -/

theorem placed_modeFall (k : Ctx) (l d : Nat) : (k.modeFall l d).placed = k.placed := by
  unfold Ctx.modeFall
  dsimp only
  split <;> rfl

theorem num_modeFall (k : Ctx) (l d : Nat) : (k.modeFall l d).num = k.num := by
  unfold Ctx.modeFall
  dsimp only
  split <;> rfl

/-! ### Placement (01 R27) -/

/-- A placed block as BLOCK_PLACEMENT makes it. -/
def Ctx.placing (k : Ctx) (n : Launch) (l seat : Nat) (b : Addr) (at_ : List (Nat × Nat)) (m : BlockImage) (ws : List PSlot)
    (cf : List Value) (tick : Nat) : Placed :=
  { ln := n.num, lcl := l, blk := b, kimg := n.lrec.kimg, gen := k.gen, slots := ws, at_ := at_, old := none, cf := cf,
    ports := m.ports, links := m.links, matrix := m.matrix, front := m.front,
    pinned := k.pins.any fun q => q.blk == b && q.lcl == l, lastUse := tick, seat := seat }

/-- An installed block stands after the blocks placed before. -/
theorem install_placed (k : Ctx) (n : Launch) (l seat : Nat) (b : Addr) (at_ : List (Nat × Nat)) (m : BlockImage) (ws : List PSlot)
    (cf : List Value) (tick : Nat) : (k.install n l seat b at_ m ws cf tick).placed
      = k.placed ++ [k.placing n l seat b at_ m ws cf tick] := by
  unfold Ctx.install
  dsimp only
  split
  · exact foldl_keeps Ctx.placed (by intros; rfl) _ _
  · rfl

theorem install_holds (k : Ctx) (n : Launch) (l seat : Nat) (b : Addr) (at_ : List (Nat × Nat)) (m : BlockImage) (ws : List PSlot)
    (cf : List Value) (tick : Nat) : ∃ p ∈ (k.install n l seat b at_ m ws cf tick).placed, p.blk = b ∧ p.ln = n.num ∧ p.lcl = l
      ∧ p.seat = seat ∧ p.slots = ws ∧ p.cf = cf ∧ p.at_ = at_ ∧ p.old = none ∧ p.kimg = n.lrec.kimg := by
  refine ⟨k.placing n l seat b at_ m ws cf tick, ?_, rfl, rfl, rfl, rfl, rfl, rfl, rfl, rfl, rfl⟩
  rw [install_placed]
  exact List.mem_append_right _ List.mem_cons_self

theorem install_num (k : Ctx) (n : Launch) (l seat : Nat) (b : Addr) (at_ : List (Nat × Nat)) (m : BlockImage) (ws : List PSlot)
    (cf : List Value) (tick : Nat) : (k.install n l seat b at_ m ws cf tick).num = k.num := by
  unfold Ctx.install
  dsimp only
  split
  · exact foldl_keeps Ctx.num (by intros; rfl) _ _
  · rfl

/-- The state in which a block has been read: its lines are in the caches of their homes and its reading is logged. -/
def State.blockRead (s : State) (c : CtxId) (ps : List Piece) : State :=
  ({ s with mem := s.mem.peek ps } : State).logAccess c ps (kRead ||| kPlace)

theorem exec_blockPlacement {c : CtxId} {l seat : Nat} {b : Addr} {at_ : List (Nat × Nat)} {s : State} {k : Ctx} {ln : BitVec 32}
    {who : Option (Thread × WaveId)} {n : Launch} {m : BlockImage} {ws : List PSlot} {cf : List Value}
    (hk : s.active c = some k) (ha : k.asks l b = some (ln, who)) (hn : k.ln ln = some n)
    (hl : (tgetD k.pmap l 0).getLsbD 30 = false) (hb : b.getLsbD 63 = false) (him : s.blockOf k n b = .ok (m, ws, cf))
    (hf : frontWaits m who = false) (hlog : s.logFull c (s.fetched k n b m ws) (kRead ||| kPlace) = false)
    (hw : ∀ p ∈ s.fetched k n b m ws, pieceWaits s.mem k p false = false)
    (hs : s.seatFor k n l b (k.berth (some n.lrec) n.num l m.matrix ((n.home b l).map (·.2)) ws none) = some seat)
    (hfit : s.slotsFit k (k.phys seat) (k.berth (some n.lrec) n.num l m.matrix ((n.home b l).map (·.2)) ws none) at_ = true) :
    exec (.blockPlacement c l b at_) s = .next ((s.blockRead c (s.fetched k n b m ws)).modCtx c fun j =>
      (j.chargeFetch s.mem (s.fetched k n b m ws) (j.phys seat)).install n l seat b at_ m ws cf s.tick) := by
  have hw' : (s.fetched k n b m ws).any (fun p => pieceWaits s.mem k p false) = false := by simpa using hw
  show execBlockPlacement c l b at_ s = _
  simp only [execBlockPlacement, hk, ha, hn, hl, hb, him, hf, hlog, hw', hs, hfit, Bool.false_eq_true, if_false, Bool.or_self,
    Bool.not_true]
  rfl

theorem blockRead_ctx {s : State} {c : CtxId} {k : Ctx} (h : s.ctx c = some k) (ps : List Piece) :
    ∃ j, (s.blockRead c ps).ctx c = some j := by
  have h' : (s.blockRead c ps).Agrees Ctx.num s := agrees_trans (agrees_logAccess spared_num ..) (agrees_setMem ..)
  obtain ⟨j, hj, -⟩ := found_of_agrees h' h
  exact ⟨j, hj⟩

/-! ### Moves (01 R32) -/

/-- An element that a test finds first is changed, and stands changed. -/
theorem mem_updFirst_self {α : Type} [DecidableEq α] {l : List α} {x : α} (f : α → α) (h : x ∈ l) :
    f x ∈ updFirst (· == x) f l := by
  induction l with
  | nil => cases h
  | cons y r ih =>
    unfold updFirst
    split
    · next hy => rw [eq_of_beq hy]; exact List.mem_cons_self
    · next hy =>
      rcases List.mem_cons.1 h with rfl | h
      · exact absurd (beq_self_eq_true x) hy
      · exact List.mem_cons_of_mem _ (ih h)

/-- Nothing changes where no element passes the test. -/
theorem updFirst_of_none {α : Type} {p : α → Bool} {l : List α} (f : α → α) (h : ∀ x ∈ l, p x = false) :
    updFirst p f l = l := by
  induction l with
  | nil => rfl
  | cons y r ih =>
    rw [updFirst, h y List.mem_cons_self, ih fun x hx => h x (List.mem_cons_of_mem _ hx)]
    rfl

theorem isPlaced_iff {l : Nat} {b : Addr} {p : Placed} : isPlaced l b p = true ↔ p.lcl = l ∧ p.blk = b := by simp [isPlaced]

/-- A context whose block has taken other slots. -/
def Ctx.moveBlock (k : Ctx) (p : Placed) (at_ : List (Nat × Nat)) : Ctx :=
  { k with placed := updFirst (· == p) (fun x => { x with at_ := at_, old := some p.at_ }) k.placed
           tokens := k.tokens.map fun a => if k.tokenOf p a then { a with old := true } else a }

theorem exec_blockMove {c : CtxId} {l : Nat} {b : Addr} {at_ : List (Nat × Nat)} {s : State} {k : Ctx} {p : Placed}
    (hk : s.active c = some k) (hp : k.placed.find? (isPlaced l b) = some p) (ho : p.old = none)
    (hl : (tgetD k.pmap l 0).getLsbD 30 = false) (hs : (tgetD k.pmap p.seat 0).getLsbD 30 = false)
    (hfit : s.slotsFit k (k.seatOf p) (k.berthOf p) at_ = true) :
    exec (.blockMove c l b at_) s = .next (s.modCtx c fun j => j.moveBlock p at_) := by
  show execBlockMove c l b at_ s = _
  simp only [execBlockMove, hk, hp, ho, hl, hs, hfit, Option.isSome_none, Bool.or_self, Bool.not_true, Bool.false_eq_true, if_false]
  rfl

theorem moveBlock_placed {k : Ctx} {p : Placed} (at_ : List (Nat × Nat)) (hp : p ∈ k.placed) :
    { p with at_ := at_, old := some p.at_ } ∈ (k.moveBlock p at_).placed :=
  mem_updFirst_self (fun x => { x with at_ := at_, old := some p.at_ }) hp

/-- The tokens of a block that moves stand in its old slots. -/
theorem moveBlock_tokens {k : Ctx} {p : Placed} {at_ : List (Nat × Nat)} {a : Arrived} (ha : a ∈ (k.moveBlock p at_).tokens)
    (ht : k.tokenOf p a = true) : a.old = true := by
  obtain ⟨a', -, rfl⟩ := List.mem_map.1 ha
  by_cases h : k.tokenOf p a' = true
  · rw [if_pos h]
  · rw [if_neg h] at ht
    exact absurd ht h

/-- A context whose block has no old slots any more. -/
def Ctx.freeOld (k : Ctx) (p : Placed) : Ctx :=
  { k with placed := updFirst (· == p) (fun x => { x with old := none }) k.placed }

theorem exec_tokenForward {c : CtxId} {s : State} (l : Nat) (b : Addr) {k : Ctx} {p : Placed} (hk : s.active c = some k)
    (hp : (k.placed.find? fun q => isPlaced l b q && q.old.isSome) = some p)
    (ht : ∀ a ∈ k.tokens, a.old = true → k.tokenOf p a = false) :
    exec (.tokenForward c l b) s
      = .next (s.setCtx (k.freeOld p)) := by
  have hno (a : Arrived) (ha : a ∈ k.tokens) : (a.old && k.tokenOf p a) = false := by
    cases ho : a.old
    · rfl
    · rw [ht a ha ho]; rfl
  have hany : (k.tokens.any fun a => a.old && k.tokenOf p a) = false := List.any_eq_false.2 fun a ha => by simp [hno a ha]
  show execTokenForward c l b s = _
  simp only [execTokenForward, modActive_some hk, hp, updFirst_of_none _ hno, hany, Bool.false_eq_true, if_false]
  rfl

/-! ### Stale blocks (06 R168) -/

theorem evict_placed (k : Ctx) (p : Placed) : (k.evict p).placed = dropFirst (· == p) k.placed := by
  unfold Ctx.evict
  dsimp only
  split
  · exact foldl_keeps Ctx.placed (fun k d => placed_modeFall k p.seat d) _ _
  · rfl

theorem evict_num (k : Ctx) (p : Placed) : (k.evict p).num = k.num := by
  unfold Ctx.evict
  dsimp only
  split
  · exact foldl_keeps Ctx.num (fun k d => num_modeFall k p.seat d) _ _
  · rfl

theorem exec_staleBlockEviction {c : CtxId} {s : State} (l : Nat) (b : Addr) {k : Ctx} {p : Placed} (hk : s.active c = some k)
    (hp : (k.placed.find? fun q => isPlaced l b q && q.gen != k.gen && q.old.isNone && k.drained q) = some p)
    (hfit : (k.evict p).ovfFits = true) : exec (.staleBlockEviction c l b) s = .next (s.setCtx (k.evict p)) := by
  show execStaleBlockEviction c l b s = _
  simp only [execStaleBlockEviction, modActive_some hk, hp, Ctx.evictFit, hfit, Bool.or_true, if_true]

/-- Settles O46: each of the four block steps is the change that its rule names. -/
theorem blockSteps : Obligations.BlockSteps := by
  unfold Obligations.BlockSteps
  refine ⟨?placement, ?move, ?forward, ?stale⟩
  case placement =>
    intro c l seat b at_ s k ln who n m ws cf q hk ha hn hl hb him hf hlog hw hq hs hfit
    subst hq
    obtain ⟨j, hj⟩ := blockRead_ctx (active_ctx hk).1 (s.fetched k n b m ws)
    exact answers_of_exec (exec_blockPlacement hk ha hn hl hb him hf hlog hw hs hfit)
      (inCtx_modCtx hj ((install_num ..).trans (spared_chargeFetch spared_num ..)) (install_holds ..))
  case move =>
    intro c l b at_ s k p hk hp ho hl hs hfit
    obtain ⟨hlcl, hblk⟩ := isPlaced_iff.1 (List.find?_some hp)
    exact answers_of_exec (exec_blockMove hk hp ho hl hs hfit) ⟨modCtx_mem .., inCtx_modCtx (active_ctx hk).1 rfl
      ⟨⟨_, moveBlock_placed at_ (List.mem_of_find?_eq_some hp), hblk, hlcl, rfl, rfl, rfl⟩, fun _ => moveBlock_tokens⟩⟩
  case forward =>
    intro c l b s k p hk hp ht
    have h := List.find?_some hp
    obtain ⟨hlcl, hblk⟩ := isPlaced_iff.1 (Bool.and_elim_left h)
    exact answers_of_exec (exec_tokenForward l b hk hp ht) (inCtx_setCtx hk rfl ⟨{ p with old := none },
      mem_updFirst_self (fun x => { x with old := none }) (List.mem_of_find?_eq_some hp), hblk, hlcl, rfl, rfl⟩)
  case stale =>
    intro c l b s k p hk hp hfit
    exact answers_of_exec (exec_staleBlockEviction l b hk hp hfit)
      (inCtx_setCtx hk (evict_num k p) (evict_placed k p))

end Sys2Proof.Machine
end

section
/-! PROOFS. The state that refutes `Obligations.WavesCommit`: a wave that commits while a wave of its number is among the dropped
ones, which the statement does not exclude. -/

namespace Sys2Proof.Machine

/-- A committed operation of wave 4 of thread 0, whose result is due to wave 5. -/
def resultDue : Committed :=
  { thread := 0, born := 0, ln := 0, lcl := 0, wave := 4, item := .dfr default, waiting := false, due := true, owed := false }

/-- Wave 5 of thread 0 stands, empty, and a wave of the same number is among the dropped ones, though no fault has dropped it. -/
def twofoldWave : State :=
  let s := State.reset.withWords ⟨0x01000102#32, 0, 0, 0⟩
  { s with ctxs := s.ctxs.map fun k => { k with
      tokens := [], committed := [resultDue]
      threads := k.threads.map fun x => { x with waves := [Wave.fresh 5 0], dropped := [Wave.fresh 5 0], last := some 4 } } }

/-- Context 0 of that state, and thread 0 in it. -/
def twofoldCtx : Ctx := (twofoldWave.ctx 0).getD default
def twofoldThread : Thread := (twofoldCtx.th 0).getD default

theorem twofoldWave_active : twofoldWave.active 0 = some twofoldCtx := by decide +kernel
theorem twofoldCtx_th : twofoldCtx.th 0 = some twofoldThread := by decide +kernel
theorem twofoldThread_oldest : twofoldThread.oldest = some (Wave.fresh 5 0) := by decide +kernel

/-- Nothing is left of the wave, and nothing parks it. -/
theorem twofoldWave_commits : twofoldCtx.unclosed twofoldThread (Wave.fresh 5 0) = none
    ∧ twofoldCtx.chainDone twofoldThread (Wave.fresh 5 0) = true ∧ (Wave.fresh 5 0).bound = true
    ∧ twofoldCtx.spent twofoldThread (Wave.fresh 5 0) = true
    ∧ twofoldWave.emptyGet twofoldCtx twofoldThread (Wave.fresh 5 0) = none := by decide +kernel

/-- A wave of a thread after a step. -/
def waveAfter (i : Instr) (s : State) (c : CtxId) (th : ThreadId) (w : WaveId) : Option Wave :=
  match exec i s with
  | .next t => (t.ctx c).bind (·.wv th w)
  | _ => none

theorem waveAfter_of_exec {i : Instr} {s t : State} {c : CtxId} {j : Ctx} (th : ThreadId) (w : WaveId) (h : exec i s = .next t)
    (hj : t.ctx c = some j) : waveAfter i s c th w = j.wv th w := by
  unfold waveAfter
  rw [h]
  simp only [hj, Option.bind_some]

/-- The due result is counted in a wave 5, which is entered anew for it once wave 5 has committed. -/
theorem twofoldWave_returns : (waveAfter (.waveCommit 0 0) twofoldWave 0 0 5).isSome = true := by decide +kernel

/-- Refutes O48: the committed wave need not leave its thread. Where a wave of its number is also among the dropped ones, that number
still counts as uncommitted, and a result due from the wave before enters a wave of that number again. The machine itself has
no number in both lists, but the statement is about every state. -/
theorem not_wavesCommit : ¬ Obligations.WavesCommit := by
  unfold Obligations.WavesCommit
  rintro ⟨h, -⟩
  obtain ⟨hu, hc, hb, hs, he⟩ := twofoldWave_commits
  obtain ⟨t, ht, -, j, hj, ⟨y, hy, -, hgone⟩, -⟩ :=
    h 0 0 twofoldWave _ _ _ twofoldWave_active twofoldCtx_th twofoldThread_oldest hu hc hb hs he rfl
  have hwave : j.wv 0 5 = none := by
    rw [Ctx.wv, hy]
    exact hgone
  have hreturns := twofoldWave_returns
  rw [waveAfter_of_exec 0 5 ht hj, hwave] at hreturns
  exact Bool.false_ne_true hreturns

end Sys2Proof.Machine
end

section
/-! PROOFS. Faults are delivered, stalls are found, pages are walked (`Obligations.FaultSteps`). -/

namespace Sys2Proof.Machine

/-! ### What the answers to parked readers leave (03 R89) -/

/-- A part of a context that the delivery of a result leaves. -/
structure Beside {β : Type} (p : Ctx → β) : Prop where
  enter : ∀ (k : Ctx) (a : Arrived) (src : Src) (inside : Bool), p (k.enter a src inside) = p k
  modWv : ∀ (k : Ctx) (t : ThreadId) (w : WaveId) (f : Wave → Wave), p (k.modWv t w f) = p k
  paid : ∀ (k : Ctx) (t : ThreadId) (w : WaveId), p (k.paid t w) = p k
  discards : ∀ (k : Ctx) (ds : List Nat), p { k with discards := ds } = p k
  setGran : ∀ (k : Ctx) (l g : Nat) (x : Gran), p (k.setShare ((k.share l).setGran g x)) = p k

section
variable {β : Type} {p : Ctx → β} (hp : Beside p)
include hp

theorem beside_put (k : Ctx) (t : ThreadId) (fw w : WaveId) (r : Route) (v1 v2 : Value) : p (k.put t fw w r v1 v2) = p k := by
  unfold Ctx.put
  rw [foldl_keeps p (fun _ _ => hp.enter ..), foldl_keeps p (fun _ _ => hp.enter ..)]

theorem beside_bind (k : Ctx) (t : ThreadId) (w : WaveId) (own : BitVec 8) (v : Value) : p (k.bind t w own v) = p k := by
  have marked (f : Wave → Wave) (fw out : WaveId) (r : Route) : p ((k.modWv t w f).put t fw out r v v) = p k :=
    (beside_put hp ..).trans (hp.modWv ..)
  unfold Ctx.bind
  split
  · rfl
  · dsimp only
    split <;> split
    · rw [hp.paid, hp.discards, marked]
    · rw [hp.paid, marked]
    · rw [hp.discards, marked]
    · rw [marked]

theorem beside_answerAll (bytes : List Byte) (rs : List Reader) (k : Ctx) : p (k.answerAll bytes rs) = p k := by
  induction rs generalizing k with
  | nil => rfl
  | cons r rs ih => rw [Ctx.answerAll, ih, beside_bind hp]

theorem beside_filled (k : Ctx) (l g : Nat) : p (k.filled l g) = p k := by
  unfold Ctx.filled
  dsimp only
  rw [beside_answerAll hp, hp.setGran]

end

/-- A thread without its waves and the number its fault's record has in the queue. -/
def Thread.bare (x : Thread) : Thread := { x with waves := [], dropped := [], seqNo := none }

def Ctx.roster (k : Ctx) : List Thread := k.threads.map Thread.bare

/-- A change of one element that a view does not show. -/
theorem map_updFirst {α β : Type} {q : α → Bool} {f : α → α} {g : α → β} (l : List α) (h : ∀ x, g (f x) = g x) :
    (updFirst q f l).map g = l.map g := by
  induction l with
  | nil => rfl
  | cons x l ih =>
    unfold updFirst
    split <;> simp [h, ih]

theorem map_updFirst_found {α β : Type} {q : α → Bool} {g : α → β} {l : List α} {x y : α} (hx : l.find? q = some x)
    (h : g y = g x) : (updFirst q (fun _ => y) l).map g = l.map g := by
  induction l with
  | nil => rfl
  | cons z l ih =>
    unfold updFirst
    cases hz : q z with
    | true =>
      rw [List.find?_cons_of_pos hz, Option.some.injEq] at hx
      simp [h, hx]
    | false =>
      rw [List.find?_cons_of_neg (by simp [hz])] at hx
      simp [ih hx]

theorem roster_modTh {f : Thread → Thread} (k : Ctx) (t : ThreadId) (h : ∀ x, (f x).bare = x.bare) :
    (k.modTh t f).roster = k.roster := map_updFirst _ h

theorem roster_setTh {k : Ctx} {x y : Thread} (hx : k.th y.num = some x) (h : y.bare = x.bare) :
    (k.setTh y).roster = k.roster := map_updFirst_found hx h

theorem roster_enter (k : Ctx) (a : Arrived) (src : Src) (inside : Bool) : (k.enter a src inside).roster = k.roster := by
  obtain e | ⟨x, ds, hx, e⟩ | ⟨x, ws, hx, -, -, e⟩ := enter_cases k a src inside <;> rw [e]
  · exact roster_setTh (y := { x with dropped := ds }) (x := x) ((th_num hx).symm ▸ hx) rfl
  · exact roster_setTh (y := { x with waves := ws }) (x := x) ((th_num hx).symm ▸ hx) rfl

theorem beside_roster : Beside Ctx.roster where
  enter := roster_enter
  modWv k t _ _ := roster_modTh k t fun _ => rfl
  paid k t _ := roster_modTh k t fun x => by split <;> rfl
  discards _ _ := rfl
  setGran _ _ _ _ := rfl

theorem spared_roster : Spared Ctx.roster where
  scratchSt _ _ _ _ := foldl_keeps Ctx.roster (f := fun k g => k.filled _ g) (fun _ _ => beside_filled beside_roster ..) _ _
  logs _ _ := rfl
  charge _ _ _ _ := rfl

/-- A thread is found alike in two contexts whose threads stand alike. -/
theorem th_of_roster {j k : Ctx} (h : j.roster = k.roster) (t : ThreadId) :
    (j.th t).map Thread.bare = (k.th t).map Thread.bare := by
  have found (i : Ctx) : i.roster.find? (·.num == t) = (i.th t).map Thread.bare := List.find?_map ..
  rw [← found, ← found, h]

/-! ### Delivery (08 R213) -/

/-- The context in which a thread's fault has been delivered, before its record is filed. -/
def Ctx.told (k : Ctx) (x : Thread) (r : FaultRec) : Ctx :=
  let k1 := ({ k with flt := k.flt + 1 } : Ctx).setTh { x with state := 2, delivered := true }
  if ((k.ln x.ln).map (·.lrec.faultq)).getD false then k1 else k1.condemn x.ln r

theorem told_eq (k : Ctx) (x : Thread) (r : FaultRec) : ∃ ls, k.told x r
    = { ({ k with flt := k.flt + 1 } : Ctx).setTh { x with state := 2, delivered := true } with launches := ls } := by
  unfold Ctx.told
  dsimp only
  split
  · exact ⟨_, rfl⟩
  · exact ⟨_, rfl⟩

/-- What a delivery makes of a context: FLT counts it, and the thread's STATE is 2 (08 R213). -/
def Ctx.Delivered (j k : Ctx) (t : ThreadId) (r : FaultRec) : Prop :=
  j.flt = k.flt + 1 ∧ ∃ y, j.th t = some y ∧ y.state = 2 ∧ y.delivered = true ∧ y.fault = some r

theorem told_delivered {k : Ctx} {x : Thread} {t : ThreadId} {r : FaultRec} (hx : k.th t = some x) (hr : x.fault = some r) :
    (k.told x r).Delivered k t r := by
  obtain ⟨ls, h⟩ := told_eq k x r
  rw [h]
  exact ⟨rfl, _, th_setTh_at (y := { x with state := 2, delivered := true }) hx rfl, rfl, rfl, hr⟩

/-- What a delivery counts and shows in a context. -/
def Ctx.tally (k : Ctx) : Nat × List Thread := (k.flt, k.roster)

theorem spared_tally : Spared Ctx.tally where
  scratchSt k _ _ _ := Prod.ext (foldl_keeps Ctx.flt (f := fun k g => k.filled _ g)
    (fun k g => (congrArg Ctx.flt (fixedPart_filled k _ g) :)) _ _) (spared_roster.scratchSt k ..)
  logs _ _ := rfl
  charge _ _ _ _ := rfl

/-- A context with the same count and the same threads, but for their waves, has the same delivery. -/
theorem delivered_of_tally {i j k : Ctx} {t : ThreadId} {r : FaultRec} (h : j.Delivered k t r) (hi : i.tally = j.tally) :
    i.Delivered k t r := by
  obtain ⟨hflt, y, hy, h1, h2, h3⟩ := h
  have hth := th_of_roster (congrArg Prod.snd hi : i.roster = j.roster) t
  rw [hy, Option.map_some] at hth
  obtain ⟨z, hz, hzy⟩ := Option.map_eq_some_iff.1 hth
  exact ⟨(congrArg Prod.fst hi :).trans hflt, z, hz, (congrArg Thread.state hzy :).trans h1,
    (congrArg Thread.delivered hzy :).trans h2, (congrArg Thread.fault hzy :).trans h3⟩

theorem tally_numbered (k : Ctx) (t : ThreadId) (r : FaultRec) (seq : BitVec 32) : (k.numbered t r seq).tally = k.tally :=
  congrArg (Prod.mk k.flt) (roster_modTh k t fun x => by split <;> rfl)

theorem agrees_file {s t : State} {k : Ctx} {r : FaultRec} {seq : BitVec 32} (h : s.file k r = .written t seq) :
    t.Agrees Ctx.tally s := by
  unfold State.file at h
  split at h
  · cases h
  · split at h
    · cases h
    · cases h
    · next hw =>
      cases h
      exact agrees_trans (agrees_ringSpend spared_tally ..) (agrees_ringPut spared_tally hw)

/-- The record is filed, or held for a full queue, or, without a queue, condemns the launch: the delivery stands. -/
theorem deliver_delivered {s : State} {c : CtxId} {k : Ctx} {x : Thread} {t : ThreadId} {r : FaultRec} (hk : s.ctx c = some k)
    (hh : k.heldRecs = []) (hx : k.th t = some x) (hr : x.fault = some r) :
    inCtx (s.deliver k x r) c fun j => j.Delivered k t r := by
  have hd := told_delivered hx hr
  have hnum : (k.told x r).num = k.num := by obtain ⟨ls, h⟩ := told_eq k x r; rw [h]; rfl
  have hs1 : (s.setCtx (k.told x r)).ctx c = some (k.told x r) := ctx_setCtx hk (hnum.trans (ctx_num hk))
  have held (j : Ctx) (hn : j.num = (k.told x r).num) (ht : j.tally = (k.told x r).tally) :
      inCtx ((s.setCtx (k.told x r)).setCtx j) c fun j => j.Delivered k t r :=
    ⟨j, ctx_setCtx hs1 (hn.trans (ctx_num hs1)), delivered_of_tally hd ht⟩
  have hdel : s.deliver k x r = match (s.setCtx (k.told x r)).file (k.told x r) r with
      | .unbound => (s.setCtx (k.told x r)).setCtx ((k.told x r).condemn x.ln r)
      | .full => (s.setCtx (k.told x r)).setCtx { k.told x r with heldRecs := [(x.num, r)] }
      | .written s2 seq => s2.modCtx k.num fun k => k.numbered x.num r seq := if_neg (by rw [hh]; decide)
  rw [hdel]
  split
  · exact held _ rfl rfl
  · exact held _ rfl rfl
  · next s2 seq hw =>
    obtain ⟨j, hj, hjt⟩ := found_of_agrees (agrees_file hw) hs1
    rw [ctx_num hk]
    exact inCtx_modCtx hj rfl (delivered_of_tally hd ((tally_numbered ..).trans hjt))

theorem exec_faultDelivery {c : CtxId} {t : ThreadId} {s : State} {k : Ctx} {x : Thread} {r : FaultRec} (hk : s.ctx c = some k)
    (hh : k.heldRecs = []) (hx : k.th t = some x) (hr : x.deliverable = some r)
    (hs : k.state.toNat ≤ 1 ∨ k.state = 2 ∧ k.preempt = true) (hw : s.faultQueueWaits k = false) :
    exec (.faultDelivery c t) s = .next (s.deliver k x r) := by
  have hst : (decide (k.state.toNat ≤ 1) || (decide (k.state = 2) && k.preempt)) = true := by simpa using hs
  show execFaultDelivery c t s = _
  simp only [execFaultDelivery, hk, hh, List.length_nil, State.writeHeld, hw, hx, hr, Option.bind_some, Option.map_some,
    hst, if_true, Bool.false_eq_true, if_false]

theorem fault_of_deliverable {x : Thread} {r : FaultRec} (h : x.deliverable = some r) : x.fault = some r := by
  unfold Thread.deliverable at h
  split at h
  · exact h
  · cases h

/-! ### The stall sweep (01 R49) -/

theorem sweepCtx_num (last found : List CtxId) (pe slot : Nat) (k : Ctx) : (sweepCtx last found pe slot k).num = k.num := by
  unfold sweepCtx
  split
  · rfl
  · split
    · show (k.stall pe slot).num = k.num
      unfold Ctx.stall
      split
      · rfl
      · exact raise_num ..
    · rfl

/-- The contexts that a sweep finds stalled. -/
def State.stalledNow (s : State) : List CtxId := (s.ctxs.filter s.stuck).map (·.num)

/-- The state after a sweep. -/
def State.sweep (s : State) (pe slot : Nat) : State :=
  { s with ctxs := s.ctxs.map (sweepCtx s.swept s.stalledNow pe slot), swept := s.stalledNow }

theorem exec_stallSweep (pe slot : Nat) (s : State) : exec (.stallSweep pe slot) s = .next (s.sweep pe slot) := rfl

theorem mem_stalledNow {s : State} {c : CtxId} {k : Ctx} (hk : s.ctx c = some k) (h : s.stuck k = true) : c ∈ s.stalledNow :=
  List.mem_map.2 ⟨k, List.mem_filter.2 ⟨List.mem_of_find?_eq_some hk, h⟩, ctx_num hk⟩

theorem ctx_sweep {s : State} {c : CtxId} {k : Ctx} (pe slot : Nat) (hk : s.ctx c = some k) :
    (s.sweep pe slot).ctx c = some (sweepCtx s.swept s.stalledNow pe slot k) := by
  unfold State.ctx at *
  rw [State.sweep, List.find?_map]
  simp only [Function.comp_def, sweepCtx_num]
  rw [hk]
  rfl

theorem sweepCtx_first {last found : List CtxId} {k : Ctx} (pe slot : Nat) (hf : k.num ∈ found) (hl : k.num ∉ last) :
    sweepCtx last found pe slot k = { k with stalled := true } := by
  simp [sweepCtx, hf, hl]

theorem sweepCtx_again {last found : List CtxId} {k : Ctx} (pe slot : Nat) (hf : k.num ∈ found) (hl : k.num ∈ last) :
    sweepCtx last found pe slot k = { k.stall pe slot with stalled := true } := by
  simp [sweepCtx, hf, hl]

/-- STALL stands in the oldest wave of the oldest thread. -/
theorem stall_th {k : Ctx} {x : Thread} {v : Wave} (pe slot : Nat) (he : k.eldest = some (x, v)) (hx : k.th x.num = some x)
    (hd : x.isDropped v.num = false) (hv : x.delivered = false) : ∃ y r, (k.stall pe slot).th x.num = some y ∧ y.fault = some r
      ∧ r.cause = 0x13 ∧ r.origin = 4 ∧ r.thread = x.num ∧ r.wave = v.num := by
  unfold Ctx.stall
  rw [he]
  dsimp only
  generalize (if (k.tokenSlots x).contains (pe, slot) then (pe, slot) else _ : Nat × Nat) = q
  obtain ⟨⟨y, hy, hf⟩, -⟩ := faulted_raise (k := k) (t := x.num)
    (r := { k.bareRec x x.pointer.1 v.num 0x13 4 0 0 with pe := BitVec.ofNat 8 q.1, slot := BitVec.ofNat 8 q.2 }) hx hd hv
  exact ⟨y, _, hy, hf.fault, rfl, rfl, rfl, rfl⟩

/-! ### The page walk (03 R81) -/

theorem mem_cacheAt_self (m : Mems) (e : Tlb) : e ∈ (m.cacheAt e).tlb := List.mem_append_right _ List.mem_cons_self

/-- An entry of another site stays. -/
theorem mem_dropFirst_of_not {α : Type} {q : α → Bool} {l : List α} {x : α} (h : x ∈ l) (hq : q x = false) :
    x ∈ dropFirst q l := by
  induction l with
  | nil => cases h
  | cons y l ih =>
    unfold dropFirst
    rcases List.mem_cons.1 h with rfl | h
    · rw [hq]; exact List.mem_cons_self
    · split
      · exact h
      · exact List.mem_cons_of_mem _ (ih h)

theorem mem_cacheAt_other {m : Mems} {e f : Tlb} (h : f ∈ m.tlb) (hs : f.site ≠ e.site) : f ∈ (m.cacheAt e).tlb := by
  have hrest : f ∈ m.tlb.filter fun x => !(x.ctx == e.ctx && x.site == e.site && x.vpn == e.vpn) :=
    List.mem_filter.2 ⟨h, by simp [hs]⟩
  refine List.mem_append_left _ ?_
  split
  · exact mem_dropFirst_of_not hrest (by simpa using hs)
  · exact hrest

/-- An entry stands after the filling of a cache only if it is the one filled in, or stood before and is for another page. -/
theorem of_mem_cacheAt {m : Mems} {e f : Tlb} (h : f ∈ (m.cacheAt e).tlb) :
    f = e ∨ f ∈ m.tlb ∧ ¬(f.ctx = e.ctx ∧ f.site = e.site ∧ f.vpn = e.vpn) := by
  rcases List.mem_append.1 h with h | h
  · have hrest : f ∈ m.tlb.filter fun x => !(x.ctx == e.ctx && x.site == e.site && x.vpn == e.vpn) := by
      split at h
      · exact mem_of_mem_dropFirst h
      · exact h
    obtain ⟨hm, hne⟩ := List.mem_filter.1 hrest
    refine .inr ⟨hm, fun ⟨hc, hs, hv⟩ => ?_⟩
    simp [hc, hs, hv] at hne
  · exact .inl (List.mem_singleton.1 h)

/-- A walk for a cluster fills its cache and its die's with one entry. -/
def Mems.walked (m : Mems) (e : Tlb) : Mems := (m.cacheAt e).cacheAt { e with site := dieSite e.site }

theorem dieSite_ne {clu : Nat} (h : clu < Config.clusters) : clu ≠ dieSite clu :=
  Nat.ne_of_lt (Nat.lt_of_lt_of_le h (Nat.le_add_right ..))

theorem mem_walked {m : Mems} {e : Tlb} (hs : e.site < Config.clusters) {n : Nat} (hn : n ∈ [e.site, dieSite e.site]) :
    { e with site := n } ∈ (m.walked e).tlb := by
  rcases List.mem_cons.1 hn with rfl | hn
  · exact mem_cacheAt_other (mem_cacheAt_self m e) (dieSite_ne hs)
  · rw [List.mem_singleton.1 hn]
    exact mem_cacheAt_self ..

theorem of_mem_walked {m : Mems} {e f : Tlb} {n : Nat} (hn : n ∈ [e.site, dieSite e.site]) (h : f ∈ (m.walked e).tlb)
    (hc : f.ctx = e.ctx) (hs : f.site = n) (hv : f.vpn = e.vpn) : f.entryPA = e.entryPA ∧ f.entry = e.entry := by
  rcases of_mem_cacheAt h with rfl | ⟨h, hne⟩
  · exact ⟨rfl, rfl⟩
  · rcases of_mem_cacheAt h with rfl | ⟨-, hne'⟩
    · exact ⟨rfl, rfl⟩
    · rcases List.mem_cons.1 hn with hn | hn
      · exact absurd ⟨hc, hs.trans hn, hv⟩ hne'
      · exact absurd ⟨hc, hs.trans (List.mem_singleton.1 hn), hv⟩ hne

/-- The entry that a walk finds, for the cluster it is for. -/
def Ctx.walkEntry (k : Ctx) (m : Mems) (clu : Nat) (va : Addr) (ea level : Nat) : Tlb :=
  let v := va.toNat / 4096 * 4096
  { ctx := k.num, site := clu, vpn := v / 4096, entry := BitVec.ofNat 64 (m.word64 ea),
    pa := (leafTrans k (BitVec.ofNat 64 (m.word64 ea)) level v ea).pa, entryPA := ea }

/-- The reads of a walk are charged at their homes (07 R199). -/
def Ctx.chargeReads (k : Ctx) (pas : List Nat) : Ctx := pas.foldl (fun k pa => k.charge (homeSite pa) 2 5) k

theorem exec_pageWalk {c : CtxId} {clu : Nat} {va : Addr} {s : State} {k : Ctx} {ea level : Nat} (hk : s.ctx c = some k)
    (hc : clu < Config.clusters) (hv : va.toNat / 4096 * 4096 < scratchBase)
    (hw : walk s.mem k (va.toNat / 4096 * 4096) = .ok (ea, level)) : exec (.pageWalk c ⟨clu, va⟩) s
      = .next (({ s with mem := s.mem.walked (k.walkEntry s.mem clu va ea level) } : State).modCtx c fun k =>
          k.chargeReads (walkReads s.mem (va.toNat / 4096 * 4096) k.desc.rootPA 0 4)) := by
  have hno : (decide (va.toNat / 4096 * 4096 ≥ scratchBase) || decide (clu ≥ Config.clusters)) = false := by
    simp only [Bool.or_eq_false_iff, decide_eq_false_iff_not]
    omega
  obtain rfl := ctx_num hk
  show execPageWalk k.num ⟨clu, va⟩ s = _
  simp only [execPageWalk, hk, hno, hw, Bool.false_eq_true, if_false]
  rfl

/-- Settles O52: a delivery, the three cases of a sweep, and a walk. -/
theorem faultSteps : Obligations.FaultSteps := by
  unfold Obligations.FaultSteps
  refine ⟨?delivery, ?clear, ?first, ?again, ?walk⟩
  case delivery =>
    intro c t s k x r hk hh hx hr hs hw
    exact answers_of_exec (exec_faultDelivery hk hh hx hr hs hw) (deliver_delivered hk hh hx (fault_of_deliverable hr))
  case clear =>
    intro pe slot s hs
    have hnone : s.stalledNow = [] := by
      rw [State.stalledNow, List.filter_eq_nil_iff.2 fun k hk => by simp [hs k hk]]
      rfl
    have hid : sweepCtx s.swept [] pe slot = id := rfl
    rw [exec_stallSweep, State.sweep, hnone, hid, List.map_id]
  case first =>
    intro pe slot c s k hk hs hc
    have hf := mem_stalledNow hk hs
    refine answers_of_exec (exec_stallSweep pe slot s) ⟨hf, rfl, ?_⟩
    rw [ctx_sweep pe slot hk, sweepCtx_first pe slot (ctx_num hk ▸ hf) (ctx_num hk ▸ hc)]
  case again =>
    intro pe slot c s k x v hk hs hc he hx hd hv
    have hf := mem_stalledNow hk hs
    refine answers_of_exec (exec_stallSweep pe slot s) ⟨_, ctx_sweep pe slot hk, ?_⟩
    rw [sweepCtx_again pe slot (ctx_num hk ▸ hf) (ctx_num hk ▸ hc)]
    exact ⟨rfl, stall_th pe slot he hx hd hv⟩
  case walk =>
    intro c clu va s k ea level hk hc hv hw
    have hp : va.toNat / 4096 * 4096 / 4096 = va.toNat / 4096 := Nat.mul_div_cancel _ (by decide)
    have kept {β : Type} (p : Ctx → β) (hp : ∀ k site cls ev, p (Ctx.charge k site cls ev) = p k) (pas : List Nat) :
        p (k.chargeReads pas) = p k := foldl_keeps p (fun _ _ => hp ..) pas k
    refine answers_of_exec (exec_pageWalk hk hc hv hw) ⟨?_, inCtx_modCtx (k := k) hk ?_ ?_, ?_⟩
    · rw [modCtx_mem]; rfl
    · exact kept Ctx.num (fun _ _ _ _ => rfl) _
    · exact ⟨kept Ctx.tokens (fun _ _ _ _ => rfl) _, kept Ctx.threads (fun _ _ _ _ => rfl) _,
        kept Ctx.shares (fun _ _ _ _ => rfl) _⟩
    · intro n hn
      rw [modCtx_mem]
      exact ⟨⟨_, mem_walked (e := k.walkEntry s.mem clu va ea level) hc hn, ctx_num hk, rfl, hp⟩, fun e he hec hes hev =>
        of_mem_walked (e := k.walkEntry s.mem clu va ea level) hn he (hec.trans (ctx_num hk).symm) hes (hev.trans hp.symm)⟩

end Sys2Proof.Machine
end

section
/-! PROOFS. Where a context stands: its STATE, its gate, its placement map, and the gates and targets of its shares. What changes
tokens, threads, blocks or memory leaves them. -/

namespace Sys2Proof.Machine

/-! ### The gates of the shares (08 R225) -/

/-- Of every share whether its gate is shut, and where it is to move. -/
def Ctx.doors (k : Ctx) (l : Nat) : Bool × Option (Nat × BitVec 8) := ((k.share l).gated, (k.share l).moveTo)

theorem doors_of_shares {j k : Ctx} (h : j.shares = k.shares) : j.doors = k.doors := by
  funext l
  rw [Ctx.doors, share_of_shares h]
  rfl

theorem doors_setShare {k : Ctx} {h : Share} (hd : (h.gated, h.moveTo) = k.doors h.lcl) : (k.setShare h).doors = k.doors := by
  funext l
  rw [Ctx.doors, share_setShare]
  split
  · next hl => rw [← hl]; exact hd
  · rfl

theorem doors_modShare {f : Share → Share} (k : Ctx) (l : Nat)
    (hf : ∀ h, (f h).lcl = h.lcl ∧ (f h).gated = h.gated ∧ (f h).moveTo = h.moveTo) : (k.modShare l f).doors = k.doors := by
  obtain ⟨hl, hg, hm⟩ := hf (k.share l)
  exact doors_setShare (by rw [hg, hm, hl, share_lcl]; rfl)

/-- A change of every share. -/
theorem share_mapShares {f : Share → Share} (k : Ctx) (hf : ∀ h, (f h).lcl = h.lcl) (l : Nat) :
    ({ k with shares := k.shares.map f } : Ctx).share l = f (k.share l)
    ∨ ({ k with shares := k.shares.map f } : Ctx).share l = k.share l := by
  unfold Ctx.share
  simp only [List.find?_map, Function.comp_def, hf]
  cases k.shares.find? (·.lcl == l) with
  | none => exact .inr rfl
  | some h => exact .inl rfl

theorem doors_mapShares {f : Share → Share} (k : Ctx)
    (hf : ∀ h, (f h).lcl = h.lcl ∧ (f h).gated = h.gated ∧ (f h).moveTo = h.moveTo) :
    ({ k with shares := k.shares.map f } : Ctx).doors = k.doors := by
  funext l
  obtain ⟨-, hg, hm⟩ := hf (k.share l)
  rcases share_mapShares k (fun h => (hf h).1) l with h | h <;> rw [Ctx.doors, h]
  · rw [hg, hm]; rfl
  · rfl

/-! ### The station of a context -/

/-- The number, STATE, the gate, the placement map, and the gates and targets of the shares. -/
structure Station where
  num : CtxId
  state : BitVec 4
  gate : GateStage
  pmap : Tab (BitVec 32)
  doors : Nat → Bool × Option (Nat × BitVec 8)

def Ctx.station (k : Ctx) : Station := ⟨k.num, k.state, k.gate, k.pmap, k.doors⟩

theorem station_of_fixedPart {j k : Ctx} (h : j.fixedPart = k.fixedPart) (hd : j.doors = k.doors) : j.station = k.station := by
  have hnum : j.num = k.num := (congrArg Ctx.num h :)
  have hstate : j.state = k.state := (congrArg Ctx.state h :)
  have hgate : j.gate = k.gate := (congrArg Ctx.gate h :)
  have hpmap : j.pmap = k.pmap := (congrArg Ctx.pmap h :)
  rw [Ctx.station, hnum, hstate, hgate, hpmap, hd]
  rfl

theorem beside_station : Beside Ctx.station where
  enter _ _ _ _ := station_of_fixedPart (fixedPart_enter ..) (doors_of_shares (shares_enter ..))
  modWv _ _ _ _ := rfl
  paid _ _ _ := rfl
  discards _ _ := rfl
  setGran k l _ _ := station_of_fixedPart rfl (doors_setShare (congrArg k.doors (share_lcl k l)).symm)

theorem station_modShare {f : Share → Share} (k : Ctx) (l : Nat)
    (hf : ∀ h, (f h).lcl = h.lcl ∧ (f h).gated = h.gated ∧ (f h).moveTo = h.moveTo) : (k.modShare l f).station = k.station :=
  station_of_fixedPart rfl (doors_modShare k l hf)

theorem station_mapShares {f : Share → Share} (k : Ctx)
    (hf : ∀ h, (f h).lcl = h.lcl ∧ (f h).gated = h.gated ∧ (f h).moveTo = h.moveTo) :
    ({ k with shares := k.shares.map f } : Ctx).station = k.station :=
  station_of_fixedPart rfl (doors_mapShares k hf)

theorem settle_same (h : Share) (g : Nat) :
    (h.settle g).lcl = h.lcl ∧ (h.settle g).gated = h.gated ∧ (h.settle g).moveTo = h.moveTo := by
  unfold Share.settle
  split <;> exact ⟨rfl, rfl, rfl⟩

theorem spared_station : Spared Ctx.station where
  scratchSt k l off bytes := by
    refine (foldl_keeps Ctx.station (f := fun k g => k.filled l g) (fun _ _ => beside_filled beside_station ..) _ _).trans ?_
    refine station_modShare k l fun h => ⟨?_, ?_, ?_⟩
    · exact foldl_keeps Share.lcl (fun h g => (settle_same h g).1) _ h
    · exact foldl_keeps Share.gated (fun h g => (settle_same h g).2.1) _ h
    · exact foldl_keeps Share.moveTo (fun h g => (settle_same h g).2.2) _ h
  logs _ _ := rfl
  charge _ _ _ _ := rfl

/-! ### What leaves the station -/

theorem station_squashWaves (k : Ctx) (t : ThreadId) (gone : WaveId → Bool) : (k.squashWaves t gone).station = k.station :=
  station_of_fixedPart (fixedPart_squashWaves ..) (doors_mapShares (f := fun h => h.unlink t gone) k fun _ => ⟨rfl, rfl, rfl⟩)

theorem station_restoreHolds (k : Ctx) (t : ThreadId) (gone : WaveId → Bool) : (k.restoreHolds t gone).station = k.station :=
  foldl_keeps Ctx.station (fun _ _ => beside_filled beside_station ..) _ k

theorem station_raise (k : Ctx) (t : ThreadId) (r : FaultRec) : (k.raise t r).station = k.station := by
  unfold Ctx.raise
  split
  · rfl
  · split
    · rfl
    · rw [station_restoreHolds]
      exact station_squashWaves k t _

theorem station_raiseAt (k : Ctx) (t : ThreadId) (b : Addr) (n : Seen) (w : WaveId) (cause origin : BitVec 8)
    (detail : BitVec 24) (faddr : BitVec 64) : (k.raiseAt t b n w cause origin detail faddr).station = k.station := by
  unfold Ctx.raiseAt
  split
  · rfl
  · exact station_raise ..

theorem station_modeFall (k : Ctx) (l d : Nat) : (k.modeFall l d).station = k.station := by
  unfold Ctx.modeFall
  dsimp only
  split
  · exact station_of_fixedPart rfl (doors_setShare (congrArg k.doors (share_lcl k l)).symm)
  · rfl

theorem station_evict (k : Ctx) (p : Placed) : (k.evict p).station = k.station := by
  have counted : (({ k with placed := dropFirst (· == p) k.placed } : Ctx).perfAdd p.lcl 6 1).station = k.station :=
    station_modShare { k with placed := dropFirst (· == p) k.placed } p.lcl fun _ => ⟨rfl, rfl, rfl⟩
  unfold Ctx.evict
  dsimp only
  split
  · rw [foldl_keeps Ctx.station (fun k d => station_modeFall k p.seat d), counted]
  · exact counted

theorem station_evictFit (k : Ctx) (p : Placed) : (k.evictFit p).station = k.station := by
  unfold Ctx.evictFit
  dsimp only
  split
  · exact station_evict ..
  · split
    · rfl
    · split
      · rfl
      · exact station_raiseAt ..

theorem station_putOut (k : Ctx) (p : Placed) : (k.putOut p).station = k.station := by
  unfold Ctx.putOut
  dsimp only
  split
  · rw [station_evict, station_evictFit]
  · exact station_evictFit ..

/-! ### Squashed threads are fed again (08 R222, R224) -/

theorem fixedPart_squash (k : Ctx) (t : ThreadId) : (k.squash t).fixedPart = k.fixedPart := by
  unfold Ctx.squash
  split
  · rfl
  · split
    · rfl
    · exact (fixedPart_restoreHolds ..).trans (fixedPart_squashWaves ..)

theorem fixedPart_squashAll (k : Ctx) (ts : List ThreadId) : (k.squashAll ts).fixedPart = k.fixedPart :=
  fixedPart_foldl fixedPart_squash ts k

theorem station_refeed (k : Ctx) (t : ThreadId) : (k.refeed t).station = k.station := by
  unfold Ctx.refeed
  split
  · rfl
  · dsimp only
    rw [foldl_keeps Ctx.station (f := fun k (r : LogRec) => k.enter r.arr r.src false)
      fun k r => beside_station.enter k r.arr r.src false]
    refine (foldl_keeps Ctx.station (fun k v => ?_) _ _).trans rfl
    exact foldl_keeps Ctx.station (f := fun k _ => k.owe t v.num v.blk) (fun _ _ => rfl) _ k

theorem station_refeedAll (k : Ctx) (ts : List ThreadId) : (k.refeedAll ts).station = k.station := by
  refine foldl_keeps Ctx.station (fun k t => ?_) ts k
  split
  · split
    · exact station_refeed ..
    · rfl
  · rfl

theorem station_oweResult (k : Ctx) (c : Committed) : (k.oweResult c).1.station = k.station := by
  unfold Ctx.oweResult
  split
  · rfl
  · split <;> rfl

theorem station_oweResults (k : Ctx) : k.oweResults.station = k.station := by
  have counted (cs : List Committed) (q : Ctx × List Committed) :
      (cs.foldl (fun (q : Ctx × List Committed) c => let o := q.1.oweResult c; (o.1, q.2 ++ [o.2])) q).1.station = q.1.station :=
    foldl_keeps (fun q : Ctx × List Committed => q.1.station) (fun q c => station_oweResult q.1 c) cs q
  exact counted k.committed (k, [])

theorem station_feedHeld (k : Ctx) : k.feedHeld.station = k.station := by
  unfold Ctx.feedHeld
  dsimp only
  rw [station_oweResults, foldl_keeps Ctx.station (fun _ _ => beside_station.enter ..)]
  rfl

end Sys2Proof.Machine
end

section
/-! PROOFS. Contexts leave and enter the fabric: pre-emption, quiescence, save, restore and resident switches (08 R222 to R224). -/

namespace Sys2Proof.Machine

/-! ### Pre-emption (08 R222, R223) -/

theorem exec_preemptionGate {c : CtxId} {s : State} {k : Ctx} (hk : s.ctx c = some k) (hv : c ∈ s.victims) (hs : k.state = 1)
    (hg : k.gate = 0) (hh : ∀ h ∈ k.shares, h.gated = false) (ht : s.tripped k = false) :
    exec (.preemptionGate c) s = .next { s.setCtx k.gateAll with victims := s.victims.filter (· != c) } := by
  have hno : k.shares.any (·.gated) = false := List.any_eq_false.2 fun h hm => by simp [hh h hm]
  show execPreemptionGate c s = _
  simp [execPreemptionGate, hk, hv, hs, hg, hno, ht]

theorem gateAll_parks {k : Ctx} {p : Park} (h : p ∈ k.gateAll.parks) : p.1 ∉ k.allThreads := by
  obtain ⟨-, h⟩ := List.mem_filter.1 h
  simpa using h

theorem exec_quiescenceReport {c : CtxId} {s : State} {k : Ctx} (hk : s.active c = some k) (hp : k.preempt = true)
    (hg : k.gate = 1) (hq : s.quiet k = true) :
    exec (.quiescenceReport c) s = .next (s.setCtx { k.squashAll k.allThreads with gate := 2, forced := false }) := by
  show execQuiescenceReport c s = _
  simp [execQuiescenceReport, hk, Ctx.leavesNow, hp, hg, hq]

theorem answers_preemptionGate {c : CtxId} {s : State} {k : Ctx} (hk : s.ctx c = some k) (hv : c ∈ s.victims) (hs : k.state = 1)
    (hg : k.gate = 0) (hh : ∀ h ∈ k.shares, h.gated = false) (ht : s.tripped k = false) :
    answers (.preemptionGate c) s fun t => c ∉ t.victims ∧ t.mem = s.mem ∧ inCtx t c fun j => j.gate = 1 ∧ j.preempt = true
      ∧ j.committed = k.committed ∧ ∀ p ∈ j.parks, p.1 ∉ k.allThreads := by
  have hpre : k.gateAll.preempt = true := by
    rw [show k.gateAll.preempt = (k.state != 4) from rfl, hs]
    decide
  have hctx : (s.setCtx k.gateAll).ctx c = some k.gateAll := ctx_setCtx hk (ctx_num (k := k) hk)
  exact answers_of_exec (exec_preemptionGate hk hv hs hg hh ht)
    ⟨by simp, State.setCtx_mem s k.gateAll, k.gateAll, hctx, rfl, hpre, rfl, fun _ => gateAll_parks⟩

theorem answers_quiescenceReport {c : CtxId} {s : State} {k : Ctx} (hk : s.active c = some k) (hp : k.preempt = true)
    (hg : k.gate = 1) (hq : s.quiet k = true) :
    answers (.quiescenceReport c) s fun t => t.mem = s.mem ∧ inCtx t c fun j => j.gate = 2 ∧ j.forced = false
      ∧ j.committed = k.committed := by
  have h := fixedPart_squashAll k k.allThreads
  exact answers_of_exec (exec_quiescenceReport hk hp hg hq)
    ⟨State.setCtx_mem .., inCtx_setCtx hk (congrArg Ctx.num h :) ⟨rfl, rfl, (congrArg Ctx.committed h :)⟩⟩

theorem state_ne_saved_of_active {s : State} {c : CtxId} {k : Ctx} (hk : s.active c = some k) : k.state ≠ 3 := by
  obtain ⟨-, h⟩ := active_ctx hk
  intro h3
  rw [Ctx.active, h3] at h
  exact absurd (Bool.and_elim_left h) (by decide)

theorem exec_preemptionForce {c : CtxId} {s : State} {k : Ctx} (hk : s.active c = some k) (hp : k.preempt = true)
    (hg : k.gate = 1) : exec (.preemptionForce c) s = .next (s.setCtx k.force) := by
  show Host.Outcome.next (s.modCtx c _) = _
  rw [modCtx_some (active_ctx hk).1, if_neg (state_ne_saved_of_active hk)]
  simp [Ctx.leavesNow, hp, hg]

theorem force_num (k : Ctx) : k.force.num = k.num := (congrArg Ctx.num (fixedPart_squashAll k.gateAll k.gateAll.allThreads) :)

theorem force_committed (k : Ctx) : k.force.committed = k.committed :=
  (congrArg Ctx.committed (fixedPart_squashAll k.gateAll k.gateAll.allThreads) :)

theorem answers_preemptionForce {c : CtxId} {s : State} {k : Ctx} (hk : s.active c = some k) (hp : k.preempt = true)
    (hg : k.gate = 1) :
    answers (.preemptionForce c) s fun t => t.mem = s.mem ∧ inCtx t c fun j => j.gate = 2 ∧ j.forced = true
      ∧ j.committed = k.committed :=
  answers_of_exec (exec_preemptionForce hk hp hg)
    ⟨State.setCtx_mem .., inCtx_setCtx hk (force_num k) ⟨rfl, rfl, force_committed k⟩⟩

/-! ### Save (08 R222) -/

/-- What stands in a context through the device's own accesses, its access logs and its energy apart. -/
def Ctx.lasting (k : Ctx) : Ctx := { k.fixedPart with logs := [], unfolded := [] }

theorem spared_lasting : Spared Ctx.lasting where
  scratchSt _ l _ _ := congrArg (fun j : Ctx => { j with logs := [], unfolded := [] })
    (foldl_keeps Ctx.fixedPart (f := fun k g => k.filled l g) (fun _ _ => fixedPart_filled ..) _ _)
  logs _ _ := rfl
  charge _ _ _ _ := rfl

@[simp] theorem post_ctx {s : State} {c : CtxId} {k : Ctx} (e : HostEvent) (hk : s.ctx c = some k) :
    (s.post c e).ctx c = some { k with events := k.events ++ [e] } := ctx_modCtx (f := fun k => { k with events := _ }) hk rfl

theorem mem_posted (k : Ctx) (e : HostEvent) : e ∈ k.events ++ [e] := List.mem_append_right _ List.mem_cons_self

/-- The state in which a saved context has left its domains, its caches cleaned. -/
def State.leftBehind (s : State) (c : CtxId) (k : Ctx) : State :=
  State.bequeath { s with mem := k.physSet.foldl Mems.scClean s.mem } c

/-- A context that leaves the fabric, the saving charged. -/
def Ctx.departed (k : Ctx) : Ctx := (k.charge (k.phys 0) 4 0).leaveFabric

/-- The state in which a context is saved and its host is told. -/
def State.reported (s : State) (c : CtxId) : State := ((s.modCtx c Ctx.departed).houseEvent).post c (hostEvent 5)

theorem exec_contextSaveReport {c : CtxId} {s s1 : State} {k : Ctx} (hk : s.ctx c = some k) (hs : k.state = 1)
    (hp : k.preempt = true) (hg : k.gate = 2) (hst : k.storesLeft s.mem = false) (hf : k.faultsLeft = false)
    (hh : ∀ h ∈ k.shares, h.engineRuns = false ∧ h.completes = false) (hl : s.flushLogs c = (s1, true)) :
    exec (.contextSaveReport c) s
      = .next ((s1.leftBehind c k).reported c) := by
  have hrun : k.shares.any Share.engineRuns = false := List.any_eq_false.2 fun h hm => by simp [(hh h hm).1]
  have hcomp : k.shares.any Share.completes = false := List.any_eq_false.2 fun h hm => by simp [(hh h hm).2]
  show execContextSaveReport c s = _
  simp only [execContextSaveReport, hk, hs, hp, hg, hst, hf, hrun, hcomp, hl]
  rfl

/-- Without heirs a saved context's domains are free. -/
theorem bequeath_owners {s : State} {c : CtxId} (h : ∀ e ∈ s.heirs, e.1 ≠ c) : ∀ e ∈ (s.bequeath c).owners, e.2 ≠ c := by
  have hmine : s.heirs.filter (fun e => e.1 == c) = [] := List.filter_eq_nil_iff.2 fun e he => by simpa using h e he
  intro e he
  unfold State.bequeath at he
  simp only [hmine, List.findSome?_nil, Option.map_none] at he
  obtain ⟨a, -, ha⟩ := List.mem_filterMap.1 he
  split at ha
  · cases ha
  · next hne =>
    obtain rfl := Option.some.inj ha
    simpa using hne

/-- The report of a save leaves of the machine's own fields what the departure leaves, but for the house event. -/
theorem reported_outside (s : State) (c : CtxId) : (s.reported c).outside = s.houseEvent.outside := by
  rw [State.reported, State.post, modCtx_outside]
  exact congrArg State.houseEvent (modCtx_outside s c Ctx.departed)

theorem reported_evseq (s : State) (c : CtxId) : (s.reported c).evseq = s.evseq + 1 := (congrArg State.evseq (reported_outside s c) :)
theorem reported_heirs (s : State) (c : CtxId) : (s.reported c).heirs = s.heirs := (congrArg State.heirs (reported_outside s c) :)
theorem reported_owners (s : State) (c : CtxId) : (s.reported c).owners = s.owners := (congrArg State.owners (reported_outside s c) :)

theorem reported_ctx {s : State} {c : CtxId} {k : Ctx} (hk : s.ctx c = some k) :
    (s.reported c).ctx c = some { k.departed with events := k.departed.events ++ [hostEvent 5] } :=
  post_ctx _ (ctx_modCtx (f := Ctx.departed) hk rfl)

theorem answers_contextSaveReport {c : CtxId} {s s1 : State} {k : Ctx} (hk : s.ctx c = some k) (hs : k.state = 1)
    (hp : k.preempt = true) (hg : k.gate = 2) (hst : k.storesLeft s.mem = false) (hf : k.faultsLeft = false)
    (hh : ∀ h ∈ k.shares, h.engineRuns = false ∧ h.completes = false) (hl : s.flushLogs c = (s1, true)) :
    answers (.contextSaveReport c) s fun t => t.evseq = s1.evseq + 1 ∧ (∀ e ∈ t.heirs, e.1 ≠ c)
      ∧ ((∀ e ∈ s.heirs, e.1 ≠ c) → ∀ e ∈ t.owners, e.2 ≠ c) ∧ inCtx t c fun j => j.state = 3
      ∧ j.preempt = false ∧ j.placed = [] ∧ j.pins = [] ∧ j.savedPins = k.pins ∧ ∃ e ∈ j.events, e.kind = 5 := by
  have hflush : s1.Agrees Ctx.lasting s := by
    have h := agrees_flushLogs spared_lasting s c
    rwa [hl] at h
  obtain ⟨j, hj, hjk⟩ := found_of_agrees hflush hk
  have hleft : (s1.leftBehind c k).ctx c = some j := hj
  have hheirs : s1.heirs = s.heirs := (congrArg State.heirs hflush.outside :)
  refine answers_of_exec (exec_contextSaveReport hk hs hp hg hst hf hh hl) ⟨reported_evseq .., fun e he => ?_, fun h e he => ?_, _,
    reported_ctx hleft, rfl, rfl, rfl, rfl, (congrArg Ctx.pins hjk :), _, mem_posted .., rfl⟩
  · rw [reported_heirs] at he
    simpa using (List.mem_filter.1 he).2
  · rw [reported_owners] at he
    exact bequeath_owners (fun e he => h e (hheirs ▸ he)) e he

/-! ### Resident switches (01 R14) -/

@[simp] theorem feedHeld_state (k : Ctx) : k.feedHeld.state = k.state := (congrArg Ctx.state (fixedButCommitted_feedHeld k) :)
@[simp] theorem feedHeld_placed (k : Ctx) : k.feedHeld.placed = k.placed := (congrArg Ctx.placed (fixedButCommitted_feedHeld k) :)
@[simp] theorem feedHeld_pins (k : Ctx) : k.feedHeld.pins = k.pins := (congrArg Ctx.pins (fixedButCommitted_feedHeld k) :)

theorem exec_switchOutResident {c : CtxId} {s : State} {k : Ctx} (hk : s.ctx c = some k) (hs : k.state = 1) (hg : k.gate = 0) :
    exec (.switchOutResident c) s = .next (s.setCtx { k with state := 2 }) := by
  show Host.Outcome.next (s.modCtx c _) = _
  rw [modCtx_some hk]
  simp [hs, hg]

theorem exec_switchInResident {c : CtxId} {s : State} {k : Ctx} (hk : s.ctx c = some k) (hs : k.state = 2) (hg : k.gate = 0)
    (hf : s.fabricFull = false) : exec (.switchInResident c) s = .next (s.setCtx ({ k with state := 1 } : Ctx).feedHeld) := by
  show Host.Outcome.next (s.modCtx c _) = _
  rw [modCtx_some hk]
  simp [hs, hg, hf]

theorem answers_switchOutResident {c : CtxId} {s : State} {k : Ctx} (hk : s.ctx c = some k) (hs : k.state = 1) (hg : k.gate = 0) :
    answers (.switchOutResident c) s fun t => t.mem = s.mem ∧ t.ctx c = some { k with state := 2 } :=
  answers_of_exec (exec_switchOutResident hk hs hg) ⟨State.setCtx_mem .., ctx_setCtx hk (ctx_num (k := k) hk)⟩

theorem answers_switchInResident {c : CtxId} {s : State} {k : Ctx} (hk : s.ctx c = some k) (hs : k.state = 2) (hg : k.gate = 0)
    (hf : s.fabricFull = false) :
    answers (.switchInResident c) s fun t => t.mem = s.mem ∧ inCtx t c fun j => j.state = 1 ∧ j.placed = k.placed
      ∧ j.pins = k.pins := by
  have hnum : ({ k with state := 1 } : Ctx).feedHeld.num = c := (feedHeld_num _).trans (ctx_num (k := k) hk)
  exact answers_of_exec (exec_switchInResident hk hs hg hf)
    ⟨State.setCtx_mem .., _, ctx_setCtx hk hnum, feedHeld_state _, feedHeld_placed _, feedHeld_pins _⟩

end Sys2Proof.Machine
end

section
/-! PROOFS. A saved context is restored, and shares migrate: the station of a context through both (08 R224 to R226, 06 R173). -/

namespace Sys2Proof.Machine

/-! ### A context at a station -/

/-- A context is there, at a station. -/
def State.stands (s : State) (c : CtxId) (d : Station) : Prop := inCtx s c fun k => k.station = d

section
variable {s t : State} {c : CtxId} {d : Station}

theorem stands_of_ctx {k : Ctx} (hk : s.ctx c = some k) : s.stands c k.station := ⟨k, hk, rfl⟩

theorem stands_congr (h : s.stands c d) (hc : t.ctxs = s.ctxs) : t.stands c d := by
  obtain ⟨k, hk, hd⟩ := h
  exact ⟨k, by unfold State.ctx at hk ⊢; rwa [hc], hd⟩

theorem stands_of_agrees (h : s.stands c d) (ha : t.Agrees Ctx.station s) : t.stands c d := by
  obtain ⟨k, hk, hd⟩ := h
  obtain ⟨j, hj, hjk⟩ := found_of_agrees ha hk
  exact ⟨j, hj, hjk.trans hd⟩

theorem stands_modCtx {f : Ctx → Ctx} (h : s.stands c d) (hf : ∀ k, (f k).station = k.station) : (s.modCtx c f).stands c d := by
  obtain ⟨k, hk, hd⟩ := h
  exact inCtx_modCtx hk (congrArg Station.num (hf k) :) ((hf k).trans hd)

theorem stands_setCtx {k j : Ctx} (hk : s.ctx c = some k) (hj : j.num = k.num) : (s.setCtx j).stands c j.station :=
  ⟨j, ctx_setCtx hk (hj.trans (ctx_num hk)), rfl⟩

theorem stands_change {k j : Ctx} (hk : s.ctx c = some k) (hd : k.station = d) (hj : j.station = k.station) :
    (s.setCtx j).stands c d :=
  ⟨j, ctx_setCtx hk ((congrArg Station.num hj :).trans (ctx_num hk)), hj.trans hd⟩

theorem stands_foldl {α : Type} {f : State → α → State} (hf : ∀ s a, State.stands s c d → (f s a).stands c d) (l : List α)
    (h : s.stands c d) : (l.foldl f s).stands c d := by
  induction l generalizing s with
  | nil => exact h
  | cons a l ih => exact ih (hf s a h)

/-- A capacity record leaves its context where it stands (05 R158). -/
theorem stands_capacity (cause : BitVec 8) (unit : Nat) (moved : List Nat) (h : s.stands c d) :
    (s.capacity c cause unit moved).stands c d := by
  obtain ⟨k, hk, hd⟩ := h
  have hput {u : State} {j : Ctx} {base n : Nat} {mk : Nat → List Byte} (hu : u.stands c d) :
      (match u.ringPut j base n 64 true mk with
        | .ok (some t) => t.ringSpend j base n 64
        | _ => u).stands c d := by
    split
    · next hw =>
      exact stands_of_agrees hu (agrees_trans (agrees_ringSpend spared_station ..) (agrees_ringPut spared_station hw))
    · exact hu
  have hset : (s.setCtx { k with avail := BitVec.ofNat 8 k.physSet.length, capchg := true }).stands c d :=
    stands_change hk hd rfl
  unfold State.capacity
  rw [hk]
  refine stands_modCtx ?_ fun _ => rfl
  refine stands_congr (s := match ringOf k.capqb with | none => _ | some (base, n) => _) ?_ rfl
  split
  · exact hset
  · exact hput hset

theorem stands_pinOne (ln : BitVec 32) (lcl : Nat) (origin : Bool) (b : Addr) (h : s.stands c d) :
    (s.pinOne c ln lcl origin b).1.stands c d := by
  obtain ⟨k, hk, hd⟩ := h
  have hs : s.stands c d := ⟨k, hk, hd⟩
  unfold State.pinOne
  rw [hk]
  dsimp only
  split
  · exact hs
  · split
    · exact hs
    · split
      · exact hs
      · exact stands_change hk hd rfl

theorem stands_repin (l : List Pin) (h : s.stands c d) : (s.repin c l).stands c d :=
  stands_foldl (fun _ p h => stands_pinOne p.ln p.lcl p.origin p.blk h) l h

theorem stands_reloadAll (mine : Nat → Bool) (h : s.stands c d) : (s.reloadAll c mine).stands c d := by
  refine stands_modCtx h fun k => ?_
  refine (foldl_keeps Ctx.station (fun k h => spared_chargeN spared_station ..) _ _).trans ?_
  refine station_mapShares k fun h => ?_
  dsimp only
  split <;> exact ⟨rfl, rfl, rfl⟩

/-! ### Restore (08 R224) -/

/-- A saved context on the clusters it is restored onto. -/
def Ctx.returned (k : Ctx) (ps : List Nat) : Ctx := { k.setMap (k.foldMap ps) with state := 1, gate := 0, savedPins := [] }

/-- The threads of a restored context take up what was withdrawn and squashed. -/
def Ctx.takenUp (k : Ctx) : Ctx := (((k.reissue k.allThreads).refeedAll k.allThreads).feedHeld).charge (k.phys 0) 4 1

/-- The state in which a context is back, before the records of its return. -/
def State.back (s : State) (c : CtxId) (k : Ctx) (ps : List Nat) : State :=
  let s1 := ((s.setCtx (k.returned ps)).repin c k.savedPins).reloadAll c fun _ => true
  ({ s1 with mem := (k.returned ps).physSet.foldl Mems.scDiscard s1.mem } : State).modCtx c Ctx.takenUp

theorem station_takenUp (k : Ctx) : k.takenUp.station = k.station := by
  unfold Ctx.takenUp
  rw [spared_station.charge, station_feedHeld, station_refeedAll]
  rfl

theorem back_stands {k : Ctx} (ps : List Nat) (hk : s.ctx c = some k) : (s.back c k ps).stands c (k.returned ps).station :=
  stands_modCtx (stands_of_agrees (stands_reloadAll _ (stands_repin _ (stands_setCtx hk rfl))) (agrees_setMem ..)) station_takenUp

/-- The same, with a capacity record where the clusters have changed (05 R158). -/
def State.backOn (s : State) (c : CtxId) (k : Ctx) (ps : List Nat) : State :=
  let k1 := k.returned ps
  if sameSet k.map_ k1.map_ then s.back c k ps
  else (s.back c k ps).capacity c 5 (unitMoved k.map_ k1.map_)
    ((List.range k.lclusters).filter fun l => k.map_.getD l 0 != k1.phys l)

/-- The clusters of a list, in rising order. -/
def inOrder (phys : List Nat) : List Nat := (List.range Config.clusters).filter phys.contains

theorem mem_inOrder {phys : List Nat} {p : Nat} : p ∈ inOrder phys ↔ p ∈ phys ∧ p < Config.clusters := by
  simp [inOrder, and_comm]

theorem exec_restore {phys : List Nat} {k : Ctx} (hk : s.ctx c = some k) (hs : k.state = 3) (hf : s.fabricFull = false)
    (ht : c ∉ s.touched) (hp : ∃ p ∈ phys, p < Config.clusters) (hw : s.capacityWaits k = false)
    (ha : ∀ p ∈ phys, p < Config.clusters → s.barred p = false ∧ k.desc.granted.contains p = true) :
    exec (.restore c phys) s = .next ((s.backOn c k (inOrder phys)).houseEvent.post c (hostEvent 6)) := by
  have hne : (inOrder phys).isEmpty = false := by
    obtain ⟨p, hm, hlt⟩ := hp
    exact List.isEmpty_eq_false_iff.2 (List.ne_nil_of_mem (mem_inOrder.2 ⟨hm, hlt⟩))
  have hbar : (inOrder phys).any s.barred = false := List.any_eq_false.2 fun p hm => by
    obtain ⟨hm, hlt⟩ := mem_inOrder.1 hm
    simp [(ha p hm hlt).1]
  have hgr : (inOrder phys).all k.desc.granted.contains = true := List.all_eq_true.2 fun p hm => by
    obtain ⟨hm, hlt⟩ := mem_inOrder.1 hm
    exact (ha p hm hlt).2
  have htc : s.touched.contains c = false := by simpa using ht
  show execRestore c phys s = _
  unfold execRestore
  rw [hk]
  dsimp only
  rw [if_neg]
  · rfl
  · unfold inOrder at hne hbar hgr
    rw [hs, hf, htc, hne, hbar, hgr, hw]
    decide

/-- A restored context is on the fabric, ungated, and the host is told. -/
theorem restored {k : Ctx} (ps : List Nat) (hk : s.ctx c = some k) :
    inCtx ((s.backOn c k ps).houseEvent.post c (hostEvent 6)) c fun j => j.state = 1 ∧ j.gate = 0 ∧ ∃ e ∈ j.events, e.kind = 6 := by
  have h : (s.backOn c k ps).stands c (k.returned ps).station := by
    unfold State.backOn
    dsimp only
    split
    · exact back_stands ps hk
    · exact stands_capacity _ _ _ (back_stands ps hk)
  obtain ⟨j, hj, hd⟩ := stands_congr (t := State.houseEvent _) h rfl
  exact ⟨_, post_ctx _ hj, (congrArg Station.state hd :), (congrArg Station.gate hd :), _, mem_posted .., rfl⟩

theorem answers_restore {phys : List Nat} {k : Ctx} (hk : s.ctx c = some k) (hs : k.state = 3) (hf : s.fabricFull = false)
    (ht : c ∉ s.touched) (hp : ∃ p ∈ phys, p < Config.clusters) (hw : s.capacityWaits k = false)
    (ha : ∀ p ∈ phys, p < Config.clusters → s.barred p = false ∧ k.desc.granted.contains p = true) :
    answers (.restore c phys) s fun t => inCtx t c fun j => j.state = 1 ∧ j.gate = 0 ∧ ∃ e ∈ j.events, e.kind = 6 :=
  answers_of_exec (exec_restore hk hs hf ht hp hw ha) (restored _ hk)

end

end Sys2Proof.Machine
end

section
/-! PROOFS. Shares migrate: their gates, their marks and their moves (06 R173, 08 R225, R226). -/

namespace Sys2Proof.Machine

/-! ### Gates (08 R225, step 1) -/

/-- The shares of a plan are gated one by one. -/
theorem gated_of_foldl (cause : BitVec 8) (l : Nat) (plan : List (Nat × Nat)) (k : Ctx)
    (h : (k.share l).gated = true ∨ ∃ q ∈ plan, q.1 = l) :
    ((plan.foldl (fun k q => k.modShare q.1 fun h => { h with gated := true, moveTo := some (q.2, cause) }) k).share l).gated
      = true := by
  induction plan generalizing k with
  | nil => simpa using h
  | cons q plan ih =>
    refine ih _ ?_
    rw [share_modShare _ _ _ (share_lcl k q.1)]
    by_cases hl : l = q.1
    · exact .inl (by rw [if_pos hl])
    · rw [if_neg hl]
      refine h.imp_right fun ⟨r, hr, hrl⟩ => ⟨r, ?_, hrl⟩
      exact (List.mem_cons.1 hr).resolve_left fun e => hl (by rw [← hrl, e])

theorem gateShares_gated (k : Ctx) {plan : List (Nat × Nat)} (cause : BitVec 8) {q : Nat × Nat} (h : q ∈ plan) :
    ((k.gateShares plan cause).share q.1).gated = true := gated_of_foldl cause q.1 plan k (.inr ⟨q, h, rfl⟩)

/-- What the gating of shares changes is not in the part of a context that a view shows. -/
theorem gateShares_keeps {β : Type} {p : Ctx → β} (hs : ∀ k h, p (Ctx.setShare k h) = p k)
    (hp : ∀ k ps, p { k with parks := ps } = p k) (k : Ctx) (plan : List (Nat × Nat)) (cause : BitVec 8) :
    p (k.gateShares plan cause) = p k := by
  unfold Ctx.gateShares Ctx.withdraw
  rw [hp]
  exact foldl_keeps p (fun _ _ => hs ..) plan k

/-- The context whose shares a request makes leave their cluster. -/
def State.requested (s : State) (k : Ctx) (l : Nat) (cause : BitVec 8) : Ctx :=
  match s.migrationPlan k (k.phys l) l cause with
  | [] => k.dropRequests (k.phys l) l cause
  | plan => k.gateShares plan cause

theorem exec_migrationGate {c : CtxId} {l p : Nat} {cause : BitVec 8} {s : State} {k : Ctx} (hk : s.ctx c = some k)
    (hm : (k.share l).moveTo = some (p, cause)) (hg : ∀ h ∈ k.shares, h.gated = false) (hv : k.moves = true) (hc : cause ≠ 3) :
    exec (.migrationGate c l cause) s = .next (s.setCtx (s.requested k l cause)) := by
  have hno : k.shares.any (·.gated) = false := List.any_eq_false.2 fun h hh => by simp [hg h hh]
  show Host.Outcome.next (s.modCtx c _) = _
  rw [modCtx_some hk, hm]
  simp only [hno, hv, bne_self_eq_false, Bool.not_true, Bool.or_self, Bool.false_eq_true, if_false, if_neg hc]
  rfl

theorem requested_num (s : State) (k : Ctx) (l : Nat) (cause : BitVec 8) : (s.requested k l cause).num = k.num := by
  unfold State.requested
  split
  · rfl
  · exact gateShares_keeps (p := Ctx.num) (fun _ _ => rfl) (fun _ _ => rfl) ..

theorem requested_gated (s : State) (k : Ctx) (l : Nat) (cause : BitVec 8) :
    ∀ q ∈ s.migrationPlan k (k.phys l) l cause, ((s.requested k l cause).share q.1).gated = true := by
  intro q hq
  unfold State.requested
  split
  · next h => rw [h] at hq; cases hq
  · exact gateShares_gated k cause hq

theorem answers_migrationGate {c : CtxId} {l p : Nat} {cause : BitVec 8} {s : State} {k : Ctx} (hk : s.ctx c = some k)
    (hm : (k.share l).moveTo = some (p, cause)) (hg : ∀ h ∈ k.shares, h.gated = false) (hv : k.moves = true) (hc : cause ≠ 3) :
    answers (.migrationGate c l cause) s fun t => t.mem = s.mem ∧ inCtx t c fun j =>
      ∀ q ∈ s.migrationPlan k (k.phys l) l cause, (j.share q.1).gated = true :=
  answers_of_exec (exec_migrationGate hk hm hg hv hc)
    ⟨State.setCtx_mem .., _, ctx_setCtx hk ((requested_num ..).trans (ctx_num hk)), requested_gated s k l cause⟩

/-! ### Marks (08 R225, step 2) -/

/-- A gated share that is to move for a cause is among those that leave for it. -/
theorem mem_leavingFor {k : Ctx} {l p : Nat} {cause : BitVec 8} (hm : (k.share l).moveTo = some (p, cause))
    (hg : (k.share l).gated = true) : (l, p) ∈ k.leavingFor cause := by
  have hin : k.share l ∈ k.shares := by
    unfold Ctx.share at hm ⊢
    split
    · next h hh => exact List.mem_of_find?_eq_some hh
    · next hh => rw [hh] at hm; cases hm
  refine List.mem_filterMap.2 ⟨_, hin, ?_⟩
  simp [hm, hg, share_lcl]

/-- A table whose values are changed by their keys. -/
theorem tget_map {α : Type} (f : Nat → α → α) (t : Tab α) (n : Nat) :
    tget (t.map fun e => (e.1, f e.1 e.2)) n = (tget t n).map (f n) := by
  induction t with
  | nil => rfl
  | cons e t ih =>
    rw [List.map_cons, tget, tget]
    split
    · next h => rw [h]; rfl
    · exact ih

theorem setMoving_moving (w : BitVec 32) : (setMoving w true).getLsbD 30 = true := by simp [setMoving]

/-- MOVING is not part of PHYS. -/
theorem setMoving_phys (w : BitVec 32) (b : Bool) : (setMoving w b).extractLsb' 16 7 = w.extractLsb' 16 7 := by
  have hm : (0xBFFFFFFF : BitVec 32).extractLsb' 16 7 = BitVec.allOnes 7 := by decide
  have hb : (if b then 0x40000000 else 0 : BitVec 32).extractLsb' 16 7 = 0#7 := by cases b <;> decide
  rw [setMoving, BitVec.extractLsb'_or, BitVec.extractLsb'_and, hm, hb, BitVec.and_allOnes, BitVec.or_zero]

/-- A context whose leaving shares are marked MOVING. -/
def Ctx.marked (k : Ctx) (plan : List (Nat × Nat)) : Ctx :=
  { k with pmap := k.pmap.map fun e => (e.1, if plan.any (·.1 == e.1) then setMoving e.2 true else e.2) }

theorem marked_moving {k : Ctx} {plan : List (Nat × Nat)} {q : Nat × Nat} (hq : q ∈ plan) {w : BitVec 32}
    (hw : tget (k.marked plan).pmap q.1 = some w) : w.getLsbD 30 = true := by
  have hany : plan.any (·.1 == q.1) = true := List.any_eq_true.2 ⟨q, hq, by simp⟩
  have h := tget_map (fun n v => if plan.any (·.1 == n) then setMoving v true else v) k.pmap q.1
  obtain ⟨v, -, hv⟩ := Option.map_eq_some_iff.1 (h.symm.trans hw)
  rw [← hv, if_pos hany]
  exact setMoving_moving v

section
variable {c : CtxId} {l p : Nat} {cause : BitVec 8} {s : State} {k : Ctx} (hk : s.ctx c = some k)
  (hm : (k.share l).moveTo = some (p, cause)) (hg : (k.share l).gated = true) (hv : k.moves = true)
include hk hm hg hv

theorem exec_migrationMove_marks (hb : ∀ q ∈ k.leavingFor cause, s.barred q.2 = false)
    (hd : ∀ q ∈ k.leavingFor cause, k.shareDone q.1 = true)
    (hn : ∃ q ∈ k.leavingFor cause, (tgetD k.pmap q.1 0).getLsbD 30 = false) :
    exec (.migrationMove c l) s = .next (s.setCtx (k.marked (k.leavingFor cause))) := by
  have hbar : (k.leavingFor cause).any (fun q => s.barred q.2) = false := List.any_eq_false.2 fun q hq => by simp [hb q hq]
  have hdone : (k.leavingFor cause).all (fun q => k.shareDone q.1) = true := List.all_eq_true.2 hd
  have hnew : (k.leavingFor cause).any (fun q => !(tgetD k.pmap q.1 0).getLsbD 30) = true := by
    obtain ⟨q, hq, h⟩ := hn
    exact List.any_eq_true.2 ⟨q, hq, by rw [h]; rfl⟩
  show execMigrationMove c l s = _
  simp only [execMigrationMove, hk, hm, hg, hv, hbar, hdone, hnew, Bool.not_true, Bool.or_self, Bool.false_eq_true, if_false, if_true]
  rfl

theorem exec_migrationMove_moves (hb : ∀ q ∈ k.leavingFor cause, s.barred q.2 = false) (hw : s.capacityWaits k = false)
    (hs : ∀ q ∈ k.leavingFor cause, k.shareStill s.mem q.1 = true ∧ (tgetD k.pmap q.1 0).getLsbD 30 = true) :
    exec (.migrationMove c l) s = .next ((s.moveShares k (k.leavingFor cause) cause).getD s) := by
  have hbar : (k.leavingFor cause).any (fun q => s.barred q.2) = false := List.any_eq_false.2 fun q hq => by simp [hb q hq]
  have hstill : (k.leavingFor cause).all (fun q => k.shareStill s.mem q.1) = true := List.all_eq_true.2 fun q hq => (hs q hq).1
  have hdone : (k.leavingFor cause).all (fun q => k.shareDone q.1) = true :=
    List.all_eq_true.2 fun q hq => Bool.and_elim_left (hs q hq).1
  have hold : (k.leavingFor cause).any (fun q => !(tgetD k.pmap q.1 0).getLsbD 30) = false :=
    List.any_eq_false.2 fun q hq => by rw [(hs q hq).2]; decide
  show execMigrationMove c l s = _
  simp only [execMigrationMove, hk, hm, hg, hv, hbar, hdone, hold, hstill, hw, Bool.not_true, Bool.or_self, Bool.false_eq_true,
    if_false]

theorem exec_migrationMove_barred (hb : s.barred p = true) :
    exec (.migrationMove c l) s = .next (s.setCtx (s.retarget k l (k.leavingFor cause) cause)) := by
  have hbar : (k.leavingFor cause).any (fun q => s.barred q.2) = true := List.any_eq_true.2 ⟨_, mem_leavingFor hm hg, hb⟩
  show execMigrationMove c l s = _
  simp only [execMigrationMove, hk, hm, hg, hv, hbar, Bool.not_true, Bool.or_self, Bool.false_eq_true, if_false, if_true]

end

/-! ### Where the shares stand (06 R172) -/

theorem phys_of_pmap {j k : Ctx} (h : j.pmap = k.pmap) (l : Nat) : j.phys l = k.phys l := by rw [Ctx.phys, h]; rfl

/-- PHYS stands through marks in the placement map. -/
theorem phys_mapPmap {j k : Ctx} {f : Nat → BitVec 32 → BitVec 32} (hf : ∀ n w, (f n w).extractLsb' 16 7 = w.extractLsb' 16 7)
    (hj : j.pmap = k.pmap.map fun e => (e.1, f e.1 e.2)) (l : Nat) : j.phys l = k.phys l := by
  rw [Ctx.phys, Ctx.phys, hj, tgetD, tget_map f k.pmap l, tgetD]
  cases tget k.pmap l with
  | none => rfl
  | some w => exact congrArg BitVec.toNat (hf l w)

/-- A context whose shares' gates open again. -/
def Ctx.openGates (k : Ctx) (ls : List Nat) : Ctx :=
  ls.foldl (fun (k : Ctx) l => k.modShare l fun h => { h with gated := false, moveTo := none }) k

theorem openGates_keeps {β : Type} {p : Ctx → β} (hs : ∀ k h, p (Ctx.setShare k h) = p k) (k : Ctx) (ls : List Nat) :
    p (k.openGates ls) = p k := foldl_keeps p (fun _ _ => hs ..) ls k

/-- The station after a migration is given up: the gates are open, and the marks are taken off. -/
theorem ungate_station (k : Ctx) (plan : List (Nat × Nat)) : (k.ungate plan).station
    = ({ k.openGates (plan.map (·.1)) with pmap := (k.openGates (plan.map (·.1))).pmap.map fun e =>
          (e.1, if (plan.map (·.1)).contains e.1 then setMoving e.2 false else e.2) } : Ctx).station := by
  unfold Ctx.ungate
  dsimp only
  rw [station_feedHeld, station_refeedAll]
  rfl

theorem ungate_num (k : Ctx) (plan : List (Nat × Nat)) : (k.ungate plan).num = k.num :=
  (congrArg Station.num (ungate_station k plan) :).trans (openGates_keeps (p := Ctx.num) (fun _ _ => rfl) ..)

theorem ungate_pmap (k : Ctx) (plan : List (Nat × Nat)) : (k.ungate plan).pmap
    = k.pmap.map fun e => (e.1, if (plan.map (·.1)).contains e.1 then setMoving e.2 false else e.2) := by
  have h := openGates_keeps (p := Ctx.pmap) (fun _ _ => rfl) k (plan.map (·.1))
  rw [show (k.ungate plan).pmap = _ from congrArg Station.pmap (ungate_station k plan)]
  exact congrArg (List.map _) h

theorem retarget_num (s : State) (k : Ctx) (l : Nat) (plan : List (Nat × Nat)) (cause : BitVec 8) :
    (s.retarget k l plan cause).num = k.num := by
  unfold State.retarget
  split
  · exact ungate_num ..
  · exact gateShares_keeps (p := Ctx.num) (fun _ _ => rfl) (fun _ _ => rfl) ..

/-- A share whose target has been withdrawn stays where it stands. -/
theorem retarget_phys (s : State) (k : Ctx) (l : Nat) (plan : List (Nat × Nat)) (cause : BitVec 8) (i : Nat) :
    (s.retarget k l plan cause).phys i = k.phys i := by
  unfold State.retarget
  split
  · refine phys_mapPmap (f := fun n w => if (plan.map (·.1)).contains n then setMoving w false else w) (fun n w => ?_)
      (ungate_pmap k plan) i
    split
    · exact setMoving_phys w false
    · rfl
  · exact phys_of_pmap (gateShares_keeps (p := Ctx.pmap) (fun _ _ => rfl) (fun _ _ => rfl) ..) i

/-! ### The move (08 R225, steps 3 to 6) -/

theorem setAt_fold_length (plan : List (Nat × Nat)) (m : List Nat) :
    (plan.foldl (fun m q => setAt m q.1 q.2) m).length = m.length :=
  foldl_keeps List.length (fun _ _ => length_setAt ..) plan m

theorem setAt_fold_other (plan : List (Nat × Nat)) (m : List Nat) (l : Nat) (h : l ∉ plan.map Prod.fst) :
    (plan.foldl (fun m q => setAt m q.1 q.2) m).getD l 0 = m.getD l 0 := by
  induction plan generalizing m with
  | nil => rfl
  | cons q plan ih =>
    rw [List.map_cons, List.mem_cons, not_or] at h
    rw [List.foldl_cons, ih _ h.2, getD_setAt_other _ _ _ h.1]

/-- Each share of a plan without repetitions gets its target. -/
theorem setAt_fold_of_mem {plan : List (Nat × Nat)} {m : List Nat} {q : Nat × Nat} (hq : q ∈ plan)
    (hn : (plan.map Prod.fst).Nodup) (hl : q.1 < m.length) : (plan.foldl (fun m q => setAt m q.1 q.2) m).getD q.1 0 = q.2 := by
  induction plan generalizing m with
  | nil => cases hq
  | cons r plan ih =>
    rw [List.map_cons, List.nodup_cons] at hn
    rw [List.foldl_cons]
    rcases List.mem_cons.1 hq with rfl | hq
    · rw [setAt_fold_other _ _ _ hn.1, getD_setAt_same _ _ _ hl]
    · exact ih hq hn.2 (by rwa [length_setAt])

theorem mem_setAt {α : Type} {l : List α} {n : Nat} {v x : α} (h : x ∈ setAt l n v) : x ∈ l ∨ x = v := by
  induction l generalizing n with
  | nil => cases h
  | cons y l ih =>
    cases n with
    | zero => exact (List.mem_cons.1 h).symm.imp_left (List.mem_cons_of_mem _)
    | succ n =>
      rcases List.mem_cons.1 h with rfl | h
      · exact .inl List.mem_cons_self
      · exact (ih h).imp_left (List.mem_cons_of_mem _)

theorem of_mem_setAt_fold {P : Nat → Prop} (plan : List (Nat × Nat)) (m : List Nat) (hp : ∀ q ∈ plan, P q.2)
    (hm : ∀ p ∈ m, P p) : ∀ p ∈ plan.foldl (fun m q => setAt m q.1 q.2) m, P p := by
  induction plan generalizing m with
  | nil => exact hm
  | cons q plan ih =>
    refine ih _ (fun r hr => hp r (List.mem_cons_of_mem _ hr)) fun p h => ?_
    rcases mem_setAt h with h | rfl
    · exact hm p h
    · exact hp q List.mem_cons_self

/-- The map of a plan names, for each share of it, its target. -/
theorem phys_mapWith {k : Ctx} {plan : List (Nat × Nat)} {q : Nat × Nat} (hq : q ∈ plan) (hn : (plan.map Prod.fst).Nodup)
    (hc : k.lclusters ≤ 128) (hp : ∀ q ∈ plan, q.1 < k.lclusters ∧ q.2 < 128) : (k.setMap (k.mapWith plan)).phys q.1 = q.2 := by
  have hlen : k.map_.length = k.lclusters := by simp [Ctx.map_]
  have hlen' : (k.mapWith plan).length = k.lclusters := (setAt_fold_length ..).trans hlen
  have hbound : ∀ p ∈ k.map_, p < 128 := by
    intro p h
    obtain ⟨l, -, rfl⟩ := List.mem_map.1 h
    exact ((tgetD k.pmap l 0).extractLsb' 16 7).isLt
  have hphys : (k.setMap (k.mapWith plan)).phys q.1 = (k.mapWith plan).getD q.1 0 :=
    phys_setMap k (by rw [hlen']; exact (hp q hq).1) (by omega) (of_mem_setAt_fold plan _ (fun q hq => (hp q hq).2) hbound)
  rw [hphys]
  exact setAt_fold_of_mem hq hn (by rw [hlen]; exact (hp q hq).1)

/-- The gates of the shares that have moved are open. -/
theorem doors_of_foldl (l : Nat) (plan : List (Nat × Nat)) (k : Ctx) (h : k.doors l = (false, none) ∨ l ∈ plan.map Prod.fst) :
    (k.settleShares plan).doors l = (false, none) := by
  induction plan generalizing k with
  | nil => exact h.resolve_right (by simp)
  | cons q plan ih =>
    refine ih _ ?_
    have hs : ((k.modShare q.1 fun h => { h with gated := false, moveTo := none }).charge q.2 4 2).doors l
        = if l = q.1 then (false, none) else k.doors l := by
      rw [Ctx.doors, share_charge, share_modShare _ _ _ (share_lcl k q.1)]
      split <;> rfl
    rw [hs]
    by_cases hl : l = q.1
    · exact .inl (if_pos hl)
    · rw [if_neg hl]
      exact h.imp_right fun h => (List.mem_cons.1 h).resolve_left hl

section
variable {s t : State} {c : CtxId} {d : Station}

theorem stands_resettle {p : Placed} {must : Bool} (h : s.stands c d) (ht : s.resettle c p must = some t) : t.stands c d := by
  have ⟨k, hk, _⟩ := h
  unfold State.resettle at ht
  rw [hk] at ht
  dsimp only at ht
  split at ht
  · cases ht
    exact stands_modCtx (stands_congr h rfl) fun _ => rfl
  · split at ht
    · cases ht
    · cases ht
      exact stands_modCtx h fun k => station_putOut { k with placed := k.placed ++ [p] } p

theorem stands_resettleAll {l : List (Placed × Bool)} (h : s.stands c d) (ht : s.resettleAll c l = some t) : t.stands c d := by
  induction l generalizing s with
  | nil => cases ht; exact h
  | cons e l ih =>
    unfold State.resettleAll at ht
    split at ht
    · cases ht
    · next h1 => exact ih (stands_resettle h h1) ht

theorem stands_freeCtxDomains (clu : Nat) (h : s.stands c d) : (s.freeCtxDomains c clu).stands c d := by
  unfold State.freeCtxDomains
  split
  · exact h
  · split
    · exact h
    · exact stands_congr h rfl

/-- A context whose shares have moved: pins that no longer fit are released, the gates open, and the threads take up what was
withdrawn and squashed. -/
def Ctx.settled (k : Ctx) (plan : List (Nat × Nat)) (ts : List ThreadId) : Ctx :=
  ((((k.fitPins (plan.map (·.1))).settleShares plan).reissue ts).refeedAll ts).feedHeld

theorem settled_station (k : Ctx) (plan : List (Nat × Nat)) (ts : List ThreadId) :
    (k.settled plan ts).station = ((k.fitPins (plan.map (·.1))).settleShares plan).station := by
  unfold Ctx.settled
  rw [station_feedHeld, station_refeedAll]
  rfl

theorem settleShares_keeps {β : Type} {p : Ctx → β} (hs : ∀ k h, p (Ctx.setShare k h) = p k)
    (hc : ∀ k site cls ev, p (Ctx.charge k site cls ev) = p k) (k : Ctx) (plan : List (Nat × Nat)) :
    p (k.settleShares plan) = p k := foldl_keeps p (fun _ _ => (hc ..).trans (hs ..)) plan k

theorem settled_num (k : Ctx) (plan : List (Nat × Nat)) (ts : List ThreadId) : (k.settled plan ts).num = k.num :=
  (congrArg Station.num (settled_station k plan ts) :).trans
    (settleShares_keeps (p := Ctx.num) (fun _ _ => rfl) (fun _ _ _ _ => rfl) ..)

theorem settled_pmap (k : Ctx) (plan : List (Nat × Nat)) (ts : List ThreadId) : (k.settled plan ts).pmap = k.pmap :=
  (congrArg Station.pmap (settled_station k plan ts) :).trans
    (settleShares_keeps (p := Ctx.pmap) (fun _ _ => rfl) (fun _ _ _ _ => rfl) ..)

theorem settled_doors (k : Ctx) {plan : List (Nat × Nat)} (ts : List ThreadId) {q : Nat × Nat} (hq : q ∈ plan) :
    (k.settled plan ts).doors q.1 = (false, none) :=
  (congrFun (congrArg Station.doors (settled_station k plan ts)) q.1 :).trans
    (doors_of_foldl q.1 plan _ (.inr (List.mem_map_of_mem hq)))

/-- The threads of the shares of a plan. -/
def Ctx.threadsOf (k : Ctx) (plan : List (Nat × Nat)) : List ThreadId := (plan.map (·.1)).flatMap k.threadsOn

/-- A context with its new map, the blocks of the shares that move lifted out of their slots. -/
def Ctx.remapped (k : Ctx) (plan : List (Nat × Nat)) : Ctx :=
  ({ k.setMap (k.mapWith plan) with placed := k.placed.filter fun q => !(plan.map (·.1)).contains q.seat } : Ctx).forwardAll
    (k.threadsOf plan)

def State.lifted (s : State) (k : Ctx) (plan : List (Nat × Nat)) : State :=
  ({ s with mem := (((plan.map (·.1)).map k.phys).eraseDups).foldl Mems.cleanForMove s.mem } : State).setCtx (k.remapped plan)

/-- The state in which the blocks have been resettled and the arrays are loaded again. -/
def State.landed (s : State) (k : Ctx) (plan : List (Nat × Nat)) : State :=
  let s3 := ((((plan.map (·.1)).map k.phys).eraseDups).foldl (fun (s : State) p => s.freeCtxDomains k.num p) s).reloadAll k.num
    (plan.map (·.1)).contains
  { s3 with mem := (plan.map Prod.snd).eraseDups.foldl Mems.scDiscard s3.mem }

/-- The end of a move, with its capacity record where the clusters have changed. -/
def State.moved (s : State) (k : Ctx) (plan : List (Nat × Nat)) (cause : BitVec 8) : State :=
  let s5 := (s.landed k plan).modCtx k.num fun j => j.settled plan (k.threadsOf plan)
  let map := (k.setMap (k.mapWith plan)).map_
  if sameSet k.map_ map then s5 else s5.capacity k.num cause (unitMoved k.map_ map) (plan.map (·.1))

theorem moveShares_some {k : Ctx} {plan : List (Nat × Nat)} {cause : BitVec 8} (h : s.moveShares k plan cause = some t) :
    ∃ order s2, (s.lifted k plan).resettleAll k.num order = some s2 ∧ t = s2.moved k plan cause := by
  obtain ⟨s2, hs2, ht⟩ := Option.map_eq_some_iff.1 h
  exact ⟨_, s2, hs2, ht.symm⟩

theorem landed_stands {k : Ctx} (plan : List (Nat × Nat)) (h : s.stands k.num d) : (s.landed k plan).stands k.num d :=
  stands_of_agrees (stands_reloadAll _ (stands_foldl (fun _ p h => stands_freeCtxDomains p h) _ h)) (agrees_setMem ..)

/-- Shares that have moved stand on the clusters of the plan, their gates open. -/
theorem moveShares_ctx {k : Ctx} {plan : List (Nat × Nat)} {cause : BitVec 8} (hk : s.ctx c = some k)
    (h : s.moveShares k plan cause = some t) : inCtx t c fun j => j.pmap = (k.setMap (k.mapWith plan)).pmap
      ∧ ∀ q ∈ plan, j.doors q.1 = (false, none) := by
  obtain rfl := ctx_num hk
  obtain ⟨order, s2, hs2, rfl⟩ := moveShares_some h
  have hlift : (s.lifted k plan).stands k.num (k.remapped plan).station := stands_setCtx (s := { s with mem := _ }) hk rfl
  obtain ⟨j, hj, hd⟩ := landed_stands plan (stands_resettleAll hlift hs2)
  have hset : State.stands ((s2.landed k plan).modCtx k.num fun j => j.settled plan (k.threadsOf plan)) k.num
      (j.settled plan (k.threadsOf plan)).station := stands_of_ctx (ctx_modCtx hj (settled_num ..))
  obtain ⟨i, hi, hid⟩ : (s2.moved k plan cause).stands k.num (j.settled plan (k.threadsOf plan)).station := by
    unfold State.moved
    dsimp only
    split
    · exact hset
    · exact stands_capacity _ _ _ hset
  refine ⟨i, hi, ?_, fun q hq => ?_⟩
  · rw [show i.pmap = _ from congrArg Station.pmap hid]
    exact (settled_pmap ..).trans (congrArg Station.pmap hd)
  · rw [show i.doors = _ from congrArg Station.doors hid]
    exact settled_doors j _ hq

end

section
variable {c : CtxId} {l p : Nat} {cause : BitVec 8} {s : State} {k : Ctx} (hk : s.ctx c = some k)
  (hm : (k.share l).moveTo = some (p, cause)) (hg : (k.share l).gated = true) (hv : k.moves = true)
include hk hm hg hv

theorem answers_migrationMove_marks (hb : ∀ q ∈ k.leavingFor cause, s.barred q.2 = false)
    (hd : ∀ q ∈ k.leavingFor cause, k.shareDone q.1 = true)
    (hn : ∃ q ∈ k.leavingFor cause, (tgetD k.pmap q.1 0).getLsbD 30 = false) :
    answers (.migrationMove c l) s fun t => t.mem = s.mem ∧ inCtx t c fun j =>
      ∀ q ∈ k.leavingFor cause, ∀ w, tget j.pmap q.1 = some w → w.getLsbD 30 = true :=
  answers_of_exec (exec_migrationMove_marks hk hm hg hv hb hd hn)
    ⟨State.setCtx_mem .., k.marked (k.leavingFor cause), ctx_setCtx hk (ctx_num (k := k) hk), fun _ hq _ => marked_moving hq⟩

theorem answers_migrationMove_moves (hc : k.lclusters ≤ 128) (hb : ∀ q ∈ k.leavingFor cause, s.barred q.2 = false)
    (hw : s.capacityWaits k = false)
    (hs : ∀ q ∈ k.leavingFor cause, k.shareStill s.mem q.1 = true ∧ (tgetD k.pmap q.1 0).getLsbD 30 = true ∧ q.1 < k.lclusters
      ∧ q.2 < 128)
    (hn : ((k.leavingFor cause).map Prod.fst).Nodup) (hsome : (s.moveShares k (k.leavingFor cause) cause).isSome = true) :
    answers (.migrationMove c l) s fun t => inCtx t c fun j => ∀ q ∈ k.leavingFor cause,
      j.phys q.1 = q.2 ∧ (j.share q.1).gated = false ∧ (j.share q.1).moveTo = none := by
  obtain ⟨t, ht⟩ := Option.isSome_iff_exists.1 hsome
  obtain ⟨j, hj, hmap, hdoors⟩ := moveShares_ctx hk ht
  have hx := exec_migrationMove_moves hk hm hg hv hb hw fun q hq => ⟨(hs q hq).1, (hs q hq).2.1⟩
  rw [ht, Option.getD_some] at hx
  refine answers_of_exec hx ⟨j, hj, fun q hq => ⟨?_, Prod.mk.inj (hdoors q hq)⟩⟩
  rw [phys_of_pmap hmap]
  exact phys_mapWith hq hn hc fun q hq => (hs q hq).2.2

theorem answers_migrationMove_barred (hb : s.barred p = true) :
    answers (.migrationMove c l) s fun t => t.mem = s.mem ∧ t.owners = s.owners ∧ inCtx t c fun j => ∀ i, j.phys i = k.phys i :=
  answers_of_exec (exec_migrationMove_barred hk hm hg hv hb)
    ⟨State.setCtx_mem .., rfl, _, ctx_setCtx hk ((retarget_num ..).trans (ctx_num hk)), retarget_phys s k l _ cause⟩

end

end Sys2Proof.Machine
end

section
/-! PROOFS. The grant arbiter, and the steps of a context switch together (`Obligations.ContextSwitchSteps`). -/

namespace Sys2Proof.Machine

/-! ### Domains given and taken (05 R140) -/

/-- A domain that can be given is free. -/
theorem freeFor_free {s : State} {die : Nat} {w : Want} {d : Nat} (h : s.freeFor die w = some d) : tget s.owners d = none := by
  unfold State.freeFor at h
  have hmem : d ∈ (dieDomains die).filter fun d => (tget s.owners d).isNone && !s.barred (d / 16) := by
    rcases Option.or_eq_some_iff.1 h with h | ⟨-, h⟩ <;> exact List.mem_of_find?_eq_some h
  obtain ⟨-, hd⟩ := List.mem_filter.1 hmem
  exact Option.isNone_iff_eq_none.1 (Bool.and_elim_left hd)

/-- What a domain's owner has, no grant of free domains takes. -/
theorem giveFree_owner {c : CtxId} {d : Nat} (die fuel : Nat) (s : State) (h : tget s.owners d = some c) :
    tget (s.giveFree die fuel).owners d = some c := by
  induction fuel generalizing s with
  | zero => exact h
  | succ fuel ih =>
    unfold State.giveFree
    split
    · exact h
    · split
      · exact h
      · next e he =>
        refine ih _ ?_
        have hne : d ≠ e := by
          rintro rfl
          rw [freeFor_free he] at h
          cases h
        exact (tget_tset_other _ _ hne).trans h

theorem giveFree_mem (die fuel : Nat) (s : State) : (s.giveFree die fuel).mem = s.mem := by
  induction fuel generalizing s with
  | zero => rfl
  | succ fuel ih =>
    unfold State.giveFree
    split
    · rfl
    · split
      · rfl
      · exact ih _

/-- The first domain given goes to the want that comes first. -/
theorem giveFree_first {s : State} {die fuel : Nat} {w : Want} {d : Nat} (hf : fuel ≠ 0)
    (hw : firstWant (s.before die) ((s.wants die).filter fun v => (s.freeFor die v).isSome) = some w)
    (hd : s.freeFor die w = some d) : tget (s.giveFree die fuel).owners d = some w.ctx := by
  obtain ⟨fuel, rfl⟩ := Nat.exists_eq_succ_of_ne_zero hf
  rw [State.giveFree, hw]
  dsimp only
  rw [hd]
  exact giveFree_owner die fuel _ (tget_tset_same ..)

/-- Nothing is reclaimed where nothing can be. -/
theorem reclaim_none {s : State} {die : Nat} (fuel : Nat) (h : ∀ v ∈ s.wants die, s.reclaimable die v = none) :
    s.reclaim die fuel = s := by
  have hno : (s.wants die).filter (fun w => (s.reclaimable die w).isSome) = [] := List.filter_eq_nil_iff.2 fun v hv => by simp [h v hv]
  cases fuel with
  | zero => rfl
  | succ fuel => rw [State.reclaim, hno]; rfl

/-! ### A grant interval (05 R140 to R142) -/

/-- A run of steps of which none does anything. -/
theorem foldl_idle {α β : Type} {f : β → α → β} {b : β} {l : List α} (h : ∀ a ∈ l, f b a = b) : l.foldl f b = b := by
  induction l with
  | nil => rfl
  | cons a l ih => rw [List.foldl_cons, h a List.mem_cons_self, ih fun x hx => h x (List.mem_cons_of_mem _ hx)]

theorem endTest_idle {s : State} {die i : Nat} (h : s.tenantNeeds die (s.testDomains die (s.lease die i)) = false) :
    s.endTest die i = s := by
  unfold State.endTest
  dsimp only
  rw [h, Bool.and_false]
  rfl

/-- The state after the grants and reclaims of an interval. -/
def State.granted (s : State) (die : Nat) : State := (s.giveFree die 384).reclaim die 384

/-- The pre-emptions that an interval chooses. -/
def State.preempts (s : State) (die : Nat) : List (CtxId × Nat × Nat) :=
  (((s.granted die).wants die).filter fun w => s.waited.contains (die, w.stamp)).filterMap fun w =>
    ((s.granted die).victimOf die w).map fun v => (v, die, w.stamp)

/-- The end of an interval: who waits is noted, and pre-emptions are asked for where no domain was left. -/
def State.granting (s : State) (die : Nat) (left : Bool) (chosen : List (CtxId × Nat × Nat)) : State :=
  { s with
    waited := (s.waited.filter fun e => e.1 != die) ++ (if left then (s.wants die).map fun w => (die, w.stamp) else [])
    victims := (s.victims ++ chosen.map Prod.fst).eraseDups
    heirs := s.heirs ++ chosen }

@[simp] theorem granting_owners (s : State) (die : Nat) (left : Bool) (chosen : List (CtxId × Nat × Nat)) :
    (s.granting die left chosen).owners = s.owners := rfl
@[simp] theorem granting_mem (s : State) (die : Nat) (left : Bool) (chosen : List (CtxId × Nat × Nat)) :
    (s.granting die left chosen).mem = s.mem := rfl

theorem mem_granting_waited {s : State} {die : Nat} {w : Want} (chosen : List (CtxId × Nat × Nat)) (hw : w ∈ s.wants die) :
    (die, w.stamp) ∈ (s.granting die true chosen).waited := List.mem_append_right _ (List.mem_map.2 ⟨w, hw, rfl⟩)

theorem mem_granting_victims (s : State) (die : Nat) (left : Bool) {chosen : List (CtxId × Nat × Nat)} {e : CtxId × Nat × Nat}
    (he : e ∈ chosen) : e.1 ∈ (s.granting die left chosen).victims ∧ e ∈ (s.granting die left chosen).heirs :=
  ⟨List.mem_eraseDups.2 (List.mem_append_right _ (List.mem_map_of_mem he)), List.mem_append_right _ he⟩

theorem exec_grantInterval {s : State} {die : Nat}
    (h : ∀ i, i < 8 → s.tenantNeeds die (s.testDomains die (s.lease die i)) = false) : exec (.grantInterval die) s
      = .next ((s.granted die).granting die (s.noneLeft die && (s.granted die).noneLeft die)
          (if !(s.noneLeft die && (s.granted die).noneLeft die) then [] else s.preempts die)) := by
  have hs : (List.range 8).foldl (fun (s : State) i => s.endTest die i) s = s :=
    foldl_idle fun i hi => endTest_idle (h i (List.mem_range.1 hi))
  show execGrantInterval die s = _
  unfold execGrantInterval
  rw [hs]
  rfl

theorem mem_preempts {s : State} {die : Nat} {w : Want} {v : CtxId} (hw : w ∈ (s.granted die).wants die)
    (hs : (die, w.stamp) ∈ s.waited) (hv : (s.granted die).victimOf die w = some v) : (v, die, w.stamp) ∈ s.preempts die :=
  List.mem_filterMap.2 ⟨w, List.mem_filter.2 ⟨hw, by simpa using hs⟩, by rw [hv]; rfl⟩

/-- A want that no domain is left for is noted, and, if it was noted before, pre-empts a context (05 R141). -/
theorem answers_grantWaits {s : State} {die : Nat} {w : Want} {v : CtxId}
    (ht : ∀ i, i < 8 → s.tenantNeeds die (s.testDomains die (s.lease die i)) = false) (hn : s.noneLeft die = true)
    (hn1 : (s.granted die).noneLeft die = true) (hw : w ∈ (s.granted die).wants die) :
    answers (.grantInterval die) s fun t => (die, w.stamp) ∈ t.waited ∧ ((die, w.stamp) ∈ s.waited →
      (s.granted die).victimOf die w = some v → v ∈ t.victims ∧ (v, die, w.stamp) ∈ t.heirs) := by
  have hx := exec_grantInterval ht
  rw [hn, hn1] at hx
  exact answers_of_exec hx ⟨mem_granting_waited _ hw, fun hs hv => mem_granting_victims _ die true (mem_preempts hw hs hv)⟩

/-- Where nothing can be reclaimed, the domain goes to the want that comes first (05 R140). -/
theorem answers_grantFree {s : State} {die : Nat} {w : Want} {d : Nat}
    (ht : ∀ i, i < 8 → s.tenantNeeds die (s.testDomains die (s.lease die i)) = false)
    (hw : firstWant (s.before die) ((s.wants die).filter fun v => (s.freeFor die v).isSome) = some w)
    (hd : s.freeFor die w = some d) (hr : ∀ v ∈ (s.giveFree die 384).wants die, (s.giveFree die 384).reclaimable die v = none) :
    answers (.grantInterval die) s fun t => tget t.owners d = some w.ctx ∧ t.mem = s.mem := by
  have hg : s.granted die = s.giveFree die 384 := reclaim_none 384 hr
  have howner : tget (s.granted die).owners d = some w.ctx := hg ▸ giveFree_first (by decide) hw hd
  have hmem : (s.granted die).mem = s.mem := hg ▸ giveFree_mem die 384 s
  exact answers_of_exec (exec_grantInterval ht) (by rw [granting_owners, granting_mem]; exact ⟨howner, hmem⟩)

/-! ### The steps together -/

/-- Settles O54: the two stages of a pre-emption and its force, save and restore, the stages of a migration, resident switches, and
the two outcomes of a grant interval. -/
theorem contextSwitchSteps : Obligations.ContextSwitchSteps := by
  unfold Obligations.ContextSwitchSteps
  refine ⟨?gate, ?quiet, ?force, ?save, ?restore, ?shares, ?marks, ?moves, ?stays, ?out, ?back, ?grants, ?waits⟩
  case gate => exact fun _ _ _ => answers_preemptionGate
  case quiet => exact fun _ _ _ => answers_quiescenceReport
  case force => exact fun _ _ _ => answers_preemptionForce
  case save => exact fun _ _ _ _ => answers_contextSaveReport
  case restore => exact fun _ _ _ _ => answers_restore
  case shares => exact fun _ _ _ _ _ _ => answers_migrationGate
  case marks => exact fun _ _ _ _ _ _ => answers_migrationMove_marks
  case moves => exact fun _ _ _ _ _ _ => answers_migrationMove_moves
  case stays => exact fun _ _ _ _ _ _ => answers_migrationMove_barred
  case out => exact fun _ _ _ => answers_switchOutResident
  case back => exact fun _ _ _ => answers_switchInResident
  case grants => exact fun _ _ _ _ => answers_grantFree
  case waits =>
    intro die s s1 w v h1 ht hn hn1 hw
    obtain rfl : s1 = s.granted die := h1
    exact answers_grantWaits ht hn hn1 hw

end Sys2Proof.Machine
end

section
/-! PROOFS. The registers right after reset: `Obligations.ResetRegisters`. -/

namespace Sys2Proof.Machine

/-! ### What the tables of the machine give before anything is listed in them -/

theorem reset_spine (die n : Nat) : State.reset.spine die n = SpineFreq.cold := rfl
theorem reset_power (die : Nat) : State.reset.power die = PwrCtl.cold := rfl
theorem reset_leasing (die : Nat) : State.reset.leasing die = LeaseCtl.cold := rfl
theorem reset_link (n : Nat) : State.reset.link n = Link.cold := rfl
theorem reset_tempOf (clu : Nat) : State.reset.tempOf clu = Temp.cold := rfl
theorem reset_pwrdom (n : Nat) : tgetD State.reset.pwrdom n PwrDom.zero = PwrDom.zero := rfl
theorem reset_scoreOf (u : RetUnit) : State.reset.scoreOf u = { retired := false, doomed := false, score := 0 } := rfl

/-- Settles O7: a register outside every table holds its Reset value in `State.reset`, and one of a table, which reset leaves empty,
the value its accessor gives an unlisted entry. -/
theorem resetRegisters : Obligations.ResetRegisters := by
  unfold Obligations.ResetRegisters
  refine ⟨rfl, rfl, rfl, rfl, rfl, rfl, rfl, ?links, ?temps, fun n => rfl, rfl, rfl, ?spines, ?dies, ?domains, ?scores, rfl, rfl, rfl⟩
  case links =>
    intro n
    rw [State.readReg, reset_link]
    decide
  case temps =>
    intro c
    rw [State.readReg, reset_tempOf]
    decide
  case spines =>
    intro die n hn
    rw [State.readReg, if_neg (by omega), reset_spine]
    decide
  case dies =>
    refine fun die => ⟨rfl, ?_, ?_⟩
    · rw [State.readReg, reset_power]
      decide
    · rw [State.readReg, reset_leasing]
      decide
  case domains =>
    refine fun clu dom => ⟨rfl, ?_⟩
    rw [State.readReg, reset_pwrdom]
    decide
  case scores =>
    intro kind unit
    rw [State.readReg, reset_scoreOf]
    decide

end Sys2Proof.Machine
end

section
/-! PROOFS. What meets a firing before anything is consumed: breakpoints, shadow mismatches and damaged slots
(`Obligations.FiringsAreMet`). -/

namespace Sys2Proof.Machine

/-! ### The firing that something meets (02 R75, 08 R217, R220) -/

/-- A breakpoint stands in the way of a firing, and the debug port has not let it go (02 R75). -/
def State.stoppedAt (s : State) (f : Fire) (n : Nat) : Prop :=
  s.dbg.pass ≠ some s.focus ∧ s.breakpoint f.k.num f.x.num f.p.blk f.i = some n

/-- No breakpoint stands in the way of a firing. -/
def State.unstopped (s : State) (f : Fire) : Prop :=
  s.dbg.pass = some s.focus ∨ s.breakpoint f.k.num f.x.num f.p.blk f.i = none

theorem goes_of_stoppedAt {s : State} {f : Fire} {n : Nat} (h : s.stoppedAt f n) (es : List Em) : s.goes f es = false := by
  simp [State.goes, h.1, h.2]

theorem goes_of_upset {s : State} {f : Fire} (h : s.upset ≠ .none) (es : List Em) : s.goes f es = false := by
  simp [State.goes, h]

theorem fire_of_ready {s : State} {t : Tmpl} {xa : Option XArg} {b : Bool} {l : Lits} {f : Fire} (h : s.ready t xa b l = some f)
    (sem : Fire → Sem) : s.fire t xa b l sem = s.fireOn f sem := by rw [State.fire, h]

/-- A firing that something meets reads no record: STRCFG and SQCFG come to their firing alone (14 R391, R393). -/
theorem fireRecord_of_not_goes {s : State} {t : Tmpl} {x : FormX} {f : Fire} (h : s.ready t none false (litX x) = some f)
    (hg : ∀ es, s.goes f es = false) (bad : List Byte → Option Nat) (eff : Fire → List Byte → Sem) :
    s.fireRecord t x bad eff = s.fireOn f fun f => f.recorded s x bad (eff f) := by
  simp only [State.fireRecord, h, hg, Bool.and_false, Bool.false_eq_true, if_false]
  split <;> exact fire_of_ready h _

/-- An encoded instruction that something meets comes to its firing with some effect: all but BRK under the debug port, and VRED on a
contribution ahead of its register (12 R341, 15 R434). -/
theorem exec_met {i : Instr} {n : Needs} {s : State} {f : Fire} (hn : needsOf i = some n) (hb : ∀ t g, i ≠ .brk t g)
    (hv : ∀ t g, i = .vred t g → f.vredAhead = none) (hr : s.readyFor n = some f) (hg : ∀ es, s.goes f es = false) :
    ∃ sem, exec i s = .next (s.fireOn f sem) := by
  cases i with
  | brk t g => exact absurd rfl (hb t g)
  | vred t g =>
    cases hn
    have hr : s.ready t none false (litV g false) = some f := hr
    refine ⟨fun f => f.vredSem g, ?_⟩
    show execVred t g s = _
    rw [execVred, hr]
    simp only [hv t g rfl]
  | strcfg t x => cases hn; exact ⟨_, congrArg _ (fireRecord_of_not_goes hr hg _ _)⟩
  | sqcfg t x => cases hn; exact ⟨_, congrArg _ (fireRecord_of_not_goes hr hg _ _)⟩
  | _ => cases hn <;> exact ⟨_, congrArg _ (fire_of_ready hr _)⟩

/-! ### What it comes to -/

theorem fireOn_breakpoint {s : State} {f : Fire} {n : Nat} (sem : Fire → Sem) (hp : s.powered f.domain = true)
    (hs : s.stoppedAt f n) (hh : s.dbg.halted = false) :
    s.fireOn f sem = s.debugHalt f.k.num f.x.num f.w (BitVec.ofNat 8 n) (some s.focus) := by
  obtain ⟨hpass, hbp⟩ := hs
  simp [State.fireOn, hp, hpass, hbp, hh]

/-- Past the breakpoints an error of the hardware decides. -/
theorem fireOn_unstopped {s : State} {f : Fire} (sem : Fire → Sem) (hp : s.powered f.domain = true) (hs : s.unstopped f) :
    s.fireOn f sem = match s.upset with
      | .shadow => ((s.fireFault f 0x10 0 0 0).addScore (clusterUnit (f.k.seatOf f.p)) 64).firingSpent f
      | .damaged => s.raised f 0x0F 0 3 0
      | .none => s.carry f (sem f) := by
  have h : (if s.dbg.pass = some s.focus then none else s.breakpoint f.k.num f.x.num f.p.blk f.i) = none := by
    rcases hs with h | h <;> simp [h]
  simp only [State.fireOn, hp, h]
  rfl

theorem ctx_debugHalt {s : State} {c : CtxId} {k : Ctx} (h : s.ctx c = some k) (t : ThreadId) (w : WaveId) (cause : BitVec 8)
    (stopped : Option Site) : (s.debugHalt c t w cause stopped).ctx c = some { k with halted := true } :=
  ctx_modCtx (f := fun k => { k with halted := true }) h rfl

/-- Settles O12: an instruction that is met comes to its firing, whatever its effect, and the firing to what met it. -/
theorem firingsAreMet : Obligations.FiringsAreMet := by
  unfold Obligations.FiringsAreMet
  refine ⟨?breakpoint, ?shadow, ?damaged⟩
  case breakpoint =>
    intro i n s f b hn hbrk hv hr hp hpass hbp hh
    have hs : s.stoppedAt f b := ⟨hpass, hbp⟩
    obtain ⟨sem, he⟩ := exec_met hn hbrk hv hr (goes_of_stoppedAt hs)
    refine ⟨_, he.trans (congrArg _ (fireOn_breakpoint sem hp hs hh)), ?_⟩
    exact ⟨modCtx_mem .., rfl, rfl, rfl, rfl, fun k hk => ctx_debugHalt hk ..⟩
  case shadow =>
    intro i n s f hn hbrk hv hr hp hs hu
    obtain ⟨sem, he⟩ := exec_met hn hbrk hv hr (goes_of_upset (by simp [hu]))
    rw [he, fireOn_unstopped sem hp hs, hu]
  case damaged =>
    intro i n s f hn hbrk hv hr hp hs hu
    obtain ⟨sem, he⟩ := exec_met hn hbrk hv hr (goes_of_upset (by simp [hu]))
    rw [he, fireOn_unstopped sem hp hs, hu]

end Sys2Proof.Machine
end

section
/-! PROOFS. Power intervals, ballast, heat and coolant (`Obligations.PowerAndThermalSteps`). -/

namespace Sys2Proof.Machine

/-! ### Runs of changes, each of one entry -/

/-- A run over distinct entries, each step of which changes its own entry and keeps what the change depends on, changes each entry of
the run once and no other. -/
theorem foldl_entries {σ β : Type} {f : σ → Nat → σ} {v : σ → Nat → β} {g : Nat → β → β} {keep : σ → Prop} {l : List Nat}
    (hf : ∀ s d, keep s → keep (f s d) ∧ ∀ m, v (f s d) m = if m = d then g m (v s m) else v s m) (hl : l.Nodup) (s : σ)
    (hs : keep s) : keep (l.foldl f s) ∧ ∀ m, v (l.foldl f s) m = if m ∈ l then g m (v s m) else v s m := by
  induction l generalizing s with
  | nil => exact ⟨hs, fun m => by simp⟩
  | cons d l ih =>
    obtain ⟨hd, hl⟩ := List.nodup_cons.1 hl
    obtain ⟨hk, hv⟩ := hf s d hs
    obtain ⟨hk, ih⟩ := ih hl _ hk
    refine ⟨hk, fun m => ?_⟩
    rw [List.foldl_cons, ih m, hv m]
    by_cases hm : m = d
    · subst hm; simp [hd]
    · simp [hm]

theorem tgetD_foldl_tset {α : Type} {l : List Nat} (v d : α) (hl : l.Nodup) (t : Tab α) (m : Nat) :
    tgetD (l.foldl (fun t n => tset t n v) t) m d = if m ∈ l then v else tgetD t m d :=
  (foldl_entries (v := fun t m => tgetD t m d) (g := fun _ _ => v) (keep := fun _ => True)
    (fun t n _ => ⟨trivial, fun m => tgetD_tset t n m v d⟩) hl t trivial).2 m

theorem spine_setSpine (s : State) (die n m : Nat) (r : SpineFreq) :
    (s.setSpine die n r).spine die m = if m = n then r else s.spine die m := by
  unfold State.spine State.setSpine
  rw [tgetD_tset]
  simp

/-- A change made of several spines of a die. -/
def State.mapSpines (s : State) (die : Nat) (g : SpineFreq → SpineFreq) (l : List Nat) : State :=
  l.foldl (fun s n => s.setSpine die n (g (s.spine die n))) s

theorem spine_mapSpines {l : List Nat} (s : State) (die : Nat) (g : SpineFreq → SpineFreq) (hl : l.Nodup) (m : Nat) :
    (s.mapSpines die g l).spine die m = if m ∈ l then g (s.spine die m) else s.spine die m := by
  refine (foldl_entries (v := fun s m => State.spine s die m) (g := fun _ => g) (keep := fun _ => True) (fun s d _ => ?_) hl s
    trivial).2 m
  refine ⟨trivial, fun m => ?_⟩
  rw [spine_setSpine]
  split
  · rename_i h; rw [h]
  · rfl

theorem mapSpines_mem (s : State) (die : Nat) (g : SpineFreq → SpineFreq) (l : List Nat) : (s.mapSpines die g l).mem = s.mem :=
  foldl_keeps State.mem (f := fun s n => State.setSpine s die n (g (s.spine die n))) (fun _ _ => rfl) l s

/-! ### A domain at its spine's boundary (07 R207, 16 R452, R453) -/

/-- The spine in effect for a domain of a cluster, and its token counts. -/
def State.domainAt (s : State) (clu d : Nat) : BitVec 3 × PwrDom :=
  (tgetD s.spnow (clu * 16 + d) 0, tgetD s.pwrdom (clu * 16 + d) PwrDom.zero)

def State.setCounts (s : State) (n : Nat) (w : PwrDom) : State := { s with pwrdom := tset s.pwrdom n w }

def State.setSpineOf (s : State) (n : Nat) (r : BitVec 3) : State := { s with spnow := tset s.spnow n r }

/-- The machine without what a power interval changes before its spine turns. -/
def State.offDomains (s : State) : State := { s.outside with spnow := [], pwrdom := [], drawn := [] }

/-- A domain's counts with further ballast firings. -/
def PwrDom.fired (w : PwrDom) (n : Nat) : PwrDom := { w with ballastNow := w.ballastNow + BitVec.ofNat 16 n }

theorem fireBallast_mem (s : State) (clu d n : Nat) : (s.fireBallast clu d n).mem = s.mem := modCtx_mem ..

theorem fireBallast_outside (s : State) (clu d n : Nat) : (s.fireBallast clu d n).outside
    = (s.setCounts (clu * 16 + d) ((s.domainAt clu d).2.fired n)).outside := modCtx_outside ..

theorem fireBallast_offDomains (s : State) (clu d n : Nat) : (s.fireBallast clu d n).offDomains = s.offDomains := by
  unfold State.offDomains
  rw [fireBallast_outside]
  rfl

theorem fireBallast_domainAt (s : State) (clu d n m : Nat) : (s.fireBallast clu d n).domainAt clu m
    = if m = d then ((s.domainAt clu m).1, (s.domainAt clu m).2.fired n) else s.domainAt clu m := by
  have h := fireBallast_outside s clu d n
  have hs : (s.fireBallast clu d n).spnow = s.spnow := (congrArg State.spnow h :)
  have hw : (s.fireBallast clu d n).pwrdom = tset s.pwrdom (clu * 16 + d) ((s.domainAt clu d).2.fired n) :=
    (congrArg State.pwrdom h :)
  unfold State.domainAt
  rw [hs, hw, tgetD_tset]
  by_cases hm : m = d
  · subst hm; simp [State.domainAt]
  · simp [hm]

/-- A domain with the ballast firings made that its interval still owes. -/
def fillBallast (on : Bool) (e : BitVec 3 × PwrDom) : BitVec 3 × PwrDom :=
  if on = true ∧ e.1 ≠ 7 then (e.1, e.2.fired (e.2.ballastDue - e.2.ballastNow.toNat)) else e

/-- The firings that an interval's end still owes are made where ballast is on and the domain's spine runs (16 R453). -/
theorem endBallast_cases (s : State) (clu d : Nat) :
    s.endBallast clu d = s ∧ fillBallast (s.power (dieOfCluster clu)).ballast (s.domainAt clu d) = s.domainAt clu d
    ∨ ∃ n, s.endBallast clu d = s.fireBallast clu d n ∧ fillBallast (s.power (dieOfCluster clu)).ballast (s.domainAt clu d)
        = ((s.domainAt clu d).1, (s.domainAt clu d).2.fired n) := by
  unfold State.endBallast fillBallast
  dsimp only
  split
  · rename_i h
    exact .inl ⟨rfl, if_neg (by simpa [State.domainAt, imp_iff_not_or] using h)⟩
  · rename_i h
    exact .inr ⟨_, rfl, if_pos (by simpa [State.domainAt] using h)⟩

theorem endBallast_rest (s : State) (clu d : Nat) :
    (s.endBallast clu d).mem = s.mem ∧ (s.endBallast clu d).offDomains = s.offDomains := by
  obtain ⟨h, -⟩ | ⟨n, h, -⟩ := endBallast_cases s clu d
  · rw [h]; exact ⟨rfl, rfl⟩
  · rw [h]; exact ⟨fireBallast_mem .., fireBallast_offDomains ..⟩

theorem endBallast_domainAt (s : State) (clu d m : Nat) : (s.endBallast clu d).domainAt clu m
    = if m = d then fillBallast (s.power (dieOfCluster clu)).ballast (s.domainAt clu m) else s.domainAt clu m := by
  obtain ⟨h, hf⟩ | ⟨n, h, hf⟩ := endBallast_cases s clu d
  · rw [h]
    split
    · rename_i hm; rw [hm, hf]
    · rfl
  · rw [h, fireBallast_domainAt]
    split
    · rename_i hm; rw [hm, hf]
    · rfl

/-- A domain at the boundary of its spine: the spine that it takes, and its counts turned. -/
def State.turned (s : State) (clu : Nat) (above : Bool) (g : BitVec 16) (d : Nat) (e : BitVec 3 × PwrDom) : BitVec 3 × PwrDom :=
  (if s.parked.contains (clu * 16 + d) then 7 else tgetD s.spsel (clu * 16 + d) 0,
    e.2.turn ((s.power (dieOfCluster clu)).grantAfter above e.2.grant g))

theorem turnDomain_outside (s : State) (clu d : Nat) (above : Bool) (g : BitVec 16) : (s.turnDomain clu d above g).outside
    = ((s.setCounts (clu * 16 + d) (s.turned clu above g d (s.domainAt clu d)).2).setSpineOf (clu * 16 + d)
        (s.turned clu above g d (s.domainAt clu d)).1).outside := modCtx_outside ..

theorem turnDomain_rest (s : State) (clu d : Nat) (above : Bool) (g : BitVec 16) :
    (s.turnDomain clu d above g).mem = s.mem ∧ (s.turnDomain clu d above g).drawn = s.drawn
      ∧ (s.turnDomain clu d above g).offDomains = s.offDomains := by
  have h := turnDomain_outside s clu d above g
  refine ⟨modCtx_mem .., (congrArg State.drawn h :), ?_⟩
  unfold State.offDomains
  rw [h]
  rfl

theorem turnDomain_domainAt (s : State) (clu d m : Nat) (above : Bool) (g : BitVec 16) :
    (s.turnDomain clu d above g).domainAt clu m
      = if m = d then s.turned clu above g m (s.domainAt clu m) else s.domainAt clu m := by
  have h := turnDomain_outside s clu d above g
  have hs : (s.turnDomain clu d above g).spnow = tset s.spnow (clu * 16 + d) (s.turned clu above g d (s.domainAt clu d)).1 :=
    (congrArg State.spnow h :)
  have hw : (s.turnDomain clu d above g).pwrdom = tset s.pwrdom (clu * 16 + d) (s.turned clu above g d (s.domainAt clu d)).2 :=
    (congrArg State.pwrdom h :)
  rw [State.domainAt, hs, hw, tgetD_tset, tgetD_tset]
  by_cases hm : m = d
  · subst hm; simp
  · simp [hm, State.domainAt]

/-! ### A whole power interval -/

/-- What is read of the machine and does not lie with its domains stands through the boundary of each. -/
theorem turned_congr {t s : State} (h : t.offDomains = s.offDomains) : t.turned = s.turned := by
  have hp : t.parked = s.parked := (congrArg State.parked h :)
  have hs : t.spsel = s.spsel := (congrArg State.spsel h :)
  have hw : t.pwrctl = s.pwrctl := (congrArg State.pwrctl h :)
  unfold State.turned State.power
  rw [hp, hs, hw]

/-- The ballast firings that every domain of a spine owes are made, and energy is folded. -/
def State.settled (s : State) (clu : Nat) (ds : List Nat) : State :=
  (ds.foldl (fun (s : State) d => s.endBallast clu d) s).foldSites clu

theorem settled_rest (s : State) (clu : Nat) (ds : List Nat) :
    (s.settled clu ds).mem = s.mem ∧ (s.settled clu ds).offDomains = s.offDomains :=
  ⟨foldl_keeps State.mem (fun s d => (endBallast_rest s clu d).1) ds s,
    foldl_keeps State.offDomains (fun s d => (endBallast_rest s clu d).2) ds s⟩

theorem settled_domainAt (s : State) (clu : Nat) {ds : List Nat} (hd : ds.Nodup) (m : Nat) : (s.settled clu ds).domainAt clu m
    = if m ∈ ds then fillBallast (s.power (dieOfCluster clu)).ballast (s.domainAt clu m) else s.domainAt clu m := by
  refine (foldl_entries (f := fun s d => State.endBallast s clu d) (v := fun s m => State.domainAt s clu m)
    (g := fun _ => fillBallast (s.power (dieOfCluster clu)).ballast) (keep := fun t => t.offDomains = s.offDomains)
    (fun t d ht => ?_) hd s rfl).2 m
  have hp : t.power (dieOfCluster clu) = s.power (dieOfCluster clu) := (congrArg (State.power · (dieOfCluster clu)) ht :)
  refine ⟨(endBallast_rest t clu d).2.trans ht, fun m => ?_⟩
  rw [← hp]
  exact endBallast_domainAt t clu d m

/-- The boundary of each domain of a spine. -/
def State.turnAll (s : State) (clu : Nat) (above : Bool) (g : Nat → BitVec 16) (ds : List Nat) : State :=
  ds.foldl (fun s d => s.turnDomain clu d above (g d)) s

theorem turnAll_rest (s : State) (clu : Nat) (above : Bool) (g : Nat → BitVec 16) (ds : List Nat) :
    (s.turnAll clu above g ds).mem = s.mem ∧ (s.turnAll clu above g ds).drawn = s.drawn
      ∧ (s.turnAll clu above g ds).offDomains = s.offDomains :=
  ⟨foldl_keeps State.mem (fun s d => (turnDomain_rest s clu d above (g d)).1) ds s,
    foldl_keeps State.drawn (fun s d => (turnDomain_rest s clu d above (g d)).2.1) ds s,
    foldl_keeps State.offDomains (fun s d => (turnDomain_rest s clu d above (g d)).2.2) ds s⟩

theorem turnAll_domainAt (s : State) (clu : Nat) (above : Bool) (g : Nat → BitVec 16) {ds : List Nat} (hd : ds.Nodup) (m : Nat) :
    (s.turnAll clu above g ds).domainAt clu m
      = if m ∈ ds then s.turned clu above (g m) m (s.domainAt clu m) else s.domainAt clu m := by
  refine (foldl_entries (f := fun s d => State.turnDomain s clu d above (g d)) (v := fun s m => State.domainAt s clu m)
    (g := fun m e => s.turned clu above (g m) m e) (keep := fun t => t.offDomains = s.offDomains) (fun t d ht => ?_) hd s rfl).2 m
  refine ⟨(turnDomain_rest t clu d above (g d)).2.2.trans ht, fun m => ?_⟩
  rw [← turned_congr ht, turnDomain_domainAt]
  by_cases hm : m = d
  · rw [hm]
  · simp [hm]

/-- The spine of an interval turns, and its cycles are counted. -/
def State.turnSpine (s : State) (clu spine cycles : Nat) : State :=
  let s2 := { s with drawnAt := tset s.drawnAt (clu * 8 + spine) (s.dieEnergy (dieOfCluster clu)) }
  let s3 := s2.setSpine (dieOfCluster clu) spine (s2.spine (dieOfCluster clu) spine).turn
  { s3 with cycles := tset s3.cycles (clu * 8 + spine) (tgetD s3.cycles (clu * 8 + spine) 0 + BitVec.ofNat 64 cycles) }

theorem exec_powerInterval {clu spine : Nat} (cycles : Nat) (grants : List (BitVec 16)) (s : State) (hc : clu < Config.clusters)
    (hs : spine < 7) : exec (.powerInterval clu spine cycles ⟨grants⟩) s
      = .next (((s.settled clu (s.domainsOn clu spine)).turnAll clu
          ((s.settled clu (s.domainsOn clu spine)).overBudget clu spine) (grants.getD · 0) (s.domainsOn clu spine)).turnSpine
          clu spine cycles) := by
  have h7 : (spine != 7) = true := by simp; omega
  show execPowerInterval clu spine cycles ⟨grants⟩ s = _
  unfold execPowerInterval
  rw [if_neg (by simp; omega)]
  simp only [h7, Bool.true_and]
  rw [if_neg (by omega)]
  rfl

/-- The bounds of a domain's next grant (16 R452). -/
theorem grantAfter_bounds (r : PwrCtl) (above : Bool) (last g : BitVec 16) :
    1 ≤ (r.grantAfter above last g).toNat ∧ (r.grantAfter above last g).toNat ≤ 9216
      ∧ min 9216 r.mingrant.toNat ≤ (r.grantAfter above last g).toNat
      ∧ (above = true → max 1 r.mingrant.toNat < last.toNat → (r.grantAfter above last g).toNat < last.toNat)
      ∧ (above = false → last.toNat < 9216 → last.toNat < (r.grantAfter above last g).toNat) := by
  have ht (n : Nat) : (BitVec.ofNat 16 (min 9216 n)).toNat = min 9216 n := by
    rw [BitVec.toNat_ofNat, Nat.mod_eq_of_lt (by omega)]
  unfold PwrCtl.grantAfter
  rw [ht]
  refine ⟨by omega, by omega, by omega, fun h hl => ?_, fun h hl => ?_⟩
  · rw [if_pos h]; omega
  · rw [if_neg (by simp [h])]; omega

theorem mem_domainsOn {s : State} {clu spine d : Nat} :
    d ∈ s.domainsOn clu spine ↔ d < 16 ∧ (s.domainAt clu d).1.toNat = spine := by
  simp [State.domainsOn, State.domainAt]

theorem nodup_domainsOn (s : State) (clu spine : Nat) : (s.domainsOn clu spine).Nodup := List.nodup_range.filter _

/-- A domain of a spine after an interval: its ballast made, and turned. -/
theorem domainAt_interval (s : State) {clu spine d : Nat} (above : Bool) (g : Nat → BitVec 16) (hd : d < 16)
    (hs : (s.domainAt clu d).1.toNat = spine) :
    ((s.settled clu (s.domainsOn clu spine)).turnAll clu above g (s.domainsOn clu spine)).domainAt clu d
      = s.turned clu above (g d) d (fillBallast (s.power (dieOfCluster clu)).ballast (s.domainAt clu d)) := by
  have hm : d ∈ s.domainsOn clu spine := mem_domainsOn.2 ⟨hd, hs⟩
  have hn := nodup_domainsOn s clu spine
  rw [turnAll_domainAt _ _ _ _ hn, if_pos hm, settled_domainAt _ _ hn, if_pos hm, turned_congr (settled_rest ..).2]

theorem overBudget_iff (s : State) (clu spine : Nat) : s.overBudget clu spine = true
    ↔ (s.power (dieOfCluster clu)).watts * 2048 < (s.dieEnergy (dieOfCluster clu) - tgetD s.drawnAt (clu * 8 + spine) 0)
      * (25 * (20 + (s.spine (dieOfCluster clu) spine).ecode.toNat)) := by simp [State.overBudget]

/-- A spine's boundary (02 R72, R73, 07 R207, 16 R452, R453). -/
theorem answers_powerInterval (clu spine cycles : Nat) (grants : List (BitVec 16)) (s : State) (hc : clu < Config.clusters)
    (hs : spine < 7) : answers (.powerInterval clu spine cycles ⟨grants⟩) s fun t => t.mem = s.mem
      ∧ t.spine (dieOfCluster clu) spine = (s.spine (dieOfCluster clu) spine).turn
      ∧ ∃ above : Bool, (above = true ↔ (s.power (dieOfCluster clu)).watts * 2048
          < (t.dieEnergy (dieOfCluster clu) - tgetD s.drawnAt (clu * 8 + spine) 0)
            * (25 * (20 + (s.spine (dieOfCluster clu) spine).ecode.toNat)))
      ∧ ∀ d w, d < 16 → (tgetD s.spnow (clu * 16 + d) 0).toNat = spine → w = tgetD s.pwrdom (clu * 16 + d) PwrDom.zero →
          tgetD t.spnow (clu * 16 + d) 0 = (if clu * 16 + d ∈ s.parked then 7 else tgetD s.spsel (clu * 16 + d) 0)
          ∧ ∃ g b, tgetD t.pwrdom (clu * 16 + d) PwrDom.zero = ({ w with ballastNow := b } : PwrDom).turn g
            ∧ b = (if (s.power (dieOfCluster clu)).ballast
                then w.ballastNow + BitVec.ofNat 16 (w.ballastDue - w.ballastNow.toNat) else w.ballastNow)
            ∧ 1 ≤ g.toNat ∧ g.toNat ≤ 9216 ∧ min 9216 (s.power (dieOfCluster clu)).mingrant.toNat ≤ g.toNat
            ∧ (above = true → max 1 (s.power (dieOfCluster clu)).mingrant.toNat < w.grant.toNat → g.toNat < w.grant.toNat)
            ∧ (above = false → w.grant.toNat < 9216 → w.grant.toNat < g.toNat) := by
  obtain ⟨hmem0, hoff0⟩ := settled_rest s clu (s.domainsOn clu spine)
  obtain ⟨hmem, hdrawn, hoff⟩ := turnAll_rest (s.settled clu (s.domainsOn clu spine)) clu
    ((s.settled clu (s.domainsOn clu spine)).overBudget clu spine) (grants.getD · 0) (s.domainsOn clu spine)
  refine answers_of_exec (exec_powerInterval cycles grants s hc hs) ⟨hmem.trans hmem0, ?spine,
    (s.settled clu (s.domainsOn clu spine)).overBudget clu spine, ?above, ?domains⟩
  case spine =>
    refine (spine_setSpine ..).trans ((if_pos rfl).trans ?_)
    exact (congrArg (fun s : State => (s.spine (dieOfCluster clu) spine).turn) (hoff.trans hoff0) :)
  case above =>
    rw [overBudget_iff]
    have hw : (s.settled clu (s.domainsOn clu spine)).power = s.power := (congrArg State.power hoff0 :)
    have hs : (s.settled clu (s.domainsOn clu spine)).spine = s.spine := (congrArg State.spine hoff0 :)
    have hd : (s.settled clu (s.domainsOn clu spine)).drawnAt = s.drawnAt := (congrArg State.drawnAt hoff0 :)
    rw [hw, hs, hd]
    unfold State.dieEnergy State.turnSpine State.setSpine
    rw [hdrawn]
  case domains =>
    rintro d w hd hsp rfl
    have h := domainAt_interval s ((s.settled clu (s.domainsOn clu spine)).overBudget clu spine) (grants.getD · 0) hd hsp
    have h7 : (s.domainAt clu d).1 ≠ 7 := fun h => by
      have : tgetD s.spnow (clu * 16 + d) 0 = 7 := h
      rw [this] at hsp
      simp at hsp
      omega
    refine ⟨(congrArg Prod.fst h).trans ?_, _, _, (congrArg Prod.snd h).trans ?_, rfl,
      grantAfter_bounds _ _ _ (grants.getD d 0)⟩
    · simp [State.turned]
    · by_cases hb : (s.power (dieOfCluster clu)).ballast = true
      · rw [if_pos hb, fillBallast, if_pos ⟨hb, h7⟩]
        rfl
      · rw [if_neg hb, fillBallast, if_neg fun h => hb h.1]
        rfl

/-! ### Ballast (16 R453) -/

theorem answers_ballastFiring {clu dom : Nat} {s : State} (hc : clu < Config.clusters) (hd : dom < 16)
    (hb : (s.power (dieOfCluster clu)).ballast = true) (h7 : tgetD s.spnow (clu * 16 + dom) 0 ≠ 7)
    (hdue : (tgetD s.pwrdom (clu * 16 + dom) PwrDom.zero).ballastNow.toNat < (tgetD s.pwrdom (clu * 16 + dom) PwrDom.zero).ballastDue)
    (hr : ∀ pe, pe < 8 → ∀ k ∈ s.ctxs, k.active = true → k.readyIn clu (dom * 8 + pe) = false) :
    answers (.ballastFiring clu dom) s fun t => t.mem = s.mem ∧ tgetD t.pwrdom (clu * 16 + dom) PwrDom.zero
      = { tgetD s.pwrdom (clu * 16 + dom) PwrDom.zero with
          ballastNow := (tgetD s.pwrdom (clu * 16 + dom) PwrDom.zero).ballastNow + 1 } := by
  have hidle : (List.range 8).any (fun pe => s.ctxs.any fun k => k.active && k.readyIn clu (dom * 8 + pe)) = false := by
    simpa using hr
  have hx : exec (.ballastFiring clu dom) s = .next (s.fireBallast clu dom 1) := by
    show execBallastFiring clu dom s = _
    unfold execBallastFiring
    rw [hidle, hb]
    refine congrArg _ (if_neg ?_)
    simpa [Nat.not_le.2 hc, Nat.not_le.2 hd, Nat.not_le.2 hdue] using h7
  refine answers_of_exec hx ⟨fireBallast_mem .., ?_⟩
  exact (congrArg Prod.snd ((fireBallast_domainAt s clu dom 1 dom).trans (if_pos rfl)) :)

/-! ### Temperature and coolant (16 R455 to R457) -/

theorem tempOf_tset (s : State) (clu : Nat) (r : Temp) : ({ s with temps := tset s.temps clu r } : State).tempOf clu = r :=
  tgetD_tset_same ..

theorem sense_tempOf (s : State) (clu : Nat) (temp : BitVec 12) :
    (s.sense clu temp).tempOf clu = { s.tempOf clu with temp := temp, hot := decide (temp.toNat ≥ 760) } := tempOf_tset ..

theorem mem_eraseDups_append_self {α : Type} [BEq α] [LawfulBEq α] (l : List α) (a : α) : a ∈ (l ++ [a]).eraseDups :=
  List.mem_eraseDups.2 (List.mem_append_right _ List.mem_cons_self)

theorem nodup_eraseDups {α : Type} [BEq α] [LawfulBEq α] (l : List α) : l.eraseDups.Nodup := by
  induction hn : l.length using Nat.strongRecOn generalizing l with
  | ind n ih =>
    cases l with
    | nil => simp
    | cons a l =>
      have hlt : (l.filter fun b => !b == a).length < n := by
        rw [← hn, List.length_cons]
        exact Nat.lt_succ_of_le (List.length_filter_le _ l)
      rw [List.eraseDups_cons, List.nodup_cons]
      exact ⟨fun h => by simp [List.mem_eraseDups] at h, ih _ hlt _ rfl⟩

theorem nodup_spinesOf (s : State) (clu : Nat) : (s.spinesOf clu).Nodup := (nodup_eraseDups _).filter _

theorem nodup_recovering (s : State) (clu : Nat) : (s.recovering clu).Nodup := List.nodup_range.filter _

theorem mem_recovering {s : State} {clu n : Nat} (h : n < 7) (ht : (s.spine (dieOfCluster clu) n).throt = true)
    (hn : n ∈ s.spinesOf clu) : n ∈ s.recovering clu := by
  refine List.mem_filter.2 ⟨List.mem_range.2 h, ?_⟩
  simp [ht, hn]

theorem answers_thermalHot {clu : Nat} {temp : BitVec 12} (s : State) (hc : clu < Config.clusters) (h : 760 ≤ temp.toNat) :
    answers (.thermalHot clu temp) s fun t => (t.tempOf clu).hot = true ∧ (t.tempOf clu).temp = temp ∧ clu ∈ t.cooling
      ∧ t.mem = s.mem := by
  have hx : exec (.thermalHot clu temp) s = .next { s.sense clu temp with
      cooling := (s.cooling ++ [clu]).eraseDups, ctxs := s.ctxs.map (Ctx.askAll clu 4) } := by
    show execThermalHot clu temp s = _
    rw [execThermalHot, if_neg (by simp; omega)]
  have ht := sense_tempOf s clu temp
  refine answers_of_exec hx ⟨?_, (congrArg Temp.temp ht :), mem_eraseDups_append_self .., rfl⟩
  exact (congrArg Temp.hot ht :).trans (decide_eq_true h)

theorem answers_throttleTick_hot {clu : Nat} {temp : BitVec 12} (s : State) (hc : clu < Config.clusters) (h : 840 ≤ temp.toNat) :
    answers (.throttleTick clu temp) s fun t => (t.tempOf clu).throt = true ∧ t.mem = s.mem
      ∧ ∀ n ∈ s.spinesOf clu, t.spine (dieOfCluster clu) n = (s.spine (dieOfCluster clu) n).slow := by
  have hx : ∃ r : Temp, r.throt = true ∧ exec (.throttleTick clu temp) s
      = .next { (s.sense clu temp).mapSpines (dieOfCluster clu) SpineFreq.slow (s.spinesOf clu) with
          temps := tset ((s.sense clu temp).mapSpines (dieOfCluster clu) SpineFreq.slow (s.spinesOf clu)).temps clu r } := by
    show ∃ r : Temp, _ ∧ execThrottleTick clu temp s = _
    simp only [execThrottleTick]
    rw [if_neg (by omega), if_pos h]
    refine ⟨_, ?_, rfl⟩
    rfl
  obtain ⟨r, hr, hx⟩ := hx
  refine answers_of_exec hx ⟨?_, mapSpines_mem .., fun n hn => ?_⟩
  · rw [tempOf_tset, hr]
  · exact (spine_mapSpines (s.sense clu temp) _ _ (nodup_spinesOf s clu) n).trans (if_pos hn)

theorem answers_throttleTick_cool {clu : Nat} {temp : BitVec 12} (s : State) (hc : clu < Config.clusters) (h : temp.toNat < 800)
    (ht : (s.tempOf clu).throt = true) : answers (.throttleTick clu temp) s fun t => t.mem = s.mem
      ∧ ∀ n, n < 7 → (s.spine (dieOfCluster clu) n).throt = true → n ∈ s.spinesOf clu →
          t.spine (dieOfCluster clu) n = (s.spine (dieOfCluster clu) n).quicken := by
  have hx : ∃ ts, exec (.throttleTick clu temp) s
      = .next { (s.sense clu temp).mapSpines (dieOfCluster clu) SpineFreq.quicken (s.recovering clu) with temps := ts } := by
    show ∃ ts, execThrottleTick clu temp s = _
    simp only [execThrottleTick]
    rw [if_neg (by omega), if_neg (by omega), if_pos (by simp [h, ht])]
    exact ⟨_, rfl⟩
  obtain ⟨ts, hx⟩ := hx
  refine answers_of_exec hx ⟨mapSpines_mem .., fun n hn hth hsp => ?_⟩
  exact (spine_mapSpines (s.sense clu temp) _ _ (nodup_recovering s clu) n).trans (if_pos (mem_recovering hn hth hsp))

/-- Parked domains stand on spine 7 (02 R72, 08 R227, 16 R457). -/
theorem park_spnow (s : State) {ds : List Nat} (hn : ds.Nodup) {n : Nat} (h : n ∈ ds) : tgetD (s.park ds).spnow n 0 = 7 :=
  (tgetD_foldl_tset (7 : BitVec 3) 0 hn s.spnow n).trans (if_pos h)

theorem nodup_domains (clu : Nat) : ((List.range 16).map fun d => clu * 16 + d).Nodup :=
  List.nodup_range.map fun _ _ h => Nat.add_left_cancel h

/-- A cluster trips, and is no target of moves (16 R456). -/
def State.trip (s : State) (clu : Nat) : State :=
  { s with temps := tset s.temps clu { s.tempOf clu with trip := true }
           cooling := (s.cooling ++ [clu]).eraseDups }

theorem trip_tempOf (s : State) (clu : Nat) : ((s.trip clu).tempOf clu).trip = true := congrArg Temp.trip (tgetD_tset_same ..)

/-- The contexts on a cluster that has tripped are moved or pre-empted (08 R227). -/
def State.leaveTripped (s : State) (clu : Nat) : State :=
  { s with ctxs := s.ctxs.map (s.tripCtx clu), victims := (s.victims ++ s.tripVictims clu).eraseDups }

theorem exec_thermalTrip {clu : Nat} {temp : BitVec 12} (s : State) (hc : clu < Config.clusters) (h : 920 ≤ temp.toNat) :
    exec (.thermalTrip clu temp) s
      = .next ((((s.sense clu temp).park ((List.range 16).map fun d => clu * 16 + d)).trip clu).leaveTripped clu) := by
  show execThermalTrip clu temp s = _
  rw [execThermalTrip, if_neg (by simp; omega)]
  rfl

theorem answers_thermalTrip {clu : Nat} {temp : BitVec 12} (s : State) (hc : clu < Config.clusters) (h : 920 ≤ temp.toNat) :
    answers (.thermalTrip clu temp) s fun t => (t.tempOf clu).trip = true ∧ clu ∈ t.cooling ∧ t.mem = s.mem
      ∧ ∀ d, d < 16 → tgetD t.spnow (clu * 16 + d) 0 = 7 := by
  have hx := exec_thermalTrip s hc h
  have hd : ∀ d, d < 16 → clu * 16 + d ∈ (List.range 16).map fun d => clu * 16 + d :=
    fun d h => List.mem_map.2 ⟨d, List.mem_range.2 h, rfl⟩
  generalize hl : ((List.range 16).map fun d => clu * 16 + d) = l at hx hd
  have hn : l.Nodup := hl ▸ nodup_domains clu
  exact answers_of_exec hx ⟨trip_tempOf .., mem_eraseDups_append_self .., rfl, fun d h => park_spnow _ hn (hd d h)⟩

theorem answers_hotClear {clu : Nat} {temp : BitVec 12} (s : State) (hc : clu < Config.clusters) (h : temp.toNat < 760) :
    answers (.hotClear clu temp) s fun t => (t.tempOf clu).hot = false ∧ (temp.toNat < 680 → clu ∉ t.cooling) ∧ t.mem = s.mem := by
  have hx : exec (.hotClear clu temp) s = .next { s.sense clu temp with
      cooling := if temp.toNat < 680 then s.cooling.filter (· != clu) else s.cooling } := by
    show execHotClear clu temp s = _
    rw [execHotClear, if_neg (by simp; omega)]
  refine answers_of_exec hx ⟨?_, fun hl => ?_, rfl⟩
  · exact (congrArg Temp.hot (sense_tempOf s clu temp) :).trans (decide_eq_false (by omega))
  · simp [hl]

theorem answers_coolantFault {flow inlet : Nat} (s : State) (h : flow < 20 ∨ 45 < inlet) :
    answers (.coolantFault flow inlet) s fun t => t.coolantBad = true ∧ t.mem = s.mem
      ∧ ∀ n, n < Config.clusters * 16 → tgetD t.spnow n 0 = 7 := by
  have hx : exec (.coolantFault flow inlet) s = .next { s.park (List.range (Config.clusters * 16)) with coolantBad := true } := by
    show execCoolantFault flow inlet s = _
    rw [execCoolantFault, if_neg (by simpa [coolantPoor, imp_iff_not_or] using h)]
  generalize hl : List.range (Config.clusters * 16) = l at hx
  have hn : l.Nodup := hl ▸ List.nodup_range
  refine answers_of_exec hx ⟨rfl, rfl, fun n h => park_spnow s hn ?_⟩
  rw [← hl]
  exact List.mem_range.2 h

theorem exec_coolantConditionClear {flow inlet : Nat} (s : State) (hf : 20 ≤ flow) (hi : inlet ≤ 45) :
    exec (.coolantConditionClear flow inlet) s = .next { s with coolantBad := false } := by
  show execCoolantConditionClear flow inlet s = _
  rw [execCoolantConditionClear, if_neg (by simp [coolantPoor]; omega)]

/-- Settles O55: each step by its own law. -/
theorem powerAndThermalSteps : Obligations.PowerAndThermalSteps := by
  unfold Obligations.PowerAndThermalSteps
  refine ⟨answers_powerInterval, ?ballast, ?hot, ?throttle, ?recover, ?trip, ?clear, ?coolant, ?flows⟩
  case ballast => exact fun _ _ _ => answers_ballastFiring
  case hot => exact fun _ _ => answers_thermalHot
  case throttle => exact fun _ _ => answers_throttleTick_hot
  case recover => exact fun _ _ => answers_throttleTick_cool
  case trip => exact fun _ _ => answers_thermalTrip
  case clear => exact fun _ _ => answers_hotClear
  case coolant => exact fun _ _ => answers_coolantFault
  case flows => exact fun _ _ => exec_coolantConditionClear

end Sys2Proof.Machine
end

section
/-! PROOFS. What the shares of a context keep through deliveries, faults and writes into scratchpads (03 R87, 08 R213). -/

namespace Sys2Proof.Machine

/-! ### A part of every share -/

/-- A part of each share of a context. -/
def Ctx.each {β : Type} (q : Share → β) (k : Ctx) (l : Nat) : β := q (k.share l)

section
variable {β : Type} {q : Share → β}

theorem each_of_shares {j k : Ctx} (h : j.shares = k.shares) : j.each q = k.each q := by
  funext l
  exact congrArg q (share_of_shares h l)

theorem each_modShare {f : Share → Share} (k : Ctx) (l : Nat) (hl : (f (k.share l)).lcl = l) (hf : q (f (k.share l)) = q (k.share l)) :
    (k.modShare l f).each q = k.each q := by
  funext m
  rw [Ctx.each, share_modShare k l m hl]
  split
  · next h => rw [h, hf]; rfl
  · rfl

/-- A part of the shares without their granules is left by the delivery of a result. -/
theorem beside_each (hq : ∀ h g x, q (Share.setGran h g x) = q h) : Beside (Ctx.each q) where
  enter _ _ _ _ := each_of_shares (shares_enter ..)
  modWv _ _ _ _ := rfl
  paid _ _ _ := rfl
  discards _ _ := rfl
  setGran k l g x := each_modShare k l (f := fun h => h.setGran g x) (share_lcl k l) (hq ..)

theorem each_filled (hq : ∀ h g x, q (Share.setGran h g x) = q h) (k : Ctx) (l g : Nat) : (k.filled l g).each q = k.each q :=
  beside_filled (beside_each hq) k l g

/-- A part without granules, links and queues is left by a fault. -/
theorem each_raise (hq : ∀ h g x, q (Share.setGran h g x) = q h) (hu : ∀ h t gone, q (Share.unlink h t gone) = q h) (k : Ctx)
    (t : ThreadId) (r : FaultRec) : (k.raise t r).each q = k.each q := by
  unfold Ctx.raise
  split
  · rfl
  · split
    · rfl
    · rw [show ∀ j : Ctx, ∀ gone, (j.restoreHolds t gone).each q = j.each q from fun j gone =>
        foldl_keeps (Ctx.each q) (fun k g => each_filled hq ..) _ j]
      funext l
      rcases share_mapShares k (f := fun h => h.unlink t fun w => notOlder r.wave w) (fun _ => rfl) l with h | h
      · exact (congrArg q h).trans (hu ..)
      · exact congrArg q h

end

/-! ### A run of bytes written to a scratchpad (03 R87) -/

theorem settle_keeps {β : Type} {q : Share → β} (hb : ∀ h bs, q { h with bytes := bs } = q h) (h : Share) (g : Nat) :
    q (h.settle g) = q h := by
  unfold Share.settle
  split
  · exact hb ..
  · rfl

theorem settle_wf {h : Share} (gs : List Nat) (hw : Memory.wf h.bytes = true) : Memory.wf (gs.foldl Share.settle h).bytes = true := by
  induction gs generalizing h with
  | nil => exact hw
  | cons g gs ih =>
    refine ih ?_
    unfold Share.settle
    split
    · exact memory_wf_wrN _ _ hw
    · exact hw

/-- The granules that a run of bytes touches. -/
def runGrans (off n : Nat) : List Nat := (List.range ((off + n - 1) / 16 - off / 16 + 1)).map (off / 16 + ·)

/-- A share once a run of bytes lies in it: a WAITING granule that the run touches reads 0 beside it. -/
def Share.written (h : Share) (off : Nat) (bs : List Byte) : Share :=
  { (runGrans off bs.length).foldl Share.settle h with bytes := wrN ((runGrans off bs.length).foldl Share.settle h).bytes off bs }

theorem fillRun_eq (k : Ctx) (l off : Nat) (bs : List Byte) : k.fillRun l off bs
    = (runGrans off bs.length).foldl (fun k g => k.filled l g) (k.modShare l fun h => h.written off bs) := rfl

theorem written_keeps {β : Type} {q : Share → β} (hb : ∀ h bs, q { h with bytes := bs } = q h) (h : Share) (off : Nat)
    (bs : List Byte) : q (h.written off bs) = q h :=
  (hb ..).trans (foldl_keeps q (fun h g => settle_keeps hb h g) _ h)

theorem written_wf {h : Share} (off : Nat) (bs : List Byte) (hw : Memory.wf h.bytes = true) :
    Memory.wf (h.written off bs).bytes = true := memory_wf_wrN _ _ (settle_wf _ hw)

theorem fillRun_bytes (k : Ctx) (l off : Nat) (bs : List Byte) (m : Nat) : ((k.fillRun l off bs).share m).bytes
    = if m = l then ((k.share l).written off bs).bytes else (k.share m).bytes := by
  have hfill : (k.fillRun l off bs).each Share.bytes = (k.modShare l fun h => h.written off bs).each Share.bytes := by
    rw [fillRun_eq]
    exact foldl_keeps (Ctx.each Share.bytes) (fun k g => each_filled (q := Share.bytes) (fun _ _ _ => rfl) ..) _ _
  have hl : ((k.share l).written off bs).lcl = l := (written_keeps (q := Share.lcl) (fun _ _ => rfl) ..).trans (share_lcl k l)
  refine (congrFun hfill m).trans ?_
  rw [Ctx.each, share_modShare k l m hl]
  split <;> rfl

/-- Every scratchpad of a context is in its canonical form. -/
def Ctx.scratchWf (k : Ctx) : Prop := ∀ l, Memory.wf (k.share l).bytes = true

theorem scratchWf_fillRun {k : Ctx} (l off : Nat) (bs : List Byte) (h : k.scratchWf) : (k.fillRun l off bs).scratchWf := by
  intro m
  rw [fillRun_bytes]
  split
  · exact written_wf off bs (h l)
  · exact h m

/-- A byte of a run once it is written. -/
theorem rdN_fillRun {k : Ctx} (l off : Nat) (bs : List Byte) (h : k.scratchWf) :
    rdN ((k.fillRun l off bs).share l).bytes off bs.length = bs := by
  rw [fillRun_bytes, if_pos rfl]
  exact rdN_wrN_same off bs (settle_wf _ (h l))

/-- What holds at the start of a run and is kept by each step holds at its end. -/
theorem foldl_invariant {α β : Type} {P : β → Prop} {f : β → α → β} (hf : ∀ b a, P b → P (f b a)) (l : List α) {b : β}
    (hb : P b) : P (l.foldl f b) := by
  induction l generalizing b with
  | nil => exact hb
  | cons a l ih => exact ih (hf b a hb)

theorem beside_num : Beside Ctx.num where
  enter _ _ _ _ := (congrArg Ctx.num (fixedPart_enter ..) :)
  modWv _ _ _ _ := rfl
  paid _ _ _ := rfl
  discards _ _ := rfl
  setGran _ _ _ _ := rfl

theorem beside_fillRun {β : Type} {p : Ctx → β} (hp : Beside p)
    (hb : ∀ k l off bs, p (Ctx.modShare k l fun h => h.written off bs) = p k) (k : Ctx) (l off : Nat) (bs : List Byte) :
    p (k.fillRun l off bs) = p k := by
  rw [fillRun_eq]
  exact (foldl_keeps p (fun k g => beside_filled hp ..) _ _).trans (hb k l off bs)

theorem each_fillRun {β : Type} {q : Share → β} (hg : ∀ h g x, q (Share.setGran h g x) = q h)
    (hb : ∀ h bs, q { h with bytes := bs } = q h) (k : Ctx) (l off : Nat) (bs : List Byte) : (k.fillRun l off bs).each q = k.each q :=
  beside_fillRun (beside_each hg) (fun k l _ _ => each_modShare k l
    ((written_keeps (q := Share.lcl) (fun _ _ => rfl) ..).trans (share_lcl k l)) (written_keeps hb ..)) k l off bs

theorem scratchWf_of_each {j k : Ctx} (h : j.each Share.bytes = k.each Share.bytes) (hk : k.scratchWf) : j.scratchWf := fun l => by
  have hl : (j.share l).bytes = (k.share l).bytes := congrFun h l
  rw [hl]
  exact hk l

theorem scratchWf_of_canonical {k : Ctx} (h : k.canonical) : k.scratchWf := by
  intro l
  unfold Ctx.share
  split
  · next hl => exact h _ (List.mem_of_find?_eq_some hl)
  · rfl

/-- No reader waits in a scratchpad of a context, and no granule of one is held. -/
def Ctx.vacant (k : Ctx) : Prop := ∀ l g, ((k.share l).gran g).readers = [] ∧ ((k.share l).gran g).hold = none

theorem vacant_of_each {j k : Ctx} (h : j.each Share.grans = k.each Share.grans) (hk : k.vacant) : j.vacant := fun l g => by
  have hl : (j.share l).grans = (k.share l).grans := congrFun h l
  have := hk l g
  unfold Share.gran at this ⊢
  rw [hl]
  exact this

theorem vacant_of_shares {k : Ctx} (h : ∀ h ∈ k.shares, h.grans = []) : k.vacant := by
  intro l g
  have hg : (k.share l).grans = [] := by
    unfold Ctx.share
    split
    · next hl => exact h _ (List.mem_of_find?_eq_some hl)
    · rfl
  unfold Share.gran
  rw [hg]
  exact ⟨rfl, rfl⟩

theorem wordFree_of_vacant {k : Ctx} (h : k.vacant) (l off : Nat) : (k.share l).wordFree off = true := by
  simp [Share.wordFree, Share.heldRun, h l]

/-- A granule that nobody waits for is filled and answers nobody. -/
theorem filled_unread {k : Ctx} (l g : Nat) (h : ((k.share l).gran g).readers = []) : k.filled l g
    = k.setShare ((k.share l).setGran g { (k.share l).gran g with st := 1, readers := [], hold := none }) := by
  simp only [Ctx.filled, h]
  rfl

theorem vacant_filled {k : Ctx} (l g : Nat) (h : k.vacant) : (k.filled l g).vacant := by
  intro m x
  rw [filled_unread l g (h l g).1, share_setShare]
  split
  · rw [gran_setGran]
    split
    · exact ⟨rfl, rfl⟩
    · exact h l x
  · exact h m x

theorem vacant_fillRun {k : Ctx} (l off : Nat) (bs : List Byte) (h : k.vacant) : (k.fillRun l off bs).vacant := by
  rw [fillRun_eq]
  refine foldl_invariant (fun _ g => vacant_filled l g) _ (vacant_of_each (each_modShare k l ?_ ?_) h)
  · exact (written_keeps (q := Share.lcl) (fun _ _ => rfl) ..).trans (share_lcl k l)
  · exact written_keeps (q := Share.grans) (fun _ _ => rfl) ..

/-! ### Pulses, rings and domains beside the rest of a share -/

theorem pulseKind_keeps {β : Type} {q : Share → β} (hc : ∀ h c, q { h with chime := c } = q h) (h : Share) (kind unit : Nat) :
    q (h.pulseKind kind unit) = q h := foldl_keeps q (f := fun (h : Share) (e : Nat × BitVec 32) => h.pulse e.1) (fun h _ => hc h _) _ h

theorem ringTail_keeps {β : Type} {q : Share → β} (hc : ∀ h c, q { h with chime := c } = q h)
    (hr : ∀ h n r, q (Share.setRing h n r) = q h) (h : Share) (n by_ : Nat) : q (h.ringTail n by_) = q h := by
  unfold Share.ringTail
  dsimp only
  split
  · rw [pulseKind_keeps hc, hr]
  · exact hr ..

theorem each_charge {β : Type} {q : Share → β} (k : Ctx) (u c e : Nat) : (k.charge u c e).each q = k.each q := rfl

theorem each_modDom {β : Type} {q : Share → β} (hd : ∀ h d x, q (Share.setDom h d x) = q h) (k : Ctx) (l d : Nat) (f : Dom → Dom) :
    (k.modDom l d f).each q = k.each q :=
  each_modShare k l (f := fun h => h.setDom d (f (h.dom d))) (share_lcl k l) (hd ..)

theorem each_modeFall {β : Type} {q : Share → β} (hd : ∀ h d x, q (Share.setDom h d x) = q h) (k : Ctx) (l d : Nat) :
    (k.modeFall l d).each q = k.each q := by
  unfold Ctx.modeFall
  dsimp only
  split
  · exact each_modShare k l (f := fun h => h.setDom d { h.dom d with mode := false }) (share_lcl k l) (hd ..)
  · rfl

theorem each_pulseEngine {β : Type} {q : Share → β} (hc : ∀ h c, q { h with chime := c } = q h) (k : Ctx) (l n : Nat) :
    (k.modShare l fun h => h.pulseEngine n).each q = k.each q := by
  refine each_modShare k l ?_ ?_ <;> unfold Share.pulseEngine <;> split
  · exact share_lcl k l
  · exact share_lcl k l
  · exact hc ..
  · rfl

end Sys2Proof.Machine
end

section
/-! PROOFS. The state that refutes `Obligations.MatrixAndEngineSteps`: a share whose table of domains is out of order, which the
statement does not exclude, and in which the release of a tile ends another command than the one it looked up. -/

namespace Sys2Proof.Machine

/-- An MMA of wave 0 that waits for the release of tile 0 of domain 3, with its completion word at an offset. -/
def awaitsRelease (cwoff : Nat) : DomCmd :=
  { act := .mma, x := default, a := BitVec.ofNat 128 (cwoff * 2 ^ 96), b := 0, cfv := 0, thread := 0, born := 0, wave := 0, blk := 0,
    slot := 0, done := 0, accepted := true, cls := 1, turn := true, cancel := false, hold := false, rel := [(3, 0)], fin := none,
    lcl := 0 }

/-- Domain 5 stands before domain 3 in the table, the queue of each holds a command that waits for the release of tile 0 of domain 3,
which is due, and row 0 of the ring it goes to lies where the command of domain 3 has its completion word. -/
def outOfOrder : State :=
  let s := State.reset.withWords ⟨0x01000102#32, 0, 0, 0⟩
  { s with ctxs := s.ctxs.map fun k => { k with shares := [{ Share.fresh 0 with
      rings := [(0, BitVec.ofNat 128 (2 ^ 63 + 23 * 2 ^ 35))]
      doms := [(5, { Dom.zero with queue := [awaitsRelease 4096] }), (3, { Dom.zero with queue := [awaitsRelease 0], dues := [0] })] }] } }

/-- Context 0 of that state. -/
def outOfOrderCtx : Ctx := (outOfOrder.ctx 0).getD default

theorem outOfOrder_active : outOfOrder.active 0 = some outOfOrderCtx := by decide +kernel

/-- The release is due, and the command of domain 5 is the one that is found to have completed the tile. -/
theorem outOfOrder_due : 0 ∈ (outOfOrderCtx.dom 0 3).dues ∧ outOfOrderCtx.matrixStill 0 = false ∧ (outOfOrderCtx.dom 0 3).cfg 0 = 0
    ∧ (outOfOrderCtx.share 0).completing 3 0 = some (5, awaitsRelease 4096)
    ∧ rValid ((outOfOrderCtx.share 0).ring 0) = true ∧ 384 ≤ rRow ((outOfOrderCtx.share 0).ring 0)
    ∧ (outOfOrderCtx.share 0).takesTile 0 = true := by decide +kernel

theorem outOfOrder_vacant : outOfOrderCtx.vacant := vacant_of_shares (by decide +kernel)

/-- The ring can take the tile, and its rows lie apart from the completion word of that command. -/
theorem outOfOrder_fits : (outOfOrderCtx.share 0).tileFits 0 4096 := by
  obtain ⟨-, -, -, -, -, hrow, htakes⟩ := outOfOrder_due
  exact ⟨htakes, hrow, by decide +kernel, fun g => (outOfOrder_vacant 0 g).1, by decide +kernel⟩

/-! ### The bytes of scratchpads beside a command's completion word (14 R369, R379) -/

/-- A command of a domain that can end leaves its completion word. -/
theorem rdN_endDom {k : Ctx} (l d : Nat) (c : DomCmd) (e : BitVec 8 × BitVec 24) (hk : k.scratchWf)
    (hfree : (k.share c.lcl).wordFree c.cwoff = true) :
    rdN ((k.endDom l d c e).share c.lcl).bytes c.cwoff 8 = wordOf e.1 e.2 c.done := by
  have hlen : (wordOf e.1 e.2 c.done).length = 8 := by simp [wordOf, length_leBytes]
  unfold Ctx.endDom
  dsimp only
  rw [if_pos hfree]
  generalize hk0 : (if c.hold then k.paid c.thread c.wave else k) = k0
  have hb0 : k0.each Share.bytes = k.each Share.bytes := by
    rw [← hk0]
    split <;> rfl
  have hwf : (k0.modDom l d fun q => { q with queue := dropFirst (· == c) q.queue }).scratchWf :=
    scratchWf_of_each ((each_modDom (fun _ _ _ => rfl) ..).trans hb0) hk
  generalize (k0.modDom l d fun q => { q with queue := dropFirst (· == c) q.queue }) = k1 at hwf ⊢
  have hword := rdN_fillRun c.lcl c.cwoff (wordOf e.1 e.2 c.done) hwf
  rw [hlen] at hword
  generalize k1.fillRun c.lcl c.cwoff (wordOf e.1 e.2 c.done) = k2 at hword ⊢
  have hpulse (b : Bool) : (if b then (k2.charge (k.phys c.lcl) 2 0).modShare c.lcl fun h => h.pulseEngine c.x.chin.toNat
      else k2.charge (k.phys c.lcl) 2 0).each Share.bytes = k2.each Share.bytes := by
    split
    · exact each_pulseEngine (fun _ _ => rfl) ..
    · rfl
  have hbytes := congrFun ((each_modeFall (q := Share.bytes) (fun _ _ _ => rfl) _ l d).trans 
    (hpulse (c.x.chen && (c.act == .wload || c.act == .mma || c.act == .mmasp)))) c.lcl
  exact (congrArg (rdN · c.cwoff 8) hbytes).trans hword

/-! ### A tile appended to a ring (14 R381) -/

/-- Row i of a tile appended to a ring, followed by zeros (14 R381). -/
def Ctx.appendRow (k : Ctx) (l : Nat) (r : Ring) (es : List (BitVec 64)) (i : Nat) : Ctx :=
  (k.fillRun l (rOff r (rTail r + i)) (tileRow es i ++ List.replicate (rRow r - 384) 0)).charge (k.phys l) 2 0

/-- Rows of a tile appended one after the other. -/
def Ctx.appendRows (k : Ctx) (l : Nat) (r : Ring) (es : List (BitVec 64)) (rows : List Nat) : Ctx :=
  rows.foldl (fun j i => j.appendRow l r es i) k

theorem appendTile_eq (k : Ctx) (l n : Nat) (es : List (BitVec 64)) : k.appendTile l n es
    = (k.appendRows l ((k.share l).ring n) es (List.range 8)).modShare l fun h => h.ringTail n 8 := rfl

section
variable (k : Ctx) (l : Nat) (r : Ring) (es : List (BitVec 64)) (rows : List Nat)

theorem doms_appendRows : (k.appendRows l r es rows).each Share.doms = k.each Share.doms :=
  foldl_keeps (Ctx.each Share.doms) (f := fun j i => Ctx.appendRow j l r es i)
    (fun k _ => each_fillRun (fun _ _ _ => rfl) (fun _ _ => rfl) k ..) rows k

theorem num_appendRows : (k.appendRows l r es rows).num = k.num :=
  foldl_keeps Ctx.num (f := fun j i => Ctx.appendRow j l r es i)
    (fun k _ => beside_fillRun beside_num (fun _ _ _ _ => rfl) k ..) rows k

variable {k}

theorem scratchWf_appendRows (hk : k.scratchWf) : (k.appendRows l r es rows).scratchWf :=
  foldl_invariant (P := Ctx.scratchWf) (f := fun j i => Ctx.appendRow j l r es i) (fun _ _ => scratchWf_fillRun l _ _) rows hk

theorem vacant_appendRows (hk : k.vacant) : (k.appendRows l r es rows).vacant :=
  foldl_invariant (P := Ctx.vacant) (f := fun j i => Ctx.appendRow j l r es i) (fun _ _ => vacant_fillRun l _ _) rows hk

end

/-- A part of the shares that a change of TAIL and of pulses leaves has after a tile is appended what its rows left. -/
theorem each_appendTile {β : Type} {q : Share → β} (hc : ∀ h c, q { h with chime := c } = q h)
    (hr : ∀ h n r, q (Share.setRing h n r) = q h) (k : Ctx) (l n : Nat) (es : List (BitVec 64)) : (k.appendTile l n es).each q
      = (k.appendRows l ((k.share l).ring n) es (List.range 8)).each q :=
  each_modShare _ l ((ringTail_keeps (q := Share.lcl) (fun _ _ => rfl) (fun _ _ _ => rfl) ..).trans (share_lcl ..))
    (ringTail_keeps hc hr ..)

theorem doms_appendTile (k : Ctx) (l n : Nat) (es : List (BitVec 64)) : (k.appendTile l n es).each Share.doms = k.each Share.doms :=
  (each_appendTile (fun _ _ => rfl) (fun _ _ _ => rfl) ..).trans (doms_appendRows ..)

theorem num_appendTile (k : Ctx) (l n : Nat) (es : List (BitVec 64)) : (k.appendTile l n es).num = k.num := by
  rw [appendTile_eq, Ctx.modShare_num, num_appendRows]

theorem scratchWf_appendTile {k : Ctx} (l n : Nat) (es : List (BitVec 64)) (hk : k.scratchWf) : (k.appendTile l n es).scratchWf :=
  scratchWf_of_each (each_appendTile (fun _ _ => rfl) (fun _ _ _ => rfl) ..) (scratchWf_appendRows _ _ _ _ hk)

theorem vacant_appendTile {k : Ctx} (l n : Nat) (es : List (BitVec 64)) (hk : k.vacant) : (k.appendTile l n es).vacant :=
  vacant_of_each (each_appendTile (fun _ _ => rfl) (fun _ _ _ => rfl) ..) (vacant_appendRows _ _ _ _ hk)

theorem num_endDom (k : Ctx) (l d : Nat) (c : DomCmd) (e : BitVec 8 × BitVec 24) : (k.endDom l d c e).num = k.num := by
  have hpaid : (if c.hold then k.paid c.thread c.wave else k).num = k.num := by split <;> rfl
  unfold Ctx.endDom
  dsimp only
  split
  · rw [num_modeFall]
    split <;> exact (beside_fillRun beside_num (fun _ _ _ _ => rfl) ..).trans hpaid
  · exact hpaid

/-! ### A release to a ring -/

/-- The ring that a tile's release goes to. -/
def cfRing (cf : BitVec 64) : Nat := (cfTgt cf).toNat % 32

/-- A tile whose release has been made: no longer due, its count begun anew, and cleared unless it is held (02 R60). -/
def Dom.freed (x : Dom) (tile : Nat) (cf : BitVec 64) (keep : Bool) : Dom :=
  let y := { x.setCfg tile (cfSetSeen cf 0) with dues := (x.setCfg tile (cfSetSeen cf 0)).dues.filter (· != tile) }
  if keep then y else y.setTile tile (List.replicate 384 0)

/-- A context in whose ring a tile stands, its release still to be dealt with (14 R379). -/
def Ctx.freedTo (k : Ctx) (l d tile : Nat) (q : DomCmd) : Ctx :=
  ((k.appendTile q.lcl (cfRing ((k.dom l d).cfg tile)) ((k.dom l d).tile tile)).modDom l d fun x =>
    x.freed tile ((k.dom l d).cfg tile) (cfHold ((k.dom l d).cfg tile) || q.holdElems)).charge (k.phys l) 0 2

theorem exec_releaseToRing {c : CtxId} {l d tile dq : Nat} {s : State} {k : Ctx} {q : DomCmd} (hk : s.active c = some k)
    (hdue : tile ∈ (k.dom l d).dues) (hstill : k.matrixStill l = false) (hwho : (k.share l).completing d tile = some (dq, q))
    (htk : cfTk ((k.dom l d).cfg tile) = false) (hvalid : rValid ((k.share q.lcl).ring (cfRing ((k.dom l d).cfg tile))) = true)
    (hrow : 384 ≤ rRow ((k.share q.lcl).ring (cfRing ((k.dom l d).cfg tile))))
    (htakes : (k.share q.lcl).takesTile (cfRing ((k.dom l d).cfg tile)) = true) :
    exec (.accumulatorRelease c l d tile) s = .next (s.setCtx ((k.freedTo l d tile q).released l d tile false)) := by
  have hdue : (!(k.dom l d).dues.contains tile || k.matrixStill l) = false := by
    rw [hstill, List.contains_iff_mem.2 hdue]
    rfl
  unfold cfRing at hvalid hrow htakes
  refine congrArg _ ((modActive_some hk).trans (congrArg _ ?_))
  simp only [hwho, Option.map_some, Option.getD_some]
  rw [hdue, if_neg (by decide), if_neg (by simp [hvalid, hrow]), if_neg (by simp [htakes]), htk]
  rfl

/-- The state's release goes to the ring. -/
theorem exec_outOfOrder : exec (.accumulatorRelease 0 0 3 0) outOfOrder
    = .next (outOfOrder.setCtx ((outOfOrderCtx.freedTo 0 3 0 (awaitsRelease 4096)).released 0 3 0 false)) := by
  obtain ⟨hdue, hstill, hcfg, hwho, hvalid, hrow, htakes⟩ := outOfOrder_due
  have hring : cfRing ((outOfOrderCtx.dom 0 3).cfg 0) = 0 := by rw [hcfg]; decide
  refine exec_releaseToRing outOfOrder_active hdue hstill hwho (by rw [hcfg]; decide) ?_ ?_ ?_ <;> rw [hring]
  · exact hvalid
  · exact hrow
  · exact htakes

/-- The last release a command waits for ends it. -/
theorem released_last {k : Ctx} {l d tile dq : Nat} {q : DomCmd} (hwho : (k.share l).completing d tile = some (dq, q))
    (hrel : q.rel.filter (· != (d, tile)) = []) (hfin : q.fin = none) : k.released l d tile false
      = (k.modDom l dq fun x => { x with queue := updFirst (· == q) (fun _ => { q with rel := [] }) x.queue }).endDom l dq
          { q with rel := [] } (1, 0) := by
  unfold Ctx.released
  simp only [hwho, hrel, hfin]
  rfl

theorem scratchWf_freedTo {k : Ctx} (l d tile : Nat) (q : DomCmd) (hk : k.scratchWf) : (k.freedTo l d tile q).scratchWf :=
  scratchWf_of_each (k := k.appendTile ..)
    ((each_charge ..).trans (each_modDom (fun _ _ _ => rfl) (k.appendTile q.lcl (cfRing ((k.dom l d).cfg tile)) ((k.dom l d).tile tile)) l d _))
    (scratchWf_appendTile _ _ _ hk)

/-! ### The refutation -/

/-- The release leaves the domains of its share but the tile's own. -/
theorem freedTo_doms (k : Ctx) (l d tile : Nat) (q : DomCmd) : ((k.freedTo l d tile q).share l).doms
    = tset (k.share l).doms d ((k.dom l d).freed tile ((k.dom l d).cfg tile) (cfHold ((k.dom l d).cfg tile) || q.holdElems)) := by
  have h := congrFun (doms_appendTile k q.lcl (cfRing ((k.dom l d).cfg tile)) ((k.dom l d).tile tile)) l
  unfold Ctx.freedTo Ctx.modDom
  rw [share_charge, share_modShare_same _ l (share_lcl _ l)]
  generalize k.appendTile q.lcl (cfRing ((k.dom l d).cfg tile)) ((k.dom l d).tile tile) = k1 at h ⊢
  have hd : (k1.share l).doms = (k.share l).doms := h
  simp only [Share.setDom, Share.dom, hd]
  rfl

theorem num_freedTo (k : Ctx) (l d tile : Nat) (q : DomCmd) : (k.freedTo l d tile q).num = k.num := by
  unfold Ctx.freedTo
  rw [Ctx.charge_num, Ctx.modDom_num, num_appendTile]

theorem vacant_freedTo {k : Ctx} (l d tile : Nat) (q : DomCmd) (hk : k.vacant) : (k.freedTo l d tile q).vacant :=
  vacant_of_each (k := k.appendTile ..)
    ((each_charge ..).trans (each_modDom (fun _ _ _ => rfl) (k.appendTile q.lcl (cfRing ((k.dom l d).cfg tile)) ((k.dom l d).tile tile)) l d _))
    (vacant_appendTile _ _ _ hk)

/-- Now the command of domain 3 is the one that is found, and its completion word can be written. -/
theorem freedTo_completing : ((outOfOrderCtx.freedTo 0 3 0 (awaitsRelease 4096)).share 0).completing 3 0 = some (3, awaitsRelease 0)
    ∧ ((outOfOrderCtx.freedTo 0 3 0 (awaitsRelease 4096)).share 0).wordFree 0 = true := by
  refine ⟨?_, wordFree_of_vacant (vacant_freedTo 0 3 0 _ outOfOrder_vacant) 0 0⟩
  unfold Share.completing
  rw [freedTo_doms]
  decide +kernel

/-- The completion word of the command of domain 3 stands where row 0 of the tile should. -/
theorem outOfOrder_overwrites :
    rdN ((((outOfOrderCtx.freedTo 0 3 0 (awaitsRelease 4096)).released 0 3 0 false).share 0)).bytes 0 8 = wordOf 1 0 0 := by
  obtain ⟨hwho, hfree⟩ := freedTo_completing
  have hwf : outOfOrderCtx.scratchWf := scratchWf_of_canonical (by unfold Ctx.canonical; decide +kernel)
  have hgrans : (((outOfOrderCtx.freedTo 0 3 0 (awaitsRelease 4096)).modDom 0 3 fun x => { x with
      queue := updFirst (· == awaitsRelease 0) (fun _ => { awaitsRelease 0 with rel := [] }) x.queue }).share 0).wordFree 0
      = ((outOfOrderCtx.freedTo 0 3 0 (awaitsRelease 4096)).share 0).wordFree 0 :=
    congrFun (each_modDom (q := fun h => h.wordFree 0) (fun _ _ _ => rfl) _ 0 3 _) 0
  rw [released_last hwho (by decide) rfl]
  exact rdN_endDom 0 3 { awaitsRelease 0 with rel := [] } (1, 0)
    (scratchWf_of_each (each_modDom (q := Share.bytes) (fun _ _ _ => rfl) ..) (scratchWf_freedTo 0 3 0 _ hwf)) (hgrans.trans hfree)

/-- The tile released is all zero, and row 0 of its ring lies at offset 0. -/
theorem outOfOrder_tile : (outOfOrderCtx.dom 0 3).tile 0 = List.replicate 384 0
    ∧ rOff ((outOfOrderCtx.share 0).ring 0) (rTail ((outOfOrderCtx.share 0).ring 0)) = 0 := by decide +kernel

theorem outOfOrder_num : ((outOfOrderCtx.freedTo 0 3 0 (awaitsRelease 4096)).released 0 3 0 false).num = 0 := by
  rw [released_last freedTo_completing.1 (by decide) rfl, num_endDom]
  rw [Ctx.modDom_num, num_freedTo, active_num outOfOrder_active]

/-- Refutes O58: a released tile need not stand in its ring. A change of a domain puts its entry before those of higher numbers, so
where the table of domains is not in order, the command found before the change to have completed the tile is not the one that ends
with it, and the completion word of the latter may overwrite the row. The machine itself keeps its tables in order, but the statement
is about every state. -/
theorem not_matrixAndEngineSteps : ¬ Obligations.MatrixAndEngineSteps := by
  unfold Obligations.MatrixAndEngineSteps
  rintro ⟨-, -, -, -, hrelease, -⟩
  obtain ⟨hdue, hstill, hcfg, hwho, hvalid, hrow, htakes⟩ := outOfOrder_due
  obtain ⟨htile, hoff⟩ := outOfOrder_tile
  obtain ⟨t, ht, -, j, hj, -, -, -, -, hring, -⟩ :=
    hrelease 0 0 3 0 5 outOfOrder _ _ _ outOfOrder_active hdue hstill hcfg hwho (.inr ⟨hvalid, hrow, htakes⟩)
  have hj' : j = (outOfOrderCtx.freedTo 0 3 0 (awaitsRelease 4096)).released 0 3 0 false := by
    rw [exec_outOfOrder] at ht
    cases ht
    rw [ctx_setCtx (active_ctx outOfOrder_active).1 outOfOrder_num] at hj
    exact (Option.some.inj hj).symm
  obtain ⟨hholds, -⟩ := hring (by decide) outOfOrder_fits
  obtain ⟨hfirst, -⟩ := hholds 0 (by decide)
  have hzero : rdN (j.share 0).bytes (rOff ((outOfOrderCtx.share 0).ring 0) (rTail ((outOfOrderCtx.share 0).ring 0))) 8
      = leBytes 8 (((outOfOrderCtx.dom 0 3).tile 0).getD 0 0).toNat := hfirst 0 (by decide)
  rw [hoff, htile, hj', outOfOrder_overwrites] at hzero
  exact absurd hzero (by decide)

end Sys2Proof.Machine
end

section
/-! PROOFS. The chime matrix of a cluster and its drums (02 R61, R62, 06 R180 to R184). -/

namespace Sys2Proof.Machine

/-! ### The counters of a chime matrix (06 R181) -/

theorem ctIn_ctSet (e : BitVec 64) (n : Nat) : ctIn (ctSet e n) = ctIn e := by
  refine congrArg BitVec.toNat (BitVec.eq_of_getLsbD_eq fun i hi => ?_)
  simp only [ctSet, BitVec.getLsbD_extractLsb', BitVec.getLsbD_append]
  simp [show 10 + i < 40 by omega]

/-- Fewer pulses than a counter still waits for only count it down. -/
theorem ctTake_below (reload : Nat) {m n : Nat} (fired : Nat) (h : m < n) : ctTake reload m (n, fired) = (n - m, fired) := by
  induction m generalizing n with
  | zero => rfl
  | succ m ih =>
    rw [ctTake, if_neg (by dsimp only; omega), ih (by omega), Nat.sub_sub, Nat.add_comm 1 m]

/-- A counter after the pulses of its source. -/
def ctAfter (ps : List Nat) (e : BitVec 64) : BitVec 64 :=
  if ctOn e then ctSet e (ctTake (ctReload e) (ps.filter (· == ctIn e)).length
    (if ctCount e = 0 then (ctReload e, 1) else (ctCount e, 0))).1 else e

theorem ctAfter_below {ps : List Nat} {e : BitVec 64} (hon : ctOn e = true) (h : (ps.filter (· == ctIn e)).length < ctCount e) :
    ctAfter ps e = ctSet e (ctCount e - (ps.filter (· == ctIn e)).length) := by
  rw [ctAfter, if_pos hon, if_neg (by omega), ctTake_below _ _ h]

/-- What a chime matrix has pulsing and counting. -/
def Chime.counting (c : Chime) : List Nat × Tab (BitVec 64) := (c.pulses, c.ctrs)

theorem count_counts (c : Chime) (n : Nat) (ps : List Nat) : (c.count n ps).1.pulses = c.pulses ∧ ∀ m,
    tgetD (c.count n ps).1.ctrs m 0 = if m = n then ctAfter ps (tgetD c.ctrs m 0) else tgetD c.ctrs m 0 := by
  unfold Chime.count ctAfter
  dsimp only
  split
  · next h =>
    have hoff : ¬ ctOn (tgetD c.ctrs n 0) = true := by simpa using h
    refine ⟨rfl, fun m => ?_⟩
    split
    · next hm => rw [hm, if_neg hoff]
    · rfl
  · next h =>
    have hon : ctOn (tgetD c.ctrs n 0) = true := by simpa using h
    refine ⟨rfl, fun m => ?_⟩
    dsimp only
    rw [tgetD_tset]
    split
    · next hm => rw [hm, if_pos hon]
    · rfl

/-- The pulses of an evaluation counted by some counters. -/
def Chime.countAll (ps : List Nat) (q : Chime × List Nat) (ns : List Nat) : Chime × List Nat :=
  ns.foldl (fun q n => ((q.1.count n ps).1, q.2 ++ (q.1.count n ps).2)) q

theorem countAll_counts (ps : List Nat) (q : Chime × List Nat) {ns : List Nat} (hn : ns.Nodup) (hq : q.1.pulses = []) :
    (Chime.countAll ps q ns).1.pulses = [] ∧ ∀ m, tgetD (Chime.countAll ps q ns).1.ctrs m 0
      = if m ∈ ns then ctAfter ps (tgetD q.1.ctrs m 0) else tgetD q.1.ctrs m 0 :=
  foldl_entries (f := fun q n => ((q.1.count n ps).1, q.2 ++ (q.1.count n ps).2)) (g := fun _ => ctAfter ps)
    (v := fun q m => tgetD q.1.ctrs m 0) (keep := fun q => q.1.pulses = [])
    (fun q n hq => ⟨(count_counts q.1 n ps).1.trans hq, (count_counts q.1 n ps).2⟩) hn q hq

theorem counting_product (c : Chime) (t p : Nat) (ps : List Nat) : (c.product t p ps).1.counting = c.counting := by
  unfold Chime.product
  dsimp only
  split <;> rfl

theorem counting_term (q : Chime × List Nat) (t : Nat) : (Chime.term q t).1.counting = q.1.counting :=
  foldl_keeps (fun r : Chime × Bool => r.1.counting)
    (f := fun r p => ((r.1.product t p q.2).1, r.2 || (r.1.product t p q.2).2)) (fun r p => counting_product r.1 t p q.2) _ _

/-- A counter that no term feeds is left by what the terms pulsed. -/
theorem countTerm_fed {c : Chime} (ps : List Nat) (n m : Nat) (h : ctIn (tgetD c.ctrs m 0) < 48) :
    (c.countTerm ps n).pulses = c.pulses ∧ tgetD (c.countTerm ps n).ctrs m 0 = tgetD c.ctrs m 0 := by
  unfold Chime.countTerm
  dsimp only
  split
  · next hn =>
    refine ⟨rfl, tgetD_tset_other _ _ _ fun hm => ?_⟩
    subst hm
    have hfed : 48 ≤ ctIn (tgetD c.ctrs m 0) := by
      have := (Bool.and_eq_true_iff.1 (Bool.and_eq_true_iff.1 hn).1).2
      exact of_decide_eq_true this
    omega
  · exact ⟨rfl, rfl⟩

/-- A matrix once the terms have pulsed and fed some counters. -/
def Chime.termed (q : Chime × List Nat) (ts ns : List Nat) : Chime :=
  ns.foldl (fun c n => c.countTerm (ts.foldl Chime.term q).2 n) (ts.foldl Chime.term q).1

theorem termed_counts (q : Chime × List Nat) (ts ns : List Nat) : (Chime.termed q ts ns).pulses = q.1.pulses
    ∧ ∀ m, ctIn (tgetD q.1.ctrs m 0) < 48 → tgetD (Chime.termed q ts ns).ctrs m 0 = tgetD q.1.ctrs m 0 := by
  have hterms : (ts.foldl Chime.term q).1.counting = q.1.counting :=
    foldl_keeps (fun q : Chime × List Nat => q.1.counting) counting_term ts q
  have hctrs : (ts.foldl Chime.term q).1.ctrs = q.1.ctrs := congrArg Prod.snd hterms
  unfold Chime.termed
  constructor
  · refine Eq.trans ?_ (congrArg Prod.fst hterms)
    refine foldl_keeps Chime.pulses (fun c n => ?_) ns _
    unfold Chime.countTerm
    dsimp only
    split <;> rfl
  · intro m hm
    rw [← hctrs] at hm ⊢
    exact (foldl_invariant (P := fun c : Chime => ctIn (tgetD c.ctrs m 0) < 48
        ∧ tgetD c.ctrs m 0 = tgetD (ts.foldl Chime.term q).1.ctrs m 0)
      (fun c n ⟨hlow, hsame⟩ => by
        obtain ⟨-, hc⟩ := countTerm_fed (c := c) (ts.foldl Chime.term q).2 n m hlow
        rw [hc]
        exact ⟨hlow, hsame⟩) ns ⟨hm, rfl⟩).2

theorem evaluate_eq (c : Chime) : c.evaluate.1
    = Chime.termed (Chime.countAll c.pulses ({ c with pulses := [] }, c.pulses) (List.range 16)) (List.range 15) (List.range 16) := rfl

/-- An evaluation takes every pulse, and a counter of a source below the terms counts those of its own. -/
theorem evaluate_counts (c : Chime) : c.evaluate.1.pulses = [] ∧ ∀ n, n < 16 → ctIn (tgetD c.ctrs n 0) < 48 →
    tgetD c.evaluate.1.ctrs n 0 = ctAfter c.pulses (tgetD c.ctrs n 0) := by
  rw [evaluate_eq]
  obtain ⟨hp, hc⟩ := countAll_counts c.pulses ({ c with pulses := [] }, c.pulses) (List.nodup_range (n := 16)) rfl
  generalize Chime.countAll c.pulses ({ c with pulses := [] }, c.pulses) (List.range 16) = q at hp hc ⊢
  obtain ⟨htp, htc⟩ := termed_counts q (List.range 15) (List.range 16)
  refine ⟨htp.trans hp, fun n hn he => ?_⟩
  have hn' : tgetD q.1.ctrs n 0 = ctAfter c.pulses (tgetD c.ctrs n 0) := (hc n).trans (if_pos (List.mem_range.2 hn))
  have hin : ctIn (ctAfter c.pulses (tgetD c.ctrs n 0)) < 48 := by
    unfold ctAfter
    split
    · rwa [ctIn_ctSet]
    · exact he
  rw [htc n (hn' ▸ hin), hn']

/-! ### What an evaluation starts (06 R183, 14 R395) -/

/-- What the chime matrix of a share has pulsing and counting. -/
def Share.counting (h : Share) : List Nat × Tab (BitVec 64) := h.chime.counting

theorem chime_of_counting {h : Share} {c : Chime} (hc : h.counting = c.counting) : h.chime.pulses = c.pulses ∧ h.chime.ctrs = c.ctrs :=
  ⟨congrArg Prod.fst hc, congrArg Prod.snd hc⟩

theorem startOut_keeps (ps : List Nat) (h : Share) (i : Nat) :
    (h.startOut ps i).lcl = h.lcl ∧ (h.startOut ps i).counting = h.counting := by
  unfold Share.startOut
  dsimp only
  split
  · exact ⟨rfl, rfl⟩
  · split
    · exact ⟨foldl_keeps Share.lcl (f := fun (h : Share) _ => h.startArm _) (fun _ _ => rfl) _ h,
        foldl_keeps Share.counting (f := fun (h : Share) _ => h.startArm _) (fun _ _ => rfl) _ h⟩
    all_goals exact ⟨rfl, rfl⟩

theorem each_injectFault {β : Type} {q : Share → β} (hq : ∀ h g x, q (Share.setGran h g x) = q h)
    (hu : ∀ h t gone, q (Share.unlink h t gone) = q h) (k : Ctx) (i : Inject) (t : ThreadId) (w : WaveId) (b : Addr)
    (origin : BitVec 8) (unit : Nat) : (k.injectFault i t w b origin unit).each q = k.each q := by
  unfold Ctx.injectFault
  split
  · exact each_raise hq hu ..
  · exact each_raise hq hu ..
  · rfl

theorem num_injectFault (k : Ctx) (i : Inject) (t : ThreadId) (w : WaveId) (b : Addr) (origin : BitVec 8) (unit : Nat) :
    (k.injectFault i t w b origin unit).num = k.num := by
  have hraise (t : ThreadId) (r : FaultRec) : (k.raise t r).num = k.num := (congrArg Ctx.num (fixedPart_raise k t r) :)
  unfold Ctx.injectFault
  split
  · exact hraise ..
  · exact hraise ..
  · rfl

/-- A share takes the place of its cluster's with a part of it unchanged. -/
theorem each_setShare {β : Type} {q : Share → β} (k : Ctx) {l : Nat} (h : Share) (hl : h.lcl = l) (hq : q h = q (k.share l)) :
    (k.setShare h).each q = k.each q := each_modShare (f := fun _ => h) k l hl hq

theorem num_enter (k : Ctx) (a : Arrived) (src : Src) (inside : Bool) : (k.enter a src inside).num = k.num :=
  (congrArg Ctx.num (fixedPart_enter ..) :)

theorem injectDue_keeps (l : Nat) (k : Ctx) (i : Nat) : (Ctx.injectDue l k i).num = k.num
    ∧ (Ctx.injectDue l k i).each Share.counting = k.each Share.counting := by
  unfold Ctx.injectDue
  dsimp only
  split
  · exact ⟨rfl, each_setShare k _ (share_lcl k l) rfl⟩
  · split
    · exact ⟨rfl, rfl⟩
    · split
      · exact ⟨rfl, rfl⟩
      · exact ⟨num_enter .., (each_of_shares (shares_enter ..)).trans (each_setShare k _ (share_lcl k l) rfl)⟩
    · exact ⟨num_injectFault ..,
        (each_injectFault (fun _ _ _ => rfl) (fun _ _ _ => rfl) ..).trans (each_setShare k _ (share_lcl k l) rfl)⟩

/-- A share once its pulses have been evaluated and have started what some out entries name. -/
def Share.evaluated (h : Share) (is : List Nat) : Share :=
  is.foldl (fun h' i => h'.startOut h.chime.evaluate.2 i) { h with chime := h.chime.evaluate.1 }

theorem evaluated_keeps (h : Share) (is : List Nat) : (h.evaluated is).lcl = h.lcl
    ∧ (h.evaluated is).counting = h.chime.evaluate.1.counting :=
  ⟨foldl_keeps Share.lcl (f := fun h' i => Share.startOut h' h.chime.evaluate.2 i) (fun h' i => (startOut_keeps _ h' i).1) is _,
    foldl_keeps Share.counting (f := fun h' i => Share.startOut h' h.chime.evaluate.2 i) (fun h' i => (startOut_keeps _ h' i).2) is _⟩

/-- A context whose share h has injections that are due, each of them made or left waiting. -/
def Ctx.injectAll (k : Ctx) (l : Nat) (h : Share) : Ctx := h.chime.due.foldl (Ctx.injectDue l) (k.setShare h)

theorem injectAll_keeps (k : Ctx) {l : Nat} (h : Share) (hl : h.lcl = l) : (k.injectAll l h).num = k.num
    ∧ ((k.injectAll l h).share l).counting = h.counting := by
  unfold Ctx.injectAll
  constructor
  · exact foldl_keeps Ctx.num (fun k i => (injectDue_keeps l k i).1) h.chime.due (k.setShare h)
  · refine (congrFun (foldl_keeps (Ctx.each Share.counting) (fun k i => (injectDue_keeps l k i).2) h.chime.due (k.setShare h)) l).trans ?_
    rw [Ctx.each, share_setShare, if_pos hl]

theorem exec_chimeEvaluation {c : CtxId} {l : Nat} {s : State} {k : Ctx} (hk : s.active c = some k)
    (hp : (k.share l).chime.pulses ≠ []) : exec (.chimeEvaluation c l) s
      = .next (s.setCtx (k.injectAll l ((k.share l).evaluated (List.range 32)))) := by
  have hp : (k.share l).chime.pulses.isEmpty = false := by simpa using hp
  refine congrArg _ ((modActive_some hk).trans (congrArg _ ?_))
  dsimp only
  rw [hp, if_neg (by simp)]
  rfl

theorem answers_chimeEvaluation {c : CtxId} {l : Nat} {s : State} {k : Ctx} (hk : s.active c = some k)
    (hp : (k.share l).chime.pulses ≠ []) : answers (.chimeEvaluation c l) s fun t => t.mem = s.mem ∧ inCtx t c fun j =>
      (j.share l).chime.pulses = [] ∧ ∀ (n : Nat) (e : BitVec 64), n < 16 → tgetD (k.share l).chime.ctrs n 0 = e →
        ctOn e = true → ctIn e < 48 → ((k.share l).chime.pulses.filter (· == ctIn e)).length < ctCount e →
        tgetD (j.share l).chime.ctrs n 0 = ctSet e (ctCount e - ((k.share l).chime.pulses.filter (· == ctIn e)).length) := by
  obtain ⟨hlcl, hcount⟩ := evaluated_keeps (k.share l) (List.range 32)
  obtain ⟨hnum, hkept⟩ := injectAll_keeps k ((k.share l).evaluated (List.range 32)) (hlcl.trans (share_lcl k l))
  obtain ⟨hp0, hc⟩ := evaluate_counts (k.share l).chime
  obtain ⟨hpulses, hctrs⟩ := chime_of_counting (hkept.trans hcount)
  refine answers_of_exec (exec_chimeEvaluation hk hp) ⟨rfl, inCtx_setCtx hk hnum ⟨?_, fun n e hn he hon hlow hbelow => ?_⟩⟩
  · rw [hpulses, hp0]
  · subst he
    rw [hctrs, hc n hn hlow, ctAfter_below hon hbelow]

/-- A share whose chime counter n has fired: it pulses and reloads. -/
def Share.counterFired (h : Share) (n : Nat) : Share :=
  { h with chime := { h.chime with
      ctrs := tset h.chime.ctrs n (ctSet (tgetD h.chime.ctrs n 0) (ctReload (tgetD h.chime.ctrs n 0)))
      pulses := h.chime.pulses ++ [32 + n] } }

theorem exec_chimeCounterFire {c : CtxId} {l n : Nat} {s : State} {k : Ctx} (hk : s.active c = some k) (hn : n < 16)
    (hon : ctOn (tgetD (k.share l).chime.ctrs n 0) = true) (hz : ctCount (tgetD (k.share l).chime.ctrs n 0) = 0) :
    exec (.chimeCounterFire c l n) s = .next (s.setCtx (k.modShare l fun h => h.counterFired n)) := by
  refine congrArg _ ((modActive_some hk).trans (congrArg _ ?_))
  dsimp only
  rw [hon, hz, decide_eq_true hn, if_pos (by decide)]
  unfold Ctx.modShare
  rfl

theorem answers_chimeCounterFire {c : CtxId} {l n : Nat} {s : State} {k : Ctx} (hk : s.active c = some k) (hn : n < 16)
    (hon : ctOn (tgetD (k.share l).chime.ctrs n 0) = true) (hz : ctCount (tgetD (k.share l).chime.ctrs n 0) = 0) :
    answers (.chimeCounterFire c l n) s fun t => t.mem = s.mem ∧ inCtx t c fun j =>
      (j.share l).chime.pulses = (k.share l).chime.pulses ++ [32 + n] ∧ tgetD (j.share l).chime.ctrs n 0
        = ctSet (tgetD (k.share l).chime.ctrs n 0) (ctReload (tgetD (k.share l).chime.ctrs n 0)) := by
  refine answers_of_exec (exec_chimeCounterFire hk hn hon hz) ⟨rfl, inCtx_setCtx hk rfl ?_⟩
  rw [share_modShare_same k l (share_lcl k l)]
  exact ⟨rfl, tgetD_tset_same ..⟩

/-! ### Drums (02 R61, R62) -/

/-- The first element that one test finds is the first that this test and another find, where it meets both. -/
theorem find_and_of_find {α : Type} {p q : α → Bool} {l : List α} {a : α} (h : l.find? p = some a) (hq : q a = true) :
    l.find? (fun x => p x && q x) = some a := by
  induction l with
  | nil => cases h
  | cons x l ih =>
    rw [List.find?_cons] at h ⊢
    cases hp : p x with
    | true =>
      rw [hp] at h
      cases h
      simp [hq]
    | false =>
      rw [hp] at h
      exact ih h

/-- A token enters a wave that is not dropped. -/
theorem tokens_enter {k : Ctx} {a : Arrived} {x : Thread} (src : Src) (inside : Bool) (hx : k.th a.tok.thread = some x)
    (hd : x.isDropped a.tok.wave = false) : (k.enter a src inside).tokens = k.tokens ++ [a] := by
  unfold Ctx.enter
  simp only [hx, hd]
  rfl

/-- The control token of a drum, where it leads. -/
def Drum.beat (d : Drum) (urg : Bool) (q : Addr × Dst) : Arrived :=
  ⟨q.1, q.2, (Em.plain [] d.token (d.tag.extractLsb' 16 24)).token (d.tag.extractLsb' 0 16) urg, false, false⟩

/-- A context whose drum has advanced and whose control token has gone to some places. -/
def Ctx.beaten (k : Ctx) (l : Nat) (d : Drum) (urg : Bool) (qs : List (Addr × Dst)) : Ctx :=
  qs.foldl (fun k q => k.enter (d.beat urg q) .outside false) (k.modShare l fun h => h.modDrum d.num Drum.advance)

theorem beaten_keeps (k : Ctx) (l : Nat) (d : Drum) (urg : Bool) (qs : List (Addr × Dst)) : (k.beaten l d urg qs).num = k.num
    ∧ ((k.beaten l d urg qs).share l).drums = ((k.share l).modDrum d.num Drum.advance).drums := by
  unfold Ctx.beaten
  constructor
  · exact foldl_keeps Ctx.num (f := fun k q => Ctx.enter k (d.beat urg q) .outside false) (fun _ _ => num_enter ..) qs _
  · rw [share_of_shares (foldl_keeps Ctx.shares (f := fun k q => Ctx.enter k (d.beat urg q) .outside false)
      (fun _ _ => shares_enter ..) qs _) l, share_modShare_same (f := fun h => h.modDrum d.num Drum.advance) k l (share_lcl k l)]

theorem beaten_one {k : Ctx} {d : Drum} {x : Thread} {l : Nat} {urg : Bool} {q : Addr × Dst}
    (hx : k.th (d.tag.extractLsb' 0 16) = some x) (hd : x.isDropped (d.tag.extractLsb' 16 24) = false) :
    (k.beaten l d urg [q]).tokens = k.tokens ++ [d.beat urg q] :=
  tokens_enter (k := k.modShare l fun h => h.modDrum d.num Drum.advance) (a := d.beat urg q) .outside false hx hd

/-- What a drum that emits counts of its slot and its block. -/
def Ctx.drumCosts (k : Ctx) (l : Nat) (p : Placed) (urg : Bool) (seat tick : Nat) : Ctx :=
  (((k.perfAdd l 0 1).perfAdd l 1 (if urg then 1 else 0)).charge seat 1 0).touchBlock p tick

theorem drumCosts_keeps (k : Ctx) (l : Nat) (p : Placed) (urg : Bool) (seat tick : Nat) :
    (k.drumCosts l p urg seat tick).num = k.num ∧ (k.drumCosts l p urg seat tick).tokens = k.tokens := by
  simp [Ctx.drumCosts]

theorem drumCosts_drums (k : Ctx) (l : Nat) (p : Placed) (urg : Bool) (seat tick : Nat) :
    ((k.drumCosts l p urg seat tick).share l).drums = (k.share l).drums := by
  unfold Ctx.drumCosts
  simp only [share_touchBlock, share_charge, share_perfAdd, if_true]

theorem inCtx_usePower {s : State} {c : CtxId} {P : Ctx → Prop} (dom : Nat) (h : inCtx s c P) : inCtx (s.usePower dom) c P := h

/-- A drum whose nest has ended: RUN falls and DONE is set. -/
def Drum.ended (d : Drum) : Drum := { d with ctl := (d.ctl &&& ~~~8#32) ||| 16 }

theorem ended_ctl (d : Drum) : d.ended.running = false ∧ d.ended.ctl.getLsbD 4 = true := by
  simp [Drum.ended, Drum.running]

section
variable {c : CtxId} {l : Nat} {n : BitVec 13} {s : State} {k : Ctx} {d : Drum}

theorem exec_drumEmit {x : Thread} {p : Placed} (hk : s.active c = some k)
    (hd : ((k.share l).drums.find? fun d => d.num == n) = some d) (hrun : d.running = true) (hover : d.isOver = false)
    (hout : d.runOut = none) (hgo : k.injection (d.tag.extractLsb' 0 16) (d.tag.extractLsb' 16 24) = .go)
    (hx : k.th (d.tag.extractLsb' 0 16) = some x) (hp : k.placedAt x d.blk = some p)
    (hpow : s.powered (k.seatOf p * 16 + ((p.at_[d.slot]?).map (·.1) |>.getD 0) / 8) = true) (hgate : k.gateShut l = false) :
    ∃ urg, exec (.drumEmit c l n) s = .next ((s.setCtx ((k.beaten l d urg
      ([dest1 d.t d.slot].filterMap (k.leads p (d.tag.extractLsb' 0 16)))).drumCosts l p urg (k.seatOf p) s.tick)).usePower
        (k.seatOf p * 16 + ((p.at_[d.slot]?).map (·.1) |>.getD 0) / 8)) := by
  have hnum : d.num = n := by simpa using List.find?_some hd
  subst hnum
  refine ⟨(p.slots[d.slot]?).map (·.urgent) == some true, congrArg Host.Outcome.next ?_⟩
  simp only [hk, find_and_of_find (q := Drum.running) hd hrun, hover, hout, hgo, hx, Option.bind_some, hp, hpow, hgate]
  rfl

/-- An emission of a drum: the innermost level counts it, and its control token stands where it leads. -/
theorem answers_drumEmit {x : Thread} {p : Placed} (hk : s.active c = some k)
    (hd : ((k.share l).drums.find? fun d => d.num == n) = some d) (hrun : d.running = true) (hover : d.isOver = false)
    (hout : d.runOut = none) (hgo : k.injection (d.tag.extractLsb' 0 16) (d.tag.extractLsb' 16 24) = .go)
    (hx : k.th (d.tag.extractLsb' 0 16) = some x) (hdrop : x.isDropped (d.tag.extractLsb' 16 24) = false)
    (hp : k.placedAt x d.blk = some p)
    (hpow : s.powered (k.seatOf p * 16 + ((p.at_[d.slot]?).map (·.1) |>.getD 0) / 8) = true) (hgate : k.gateShut l = false) :
    answers (.drumEmit c l n) s fun t => t.mem = s.mem ∧ inCtx t c fun j =>
      (∃ e ∈ (j.share l).drums, e.num = n ∧ e.loops = d.advance.loops ∧ e.tag = nextTag d.tag)
      ∧ ∀ q, k.leads p (d.tag.extractLsb' 0 16) (dest1 d.t d.slot) = some q → ∃ a ∈ j.tokens, a.blk = q.1 ∧ a.dst = q.2
          ∧ a.tok.thread = d.tag.extractLsb' 0 16 ∧ a.tok.wave = d.tag.extractLsb' 16 24 ∧ a.tok.value = d.token := by
  obtain ⟨urg, hexec⟩ := exec_drumEmit hk hd hrun hover hout hgo hx hp hpow hgate
  have hnum : d.num = n := by simpa using List.find?_some hd
  obtain ⟨hkn, hdrums⟩ := beaten_keeps k l d urg ([dest1 d.t d.slot].filterMap (k.leads p (d.tag.extractLsb' 0 16)))
  refine answers_of_exec hexec ⟨rfl, inCtx_usePower _ (inCtx_setCtx hk ((drumCosts_keeps ..).1.trans hkn)
    ⟨⟨d.advance, ?_, hnum, rfl, rfl⟩, fun q hq => ?_⟩)⟩
  · have hfind := find_updFirst (fun d : Drum => d.num == n) Drum.advance (fun _ h => h) (k.share l).drums
    rw [hd] at hfind
    rw [drumCosts_drums, hdrums, hnum]
    exact List.mem_of_find?_eq_some hfind
  · refine ⟨d.beat urg q, ?_, rfl, rfl, rfl, rfl, rfl⟩
    simp only [List.filterMap_cons, hq, List.filterMap_nil]
    rw [(drumCosts_keeps ..).2, beaten_one hx hdrop]
    exact List.mem_append_right _ (List.mem_singleton_self _)

theorem exec_drumEnd (hk : s.active c = some k) (hd : ((k.share l).drums.find? fun d => d.num == n) = some d)
    (hrun : d.running = true) (hover : d.isOver = true) : exec (.drumEnd c l n) s
      = .next (s.setCtx (k.modShare l fun h => (h.modDrum n Drum.ended).pulseKind 4 n.toNat)) := by
  have hany : ((k.share l).drums.any fun d => d.num == n && d.running && d.isOver) = true :=
    List.any_eq_true.2 ⟨d, List.mem_of_find?_eq_some hd, by simpa [hrun, hover] using List.find?_some hd⟩
  refine congrArg _ ((modActive_some hk).trans (congrArg _ ?_))
  rw [if_pos hany]
  rfl

theorem answers_drumEnd (hk : s.active c = some k) (hd : ((k.share l).drums.find? fun d => d.num == n) = some d)
    (hrun : d.running = true) (hover : d.isOver = true) : answers (.drumEnd c l n) s fun t => t.mem = s.mem ∧ inCtx t c fun j =>
      ∃ e ∈ (j.share l).drums, e.num = n ∧ e.running = false ∧ e.ctl.getLsbD 4 = true ∧ e.loops = d.loops := by
  obtain ⟨hstop, hdone⟩ := ended_ctl d
  have hnum : d.num = n := by simpa using List.find?_some hd
  have hlcl : ((k.share l).modDrum n Drum.ended |>.pulseKind 4 n.toNat).lcl = l :=
    (pulseKind_keeps (q := Share.lcl) (fun _ _ => rfl) ..).trans (share_lcl k l)
  refine answers_of_exec (exec_drumEnd hk hd hrun hover) ⟨rfl, inCtx_setCtx hk rfl ⟨d.ended, ?_, hnum,
    hstop, hdone, rfl⟩⟩
  have hfind := find_updFirst (fun d : Drum => d.num == n) Drum.ended (fun _ h => h) (k.share l).drums
  rw [hd] at hfind
  rw [share_modShare_same (f := fun h => (h.modDrum n Drum.ended).pulseKind 4 n.toNat) k l hlcl,
    pulseKind_keeps (q := Share.drums) fun _ _ => rfl]
  exact List.mem_of_find?_eq_some hfind

end

end Sys2Proof.Machine
end

section
/-! PROOFS. What counting and reading an access leave of a context and of memory (03 R93, 04 R113, 07 R199, R208). -/

namespace Sys2Proof.Machine

/-! ### Energy, misses and late acquires -/

/-- A part of a context that the counting of an access leaves. -/
structure Tallied {β : Type} (p : Ctx → β) : Prop where
  charge : ∀ (k : Ctx) (site cls event : Nat), p (k.charge site cls event) = p k
  perfAdd : ∀ (k : Ctx) (l n b : Nat), p (k.perfAdd l n b) = p k
  discards : ∀ (k : Ctx) (ds : List Nat), p { k with discards := ds } = p k

theorem tallied_num : Tallied Ctx.num := ⟨fun _ _ _ _ => rfl, fun _ _ _ _ => rfl, fun _ _ => rfl⟩

theorem tallied_roster : Tallied Ctx.roster := ⟨fun _ _ _ _ => rfl, fun _ _ _ _ => rfl, fun _ _ => rfl⟩

/-- What a context holds for a reader of memory: its tokens, access logs and scratchpads. -/
def Ctx.holdings (k : Ctx) : List Arrived × Tab LogRange × (Nat → List Host.Cell × Tab Gran) :=
  (k.tokens, k.logs, k.each fun h => (h.bytes, h.grans))

theorem tallied_holdings : Tallied Ctx.holdings where
  charge _ _ _ _ := rfl
  perfAdd k l n b := congrArg (fun q => (k.tokens, k.logs, q)) (each_modShare k l (f := fun h =>
    { h with perf := tset h.perf n (tgetD h.perf n 0 + BitVec.ofNat 48 b) }) (share_lcl k l) rfl)
  discards _ _ := rfl

section
variable {β : Type} {p : Ctx → β} (hp : Tallied p)
include hp

theorem tallied_chargeN (k : Ctx) (site cls event n : Nat) : p (k.chargeN site cls event n) = p k :=
  foldl_keeps p (f := fun k _ => k.charge site cls event) (fun _ _ => hp.charge ..) _ _

theorem tallied_chargePiece (k : Ctx) (m : Mems) (clu : Nat) (write : Bool) (q : Piece) : p (k.chargePiece m clu write q) = p k := by
  unfold Ctx.chargePiece
  dsimp only
  split
  · exact hp.charge ..
  · exact hp.charge ..
  · rw [tallied_chargeN hp]
    split <;> exact hp.charge ..
  · rw [tallied_chargeN hp]
    split
    · rw [hp.charge]
      split
      · rfl
      · exact hp.charge ..
    · split
      · rfl
      · exact hp.charge ..
  · exact hp.charge ..

end

/-- A run of steps that each agree with the state before. -/
theorem agrees_foldl {α β : Type} {p : Ctx → β} {f : State → α → State} (hf : ∀ s a, (f s a).Agrees p s) (l : List α)
    (s : State) : (l.foldl f s).Agrees p s := by
  induction l generalizing s with
  | nil => exact agrees_refl s
  | cons a l ih => exact agrees_trans (ih _) (hf s a)

/-- A piece of an access counted: its energy, and a miss where it misses. -/
def Ctx.countPiece (k : Ctx) (m : Mems) (lcl clu : Nat) (write : Bool) (q : Piece) : Ctx :=
  if m.misses clu q then (k.chargePiece m clu write q).perfAdd lcl 3 1 else k.chargePiece m clu write q

theorem tallied_countPiece {β : Type} {p : Ctx → β} (hp : Tallied p) (k : Ctx) (m : Mems) (lcl clu : Nat) (write : Bool) (q : Piece) :
    p (k.countPiece m lcl clu write q) = p k := by
  unfold Ctx.countPiece
  split
  · rw [hp.perfAdd, tallied_chargePiece hp]
  · exact tallied_chargePiece hp ..

theorem spend_eq (s : State) (c : CtxId) (lcl clu : Nat) (write : Bool) (ps : List Piece) : s.spend c lcl clu write ps
    = ps.foldl (fun s q => s.modCtx c fun k => k.countPiece s.mem lcl clu write q) s := rfl

theorem spend_mem (s : State) (c : CtxId) (lcl clu : Nat) (write : Bool) (ps : List Piece) :
    (s.spend c lcl clu write ps).mem = s.mem := by
  rw [spend_eq]
  exact foldl_keeps State.mem (fun _ _ => modCtx_mem ..) ps s

section
variable {β : Type} {p : Ctx → β} (hp : Tallied p)
include hp

theorem agrees_spend (s : State) (c : CtxId) (lcl clu : Nat) (write : Bool) (ps : List Piece) :
    (s.spend c lcl clu write ps).Agrees p s := by
  rw [spend_eq]
  exact agrees_foldl (fun s q => agrees_modCtx s c (fun k => tallied_countPiece tallied_num ..) fun k => tallied_countPiece hp ..) ps s

theorem agrees_acquireLate (s : State) (c : CtxId) (lcl clu : Nat) : (s.acquireLate c lcl clu).Agrees p s := by
  unfold State.acquireLate
  split
  · exact agrees_refl s
  · next k hk =>
    split
    · exact agrees_refl s
    · have h := agrees_modCtx (p := p) s c (f := fun k => { k with discards := k.discards.filter (· != lcl) }) (fun _ => rfl)
        fun _ => hp.discards ..
      rw [modCtx_some hk] at h
      exact agrees_trans (agrees_setMem _ _) h

theorem agrees_scBefore (s : State) (c : CtxId) (clu : Nat) (o : MemOp) : (s.scBefore c clu o).Agrees p s := by
  unfold State.scBefore
  split
  · refine agrees_trans (agrees_setMem _ _) (agrees_trans (agrees_setMem _ _) ?_)
    split
    · have charged {γ : Type} {q : Ctx → γ} (hq : Tallied q) (ls : List L1Line) (k : Ctx) :
          q (ls.foldl (fun k e => k.charge (homeSite (64 * e.line)) 2 6) k) = q k :=
        foldl_keeps q (f := fun k (e : L1Line) => Ctx.charge k (homeSite (64 * e.line)) 2 6) (fun _ _ => hq.charge ..) ls k
      exact agrees_modCtx s c (charged tallied_num _) (charged hp _)
    · exact agrees_refl s
  · exact agrees_refl s

end

/-! ### An access by a context without access logs (06 R190) -/

theorem logAccess_none {s : State} {c : CtxId} {k : Ctx} (hk : s.ctx c = some k) (hl : k.logs = []) (ps : List Piece)
    (kinds : BitVec 8) : s.logAccess c ps kinds = s := by
  unfold State.logAccess State.logCount
  induction ps with
  | nil => rfl
  | cons q ps ih =>
    rw [List.foldl_cons]
    simp only [hk, hl]
    exact ih

/-! ### Bytes read where no copy of a line is kept (03 R87, R93) -/

/-- What a read of a line kept in no L1 depends on: HBM, its keys, and the pages in host bias. -/
def Mems.stored (m : Mems) : List Host.Cell × Tab Nat × List Nat := (m.hbm, m.key, m.bias)

/-- A piece is read at its home, or in a scratchpad. -/
def Mems.readsHome (m : Mems) (q : Piece) : Prop :=
  (q.tr.place = .hbm ∧ m.actsAs q.tr = 3) ∨ ∃ l off, q.tr.place = .scratch l off

theorem actsAs_of_stored {m n : Mems} (h : m.stored = n.stored) (t : Trans) : m.actsAs t = n.actsAs t := by
  have hb : m.bias = n.bias := congrArg (fun q => q.2.2) h
  unfold Mems.actsAs Mems.hostBias
  rw [hb]

theorem keyed_of_stored {m n : Mems} (h : m.stored = n.stored) (key : Option Nat) (pa : Nat) : m.keyed key pa = n.keyed key pa := by
  have hm : m.hbm = n.hbm := congrArg (fun q => q.1) h
  have hk : m.key = n.key := congrArg (fun q => q.2.1) h
  unfold Mems.keyed
  rw [hm, hk]

theorem stored_loadEffect {m : Mems} {clu : Nat} {q : Piece} (h : m.readsHome q) : (m.loadEffect (.cluster clu) q).stored = m.stored := by
  obtain ⟨hp, ha⟩ | ⟨l, off, hp⟩ := h
  · simp only [Mems.loadEffect, hp, ha]
    simp [Mems.passL2, Mems.stored]
  · simp only [Mems.loadEffect, hp]

theorem stored_loadEffects {m : Mems} (clu : Nat) {ps : List Piece} (h : ∀ q ∈ ps, m.readsHome q) :
    (ps.foldl (fun m q => m.loadEffect (.cluster clu) q) m).stored = m.stored := by
  induction ps generalizing m with
  | nil => rfl
  | cons q ps ih =>
    have hq : (m.loadEffect (.cluster clu) q).stored = m.stored := stored_loadEffect (h q (List.mem_cons_self ..))
    rw [List.foldl_cons, ih, hq]
    intro r hr
    exact (h r (List.mem_cons_of_mem _ hr)).imp (fun e => ⟨e.1, (actsAs_of_stored hq r.tr).trans e.2⟩) id

theorem load_eq_map (h : Share) (off n : Nat) : h.load off n
    = (List.range n).map fun i => if (h.gran ((off + i) / 16)).st = 2 then 0 else rd h.bytes (off + i) := by
  induction n generalizing off with
  | zero => rfl
  | succ n ih =>
    rw [Share.load, ih, List.range_succ_eq_map, List.map_cons, List.map_map]
    refine congrArg₂ _ rfl (List.map_congr_left fun i _ => ?_)
    simp only [Function.comp_apply, Nat.succ_eq_add_one, Nat.add_assoc, Nat.add_comm 1 i]

/-- The bytes of a piece read at its home or in a scratchpad are those that stand there. -/
theorem pieceBytes_home {t s : State} {j k : Ctx} {clu : Nat} {q : Piece} (hm : t.mem.stored = s.mem.stored)
    (hj : j.holdings = k.holdings) (h : s.mem.readsHome q) : pieceBytes t.mem j clu q = s.bytesAt k q := by
  obtain ⟨hp, ha⟩ | ⟨l, off, hp⟩ := h
  · have ha : t.mem.actsAs q.tr = 3 := (actsAs_of_stored hm q.tr).trans ha
    simp only [pieceBytes, State.bytesAt, hp, ha]
    exact List.map_congr_left fun i _ => keyed_of_stored hm ..
  · have hshare : ((j.share l).bytes, (j.share l).grans) = ((k.share l).bytes, (k.share l).grans) :=
      congrFun (congrArg (fun q => q.2.2) hj) l
    have hb : (j.share l).bytes = (k.share l).bytes := congrArg Prod.fst hshare
    have hg : (j.share l).grans = (k.share l).grans := congrArg Prod.snd hshare
    simp only [pieceBytes, State.bytesAt, hp, load_eq_map, Share.gran, hb, hg]
    rfl

theorem readPieces_home {t s : State} {c : CtxId} {j k : Ctx} {clu : Nat} {ps : List Piece} (hctx : t.ctx c = some j)
    (hm : t.mem = s.mem) (hj : j.holdings = k.holdings) (h : ∀ q ∈ ps, s.mem.readsHome q) :
    (t.readPieces c clu ps).2 = ps.flatMap (s.bytesAt k) := by
  have hread : ∀ q ∈ ps, t.mem.readsHome q := hm.symm ▸ h
  have hs : (t.readPieces c clu ps).1.mem.stored = s.mem.stored := (stored_loadEffects clu hread).trans (congrArg Mems.stored hm)
  have hc : (t.readPieces c clu ps).1.ctx c = some j := hctx
  unfold State.readPieces at hs hc ⊢
  simp only [hc]
  refine List.flatMap_congr fun q hq => ?_
  rw [← pieceBytes_home hs hj (h q hq)]
  obtain ⟨hp, -⟩ | ⟨l, off, hp⟩ := h q hq <;> rw [hp]

end Sys2Proof.Machine
end

section
/-! PROOFS. Stream units feed and drain (02 R63, R64, 04 R124, 14 R392), and `Obligations.UnitSteps`. -/

namespace Sys2Proof.Machine

theorem tget_setAgen (k : Ctx) (l n : Nat) (u : Agen) :
    tget ((k.modShare l fun h => h.setAgen n u).share l).agens n = some u := by
  rw [share_modShare_same (f := fun h => h.setAgen n u) k l (share_lcl k l)]
  exact tget_tset_same ..

/-! ### The end of a pattern (14 R392) -/

/-- A unit at the end of its pattern: RUN falls and it stands at its first element again. -/
def Agen.ended (u : Agen) : Agen := { u with ctl := u.ctl &&& 0x7FFFFFFF, pos := 0 }

theorem ended_running (u : Agen) : u.ended.running = false := by
  simp [Agen.ended, Agen.running]

theorem exec_streamEnd {c : CtxId} {l n : Nat} {s : State} {k : Ctx} {u : Agen} (hk : s.active c = some k)
    (hu : tget (k.share l).agens n = some u) (hrun : u.running = true) (hover : u.isOver = true) : exec (.streamEnd c l n) s
      = .next (s.setCtx (k.modShare l fun h => (h.setAgen n u.ended).pulseKind 3 n)) := by
  refine congrArg _ ((modActive_some hk).trans (congrArg _ ?_))
  simp only [hu, hrun, hover]
  rfl

theorem answers_streamEnd {c : CtxId} {l n : Nat} {s : State} {k : Ctx} {u : Agen} (hk : s.active c = some k)
    (hu : tget (k.share l).agens n = some u) (hrun : u.running = true) (hover : u.isOver = true) :
    answers (.streamEnd c l n) s fun t => t.mem = s.mem ∧ inCtx t c fun j => ∃ v, tget (j.share l).agens n = some v
      ∧ v.running = false ∧ v.pos = 0 ∧ v.dims = u.dims ∧ v.base = u.base := by
  have hlcl : (((k.share l).setAgen n u.ended).pulseKind 3 n).lcl = l :=
    (pulseKind_keeps (q := Share.lcl) (fun _ _ => rfl) ..).trans (share_lcl k l)
  refine answers_of_exec (exec_streamEnd hk hu hrun hover) ⟨rfl, inCtx_setCtx hk rfl ⟨u.ended, ?_, ended_running u, rfl, rfl, rfl⟩⟩
  rw [share_modShare_same (f := fun h => (h.setAgen n u.ended).pulseKind 3 n) k l hlcl, pulseKind_keeps (q := Share.agens) fun _ _ => rfl]
  exact tget_tset_same ..

/-! ### An element drained (02 R64) -/

theorem not_outside {i : Int} (hlow : 0 ≤ i) (hhigh : i < 2 ^ 56) : (decide (i < 0) || decide (i ≥ 2 ^ 56)) = false := by
  simp
  omega

/-- A context whose stream unit has drained a token: the store stands at the end of its wave. -/
def Ctx.streamDrained (k : Ctx) (l n : Nat) (u : Agen) (a : Arrived) (o : MemOp) : Ctx :=
  (({ k with tokens := dropFirst (· == a) k.tokens } : Ctx).modWv (u.tag.extractLsb' 0 16) (u.tag.extractLsb' 16 24) fun v =>
    { v with drains := v.drains ++ [o] }).modShare l fun h => h.setAgen n u.advance

section
variable {c : CtxId} {l n : Nat} {s : State} {k : Ctx} {u : Agen} {a : Arrived} {x : Thread} {ps : List Piece}

theorem exec_streamDrain (pick : Nat) (hk : s.active c = some k) (hu : tget (k.share l).agens n = some u) (hrun : u.running = true)
    (hover : u.isOver = false) (hstore : u.ctl.getLsbD 30 = true) (hindex : u.ctl.getLsbD 29 = false)
    (ha : k.drainTok u (u.ctl.extractLsb' 20 4).toNat = some a)
    (hgo : k.injection (u.tag.extractLsb' 0 16) (u.tag.extractLsb' 16 24) = .go) (hx : k.th (u.tag.extractLsb' 0 16) = some x)
    (hlow : 0 ≤ u.address 0) (hhigh : u.address 0 < 2 ^ 56)
    (hps : s.probePlain k l (u.access (u.address 0).toNat a.tok.value) = .ok ps) : exec (.streamElement c l n pick) s
      = .next (s.setCtx (k.streamDrained l n u a { u.access (u.address 0).toNat a.tok.value with ps := ps })) := by
  refine congrArg Host.Outcome.next ?_
  simp only [hk, hu, hindex, hstore, ha, hrun, hover, hgo, hx, Bool.not_true, Bool.false_or, Bool.and_false, Bool.false_and,
    Bool.false_eq_true, if_false, if_true, Option.isNone_some, Option.map_none, Option.getD_none, Option.map_some, Option.getD_some,
    not_outside hlow hhigh, hps]
  rfl

theorem answers_streamDrain (pick : Nat) (hk : s.active c = some k) (hu : tget (k.share l).agens n = some u) (hrun : u.running = true)
    (hover : u.isOver = false) (hstore : u.ctl.getLsbD 30 = true) (hindex : u.ctl.getLsbD 29 = false)
    (ha : k.drainTok u (u.ctl.extractLsb' 20 4).toNat = some a)
    (hgo : k.injection (u.tag.extractLsb' 0 16) (u.tag.extractLsb' 16 24) = .go) (hx : k.th (u.tag.extractLsb' 0 16) = some x)
    (hlow : 0 ≤ u.address 0) (hhigh : u.address 0 < 2 ^ 56)
    (hps : s.probePlain k l (u.access (u.address 0).toNat a.tok.value) = .ok ps) : answers (.streamElement c l n pick) s
      fun t => t.mem = s.mem ∧ inCtx t c fun j => tget (j.share l).agens n = some u.advance ∧ j.tokens = dropFirst (· == a) k.tokens
        ∧ ∀ v, k.wv (u.tag.extractLsb' 0 16) (u.tag.extractLsb' 16 24) = some v →
          j.wv (u.tag.extractLsb' 0 16) (u.tag.extractLsb' 16 24)
            = some { v with drains := v.drains ++ [{ u.access (u.address 0).toNat a.tok.value with ps := ps }] } := by
  refine answers_of_exec (exec_streamDrain pick hk hu hrun hover hstore hindex ha hgo hx hlow hhigh hps)
    ⟨rfl, inCtx_setCtx hk rfl ⟨tget_setAgen .., rfl, fun v hv => ?_⟩⟩
  refine (ctx_wv_modWv { k with tokens := dropFirst (· == a) k.tokens } (u.tag.extractLsb' 0 16) (u.tag.extractLsb' 16 24)
    (f := fun v => { v with drains := v.drains ++ [{ u.access (u.address 0).toNat a.tok.value with ps := ps }] }) fun _ => rfl).trans ?_
  exact congrArg _ hv

end

/-! ### An element fed (02 R64, 04 R124) -/

/-- The state in which a loader reads its element: the access is counted, unless a byte of it has been, and its fence has been made. -/
def State.feeding (s : State) (k : Ctx) (l : Nat) (o : MemOp) : State :=
  (if o.part.isEmpty then s.account k.num l (k.phys l) (kRead ||| kStream) o.ps else s).scBefore k.num (k.phys l) o

theorem agrees_feeding {β : Type} {p : Ctx → β} (ht : Tallied p) (hs : Spared p) (s : State) (k : Ctx) (l : Nat) (o : MemOp) :
    (s.feeding k l o).Agrees p s := by
  unfold State.feeding State.account
  refine agrees_trans (agrees_scBefore ht ..) ?_
  split
  · exact agrees_trans (agrees_logAccess hs ..) (agrees_trans (agrees_spend ht ..) (agrees_acquireLate ht ..))
  · exact agrees_refl s

/-- Where a context keeps no access logs, the counting of an element leaves all that a reader sees. -/
theorem feeding_holdings {s : State} {k : Ctx} (hk : s.ctx k.num = some k) (hl : k.logs = []) (l : Nat) (o : MemOp) :
    ∃ j, (s.feeding k l o).ctx k.num = some j ∧ j.holdings = k.holdings := by
  refine found_of_agrees (agrees_trans (agrees_scBefore tallied_holdings ..) ?_) hk
  split
  · obtain ⟨j, hj, hsame⟩ := found_of_agrees (agrees_trans (agrees_spend tallied_holdings (s.acquireLate k.num l (k.phys l)) k.num l
      (k.phys l) false o.ps) (agrees_acquireLate tallied_holdings ..)) hk
    have hlogs : j.logs = k.logs := congrArg (fun q => q.2.1) hsame
    rw [State.account, logAccess_none hj (hlogs.trans hl)]
    exact agrees_trans (agrees_spend tallied_holdings ..) (agrees_acquireLate tallied_holdings ..)
  · exact agrees_refl s

/-- And, where no acquire is due, memory. -/
theorem feeding_mem {s : State} {k : Ctx} (hk : s.ctx k.num = some k) (hl : k.logs = []) {l : Nat} {o : MemOp} (hd : l ∉ k.discards)
    (ho : o.ord ≠ 3) : (s.feeding k l o).mem = s.mem := by
  unfold State.feeding State.scBefore
  rw [if_neg ho]
  split
  · have hlate : s.acquireLate k.num l (k.phys l) = s := by
      unfold State.acquireLate
      rw [hk]
      simp [hd]
    obtain ⟨j, hj, hsame⟩ := found_of_agrees (agrees_spend tallied_holdings s k.num l (k.phys l) false o.ps) hk
    have hlogs : j.logs = k.logs := congrArg (fun q => q.2.1) hsame
    rw [State.account, hlate, logAccess_none hj (hlogs.trans hl), spend_mem]
  · rfl

theorem feed_eq {o : MemOp} (h : o.torn = false) (s : State) (k : Ctx) (l n pick : Nat) (u : Agen) (x : Thread) (w : WaveId)
    (used : List Arrived) : s.feed k l n pick u x w o used
      = ((s.feeding k l o).readPieces k.num (k.phys x.lcl) o.ps).1.fed k.num l n u x.num w o used
        (forwarded (k.prior x w o.m.own) (o.ps.flatMap Piece.keys) ((s.feeding k l o).readPieces k.num (k.phys x.lcl) o.ps).2) := by
  unfold State.feed
  simp only [h]
  rfl

/-- The token that a loader's element enters its block with. -/
def Agen.fedToken (u : Agen) (x : Thread) (w : WaveId) (b : List Byte) : Arrived :=
  outsideToken x.num w u.blk (u.ctl.extractLsb' 20 4).toNat (BitVec.ofNat 128 (leNat b))

/-- A loader's element enters the wave of a live thread, and the unit goes on. -/
theorem fed_enters {t : State} {c : CtxId} {j : Ctx} {x y : Thread} {w : WaveId} (l n : Nat) (u : Agen) (o : MemOp) (b : List Byte)
    (hj : t.ctx c = some j) (hy : j.th x.num = some y) (hd : y.isDropped w = false) : inCtx (t.fed c l n u x.num w o [] b) c fun i =>
      tget (i.share l).agens n = some { u.advance with part := [] } ∧ i.tokens = j.tokens ++ [u.fedToken x w b] := by
  refine inCtx_modCtx (k := j) hj (num_enter ..) ⟨?_, tokens_enter .outside false hy hd⟩
  rw [share_of_shares (shares_enter ..)]
  exact tget_setAgen ..

/-- A live wave of a thread is live in every context whose threads stand alike. -/
theorem live_of_roster {j k : Ctx} {t : ThreadId} {x : Thread} {w : WaveId} (h : j.roster = k.roster) (hx : k.th t = some x)
    (hd : x.isDropped w = false) : ∃ y, j.th t = some y ∧ y.isDropped w = false := by
  have hbare := th_of_roster h t
  rw [hx, Option.map_some] at hbare
  obtain ⟨y, hy, hyx⟩ := Option.map_eq_some_iff.1 hbare
  have hf : y.fault = x.fault := (congrArg Thread.fault hyx : y.bare.fault = x.bare.fault)
  refine ⟨y, hy, ?_⟩
  unfold Thread.isDropped at hd ⊢
  rw [hf]
  exact hd

/-- A loader's access is ordered as its unit says. -/
theorem ord_loader {u : Agen} (hload : u.ctl.getLsbD 30 = false) (addr : Nat) (v : Value) (ps : List Piece) :
    ({ u.access addr v with ps := ps } : MemOp).ord = u.ctl.extractLsb' 18 2 := by
  unfold MemOp.ord
  simp only [Agen.access, hload]
  rfl

section
variable {c : CtxId} {l n pick : Nat} {s : State} {k : Ctx} {u : Agen} {x : Thread} {ps : List Piece}

theorem readError_none {m : Mems} {ps : List Piece} (h : ∀ q ∈ ps, piecePoison m q = false) : readError m ps none = none := by
  unfold readError
  rw [if_neg (by simpa using h)]
  rfl

theorem exec_streamFeed (hk : s.active c = some k) (hu : tget (k.share l).agens n = some u) (hrun : u.running = true)
    (hover : u.isOver = false) (hload : u.ctl.getLsbD 30 = false) (hindex : u.ctl.getLsbD 29 = false)
    (hgo : k.injection (u.tag.extractLsb' 0 16) (u.tag.extractLsb' 16 24) = .go) (hx : k.th (u.tag.extractLsb' 0 16) = some x)
    (hlow : 0 ≤ u.address 0) (hhigh : u.address 0 < 2 ^ 56) (hps : s.probePlain k l (u.access (u.address 0).toNat 0) = .ok ps)
    (hclean : ∀ q ∈ ps, piecePoison s.mem q = false)
    (hwait : s.feedWaits k l x (u.tag.extractLsb' 16 24) { u.access (u.address 0).toNat 0 with ps := ps } = false) (hpick : pick < 16) :
    exec (.streamElement c l n pick) s = .next (s.feed k l n pick u x (u.tag.extractLsb' 16 24)
      { u.access (u.address 0).toNat 0 with ps := ps } []) := by
  have hecc : eccOf pick = none := by
    unfold eccOf
    rw [Nat.div_eq_of_lt hpick]
    rfl
  refine congrArg Host.Outcome.next ?_
  simp only [hk, hu, hindex, hload, hrun, hover, hgo, hx, Bool.not_true, Bool.false_or, Bool.false_and,
    Bool.false_eq_true, if_false, Option.map_none, Option.getD_none, not_outside hlow hhigh, hps, hwait, hecc, Option.filter_none,
    readError_none hclean]
  rfl

/-- An element fed: the unit goes on, and a token enters the block, whose value is what stands at the element's address. -/
theorem answers_streamFeed (hk : s.active c = some k) (hu : tget (k.share l).agens n = some u) (hrun : u.running = true)
    (hover : u.isOver = false) (hload : u.ctl.getLsbD 30 = false) (hindex : u.ctl.getLsbD 29 = false)
    (hgo : k.injection (u.tag.extractLsb' 0 16) (u.tag.extractLsb' 16 24) = .go) (hx : k.th (u.tag.extractLsb' 0 16) = some x)
    (hdrop : x.isDropped (u.tag.extractLsb' 16 24) = false)
    (hlow : 0 ≤ u.address 0) (hhigh : u.address 0 < 2 ^ 56) (hps : s.probePlain k l (u.access (u.address 0).toNat 0) = .ok ps)
    (hclean : ∀ q ∈ ps, piecePoison s.mem q = false)
    (hwait : s.feedWaits k l x (u.tag.extractLsb' 16 24) { u.access (u.address 0).toNat 0 with ps := ps } = false)
    (htorn : ({ u.access (u.address 0).toNat 0 with ps := ps } : MemOp).torn = false) (hpick : pick < 16) :
    answers (.streamElement c l n pick) s fun t => inCtx t c fun j => tget (j.share l).agens n = some { u.advance with part := [] }
      ∧ ∃ a ∈ j.tokens, a.blk = u.blk ∧ a.dst = .port (u.ctl.extractLsb' 20 4).toNat ∧ a.tok.thread = u.tag.extractLsb' 0 16
          ∧ a.tok.wave = u.tag.extractLsb' 16 24 ∧ (k.logs = [] → j.tokens = k.tokens ++ [a]
            ∧ (k.prior x (u.tag.extractLsb' 16 24) 0xFF = [] → u.ctl.extractLsb' 18 2 ≠ 3 → l ∉ k.discards → x.lcl = l →
              (∀ p ∈ ps, (p.tr.place = .hbm ∧ s.mem.actsAs p.tr = 3) ∨ ∃ m off, p.tr.place = .scratch m off) →
              a.tok.value = BitVec.ofNat 128 (leNat (ps.flatMap (s.bytesAt k))))) := by
  have hnum : k.num = c := active_num hk
  subst hnum
  have hctx : s.ctx k.num = some k := (active_ctx hk).1
  have hexec := exec_streamFeed hk hu hrun hover hload hindex hgo hx hlow hhigh hps hclean hwait hpick
  have hord : ({ u.access (u.address 0).toNat 0 with ps := ps } : MemOp).ord = u.ctl.extractLsb' 18 2 := ord_loader hload ..
  generalize ho : ({ u.access (u.address 0).toNat 0 with ps := ps } : MemOp) = o at hexec htorn hord
  have hown : o.m.own = 0xFF := by rw [← ho]; rfl
  have hops : o.ps = ps := by rw [← ho]
  rw [feed_eq htorn, hown, hops] at hexec
  generalize hb : forwarded (k.prior x (u.tag.extractLsb' 16 24) 0xFF) (ps.flatMap Piece.keys)
    ((s.feeding k l o).readPieces k.num (k.phys x.lcl) ps).2 = b at hexec
  obtain ⟨j, hj, hroster⟩ := found_of_agrees (agrees_feeding tallied_roster spared_roster s k l o) hctx
  obtain ⟨y, hy, hd⟩ := live_of_roster hroster hx hdrop
  obtain ⟨i, hi, hagen, htok⟩ := fed_enters (t := ((s.feeding k l o).readPieces k.num (k.phys x.lcl) ps).1) (x := x) l n u o b hj
    ((th_num hx).symm ▸ hy) hd
  refine answers_of_exec hexec ⟨i, hi, hagen, u.fedToken x (u.tag.extractLsb' 16 24) b, ?_, rfl, rfl, th_num hx, rfl,
    fun hlogs => ⟨?_, fun hprior ho3 hdis _ hplaces => ?_⟩⟩
  · rw [htok]
    exact List.mem_append_right _ (List.mem_singleton_self _)
  · obtain ⟨j', hj', hsame⟩ := feeding_holdings hctx hlogs l o
    obtain rfl : j' = j := Option.some.inj (hj'.symm.trans hj)
    rw [htok, show j'.tokens = k.tokens from congrArg Prod.fst hsame]
  · obtain ⟨j', hj', hsame⟩ := feeding_holdings hctx hlogs l o
    have hbytes : b = ps.flatMap (s.bytesAt k) := by
      rw [← hb, hprior]
      exact readPieces_home hj' (feeding_mem hctx hlogs hdis (hord ▸ ho3)) hsame hplaces
    rw [← hbytes]
    rfl

end

/-! ### The statement -/

/-- Settles O57: each step by its own law. -/
theorem unitSteps : Obligations.UnitSteps := by
  unfold Obligations.UnitSteps
  refine ⟨?evaluation, ?counter, ?emit, ?drumEnd, ?drain, ?feed, ?streamEnd⟩
  case evaluation => exact fun _ _ _ _ => answers_chimeEvaluation
  case counter => exact fun _ _ _ _ _ => answers_chimeCounterFire
  case emit => exact fun _ _ _ _ _ _ _ _ => answers_drumEmit
  case drumEnd => exact fun _ _ _ _ _ _ => answers_drumEnd
  case drain => exact fun _ _ _ pick _ _ _ _ _ _ => answers_streamDrain pick
  case feed => exact fun _ _ _ _ _ _ _ _ _ => answers_streamFeed
  case streamEnd => exact fun _ _ _ _ _ _ => answers_streamEnd

end Sys2Proof.Machine
end

section
/-! PROOFS. A committed access performed at its turn, and `Obligations.StoresWriteTheirBytes` (03 R87, 04 R106, R111). -/

namespace Sys2Proof.Machine

/-! ### Writes of bytes at their home (03 R94, R96) -/

/-- A line that is not written under another key slot keeps its bytes when it is written under its own. -/
theorem rekey_own {m : Mems} {key : Option Nat} {line : Nat} (h : ∀ r, tget m.key line = some r → key = some r) :
    (m.rekey key line).hbm = m.hbm := by
  unfold Mems.rekey
  cases key with
  | none => rfl
  | some r =>
    cases hq : tget m.key line with
    | none => rfl
    | some q =>
      obtain rfl : r = q := Option.some.inj (h q hq)
      simp only [if_true]

theorem rekey_places (m : Mems) (key : Option Nat) (line : Nat) :
    (m.rekey key line).host = m.host ∧ (m.rekey key line).peer = m.peer := by
  unfold Mems.rekey
  split
  · exact ⟨rfl, rfl⟩
  · dsimp only
    split
    · split <;> exact ⟨rfl, rfl⟩
    · exact ⟨rfl, rfl⟩

theorem homeWrite_places (m : Mems) (c : CtxId) (key : Option Nat) (pa : Nat) (bs : List Byte) :
    (m.homeWrite c key pa bs).host = m.host ∧ (m.homeWrite c key pa bs).peer = m.peer := rekey_places m key (pa / 64)

theorem homeWrite_own {m : Mems} (c : CtxId) {key : Option Nat} {pa : Nat} (bs : List Byte)
    (h : ∀ r, tget m.key (pa / 64) = some r → key = some r) : (m.homeWrite c key pa bs).hbm = wrN m.hbm pa bs :=
  congrArg (wrN · pa bs) (rekey_own h)

/-- A piece of HBM that acts as an IO page is written at its home. -/
theorem storeAt_io {m : Mems} {q : Piece} (hp : q.tr.place = .hbm) (ha : m.actsAs q.tr = 3) (c : CtxId) (a : Agent) (bs : List Byte)
    (through : Bool) : m.storeAt c a q bs through = m.homeWrite c q.tr.key q.tr.pa bs := by
  simp only [Mems.storeAt, hp, ha]

/-! ### Scratchpads under a store (03 R87, R88) -/

/-- The access logs of a context, and of each scratchpad the bytes and the presence states of its granules. -/
def Ctx.pads (k : Ctx) : Tab LogRange × (Nat → List Host.Cell × (Nat → BitVec 2)) :=
  (k.logs, k.each fun h => (h.bytes, fun g => (h.gran g).st))

section
variable {j k : Ctx} (h : j.pads = k.pads)
include h

theorem logs_of_pads : j.logs = k.logs := congrArg Prod.fst h

theorem bytes_of_pads (l : Nat) : (j.share l).bytes = (k.share l).bytes :=
  congrArg Prod.fst (congrFun (congrArg Prod.snd h) l)

theorem st_of_pads (l g : Nat) : ((j.share l).gran g).st = ((k.share l).gran g).st :=
  congrFun (congrArg Prod.snd (congrFun (congrArg Prod.snd h) l)) g

end

theorem tallied_pads : Tallied Ctx.pads where
  charge _ _ _ _ := rfl
  perfAdd k l n b := congrArg (Prod.mk k.logs) (each_modShare k l (f := fun h =>
    { h with perf := tset h.perf n (tgetD h.perf n 0 + BitVec.ofNat 48 b) }) (share_lcl k l) rfl)
  discards _ _ := rfl

/-- A share in which a write no longer waits at a granule. -/
def Share.unwait (h : Share) (me : ThreadId × WaveId × BitVec 8) (g : Nat) : Share :=
  h.setGran g { h.gran g with writers := (h.gran g).writers.filter (· != me) }

theorem st_unwait (h : Share) (me : ThreadId × WaveId × BitVec 8) (g m : Nat) :
    ((h.unwait me g).gran m).st = (h.gran m).st := by
  rw [Share.unwait, gran_setGran]
  split
  · next hm => rw [hm]
  · rfl

theorem bankGo_eq (k : Ctx) (me : ThreadId × WaveId × BitVec 8) (ps : List Piece) : k.bankGo me ps
    = (granules ps).foldl (fun k q => k.modShare q.1 fun h => h.unwait me q.2) k := rfl

theorem pads_bankGo (k : Ctx) (me : ThreadId × WaveId × BitVec 8) (ps : List Piece) : (k.bankGo me ps).pads = k.pads := by
  rw [bankGo_eq]
  refine foldl_keeps Ctx.pads ?_ _ k
  intro k q
  exact congrArg (Prod.mk k.logs) (each_modShare k q.1 (f := fun h => h.unwait me q.2) (share_lcl k q.1)
    (congrArg (Prod.mk _) (funext fun m => st_unwait (k.share q.1) me q.2 m)))

theorem num_bankGo (k : Ctx) (me : ThreadId × WaveId × BitVec 8) (ps : List Piece) : (k.bankGo me ps).num = k.num := by
  rw [bankGo_eq]
  refine foldl_keeps Ctx.num ?_ _ k
  intro _ _
  rfl

/-- A store that touches no WAITING granule writes its bytes, and answers nobody. -/
theorem scratchSt_unread {k : Ctx} {l off : Nat} {bs : List Byte}
    (h : ∀ i, i < bs.length → ((k.share l).gran ((off + i) / 16)).st ≠ 2) :
    k.scratchSt l off bs = k.modShare l fun h => { h with bytes := wrN h.bytes off bs } := by
  have hst : ∀ g ∈ ((List.range bs.length).map fun i => (off + i) / 16).eraseDups, ((k.share l).gran g).st ≠ 2 := by
    intro g hg
    obtain ⟨i, hi, rfl⟩ := List.mem_map.1 (List.mem_eraseDups.1 hg)
    exact h i (List.mem_range.1 hi)
  have hsettle : ((List.range bs.length).map fun i => (off + i) / 16).eraseDups.foldl Share.settle (k.share l) = k.share l :=
    foldl_idle fun g hg => if_neg (hst g hg)
  have hnone : (((List.range bs.length).map fun i => (off + i) / 16).eraseDups.filter fun g => ((k.share l).gran g).st = 2) = [] :=
    List.filter_eq_nil_iff.2 fun g hg => by simpa using hst g hg
  unfold Ctx.scratchSt Ctx.modShare
  simp only [hsettle, hnone, List.foldl_nil]

/-! ### Its performance (04 R106, R107) -/

theorem logCount_none {s : State} {c : CtxId} {k : Ctx} (hk : s.ctx c = some k) (hl : k.logs = []) (ps : List Piece)
    (kinds : BitVec 8) : s.logCount c ps kinds = (s, true) :=
  foldl_idle fun q _ => by simp only [hk, hl]; rfl

/-- What a context without access logs counts never waits for a log. -/
theorem logFull_none {s : State} {c : CtxId} {k : Ctx} (hk : s.ctx c = some k) (hl : k.logs = []) (ps : List Piece)
    (kinds : BitVec 8) : s.logFull c ps kinds = false := by
  unfold State.logFull
  simp only [hk, hl, logCount_none hk hl ps kinds, List.any_nil, Bool.false_or, Bool.not_true]

theorem amend_id (r : Perf) : r.amend id = r := by cases r <;> rfl

/-- A store, an atomic or a reduction accesses its own pieces alone. -/
theorem performMem_plain {s : State} {k : Ctx} {o : MemOp} (ho : o.act = .st ∨ o.act.isRmw = true) (me : Committed) (pick : Nat) :
    s.performMem k me o pick none = s.performPlain k.num me o pick none
    ∧ s.queueHurt k o none = none := by
  have own : o.act.onQueue = none ∧ s.queueRuns k o = [] ∧ s.performAct k me o pick none = s.performPlain k.num me o pick none := by
    unfold State.queueRuns State.performAct
    generalize o.act = a at ho
    obtain rfl | hr := ho
    · exact ⟨rfl, rfl, rfl⟩
    · cases a <;> cases hr <;> exact ⟨rfl, rfl, rfl⟩
  obtain ⟨hq, hr, hp⟩ := own
  unfold State.performMem State.queueGone State.queueHurt
  rw [hq, hr, hp]
  exact ⟨amend_id _, rfl⟩

/-- The state in which a committed access is performed: it waits in no bank any more, and a release has come before it. -/
def State.atBank (s : State) (k : Ctx) (me : Committed) (o : MemOp) : State :=
  (s.setCtx (k.bankGo (me.thread, me.wave, o.m.own) o.ps)).releaseAt k.num (k.phys me.lcl) o.m.ord o.m.scp

/-- The effect of an access in that state: of a torn one on one byte, of another in one step. -/
def State.performed (s : State) (k : Ctx) (me : Committed) (o : MemOp) (pick : Nat) (writes hurt : Bool) : Perf :=
  if o.torn then s.storeByte k.num me.lcl (k.phys me.lcl) o pick
  else
    let r := (s.spend k.num me.lcl (k.phys me.lcl) writes o.ps).doPlain k.num (k.phys me.lcl) me o hurt
    .done (if o.act.isRmw then { r.1 with mem := r.1.mem.acquire (k.phys me.lcl) o.m.ord o.m.scp } else r.1) r.2 r.2

/-- An access that nothing makes wait is performed. -/
theorem performPlain_goes {s : State} {k : Ctx} {o : MemOp} {me : Committed} (hk : s.ctx k.num = some k) (hl : k.logs = [])
    (ho : o.act = .st ∨ o.act.isRmw = true) (hw : ∀ p ∈ o.ps, pieceWaits s.mem k p true = false)
    (hp : o.act.isRmw = true → ∀ p ∈ o.ps, piecePoison s.mem p = false)
    (hb : k.bankHolds (me.thread, me.wave, o.m.own) o.ps = false) (pick : Nat) :
    s.performPlain k.num me o pick none = (s.atBank k me o).performed k me o pick true false := by
  have hhurt : (o.act.isRmw && (readError s.mem o.ps none).isSome) = false := by
    cases hr : o.act.isRmw with
    | false => rfl
    | true => rw [readError_none (hp hr)]; rfl
  have hwaits : (o.ps.any fun p => pieceWaits s.mem k p true && !k.movesToo me.lcl p) = false :=
    List.any_eq_false.2 fun p h => by simp [hw p h]
  obtain ⟨hown, hwrites⟩ : (o.act == .own) = false ∧ (o.act != .own && o.act != .clean && o.act != .flush) = true := by
    rcases ho with h | h
    · rw [h]; exact ⟨rfl, rfl⟩
    · generalize o.act = a at h
      cases a <;> cases h <;> exact ⟨rfl, rfl⟩
  unfold State.performPlain
  rw [hk]
  refine (if_neg ?_).trans ((if_neg ?_).trans ((if_neg ?_).trans ((if_neg ?_).trans ?_)))
  · rw [hwaits]; exact Bool.false_ne_true
  · rw [logFull_none hk hl, Bool.and_false]; exact Bool.false_ne_true
  · rw [hown, Bool.false_and]; exact Bool.false_ne_true
  · rw [hb, Bool.and_false]; exact Bool.false_ne_true
  · change State.performed (if (o.act.isRmw && (readError s.mem o.ps none).isSome
        || (o.act == .st && decide ((Option.getD (none : Option (BitVec 2)) 3).toNat ≤ 1))) = true
      then (s.atBank k me o).poisonOf o else s.atBank k me o) k me o pick (o.act != .own && o.act != .clean && o.act != .flush)
      (o.act.isRmw && (readError s.mem o.ps none).isSome) = _
    rw [hwrites, hhurt, if_neg]
    rw [Bool.false_or, show decide ((Option.getD (none : Option (BitVec 2)) 3).toNat ≤ 1) = false from rfl, Bool.and_false]
    exact Bool.false_ne_true

theorem releaseAt_relaxed (s : State) (c : CtxId) (clu : Nat) (scp : BitVec 2) : s.releaseAt c clu 0 scp = s := rfl

/-- A relaxed access finds the memory as it was, and its context but for who waits at granules. -/
theorem atBank_relaxed {s : State} {k : Ctx} {me : Committed} {o : MemOp} (hk : s.ctx k.num = some k) (ho : o.m.ord = 0) :
    (s.atBank k me o).mem = s.mem
    ∧ (s.atBank k me o).ctx k.num = some (k.bankGo (me.thread, me.wave, o.m.own) o.ps) := by
  unfold State.atBank
  rw [ho, releaseAt_relaxed]
  exact ⟨rfl, ctx_setCtx hk (num_bankGo ..)⟩

/-- STORE_PERFORM performs the operation that is next, once none must come before it. -/
theorem exec_storePerform {c : CtxId} {th : ThreadId} {n : Nat} {s : State} {k : Ctx} {me : Committed} {o : MemOp}
    (hk : s.ctx c = some k) (hs : k.state ≠ 3) (hn : (k.committed.filter fun e => e.thread == th && !e.waiting)[n]? = some me)
    (hf : k.followed s.mem me = false) (hi : me.item = .mem o) (hh : s.queueHurt k o none = none) (pick : Nat) :
    exec (.storePerform c th n pick none) s = .next ((s.performMem k me o pick none).settle c me) := by
  have hfound : (s.ctx c).filter (·.state != 3) = some k := by
    simpa [hk, Option.filter] using hs
  show execStorePerform c th n pick none s = _
  unfold execStorePerform State.performOne
  rw [hfound]
  simp only [hn, hf, hk, hi, hh, Bool.false_eq_true, if_false]

/-! ### What is left when it is done (04 R106, R108) -/

theorem emitLate_notDue {c : Committed} (h : c.due = false) (k : Ctx) (blk : Addr) (seen : Seen) (r : Route) (v1 v2 : Value) :
    k.emitLate c blk seen r v1 v2 = k := by
  unfold Ctx.emitLate
  split
  · rfl
  · rw [if_pos (by simp [h])]

theorem unparkItem_num (k : Ctx) (me : Committed) : (k.unparkItem me).num = k.num ∧ (k.unparkItem me).shares = k.shares := by
  unfold Ctx.unparkItem
  split <;> exact ⟨rfl, rfl⟩

/-- An operation that awaits no result and is done, or is done in part, changes no memory and no share by leaving. -/
theorem settle_notDue {r : Perf} {t : State} {c : CtxId} {me : Committed} {j : Ctx} (hd : me.due = false)
    (hr : (∃ v1 v2, r = .done t v1 v2) ∨ ∃ o, r = .part t o) (hj : t.ctx c = some j) :
    (r.settle c me).mem = t.mem ∧ inCtx (r.settle c me) c fun i => i.shares = j.shares := by
  obtain ⟨hnum, hshares⟩ := unparkItem_num j me
  obtain ⟨v1, v2, rfl⟩ | ⟨o, rfl⟩ := hr
  · refine ⟨modCtx_mem .., inCtx_modCtx hj ?_ ?_⟩ <;> rw [emitLate_notDue hd]
    · exact hnum
    · exact hshares
  · exact ⟨modCtx_mem .., inCtx_modCtx hj rfl rfl⟩

/-! ### A store of one piece, or of one byte of it (03 R87, 04 R111) -/

/-- A state in which a store's bytes can be written: the memory stands, and what its context has of scratchpads. -/
def State.poised (t s : State) (c : CtxId) (k : Ctx) : Prop := t.mem = s.mem ∧ inCtx t c fun j => j.num = c ∧ j.pads = k.pads

theorem poised_spend {s : State} {c : CtxId} {k : Ctx} {t : State} (h : t.poised s c k) (lcl clu : Nat) (write : Bool)
    (ps : List Piece) : (t.spend c lcl clu write ps).poised s c k := by
  obtain ⟨hm, j, hj, hn, hp⟩ := h
  obtain ⟨i, hi, hip⟩ := found_of_agrees (agrees_spend tallied_pads t c lcl clu write ps) hj
  exact ⟨(spend_mem ..).trans hm, i, hi, ctx_num hi, hip.trans hp⟩

theorem poised_atBank {s : State} {k : Ctx} {me : Committed} {o : MemOp} (hk : s.ctx k.num = some k) (ho : o.m.ord = 0) :
    (s.atBank k me o).poised s k.num k := by
  obtain ⟨hm, hc⟩ := atBank_relaxed (me := me) hk ho
  exact ⟨hm, _, hc, num_bankGo .., pads_bankGo ..⟩

theorem storeTo_one {s : State} {c : CtxId} {clu : Nat} {o : MemOp} {q : Piece} (hq : ∀ off, q.tr.place ≠ .control off) (bs : List Byte) :
    s.storeTo c clu o [q] bs = s.storePiece c (.cluster clu) q (bs.take q.n) (releases o.m.ord && wideScope o.m.scp) := by
  unfold State.storeTo
  rw [if_neg]
  · rfl
  · cases hp : q.tr.place with
    | control off => exact absurd hp (hq off)
    | _ => simp [hp]

/-- Bytes written to HBM that acts as IO memory. -/
theorem storeTo_hbm {t s : State} {c : CtxId} {k : Ctx} (h : t.poised s c k) {q : Piece} (hp : q.tr.place = .hbm)
    (ha : s.mem.actsAs q.tr = 3) (hkey : ∀ r, tget s.mem.key (q.tr.pa / 64) = some r → q.tr.key = some r) {bs : List Byte}
    (hn : bs.length = q.n) (clu : Nat) (o : MemOp) :
    (t.storeTo c clu o [q] bs).mem.hbm = wrN s.mem.hbm q.tr.pa bs
    ∧ (t.storeTo c clu o [q] bs).mem.host = s.mem.host ∧ (t.storeTo c clu o [q] bs).mem.peer = s.mem.peer
    ∧ inCtx (t.storeTo c clu o [q] bs) c fun j => j.pads = k.pads := by
  obtain ⟨hm, j, hj, -, hpads⟩ := h
  rw [storeTo_one (by simp [hp]), List.take_of_length_le (Nat.le_of_eq hn)]
  simp only [State.storePiece, hp, hm, storeAt_io hp ha]
  exact ⟨homeWrite_own c bs hkey, (homeWrite_places ..).1, (homeWrite_places ..).2, j, hj, hpads⟩

/-- Bytes written to a scratchpad where no reader waits. -/
theorem storeTo_scratch {t s : State} {c : CtxId} {k : Ctx} (h : t.poised s c k) {q : Piece} {l off : Nat}
    (hp : q.tr.place = .scratch l off) {bs : List Byte} (hn : bs.length = q.n)
    (hst : ∀ i, i < bs.length → ((k.share l).gran ((off + i) / 16)).st ≠ 2) (clu : Nat) (o : MemOp) :
    (t.storeTo c clu o [q] bs).mem = s.mem ∧ inCtx (t.storeTo c clu o [q] bs) c fun j =>
      (j.share l).bytes = wrN (k.share l).bytes off bs ∧ ∀ m, m ≠ l → (j.share m).bytes = (k.share m).bytes := by
  obtain ⟨hm, j, hj, -, hpads⟩ := h
  rw [storeTo_one (by simp [hp]), List.take_of_length_le (Nat.le_of_eq hn)]
  simp only [State.storePiece, hp]
  refine ⟨(modCtx_mem ..).trans hm, inCtx_modCtx hj (scratchSt_num ..) ?_⟩
  rw [scratchSt_unread fun i hi => by rw [st_of_pads hpads]; exact hst i hi]
  refine ⟨?_, fun m hml => ?_⟩
  · rw [share_modShare_same j l (share_lcl j l), ← bytes_of_pads hpads]
  · rw [share_modShare j l m (share_lcl j l), if_neg hml, bytes_of_pads hpads]

theorem poised_logAccess {s t : State} {c : CtxId} {k : Ctx} (h : t.poised s c k) (hl : k.logs = []) (ps : List Piece)
    (kinds : BitVec 8) : (t.logAccess c ps kinds).poised s c k := by
  obtain ⟨-, j, hj, -, hp⟩ := id h
  rw [logAccess_none hj ((logs_of_pads hp).trans hl)]
  exact h

theorem length_storeBytes {o : MemOp} (h : o.act = .st) : o.storeBytes.length = o.size := by
  unfold MemOp.storeBytes
  rw [h]
  exact length_leBytes ..

theorem bytePieces_one {o : MemOp} {p : Piece} {i : Nat} (hps : o.ps = [p]) (hi : i < p.n) : o.bytePieces[i]? = some (p.byteAt i) := by
  simp [MemOp.bytePieces, hps, hi]

/-- A torn store is counted with its first byte. -/
def State.countedOnce (s : State) (k : Ctx) (me : Committed) (o : MemOp) : State :=
  if o.part.isEmpty then (s.spend k.num me.lcl (k.phys me.lcl) true o.ps).logAccess k.num o.ps
    (s.plainKinds default (k.phys me.lcl) o false)
  else s

theorem storeByte_eq (s : State) (k : Ctx) (me : Committed) (o : MemOp) (pick : Nat) :
    s.storeByte k.num me.lcl (k.phys me.lcl) o pick
      = if o.part.length + 1 ≥ o.size then
          .done ((s.countedOnce k me o).storeTo k.num (k.phys me.lcl) o (o.bytePieces[o.nextByte pick]?).toList
            [o.storeBytes.getD (o.nextByte pick) 0]) 0 0
        else .part ((s.countedOnce k me o).storeTo k.num (k.phys me.lcl) o (o.bytePieces[o.nextByte pick]?).toList
            [o.storeBytes.getD (o.nextByte pick) 0]) (o.withByte (o.nextByte pick) (o.storeBytes.getD (o.nextByte pick) 0)) := rfl

section
variable {s t : State} {k : Ctx} {me : Committed} {o : MemOp} (ht : t.poised s k.num k) (hl : k.logs = [])
include ht hl

/-- A store that is not torn writes all its bytes. -/
theorem performed_whole (hact : o.act = .st) (htorn : o.torn = false) (pick : Nat) : ∃ u : State, u.poised s k.num k
    ∧ t.performed k me o pick true false = .done (u.storeTo k.num (k.phys me.lcl) o o.ps o.storeBytes) 0 0 := by
  refine ⟨_, poised_logAccess (poised_spend ht me.lcl (k.phys me.lcl) true o.ps) hl o.ps
    ((t.spend k.num me.lcl (k.phys me.lcl) true o.ps).plainKinds default (k.phys me.lcl) o false), ?_⟩
  unfold State.performed State.doPlain
  rw [htorn, hact]
  rfl

theorem poised_countedOnce : (t.countedOnce k me o).poised s k.num k := by
  unfold State.countedOnce
  split
  · exact poised_logAccess (poised_spend ht ..) hl ..
  · exact ht

/-- A torn store writes one byte. -/
theorem performed_byte {p : Piece} (htorn : o.torn = true) (hps : o.ps = [p]) (pick : Nat) (hi : o.nextByte pick < p.n) :
    ∃ u : State, u.poised s k.num k ∧
      let v := u.storeTo k.num (k.phys me.lcl) o [p.byteAt (o.nextByte pick)] [o.storeBytes.getD (o.nextByte pick) 0]
      (∃ v1 v2, t.performed k me o pick true false = .done v v1 v2) ∨ ∃ o1, t.performed k me o pick true false = .part v o1 := by
  refine ⟨_, poised_countedOnce (me := me) (o := o) ht hl, ?_⟩
  have hbyte := storeByte_eq t k me o pick
  rw [bytePieces_one hps hi] at hbyte
  rw [show t.performed k me o pick true false = _ from (if_pos htorn).trans hbyte]
  split
  · exact .inl ⟨0, 0, rfl⟩
  · exact .inr ⟨_, rfl⟩

end

/-! ### Stores at their turn (03 R87, 04 R106, R111) -/

section
variable {c : CtxId} {th : ThreadId} {n : Nat} {s : State} {k : Ctx} {me : Committed} {o : MemOp} {p : Piece}
  (hnext : s.nextStore c th n k me o) (hact : o.act = .st) (hps : o.ps = [p]) (hw : pieceWaits s.mem k p true = false)
  (hb : k.bankHolds (me.thread, me.wave, o.m.own) o.ps = false)
include hnext hact hps hw hb

/-- A store of one piece that nothing makes wait is performed, and what it leaves is what its performance leaves. -/
theorem answers_nextStore {t : State} (pick : Nat) {P : Mems → (Nat → List Host.Cell) → Prop}
    (hr : (∃ v1 v2, (s.atBank k me o).performed k me o pick true false = .done t v1 v2)
      ∨ ∃ o1, (s.atBank k me o).performed k me o pick true false = .part t o1)
    (hP : inCtx t c fun j => P t.mem fun l => (j.share l).bytes) :
    answers (.storePerform c th n pick none) s fun u => inCtx u c fun j => P u.mem fun l => (j.share l).bytes := by
  obtain ⟨hk, hs, hl, hn, hf, hdue, hi, hord⟩ := hnext
  obtain rfl : k.num = c := ctx_num hk
  obtain ⟨hmem, hhurt⟩ := performMem_plain (s := s) (k := k) (.inl hact) me pick
  obtain ⟨j, hj, hPj⟩ := hP
  have hgoes := performPlain_goes (me := me) hk hl (.inl hact) (by simpa [hps] using hw) (by simp [hact, MemAct.isRmw]) hb pick
  obtain ⟨hm, i, hi', hsh⟩ := settle_notDue (r := s.performMem k me o pick none) hdue (by rw [hmem, hgoes]; exact hr) hj
  refine answers_of_exec (exec_storePerform hk hs hn hf hi hhurt pick) ⟨i, hi', ?_⟩
  rw [hm]
  simpa only [share_of_shares hsh] using hPj

/-- A whole store of one piece at its turn leaves what writing its bytes to the piece leaves. -/
theorem answers_wholeStore (htorn : o.torn = false) (pick : Nat) {P : Mems → (Nat → List Host.Cell) → Prop}
    (hP : ∀ t : State, t.poised s c k → inCtx (t.storeTo c (k.phys me.lcl) o [p] o.storeBytes) c fun j =>
      P (t.storeTo c (k.phys me.lcl) o [p] o.storeBytes).mem fun l => (j.share l).bytes) :
    answers (.storePerform c th n pick none) s fun u => inCtx u c fun j => P u.mem fun l => (j.share l).bytes := by
  obtain ⟨hk, -, hl, -, -, -, -, hord⟩ := id hnext
  obtain rfl : k.num = c := ctx_num hk
  obtain ⟨t, ht, hr⟩ := performed_whole (poised_atBank (me := me) hk hord) hl hact htorn pick
  rw [hps] at hr
  exact answers_nextStore hnext hact hps hw hb pick (.inl ⟨0, 0, hr⟩) (hP t ht)

/-- A torn one leaves what writing the byte that comes next leaves. -/
theorem answers_byteStore (htorn : o.torn = true) (pick : Nat) (hi : o.nextByte pick < p.n) {P : Mems → (Nat → List Host.Cell) → Prop}
    (hP : ∀ t : State, t.poised s c k →
      let u := t.storeTo c (k.phys me.lcl) o [p.byteAt (o.nextByte pick)] [o.storeBytes.getD (o.nextByte pick) 0]
      inCtx u c fun j => P u.mem fun l => (j.share l).bytes) :
    answers (.storePerform c th n pick none) s fun u => inCtx u c fun j => P u.mem fun l => (j.share l).bytes := by
  obtain ⟨hk, -, hl, -, -, -, -, hord⟩ := id hnext
  obtain rfl : k.num = c := ctx_num hk
  obtain ⟨t, ht, hr⟩ := performed_byte (poised_atBank (me := me) hk hord) hl htorn hps pick hi
  exact answers_nextStore hnext hact hps hw hb pick hr (hP t ht)

end

theorem bankHolds_hbm {p : Piece} (hp : p.tr.place = .hbm) (k : Ctx) (me : ThreadId × WaveId × BitVec 8) :
    k.bankHolds me [p] = false := by
  simp [Ctx.bankHolds, granules, hp]

/-- An answer of which less is asked. -/
theorem answers_mono {i : Instr} {s : State} {P Q : State → Prop} (h : answers i s P) (hPQ : ∀ t, P t → Q t) : answers i s Q := by
  obtain ⟨t, ht, hP⟩ := h
  exact ⟨t, ht, hPQ t hP⟩

/-- Settles O50: each clause by what is written where its store's bytes, or its next byte, go. -/
theorem storesWriteTheirBytes : Obligations.StoresWriteTheirBytes := by
  unfold Obligations.StoresWriteTheirBytes
  refine ⟨?hbm, ?scratch, ?hbmByte, ?scratchByte⟩
  case hbm =>
    intro c th n pick s k me o p hinv hnext hact htorn hps hn hp ha hkey hw
    refine answers_mono (answers_wholeStore hnext hact hps hw (by rw [hps]; exact bankHolds_hbm hp ..) htorn pick
      (P := fun m b => m.hbm = wrN s.mem.hbm p.tr.pa o.storeBytes ∧ m.host = s.mem.host ∧ m.peer = s.mem.peer
        ∧ ∀ l, b l = (k.share l).bytes) ?_) ?_
    · intro t ht
      obtain ⟨hh, hho, hpe, j, hj, hpads⟩ := storeTo_hbm ht hp ha hkey ((length_storeBytes hact).trans hn.symm) (k.phys me.lcl) o
      exact ⟨j, hj, hh, hho, hpe, bytes_of_pads hpads⟩
    · rintro t ⟨j, hj, hh, hho, hpe, hb⟩
      rw [hh]
      exact ⟨by simpa [length_storeBytes hact] using rdN_wrN_same p.tr.pa o.storeBytes hinv.1.1,
        fun a hout => rd_wrN_other _ (by rw [length_storeBytes hact]; exact hout), hho, hpe, j, hj, hb⟩
  case scratch =>
    intro c th n pick s k me o p l off hnext hact htorn hps hn hp hw hb hst
    refine answers_mono (answers_wholeStore hnext hact hps hw hb htorn pick (P := fun m b => m = s.mem
      ∧ b l = wrN (k.share l).bytes off o.storeBytes ∧ ∀ i, i ≠ l → b i = (k.share i).bytes) ?_)
      fun t ⟨j, hj, hm, hb⟩ => ⟨hm, j, hj, hb⟩
    intro t ht
    have hlen := length_storeBytes hact
    obtain ⟨hm, j, hj, hb⟩ := storeTo_scratch ht hp (hlen.trans hn.symm)
      (fun i hi => hst _ (by omega) (Nat.div_le_div_right (by omega))) (k.phys me.lcl) o
    exact ⟨j, hj, hm, hb⟩
  case hbmByte =>
    intro c th n pick i s k me o p hinv hnext hact htorn _ hi hps hn hsize hp ha hkey hw
    subst hi
    refine answers_mono (answers_byteStore hnext hact hps hw (by rw [hps]; exact bankHolds_hbm hp ..) htorn pick (hn ▸ hsize)
      (P := fun m _ => m.hbm = wrN s.mem.hbm (p.tr.pa + o.nextByte pick) [o.storeBytes.getD (o.nextByte pick) 0]) ?_) ?_
    · intro t ht
      obtain ⟨hh, -, -, j, hj, -⟩ := storeTo_hbm ht (q := p.byteAt (o.nextByte pick)) (by simp [Piece.byteAt, hp]) ha hkey
        (bs := [o.storeBytes.getD (o.nextByte pick) 0]) rfl (k.phys me.lcl) o
      exact ⟨j, hj, hh⟩
    · rintro t ⟨-, -, hh⟩
      rw [hh]
      exact ⟨rd_wr_same _ _ hinv.1.1, fun a hout => rd_wr_other _ hout⟩
  case scratchByte =>
    intro c th n pick i s k me o p l off hnext hact htorn hi hsize hps hn hp hw hb hst
    subst hi
    refine answers_mono (answers_byteStore hnext hact hps hw hb htorn pick (hn ▸ hsize) (P := fun m b => m = s.mem
      ∧ b l = wrN (k.share l).bytes (off + o.nextByte pick) [o.storeBytes.getD (o.nextByte pick) 0]
      ∧ ∀ i, i ≠ l → b i = (k.share i).bytes) ?_) fun t ⟨j, hj, hm, hb⟩ => ⟨hm, j, hj, hb⟩
    intro t ht
    obtain ⟨hm, j, hj, hb⟩ := storeTo_scratch ht (q := p.byteAt (o.nextByte pick)) (l := l) (off := off + o.nextByte pick)
      (by simp [Piece.byteAt, hp]) (bs := [o.storeBytes.getD (o.nextByte pick) 0]) rfl
      (fun i hi => by obtain rfl : i = 0 := by simpa using hi
                      exact hst) (k.phys me.lcl) o
    exact ⟨j, hj, hm, hb⟩

end Sys2Proof.Machine
end

section
/-! PROOFS. An atomic that stores nothing, and `Obligations.MemoryFamilyEffects` (03 R96, R361). -/

namespace Sys2Proof.Machine

/-! ### Atomics that store nothing (03 R98, R361) -/

/-- The value that an atomic finds in HBM that acts as IO memory. -/
theorem rmwFinds_io {s : State} {p : Piece} (hp : p.tr.place = .hbm) (ha : s.mem.actsAs p.tr = 3) (k : Ctx) (clu : Nat) :
    s.rmwFinds k clu p false
      = (s.mem.passL2 (p.tr.pa / 64) none, .home, leNat ((List.range p.n).map fun i => s.mem.keyed p.tr.key (p.tr.pa + i))) := by
  have hpoint : s.mem.atomPoint clu p = (s.mem.passL2 (p.tr.pa / 64) none, .home) := by
    simp only [Mems.atomPoint, hp, ha]
  have hacts : (s.mem.passL2 (p.tr.pa / 64) none).actsAs p.tr = 3 := ha
  unfold State.rmwFinds
  rw [hpoint]
  simp only [pieceBytes, hp, hacts]
  rfl

section
variable {s : State} {c : CtxId} {k : Ctx} {o : MemOp} {p : Piece} (hk : s.ctx c = some k) (hl : k.logs = []) (hps : o.ps = [p])
  (hp : p.tr.place = .hbm) (ha : s.mem.actsAs p.tr = 3)
  (hnone : o.newValue (leNat ((List.range p.n).map fun i => s.mem.keyed p.tr.key (p.tr.pa + i))) = none)
include hk hl hps hp ha hnone

/-- One that stores nothing leaves HBM as it was. -/
theorem performRmw_unstored (clu : Nat) : (s.performRmw c clu o false).1.mem.hbm = s.mem.hbm := by
  have hdry : k.waitingAt p = false := by simp only [Ctx.waitingAt, hp]
  have hlog : (s.performRmw c clu o false).1 = ({ s with mem := s.mem.passL2 (p.tr.pa / 64) none } : State).logAccess c [p]
      (s.plainKinds k clu o false) := by
    unfold State.performRmw
    simp only [hk, hps, rmwFinds_io hp ha, hnone, hdry]
    rfl
  rw [hlog]
  exact congrArg (·.mem.hbm) (logAccess_none (s := { s with mem := s.mem.passL2 (p.tr.pa / 64) none }) hk hl [p] _)

end

theorem settle_done_mem (t : State) (v1 v2 : Value) (c : CtxId) (me : Committed) : ((Perf.done t v1 v2).settle c me).mem = t.mem :=
  modCtx_mem ..

/-- What an atomic does in a state where its bytes stand. -/
theorem performed_rmw {o : MemOp} (hr : o.act.isRmw = true) (hord : o.m.ord = 0) (t : State) (k : Ctx) (me : Committed) (pick : Nat) :
    ∃ u v, t.performed k me o pick true false = .done u v v
      ∧ u.mem = ((t.spend k.num me.lcl (k.phys me.lcl) true o.ps).performRmw k.num (k.phys me.lcl) o false).1.mem := by
  have hacts : o.torn = false ∧ ∀ w : State, w.doPlain k.num (k.phys me.lcl) me o false = w.performRmw k.num (k.phys me.lcl) o false := by
    unfold MemOp.torn State.doPlain
    generalize o.act = a at hr
    cases a <;> cases hr <;> exact ⟨rfl, fun _ => rfl⟩
  obtain ⟨htorn, hdo⟩ := hacts
  refine ⟨_, _, (if_neg (by rw [htorn]; exact Bool.false_ne_true)).trans rfl, ?_⟩
  rw [hdo, hr, hord]
  rfl

section
variable {s : State} {c : CtxId} {th : ThreadId} {n : Nat} {k : Ctx} {me : Committed} {o : MemOp} {p : Piece}
  (hnext : s.nextOp c th n k me o) (hone : s.onePiece k me o p) (hr : o.act.isRmw = true) (hord : o.m.ord = 0)
  (hp : p.tr.place = .hbm) (ha : s.mem.actsAs p.tr = 3)
  (hnone : o.newValue (leNat ((List.range p.n).map fun i => s.mem.keyed p.tr.key (p.tr.pa + i))) = none)
include hnext hone hr hord hp ha hnone

/-- An atomic that stores nothing, performed at its turn, leaves HBM as it was. -/
theorem exec_unstored (pick : Nat) : ∃ t, exec (.storePerform c th n pick none) s = .next t ∧ t.mem.hbm = s.mem.hbm := by
  obtain ⟨hk, hs, hl, hn, hf, hi, -⟩ := hnext
  obtain ⟨hps, -, hw, hpoison, hb⟩ := hone
  obtain rfl : k.num = c := ctx_num hk
  obtain ⟨hplain, hhurt⟩ := performMem_plain (s := s) (k := k) (.inr hr) me pick
  have hgoes := performPlain_goes (me := me) hk hl (.inr hr) (by simpa [hps] using hw) (by simpa [hps] using fun _ => hpoison) hb pick
  obtain ⟨u, v, hdone, hmem⟩ := performed_rmw hr hord (s.atBank k me o) k me pick
  refine ⟨_, exec_storePerform hk hs hn hf hi hhurt pick, ?_⟩
  rw [hplain, hgoes, hdone, settle_done_mem, hmem]
  obtain ⟨hm, j, hj, -, hpads⟩ := poised_spend (poised_atBank (me := me) hk hord) me.lcl (k.phys me.lcl) true o.ps
  rw [← hm] at ha hnone ⊢
  exact performRmw_unstored hj ((logs_of_pads hpads).trans hl) hps hp ha hnone (k.phys me.lcl)

end

/-- Bytes are the bytes of their number. -/
theorem leBytes_leNat (bs : List Byte) : leBytes bs.length (leNat bs) = bs := by
  induction bs with
  | nil => rfl
  | cons b bs ih =>
    have hlow : BitVec.ofNat 8 (b.toNat + 256 * leNat bs) = b := by
      apply BitVec.eq_of_toNat_eq
      have := b.isLt
      rw [BitVec.toNat_ofNat]
      omega
    have hhigh : (b.toNat + 256 * leNat bs) / 256 = leNat bs := by
      have := b.isLt
      omega
    simp only [List.length_cons, leNat, leBytes, hlow, hhigh, ih]

/-! ### A failing comparison over a line of another key slot (03 R96) -/

/-- Two bytes of HBM under key slot 6, the first at the end of a line and the second in a line last written under slot 5. -/
def crossingPiece : Piece := { (default : Piece) with
  va := 63, n := 2, tr := { (default : Trans) with place := .hbm, pa := 63, coh := 3, key := some 6, w := true, rd := true } }

/-- A compare-and-swap of them, which expects an odd number. -/
def crossingOp : MemOp := { (default : MemOp) with
  act := .atom .cas, m := { (default : FormM) with sz := 1 }, b := 1, ps := [crossingPiece] }

/-- The same as a committed operation. -/
def crossingCas : Committed := { (default : Committed) with
  item := .mem crossingOp }

/-- A context that has committed nothing else. -/
def crossingCtx : Ctx := { (default : Ctx) with num := 0, state := 1, logs := [], committed := [crossingCas], shares := [] }

/-- The machine whose next committed operation it is, with 1 or 0 standing for the second byte. -/
def crossing (b : Bool) : State := { State.reset with
  ctxs := [crossingCtx]
  mem := { State.reset.mem with key := [(1, 5)], hbm := if b then [(64, 1)] else [] } }

theorem crossing_inv (b : Bool) : (crossing b).Inv := by
  have hmem : ∀ b : Bool, (crossing b).mem.canonical := by unfold Mems.canonical; decide +kernel
  refine ⟨hmem b, fun k hk h hh => ?_⟩
  obtain rfl := List.mem_singleton.1 hk
  exact absurd hh List.not_mem_nil

/-- It is next, and nothing makes it wait. -/
theorem crossing_next (b : Bool) : (crossing b).nextOp 0 0 0 crossingCtx crossingCas crossingOp
    ∧ (crossing b).onePiece crossingCtx crossingCas crossingOp crossingPiece := by
  have hgoes : ∀ b : Bool, pieceWaits (crossing b).mem crossingCtx crossingPiece true = false
      ∧ piecePoison (crossing b).mem crossingPiece = false := by decide +kernel
  obtain ⟨hwaits, hpoison⟩ := hgoes b
  refine ⟨⟨rfl, by decide, rfl, rfl, ?_, rfl, ?_⟩, rfl, rfl, hwaits, hpoison, by decide +kernel⟩
  · have hfollowed : ∀ b : Bool, crossingCtx.followed (crossing b).mem crossingCas = false := by decide +kernel
    exact hfollowed b
  · rintro o ho
    obtain rfl : crossingOp = o := Item.mem.inj ho
    exact (performMem_plain (.inr rfl) crossingCas 0).2

/-- The number that it finds: the byte that stands first, and what slot 6 makes of the other. -/
def crossingOld : Nat := leNat [0, Config.garble 5 6 64]

theorem crossing_finds (b : Bool) : leNat ((List.range 2).map fun i => (crossing b).mem.keyed (some 6) (63 + i)) = crossingOld := by
  cases b <;> rfl

/-- It is even, so nothing is stored. -/
theorem crossingOp_newValue : crossingOp.newValue crossingOld = none :=
  if_neg fun h : crossingOld = 1 => by
    have hodd : 0 + 256 * ((Config.garble 5 6 64).toNat + 256 * 0) = 1 := h
    omega

theorem leBytes_crossingOld : leBytes 2 crossingOld = [0, Config.garble 5 6 64] :=
  leBytes_leNat [0, Config.garble 5 6 64]

/-- The byte that stands in memory can be made another than the one found. -/
theorem crossing_garbled : ∃ b, rd (crossing b).mem.hbm 64 ≠ Config.garble 5 6 64 := by
  by_cases h : Config.garble 5 6 64 = 0
  · exact ⟨true, by rw [h]; decide +kernel⟩
  · exact ⟨false, fun h0 => h h0.symm⟩

/-! ### The statement -/

/-- Refutes O51: its clause on atomics in HBM asks the first byte's line alone not to be written under another key slot. A failing
compare-and-swap that runs on into a line of another slot finds that line's bytes garbled (R96) and stores nothing, so memory does not
hold what it found. -/
theorem not_memoryFamilyEffects : ¬ Obligations.MemoryFamilyEffects := by
  rintro ⟨-, hrmw, -⟩
  obtain ⟨b, hgarbled⟩ := crossing_garbled
  obtain ⟨hnext, hone⟩ := crossing_next b
  obtain ⟨u, hu, hmem⟩ := exec_unstored hnext hone rfl rfl rfl rfl ((congrArg _ (crossing_finds b)).trans crossingOp_newValue) 0
  obtain ⟨-, t, ht, new, hnew, hbytes, -⟩ := hrmw 0 0 0 0 crossingOld (crossing b) crossingCtx crossingCas crossingOp crossingPiece
    (crossing_inv b) hnext rfl (fun h => nomatch h) rfl hone rfl rfl (fun _ h => nomatch h) (crossing_finds b).symm
  obtain rfl : u = t := Host.Outcome.next.inj (hu.symm.trans ht)
  obtain rfl : new = none := hnew.trans crossingOp_newValue
  rw [hmem] at hbytes
  exact hgarbled (List.cons.inj (List.cons.inj (hbytes.trans leBytes_crossingOld)).2).1

end Sys2Proof.Machine
end

section
/-! PROOFS. The host's queues and dispatch from bound queues (05 R150, R159, R160). -/

namespace Sys2Proof.Machine

/-! ### What the device's own accesses leave of a context -/

/-- A context without what the device's own accesses change: who waits and is answered, access logs, energy to be counted. -/
def Ctx.dealings (k : Ctx) : Ctx := { k.fixedPart with logs := [], unfolded := [] }

theorem dealings_of_fixedPart {j k : Ctx} (h : j.fixedPart = k.fixedPart) : j.dealings = k.dealings :=
  congrArg (fun i : Ctx => { i with logs := [], unfolded := [] }) h

theorem spared_dealings : Spared Ctx.dealings where
  scratchSt _ l _ _ := foldl_keeps Ctx.dealings (f := fun k g => k.filled l g)
    (fun k g => dealings_of_fixedPart (fixedPart_filled k l g)) _ _
  logs _ _ := rfl
  charge _ _ _ _ := rfl

theorem engineSpend_mem (s : State) (c : CtxId) (clu : Nat) (write : Bool) (ps : List Piece) :
    (s.engineSpend c clu write ps).mem = s.mem := modCtx_mem ..

theorem devSpend_mem (s : State) (k : Ctx) (va n : Nat) (write : Bool) : (s.devSpend k va n write).mem = s.mem := by
  unfold State.devSpend
  split
  · exact engineSpend_mem ..
  · rfl

@[simp] theorem modCtx_launchq (s : State) (c : CtxId) (f : Ctx → Ctx) : (s.modCtx c f).launchq = s.launchq :=
  (congrArg State.launchq (modCtx_outside s c f) :)

/-! ### The doorbell (05 R159, 16 R439) -/

theorem barReg_doorbellAt (c : CtxId) : barReg (doorbellAt c) = some (.doorbell c) := by
  have hc := c.isLt
  unfold barReg doorbellAt
  rw [if_neg (by omega), if_neg (by omega), if_pos (by simp; omega)]
  have : (0x100000 + c.toNat * 8 - 0x100000) / 8 = c.toNat := by omega
  rw [this, BitVec.ofNat_toNat, BitVec.setWidth_eq]

theorem answers_hostDoorbell {c : CtxId} {prod : BitVec 32} {s : State} {k : Ctx} (hk : s.ctx c = some k) :
    answers (.hostDoorbell c prod) s fun t => t.mem = s.mem ∧ t.ctx c = some { k with cmdprod := prod, doorbell := true } := by
  refine answers_of_exec (t := (s.modCtx c fun k => { k with cmdprod := prod }).modCtx c fun k => { k with doorbell := true }) ?_ ?_
  · show Host.Outcome.next (State.barWrite _ _ _) = _
    unfold State.barWrite
    rw [barReg_doorbellAt]
  · exact ⟨by simp, ctx_modCtx (ctx_modCtx hk rfl) rfl⟩

/-! ### Commands (05 R160) -/

/-- Where the next command of a context's ring stands. -/
def Ctx.commandAt (k : Ctx) : Nat := k.desc.cmdBase + (k.cmdcons + 1).toNat % 2 ^ k.desc.cmdLog2 * 64

/-- Its record. -/
def State.nextCommand (s : State) (k : Ctx) : LaunchRec :=
  { launchRecOf (leBytes 64 (s.devWord k k.commandAt 64)) with parent := 0xFFFFFFFF }

section
variable {c : CtxId} {s : State} {k : Ctx} (hk : s.ctx c = some k) (hbell : k.doorbell = true) (hcons : k.cmdcons ≠ k.cmdprod)
  (hstate : k.state ≠ 4) (hreach : s.devWaits k k.commandAt 64 false = false)
include hk hbell hcons hstate hreach

/-- A command that can be read is consumed in its turn, or reported. -/
theorem exec_hostCommand : exec (.hostCommand c) s = .next
    (if (s.nextCommand k).seq != k.cmdcons + 1 then
      (s.post c { hostEvent 4 with cmdseq := (s.nextCommand k).seq }).modCtx c fun k => { k with doorbell := false }
    else (s.consume k (s.nextCommand k)).devSpend k k.commandAt 64 false) := by
  rw [Ctx.commandAt] at hreach
  show execHostCommand c s = _
  unfold execHostCommand
  rw [hk]
  refine congrArg _ (if_neg ?_)
  rw [hbell, hreach, decide_eq_false hcons, decide_eq_false hstate]
  exact Bool.false_ne_true

theorem answers_hostCommand_outOfTurn {r : LaunchRec} (hr : r = s.nextCommand k) (hseq : r.seq ≠ k.cmdcons + 1) :
    answers (.hostCommand c) s fun t => t.mem = s.mem ∧ t.launchq = s.launchq ∧ inCtx t c fun j =>
      j.cmdcons = k.cmdcons ∧ j.doorbell = false ∧ j.events = k.events ++ [{ hostEvent 4 with cmdseq := r.seq }] := by
  subst hr
  refine answers_of_exec ((exec_hostCommand hk hbell hcons hstate hreach).trans (congrArg _ (if_pos (by simpa using hseq)))) ?_
  exact ⟨by simp [State.post], by simp [State.post], _, ctx_modCtx (post_ctx _ hk) rfl, rfl, rfl, rfl⟩

end

/-- A record that breaks no rule is queued. -/
theorem consume_queued {s : State} {k : Ctx} {r : LaunchRec} (hbad : s.launchBad k r = none)
    (hroom : s.queued (k.dieOf 0) r.prio.toNat < 1024) (hreach : s.devWaits k r.kimg.toNat 64 false = false)
    (hdone : s.doneWaits k r = false) : s.consume k r
      = ({ s with launchq := s.launchq ++
          [{ die := k.dieOf 0, prio := r.prio.toNat, ctx := k.num, lrec := r, fromHost := true, stamp := s.tick }] } : State).modCtx k.num
        fun k => { k with cmdcons := k.cmdcons + 1 } := by
  unfold State.consume
  rw [hreach, hdone, hbad]
  exact if_neg (Nat.not_le.2 hroom)

theorem answers_hostCommand_inTurn {c : CtxId} {s : State} {k : Ctx} {r : LaunchRec} (hk : s.ctx c = some k) (hbell : k.doorbell = true)
    (hcons : k.cmdcons ≠ k.cmdprod) (hstate : k.state ≠ 4) (hr : r = s.nextCommand k) (hseq : r.seq = k.cmdcons + 1)
    (hbad : s.launchBad k r = none) (hroom : s.queued (k.dieOf 0) r.prio.toNat < 1024)
    (hreach : s.devWaits k k.commandAt 64 false = false)
    (himg : s.devWaits k r.kimg.toNat 64 false = false) (hdone : s.doneWaits k r = false) :
    answers (.hostCommand c) s fun t => t.mem = s.mem
      ∧ t.launchq = s.launchq ++
          [{ die := k.dieOf 0, prio := r.prio.toNat, ctx := c, lrec := r, fromHost := true, stamp := s.tick }]
      ∧ inCtx t c fun j => j.cmdcons = k.cmdcons + 1 ∧ j.doorbell = true ∧ j.cmdprod = k.cmdprod ∧ j.events = k.events := by
  subst hr
  obtain rfl : k.num = c := ctx_num hk
  refine answers_of_exec ((exec_hostCommand hk hbell hcons hstate hreach).trans (congrArg _ (if_neg (by simpa using hseq)))) ?_
  rw [consume_queued hbad hroom himg hdone]
  generalize hq : ({ s with launchq := s.launchq ++ [_] } : State) = u
  have hu : u.ctx k.num = some k := by rw [← hq]; exact hk
  have hspent := agrees_devSpend spared_dealings (u.modCtx k.num fun k => { k with cmdcons := k.cmdcons + 1 }) k k.commandAt 64 false
  obtain ⟨j, hj, hsame⟩ := found_of_agrees hspent (ctx_modCtx hu rfl)
  refine ⟨?_, ?_, j, hj, ?_, ?_, ?_, ?_⟩
  · rw [devSpend_mem, modCtx_mem, ← hq]
  · exact (congrArg State.launchq hspent.outside :).trans ((modCtx_launchq ..).trans (by rw [← hq]))
  · exact (congrArg Ctx.cmdcons hsame :)
  · exact (congrArg Ctx.doorbell hsame :).trans hbell
  · exact (congrArg Ctx.cmdprod hsame :)
  · exact (congrArg Ctx.events hsame :)

/-! ### Events (05 R160) -/

theorem writeEvent_counts {s : State} {k : Ctx} (e : HostEvent) (hk : s.ctx k.num = some k) :
    inCtx (s.writeEvent k e) k.num fun j => j.num = k.num ∧ j.evprod = k.evprod + 1 ∧ j.evcons = k.evcons := by
  have hspent := fun va n bs => agrees_trans (agrees_devPut spared_dealings (s.devSpend k va n true) k va bs)
    (agrees_devSpend spared_dealings s k va n true)
  obtain ⟨j, hj, hsame⟩ := found_of_agrees (hspent _ _ _) hk
  exact inCtx_modCtx hj rfl ⟨(ctx_num hj :), rfl, (congrArg Ctx.evcons hsame :)⟩

theorem answers_hostEventWrite {c : CtxId} {cons : BitVec 32} {s : State} {k : Ctx} {e : HostEvent} {rest : List HostEvent}
    (hk : s.ctx c = some k) (he : k.events = e :: rest) (hroom : (k.evprod - cons).toNat < 2 ^ k.desc.evLog2) :
    answers (.hostEventWrite c cons) s fun t => inCtx t c fun j => j.events = rest ∧ j.evprod = k.evprod + 1 ∧ j.evcons = cons := by
  obtain rfl : k.num = c := ctx_num hk
  let k1 : Ctx := { k with evcons := cons }
  have hk1 : (s.modCtx k.num fun k => { k with evcons := cons }).ctx k.num = some k1 := ctx_modCtx hk rfl
  refine answers_of_exec (t := ((s.setCtx k1).writeEvent k1 e).modCtx k.num fun k => { k with events := rest }) ?_ ?_
  · show execHostEventWrite k.num cons s = _
    unfold execHostEventWrite
    simp only [hk1]
    rw [show k1.events = _ from he]
    exact congrArg _ (if_pos (decide_eq_true hroom))
  · obtain ⟨j, hj, -, hprod, hcons⟩ := writeEvent_counts e (ctx_setCtx (j := k1) hk rfl)
    exact inCtx_modCtx hj rfl ⟨rfl, hprod, hcons⟩

/-! ### Dispatch from a bound queue (05 R150) -/

theorem binds_enter (k : Ctx) (a : Arrived) (src : Src) (inside : Bool) : (k.enter a src inside).binds = k.binds :=
  (congrArg Ctx.binds (fixedPart_enter k a src inside) :)

/-- A thread of a context is there, but for its waves, after a token has come in. -/
theorem thread_enter {k : Ctx} {x : Thread} (h : x ∈ k.threads) (a : Arrived) (src : Src) (inside : Bool) :
    ∃ y ∈ (k.enter a src inside).threads, y.num = x.num ∧ y.ln = x.ln ∧ y.lcl = x.lcl := by
  have hmem : x.bare ∈ (k.enter a src inside).roster := by
    rw [roster_enter]
    exact List.mem_map_of_mem h
  obtain ⟨y, hy, hsame⟩ := List.mem_map.1 hmem
  exact ⟨y, hy, (congrArg Thread.num hsame :), (congrArg Thread.ln hsame :), (congrArg Thread.lcl hsame :)⟩

theorem agrees_countRuns {β : Type} {p : Ctx → β} (hp : Spared p) (s t : State) (k : Ctx) (clu : Nat)
    (rs : List (Nat × Nat × BitVec 8)) : (s.countRuns k clu rs t).Agrees p t :=
  agrees_foldl (fun _ _ => agrees_trans (agrees_engineSpend hp ..) (agrees_logAccess hp ..)) _ t

/-- The accesses that taking a queue's oldest record makes. -/
def Queue.takes (q : Queue) : List (Nat × Nat × BitVec 8) := [(q.va, 64, kRead ||| kWrite), (q.slot q.head, 16, kRead)]

/-- The machine with a queue's oldest record taken, and that counted. -/
def State.take (s : State) (k : Ctx) (clu : Nat) (q : Queue) : State :=
  s.countRuns k clu q.takes (s.queueSet k q ((q.head + 1) % 2 ^ 64) q.tail)

theorem agrees_take (s : State) (k : Ctx) (clu : Nat) (q : Queue) : (s.take k clu q).Agrees Ctx.dealings s :=
  agrees_trans (agrees_countRuns spared_dealings ..) (agrees_devPut spared_dealings ..)

/-- A context in which a record taken from a bound queue starts a new thread. -/
def Ctx.dispatch (k : Ctx) (b : Binding) (x : Thread) (v : Value) : Ctx :=
  ({ k with threads := k.threads ++ [x], born := k.born + 1
            binds := updFirst (· == b) (fun b => { b with running := b.running ++ [x.num] }) k.binds } : Ctx).enter
    (outsideToken x.num 0 b.handler 0 v) .outside false

theorem dispatch_num (k : Ctx) (b : Binding) (x : Thread) (v : Value) : (k.dispatch b x v).num = k.num :=
  (congrArg Ctx.num (fixedPart_enter ..) :)

/-- It holds the thread, which its binding counts as running. -/
theorem dispatch_runs {k : Ctx} {b : Binding} (hb : b ∈ k.binds) (x : Thread) (v : Value) :
    (∃ y ∈ (k.dispatch b x v).threads, y.num = x.num ∧ y.ln = x.ln ∧ y.lcl = x.lcl)
    ∧ ∃ a ∈ (k.dispatch b x v).binds, a.desc = b.desc ∧ a.running = b.running ++ [x.num] := by
  refine ⟨thread_enter (List.mem_append_right _ (List.mem_singleton_self x)) .., ?_⟩
  refine ⟨{ b with running := b.running ++ [x.num] }, ?_, rfl, rfl⟩
  rw [Ctx.dispatch, binds_enter]
  exact mem_updFirst_self (fun b => { b with running := b.running ++ [x.num] }) hb

/-- The machine in which a queue's oldest record has started a thread of a binding, its memory acquired for the queue's scope. -/
def State.dispatched (s : State) (k : Ctx) (b : Binding) (th : ThreadId) (q : Queue) : State :=
  let t := (s.take k (k.phys b.lcl) q).modCtx k.num fun j =>
    j.dispatch b (Thread.fresh th b.ln b.lcl k.born [] b.handler) (BitVec.ofNat 128 (s.devWord k (q.slot q.head) 16))
  { t with mem := t.mem.acquire (k.phys b.lcl) 1 q.scope }

section
variable {c : CtxId} {desc : Addr} {s : State} {k : Ctx} {b : Binding} {th : ThreadId} {q : Queue} (hk : s.active c = some k)
  (hb : (k.binds.find? fun b => b.desc == desc && b.bound) = some b)
include hk hb

theorem exec_queueDispatch (hth : k.spareThread = some th) (hmax : b.running.length < b.maxh) (hq : q = s.queue k desc.toNat)
    (hd : k.dispatchable q = true) (hg : k.gateShut b.lcl = false) (hln : (k.ln b.ln).isSome = true)
    (hfull : s.runsFull k q.takes = false) (hwait : s.runsWait k q.takes = false) :
    exec (.queueDispatch c desc) s = .next (s.dispatched k b th q) := by
  subst hq
  obtain rfl : k.num = c := active_num hk
  rw [Queue.takes] at hfull hwait
  show execQueueDispatch k.num desc s = _
  unfold execQueueDispatch
  simp only [hk, hb, hth]
  refine congrArg _ (if_neg ?_)
  rw [hd, hg, hwait, hfull, decide_eq_false (Nat.not_le.2 hmax), Option.isNone_eq_false_iff.2 hln]
  exact Bool.false_ne_true

theorem dispatched_runs (th : ThreadId) (q : Queue) : inCtx (s.dispatched k b th q) c fun j =>
    (∃ x ∈ j.threads, x.num = th ∧ x.ln = b.ln ∧ x.lcl = b.lcl)
      ∧ ∃ a ∈ j.binds, a.desc = b.desc ∧ a.running = b.running ++ [th] := by
  obtain rfl : k.num = c := active_num hk
  obtain ⟨j, hj, hsame⟩ := found_of_agrees (agrees_take s k (k.phys b.lcl) q) (active_ctx hk).1
  have hbj : b ∈ j.binds := by
    rw [show j.binds = k.binds from (congrArg Ctx.binds hsame :)]
    exact List.mem_of_find?_eq_some hb
  exact ⟨_, ctx_modCtx hj (dispatch_num ..), dispatch_runs hbj (Thread.fresh th b.ln b.lcl k.born [] b.handler) _⟩

end

end Sys2Proof.Machine
end

section
/-! PROOFS. Bias, host memory and snoops (03 R93, R97, 16 R438 to R444). -/

namespace Sys2Proof.Machine

/-! ### The directory and the copies in L1 (03 R92, R93) -/

/-- No line of L1 has come, but for its dirty bytes. -/
def Mems.fewer (n m : Mems) : Prop := ∀ e ∈ n.l1, ∃ f ∈ m.l1, e.clu = f.clu ∧ e.kind = f.kind ∧ e.line = f.line

theorem fewer_refl (m : Mems) : m.fewer m := fun e he => ⟨e, he, rfl, rfl, rfl⟩

theorem fewer_trans {n m l : Mems} (h : n.fewer m) (h' : m.fewer l) : n.fewer l := by
  intro e he
  obtain ⟨f, hf, hclu, hkind, hline⟩ := h e he
  obtain ⟨g, hg, hclu', hkind', hline'⟩ := h' f hf
  exact ⟨g, hg, hclu.trans hclu', hkind.trans hkind', hline.trans hline'⟩

theorem fewer_of_subset {n m : Mems} (h : ∀ e ∈ n.l1, e ∈ m.l1) : n.fewer m := fun e he => ⟨e, h e he, rfl, rfl, rfl⟩

theorem dropEntry_l1 {m : Mems} {line : Nat} {e : L1Line} (he : e ∈ (m.dropEntry line).l1) : e ∈ m.l1 := List.mem_of_mem_filter he

theorem setDir_fewer (m : Mems) (line : Nat) (e : DirEntry) : (m.setDir line e).fewer m := by
  refine fewer_of_subset fun x hx => ?_
  unfold Mems.setDir at hx
  split at hx
  · exact hx
  · dsimp only at hx
    split at hx
    · exact dropEntry_l1 hx
    · exact hx

theorem setDir_bias (m : Mems) (line : Nat) (e : DirEntry) : (m.setDir line e).bias = m.bias := by
  unfold Mems.setDir
  split
  · rfl
  · dsimp only
    split <;> rfl

/-- What a line's entry is when it has been set. -/
theorem dirOf_setDir (m : Mems) (line : Nat) (e : DirEntry) : (m.setDir line e).dirOf line = e := by
  unfold Mems.setDir Mems.dirOf
  split
  · next h => rw [h, tgetD, tget_tdel, if_pos rfl]; rfl
  · exact tgetD_tset_same ..

theorem rekey_beside (m : Mems) (key : Option Nat) (line : Nat) :
    (m.rekey key line).l1 = m.l1 ∧ (m.rekey key line).bias = m.bias := by
  unfold Mems.rekey
  split
  · exact ⟨rfl, rfl⟩
  · dsimp only
    split
    · split <;> exact ⟨rfl, rfl⟩
    · exact ⟨rfl, rfl⟩

theorem cleanLine_fewer (m : Mems) (e : L1Line) : (m.cleanLine e).fewer m := by
  have hl1 : (if e.dirty = 0 then m else (m.rekey e.key e.line).passL2 e.line (some e.ctx)).l1 = m.l1 := by
    split
    · rfl
    · exact (rekey_beside m e.key e.line).1
  intro x hx
  have hx' : x ∈ updFirst (isCopy e.clu e.kind e.line) (fun x => { x with dirty := 0 }) m.l1 := hl1 ▸ hx
  obtain h | ⟨y, hy, -, rfl⟩ := mem_updFirst hx'
  · exact ⟨x, h, rfl, rfl, rfl⟩
  · exact ⟨y, hy, rfl, rfl, rfl⟩

theorem uncopy_fewer (m : Mems) (clu : Nat) (kind : LineKind) (line : Nat) : (m.uncopy clu kind line).fewer m :=
  fewer_of_subset fun _ he => List.mem_of_mem_filter he

theorem unshare_fewer (m : Mems) (clu line : Nat) : (m.unshare clu line).fewer m :=
  setDir_fewer m line _

/-- An eviction brings no line. -/
theorem evict_fewer (m : Mems) (e : L1Line) : (m.evict e).fewer m := by
  unfold Mems.evict
  split
  · exact fewer_trans (uncopy_fewer _ _ _ _) (cleanLine_fewer m e)
  · exact fewer_trans (unshare_fewer _ _ _) (uncopy_fewer m _ _ _)
  · exact uncopy_fewer m _ _ _

/-- The copy of a cluster of a line, of one kind, is not there. -/
def Mems.without (m : Mems) (clu : Nat) (kind : LineKind) (line : Nat) : Prop :=
  ∀ e ∈ m.l1, ¬(e.clu = clu ∧ e.kind = kind ∧ e.line = line)

theorem without_of_fewer {n m : Mems} {clu : Nat} {kind : LineKind} {line : Nat} (h : n.fewer m) (hm : m.without clu kind line) :
    n.without clu kind line := by
  rintro e he ⟨hclu, hkind, hline⟩
  obtain ⟨f, hf, hc, hk, hl⟩ := h e he
  exact hm f hf ⟨hc.symm.trans hclu, hk.symm.trans hkind, hl.symm.trans hline⟩

theorem uncopy_without (m : Mems) (clu : Nat) (kind : LineKind) (line : Nat) : (m.uncopy clu kind line).without clu kind line := by
  rintro e he ⟨hclu, hkind, hline⟩
  have := List.of_mem_filter he
  simp [isCopy, hclu, hkind, hline] at this

/-- An evicted line is gone. -/
theorem evict_without (m : Mems) (e : L1Line) : (m.evict e).without e.clu e.kind e.line := by
  unfold Mems.evict
  split
  · next h => rw [h]; exact uncopy_without _ _ _ _
  · next h => rw [h]; exact without_of_fewer (unshare_fewer _ _ _) (uncopy_without _ _ _ _)
  · exact uncopy_without _ _ _ _

theorem foldl_evict_fewer (es : List L1Line) (m : Mems) : (es.foldl Mems.evict m).fewer m := by
  induction es generalizing m with
  | nil => exact fewer_refl m
  | cons e es ih => exact fewer_trans (ih _) (evict_fewer m e)

theorem foldl_evict_without {es : List L1Line} {e : L1Line} (he : e ∈ es) (m : Mems) :
    (es.foldl Mems.evict m).without e.clu e.kind e.line := by
  induction es generalizing m with
  | nil => exact absurd he List.not_mem_nil
  | cons f es ih =>
    rcases List.mem_cons.1 he with rfl | h
    · exact without_of_fewer (foldl_evict_fewer es _) (evict_without m e)
    · exact ih h _

/-- A recalled page has no copy in a cluster, but for host lines. -/
theorem recallBias_clears (m : Mems) (page : Nat) : ∀ e ∈ (m.recallBias page).l1, e.kind ≠ .host → e.line / 64 ≠ page := by
  intro e he hkind hpage
  obtain ⟨f, hf, hc, hk, hl⟩ := foldl_evict_fewer _ m e he
  refine foldl_evict_without (e := f) (List.mem_filter.2 ⟨hf, ?_⟩) m e he ⟨hc, hk, hl⟩
  rw [hk] at hkind
  rw [hl] at hpage
  have hlow : page * 4096 ≤ 64 * f.line := by omega
  have hhigh : 64 * f.line < page * 4096 + 4096 := by omega
  simp [hkind, hlow, hhigh]

/-! ### Requests for a change of bias (16 R439, R442 to R444) -/

theorem biasReq_of_outside {t s : State} (h : t.outside = s.outside) (house : Bool) : t.biasReq house = s.biasReq house := by
  cases house
  · exact (congrArg State.hostBias h :)
  · exact (congrArg State.sysBias h :)

theorem biascnt_setBiasReq (s : State) (house : Bool) (r : BiasReq) : (s.setBiasReq house r).biascnt = s.biascnt := by
  cases house <;> rfl

theorem recallFor_outside (s : State) (page : Nat) : (s.recallFor page).outside = s.outside := modCtx_outside ..

theorem backInvalidate_outside (s : State) (page : Nat) (hd : List (Nat × List Byte)) :
    (s.backInvalidate page hd).outside = s.outside := by
  refine foldl_keeps State.outside ?_ _ s
  intro _ _
  rfl

/-- A step of a bias request changes memory and contexts alone before the page is turned. -/
theorem exec_bias (byHouse toHost : Bool) (page : BitVec 40) (hd : List (Nat × List Byte)) (s : State) :
    ∃ change : State → State, (∀ u, (change u).outside = u.outside)
      ∧ exec (if toHost then .biasToHost byHouse page hd else .biasToDevice byHouse page hd) s
        = .next (s.biasStep byHouse toHost page change) := by
  cases toHost
  · exact ⟨fun u => u.backInvalidate page.toNat hd, fun u => backInvalidate_outside u _ hd, rfl⟩
  · exact ⟨fun u => u.recallFor page.toNat, fun u => recallFor_outside u _, rfl⟩

theorem bias_setBias (s : State) (page : Nat) (toHost : Bool) : (s.setBias page toHost).mem.bias.contains page = toHost := by
  cases toHost <;> simp [State.setBias]

theorem locked_setBias (s : State) (page : Nat) (toHost : Bool) : page ∉ (s.setBias page toHost).mem.locked := by
  simp [State.setBias]

/-- What an ended request leaves. -/
theorem endBias_leaves (s : State) (house : Bool) (result : BitVec 2) : (s.endBias house result).mem = s.mem
    ∧ (s.endBias house result).biascnt = s.biascnt
    ∧ (s.endBias house result).biasReq house = { s.biasReq house with busy := false, result := result, locks := false } :=
  ⟨setBiasReq_mem .., biascnt_setBiasReq .., biasReq_setBiasReq_same ..⟩

theorem biasStep_waits {byHouse : Bool} {s : State} (hw : s.biasWaits byHouse = true) (toHost : Bool) (page : BitVec 40)
    (change : State → State) : s.biasStep byHouse toHost page change = s := by
  refine if_pos ?_
  rw [hw, Bool.or_true]

section
variable {byHouse toHost : Bool} {page : BitVec 40} {s : State} {change : State → State} (hbusy : (s.biasReq byHouse).busy = true)
  (hto : (s.biasReq byHouse).goTo = toHost) (hpage : (s.biasReq byHouse).goPage = page)
include hbusy hto hpage

/-- A request that does not wait is refused, or goes on to the lock and the change. -/
theorem biasStep_goes (hw : s.biasWaits byHouse = false) : s.biasStep byHouse toHost page change =
    if !s.exposed page.toNat then s.endBias byHouse 2
    else if (s.biasReq byHouse).locks && s.mem.locked.contains page.toNat then
      ((change s).setBias page.toNat toHost).endBias byHouse 1
    else if s.mem.bias.contains page.toNat == toHost then s.endBias byHouse 1
    else { s with mem := { s.mem with locked := (s.mem.locked.filter (· != page.toNat)) ++ [page.toNat] } }.setBiasReq byHouse
      { s.biasReq byHouse with locks := true } := by
  refine if_neg ?_
  rw [hbusy, hto, hpage, hw]
  simp

/-- A request for a page that the host is not shown is refused. -/
theorem biasStep_unexposed (hw : s.biasWaits byHouse = false) (hx : s.exposed page.toNat = false) :
    s.biasStep byHouse toHost page change = s.endBias byHouse 2 := by
  rw [biasStep_goes hbusy hto hpage hw, hx]
  rfl

/-- One for the bias that the page has is done. -/
theorem biasStep_done (hw : s.biasWaits byHouse = false) (hx : s.exposed page.toNat = true) (hl : (s.biasReq byHouse).locks = false)
    (hb : s.mem.bias.contains page.toNat = toHost) : s.biasStep byHouse toHost page change = s.endBias byHouse 1 := by
  rw [biasStep_goes hbusy hto hpage hw, hx, hl, hb]
  simp

/-- Another first locks the page. -/
theorem biasStep_locks (hw : s.biasWaits byHouse = false) (hx : s.exposed page.toNat = true) (hl : (s.biasReq byHouse).locks = false)
    (hb : s.mem.bias.contains page.toNat = !toHost) : s.biasStep byHouse toHost page change =
      { s with mem := { s.mem with locked := (s.mem.locked.filter (· != page.toNat)) ++ [page.toNat] } }.setBiasReq byHouse
        { s.biasReq byHouse with locks := true } := by
  rw [biasStep_goes hbusy hto hpage hw, hx, hl, hb, Bool.not_beq_self]
  simp

/-- Then it turns the page. -/
theorem biasStep_turns (hw : s.biasWaits byHouse = false) (hx : s.exposed page.toNat = true) (hl : (s.biasReq byHouse).locks = true)
    (hlocked : page.toNat ∈ s.mem.locked) :
    s.biasStep byHouse toHost page change = ((change s).setBias page.toNat toHost).endBias byHouse 1 := by
  rw [biasStep_goes hbusy hto hpage hw, hx, hl, List.contains_iff_mem.2 hlocked]
  rfl

end

theorem answers_bias {byHouse toHost : Bool} {page : BitVec 40} {hd : List (Nat × List Byte)} {s : State} {i : Instr}
    (hi : i = (if toHost then .biasToHost byHouse page hd else .biasToDevice byHouse page hd)) (hbusy : (s.biasReq byHouse).busy = true)
    (hto : (s.biasReq byHouse).goTo = toHost) (hpage : (s.biasReq byHouse).goPage = page) :
    (s.biasWaits byHouse = true → exec i s = .next s)
    ∧ (s.biasWaits byHouse = false →
      (s.exposed page.toNat = false → answers i s fun t => t.mem = s.mem ∧ t.biascnt = s.biascnt
        ∧ t.biasReq byHouse = { s.biasReq byHouse with busy := false, result := 2, locks := false })
      ∧ (s.exposed page.toNat = true → (s.biasReq byHouse).locks = false → s.mem.bias.contains page.toNat = toHost →
        answers i s fun t => t.mem = s.mem ∧ t.biascnt = s.biascnt
          ∧ t.biasReq byHouse = { s.biasReq byHouse with busy := false, result := 1, locks := false })
      ∧ (s.exposed page.toNat = true → (s.biasReq byHouse).locks = false → s.mem.bias.contains page.toNat = !toHost →
        answers i s fun t => page.toNat ∈ t.mem.locked ∧ t.mem.bias = s.mem.bias ∧ t.mem.hbm = s.mem.hbm
          ∧ t.biasReq byHouse = { s.biasReq byHouse with locks := true })
      ∧ (s.exposed page.toNat = true → (s.biasReq byHouse).locks = true → page.toNat ∈ s.mem.locked →
        answers i s fun t => t.mem.bias.contains page.toNat = toHost ∧ page.toNat ∉ t.mem.locked ∧ t.biascnt = s.biascnt + 1
          ∧ t.biasReq byHouse = { s.biasReq byHouse with busy := false, result := 1, locks := false })) := by
  obtain ⟨change, hchange, hexec⟩ := exec_bias byHouse toHost page hd s
  rw [← hi] at hexec
  refine ⟨fun hw => hexec.trans (congrArg _ (biasStep_waits hw ..)), fun hw => ⟨fun hx => ?_, fun hx hl hb => ?_, fun hx hl hb => ?_,
    fun hx hl hlocked => ?_⟩⟩
  · rw [biasStep_unexposed hbusy hto hpage hw hx] at hexec
    exact answers_of_exec hexec (endBias_leaves ..)
  · rw [biasStep_done hbusy hto hpage hw hx hl hb] at hexec
    exact answers_of_exec hexec (endBias_leaves ..)
  · rw [biasStep_locks hbusy hto hpage hw hx hl hb] at hexec
    refine answers_of_exec hexec ⟨?_, ?_, ?_, biasReq_setBiasReq_same ..⟩ <;> rw [setBiasReq_mem]
    exact List.mem_append_right _ (List.mem_singleton_self _)
  · rw [biasStep_turns hbusy hto hpage hw hx hl hlocked] at hexec
    obtain ⟨hmem, hcnt, hreq⟩ := endBias_leaves ((change s).setBias page.toNat toHost) byHouse 1
    refine answers_of_exec hexec ⟨?_, ?_, ?_, ?_⟩
    · rw [hmem]; exact bias_setBias ..
    · rw [hmem]; exact locked_setBias _ _ _
    · rw [hcnt]; exact (congrArg (fun u : State => u.biascnt + 1) (hchange s) :)
    · rw [hreq]
      exact congrArg (fun r : BiasReq => { r with busy := false, result := 1, locks := false })
        (biasReq_of_outside (hchange s) byHouse)

/-! ### The host's accesses to local memory (16 R438, R440) -/

theorem chargeCxl_keeps (s : State) (pa : Nat) : (s.chargeCxl pa).mem = s.mem ∧ (s.chargeCxl pa).outside = s.outside :=
  ⟨modCtx_mem .., modCtx_outside ..⟩

/-- The machine with a page in host bias, recalled for it if need be. -/
def State.hostBiased (s : State) (page : Nat) : State :=
  if s.mem.bias.contains page then s else (s.recallFor page).setBias page true

/-- The host's access there: of a poisoned line it reads an error. -/
def State.hostServed (s : State) (pa : Nat) (cacheable : Bool) (w : Option (List Byte)) (n : Nat) : State :=
  if s.mem.poison.contains (pa / 64) && w.isNone then { s with hostReply := s.hostReply ++ [[]] } else s.hostAccess pa cacheable w n

theorem exec_hostMemoryRequest {pa n : Nat} {s : State} (hx : s.exposed (pa / 4096) = true) (hn : n ≤ 64) (hline : pa % 64 + n ≤ 64)
    (hlock : pa / 4096 ∉ s.mem.locked) (cacheable : Bool) (w : Option (List Byte)) : exec (.hostMemoryRequest pa cacheable w n) s
      = .next (((s.hostBiased (pa / 4096)).chargeCxl pa).hostServed pa cacheable w n) := by
  show execHostMemoryRequest pa cacheable w n s = _
  unfold execHostMemoryRequest
  refine congrArg _ ((if_neg ?_).trans (if_neg ?_))
  · simp [hx, hn, hline]
  · simpa using hlock

theorem answers_hostRead {pa n : Nat} {s : State} (hx : s.exposed (pa / 4096) = true) (hn : n ≤ 64) (hline : pa % 64 + n ≤ 64)
    (hlock : pa / 4096 ∉ s.mem.locked) (hpoison : pa / 64 ∉ s.mem.poison) (hbias : pa / 4096 ∈ s.mem.bias) :
    answers (.hostMemoryRequest pa false none n) s fun t => t.mem = s.mem
      ∧ t.hostReply = s.hostReply ++ [(List.range n).map fun i => s.mem.keyed s.hdmKey (pa + i)] := by
  obtain ⟨hmem, hout⟩ := chargeCxl_keeps s pa
  have hserved : (s.chargeCxl pa).hostServed pa false none n = (s.chargeCxl pa).hostAccess pa false none n := by
    refine if_neg ?_
    rw [hmem]
    simpa using hpoison
  refine answers_of_exec (exec_hostMemoryRequest hx hn hline hlock false none) ?_
  rw [show s.hostBiased (pa / 4096) = s from if_pos (by simpa using hbias), hserved]
  refine ⟨hmem, ?_⟩
  show (s.chargeCxl pa).hostReply ++ [(List.range n).map fun i => (s.chargeCxl pa).mem.keyed (s.chargeCxl pa).hdmKey (pa + i)] = _
  rw [hmem, show (s.chargeCxl pa).hostReply = s.hostReply from (congrArg State.hostReply hout :),
    show (s.chargeCxl pa).hdmKey = s.hdmKey from (congrArg State.hdmKey hout :)]

theorem homeWrite_beside (m : Mems) (c : CtxId) (key : Option Nat) (pa : Nat) (bs : List Byte) :
    (m.homeWrite c key pa bs).l1 = m.l1 ∧ (m.homeWrite c key pa bs).bias = m.bias := rekey_beside m key (pa / 64)

/-- The host's read or write itself. -/
def State.hostTouch (s : State) (pa : Nat) (w : Option (List Byte)) (n : Nat) : State :=
  match w with
  | none => { s with hostReply := s.hostReply ++ [(List.range n).map fun i => s.mem.keyed s.hdmKey (pa + i)] }
  | some b => { s with mem := s.mem.homeWrite 0 s.hdmKey pa (b.take n) }

theorem hostTouch_keeps (s : State) (pa : Nat) (w : Option (List Byte)) (n : Nat) : (s.hostTouch pa w n).biascnt = s.biascnt
    ∧ (s.hostTouch pa w n).mem.bias = s.mem.bias ∧ (s.hostTouch pa w n).mem.fewer s.mem := by
  cases w with
  | none => exact ⟨rfl, rfl, fewer_refl _⟩
  | some b =>
    obtain ⟨hl1, hbias⟩ := homeWrite_beside s.mem 0 s.hdmKey pa (b.take n)
    exact ⟨rfl, hbias, fewer_of_subset fun e he => hl1 ▸ he⟩

/-- An access of the host turns no page, and brings no line into an L1. -/
theorem hostAccess_keeps (s : State) (pa : Nat) (cacheable : Bool) (w : Option (List Byte)) (n : Nat) :
    (s.hostAccess pa cacheable w n).biascnt = s.biascnt ∧ (s.hostAccess pa cacheable w n).mem.bias = s.mem.bias
    ∧ (s.hostAccess pa cacheable w n).mem.fewer s.mem := by
  obtain ⟨hcnt, hbias, hfewer⟩ := hostTouch_keeps s pa w n
  cases cacheable with
  | false => exact ⟨hcnt, hbias, hfewer⟩
  | true => exact ⟨hcnt, (setDir_bias ..).trans hbias, fewer_trans (setDir_fewer _ _ _) hfewer⟩

theorem served_keeps (s : State) (pa : Nat) (cacheable : Bool) (w : Option (List Byte)) (n : Nat) :
    (s.hostServed pa cacheable w n).biascnt = s.biascnt ∧ (s.hostServed pa cacheable w n).mem.bias = s.mem.bias
    ∧ (s.hostServed pa cacheable w n).mem.fewer s.mem := by
  unfold State.hostServed
  split
  · exact ⟨rfl, rfl, fewer_refl _⟩
  · exact hostAccess_keeps ..

theorem answers_pageTurned {pa n : Nat} {cacheable : Bool} {w : Option (List Byte)} {s : State} (hx : s.exposed (pa / 4096) = true)
    (hn : n ≤ 64) (hline : pa % 64 + n ≤ 64) (hlock : pa / 4096 ∉ s.mem.locked) (hbias : pa / 4096 ∉ s.mem.bias) :
    answers (.hostMemoryRequest pa cacheable w n) s fun t => pa / 4096 ∈ t.mem.bias ∧ t.biascnt = s.biascnt + 1
      ∧ ∀ e ∈ t.mem.l1, e.kind ≠ LineKind.host → e.line / 64 ≠ pa / 4096 := by
  refine answers_of_exec (exec_hostMemoryRequest hx hn hline hlock cacheable w) ?_
  rw [show s.hostBiased (pa / 4096) = _ from if_neg (by simpa using hbias)]
  obtain ⟨hmem, hout⟩ := chargeCxl_keeps ((s.recallFor (pa / 4096)).setBias (pa / 4096) true) pa
  obtain ⟨hcnt, hbias', hfewer⟩ := served_keeps (((s.recallFor (pa / 4096)).setBias (pa / 4096) true).chargeCxl pa) pa cacheable w n
  have hclear := recallBias_clears s.mem (pa / 4096)
  refine ⟨?_, hcnt.trans ?_, fun e he hkind => ?_⟩
  · rw [hbias', hmem]
    exact List.contains_iff_mem.1 (bias_setBias ..)
  · exact (congrArg State.biascnt hout :).trans (congrArg (fun u : State => u.biascnt + 1) (recallFor_outside s (pa / 4096)) :)
  · rw [hmem] at hfewer
    obtain ⟨f, hf, -, hk, hl⟩ := hfewer e he
    have hf' : f ∈ (s.recallFor (pa / 4096)).mem.l1 := hf
    rw [State.recallFor, modCtx_mem] at hf'
    rw [hl]
    exact hclear f hf' (hk ▸ hkind)

theorem answers_hostRefused {pa n : Nat} {cacheable : Bool} {w : Option (List Byte)} {s : State} (hx : s.exposed (pa / 4096) = false) :
    answers (.hostMemoryRequest pa cacheable w n) s fun t => t.mem = s.mem ∧ t.hostReply = s.hostReply ++ [[]] := by
  refine answers_of_exec (t := { s with hostReply := s.hostReply ++ [[]] }) ?_ ⟨rfl, rfl⟩
  show execHostMemoryRequest pa cacheable w n s = _
  unfold execHostMemoryRequest
  refine congrArg _ (if_pos ?_)
  rw [hx]
  rfl

/-! ### Snoops (03 R97, 16 R441) -/

theorem dirOf_hostReturns (s : State) (line : Nat) (dirty : Option (List Byte)) :
    ((s.hostReturns line dirty).mem.dirOf line).host = false := by
  unfold State.hostReturns
  dsimp only
  rw [dirOf_setDir]

theorem answers_hostSnoopResponse {line : Nat} {dirty : Option (List Byte)} {keep : Bool} {s : State}
    (hheld : (s.mem.dirOf line).host = true) :
    answers (.hostSnoopResponse line dirty keep) s fun t => (t.mem.dirOf line).host = keep := by
  refine answers_of_exec (congrArg Host.Outcome.next (if_neg (by rw [hheld]; exact Bool.false_ne_true))) ?_
  cases keep
  · exact dirOf_hostReturns ..
  · exact congrArg DirEntry.host (dirOf_setDir ..)

theorem answers_hostCacheSnoop {line : Nat} {s : State} : answers (.hostCacheSnoop line true) s fun t =>
    (∀ e ∈ t.mem.l1, e.kind = LineKind.host → e.line ≠ line) ∧ t.mem.hbm = s.mem.hbm ∧ t.mem.host = s.mem.host := by
  refine answers_of_exec rfl ⟨fun e he hkind hline => ?_, rfl, rfl⟩
  have := List.of_mem_filter he
  simp [hkind, hline] at this

end Sys2Proof.Machine
end

section
/-! PROOFS. Attestation, links and the pod (04 R126, 05 R146, 07 R203, 16 R438, R445, R448, R450). -/

namespace Sys2Proof.Machine

/-! ### SPDM (16 R445, R446) -/

theorem answers_measurement {index : BitVec 8} {nonce : BitVec 256} {s : State} (hstep : 9 ≤ s.start.step.toNat) (hi : index ≠ 0)
    (hlast : index.toNat ≤ 6) : answers (.spdmRequest 0xE0 index nonce) s fun t => t.mem = s.mem ∧ ∃ r, t.spdm = some r ∧ r.busy = false
      ∧ r.digest = s.measurement index.toNat := by
  refine answers_of_exec (t := s.spdmSay 0xE0 nonce (s.measurement index.toNat) true) ?_ ⟨rfl, _, rfl, rfl, rfl⟩
  refine congrArg Host.Outcome.next ((if_neg (Nat.not_lt.2 hstep)).trans (if_neg ?_))
  rw [decide_eq_false hi, Bool.false_or]
  simpa using hlast

theorem answers_spdmBusy {req index : BitVec 8} {nonce : BitVec 256} {s : State} (hstep : s.start.step.toNat < 9) :
    answers (.spdmRequest req index nonce) s fun t => t.mem = s.mem ∧ ∃ r, t.spdm = some r ∧ r.busy = true :=
  answers_of_exec (congrArg Host.Outcome.next (if_pos hstep)) ⟨rfl, _, rfl, rfl⟩

/-! ### Links (07 R203, 16 R438, R448, R450) -/

theorem link_setReach (s : State) (n : Nat) : s.setReach.link n = s.link n := rfl

theorem link_set (s : State) (n : Nat) (l : Link) : ({ s with links := tset s.links n l } : State).setReach.link n = l :=
  tgetD_tset_same ..

theorem answers_linkWidthChange {link : Nat} {lanes : BitVec 4} {s : State} (hlink : link < 16) (hpv : (s.link link).pv = true)
    (hw : lanes.toNat = s.laneWidth link) :
    answers (.linkWidthChange link lanes) s fun t => t.link link = { s.link link with lanes := lanes } := by
  refine answers_of_exec (congrArg Host.Outcome.next (if_neg ?_)) (link_set ..)
  simpa [hpv, hw] using hlink

theorem scoreOf_setScore (s : State) (u : RetUnit) (r : Score) : (s.setScore u r).scoreOf u = r := by
  unfold State.setScore State.scoreOf
  split
  · next h =>
    obtain ⟨e, he⟩ := Option.isSome_iff_exists.1 (List.find?_isSome.2 (List.any_eq_true.1 h))
    rw [find_updFirst _ _ (fun _ _ => by simp), he]
    rfl
  · next h =>
    have hnone : s.scores.find? (·.1 == u) = none := List.find?_eq_none.2 fun e he hu => h (List.any_eq_true.2 ⟨e, he, hu⟩)
    simp [List.find?_append, hnone]

theorem addScore_mem (s : State) (u : RetUnit) (d : Int) : (s.addScore u d).mem = s.mem := by
  unfold State.addScore
  dsimp only
  split <;> rfl

theorem scoreOf_addScore (s : State) (u : RetUnit) (d : Int) : (s.addScore u d).scoreOf u = (s.scoreOf u).add d := by
  have hset := scoreOf_setScore s u ((s.scoreOf u).add d)
  unfold State.addScore
  dsimp only
  split
  · exact hset
  · exact hset

theorem answers_linkCorrectedError {link : Nat} {s : State} (hlink : link < 16) :
    answers (.linkCorrectedError link none) s fun t => t.mem = s.mem
      ∧ t.scoreOf (unitOf 1 link) = (s.scoreOf (unitOf 1 link)).add 16 :=
  answers_of_exec (congrArg Host.Outcome.next (if_neg (Nat.not_le.2 hlink))) ⟨addScore_mem .., scoreOf_addScore ..⟩

theorem answers_farModuleConnect {link : Nat} {p : BitVec 8} {lanes : BitVec 4} {s : State} (hlink : link < 16)
    (hw : widthOk lanes = true) : answers (.farModuleConnect link (some p) lanes) s fun t => (t.link link).pv = true
      ∧ (t.link link).peer = p ∧ (t.link link).lanes.toNat ≤ lanes.toNat := by
  refine answers_of_exec (congrArg Host.Outcome.next ((if_neg (Nat.not_le.2 hlink)).trans
    (if_neg (by rw [hw]; exact Bool.false_ne_true)))) ?_
  rw [link_set]
  refine ⟨rfl, rfl, ?_⟩
  rw [BitVec.toNat_ofNat]
  exact (Nat.mod_le ..).trans (Nat.min_le_left ..)

theorem exec_cxlLinkTraining {lanes rate : Nat} (s : State) (hl : lanes ∈ [16, 8, 4]) (hr : rate ∈ [128, 64, 32]) :
    exec (.cxlLinkTraining true lanes rate) s = .next { s with cxl := (true, lanes, rate) } := by
  refine congrArg Host.Outcome.next ((if_neg Bool.false_ne_true).trans (if_pos ?_))
  rw [List.contains_iff_mem.2 hl, List.contains_iff_mem.2 hr]
  rfl

/-! ### The gondola and stolen work (04 R126, 05 R146) -/

theorem answers_gondolaVisit {g : GondolaTok} {s : State} (hm : s.modnum.toNat < 256) : answers (.gondolaVisit g) s fun t =>
    t.mem = s.mem ∧ t.gondola.load.getD s.modnum.toNat 0 = BitVec.ofNat 8 (s.freeDomains * 255 / 1536)
      ∧ t.taken = s.taken ++ ((List.range 8).map fun i => g.req.getD i 0).filter s.canAnswer := by
  refine answers_of_exec rfl ⟨rfl, ?_, rfl⟩
  simp [hm]

/-- A launch changed is found as changed. -/
theorem ln_modLn {f : Launch → Launch} (hf : ∀ n, (f n).num = n.num) (k : Ctx) (n : BitVec 32) :
    (k.modLn n f).ln n = (k.ln n).map f :=
  find_updFirst (fun l : Launch => l.num == n) f (fun x hx => by simpa [hf x] using hx) k.launches

theorem receive_num (n : Launch) (lo hi : Nat) : (n.receive lo hi).num = n.num := by
  unfold Launch.receive
  split <;> rfl

section
variable {c : CtxId} {s : State} {k : Ctx} (hk : s.ctx c = some k)
include hk

/-- Word from the thief about a launch. -/
theorem answers_thiefTells {thief : BitVec 8} {ln : BitVec 32} {n : Launch} {f : Launch → Launch} {w : Stolen} (hn : k.ln ln = some n)
    (hf : ∀ n, (f n).num = n.num) (hw : exec (.stealHandshake c thief w) s = .next (s.setCtx (k.modLn ln f))) :
    answers (.stealHandshake c thief w) s fun t => t.mem = s.mem ∧ inCtx t c fun j => j.ln ln = some (f n) := by
  refine answers_of_exec hw ⟨rfl, _, ctx_setCtx hk (ctx_num hk :), ?_⟩
  show (k.modLn ln f).ln ln = _
  rw [ln_modLn hf, hn]
  rfl

theorem exec_stealDone {thief : BitVec 8} (ht : thief ≠ s.modnum) (ln : BitVec 32) (m : Nat) :
    exec (.stealHandshake c thief (.done ln m)) s
      = .next (s.setCtx (k.modLn ln fun l => { l with doneIter := l.doneIter + m })) := by
  show execStealHandshake c thief _ s = _
  unfold execStealHandshake
  rw [hk]
  exact congrArg Host.Outcome.next (if_neg ht)

theorem exec_stealEnded {thief : BitVec 8} (ht : thief ≠ s.modnum) (ln : BitVec 32) :
    exec (.stealHandshake c thief (.ended ln)) s = .next (s.setCtx (k.modLn ln fun l => { l with away := l.away - 1 })) := by
  show execStealHandshake c thief _ s = _
  unfold execStealHandshake
  rw [hk]
  exact congrArg Host.Outcome.next (if_neg ht)

/-- Work that arrives waits for a place, and is taken when there is one. -/
theorem exec_stealArrives (w : Stolen) : exec (.stealHandshake c s.modnum w) s
    = .next (if s.noPlaceFor k w then s else s.takeWork k w) := by
  show execStealHandshake c s.modnum w s = _
  unfold execStealHandshake
  rw [hk]
  exact congrArg Host.Outcome.next (if_pos rfl)

theorem answers_stolenRecord {b : List Byte} :
    (s.noPlaceFor k (.record b) = true → exec (.stealHandshake c s.modnum (.record b)) s = .next s)
    ∧ (s.noPlaceFor k (.record b) = false →
    answers (.stealHandshake c s.modnum (.record b)) s fun t => t.ctxs = s.ctxs ∧ ∃ q, t.launchq = s.launchq ++ [q] ∧ q.ctx = c
      ∧ q.fromHost = false ∧ q.lrec = { launchRecOf (b.take 64) with parent := 0xFFFFFFFF }) := by
  have harrives := exec_stealArrives hk (.record b)
  constructor
  · intro hp
    rwa [hp] at harrives
  · intro hp
    rw [hp] at harrives
    exact answers_of_exec harrives ⟨rfl, _, rfl, ctx_num hk, rfl, rfl⟩

theorem answers_stolenInterval {ln : BitVec 32} {lo hi : Nat} {n : Launch} (hn : k.ln ln = some n) (hr : n.isRange = true)
    (hpod : n.lrec.isPod = true) (hroom : ∃ p ∈ n.ivals, ivalLen p = 0) :
    answers (.stealHandshake c s.modnum (.interval ln lo hi)) s fun t => inCtx t c fun j => j.ln ln = some (n.receive lo hi) := by
  have harrives := exec_stealArrives hk (.interval ln lo hi)
  have hplace : s.noPlaceFor k (.interval ln lo hi) = false := by
    obtain ⟨p, hp, hlen⟩ := hroom
    have hall : (n.ivals.all fun p => ivalLen p != 0) = false := by
      rw [List.all_eq_false]
      exact ⟨p, hp, by simp [hlen]⟩
    simp only [State.noPlaceFor, hn, Option.any_some, hall, Bool.and_false]
  rw [hplace] at harrives
  refine answers_of_exec harrives ⟨_, ctx_setCtx (s := { s with mem := _ }) hk (ctx_num hk :), ?_⟩
  show (k.modLn ln _).ln ln = _
  rw [ln_modLn (fun n => by split; exacts [receive_num .., rfl]), hn, Option.map_some, hr, hpod]
  rfl

/-- A thief is given work once every committed store of the context is performed. -/
theorem exec_stealGives {thief : BitVec 8} {r : BitVec 32} (ht : thief ≠ s.modnum)
    (hr : (s.taken.find? fun r => stealThief r == thief && stealCtx r == c) = some r) (ho : k.openStores s.mem = false) :
    exec (.stealHandshake c thief .nothing) s
      = .next (({ s with taken := dropFirst (· == r) s.taken, mem := k.physSet.foldl Mems.scClean s.mem } : State).giveWork c) := by
  show execStealHandshake c thief .nothing s = _
  unfold execStealHandshake
  rw [hk]
  refine congrArg Host.Outcome.next ((if_neg ht).trans ?_)
  simp only [hr, ho]
  rfl

end

/-- A whole record is given first; the launch it was queued by goes on waiting for it. -/
theorem giveWork_record {s : State} {c : CtxId} {k : Ctx} {q : QRec} (hk : s.ctx c = some k) (hq : s.stealRec c = some q) :
    (s.giveWork c).launchq = dropFirst (· == q) s.launchq ∧ (s.giveWork c).taken = s.taken
    ∧ (isQueuedChild c q.lrec.parent q = true → ∀ n, k.ln q.lrec.parent = some n →
        inCtx (s.giveWork c) c fun j => ∃ m, j.ln q.lrec.parent = some m ∧ m.away = n.away + 1) := by
  unfold State.giveWork
  rw [hq]
  dsimp only
  split
  · refine ⟨modCtx_launchq .., (congrArg State.taken (modCtx_outside ..) :), fun _ n hn => ?_⟩
    refine inCtx_modCtx (k := k) hk rfl ⟨{ n with away := n.away + 1 }, (ln_modLn ?_ k _).trans (congrArg _ hn), rfl⟩
    exact fun _ => rfl
  · next hchild => exact ⟨rfl, rfl, fun h => absurd h hchild⟩

theorem answers_stealRecord {c : CtxId} {thief : BitVec 8} {s : State} {k : Ctx} {r : BitVec 32} {q : QRec} (hk : s.ctx c = some k)
    (ht : thief ≠ s.modnum) (hr : (s.taken.find? fun r => stealThief r == thief && stealCtx r == c) = some r)
    (ho : k.openStores s.mem = false) (hq : s.stealRec c = some q) :
    answers (.stealHandshake c thief .nothing) s fun t => t.launchq = dropFirst (· == q) s.launchq
      ∧ t.taken = dropFirst (· == r) s.taken
      ∧ (isQueuedChild c q.lrec.parent q = true → ∀ n, k.ln q.lrec.parent = some n →
          inCtx t c fun j => ∃ m, j.ln q.lrec.parent = some m ∧ m.away = n.away + 1) := by
  refine answers_of_exec (exec_stealGives hk ht hr ho) ?_
  exact giveWork_record (s := { s with taken := dropFirst (· == r) s.taken, mem := k.physSet.foldl Mems.scClean s.mem }) hk hq

end Sys2Proof.Machine
end

section
/-! PROOFS. What a peer's access finds: the energy counted for its traffic changes no access log's answer (06 R189 to R191, 07 R199,
16 R449). -/

namespace Sys2Proof.Machine

/-! ### What the device's own accesses go by -/

/-- What the device's own accesses go by in a context: its fields and its scratchpads, without energy and what is on its way. -/
def Ctx.aspect (k : Ctx) : Ctx := { k.fixedPart with shares := k.shares, unfolded := [] }

theorem aspect_of_fixedPart {j k : Ctx} (hf : j.fixedPart = k.fixedPart) (hs : j.shares = k.shares) : j.aspect = k.aspect :=
  congrArg₂ (fun (i : Ctx) h => { i with shares := h, unfolded := [] }) hf hs

theorem shares_bind (k : Ctx) (th : ThreadId) (w : WaveId) (own : BitVec 8) (v : Value) : (k.bind th w own v).shares = k.shares := by
  have hput : ∀ (k : Ctx) (t : ThreadId) (fw w : WaveId) (r : Route) (v1 v2 : Value), (k.put t fw w r v1 v2).shares = k.shares := by
    intro k t fw w r v1 v2
    unfold Ctx.put
    dsimp only
    rw [foldl_keeps Ctx.shares (fun _ _ => shares_enter ..), foldl_keeps Ctx.shares (fun _ _ => shares_enter ..)]
  unfold Ctx.bind
  split
  · rfl
  · dsimp only
    split <;> split <;> exact hput ..

theorem aspect_answerAll (bytes : List Byte) (rs : List Reader) (k : Ctx) : (k.answerAll bytes rs).aspect = k.aspect := by
  induction rs generalizing k with
  | nil => rfl
  | cons r rs ih => rw [Ctx.answerAll, ih]; exact aspect_of_fixedPart (fixedPart_bind ..) (shares_bind ..)

section
variable {j k : Ctx} (h : j.aspect = k.aspect)
include h

theorem share_of_aspect (l : Nat) : j.share l = k.share l := share_of_shares (congrArg Ctx.shares h :) l

theorem aspect_setShare (x : Share) : (j.setShare x).aspect = (k.setShare x).aspect := congrArg (·.setShare x) h

theorem aspect_filled (l g : Nat) : (j.filled l g).aspect = (k.filled l g).aspect := by
  unfold Ctx.filled
  dsimp only
  rw [aspect_answerAll, aspect_answerAll, share_of_aspect h]
  exact aspect_setShare h _

/-- A store in a scratchpad does the same in contexts of the same aspect. -/
theorem aspect_scratchSt (l off : Nat) (bs : List Byte) : (j.scratchSt l off bs).aspect = (k.scratchSt l off bs).aspect := by
  unfold Ctx.scratchSt Ctx.modShare
  dsimp only
  rw [share_of_aspect h]
  exact List.foldl_rel (r := fun a b => Ctx.aspect a = Ctx.aspect b) (aspect_setShare h _) fun _ _ _ _ hab => aspect_filled hab ..

theorem pieces_of_aspect (m : Mems) (site va n : Nat) : pieces m j site va n = pieces m k site va n := by
  have htrans : ∀ va, translate m j site va = translate m k site va := fun va =>
    show translate m j.aspect site va = translate m k.aspect site va from congrArg (translate m · site va) h
  unfold pieces
  induction runsOf va n with
  | nil => rfl
  | cons r rs ih => simp only [piecesOf, htrans, ih]

theorem devSite_of_aspect : j.devSite = k.devSite := (congrArg Ctx.devSite h :)

theorem pieceWaits_of_aspect (m : Mems) (p : Piece) (write : Bool) : pieceWaits m j p write = pieceWaits m k p write :=
  (congrArg (pieceWaits m · p write) h :)

theorem homeBytes_of_aspect (m : Mems) : homeBytes m j = homeBytes m k :=
  funext fun p => (congrArg (homeBytes m · p) h :)

end

/-- Two states hold the same memory, and contexts of the same aspect. -/
structure State.Like (t s : State) : Prop where
  mem : t.mem = s.mem
  agrees : t.Agrees Ctx.aspect s

section
variable {t s : State}

theorem like_refl (s : State) : s.Like s := ⟨rfl, agrees_refl s⟩

theorem none_of_like (h : t.Like s) {c : CtxId} (hk : s.ctx c = none) : t.ctx c = none := by
  have hctx := h.agrees.ctx c
  rw [hk] at hctx
  exact Option.map_eq_none_iff.1 hctx

/-- A change of one context that goes by its aspect is the same in states that are alike. -/
theorem like_modCtx (h : t.Like s) {f : Ctx → Ctx} (hn : ∀ k, (f k).num = k.num)
    (hf : ∀ j k, j.aspect = k.aspect → (f j).aspect = (f k).aspect) (c : CtxId) : (t.modCtx c f).Like (s.modCtx c f) := by
  refine ⟨(modCtx_mem ..).trans (h.mem.trans (modCtx_mem ..).symm), fun d => ?_,
    (modCtx_outside ..).trans (h.agrees.outside.trans (modCtx_outside ..).symm)⟩
  by_cases hd : d = c
  · subst hd
    cases hk : s.ctx d with
    | none =>
      unfold State.modCtx
      rw [none_of_like h hk, hk]
      exact h.agrees.ctx d
    | some k =>
      obtain ⟨j, hj, hjk⟩ := found_of_agrees h.agrees hk
      rw [ctx_modCtx hj (hn j), ctx_modCtx hk (hn k), Option.map_some, Option.map_some, hf j k hjk]
  · rw [ctx_modCtx_other hn hd, ctx_modCtx_other hn hd]
    exact h.agrees.ctx d

theorem like_setMem (h : t.Like s) (f : Mems → Mems) : ({ t with mem := f t.mem } : State).Like { s with mem := f s.mem } :=
  ⟨congrArg f h.mem, h.agrees.ctx, h.agrees.outside⟩

theorem like_storePieces (c : CtxId) (a : Agent) (through : Bool) (ps : List Piece) (h : t.Like s) (bs : List Byte) :
    (t.storePieces c a through ps bs).Like (s.storePieces c a through ps bs) := by
  induction ps generalizing t s bs with
  | nil => exact h
  | cons p ps ih =>
    refine ih ?_ _
    unfold State.storePiece
    split
    · exact like_modCtx h (fun _ => scratchSt_num ..) (fun _ _ hjk => aspect_scratchSt hjk ..) c
    · exact like_setMem h fun m => m.storeAt c a p _ through

section
variable (h : t.Like s) {j k : Ctx} (hjk : j.aspect = k.aspect)
include h hjk

theorem devPieces_like (va n : Nat) (need : Need) : t.devPieces j va n need = s.devPieces k va n need := by
  unfold State.devPieces
  rw [h.mem, pieces_of_aspect hjk, devSite_of_aspect hjk, show t.keys = s.keys from (congrArg State.keys h.agrees.outside :)]

theorem devRead_like (va n : Nat) (need : Need) : t.devRead j va n need = s.devRead k va n need := by
  unfold State.devRead
  rw [devPieces_like h hjk, h.mem, homeBytes_of_aspect hjk]

theorem devWord_like (va n : Nat) : t.devWord j va n = s.devWord k va n := by
  unfold State.devWord State.devRaw
  rw [devPieces_like h hjk, h.mem, homeBytes_of_aspect hjk]

theorem devWaits_like (va n : Nat) (write : Bool) : t.devWaits j va n write = s.devWaits k va n write := by
  unfold State.devWaits
  rw [h.mem, pieces_of_aspect hjk, devSite_of_aspect hjk]
  simp only [pieceWaits_of_aspect hjk]

/-- A write of the device fails in both states, or is made in both. -/
theorem devWrite_like (va : Nat) (bs : List Byte) : (∃ e, t.devWrite j va bs = .error e ∧ s.devWrite k va bs = .error e)
    ∨ ∃ u v : State, t.devWrite j va bs = .ok u ∧ s.devWrite k va bs = .ok v ∧ u.Like v := by
  have hnum : j.num = k.num := (congrArg Ctx.num hjk :)
  unfold State.devWrite
  rw [h.mem, pieces_of_aspect hjk, devSite_of_aspect hjk, show t.keys = s.keys from (congrArg State.keys h.agrees.outside :), hnum]
  split
  · exact .inl ⟨_, rfl, rfl⟩
  · split
    · exact .inl ⟨_, rfl, rfl⟩
    · exact .inr ⟨_, _, rfl, rfl, like_storePieces k.num .home true _ h bs⟩

theorem devPut_like (va : Nat) (bs : List Byte) : (t.devPut j va bs).Like (s.devPut k va bs) := by
  unfold State.devPut
  obtain ⟨e, ht, hs⟩ | ⟨u, v, ht, hs, huv⟩ := devWrite_like h hjk va bs
  · rw [ht, hs]; exact h
  · rw [ht, hs]; exact huv

/-- A record fails, is put off, or is appended in both states. -/
theorem ringPut_like (base log2n size : Nat) (full : Bool) (mk : Nat → List Byte) :
    (∃ e, t.ringPut j base log2n size full mk = .error e ∧ s.ringPut k base log2n size full mk = .error e)
    ∨ (t.ringPut j base log2n size full mk = .ok none ∧ s.ringPut k base log2n size full mk = .ok none)
    ∨ ∃ u v : State, t.ringPut j base log2n size full mk = .ok (some u) ∧ s.ringPut k base log2n size full mk = .ok (some v)
      ∧ u.Like v := by
  unfold State.ringPut
  rw [devRead_like h hjk]
  split
  · exact .inl ⟨_, rfl, rfl⟩
  · next hd _ =>
    dsimp only
    split
    · exact .inr (.inl ⟨rfl, rfl⟩)
    · obtain ⟨e, ht, hs⟩ | ⟨u, v, ht, hs, huv⟩ := devWrite_like h hjk (base + ringNext log2n (fieldAt hd 12 2) * size)
        (mk (seqNext (fieldAt hd 0 4)))
      · rw [ht, hs]; exact .inl ⟨e, rfl, rfl⟩
      · rw [ht, hs]
        obtain ⟨e, hu, hv⟩ | ⟨u', v', hu, hv, hlast⟩ := devWrite_like huv hjk base (leBytes 4 (seqNext (fieldAt hd 0 4)))
        · simp only [hu, hv]; exact .inl ⟨e, rfl, rfl⟩
        · simp only [hu, hv]; exact .inr (.inr ⟨_, _, rfl, rfl, devPut_like (devPut_like hlast hjk ..) hjk ..⟩)

theorem ringWaits_like (base log2n size : Nat) : t.ringWaits j base log2n size = s.ringWaits k base log2n size := by
  unfold State.ringWaits State.ringSlot
  rw [devWaits_like h hjk, devWord_like h hjk, devWaits_like h hjk]

end

/-! ### Access logs (06 R189 to R191) -/

/-- Writing a record of an access log ends alike in states that are alike. -/
theorem logWrite_like (h : t.Like s) (c : CtxId) (n : Nat) (r : LogRange) (q : Nat × Nat × BitVec 8 × Nat) :
    (t.logWrite c n r q).1.Like (s.logWrite c n r q).1 ∧ (t.logWrite c n r q).2 = (s.logWrite c n r q).2 := by
  unfold State.logWrite
  cases hk : s.ctx 0 with
  | none =>
    rw [none_of_like h hk]
    exact ⟨h, rfl⟩
  | some house =>
    obtain ⟨j, hj, hjk⟩ := found_of_agrees h.agrees hk
    rw [hj, show t.evseq = s.evseq from (congrArg State.evseq h.agrees.outside :)]
    dsimp only
    rw [ringWaits_like h hjk]
    split
    · exact ⟨h, rfl⟩
    · obtain ⟨e, ht, hs⟩ | ⟨ht, hs⟩ | ⟨u, v, ht, hs, huv⟩ := ringPut_like h hjk ((r.ring.extractLsb' 6 50).toNat * 64)
        (r.ring.extractLsb' 56 8).toNat 32 false _ <;> rw [ht, hs]
      · exact ⟨h, rfl⟩
      · exact ⟨h, rfl⟩
      · exact ⟨huv, rfl⟩

theorem like_setLogs (h : t.Like s) (c : CtxId) (g : Tab LogRange → Tab LogRange) :
    (t.modCtx c fun k => { k with logs := g k.logs }).Like (s.modCtx c fun k => { k with logs := g k.logs }) := by
  refine like_modCtx h ?_ ?_ c
  · intro _
    rfl
  · intro j k hjk
    exact congrArg (fun i : Ctx => { i with logs := g i.logs }) hjk

theorem logs_of_aspect {j k : Ctx} (h : j.aspect = k.aspect) : j.logs = k.logs := (congrArg Ctx.logs h :)

theorem logOne_like (h : t.Like s) (c : CtxId) (va pa : Nat) (kinds : BitVec 8) (n : Nat) :
    (t.logOne c va pa kinds n).1.Like (s.logOne c va pa kinds n).1 ∧ (t.logOne c va pa kinds n).2 = (s.logOne c va pa kinds n).2 := by
  have hfind : ((t.ctx c).bind fun k => tget k.logs n) = (s.ctx c).bind fun k => tget k.logs n := by
    cases hk : s.ctx c with
    | none => rw [none_of_like h hk]
    | some k =>
      obtain ⟨j, hj, hjk⟩ := found_of_agrees h.agrees hk
      rw [hj]
      exact congrArg (tget · n) (logs_of_aspect hjk)
  unfold State.logOne
  rw [hfind]
  split
  · exact ⟨h, rfl⟩
  · next r _ =>
    split
    · exact ⟨h, rfl⟩
    · dsimp only
      split
      · obtain ⟨hlike, hok⟩ := logWrite_like h c n r _
        rw [hok]
        split
        · exact ⟨like_setLogs hlike c fun ls => tset ls n _, rfl⟩
        · exact ⟨h, rfl⟩
      · exact ⟨like_setLogs h c fun ls => tset ls n _, rfl⟩

/-- What is counted is counted alike. -/
theorem logCount_like (h : t.Like s) (c : CtxId) (ps : List Piece) (kinds : BitVec 8) :
    (t.logCount c ps kinds).1.Like (s.logCount c ps kinds).1 ∧ (t.logCount c ps kinds).2 = (s.logCount c ps kinds).2 := by
  refine List.foldl_rel (r := fun a b : State × Bool => a.1.Like b.1 ∧ a.2 = b.2) ⟨h, rfl⟩ ?_
  rintro p - a b ⟨hab, hok⟩
  cases hk : b.1.ctx c with
  | none =>
    rw [none_of_like hab hk]
    exact ⟨hab, hok⟩
  | some k =>
    obtain ⟨j, hj, hjk⟩ := found_of_agrees hab.agrees hk
    rw [hj]
    dsimp only
    rw [logs_of_aspect hjk]
    refine List.foldl_rel (r := fun a b : State × Bool => a.1.Like b.1 ∧ a.2 = b.2) ⟨hab, hok⟩ ?_
    rintro n - a b ⟨hab, hok⟩
    obtain ⟨hone, hone'⟩ := logOne_like hab c p.va p.tr.pa kinds n
    exact ⟨hone, by rw [hok, hone']⟩

/-- A log is full in both of two states that are alike, or in none. -/
theorem logFull_like (h : t.Like s) (c : CtxId) (ps : List Piece) (kinds : BitVec 8) : t.logFull c ps kinds = s.logFull c ps kinds := by
  unfold State.logFull
  cases hk : s.ctx c with
  | none => rw [none_of_like h hk]
  | some k =>
    obtain ⟨j, hj, hjk⟩ := found_of_agrees h.agrees hk
    rw [hj]
    dsimp only
    rw [logs_of_aspect hjk, (logCount_like h c ps kinds).2]
    simp only [fun n r q => (logWrite_like h c n r q).2]

end

/-! ### Peers (16 R449) -/

theorem like_chargePeer (s : State) (peer : BitVec 8) (c : CtxId) : (s.chargePeer peer c).Like s := by
  refine ⟨modCtx_mem .., agrees_modCtx s c ?_ ?_⟩ <;> intro _ <;> rfl

theorem peerPieces_like {t s : State} (h : t.Like s) {j k : Ctx} (hjk : j.aspect = k.aspect) (va n : Nat) (need : Need) :
    t.peerPieces j va n need = s.peerPieces k va n need := by
  unfold State.peerPieces
  rw [h.mem, pieces_of_aspect hjk, devSite_of_aspect hjk, show t.keys = s.keys from (congrArg State.keys h.agrees.outside :)]

theorem bindsPeer_like {t s : State} (h : t.Like s) (peer : BitVec 8) (c : CtxId) : t.bindsPeer peer c = s.bindsPeer peer c := by
  unfold State.bindsPeer
  rw [h.mem]

theorem answers_peerUnbound {peer : BitVec 8} {c : CtxId} {req : PeerReq} {s : State} (hb : s.bindsPeer peer c = false) :
    answers (.peerRequest peer c req) s fun t => t.mem = s.mem ∧ ∃ r, t.peerReply = s.peerReply ++ [r] ∧ r.code = 7 ∧ r.bytes = [] := by
  have hlike := like_chargePeer s peer c
  rw [← bindsPeer_like hlike] at hb
  refine answers_of_exec (t := (s.chargePeer peer c).answer 0x07 (protFail 5).detail []) ?_ ⟨hlike.mem, ?_⟩
  · show execPeerRequest peer c req s = _
    unfold execPeerRequest
    dsimp only
    split
    · rfl
    · rw [hb]
      rfl
  · exact ⟨_, congrArg (· ++ [_]) (congrArg State.peerReply hlike.agrees.outside :), rfl, rfl⟩

/-- The machine after a peer's read of some pieces. -/
def State.peerRead (s : State) (k : Ctx) (ps : List Piece) : State :=
  ({ s.engineSpend k.num (k.phys 0) false ps with mem := s.mem.peek ps } : State).logAccess k.num ps kRead

theorem peerRead_outside (s : State) (k : Ctx) (ps : List Piece) : (s.peerRead k ps).outside = s.outside :=
  (agrees_logAccess spared_num ..).outside.trans (agrees_engineSpend spared_num ..).outside

/-- A peer's load that nothing stops is answered with the bytes. -/
theorem exec_peerLoad {peer : BitVec 8} {c : CtxId} {va : Addr} {n : Nat} {s u : State} {j : Ctx} {ps : List Piece}
    (hu : s.chargePeer peer c = u) (hj : u.ctx c = some j) (hb : u.bindsPeer peer c = true)
    (hps : u.peerPieces j va.toNat n .rd = .ok ps) (hfull : u.logFull c ps kRead = false)
    (hwait : ∀ p ∈ ps, pieceWaits u.mem j p false = false) (hpoison : ∀ p ∈ ps, piecePoison u.mem p = false) :
    exec (.peerRequest peer c (.load va n)) s = .next ((u.peerRead j ps).answer 0 0
      (ps.flatMap fun p => (List.range p.n).map fun i => u.mem.keyed p.tr.key (p.tr.pa + i))) := by
  obtain rfl : j.num = c := ctx_num hj
  show execPeerRequest peer j.num (.load va n) s = _
  unfold execPeerRequest
  dsimp only
  rw [hu, hj, hb]
  dsimp only
  rw [hps]
  refine congrArg Host.Outcome.next ((if_neg Bool.false_ne_true).trans ((if_neg ?_).trans (if_neg ?_)))
  · rw [hfull, Bool.false_or, List.any_eq_true]
    rintro ⟨p, hp, hw⟩
    exact Bool.false_ne_true ((hwait p hp).symm.trans hw)
  · rw [List.any_eq_true]
    rintro ⟨p, hp, hw⟩
    exact Bool.false_ne_true ((hpoison p hp).symm.trans hw)

theorem answers_peerLoad {peer : BitVec 8} {c : CtxId} {va : Addr} {n : Nat} {s : State} {k : Ctx} {ps : List Piece}
    (hk : s.ctx c = some k) (hb : s.bindsPeer peer c = true) (hps : s.peerPieces k va.toNat n .rd = .ok ps)
    (hfull : s.logFull c ps kRead = false) (hwait : ∀ p ∈ ps, pieceWaits s.mem k p false = false)
    (hpoison : ∀ p ∈ ps, piecePoison s.mem p = false) :
    answers (.peerRequest peer c (.load va n)) s fun t => ∃ r, t.peerReply = s.peerReply ++ [r] ∧ r.code = 0
      ∧ r.bytes = ps.flatMap fun p => (List.range p.n).map fun i => s.mem.keyed p.tr.key (p.tr.pa + i) := by
  have hlike := like_chargePeer s peer c
  generalize hu : s.chargePeer peer c = u at hlike
  obtain ⟨j, hj, hjk⟩ := found_of_agrees hlike.agrees hk
  rw [← bindsPeer_like hlike] at hb
  rw [← peerPieces_like hlike hjk] at hps
  rw [← logFull_like hlike] at hfull
  simp only [← pieceWaits_of_aspect hjk, ← hlike.mem] at hwait hpoison
  refine answers_of_exec (exec_peerLoad hu hj hb hps hfull hwait hpoison) ?_
  rw [← hlike.mem]
  have hreplies : (u.peerRead j ps).peerReply = s.peerReply :=
    (congrArg State.peerReply ((peerRead_outside u j ps).trans hlike.agrees.outside) :)
  exact ⟨_, congrArg (· ++ [_]) hreplies, rfl, rfl⟩

/-! ### The statement -/

/-- Settles O59: each step by its own law. -/
theorem hostAndPodSteps : Obligations.HostAndPodSteps := by
  unfold Obligations.HostAndPodSteps
  refine ⟨?doorbell, ?command, ?outOfTurn, ?event, ?dispatch, ?bias, ?hostRead, ?pageTurned, ?hostRefused, ?snoopResponse, ?cacheSnoop,
    ?measurement, ?spdmBusy, ?peerLoad, ?peerUnbound, ?linkWidth, ?linkError, ?farModule, ?training, ?gondola, ?stealRecord, ?stolenRecord,
    ?stolenInterval, ?thiefTells⟩
  case doorbell => exact fun _ _ _ _ => answers_hostDoorbell
  case command => exact fun _ _ _ _ hk hbell hcons hstate hr hseq hbad hroom hreach himg hdone =>
    answers_hostCommand_inTurn hk hbell hcons hstate hr hseq hbad hroom hreach himg hdone
  case outOfTurn => exact fun _ _ _ _ hk hbell hcons hstate hr hseq hreach =>
    answers_hostCommand_outOfTurn hk hbell hcons hstate hreach hr hseq
  case event => exact fun _ _ _ _ _ _ => answers_hostEventWrite
  case dispatch => exact fun _ _ _ _ _ _ hk hb hth hmax hd hg hln hfull hwait =>
    answers_of_exec (exec_queueDispatch hk hb hth hmax rfl hd hg hln hfull hwait) (dispatched_runs hk hb _ _)
  case bias => exact fun _ _ _ _ _ _ => answers_bias
  case hostRead => exact fun _ _ _ => answers_hostRead
  case pageTurned => exact fun _ _ _ _ _ => answers_pageTurned
  case hostRefused => exact fun _ _ _ _ _ => answers_hostRefused
  case snoopResponse => exact fun _ _ _ _ => answers_hostSnoopResponse
  case cacheSnoop => exact fun _ _ => answers_hostCacheSnoop
  case measurement => exact fun _ _ _ => answers_measurement
  case spdmBusy => exact fun _ _ _ _ => answers_spdmBusy
  case peerLoad => exact fun _ _ _ _ _ _ _ => answers_peerLoad
  case peerUnbound => exact fun _ _ _ _ => answers_peerUnbound
  case linkWidth => exact fun _ _ _ => answers_linkWidthChange
  case linkError => exact fun _ _ => answers_linkCorrectedError
  case farModule => exact fun _ _ _ _ => answers_farModuleConnect
  case training => exact fun _ _ s => exec_cxlLinkTraining s
  case gondola => exact fun _ _ => answers_gondolaVisit
  case stealRecord => exact fun _ _ _ _ _ _ => answers_stealRecord
  case stolenRecord => exact fun _ _ _ _ hk => answers_stolenRecord hk
  case stolenInterval => exact fun _ _ _ _ _ _ _ hk => answers_stolenInterval hk
  case thiefTells =>
    intro _ _ _ m _ _ _ hk ht hn
    refine ⟨answers_thiefTells hk hn ?_ (exec_stealDone hk ht _ m), answers_thiefTells hk hn ?_ (exec_stealEnded hk ht _)⟩ <;>
      exact fun _ => rfl

end Sys2Proof.Machine
end

section
/-! PROOFS. A committed operation that is performed leaves, and `Obligations.CommittedOperationsArePerformed` (04 R106, 05 R137,
R148). -/

namespace Sys2Proof.Machine

/-! ### Its performance (04 R106) -/

/-- With no uncorrectable error in its way, what is left is what its performance leaves. -/
theorem performOne_readable {s : State} {c : CtxId} {k : Ctx} {me : Committed} (hk : s.ctx c = some k) (hr : s.readable k me)
    (pick : Nat) : s.performOne c me pick none = (s.performance k me pick).settle c me := by
  unfold State.performOne State.performance
  rw [hk]
  cases hi : me.item with
  | mem o => simp only [hr o hi]
  | dfr d => rfl

/-! ### The steps that perform one (05 R137, R148, 08 R222) -/

/-- A context that is not saved is found by the steps that look for one. -/
theorem ctx_filter_unsaved {s : State} {c : CtxId} {k : Ctx} (hk : s.ctx c = some k) (hs : k.state ≠ 3) :
    (s.ctx c).filter (·.state != 3) = some k := by simpa [hk, Option.filter] using hs

theorem exec_storePerform_performOne {c : CtxId} {th : ThreadId} {n pick : Nat} {s : State} {k : Ctx} {me : Committed}
    (hk : s.ctx c = some k) (hs : k.state ≠ 3) (hn : (k.committed.filter fun e => e.thread == th && !e.waiting)[n]? = some me)
    (hf : k.followed s.mem me = false) :
    exec (.storePerform c th n pick none) s = .next (s.performOne c me pick none) := by
  show execStorePerform c th n pick none s = _
  unfold execStorePerform
  rw [ctx_filter_unsaved hk hs]
  simp only [hn, hf, Bool.false_eq_true, if_false]

theorem exec_committedOperationWaitEnd_performOne {c : CtxId} {th : ThreadId} {pick : Nat} {s : State} {k : Ctx} {me : Committed}
    (hk : s.ctx c = some k) (hs : k.state ≠ 3)
    (hfind : (k.committed.find? fun e => e.thread == th && e.waiting && !e.elsewhere && !e.parkedPut && !k.followed s.mem e) = some me) :
    exec (.committedOperationWaitEnd c th pick) s = .next (s.performOne c me pick none) := by
  show execCommittedOperationWaitEnd c th pick s = _
  unfold execCommittedOperationWaitEnd
  rw [ctx_filter_unsaved hk hs]
  simp only [hfind]

theorem exec_parkedQueueServe_performOne {c : CtxId} {th : ThreadId} {pick : Nat} {s : State} {k : Ctx} {me : Committed}
    (hk : s.active c = some k) (hfind : (k.committed.find? fun e => e.thread == th && e.waiting && e.parkedPut) = some me)
    (hg : k.gateShut me.lcl = false) : exec (.parkedQueueServe c th pick) s = .next (s.performOne c me pick none) := by
  show execParkedQueueServe c th pick s = _
  unfold execParkedQueueServe
  rw [hk]
  simp only [hfind, hg, Bool.false_eq_true, if_false]

/-! ### What it leaves (04 R106, R108) -/

theorem fixedPart_unparkItem (k : Ctx) (me : Committed) : (k.unparkItem me).fixedPart = k.fixedPart := by
  unfold Ctx.unparkItem
  split <;> rfl

/-- An operation that is done leaves the committed ones, whatever becomes of its results. -/
theorem settle_done_leaves {t : State} {c : CtxId} {j : Ctx} (hj : t.ctx c = some j) (me : Committed) (v1 v2 : Value) :
    inCtx ((Perf.done t v1 v2).settle c me) c fun i => i.committed = dropFirst (· == me) j.committed := by
  have hfixed := fixedPart_unparkItem j me
  have hleft := fixedPart_emitLate ((j.unparkItem me).leaves me) me me.item.site.1 me.item.site.2.1 me.item.site.2.2 v1 v2
  refine inCtx_modCtx hj ((congrArg Ctx.num hleft :).trans (congrArg Ctx.num hfixed :)) ?_
  exact (congrArg Ctx.committed hleft :).trans (congrArg (dropFirst (· == me)) (congrArg Ctx.committed hfixed :))

/-- An operation that must wait is held. -/
theorem settle_wait_holds {me : Committed} (hm : me.waiting = false) (t : State) (c : CtxId) : (Perf.wait t).settle c me
    = t.modCtx c fun j => { j with committed := updFirst (· == me) (fun e => { e with waiting := true }) j.committed } :=
  if_neg (by rw [hm]; exact Bool.false_ne_true)

/-- A step that performs an operation whose performance is done: memory is as that leaves it, and the operation is gone. -/
theorem answers_performed {i : Instr} {c : CtxId} {s t : State} {k j : Ctx} {me : Committed} {pick : Nat} {v1 v2 : Value}
    (hi : exec i s = .next (s.performOne c me pick none)) (hk : s.ctx c = some k) (hr : s.readable k me)
    (hp : s.performance k me pick = .done t v1 v2) (hj : t.ctx c = some j) :
    answers i s fun u => u.mem = t.mem ∧ inCtx u c fun i => i.committed = dropFirst (· == me) j.committed := by
  refine answers_of_exec hi ?_
  rw [performOne_readable hk hr, hp]
  exact ⟨settle_done_mem .., settle_done_leaves hj ..⟩

/-! ### The statement -/

/-- Settles O49: each step performs its operation alike, and differs only in which one it takes up. -/
theorem committedOperationsArePerformed : Obligations.CommittedOperationsArePerformed := by
  unfold Obligations.CommittedOperationsArePerformed
  refine ⟨?turn, ?held, ?again, ?parked⟩
  case turn =>
    intro c th n pick s t k j me v1 v2 hk hs hn hf hr hp hj
    exact answers_performed (exec_storePerform_performOne hk hs hn hf) hk hr hp hj
  case held =>
    intro c th n pick s t k me hk hs hn hf hr hp
    have hfree : me.waiting = false := by
      have hpick := (List.mem_filter.1 (List.mem_of_getElem? hn)).2
      simpa using (Bool.and_eq_true_iff.1 hpick).2
    rw [exec_storePerform_performOne hk hs hn hf, performOne_readable hk hr, hp, settle_wait_holds hfree]
  case again =>
    intro c th pick s t k j me v1 v2 hk hs hfind hr hp hj
    exact answers_performed (exec_committedOperationWaitEnd_performOne hk hs hfind) hk hr hp hj
  case parked =>
    intro c th pick s t k j me v1 v2 hk hfind hg hr hp hj
    exact answers_performed (exec_parkedQueueServe_performOne hk hfind hg) (active_ctx hk).1 hr hp hj

end Sys2Proof.Machine
end

section
/-! PROOFS. A load that its own access log watches, and `Obligations.OrderSteps` (03 R88, 06 R189, R190). -/

namespace Sys2Proof.Machine

/-! ### A consuming LDC on the header of its own log ring (03 R88, 06 R156, R190) -/

/-- A consuming LDC of 8 bytes at the start of the scratchpad, which has entered. -/
def ringTaker : MemOp := { (default : MemOp) with
  act := .ldc, m := { (default : FormM) with pred := 0xFE, succ := 0xFE, sz := 3, q := true }, a := 0x00F0000000000000
  ps := [⟨scratchBase, 8, windowTrans (.scratch 0 0)⟩], entered := true }

/-- The wave that it is alone in, and its thread. -/
def ringTakerWave : Wave := { Wave.fresh 0 0 with ops := [ringTaker] }
def ringTakerThread : Thread := { (default : Thread) with waves := [ringTakerWave] }

/-- A range of context 0 that counts the reads of the scratchpad's first page, into a ring of 64 entries that begins with that page.
One count more closes the page's open record. -/
def ownRing : LogRange :=
  { base := 0x00F0000000000000, limit := 0x00F0000000000000, ring := 0x06F0000000000001, pages := [(scratchBase, 0, 1, 1023)] }

/-- Context 0 with that range, whose first granule is FULL. -/
def ringHouse : Ctx := { (default : Ctx) with
  num := 0, lcount := 1, logs := [(0, ownRing)], threads := [ringTakerThread]
  shares := [(Share.fresh 0).setGran 0 { Gran.empty with st := 1 }] }

def ringState : State := { State.reset with ctxs := [ringHouse] }

/-- The LDC may be bound, and finds its granule FULL. -/
theorem ringTaker_ready : ringState.mayBind ringHouse ringTakerThread 0 ringTaker = true
    ∧ presenceReady ringTaker (ringHouse.prior ringTakerThread 0 0) (ringHouse.viewOf ringTaker) = true := by decide +kernel

/-- The bytes that the hold of the scratchpad's first granule keeps after a step. -/
def heldValue (r : Out) : Option (List Byte) :=
  match r with
  | .next t => (t.ctx 0).bind fun j => ((j.share 0).gran 0).hold.map (·.value)
  | _ => none

theorem heldValue_next {t : State} {j : Ctx} {g : Gran} {h : Hold} (hj : t.ctx 0 = some j) (hg : (j.share 0).gran 0 = g)
    (hh : g.hold = some h) : heldValue (.next t) = some h.value := by
  simp only [heldValue, hj, Option.bind_some, hg, hh, Option.map_some]

/-- It takes the header as the record of its own access has left it: PROD is 1, and so is PPOS. -/
theorem ringTaker_takes : heldValue (exec (.loadBind 0 0 0 0 0 none) ringState)
    = some [1, 0, 0, 0, 0, 0, 0, 0, 0, 0, 0, 0, 1, 0, 0, 0] := by decide +kernel

/-! ### The statement -/

/-- Refutes O47: its clause on presence loads has the hold of a consuming LDC keep the bytes that stood in the granule before the step,
and does not ask that no access log watches the context. A load is counted when it is performed (R190), which may close a record of its
page and write it. The ring lies in house memory (R189); where the house itself is watched and takes the granule that its ring's header
lies in, the hold keeps the header as that record leaves it. -/
theorem not_orderSteps : ¬ Obligations.OrderSteps := by
  rintro ⟨-, -, -, hpresence, -⟩
  obtain ⟨hmay, hready⟩ := ringTaker_ready
  obtain ⟨hfull, -⟩ := hpresence 0 0 0 0 ringState ringHouse ringTakerThread ringTakerWave ringTaker 0 0 0 rfl rfl rfl rfl (.inl rfl)
    hmay (by decide +kernel) rfl rfl
  obtain ⟨t, ht, j, hj, -, -, hgran⟩ := hfull hready
  have hkept := heldValue_next hj (hgran.trans (if_pos ⟨rfl, rfl⟩)) rfl
  rw [← ht, ringTaker_takes] at hkept
  exact absurd hkept (by decide +kernel)

end Sys2Proof.Machine
end

section
/-! PROOFS. What a launch's report leaves, and its admission or refusal (05 R134 to R136, R139, R160). -/

namespace Sys2Proof.Machine

/-! ### The report of a launch (05 R135, R160) -/

/-- The host event that a launch's report posts. -/
def reportEvent (r : LaunchRec) (fromHost : Bool) (status cause detail : Nat) (num : BitVec 32) : HostEvent :=
  { hostEvent (BitVec.ofNat 8 status) with
    cause := BitVec.ofNat 8 cause, detail := BitVec.ofNat 16 detail, cmdseq := if fromHost then r.seq else 0, launch := num }

/-- A launch's report up to its event: the caches cleaned and the DONE word written. -/
def State.doneWritten (s : State) (k : Ctx) (r : LaunchRec) (status cause detail : Nat) : State :=
  if (s.releaseAll k r.scope).doneOk k r.done.toNat && r.done != 0 then
    ((s.releaseAll k r.scope).devSpend k r.done.toNat 8 true).devPut k r.done.toNat (leBytes 8 (doneWord status cause detail r.seq))
  else s.releaseAll k r.scope

theorem report_eq {s : State} {c : CtxId} {k : Ctx} (hk : s.ctx c = some k) (r : LaunchRec) (fromHost : Bool)
    (status cause detail : Nat) (num : BitVec 32) : s.report c r fromHost status cause detail num
      = (s.doneWritten k r status cause detail).post c (reportEvent r fromHost status cause detail num) := by
  unfold State.report; rw [hk]; rfl

section
variable {β : Type} {p : Ctx → β} (hp : Spared p)
include hp

theorem agrees_releaseAt (s : State) (c : CtxId) (clu : Nat) (ord scp : BitVec 2) : (s.releaseAt c clu ord scp).Agrees p s := by
  unfold State.releaseAt
  refine agrees_trans (agrees_setMem _ _) ?_
  split
  · exact agrees_modCtx s c (foldl_keeps Ctx.num (f := fun k (e : L1Line) => k.charge _ 2 6) (fun _ _ => rfl) _)
      (foldl_keeps p (fun _ _ => hp.charge ..) _)
  · exact agrees_refl s

theorem agrees_doneWritten (s : State) (k : Ctx) (r : LaunchRec) (status cause detail : Nat) :
    (s.doneWritten k r status cause detail).Agrees p s := by
  have hclean : (s.releaseAll k r.scope).Agrees p s := agrees_foldl (fun _ _ => agrees_releaseAt hp ..) _ s
  unfold State.doneWritten
  split
  · exact agrees_trans (agrees_devPut hp ..) (agrees_trans (agrees_devSpend hp ..) hclean)
  · exact hclean

/-- What neither the device's accesses nor a context's events change stands through a report. -/
theorem agrees_report (he : ∀ k es, p { k with events := es } = p k) (s : State) (c : CtxId) (r : LaunchRec) (fromHost : Bool)
    (status cause detail : Nat) (num : BitVec 32) : (s.report c r fromHost status cause detail num).Agrees p s := by
  cases hk : s.ctx c with
  | none => unfold State.report; rw [hk]; exact agrees_refl s
  | some k =>
    rw [report_eq hk]
    exact agrees_trans (agrees_modCtx _ c (fun _ => rfl) fun _ => he ..) (agrees_doneWritten hp ..)

end

/-- A report adds its event to those of the context, of which the rest of its dealings stand. -/
theorem report_ctx {s : State} {c : CtxId} {k : Ctx} (hk : s.ctx c = some k) (r : LaunchRec) (fromHost : Bool)
    (status cause detail : Nat) (num : BitVec 32) : ∃ i : Ctx, i.dealings = k.dealings
      ∧ (s.report c r fromHost status cause detail num).ctx c
        = some { i with events := i.events ++ [reportEvent r fromHost status cause detail num] } := by
  obtain ⟨i, hi, hik⟩ := found_of_agrees (agrees_doneWritten spared_dealings s k r status cause detail) hk
  exact ⟨i, hik, by rw [report_eq hk]; exact post_ctx _ hi⟩

theorem report_outside (s : State) (c : CtxId) (r : LaunchRec) (fromHost : Bool) (status cause detail : Nat) (num : BitVec 32) :
    (s.report c r fromHost status cause detail num).outside = s.outside :=
  (agrees_report spared_num (fun _ _ => rfl) s c r fromHost status cause detail num).outside

/-! ### Admission (05 R134, R136, R139, 06 R164) -/

section
variable {die : Nat} {s : State} {q : QRec} {k : Ctx} (hq : s.nextLaunch die = some q) (hk : s.ctx q.ctx = some k)
  (himg : s.devWaits k q.lrec.kimg.toNat 64 false = false) (hdone : s.doneWaits k q.lrec = false)
include hq hk himg hdone

theorem exec_launchAdmission_admits {h : List Byte} (hbad : s.launchBad k q.lrec = none)
    (hgen : k.launches = [] → k.genBusy = false) (hread : s.devRead k q.lrec.kimg.toNat 64 .f = .ok h) :
    exec (.launchAdmission die) s = .next (({ s with launchq := dropFirst (· == q) s.launchq } : State).setCtx
      (k.enrol q ((s.dictSet k h).getD []))) := by
  have hfree : (k.launches.isEmpty && k.genBusy) = false := by
    cases hl : k.launches with
    | nil => simp [hgen hl]
    | cons n ns => rfl
  show execLaunchAdmission die s = _
  simp [execLaunchAdmission, hq, hk, himg, hdone, hbad, hfree, hread]

theorem exec_launchAdmission_refuses {d : Nat} (hbad : s.launchBad k q.lrec = some d) :
    exec (.launchAdmission die) s = .next (({ s with launchq := dropFirst (· == q) s.launchq } : State).report q.ctx q.lrec
      q.fromHost 3 0x15 d 0xFFFFFFFF) := by
  show execLaunchAdmission die s = _
  simp [execLaunchAdmission, hq, hk, himg, hdone, hbad]

end

/-- The first launch registers its dictionary; one beside others finds it registered (06 R164). -/
theorem register_fields (k : Ctx) (rows : List (BitVec 128)) : (k.register rows).launches = k.launches
    ∧ (k.register rows).num = k.num
    ∧ (k.launches = [] → (k.register rows).gen = k.gen + 1 ∧ (k.register rows).sel = 0 ∧ (k.register rows).fpend = true) := by
  unfold Ctx.register
  split
  · next h => exact ⟨rfl, rfl, fun hl => by simp [hl] at h⟩
  · exact ⟨rfl, rfl, fun _ => ⟨rfl, rfl, rfl⟩⟩

theorem answers_launchAdmitted {die : Nat} {s : State} {q : QRec} {k : Ctx} {h : List Byte} (hq : s.nextLaunch die = some q)
    (hk : s.ctx q.ctx = some k) (himg : s.devWaits k q.lrec.kimg.toNat 64 false = false) (hdone : s.doneWaits k q.lrec = false)
    (hbad : s.launchBad k q.lrec = none) (hgen : k.launches = [] → k.genBusy = false)
    (hread : s.devRead k q.lrec.kimg.toNat 64 .f = .ok h) :
    answers (.launchAdmission die) s fun t => t.launchq = dropFirst (· == q) s.launchq ∧ t.mem = s.mem ∧ inCtx t q.ctx fun j =>
      (∃ n ∈ j.launches, n.num = k.nextLaunch ∧ n.lrec = q.lrec ∧ n.stage = 1 ∧ n.abort = none)
      ∧ (k.state = 0 → j.state = 1) ∧ (k.launches = [] → j.gen = k.gen + 1 ∧ j.sel = 0 ∧ j.fpend = true) := by
  obtain ⟨-, hnum, hreg⟩ := register_fields k ((s.dictSet k h).getD [])
  refine answers_of_exec (exec_launchAdmission_admits hq hk himg hdone hbad hgen hread) ⟨rfl, rfl, _,
    ctx_setCtx hk (hnum.trans (ctx_num hk)), ⟨newLaunch k.nextLaunch k.born q, ?_, rfl, rfl, rfl, rfl⟩, fun h0 => ?_, hreg⟩
  · exact List.mem_append_right _ List.mem_cons_self
  · simp [Ctx.enrol, h0]

theorem answers_launchRefused {die : Nat} {s : State} {q : QRec} {k : Ctx} {d : Nat} (hq : s.nextLaunch die = some q)
    (hk : s.ctx q.ctx = some k) (himg : s.devWaits k q.lrec.kimg.toNat 64 false = false) (hdone : s.doneWaits k q.lrec = false)
    (hbad : s.launchBad k q.lrec = some d) :
    answers (.launchAdmission die) s fun t => t.launchq = dropFirst (· == q) s.launchq ∧ inCtx t q.ctx fun j =>
      j.launches = k.launches ∧ ∃ e ∈ j.events, e.kind = 3 ∧ e.cause = 0x15 ∧ e.detail = BitVec.ofNat 16 d := by
  obtain ⟨i, hi, hctx⟩ := report_ctx (s := { s with launchq := dropFirst (· == q) s.launchq }) hk q.lrec q.fromHost 3 0x15 d 0xFFFFFFFF
  exact answers_of_exec (exec_launchAdmission_refuses hq hk himg hdone hbad)
    ⟨(congrArg State.launchq (report_outside ..) :), _, hctx, (congrArg Ctx.launches hi :), _, mem_posted .., rfl, rfl, rfl⟩

/-! ### Entry blocks are asked for (05 R139, 06 R176) -/

/-- A context without its pins. -/
def Ctx.unpinned (k : Ctx) : Ctx := { k with pins := [] }

theorem agrees_pinOne (s : State) (c : CtxId) (ln : BitVec 32) (lcl : Nat) (origin : Bool) (b : Addr) :
    (s.pinOne c ln lcl origin b).1.Agrees Ctx.unpinned s := by
  cases hk : s.ctx c with
  | none => unfold State.pinOne; rw [hk]; exact agrees_refl s
  | some k =>
    unfold State.pinOne
    simp only [hk]
    split
    · exact agrees_refl s
    · split
      · exact agrees_refl s
      · split
        · exact agrees_refl s
        · have h (p : Pin) := agrees_modCtx (p := Ctx.unpinned) (f := fun j => { j with pins := j.pins ++ [p] }) s c (fun _ => rfl)
            fun _ => rfl
          simp only [modCtx_some hk] at h
          exact h _

/-- The state once the pins of a kernel's list are taken for a launch. -/
def State.listPinned (s : State) (c : CtxId) (n : Launch) : State :=
  if n.lrec.pin then
    (List.range n.lrec.lclust.toNat).foldl (fun t l =>
      match t.ctx c with
      | none => t
      | some k => (t.pinAll c n.num l false (t.pinList k n.lrec)).1) s
  else s

theorem agrees_listPinned (s : State) (c : CtxId) (n : Launch) : (s.listPinned c n).Agrees Ctx.unpinned s := by
  unfold State.listPinned
  split
  · refine agrees_foldl (fun t l => ?_) _ s
    split
    · exact agrees_refl t
    · exact agrees_foldl_fst (f := fun r b => let q := r.1.pinOne c n.num l false b; (q.1, r.2 + q.2))
        (fun q b => agrees_pinOne ..) _ (t, 0)
  · exact agrees_refl s

/-- The entry blocks of a launch, on each logical cluster that a thread of it will run on. -/
def State.entryAsks (s : State) (k : Ctx) (n : Launch) : List Asked :=
  (((indexVectors n.lrec.fans).map n.lrec.placeOf).eraseDups).flatMap fun l =>
    (((s.entries k n.lrec).filterMap fun e => match e with | .ok p => some p.1 | .error _ => none).eraseDups).map fun b =>
      ⟨n.num, l, b, false⟩

theorem mem_entryAsks {s : State} {k : Ctx} {n : Launch} {idx : List Nat} {p : Addr × Nat} (hi : idx ∈ indexVectors n.lrec.fans)
    (hp : .ok p ∈ s.entries k n.lrec) : ⟨n.num, n.lrec.placeOf idx, p.1, false⟩ ∈ s.entryAsks k n :=
  List.mem_flatMap.2 ⟨_, List.mem_eraseDups.2 (List.mem_map_of_mem hi), List.mem_map.2 ⟨p.1,
    List.mem_eraseDups.2 (List.mem_filterMap.2 ⟨_, hp, rfl⟩), rfl⟩⟩

/-- A launch whose entry blocks are asked for. -/
def Ctx.asking (k : Ctx) (n : Launch) (asks : List Asked) : Ctx :=
  ({ k with wanted := k.wanted ++ asks } : Ctx).modLn n.num fun x => { x with stage := 2 }

theorem beginPlacing_eq {s : State} {c : CtxId} {j : Ctx} (n : Launch) (hj : (s.listPinned c n).ctx c = some j) :
    s.beginPlacing c n = (s.listPinned c n).setCtx (j.asking n ((s.listPinned c n).entryAsks j n)) := by
  have hstate : s.beginPlacing c n = match (s.listPinned c n).ctx c with
      | none => s
      | some k => (s.listPinned c n).setCtx (k.asking n ((s.listPinned c n).entryAsks k n)) := rfl
  rw [hstate, hj]

theorem gates_open {k : Ctx} {m : Nat} (h : ∀ l, l < m → k.gateShut l = false) : (List.range m).any k.gateShut = false :=
  List.any_eq_false.2 fun l hl => by simp [h l (List.mem_range.1 hl)]

theorem exec_threadCreation_asks {c : CtxId} {ln : BitVec 32} {s : State} {k : Ctx} {n : Launch} (hk : s.active c = some k)
    (hn : k.ln ln = some n) (hs : n.stage = 1) (ha : n.abort = none)
    (hg : ∀ l, l < n.lrec.lclust.toNat → k.gateShut l = false) :
    exec (.threadCreation c ln) s = .next (s.beginPlacing c n) := by
  show execThreadCreation c ln s = _
  simp [execThreadCreation, hk, hn, hs, ha, gates_open hg]

theorem ln_modLn_found {k : Ctx} {ln : BitVec 32} {n : Launch} (f : Launch → Launch) (h : k.ln ln = some n)
    (hf : ∀ n, (f n).num = n.num) : (k.modLn ln f).ln ln = some (f n) := by rw [ln_modLn hf, h]; rfl

theorem ln_num {k : Ctx} {ln : BitVec 32} {n : Launch} (h : k.ln ln = some n) : n.num = ln := by
  unfold Ctx.ln at h; simpa using List.find?_some h

theorem answers_threadCreation_asks {c : CtxId} {ln : BitVec 32} {s : State} {k : Ctx} {n : Launch} (hk : s.active c = some k)
    (hn : k.ln ln = some n) (hs : n.stage = 1) (ha : n.abort = none)
    (hg : ∀ l, l < n.lrec.lclust.toNat → k.gateShut l = false) :
    answers (.threadCreation c ln) s fun t => inCtx t c fun j => (∃ m, j.ln ln = some m ∧ m.stage = 2) ∧ j.threads = k.threads
      ∧ (n.lrec.pin = false → ∀ idx ∈ indexVectors n.lrec.fans, ∀ p, .ok p ∈ s.entries k n.lrec →
          ⟨ln, n.lrec.placeOf idx, p.1, false⟩ ∈ j.wanted) := by
  obtain ⟨hctx, -⟩ := active_ctx hk
  obtain rfl := ln_num hn
  obtain ⟨j, hj, hjk⟩ := found_of_agrees (agrees_listPinned s c n) hctx
  have hnum : j.num = k.num := (congrArg Ctx.num hjk :)
  have hlaunches : j.launches = k.launches := (congrArg Ctx.launches hjk :)
  refine answers_of_exec (exec_threadCreation_asks hk hn hs ha hg) ?_
  rw [beginPlacing_eq n hj]
  refine ⟨_, ctx_setCtx hj (hnum.trans (ctx_num hctx)), ⟨{ n with stage := 2 }, ?_, rfl⟩, (congrArg Ctx.threads hjk :),
    fun hpin => ?_⟩
  · exact ln_modLn_found _ ((congrArg (List.find? _) hlaunches).trans hn) fun _ => rfl
  · intro idx hi p hp
    have hsame : s.listPinned c n = s := if_neg (by simp [hpin])
    rw [hsame, hctx, Option.some.injEq] at hj
    subst hj
    rw [hsame]
    exact List.mem_append_right _ (mem_entryAsks hi hp)

end Sys2Proof.Machine
end

section
/-! PROOFS. A launch's threads are created, and it completes or ends by its abort (05 R135, R138, R139, R206). -/

namespace Sys2Proof.Machine

/-! ### Threads are created (05 R139, R260) -/

/-- A context that has room for a thread has a number for it. -/
theorem freeThread_of_room {k : Ctx} (h : k.threads.length < 65536) : ∃ t, k.freeThread = some t := by
  have hfree : ∃ n ∈ Finset.range 65536, n ∉ (k.threads.map (·.num.toNat)).toFinset :=
    Finset.exists_mem_notMem_of_card_lt_card (by
      rw [Finset.card_range]
      exact (List.toFinset_card_le _).trans_lt (by rwa [List.length_map]))
  obtain ⟨n, hn, hnot⟩ := hfree
  cases hf : firstNat (fun n => !(k.threads.any fun x => x.num.toNat == n)) 65536 with
  | some m => exact ⟨_, by rw [Ctx.freeThread, hf]; rfl⟩
  | none =>
    have hany := List.find?_eq_none.1 hf n (List.mem_range.2 (Finset.mem_range.1 hn))
    simp only [Bool.not_eq_true', Bool.not_eq_false, List.any_eq_true, beq_iff_eq] at hany
    obtain ⟨x, hx, hxn⟩ := hany
    exact absurd (List.mem_toFinset.2 (List.mem_map.2 ⟨x, hx, hxn⟩)) hnot

/-- What of a thread its launch decides: the launch, the indices, the logical cluster. -/
def Thread.origin (x : Thread) : BitVec 32 × List Nat × Nat := (x.ln, x.idx, x.lcl)

/-- The origins of a context's threads. -/
def Ctx.origins (k : Ctx) : List (BitVec 32 × List Nat × Nat) := k.threads.map Thread.origin

theorem origins_eq_roster (k : Ctx) : k.origins = k.roster.map Thread.origin := by
  rw [Ctx.roster, List.map_map]; rfl

theorem origins_enter (k : Ctx) (a : Arrived) (src : Src) (inside : Bool) : (k.enter a src inside).origins = k.origins := by
  rw [origins_eq_roster, roster_enter, ← origins_eq_roster]

/-- A launch's new thread stands behind the others, at its place. -/
theorem spawn_origins {k : Ctx} (n : Launch) (leads : List (Addr × Nat)) (idx : List Nat) (h : k.threads.length < 65536) :
    (k.spawn n leads idx).origins = k.origins ++ [(n.num, idx, n.lrec.placeOf idx)] := by
  obtain ⟨t, ht⟩ := freeThread_of_room h
  unfold Ctx.spawn
  simp only [ht]
  rw [foldl_keeps Ctx.origins (fun _ _ => origins_enter ..)]
  exact List.map_append

theorem launches_enter (k : Ctx) (a : Arrived) (src : Src) (inside : Bool) : (k.enter a src inside).launches = k.launches :=
  (congrArg Ctx.launches (fixedPart_enter k a src inside) :)

/-- What a thread's creation leaves. -/
theorem spawn_keeps (k : Ctx) (n : Launch) (leads : List (Addr × Nat)) (idx : List Nat) :
    (k.spawn n leads idx).num = k.num ∧ (k.spawn n leads idx).launches = k.launches := by
  unfold Ctx.spawn
  split
  · exact ⟨rfl, rfl⟩
  · exact ⟨foldl_keeps Ctx.num (fun _ _ => num_enter ..) leads _,
      foldl_keeps Ctx.launches (fun _ _ => launches_enter ..) leads _⟩

/-- Every thread of a launch, created in turn. -/
def State.spawnAll (s : State) (n : Launch) (idxs : List (List Nat)) (k : Ctx) : Ctx :=
  idxs.foldl (fun k idx => k.spawn n (s.entryLeads k n.lrec) idx) k

theorem spawnAll_keeps (s : State) (n : Launch) (idxs : List (List Nat)) (k : Ctx) :
    (s.spawnAll n idxs k).num = k.num ∧ (s.spawnAll n idxs k).launches = k.launches :=
  ⟨foldl_keeps Ctx.num (fun _ _ => (spawn_keeps ..).1) idxs k, foldl_keeps Ctx.launches (fun _ _ => (spawn_keeps ..).2) idxs k⟩

theorem spawnAll_origins (s : State) (n : Launch) {idxs : List (List Nat)} {k : Ctx} (h : k.threads.length + idxs.length ≤ 65536) :
    (s.spawnAll n idxs k).origins = k.origins ++ idxs.map fun idx => (n.num, idx, n.lrec.placeOf idx) := by
  induction idxs generalizing k with
  | nil => exact (List.append_nil _).symm
  | cons idx idxs ih =>
    rw [List.length_cons] at h
    have hone := spawn_origins n (s.entryLeads k n.lrec) idx (k := k) (by omega)
    have hlen : (k.spawn n (s.entryLeads k n.lrec) idx).threads.length = k.threads.length + 1 := by
      simpa [Ctx.origins] using congrArg List.length hone
    have hrest : s.spawnAll n (idx :: idxs) k = s.spawnAll n idxs (k.spawn n (s.entryLeads k n.lrec) idx) := List.foldl_cons ..
    rw [hrest, ih (by omega), hone, List.append_assoc, List.map_cons, List.singleton_append]

theorem exec_threadCreation_creates {c : CtxId} {ln : BitVec 32} {s : State} {k : Ctx} {n : Launch} (hk : s.active c = some k)
    (hn : k.ln ln = some n) (hs : n.stage = 2) (ha : n.abort = none)
    (hg : ∀ l, l < n.lrec.lclust.toNat → k.gateShut l = false) (hp : k.placedAll n = true) :
    exec (.threadCreation c ln) s = .next (s.setCtx ((s.spawnAll n (indexVectors n.lrec.fans) k).modLn ln fun x =>
      { x with stage := 3, barriers := newBarriers n.lrec.fans })) := by
  show execThreadCreation c ln s = _
  simp [execThreadCreation, hk, hn, hs, ha, gates_open hg, hp, State.spawnAll]

theorem answers_threadCreation_creates {c : CtxId} {ln : BitVec 32} {s : State} {k : Ctx} {n : Launch} (hk : s.active c = some k)
    (hn : k.ln ln = some n) (hs : n.stage = 2) (ha : n.abort = none)
    (hg : ∀ l, l < n.lrec.lclust.toNat → k.gateShut l = false) (hp : k.placedAll n = true)
    (hroom : k.threads.length + (indexVectors n.lrec.fans).length ≤ 65536) :
    answers (.threadCreation c ln) s fun t => inCtx t c fun j => (∃ m, j.ln ln = some m ∧ m.stage = 3
        ∧ m.barriers = newBarriers n.lrec.fans)
      ∧ ∀ idx ∈ indexVectors n.lrec.fans, ∃ x ∈ j.threads, x.ln = ln ∧ x.idx = idx ∧ x.lcl = n.lrec.placeOf idx := by
  obtain rfl := ln_num hn
  obtain ⟨hnum, hlaunches⟩ := spawnAll_keeps s n (indexVectors n.lrec.fans) k
  refine answers_of_exec (exec_threadCreation_creates hk hn hs ha hg hp) (inCtx_setCtx hk hnum
    ⟨⟨_, ln_modLn_found _ ((congrArg (List.find? _) hlaunches).trans hn) fun _ => rfl, rfl, rfl⟩, fun idx hi => ?_⟩)
  have hmem : (n.num, idx, n.lrec.placeOf idx) ∈ (s.spawnAll n (indexVectors n.lrec.fans) k).origins := by
    rw [spawnAll_origins s n hroom]
    exact List.mem_append_right _ (List.mem_map_of_mem hi)
  obtain ⟨x, hx, horigin⟩ := List.mem_map.1 hmem
  simp only [Thread.origin, Prod.mk.injEq] at horigin
  exact ⟨x, hx, horigin⟩

/-! ### A launch completes, or ends by its abort (05 R135, R138) -/

/-- The fall of a context's mode bits changes its shares alone. -/
theorem modesFall_keeps {β : Type} {p : Ctx → β} (hs : ∀ k h, p (Ctx.setShare k h) = p k) (k : Ctx) : p k.modesFall = p k := by
  refine foldl_keeps p (fun k q => ?_) _ k
  unfold Ctx.modeFall
  dsimp only
  split
  · exact hs ..
  · rfl

/-- A launch that is forgotten is gone from its context, whose other launches and events stand. -/
theorem forget_fields (k : Ctx) (ln : BitVec 32) : (k.forget ln).num = k.num ∧ (k.forget ln).events = k.events
    ∧ (k.forget ln).launches = k.launches.filter fun x => x.num != ln :=
  ⟨modesFall_keeps (p := Ctx.num) (fun _ _ => rfl) _, modesFall_keeps (p := Ctx.events) (fun _ _ => rfl) _,
    modesFall_keeps (p := Ctx.launches) (fun _ _ => rfl) _⟩

/-- A launch that is reported and forgotten leaves its event. -/
theorem reported_and_forgotten {s : State} {c : CtxId} {k : Ctx} (hk : s.ctx c = some k) (r : LaunchRec) (fromHost : Bool)
    (status cause detail : Nat) (ln : BitVec 32) :
    inCtx ((s.report c r fromHost status cause detail ln).modCtx c fun k => k.forget ln) c fun j =>
      j.launches = (k.launches.filter fun x => x.num != ln) ∧ reportEvent r fromHost status cause detail ln ∈ j.events := by
  obtain ⟨i, hi, hctx⟩ := report_ctx hk r fromHost status cause detail ln
  have hlaunches : i.launches = k.launches := (congrArg Ctx.launches hi :)
  obtain ⟨hnum, hevents, hgone⟩ := forget_fields
    { i with events := i.events ++ [reportEvent r fromHost status cause detail ln] } ln
  exact inCtx_modCtx hctx hnum ⟨hgone.trans (by rw [← hlaunches]), hevents ▸ mem_posted i _⟩

theorem exec_launchCompletion {c : CtxId} {ln : BitVec 32} {s : State} {k : Ctx} {n : Launch} (hk : s.ctx c = some k)
    (hn : k.ln ln = some n) (hdone : s.complete k n = true) (hw : s.doneWaits k n.lrec = false) :
    exec (.launchCompletion c ln) s = .next ((s.report c n.lrec n.fromHost 1 0 0 ln).modCtx c fun k => k.forget ln) := by
  show execLaunchCompletion c ln s = _
  simp [execLaunchCompletion, hk, hn, hdone, hw]

theorem answers_launchCompletion {c : CtxId} {ln : BitVec 32} {s : State} {k : Ctx} {n : Launch} (hk : s.ctx c = some k)
    (hn : k.ln ln = some n) (hdone : s.complete k n = true) (hw : s.doneWaits k n.lrec = false) :
    answers (.launchCompletion c ln) s fun t => inCtx t c fun j => (∀ m ∈ j.launches, m.num ≠ ln)
      ∧ ∃ e ∈ j.events, e.kind = 1 ∧ e.launch = ln := by
  obtain ⟨j, hj, hgone, hevent⟩ := reported_and_forgotten hk n.lrec n.fromHost 1 0 0 ln
  refine answers_of_exec (exec_launchCompletion hk hn hdone hw) ⟨j, hj, fun m hm => ?_, _, hevent, rfl, rfl⟩
  rw [hgone] at hm
  simpa using (List.mem_filter.1 hm).2

section
variable {c : CtxId} {ln : BitVec 32} {s : State} {k : Ctx} {n : Launch} {cause : BitVec 8} {detail : BitVec 16}
  (hk : s.ctx c = some k) (hn : k.ln ln = some n) (ha : n.abort = some (cause, detail)) (hl : k.launches = [n])
  (hch : k.children ln = []) (ht : ∀ x ∈ k.threads, x.ln ≠ ln) (hc : k.committed = []) (hb : k.binds = [])
  (hq : ∀ q ∈ s.launchq, q.ctx ≠ c) (hw : s.doneWaits k n.lrec = false)
include hk hn ha hl hch ht hc hb hq hw

/-- An aborted launch of which nothing is left, alone in its context. -/
theorem exec_launchAbort_ends : exec (.launchAbort c ln) s
    = .next ((s.report c n.lrec n.fromHost 2 cause.toNat detail.toNat ln).modCtx c fun k => k.forget ln) := by
  have hfam : k.family ln k.launches.length = [ln] := by simp [hl, Ctx.family, hch]
  have hlive : (k.threads.any fun x => [ln].contains x.ln) = false := List.any_eq_false.2 fun x hx => by simpa using ht x hx
  have hqueued : s.launchq.any (isQueuedChild c ln) = false :=
    List.any_eq_false.2 fun q h => by simp [isQueuedChild, hq q h]
  show execLaunchAbort c ln s = _
  unfold execLaunchAbort
  simp only [hk, hn, ha, Option.bind_some, Option.map_some, hfam, hlive, hc, hb, hch, hw, List.any_cons, List.any_nil, hqueued]
  rfl

theorem answers_launchAbort : answers (.launchAbort c ln) s fun t => inCtx t c fun j => j.launches = []
      ∧ ∃ e ∈ j.events, e.kind = 2 ∧ e.cause = cause ∧ e.detail = detail ∧ e.launch = ln := by
  obtain ⟨j, hj, hgone, hevent⟩ := reported_and_forgotten hk n.lrec n.fromHost 2 cause.toNat detail.toNat ln
  refine answers_of_exec (exec_launchAbort_ends hk hn ha hl hch ht hc hb hq hw)
    ⟨j, hj, hgone.trans ?_, _, hevent, rfl, BitVec.ofNat_toNat .., BitVec.ofNat_toNat .., rfl⟩
  simp [hl, ln_num hn]

end

end Sys2Proof.Machine
end

section
/-! PROOFS. A level barrier lets its threads go (05 R206), and `Obligations.LaunchSteps`. -/

namespace Sys2Proof.Machine

/-! ### The barriers of a launch (05 R206) -/

/-- The barrier at a level of a launch, by its number there. -/
def Ctx.barrierAt (k : Ctx) (ln : BitVec 32) (level inst : Nat) : Option Barrier :=
  (k.ln ln).bind fun n => n.barriers.find? (isBarrier level inst)

theorem barrierAt_of_launches {j k : Ctx} (h : j.launches = k.launches) : j.barrierAt = k.barrierAt := by
  funext ln level inst
  rw [Ctx.barrierAt, Ctx.ln, h]
  rfl

theorem ln_modLn_other (k : Ctx) {m ln : BitVec 32} {f : Launch → Launch} (hf : ∀ n, (f n).num = n.num) (h : m ≠ ln) :
    (k.modLn m f).ln ln = k.ln ln := by
  refine find_updFirst_other _ _ _ (fun n hn => ?_) _
  simp only [beq_iff_eq, beq_eq_false_iff_ne, ne_eq, hf] at *
  rw [hn]; exact ⟨h, h⟩

theorem isBarrier_iff {l i : Nat} {b : Barrier} : isBarrier l i b = true ↔ b.level = l ∧ b.inst = i := by simp [isBarrier]

theorem find_modBar {n : Launch} {l i level inst : Nat} {f : Barrier → Barrier}
    (hf : ∀ b, (f b).level = b.level ∧ (f b).inst = b.inst) :
    (n.modBar l i f).barriers.find? (isBarrier level inst)
      = (n.barriers.find? (isBarrier level inst)).map fun b => if l = level ∧ i = inst then f b else b := by
  have same (b : Barrier) (l i : Nat) : isBarrier l i (f b) = isBarrier l i b := by simp [isBarrier, hf]
  by_cases h : l = level ∧ i = inst
  · obtain ⟨rfl, rfl⟩ := h
    simp only [and_self, if_true]
    exact find_updFirst _ f (fun b hb => (same b l i).trans hb) n.barriers
  · simp only [h, if_false, Option.map_id']
    refine find_updFirst_other _ _ _ (fun b hb => ?_) _
    obtain ⟨rfl, rfl⟩ := isBarrier_iff.1 hb
    rw [same, and_self, ← Bool.not_eq_true, isBarrier_iff]
    exact h

theorem barrierAt_modBar (k : Ctx) (m ln : BitVec 32) (l i level inst : Nat) {f : Barrier → Barrier}
    (hf : ∀ b, (f b).level = b.level ∧ (f b).inst = b.inst) :
    (k.modLn m fun n => n.modBar l i f).barrierAt ln level inst
      = (k.barrierAt ln level inst).map fun b => if m = ln ∧ l = level ∧ i = inst then f b else b := by
  unfold Ctx.barrierAt
  by_cases h : m = ln
  · subst h
    rw [ln_modLn (f := fun n => n.modBar l i f) fun _ => rfl]
    cases k.ln m with
    | none => rfl
    | some n => simp only [Option.map_some, Option.bind_some, true_and]; exact find_modBar hf
  · rw [ln_modLn_other (f := fun n => n.modBar l i f) k (fun _ => rfl) h]
    simp [h]

/-- An arrival is counted at its own barrier. -/
theorem barrierAt_arrive (k : Ctx) (e : Committed) (ln : BitVec 32) (level inst : Nat) :
    (k.arrive e).barrierAt ln level inst = (k.barrierAt ln level inst).map fun b =>
      if e.ln = ln ∧ e.barrier = some (level, inst) then { b with arrived := b.arrived + 1 } else b := by
  unfold Ctx.arrive
  cases e.barrier with
  | none => simp
  | some q =>
    dsimp only
    rw [barrierAt_modBar (f := fun b => { b with arrived := b.arrived + 1 }) k e.ln ln q.1 q.2 level inst fun _ => ⟨rfl, rfl⟩]
    simp only [Option.some.injEq, Prod.ext_iff]

theorem arrive_fixed (k : Ctx) (e : Committed) : (k.arrive e).committed = k.committed ∧ (k.arrive e).num = k.num := by
  unfold Ctx.arrive
  split <;> exact ⟨rfl, rfl⟩

/-! ### One thread leaves a barrier -/

/-- A context that a waiting thread has left: its next LBAR there, where it has committed one, has arrived in the new phase. -/
def Ctx.left (k : Ctx) (e : Committed) : Ctx :=
  let k1 := { k with committed := dropFirst (· == e) k.committed }
  match k1.committed.find? fun q => q.thread == e.thread && q.born == e.born && q.barrier == e.barrier with
  | some q => k1.arrive q
  | none => k1

theorem left_committed (k : Ctx) (e : Committed) :
    (k.left e).committed = dropFirst (· == e) k.committed ∧ (k.left e).num = k.num := by
  unfold Ctx.left
  dsimp only
  split
  · exact arrive_fixed ..
  · exact ⟨rfl, rfl⟩

/-- The leaving thread's barriers stand, but that an LBAR of it left among the committed ones is counted. -/
theorem left_barrierAt (k : Ctx) (e : Committed) (ln : BitVec 32) (level inst : Nat) :
    (k.left e).barrierAt ln level inst = k.barrierAt ln level inst
      ∨ ∃ q ∈ dropFirst (· == e) k.committed, q.thread = e.thread ∧ q.born = e.born ∧ q.barrier = e.barrier
        ∧ (k.left e).barrierAt ln level inst = (k.barrierAt ln level inst).map fun b =>
            if q.ln = ln ∧ q.barrier = some (level, inst) then { b with arrived := b.arrived + 1 } else b := by
  have hsame : ({ k with committed := dropFirst (· == e) k.committed } : Ctx).barrierAt = k.barrierAt := barrierAt_of_launches rfl
  unfold Ctx.left
  dsimp only
  split
  · next q hq =>
    have hmatch := List.find?_some hq
    simp only [Bool.and_eq_true, beq_iff_eq, and_assoc] at hmatch
    obtain ⟨ht, hborn, hbar⟩ := hmatch
    exact .inr ⟨q, List.mem_of_find?_eq_some hq, ht, hborn, hbar, by rw [barrierAt_arrive, hsame]⟩
  · exact .inl (by rw [hsame])

theorem leaveBarrier_ctx {s : State} {c : CtxId} {k : Ctx} {e : Committed} {o : MemOp} (hk : s.ctx c = some k)
    (hi : e.item = .mem o) (scp : BitVec 2) (phase : Value) :
    inCtx (s.leaveBarrier c scp phase e) c fun j => j.fixedPart = (k.left e).fixedPart := by
  have hfixed := fixedPart_emitLate (k.left e) e o.blk o.seen o.rt phase phase
  have hnum : ((k.left e).emitLate e o.blk o.seen o.rt phase phase).num = c :=
    ((congrArg Ctx.num hfixed :)).trans ((left_committed k e).2.trans (ctx_num hk))
  unfold State.leaveBarrier
  simp only [hk, hi]
  exact ⟨_, ctx_setCtx (s := s) hk hnum, hfixed⟩

/-! ### Every waiting thread leaves it -/

/-- No LBAR of a barrier is still to be performed, and no thread has two that wait. -/
def calmAt (ln : BitVec 32) (level inst : Nat) (cs : List Committed) : Prop :=
  (∀ e ∈ cs, lbarOf ln level inst false e = false)
    ∧ (cs.filter (lbarOf ln level inst true)).Pairwise fun d e => d.thread ≠ e.thread ∨ d.born ≠ e.born

theorem calmAt_sublist {ln : BitVec 32} {level inst : Nat} {ds cs : List Committed} (h : calmAt ln level inst cs)
    (hs : ds.Sublist cs) : calmAt ln level inst ds := ⟨fun e he => h.1 e (hs.subset he), h.2.sublist (hs.filter _)⟩

theorem dropFirst_sublist {α : Type} (p : α → Bool) (l : List α) : (dropFirst p l).Sublist l := by
  induction l with
  | nil => exact .slnil
  | cons x l ih =>
    unfold dropFirst
    split
    · exact l.sublist_cons_self x
    · exact ih.cons_cons x

/-- The first element that passes a test is dropped from those that do. -/
theorem filter_dropFirst {α : Type} [DecidableEq α] {p : α → Bool} {l rest : List α} {e : α} (h : l.filter p = e :: rest) :
    (dropFirst (· == e) l).filter p = rest := by
  induction l with
  | nil => cases h
  | cons x l ih =>
    unfold dropFirst
    cases hx : p x with
    | true =>
      rw [List.filter_cons_of_pos hx, List.cons.injEq] at h
      obtain ⟨rfl, hrest⟩ := h
      simpa using hrest
    | false =>
      rw [List.filter_cons_of_neg (by simp [hx])] at h
      have he : p e = true := (List.mem_filter.1 (h ▸ List.mem_cons_self : e ∈ l.filter p)).2
      have hne : (x == e) = false := beq_eq_false_iff_ne.2 fun hxe => by simp [← hxe, hx] at he
      simp only [hne, Bool.false_eq_true, if_false]
      rw [List.filter_cons_of_neg (by simp [hx]), ih h]

/-- A context whose barrier has turned, and whose waiting threads have still to leave it: nobody has arrived since, when all was
calm. -/
structure Ctx.Leaving (j : Ctx) (ln : BitVec 32) (level inst : Nat) (phase : Bool) (calm : Prop) (gone : List Committed) : Prop where
  waiting : j.committed.filter (lbarOf ln level inst true) = gone
  still : calm → calmAt ln level inst j.committed
  turned : ∃ b, j.barrierAt ln level inst = some b ∧ b.phase = phase ∧ (calm → b.arrived = 0)

section
variable {ln : BitVec 32} {level inst : Nat} {phase : Bool} {calm : Prop}

theorem leaving_congr {i j : Ctx} {gone : List Committed} (h : i.fixedPart = j.fixedPart)
    (hj : j.Leaving ln level inst phase calm gone) : i.Leaving ln level inst phase calm gone := by
  have hcommitted : i.committed = j.committed := (congrArg Ctx.committed h :)
  have hbarriers : i.barrierAt = j.barrierAt := barrierAt_of_launches (congrArg Ctx.launches h :)
  exact ⟨hcommitted ▸ hj.waiting, hcommitted ▸ hj.still, hbarriers ▸ hj.turned⟩

theorem lbarOf_iff {w : Bool} {e : Committed} :
    lbarOf ln level inst w e = true ↔ e.waiting = w ∧ e.ln = ln ∧ e.barrier = some (level, inst) := by
  simp [lbarOf, and_assoc]

theorem leaving_left {j : Ctx} {e : Committed} {rest : List Committed} (hj : j.Leaving ln level inst phase calm (e :: rest)) :
    (j.left e).Leaving ln level inst phase calm rest := by
  have hdrop := filter_dropFirst hj.waiting
  obtain ⟨b, hb, hphase, harrived⟩ := hj.turned
  have hcommitted := (left_committed j e).1
  refine ⟨hcommitted ▸ hdrop, fun hc => hcommitted ▸ calmAt_sublist (hj.still hc) (dropFirst_sublist ..), ?_⟩
  obtain hsame | ⟨q, hq, ht, hborn, -, hcount⟩ := left_barrierAt j e ln level inst
  · exact ⟨b, hsame.trans hb, hphase, harrived⟩
  · rw [hb, Option.map_some] at hcount
    refine ⟨_, hcount, ?_, fun hc => ?_⟩
    · split <;> exact hphase
    · split
      · next hmine =>
        obtain ⟨hnone, hapart⟩ := hj.still hc
        rw [hj.waiting] at hapart
        cases hw : q.waiting with
        | false => exact absurd (lbarOf_iff.2 ⟨hw, hmine⟩) (by simp [hnone q ((dropFirst_sublist ..).subset hq)])
        | true =>
          have hrest : q ∈ rest := hdrop ▸ List.mem_filter.2 ⟨hq, lbarOf_iff.2 ⟨hw, hmine⟩⟩
          have hdiffer := (List.pairwise_cons.1 hapart).1 q hrest
          simp [ht, hborn] at hdiffer
      · exact harrived hc

/-- What stands at a barrier is an operation on memories. -/
theorem item_of_lbarOf {w : Bool} {e : Committed} (h : lbarOf ln level inst w e = true) : ∃ o, e.item = .mem o := by
  obtain ⟨-, -, hb⟩ := lbarOf_iff.1 h
  unfold Committed.barrier at hb
  split at hb
  · next o ho => exact ⟨o, ho⟩
  · cases hb

theorem leaving_all {c : CtxId} (scp : BitVec 2) (value : Value) {gone : List Committed} {s : State}
    (h : inCtx s c fun j => j.Leaving ln level inst phase calm gone) :
    inCtx (gone.foldl (fun s e => s.leaveBarrier c scp value e) s) c fun j => j.Leaving ln level inst phase calm [] := by
  induction gone generalizing s with
  | nil => exact h
  | cons e rest ih =>
    obtain ⟨j, hj, hl⟩ := h
    have he : e ∈ j.committed.filter (lbarOf ln level inst true) := hl.waiting ▸ List.mem_cons_self
    obtain ⟨o, ho⟩ := item_of_lbarOf (List.mem_filter.1 he).2
    obtain ⟨i, hi, hfixed⟩ := leaveBarrier_ctx hj ho scp value
    exact ih ⟨i, hi, leaving_congr hfixed (leaving_left hl)⟩

end

/-! ### The release -/

/-- A barrier in its next phase, at which nobody has arrived. -/
def Barrier.next (b : Barrier) : Barrier := { b with arrived := 0, phase := !b.phase }

/-- A context one of whose barriers turns. -/
def Ctx.turnBarrier (k : Ctx) (ln : BitVec 32) (level inst : Nat) : Ctx := k.modLn ln fun n => n.modBar level inst Barrier.next

theorem exec_barrierRelease {c : CtxId} {ln : BitVec 32} {level inst : Nat} {s : State} {k : Ctx} {b : Barrier}
    (hk : s.ctx c = some k) (hb : k.barrierAt ln level inst = some b) (ha : b.arrived ≠ 0)
    (hm : b.members.toNat ≤ b.arrived.toNat + b.ended.toNat)
    (hl : ∀ e ∈ k.committed, lbarOf ln level inst false e = true → laterPhase k.committed e = true) :
    ∃ scp, exec (.barrierRelease c ln level inst) s
      = .next ((k.committed.filter (lbarOf ln level inst true)).foldl
          (fun s e => s.leaveBarrier c scp (if b.phase then 0 else 1) e) (s.setCtx (k.turnBarrier ln level inst))) := by
  have hdone : (k.committed.any fun e => lbarOf ln level inst false e && !laterPhase k.committed e) = false :=
    List.any_eq_false.2 fun e he => by
      cases hw : lbarOf ln level inst false e with
      | false => simp
      | true => simp [hl e he hw]
  refine ⟨((k.ln ln).map fun n => lvScope ((n.lrec.levels[level]?).getD 0)).getD 0, ?_⟩
  unfold Ctx.barrierAt at hb
  show execBarrierRelease c ln level inst s = _
  unfold execBarrierRelease
  simp only [hk, hb, ha, hdone, Nat.not_lt.2 hm, decide_false, Bool.or_self, Bool.false_eq_true, if_false]
  rfl

theorem answers_barrierRelease {c : CtxId} {ln : BitVec 32} {level inst : Nat} {s : State} {k : Ctx} {n : Launch} {b : Barrier}
    (hk : s.ctx c = some k) (hn : k.ln ln = some n) (hb : n.barriers.find? (isBarrier level inst) = some b) (ha : b.arrived ≠ 0)
    (hm : b.members.toNat ≤ b.arrived.toNat + b.ended.toNat)
    (hl : ∀ e ∈ k.committed, lbarOf ln level inst false e = true → laterPhase k.committed e = true) :
    answers (.barrierRelease c ln level inst) s fun t => inCtx t c fun j => (∃ m a, j.ln ln = some m
        ∧ m.barriers.find? (isBarrier level inst) = some a ∧ a.phase = !b.phase
        ∧ ((∀ e ∈ k.committed, lbarOf ln level inst false e = false) →
            (k.committed.filter (lbarOf ln level inst true)).Pairwise (fun d e => d.thread ≠ e.thread ∨ d.born ≠ e.born) →
            a.arrived = 0))
      ∧ ∀ e ∈ j.committed, lbarOf ln level inst true e = false := by
  have hat : k.barrierAt ln level inst = some b := by rw [Ctx.barrierAt, hn, Option.bind_some, hb]
  obtain ⟨scp, hexec⟩ := exec_barrierRelease hk hat ha hm hl
  have hturned : (k.turnBarrier ln level inst).Leaving ln level inst (!b.phase) (calmAt ln level inst k.committed)
      (k.committed.filter (lbarOf ln level inst true)) := by
    refine ⟨rfl, id, b.next, ?_, rfl, fun _ => rfl⟩
    rw [Ctx.turnBarrier, barrierAt_modBar (f := Barrier.next) k ln ln level inst level inst fun _ => ⟨rfl, rfl⟩, hat]
    simp
  obtain ⟨j, hj, hleft⟩ := leaving_all scp (if b.phase then 0 else 1)
    ⟨_, ctx_setCtx (j := k.turnBarrier ln level inst) hk (ctx_num hk :), hturned⟩
  obtain ⟨a, hfound, hphase, hzero⟩ := hleft.turned
  obtain ⟨m, hm, hma⟩ := Option.bind_eq_some_iff.1 hfound
  refine answers_of_exec hexec ⟨j, hj, ⟨m, a, hm, hma, hphase, fun hnone hapart => hzero ⟨hnone, hapart⟩⟩, fun e he => ?_⟩
  simpa using List.filter_eq_nil_iff.1 hleft.waiting e he

/-! ### The statement -/

/-- Settles O53: each step of a launch by its own law above, from its admission to its report, and the release of its barriers by
induction on the threads that wait there. -/
theorem launchSteps : Obligations.LaunchSteps :=
  ⟨fun _ _ _ _ _ hq hk himg hdone hbad hgen hread => answers_launchAdmitted hq hk himg hdone hbad hgen hread,
   fun _ _ _ _ _ hq hk himg hdone hbad => answers_launchRefused hq hk himg hdone hbad,
   fun _ _ _ _ _ hk hn hs ha hg => answers_threadCreation_asks hk hn hs ha hg,
   fun _ _ _ _ _ hk hn hs ha hg hp hroom => answers_threadCreation_creates hk hn hs ha hg hp hroom,
   fun _ _ _ _ _ hk hn hdone hw => answers_launchCompletion hk hn hdone hw,
   fun _ _ _ _ _ _ _ hk hn ha hl hch ht hc hb hq hw => answers_launchAbort hk hn ha hl hch ht hc hb hq hw,
   fun _ _ _ _ _ _ _ _ hk hn hb ha hm hl => answers_barrierRelease hk hn hb ha hm hl⟩

end Sys2Proof.Machine
end

section
/-! PROOFS. Units withdrawn for a test lease, and the lease's tests, verdict and return (05 R142, 06 R192, R193, 07 R203, R204). -/

namespace Sys2Proof.Machine

/-! ### What a withdrawal leaves (06 R193) -/

theorem beginOut_outside (s : State) (u : RetUnit) (cause : BitVec 8) : (s.beginOut u cause).outside = s.outside := by
  unfold State.beginOut
  split <;> rfl

theorem beginOut_hbm (s : State) (u : RetUnit) (cause : BitVec 8) : (s.beginOut u cause).mem.hbm = s.mem.hbm := by
  unfold State.beginOut
  split <;> rfl

theorem copied_outside (s : State) (u : RetUnit) : (s.copied u).outside = s.outside := by
  unfold State.copied
  split <;> rfl

theorem copied_hbm (s : State) (u : RetUnit) : (s.copied u).mem.hbm = s.mem.hbm := by
  unfold State.copied
  split <;> rfl

theorem chargeHouse_outside (s : State) (u : RetUnit) (event : Nat) : (s.chargeHouse u event).outside = s.outside :=
  modCtx_outside ..

theorem chargeHouse_mem (s : State) (u : RetUnit) (event : Nat) : (s.chargeHouse u event).mem = s.mem := modCtx_mem ..

/-! ### Leases and scores -/

theorem lease_setLease (s : State) (die i : Nat) (e : Lease) : (s.setLease die i e).lease die i = e := tgetD_tset_same ..

/-- A lease stands through what changes neither the machine's own fields nor its leases. -/
theorem lease_of_outside {t s : State} (h : t.outside = s.outside) (die i : Nat) : t.lease die i = s.lease die i :=
  (congrArg (fun u : State => u.lease die i) h :)

theorem scoreOf_of_outside {t s : State} (h : t.outside = s.outside) (u : RetUnit) : t.scoreOf u = s.scoreOf u :=
  (congrArg (fun v : State => v.scoreOf u) h :)

/-- A test that nothing failed lowers a score by 8, down to 0 (07 R203). -/
theorem add_passed {r : Score} (hr : r.retired = false) (hd : r.doomed = false) (hs : r.score.toNat < 4096) :
    (r.add (-8)).doomed = false ∧ (r.add (-8)).score.toNat = r.score.toNat - 8 := by
  have hn : Nat.min 65535 ((r.score.toNat : Int) + -8).toNat = r.score.toNat - 8 := by
    show min 65535 _ = _
    omega
  unfold Score.add
  simp only [hr, hd, hn, Bool.false_eq_true, if_false, Bool.false_or, decide_eq_false_iff_not, BitVec.toNat_ofNat]
  omega

/-! ### A lease starts (06 R193) -/

/-- The entry of a lease of a unit that starts now. -/
def State.newLease (s : State) (u : RetUnit) : Lease :=
  { seqStart := s.evseq, state := 1, kind := u.kind.extractLsb' 0 2, unit := u.unit.extractLsb' 0 12
    score := (s.scoreOf u).score, kernels := 0, failed := 0 }

theorem exec_leaseStart {die i : Nat} {u : RetUnit} {s : State} (hd : die < 4) (hen : (s.leasing die).en = true)
    (hh : (s.leasing die).hold = false) (hl : (s.leasesOf die).length < (s.leasing die).limit) (hc : s.leaseChoice die u = true)
    (hi : ((List.range 8).find? fun i => (s.lease die i).state = 0) = some i) :
    ∃ ls, exec (.leaseStart die u) s = .next ((({ s.houseEvent.setLease die i (s.houseEvent.newLease u) with
      lastLease := ls } : State).chargeHouse u 7).beginOut u 1) := by
  refine ⟨(s.houseEvent.lastLease.filter (·.1 != u)) ++ [(u, s.tick + 1)], ?_⟩
  show execLeaseStart die u s = _
  simp only [execLeaseStart, hen, hh, hc, hi, Nat.not_le.2 hd, Nat.not_le.2 hl, decide_false, Bool.or_self, Bool.not_true,
    Bool.false_eq_true, if_false]
  rfl

theorem answers_leaseStart {die i : Nat} {u : RetUnit} {s : State} (hd : die < 4) (hen : (s.leasing die).en = true)
    (hh : (s.leasing die).hold = false) (hl : (s.leasesOf die).length < (s.leasing die).limit) (hc : s.leaseChoice die u = true)
    (hi : ((List.range 8).find? fun i => (s.lease die i).state = 0) = some i) :
    answers (.leaseStart die u) s fun t => (t.lease die i).state = 1 ∧ (t.lease die i).unit = u.unit.extractLsb' 0 12
      ∧ t.evseq = s.evseq + 1 ∧ t.mem.hbm = s.mem.hbm := by
  obtain ⟨ls, hexec⟩ := exec_leaseStart hd hen hh hl hc hi
  have hout := (beginOut_outside _ u 1).trans (chargeHouse_outside ({ s.houseEvent.setLease die i (s.houseEvent.newLease u) with
    lastLease := ls }) u 7)
  have hlease := (lease_of_outside hout die i).trans (lease_setLease s.houseEvent die i (s.houseEvent.newLease u))
  exact answers_of_exec hexec ⟨by rw [hlease]; rfl, by rw [hlease]; rfl, (congrArg State.evseq hout :),
    (beginOut_hbm ..).trans (congrArg Mems.hbm (chargeHouse_mem ..))⟩

/-! ### A lease's tests (05 R142, 06 R193) -/

section
variable {die e : Nat} {failed : Bool} {s : State}

theorem exec_leaseTesting_awaits (hs : (s.lease die e).state = 1) : exec (.leaseTesting die e failed) s
    = .next (if s.emptied (s.lease die e).retUnit
        then (s.copied (s.lease die e).retUnit).setLease die e { s.lease die e with state := 2 }
        else s.beginOut (s.lease die e).retUnit 1) := by
  show execLeaseTesting die e failed s = _
  simp only [execLeaseTesting, hs, if_true]

theorem answers_leaseTesting_awaits (hs : (s.lease die e).state = 1) :
    answers (.leaseTesting die e failed) s fun t => t.mem.hbm = s.mem.hbm ∧ t.lease die e
      = if s.emptied (s.lease die e).retUnit then { s.lease die e with state := 2 } else s.lease die e := by
  refine answers_of_exec (exec_leaseTesting_awaits hs) ?_
  split
  · exact ⟨copied_hbm .., lease_setLease ..⟩
  · exact ⟨beginOut_hbm .., lease_of_outside (beginOut_outside ..) ..⟩

/-- A domain is given to context 0 where it is free. -/
def houseTake (o : Tab CtxId) (d : Nat) : Tab CtxId := if (tget o d).isNone then tset o d 0 else o

theorem houseTake_isSome {o : Tab CtxId} {d m : Nat} (h : (tget o m).isSome = true ∨ m = d) :
    (tget (houseTake o d) m).isSome = true := by
  unfold houseTake
  split
  · rw [tget_tset]
    split
    · rfl
    · next hne => exact h.resolve_right hne
  · next hnone =>
    rcases h with h | rfl
    · exact h
    · simpa [Option.isSome_iff_ne_none] using hnone

theorem houseTakes_isSome {ds : List Nat} {o : Tab CtxId} {m : Nat} (h : (tget o m).isSome = true ∨ m ∈ ds) :
    (tget (ds.foldl houseTake o) m).isSome = true := by
  induction ds generalizing o with
  | nil => exact h.resolve_right List.not_mem_nil
  | cons d ds ih =>
    rcases h with ho | hm
    · exact ih (.inl (houseTake_isSome (.inl ho)))
    · exact ih ((List.mem_cons.1 hm).imp_left fun hd => houseTake_isSome (.inr hd))

/-- One more test kernel of a lease has run. -/
def Lease.tested (e : Lease) (failed : Bool) : Lease :=
  { e with kernels := e.kernels + 1, failed := if failed then e.failed + 1 else e.failed }

/-- The state in which a test kernel of a lease has run, in domains that are given to context 0. -/
def State.testRun (s : State) (die e : Nat) (failed : Bool) : State :=
  ({ s with owners := (s.testRoom die (s.lease die e)).foldl houseTake s.owners } : State).setLease die e ((s.lease die e).tested failed)

section
variable (hs : (s.lease die e).state = 2) (hneed : s.tenantNeeds die (s.testDomains die (s.lease die e)) = false)
include hs hneed

theorem exec_leaseTesting_tests (hroom : s.testRoom die (s.lease die e) ≠ []) (hrun : s.houseRuns = true)
    (hfree : s.tenantNeeds die (s.testRoom die (s.lease die e)) = false) (hk : (s.lease die e).kernels ≠ 255) :
    exec (.leaseTesting die e failed) s
      = .next ((s.testRun die e failed).modCtx 0 fun k => k.charge (unitSite (s.lease die e).retUnit) 2 3) := by
  have hone : (s.lease die e).state ≠ 1 := by simp [hs]
  have hsome : (s.testRoom die (s.lease die e)).isEmpty = false := by simpa using hroom
  show execLeaseTesting die e failed s = _
  simp only [execLeaseTesting, if_neg hone, if_pos hs, hneed, hsome, hrun, hfree, decide_eq_false hk]
  rfl

theorem answers_leaseTesting_tests (hroom : s.testRoom die (s.lease die e) ≠ []) (hrun : s.houseRuns = true)
    (hfree : s.tenantNeeds die (s.testRoom die (s.lease die e)) = false) (hk : (s.lease die e).kernels ≠ 255) :
    answers (.leaseTesting die e failed) s fun t => t.mem = s.mem
      ∧ (∀ d ∈ s.testRoom die (s.lease die e), (tget t.owners d).isSome = true) ∧ t.lease die e
      = { s.lease die e with kernels := (s.lease die e).kernels + 1
                             failed := if failed then (s.lease die e).failed + 1 else (s.lease die e).failed } := by
  have hout := modCtx_outside (s.testRun die e failed) 0 fun k => k.charge (unitSite (s.lease die e).retUnit) 2 3
  have howners := (congrArg State.owners hout :)
  exact answers_of_exec (exec_leaseTesting_tests hs hneed hroom hrun hfree hk) ⟨modCtx_mem ..,
    fun d hd => howners ▸ houseTakes_isSome (.inr hd), (lease_of_outside hout die e).trans (lease_setLease ..)⟩

theorem exec_leaseTesting_idle (h : s.testRoom die (s.lease die e) = [] ∨ s.houseRuns = false) :
    exec (.leaseTesting die e failed) s = .next s := by
  show execLeaseTesting die e failed s = _
  rcases h with h | h <;> simp [execLeaseTesting, hs, hneed, h]

end

/-! ### Context 0 gives its domains up (05 R142) -/

/-- The machine without its contexts and the domains they hold. -/
def State.unowned (s : State) : State := { s with ctxs := [], owners := [] }

/-- One domain that context 0 gives up. -/
def State.houseLeaving (s : State) (d : Nat) : State :=
  match s.ctx 0 with
  | some k => s.takeDomain k d none
  | none => { s with owners := tdel s.owners d }

theorem houseLeaves_eq (s : State) (ds : List Nat) :
    s.houseLeaves ds = (ds.filter fun d => tget s.owners d == some 0).foldl State.houseLeaving s := rfl

theorem houseLeaves_unowned (s : State) (ds : List Nat) : (s.houseLeaves ds).unowned = s.unowned := by
  rw [houseLeaves_eq]
  refine foldl_keeps State.unowned (fun s d => ?_) _ s
  unfold State.houseLeaving
  split
  · unfold State.takeDomain
    dsimp only
    split <;> rfl
  · rfl

/-- Context 0, where it is there, has no block in some domains. -/
def State.houseClear (s : State) (ds : List Nat) : Prop := ∀ k, s.ctx 0 = some k → ∀ d ∈ ds, k.inDomain d = []

/-- A domain without blocks of context 0 is given up at once, and its other domains stay clear. -/
theorem houseLeaving_clear {s : State} {d : Nat} {ds : List Nat} (h : s.houseClear ds) (hd : d ∈ ds) :
    (s.houseLeaving d).owners = tdel s.owners d ∧ (s.houseLeaving d).houseClear ds := by
  cases hk : s.ctx 0 with
  | none =>
    have hleft : s.houseLeaving d = { s with owners := tdel s.owners d } := by
      unfold State.houseLeaving
      simp only [hk]
    rw [hleft]
    exact ⟨rfl, h⟩
  | some k =>
    have hleft : s.houseLeaving d = { s.setCtx (k.loseDomain d) with owners := tdel s.owners d } := by
      unfold State.houseLeaving
      simp only [hk, State.takeDomain, h k hk d hd, List.foldl_nil, List.isEmpty_nil]
      rfl
    rw [hleft]
    refine ⟨rfl, fun j hj m hm => ?_⟩
    obtain rfl := Option.some.inj ((ctx_setCtx (j := k.loseDomain d) hk (ctx_num hk :)).symm.trans hj)
    exact h k hk m hm

theorem houseLeaves_owners {s : State} {ds : List Nat} (h : s.houseClear ds) :
    ∀ d ∈ ds, tget (s.houseLeaves ds).owners d ≠ some 0 := by
  have hfold (l : List Nat) (hl : ∀ d ∈ l, d ∈ ds) (t : State) (ht : t.houseClear ds) (m : Nat) :
      tget (l.foldl State.houseLeaving t).owners m = if m ∈ l then none else tget t.owners m := by
    induction l generalizing t with
    | nil => simp
    | cons d l ih =>
      obtain ⟨howners, hclear⟩ := houseLeaving_clear ht (hl d List.mem_cons_self)
      rw [List.foldl_cons, ih (fun m hm => hl m (List.mem_cons_of_mem d hm)) _ hclear, howners, tget_tdel]
      by_cases hm : m = d <;> simp [hm]
  intro d hd
  rw [houseLeaves_eq, hfold _ (fun d hd => (List.mem_filter.1 hd).1) s h]
  split
  · simp
  · next hnot =>
    intro howner
    exact hnot (List.mem_filter.2 ⟨hd, by simp [howner]⟩)

theorem exec_leaseTesting_ends (hs : (s.lease die e).state = 2)
    (hneed : s.tenantNeeds die (s.testDomains die (s.lease die e)) = true) : exec (.leaseTesting die e failed) s
      = .next ((s.houseLeaves (s.testDomains die (s.lease die e))).setLease die e { s.lease die e with kernels := 0, failed := 0 }) := by
  show execLeaseTesting die e failed s = _
  simp [execLeaseTesting, State.endTest, hs, hneed]

theorem answers_leaseTesting_ends (hs : (s.lease die e).state = 2)
    (hneed : s.tenantNeeds die (s.testDomains die (s.lease die e)) = true)
    (hclear : s.houseClear (s.testDomains die (s.lease die e))) :
    answers (.leaseTesting die e failed) s fun t => t.lease die e = { s.lease die e with kernels := 0, failed := 0 }
      ∧ ∀ d ∈ s.testDomains die (s.lease die e), tget t.owners d ≠ some 0 :=
  answers_of_exec (exec_leaseTesting_ends hs hneed) ⟨lease_setLease .., houseLeaves_owners hclear⟩

end

/-! ### The verdict on a lease, and its return (06 R193, 07 R203, R204) -/

section
variable {die e : Nat} {s : State}

theorem exec_leaseVerdict_over (hs : (s.lease die e).state = 2) (hk : (s.lease die e).kernels ≠ 0) :
    ∃ ds, exec (.leaseVerdict die e) s = .next ((s.houseLeaves ds).setLease die e { s.lease die e with state := 3 }) := by
  refine ⟨(s.testDomains die (s.lease die e)).filter fun d =>
    (s.lease die e).kind = 0 || (s.ctx 0).all fun k => (k.inDomain d).isEmpty, ?_⟩
  have hany : ((s.lease die e).kernels != 0) = true := bne_iff_ne.2 hk
  show execLeaseVerdict die e s = _
  simp only [execLeaseVerdict, hs, hany]
  rfl

theorem answers_leaseVerdict_over (hs : (s.lease die e).state = 2) (hk : (s.lease die e).kernels ≠ 0) :
    answers (.leaseVerdict die e) s fun t => t.lease die e = { s.lease die e with state := 3 } ∧ t.mem = s.mem := by
  obtain ⟨ds, hexec⟩ := exec_leaseVerdict_over hs hk
  exact answers_of_exec hexec ⟨lease_setLease .., (congrArg State.mem (houseLeaves_unowned s ds) :)⟩

/-- A tested unit's score after tests that all passed, copied to flash. -/
def State.passed (s : State) (u : RetUnit) : State := (s.addScore u (-8)).houseEvent.flashScore u

theorem passed_scoreOf (s : State) (u : RetUnit) : (s.passed u).scoreOf u = (s.scoreOf u).add (-8) := scoreOf_addScore s u (-8)
theorem passed_mem (s : State) (u : RetUnit) : (s.passed u).mem = s.mem := addScore_mem s u (-8)

theorem exec_leaseVerdict_passes (hs : (s.lease die e).state = 3) (hf : (s.lease die e).failed = 0)
    (hd : ((s.passed (s.lease die e).retUnit).scoreOf (s.lease die e).retUnit).doomed = false) :
    exec (.leaseVerdict die e) s = .next (if (s.lease die e).kind = 2
      then ((s.passed (s.lease die e).retUnit).setLease die e { s.lease die e with state := 4 }).beginOut (s.lease die e).retUnit 1
      else (s.passed (s.lease die e).retUnit).setLease die e { s.lease die e with state := 4 }) := by
  unfold State.passed at hd ⊢
  show execLeaseVerdict die e s = _
  simp [execLeaseVerdict, hs, hf, hd]

theorem answers_leaseVerdict_passes (hs : (s.lease die e).state = 3) (hf : (s.lease die e).failed = 0)
    (hr : (s.scoreOf (s.lease die e).retUnit).retired = false) (hd : (s.scoreOf (s.lease die e).retUnit).doomed = false)
    (hlow : (s.scoreOf (s.lease die e).retUnit).score.toNat < 4096) :
    answers (.leaseVerdict die e) s fun t => t.lease die e = { s.lease die e with state := 4 } ∧ t.mem.hbm = s.mem.hbm
      ∧ (t.scoreOf (s.lease die e).retUnit).score.toNat = (s.scoreOf (s.lease die e).retUnit).score.toNat - 8 := by
  obtain ⟨hdoom, hscore⟩ := add_passed hr hd hlow
  rw [← passed_scoreOf] at hdoom hscore
  have hhbm : (s.passed (s.lease die e).retUnit).mem.hbm = s.mem.hbm := congrArg Mems.hbm (passed_mem ..)
  refine answers_of_exec (exec_leaseVerdict_passes hs hf hdoom) ?_
  split
  · have hout := beginOut_outside ((s.passed (s.lease die e).retUnit).setLease die e { s.lease die e with state := 4 })
      (s.lease die e).retUnit 1
    exact ⟨(lease_of_outside hout ..).trans (lease_setLease ..), (beginOut_hbm ..).trans hhbm,
      (congrArg (fun r => r.score.toNat) (scoreOf_of_outside hout _)).trans hscore⟩
  · exact ⟨lease_setLease .., hhbm, hscore⟩

/-- A lease that is returned: its report kept, its entry free, its unit in service again. -/
def State.leaseReturned (s : State) (die e : Nat) : State :=
  ((((s.closeLease (s.lease die e)).setLease die e Lease.free).copied (s.lease die e).retUnit).chargeHouse
    (s.lease die e).retUnit 8).setReach

theorem leaseReturned_outside (s : State) (die e : Nat) :
    (s.leaseReturned die e).outside = ((s.closeLease (s.lease die e)).setLease die e Lease.free).outside :=
  (chargeHouse_outside ..).trans (copied_outside ..)

theorem leaseReturned_hbm (s : State) (die e : Nat) : (s.leaseReturned die e).mem.hbm = s.mem.hbm :=
  (congrArg Mems.hbm (chargeHouse_mem ..)).trans (copied_hbm ..)

theorem exec_leaseReturn (hs : (s.lease die e).state = 4) :
    ∃ cs, exec (.leaseReturn die e) s = .next { s.leaseReturned die e with ctxs := cs } := by
  show ∃ cs, execLeaseReturn die e s = _
  simp only [execLeaseReturn, hs, bne_self_eq_false, Bool.false_eq_true, if_false]
  split
  · exact ⟨_, rfl⟩
  · exact ⟨(s.leaseReturned die e).ctxs, rfl⟩

theorem answers_leaseReturn (hs : (s.lease die e).state = 4) :
    answers (.leaseReturn die e) s fun t => t.lease die e = Lease.free ∧ t.mem.hbm = s.mem.hbm
      ∧ t.leaseHistory = s.leaseHistory ++ [⟨(s.lease die e).retUnit, (s.lease die e).seqStart, s.evseq, (s.lease die e).kernels,
          (s.lease die e).failed⟩] := by
  obtain ⟨cs, hexec⟩ := exec_leaseReturn hs
  exact answers_of_exec hexec ⟨(lease_of_outside (leaseReturned_outside s die e) ..).trans (lease_setLease ..),
    leaseReturned_hbm s die e, (congrArg State.leaseHistory (leaseReturned_outside s die e) :)⟩

end

end Sys2Proof.Machine
end

section
/-! PROOFS. Units are retired with a signed record, and errors escalate (06 R194, R195, 07 R203, 08 R220, R221, R228, R230). -/

namespace Sys2Proof.Machine

/-! ### Records of retirement (06 R194) -/

/-- A unit's score stands while another's is set. -/
theorem scoreOf_setScore_other (s : State) {u v : RetUnit} (r : Score) (h : v ≠ u) : (s.setScore u r).scoreOf v = s.scoreOf v := by
  have hfind : (s.setScore u r).scores.find? (·.1 == v) = s.scores.find? (·.1 == v) := by
    unfold State.setScore
    dsimp only
    split
    · exact find_updFirst_other _ _ _ (fun e he => by
        simp only [beq_iff_eq, beq_eq_false_iff_ne, ne_eq] at *
        exact ⟨fun hv => h (hv.symm.trans he), Ne.symm h⟩) _
    · rw [List.find?_append, List.find?_singleton, if_neg (by simpa using Ne.symm h), Option.or_none]
  unfold State.scoreOf
  rw [hfind]

/-- What a step that only writes records of retirement, and disables their units, leaves and keeps. -/
structure State.Records (t s : State) : Prop where
  hbm : t.mem.hbm = s.mem.hbm
  ctxs : t.ctxs = s.ctxs
  start : t.start = s.start
  retiring : t.retiring = s.retiring
  poweredOff : t.poweredOff = s.poweredOff
  lanes : ∀ n ∈ s.lanesOut, n ∈ t.lanesOut
  records : ∀ r ∈ s.flash.records, r ∈ t.flash.records
  retired : ∀ v, (s.scoreOf v).retired = true → (t.scoreOf v).retired = true

theorem records_refl (s : State) : s.Records s :=
  ⟨rfl, rfl, rfl, rfl, rfl, fun _ h => h, fun _ h => h, fun _ h => h⟩

theorem records_trans {u t s : State} (h : u.Records t) (h' : t.Records s) : u.Records s :=
  ⟨h.hbm.trans h'.hbm, h.ctxs.trans h'.ctxs, h.start.trans h'.start, h.retiring.trans h'.retiring,
    h.poweredOff.trans h'.poweredOff, fun n hn => h.lanes n (h'.lanes n hn), fun r hr => h.records r (h'.records r hr),
    fun v hv => h.retired v (h'.retired v hv)⟩

theorem records_dropLane (s : State) (n : Nat) : (s.dropLane n).Records s :=
  { records_refl s with lanes := fun _ hm => List.mem_eraseDups.2 (List.mem_append_left _ hm) }

theorem mem_dropLane (s : State) (n : Nat) : n ∈ (s.dropLane n).lanesOut := mem_eraseDups_append_self ..

theorem records_houseEvent (s : State) : s.houseEvent.Records s := by
  refine { records_refl s with records := fun r hr => ?_ }
  unfold State.houseEvent
  dsimp only
  split <;> exact hr

/-- The record of a unit that is retired now. -/
def State.newRecord (s : State) (u : RetUnit) (reason : BitVec 8) : Retired :=
  { index := s.flash.records.length, unit := u, reason := reason, score := (s.scoreOf u).score, cold := s.flash.colds, seq := s.evseq
    sig := Retired.signed s.identity { index := s.flash.records.length, unit := u, reason := reason, score := (s.scoreOf u).score
                                       cold := s.flash.colds, seq := s.evseq, sig := 0 } }

/-- A record appended and its unit disabled. -/
def State.recorded (s : State) (u : RetUnit) (reason : BitVec 8) : State :=
  ({ s with flash := { s.flash with records := s.flash.records ++ [s.newRecord u reason] } } : State).setScore u
    { s.scoreOf u with retired := true }

/-- A unit that is disabled drops out of its links. -/
def State.withoutUnit (s : State) (u : RetUnit) : State :=
  match u.kind.toNat with
  | 1 => ({ s with links := tset s.links u.unit.toNat { s.link u.unit.toNat with lanes := 0 } } : State).setReach
  | 3 => s.dropLane u.unit.toNat
  | _ => s

theorem record_eq {s : State} {u : RetUnit} (reason : BitVec 8) (h : (s.scoreOf u).retired = false) :
    s.record u reason = (s.houseEvent.recorded u reason).withoutUnit u := by
  unfold State.record
  rw [if_neg (by simp [h])]
  rfl

theorem records_recorded (s : State) (u : RetUnit) (reason : BitVec 8) : (s.recorded u reason).Records s := by
  refine { records_refl s with records := fun r hr => List.mem_append_left _ hr, retired := fun v hv => ?_ }
  by_cases h : v = u
  · subst h; exact congrArg Score.retired (scoreOf_setScore ..)
  · exact (congrArg Score.retired (scoreOf_setScore_other _ _ h)).trans hv

theorem records_withoutUnit (s : State) (u : RetUnit) : (s.withoutUnit u).Records s := by
  unfold State.withoutUnit
  split
  · exact ⟨rfl, rfl, rfl, rfl, rfl, fun _ h => h, fun _ h => h, fun _ h => h⟩
  · exact records_dropLane ..
  · exact records_refl s

theorem records_record (s : State) (u : RetUnit) (reason : BitVec 8) : (s.record u reason).Records s := by
  cases h : (s.scoreOf u).retired with
  | true =>
    unfold State.record
    rw [if_pos h]
    exact records_refl s
  | false =>
    rw [record_eq reason h]
    exact records_trans (records_withoutUnit ..) (records_trans (records_recorded ..) (records_houseEvent s))

/-- A unit is retired by a step: it is disabled, a lane out of service, and its signed record stands in flash. -/
structure State.RetiredIn (t s : State) (u : RetUnit) (reason : BitVec 8) : Prop where
  disabled : (t.scoreOf u).retired = true
  lane : u.kind = 3 → u.unit.toNat ∈ t.lanesOut
  record : ∃ r ∈ t.flash.records, r.unit = u ∧ r.reason = reason ∧ r.sig = r.signed s.identity

theorem retiredIn_records {v t s : State} {u : RetUnit} {reason : BitVec 8} (h : v.Records t) (ht : t.RetiredIn s u reason) :
    v.RetiredIn s u reason := by
  obtain ⟨r, hr, hspec⟩ := ht.record
  exact ⟨h.retired u ht.disabled, fun hk => h.lanes _ (ht.lane hk), r, h.records r hr, hspec⟩

theorem retiredIn_record {s : State} {u : RetUnit} (reason : BitVec 8) (h : (s.scoreOf u).retired = false) :
    (s.record u reason).RetiredIn s u reason := by
  rw [record_eq reason h]
  have hkeep := records_withoutUnit (s.houseEvent.recorded u reason) u
  refine ⟨hkeep.retired u (congrArg Score.retired (scoreOf_setScore ..)), fun hk => ?_, s.houseEvent.newRecord u reason,
    hkeep.records _ (List.mem_append_right _ List.mem_cons_self), rfl, rfl, rfl⟩
  unfold State.withoutUnit
  simp only [hk]
  exact mem_dropLane ..

/-! ### Retirement (08 R228) -/

theorem records_retire (s : State) (u : RetUnit) (reason : BitVec 8) : (s.retire u reason).Records s := by
  unfold State.retire
  dsimp only
  split
  · exact records_trans (records_record ..) (records_record ..)
  · exact records_record ..

theorem retiredIn_retire {s : State} {u : RetUnit} (reason : BitVec 8) (h : (s.scoreOf u).retired = false) :
    (s.retire u reason).RetiredIn s u reason := by
  unfold State.retire
  dsimp only
  split
  · exact retiredIn_records (records_record ..) (retiredIn_record reason h)
  · exact retiredIn_record reason h

theorem beginRetire_eq {s : State} {u : RetUnit} (reason : BitVec 8) (h : (s.scoreOf u).retired = false)
    (hw : ∀ w ∈ s.retiring, w.unit ≠ u) : s.beginRetire u reason = if u.kind = 3 then s.retire u reason
      else ({ s with retiring := s.retiring ++ [⟨u, reason, s.holders u⟩] } : State).beginOut u 2 := by
  have hnone : (s.retiring.any fun w => w.unit == u) = false := List.any_eq_false.2 fun w hm => by simpa using hw w hm
  unfold State.beginRetire
  simp only [h, hnone, Bool.or_self, Bool.false_eq_true, if_false]

/-- A unit that is not a lane begins to be withdrawn, with nothing recorded yet. -/
theorem beginRetire_withdraws {s : State} {u : RetUnit} (reason : BitVec 8) (h : (s.scoreOf u).retired = false)
    (hw : ∀ w ∈ s.retiring, w.unit ≠ u) (hk : u.kind.toNat < 3) : (s.beginRetire u reason).mem.hbm = s.mem.hbm
      ∧ (s.beginRetire u reason).flash = s.flash ∧ ∃ w ∈ (s.beginRetire u reason).retiring, w.unit = u ∧ w.reason = reason := by
  have hne : u.kind ≠ 3 := fun h3 => by simp [h3] at hk
  rw [beginRetire_eq reason h hw, if_neg hne]
  have hout := beginOut_outside ({ s with retiring := s.retiring ++ [⟨u, reason, s.holders u⟩] } : State) u 2
  have hretiring := (congrArg State.retiring hout :)
  exact ⟨beginOut_hbm .., (congrArg State.flash hout :), ⟨u, reason, s.holders u⟩,
    hretiring ▸ List.mem_append_right _ List.mem_cons_self, rfl, rfl⟩

theorem exec_retirement_begins {u : RetUnit} (scrubbed : Bool) {s : State} (hu : unitExists u = true)
    (hw : ∀ w ∈ s.retiring, w.unit ≠ u) : exec (.retirement u ⟨3, scrubbed⟩) s = .next (s.beginRetire u 3) := by
  have hnone : (s.retiring.find? fun w => w.unit == u) = none := List.find?_eq_none.2 fun w hm => by simpa using hw w hm
  show execRetirement u ⟨3, scrubbed⟩ s = _
  simp [execRetirement, hnone, hu]

theorem exec_controlLogicError {u : RetUnit} {s : State} (hu : unitExists u = true) (hk : u.kind.toNat < 3) :
    exec (.controlLogicError u) s = .next (s.beginRetire u 4) := by
  show execControlLogicError u s = _
  simp [execControlLogicError, hu, hk]

theorem answers_withdrawal {u : RetUnit} {scrubbed : Bool} {s : State} (hu : unitExists u = true) (hk : u.kind.toNat < 3)
    (h : (s.scoreOf u).retired = false) (hw : ∀ w ∈ s.retiring, w.unit ≠ u) :
    answers (.retirement u ⟨3, scrubbed⟩) s (fun t => t.mem.hbm = s.mem.hbm ∧ t.flash = s.flash
      ∧ ∃ w ∈ t.retiring, w.unit = u ∧ w.reason = 3)
    ∧ answers (.controlLogicError u) s fun t => t.mem.hbm = s.mem.hbm ∧ t.flash = s.flash
      ∧ ∃ w ∈ t.retiring, w.unit = u ∧ w.reason = 4 :=
  ⟨answers_of_exec (exec_retirement_begins scrubbed hu hw) (beginRetire_withdraws 3 h hw hk),
    answers_of_exec (exec_controlLogicError hu hk) (beginRetire_withdraws 4 h hw hk)⟩

theorem answers_laneRetired {u : RetUnit} {scrubbed : Bool} {s : State} (hu : unitExists u = true) (hk : u.kind = 3)
    (h : (s.scoreOf u).retired = false) (hw : ∀ w ∈ s.retiring, w.unit ≠ u) :
    answers (.retirement u ⟨3, scrubbed⟩) s fun t => (t.scoreOf u).retired = true ∧ t.mem.hbm = s.mem.hbm
      ∧ u.unit.toNat ∈ t.lanesOut ∧ ∃ r ∈ t.flash.records, r.unit = u ∧ r.reason = 3 := by
  refine answers_of_exec (exec_retirement_begins scrubbed hu hw) ?_
  rw [beginRetire_eq 3 h hw, if_pos hk]
  obtain ⟨hdisabled, hlane, r, hr, hunit, hreason, -⟩ := retiredIn_retire 3 h
  exact ⟨hdisabled, (records_retire ..).hbm, hlane hk, r, hr, hunit, hreason⟩

/-- The state in which a withdrawn unit is scrubbed, its contents copied. -/
def State.withdrawn (s : State) (w : Withdrawal) (u : RetUnit) (scrubbed : Bool) : State :=
  (({ s with retiring := s.retiring.filter fun x => x.unit != u } : State).copied u).scrubUnit w scrubbed

theorem exec_retirement_ends {u : RetUnit} {reason : BitVec 8} {scrubbed : Bool} {s : State} {w : Withdrawal}
    (hw : s.retiring.find? (·.unit == u) = some w) (he : s.emptied u = true) :
    exec (.retirement u ⟨reason, scrubbed⟩) s = .next ((((s.withdrawn w u scrubbed).retire u w.reason).freeLeases u).setReach) := by
  show execRetirement u ⟨reason, scrubbed⟩ s = _
  simp only [execRetirement, hw, he, Bool.not_true, Bool.false_eq_true, if_false]
  rfl

/-- A withdrawn unit that could not be scrubbed stays without power, for the contexts that it served. -/
def State.notedOff (s : State) (w : Withdrawal) (scrubbed : Bool) : State :=
  { s with poweredOff := if scrubbed then s.poweredOff else s.poweredOff ++ [(w.unit, w.ctxs)] }

theorem scrubUnit_keeps (s : State) (w : Withdrawal) (scrubbed : Bool) : (s.scrubUnit w scrubbed).ctxs = s.ctxs
    ∧ (s.scrubUnit w scrubbed).outside = (s.notedOff w scrubbed).outside := by
  unfold State.scrubUnit
  cases scrubbed <;> by_cases hk : w.unit.kind = 0 <;> simp only [hk] <;> exact ⟨rfl, rfl⟩

theorem withdrawn_outside (s : State) (w : Withdrawal) (u : RetUnit) (scrubbed : Bool) : (s.withdrawn w u scrubbed).outside
    = (({ s with retiring := s.retiring.filter fun x => x.unit != u } : State).notedOff w scrubbed).outside := by
  have hcopied := copied_outside ({ s with retiring := s.retiring.filter fun x => x.unit != u } : State) u
  exact (scrubUnit_keeps ..).2.trans (congrArg (fun v : State => v.notedOff w scrubbed) hcopied)

/-- The report of leases that end, and their entries' return, leave the records. -/
theorem records_freeLeases (s : State) (u : RetUnit) : (s.freeLeases u).Records s := by
  unfold State.freeLeases
  dsimp only
  generalize ((s.leases.filter fun e => _).map fun e => e.2) = l
  have hclosed : (l.foldl State.closeLease s).Records s := by
    induction l generalizing s with
    | nil => exact records_refl s
    | cons e l ih => exact records_trans (ih (s.closeLease e)) ⟨rfl, rfl, rfl, rfl, rfl, fun _ h => h, fun _ h => h, fun _ h => h⟩
  exact { hclosed with }

theorem answers_retirement_ends {u : RetUnit} {reason : BitVec 8} {scrubbed : Bool} {s : State} {w : Withdrawal}
    (hw : s.retiring.find? (·.unit == u) = some w) (he : s.emptied u = true) (h : (s.scoreOf u).retired = false) :
    answers (.retirement u ⟨reason, scrubbed⟩) s fun t => (t.scoreOf u).retired = true ∧ (∀ x ∈ t.retiring, x.unit ≠ u)
      ∧ (scrubbed = false → (u, w.ctxs) ∈ t.poweredOff)
      ∧ ∃ r ∈ t.flash.records, r.unit = u ∧ r.reason = w.reason ∧ r.sig = r.signed s.identity := by
  have hunit : w.unit = u := by simpa using List.find?_some hw
  have hout := withdrawn_outside s w u scrubbed
  have hidentity : (s.withdrawn w u scrubbed).identity = s.identity := (congrArg State.identity hout :)
  have hafter := records_trans (records_freeLeases ((s.withdrawn w u scrubbed).retire u w.reason) u) (records_retire ..)
  obtain ⟨hdisabled, -, r, hr, hru, hreason, hsig⟩ := retiredIn_records (records_freeLeases _ u)
    (retiredIn_retire w.reason ((congrArg Score.retired (scoreOf_of_outside hout u)).trans h))
  refine answers_of_exec (exec_retirement_ends hw he) ⟨hdisabled, fun x hx => ?_, fun hs => ?_, r, hr, hru, hreason,
    hsig.trans (by rw [hidentity])⟩
  · have hretiring : (s.withdrawn w u scrubbed).retiring = s.retiring.filter fun x => x.unit != u := (congrArg State.retiring hout :)
    have hx' := hafter.retiring ▸ hx
    rw [hretiring] at hx'
    simpa using (List.mem_filter.1 hx').2
  · have hoff : (s.withdrawn w u scrubbed).poweredOff = s.poweredOff ++ [(w.unit, w.ctxs)] := by
      subst hs; exact (congrArg State.poweredOff hout :)
    have hmem : (u, w.ctxs) ∈ (s.withdrawn w u scrubbed).poweredOff := by
      rw [hoff, hunit]; exact List.mem_append_right _ List.mem_cons_self
    exact hafter.poweredOff.symm ▸ hmem

/-! ### Errors that escalate (08 R220, R221, R230) -/

theorem answers_escalatingError (f : Failing) (more : List Failing) (s : State) :
    answers (.escalatingError f more) s fun t => t.agenda = .event .warmReset :: s.agenda ∧ t.mem = s.mem
      ∧ ∀ e ∈ f :: more, (∀ c ∈ s.touchedBy e, c ∈ t.touched) ∧ e ∈ t.failing :=
  ⟨_, rfl, rfl, rfl, fun e he => ⟨fun _ hc => List.mem_eraseDups.2 (List.mem_append_right _ (List.mem_flatMap.2 ⟨e, he, hc⟩)),
    List.mem_eraseDups.2 (List.mem_append_right _ he)⟩⟩

theorem answers_l2WritebackTimeout (lost : List Nat) (s : State) :
    answers (.l2WritebackTimeout lost) s fun t => t.agenda = .event .warmReset :: s.agenda
      ∧ ∀ l ∈ lost, l ∈ s.mem.l2Dirty → l ∈ t.mem.poison ∧ ∀ e ∈ t.mem.l2, e.line ≠ l := by
  refine ⟨_, rfl, rfl, fun l hl hd => ?_⟩
  have hlost : l ∈ lost.filter s.mem.l2Dirty.contains := List.mem_filter.2 ⟨hl, List.contains_iff_mem.2 hd⟩
  refine ⟨List.mem_eraseDups.2 (List.mem_append_right _ hlost), fun e he heq => ?_⟩
  have hnot := (List.mem_filter.1 he).2
  rw [heq, List.contains_iff_mem.2 hlost] at hnot
  cases hnot

/-! ### Patrol scrubbing, and power down in order (03 R95, 07 R203, R204) -/

theorem answers_patrolScrub {p : Nat} (s : State) (hp : p < 4096) :
    answers (.patrolScrub [p]) s fun t => t.mem = s.mem ∧ t.scoreOf (unitOf 2 p) = (s.scoreOf (unitOf 2 p)).add 16 := by
  have hexec : ∃ f, exec (.patrolScrub [p]) s = .next ((s.addScore (unitOf 2 p) 16).modCtx 0 f) := by
    show ∃ f, execPatrolScrub [p] s = _
    have hnot : ¬ 4096 ≤ p := Nat.not_le.2 hp
    simp [execPatrolScrub, hp, hnot]
  obtain ⟨f, hexec⟩ := hexec
  exact answers_of_exec hexec ⟨(modCtx_mem ..).trans (addScore_mem ..),
    (scoreOf_of_outside (modCtx_outside ..) _).trans (scoreOf_addScore ..)⟩

/-- Every score of a list of units is in flash once each has been copied. -/
theorem mem_flashScores {s : State} {u : RetUnit} {l : List (RetUnit × Score)}
    (h : (u, (s.scoreOf u).score) ∈ s.flash.scores ∨ ∃ e ∈ l, e.1 = u) :
    (u, (s.scoreOf u).score) ∈ (l.foldl (fun (s : State) e => s.flashScore e.1) s).flash.scores := by
  induction l generalizing s with
  | nil => exact h.resolve_right fun ⟨_, he, _⟩ => List.not_mem_nil he
  | cons e l ih =>
    refine ih (s := s.flashScore e.1) ?_
    by_cases hu : e.1 = u
    · exact .inl (List.mem_append_right _ (by subst hu; exact List.mem_cons_self))
    · rcases h with h | ⟨d, hd, rfl⟩
      · exact .inl (List.mem_append_left _ (List.mem_filter.2 ⟨h, by simpa using Ne.symm hu⟩))
      · exact .inr ⟨d, (List.mem_cons.1 hd).resolve_left fun hde => hu (by rw [hde]), rfl⟩

theorem answers_orderlyPowerDown (s : State) : answers .orderlyPowerDown s fun t => t.mem = s.mem
      ∧ ∀ e ∈ s.scores, (e.1, (s.scoreOf e.1).score) ∈ t.flash.scores :=
  ⟨_, rfl, foldl_keeps State.mem (f := fun (s : State) (e : RetUnit × Score) => s.flashScore e.1) (fun _ _ => rfl) _ s,
    fun e he => mem_flashScores (.inr ⟨e, he, rfl⟩)⟩

end Sys2Proof.Machine
end

section
/-! PROOFS. A warm reset empties the fabric, and the steps of a start (08 R230, R231). -/

namespace Sys2Proof.Machine

/-! ### Reset entry (08 R230) -/

theorem hostGivesBack_ctxs (s : State) : s.hostGivesBack.ctxs = s.ctxs := by
  unfold State.hostGivesBack
  exact foldl_keeps State.ctxs (fun _ _ => by rfl) _ s

/-- The leases in progress, each closed with its report. -/
def State.closeLeases (s : State) (es : List Lease) : State :=
  es.foldl (fun (s : State) e => if e.state = 0 then s else s.closeLease e) s

theorem closeLeases_ctxs (s : State) (es : List Lease) : (s.closeLeases es).ctxs = s.ctxs :=
  foldl_keeps State.ctxs (f := fun (s : State) (e : Lease) => if e.state = 0 then s else s.closeLease e)
    (fun _ _ => by split <;> rfl) _ s

theorem throughReset_num (k : Ctx) : k.throughReset.num = k.num := by
  unfold Ctx.throughReset
  dsimp only
  split <;> rfl

theorem throughReset_unsaved {k : Ctx} (h : k.state ≠ 3) :
    k.throughReset = ({ k with unfolded := [], stalled := false, halted := false } : Ctx).clearFabric := by
  unfold Ctx.throughReset
  exact if_neg fun h3 => h (BitVec.eq_of_toNat_eq h3)

theorem beginWarm_ctxs (s : State) : s.beginWarm.ctxs = s.ctxs.map Ctx.throughReset := by
  have hclosed := (closeLeases_ctxs s.hostGivesBack (s.leases.map fun e => e.2)).trans (hostGivesBack_ctxs s)
  exact congrArg (List.map Ctx.throughReset) hclosed

theorem beginWarm_ctx {s : State} {c : CtxId} {k : Ctx} (hk : s.ctx c = some k) : s.beginWarm.ctx c = some k.throughReset := by
  have hnum : ((fun j : Ctx => j.num == c) ∘ Ctx.throughReset) = fun j => j.num == c :=
    funext fun j => by rw [Function.comp_apply, throughReset_num]
  unfold State.ctx at hk ⊢
  rw [beginWarm_ctxs, List.find?_map, hnum, hk, Option.map_some]

theorem answers_warmReset {s : State} (h : s.stillCold = false) :
    answers .warmReset s fun t => t.owners = [] ∧ t.spines = [] ∧ t.leases = [] ∧ t.retiring = []
      ∧ t.start.kind = true ∧ t.start.step = 1 ∧ t.start.failstep = 0
      ∧ t.mem.l1 = [] ∧ t.mem.dir = [] ∧ t.mem.l2 = [] ∧ t.mem.tlb = []
      ∧ ∀ (c : CtxId) (k : Ctx), s.ctx c = some k → k.state ≠ 3 → inCtx t c fun j => j.threads = [] ∧ j.placed = []
          ∧ j.tokens = [] ∧ j.shares = [] ∧ ∀ n ∈ j.launches, n.abort.isSome = true := by
  have hexec : exec .warmReset s = .next s.beginWarm := by
    show execWarmReset s = _
    simp [execWarmReset, h]
  refine answers_of_exec hexec ⟨rfl, rfl, rfl, rfl, rfl, rfl, rfl, rfl, rfl, rfl, rfl, fun c k hk hs =>
    ⟨_, beginWarm_ctx hk, ?_⟩⟩
  rw [throughReset_unsaved hs]
  refine ⟨rfl, rfl, rfl, rfl, fun n hn => ?_⟩
  obtain ⟨m, -, rfl⟩ := List.mem_map.1 hn
  rfl

/-! ### The steps of a start (08 R231) -/

/-- The machine without what the steps of a start change where no unit fails: the units disabled, the suspects, RECBAD and STEP. -/
def State.unstarted (s : State) : State :=
  { s with scores := [], lanesOut := [], suspects := [], start := { s.start with recbad := 0, step := 0 } }

/-- The part of the machine that a start works with whatever units fail its test. -/
def State.startCtxs (s : State) : List Ctx × Bool := (s.ctxs, s.start.kind)

theorem startCtxs_of_unstarted {t s : State} (h : t.unstarted = s.unstarted) : t.startCtxs = s.startCtxs :=
  (congrArg State.startCtxs h :)

theorem disable_unstarted (s : State) : s.disable.unstarted = s.unstarted := by
  unfold State.disable
  refine (foldl_keeps State.unstarted (fun _ _ => ?_) _ _).trans (foldl_keeps State.unstarted (fun _ _ => ?_) _ s)
  · split <;> rfl
  · rfl

theorem readRecords_unstarted (s : State) : s.readRecords.unstarted = s.unstarted := by
  have hdisable (t : State) (n : BitVec 16) :
      ({ t.disable with start := { t.start with recbad := n } } : State).unstarted = t.unstarted := by
    have h := disable_unstarted t
    exact congrArg (fun v : State => { v with start := { t.start with recbad := 0, step := 0 } }) h
  unfold State.readRecords
  dsimp only
  split
  · exact hdisable ..
  · exact hdisable ..

theorem builtInTest_startCtxs (s : State) (failed : List RetUnit) : (s.builtInTest failed).startCtxs = s.startCtxs := by
  refine foldl_keeps State.startCtxs (fun t u => ?_) _ s
  obtain ⟨hctxs, hout⟩ := scrubUnit_keeps t ⟨u, 2, t.holders u⟩ (Config.scrubs t.tick u)
  have hretire := records_retire (t.scrubUnit ⟨u, 2, t.holders u⟩ (Config.scrubs t.tick u)) u 2
  have hstart := hretire.start.trans (congrArg State.start hout :)
  exact Prod.ext (hretire.ctxs.trans hctxs) (congrArg Start.kind hstart)

/-- What a step of a start does before the next begins. -/
def State.stepWork (s : State) (failed : List RetUnit) : State :=
  if s.start.step.toNat = 4 then s.builtInTest failed else if s.start.step.toNat = 7 then s.readRecords else s

/-- The step that follows one before the last. -/
def Start.nextStep (a : Start) : BitVec 4 := if a.step.toNat = 2 && a.kind then 4 else BitVec.ofNat 4 (a.step.toNat + 1)

theorem endStep_eq {s : State} (failed : List RetUnit) (h : s.start.step.toNat < 9) : s.endStep failed
    = { s.stepWork failed with start := { (s.stepWork failed).start with step := s.start.nextStep } } :=
  if_neg (Nat.not_le.2 h)

theorem endStep_last {s : State} (failed : List RetUnit) (h : s.start.step.toNat = 9) : s.endStep failed = s.endStart := by
  unfold State.endStep
  simp [h]

theorem nextStep_bounds {a : Start} (h : a.step.toNat < 9) : a.step.toNat < a.nextStep.toNat ∧ a.nextStep.toNat ≤ 9 := by
  unfold Start.nextStep
  split
  · next h2 =>
    rw [Bool.and_eq_true, decide_eq_true_eq] at h2
    rw [h2.1]
    decide
  · simp only [BitVec.toNat_ofNat]
    omega

section
variable {β : Type} {p : State → β} {failed : List RetUnit}

theorem endStep_keeps (hp : ∀ {t s : State}, t.unstarted = s.unstarted → p t = p s)
    (htest : ∀ s : State, p (s.builtInTest failed) = p s) {s : State} (h : s.start.step.toNat < 9) : p (s.endStep failed) = p s := by
  have hwork : p (s.stepWork failed) = p s := by
    unfold State.stepWork
    split
    · exact htest s
    · split
      · exact hp (readRecords_unstarted s)
      · rfl
  rw [endStep_eq failed h]
  refine Eq.trans (hp ?_) hwork
  rfl

theorem up_of_step_le {s : State} (h : s.start.step.toNat ≤ 9) : s.up = false := by
  have hne : s.start.step ≠ 10 := fun h10 => by simp [h10] at h
  exact beq_false_of_ne hne

variable (hp : ∀ s : State, s.start.step.toNat < 9 → p (s.endStep failed) = p s)
include hp

/-- A start that goes on to a step before its last stands at a later one. -/
theorem runStart_stops {last fuel : Nat} {s : State} (hl : last < 9) (hs : s.start.step.toNat ≤ 9)
    (hf : last < s.start.step.toNat + fuel) : p (s.runStart failed last fuel) = p s
      ∧ last < (s.runStart failed last fuel).start.step.toNat ∧ (s.runStart failed last fuel).start.step.toNat ≤ 9 := by
  induction fuel generalizing s with
  | zero => exact ⟨rfl, hf, hs⟩
  | succ fuel ih =>
    unfold State.runStart
    by_cases hpast : last < s.start.step.toNat
    · rw [if_pos (by simp [hpast])]
      exact ⟨rfl, hpast, hs⟩
    · rw [if_neg (by simp [up_of_step_le hs, hpast])]
      have hs9 : s.start.step.toNat < 9 := by omega
      have hstep : (s.endStep failed).start.step = s.start.nextStep := by rw [endStep_eq failed hs9]
      obtain ⟨hlater, hle⟩ := nextStep_bounds hs9
      rw [← hstep] at hlater hle
      obtain ⟨hkept, hrest⟩ := ih hle (by omega)
      exact ⟨hkept.trans (hp s hs9), hrest⟩

/-- A start that goes on to its last step ends from a state that stood there. -/
theorem runStart_ends {last fuel : Nat} {s : State} (hl : 9 ≤ last) (hs : s.start.step.toNat ≤ 9)
    (hf : 9 < s.start.step.toNat + fuel) (hend : ∀ u : State, u.endStart.up = true) :
    ∃ u : State, p u = p s ∧ s.runStart failed last fuel = u.endStart := by
  induction fuel generalizing s with
  | zero => omega
  | succ fuel ih =>
    unfold State.runStart
    rw [if_neg (by simp [up_of_step_le hs, Nat.not_lt.2 (hs.trans hl)])]
    by_cases h9 : s.start.step.toNat = 9
    · refine ⟨s, rfl, ?_⟩
      rw [endStep_last failed h9]
      cases fuel with
      | zero => rfl
      | succ fuel => unfold State.runStart; rw [if_pos (by simp [hend])]
    · have hs9 : s.start.step.toNat < 9 := by omega
      have hstep : (s.endStep failed).start.step = s.start.nextStep := by rw [endStep_eq failed hs9]
      obtain ⟨hlater, hle⟩ := nextStep_bounds hs9
      rw [← hstep] at hlater hle
      obtain ⟨u, hu, hrun⟩ := ih hle (by omega)
      exact ⟨u, hu.trans (hp s hs9), hrun⟩

end

/-! ### The end of a start (08 R230, R231) -/

theorem spared_launches : Spared Ctx.launches where
  scratchSt k l off bytes := (congrArg Ctx.launches (spared_dealings.scratchSt k l off bytes) :)
  logs _ _ := rfl
  charge _ _ _ _ := rfl

theorem agrees_unbindAll {β : Type} {p : Ctx → β} (hp : Spared p) (s : State) (c : CtxId) (n : BitVec 32) :
    (s.unbindAll c n).Agrees p s := by
  unfold State.unbindAll
  split
  · exact agrees_refl s
  · exact agrees_foldl (fun _ _ => agrees_devPut hp ..) _ s

/-- Every launch of a context, a queued one too, reported with the cause of a reset. -/
def State.allReported (s : State) (c : CtxId) (ns : List Launch) : State :=
  let s1 := ns.foldl (fun (s : State) n => (s.unbindAll c n.num).report c n.lrec n.fromHost 2 0x0F 0 n.num) s
  (s.launchq.filter fun q => q.ctx == c).foldl (fun (s : State) q => s.report c q.lrec q.fromHost 2 0x0F 0 0xFFFFFFFF) s1

/-- A context whose launches are gone, their bindings undone. -/
def Ctx.cleared (k : Ctx) : Ctx :=
  { k with launches := [], binds := k.binds.filter fun b => !(k.launches.any fun n => n.num == b.ln) }

theorem reportAll_eq {s : State} {c : CtxId} {k : Ctx} (hk : s.ctx c = some k) :
    s.reportAll c = (s.allReported c k.launches).modCtx c Ctx.cleared := by
  unfold State.reportAll
  rw [hk]
  rfl

theorem agrees_allReported (s : State) (c : CtxId) (ns : List Launch) : (s.allReported c ns).Agrees Ctx.launches s := by
  have hreport (t : State) (r : LaunchRec) (host : Bool) (num : BitVec 32) : (t.report c r host 2 0x0F 0 num).Agrees Ctx.launches t :=
    agrees_report spared_launches (fun _ _ => rfl) ..
  refine agrees_trans (agrees_foldl (fun t q => ?_) _ _) (agrees_foldl (fun t n => ?_) _ s)
  · exact hreport ..
  · exact agrees_trans (hreport ..) (agrees_unbindAll spared_launches ..)

theorem reportAll_outside (s : State) (c : CtxId) : (s.reportAll c).outside = s.outside := by
  cases hk : s.ctx c with
  | none => unfold State.reportAll; rw [hk]
  | some k =>
    rw [reportAll_eq hk]
    exact (modCtx_outside ..).trans (agrees_allReported s c k.launches).outside

/-- A context none of whose launches is left. -/
def Ctx.launchless (k : Ctx) : Prop := k.launches = []

theorem reportAll_idle {s : State} {c : CtxId} {k : Ctx} (hk : s.ctx c = some k) : inCtx (s.reportAll c) c Ctx.launchless := by
  obtain ⟨j, hj, -⟩ := found_of_agrees (agrees_allReported s c k.launches) hk
  rw [reportAll_eq hk]
  exact ⟨_, ctx_modCtx hj rfl, rfl⟩

theorem reportAll_found {s : State} {c d : CtxId} {k : Ctx} (hk : s.ctx d = some k) :
    ∃ j, (s.reportAll c).ctx d = some j ∧ (k.launchless → j.launchless) := by
  by_cases hd : d = c
  · subst hd
    obtain ⟨j, hj, hidle⟩ := reportAll_idle hk
    exact ⟨j, hj, fun _ => hidle⟩
  · cases hc : s.ctx c with
    | none => unfold State.reportAll; rw [hc]; exact ⟨k, hk, id⟩
    | some i =>
      obtain ⟨j, hj, hlaunches⟩ := found_of_agrees (agrees_allReported s c i.launches) hk
      refine ⟨j, ?_, fun h => hlaunches.trans h⟩
      rw [reportAll_eq hc, ctx_modCtx_other (f := Ctx.cleared) (fun _ => rfl) hd, hj]

theorem reportAlls_idle {l : List CtxId} {s : State} {d : CtxId} {k : Ctx} (hk : s.ctx d = some k) (h : k.launchless ∨ d ∈ l) :
    inCtx (l.foldl State.reportAll s) d Ctx.launchless := by
  induction l generalizing s k with
  | nil => exact ⟨k, hk, h.resolve_right List.not_mem_nil⟩
  | cons c l ih =>
    obtain ⟨j, hj, hidle⟩ := reportAll_found (c := c) hk
    rcases h with h | h
    · exact ih hj (.inl (hidle h))
    · rcases List.mem_cons.1 h with rfl | h
      · obtain ⟨i, hi, hi0⟩ := reportAll_idle hk
        exact ih hi (.inl hi0)
      · exact ih hj (.inr h)

theorem reportAlls_outside (l : List CtxId) (s : State) : (l.foldl State.reportAll s).outside = s.outside :=
  foldl_keeps State.outside reportAll_outside l s

/-- A start at its end, before launches are reported. -/
def State.started (s : State) : State := ({ s with start := { s.start with step := 10 } } : State).houseEvent

/-- The contexts that were not saved, with their launches reported. -/
def State.launchesReported (s : State) : State := ((s.ctxs.filter fun k => k.state != 3).map (·.num)).foldl State.reportAll s

theorem endStart_cold {s : State} (h : s.start.kind = false) : s.endStart = s.started := by
  unfold State.endStart
  rw [if_pos (by simp [h])]
  rfl

/-- The queues and the teardowns after a warm start: a saved context keeps its launches, and a teardown begins again. -/
def State.queuesKept (s : State) : State :=
  { s with launchq := s.launchq.filter fun q => (s.ctx q.ctx).any (·.state = 3)
           tearing := s.tearing.map fun w => { w with first := s.evseq } }

theorem endStart_warm {s : State} (h : s.start.kind = true) : s.endStart = s.started.launchesReported.queuesKept := by
  unfold State.endStart
  rw [if_neg (by simp [h])]
  rfl

theorem endStart_start (s : State) : s.endStart.start = { s.start with step := 10 } := by
  cases h : s.start.kind with
  | false => rw [endStart_cold h]; rfl
  | true => rw [endStart_warm h]; exact (congrArg State.start (reportAlls_outside _ s.started) :)

theorem endStart_up (s : State) : s.endStart.up = true := by
  unfold State.up
  rw [endStart_start]
  rfl

theorem endStart_idle {s : State} {c : CtxId} {k : Ctx} (h : s.start.kind = true) (hk : s.ctx c = some k) (hs : k.state ≠ 3) :
    inCtx s.endStart c Ctx.launchless := by
  have hmem : c ∈ (s.started.ctxs.filter fun k => k.state != 3).map (·.num) :=
    List.mem_map.2 ⟨k, List.mem_filter.2 ⟨List.mem_of_find?_eq_some hk, by simpa using hs⟩, ctx_num hk⟩
  obtain ⟨j, hj, hidle⟩ := reportAlls_idle (s := s.started) hk (.inr hmem)
  rw [endStart_warm h]
  exact ⟨j, hj, hidle⟩

theorem endStart_queued {s : State} {q : QRec} (h : s.start.kind = true) (hq : q ∈ s.endStart.launchq) :
    ∃ k, s.endStart.ctx q.ctx = some k ∧ k.state = 3 := by
  rw [endStart_warm h] at hq ⊢
  obtain ⟨k, hk, hs⟩ := (Option.any_eq_true _ _).1 (List.mem_filter.1 hq).2
  exact ⟨k, hk, by simpa using hs⟩

/-! ### Starts, warm and cold (08 R231) -/

theorem goOn_start (s : State) (run : StartRun) (failed : List RetUnit) : (s.goOn run failed).start
    = (let a := (s.runStart failed run.last.toNat 9).start
       if run.error && !(s.runStart failed run.last.toNat 9).up then { a with failstep := a.step.zeroExtend 8 } else a) := by
  unfold State.goOn
  dsimp only
  split <;> rfl

/-- An error stops a start only before its end. -/
theorem goOn_ended {s u : State} {run : StartRun} {failed : List RetUnit} (h : s.runStart failed run.last.toNat 9 = u.endStart) :
    s.goOn run failed = u.endStart := by
  unfold State.goOn
  dsimp only
  rw [h, endStart_up]
  exact if_neg (by simp)

theorem step_startCtxs {s : State} (failed : List RetUnit) (h : s.start.step.toNat < 9) : (s.endStep failed).startCtxs = s.startCtxs :=
  endStep_keeps startCtxs_of_unstarted (fun t => builtInTest_startCtxs t failed) h

theorem step_unstarted {s : State} (h : s.start.step.toNat < 9) : (s.endStep []).unstarted = s.unstarted :=
  endStep_keeps id (fun _ => rfl) h

theorem answers_warmStart {last : BitVec 4} {error : Bool} {failed : List RetUnit} {s : State} (hw : s.start.kind = true)
    (hs : s.start.step.toNat ≤ 9) (h1 : 1 ≤ s.start.step.toNat) :
    answers (.coldStart ⟨false, last, error⟩ failed) s fun t => t.start.kind = true
      ∧ (last.toNat < 9 → last.toNat < t.start.step.toNat ∧ t.start.step.toNat ≤ 9
          ∧ (error = true → t.start.failstep.toNat = t.start.step.toNat))
      ∧ (9 ≤ last.toNat → (∀ q ∈ t.launchq, ∃ k, t.ctx q.ctx = some k ∧ k.state = 3) ∧ t.start.step = 10
          ∧ ∀ (c : CtxId) (k : Ctx), s.ctx c = some k → k.state ≠ 3 → inCtx t c fun j => j.launches = []) := by
  have hexec : exec (.coldStart ⟨false, last, error⟩ failed) s = .next (s.goOn ⟨false, last, error⟩ failed) := rfl
  refine answers_of_exec hexec ?_
  by_cases hl : last.toNat < 9
  · obtain ⟨hkept, hpast, hle⟩ := runStart_stops (failed := failed) (fun t => step_startCtxs failed) hl hs (fuel := 9) (by omega)
    have hkind : (s.runStart failed last.toNat 9).start.kind = true := (congrArg Prod.snd hkept).trans hw
    rw [goOn_start]
    refine ⟨?_, fun _ => ⟨?_, ?_, fun he => ?_⟩, fun h9 => absurd hl (Nat.not_lt.2 h9)⟩
    · dsimp only; split <;> exact hkind
    · dsimp only; split <;> exact hpast
    · dsimp only; split <;> exact hle
    · simp only [he, up_of_step_le hle, Bool.not_false, Bool.and_self, if_true]
      simp
      omega
  · obtain ⟨u, hu, hrun⟩ := runStart_ends (failed := failed) (fun t => step_startCtxs failed) (Nat.not_lt.1 hl) hs (fuel := 9)
      (by omega)
      endStart_up
    have hkind : u.start.kind = true := (congrArg Prod.snd hu).trans hw
    have hctxs : u.ctxs = s.ctxs := congrArg Prod.fst hu
    rw [goOn_ended hrun, endStart_start]
    refine ⟨hkind, fun h9 => absurd h9 hl, fun _ => ⟨fun q => endStart_queued hkind, rfl,
      fun c k hk hs => endStart_idle hkind ?_ hs⟩⟩
    unfold State.ctx at hk ⊢
    rw [hctxs, hk]

/-- A start from power on has lost no record of retirement. -/
theorem beginCold_records (s : State) : s.beginCold.flash.records = s.flash.records := by
  unfold State.beginCold
  rfl

theorem answers_coldStart (error : Bool) (s : State) :
    answers (.coldStart ⟨true, 9, error⟩ []) s fun t => t.ctxs = [] ∧ t.owners = [] ∧ t.mem.hbm = []
      ∧ t.start.kind = false ∧ t.start.step = 10 ∧ t.start.failstep = 0 ∧ t.flash.colds = s.flash.colds + 1
      ∧ t.flash.records = s.flash.records := by
  have hexec : exec (.coldStart ⟨true, 9, error⟩ []) s = .next (s.beginCold.goOn ⟨true, 9, error⟩ []) := rfl
  have hstep : s.beginCold.start.step.toNat = 1 := rfl
  obtain ⟨u, hu, hrun⟩ := runStart_ends (failed := []) (fun t => step_unstarted) (s := s.beginCold) (last := 9) (fuel := 9)
    (Nat.le_refl 9) (by omega) (by omega) endStart_up
  have hstart := (congrArg State.start hu :)
  have hkind : u.start.kind = false := (congrArg Start.kind hstart :)
  refine answers_of_exec hexec ?_
  rw [goOn_ended (run := ⟨true, 9, error⟩) hrun, endStart_cold hkind]
  have hkept : u.flash = s.beginCold.flash := (congrArg State.flash hu :)
  have hflash : u.started.flash.colds = u.flash.colds ∧ u.started.flash.records = u.flash.records := by
    unfold State.started State.houseEvent
    dsimp only
    split <;> exact ⟨rfl, rfl⟩
  exact ⟨(congrArg State.ctxs hu :), (congrArg State.owners hu :), (congrArg (fun t : State => t.mem.hbm) hu :), hkind, rfl,
    (congrArg Start.failstep hstart :), hflash.1.trans (congrArg Flash.colds hkept :),
    hflash.2.trans ((congrArg Flash.records hkept).trans (beginCold_records s))⟩

end Sys2Proof.Machine
end

section
/-! PROOFS. A context's teardown, from its start to its scrub receipt (06 R196, R197, 08 R232). -/

namespace Sys2Proof.Machine

/-! ### A teardown begins (08 R232, steps 1 and 2) -/

/-- The launches of a context that are queued have their abort reported. -/
def State.queueReported (s : State) (c : CtxId) : State :=
  (s.launchq.filter fun q => q.ctx == c).foldl (fun (s : State) q => s.report c q.lrec q.fromHost 2 0 0 0xFFFFFFFF) s

theorem agrees_queueReported (s : State) (c : CtxId) : (s.queueReported c).Agrees Ctx.num s := by
  refine agrees_foldl (fun t q => ?_) _ s
  exact agrees_report spared_num (fun _ _ => rfl) ..

/-- A context whose teardown begins. -/
def Ctx.stopping (k : Ctx) : Ctx :=
  { ({ k with state := 4 } : Ctx).gateAll with
    launches := k.launches.map fun n => { n with abort := some (n.abort.getD (0, 0)) }
    shares := ({ k with state := 4 } : Ctx).gateAll.shares.map Share.cancelRunning }

/-- The queued launches and the teardowns in progress as they are when one has begun. -/
def State.setQueues (s : State) (qs : List QRec) (ts : List Tearing) : State := { s with launchq := qs, tearing := ts }

theorem beginTeardown_eq (s : State) (k : Ctx) : ∃ qs ts, (∀ q ∈ qs, q.ctx ≠ k.num)
    ∧ s.beginTeardown k = ((s.houseEvent.queueReported k.num).setQueues qs ts).modCtx k.num Ctx.stopping :=
  ⟨_, _, fun _ hq => by simpa using (List.mem_filter.1 hq).2, rfl⟩

theorem exec_teardown_begins {c : CtxId} {s : State} {k : Ctx} (hk : s.ctx c = some k) (hs : k.state ≠ 4) (hc : c ≠ 0)
    (hh : ∀ h ∈ k.shares, h.gated = false) : exec (.teardown c) s = .next (s.beginTeardown k) := by
  have hany : (k.shares.any fun h => h.gated) = false := List.any_eq_false.2 fun h hm => by simp [hh h hm]
  show execTeardown c s = _
  simp only [execTeardown, hk, if_neg hs, hc, hany, decide_false, Bool.or_self, Bool.false_eq_true, if_false]

theorem answers_teardown_begins {c : CtxId} {s : State} {k : Ctx} (hk : s.ctx c = some k) (hs : k.state ≠ 4) (hc : c ≠ 0)
    (hh : ∀ h ∈ k.shares, h.gated = false) :
    answers (.teardown c) s fun t => t.evseq = s.evseq + 1 ∧ (∀ q ∈ t.launchq, q.ctx ≠ c) ∧ inCtx t c fun j => j.state = 4
      ∧ j.gate = 1 ∧ ∀ n ∈ j.launches, n.abort.isSome = true := by
  obtain rfl := ctx_num hk
  obtain ⟨qs, ts, hqs, heq⟩ := beginTeardown_eq s k
  have hreported := agrees_queueReported s.houseEvent k.num
  obtain ⟨j, hj, -⟩ := found_of_agrees hreported (show s.houseEvent.ctx k.num = some k from hk)
  have hout := modCtx_outside ((s.houseEvent.queueReported k.num).setQueues qs ts) k.num Ctx.stopping
  refine answers_of_exec (exec_teardown_begins hk hs hc hh) ?_
  rw [heq]
  refine ⟨(congrArg State.evseq hout :).trans (congrArg State.evseq hreported.outside :), fun q hq => ?_, _,
    ctx_modCtx (f := Ctx.stopping) hj rfl, rfl, rfl, fun n hn => ?_⟩
  · have hq' : q ∈ (((s.houseEvent.queueReported k.num).setQueues qs ts).modCtx k.num Ctx.stopping).outside.launchq := hq
    rw [hout] at hq'
    exact hqs q hq'
  · obtain ⟨m, -, rfl⟩ := List.mem_map.1 hn
    rfl

/-! ### What the device's own accesses leave of a context that has no threads -/

/-- The state, the blocks and the tokens of a context that has no threads. -/
def Ctx.remains (k : Ctx) : Option (BitVec 4 × List Placed × List Arrived) :=
  if k.threads = [] then some (k.state, k.placed, k.tokens) else none

theorem remains_of_roster {j k : Ctx} (h : j.roster = k.roster)
    (hrest : k.threads = [] → (j.state, j.placed, j.tokens) = (k.state, k.placed, k.tokens)) : j.remains = k.remains := by
  have hthreads : j.threads = [] ↔ k.threads = [] :=
    (List.map_eq_nil_iff.symm.trans (Eq.congr_left h)).trans List.map_eq_nil_iff
  unfold Ctx.remains
  by_cases hk : k.threads = []
  · rw [if_pos hk, if_pos (hthreads.2 hk), hrest hk]
  · rw [if_neg hk, if_neg fun hj => hk (hthreads.1 hj)]

/-- A token for a thread that is not there goes nowhere. -/
theorem enter_threadless {k : Ctx} (h : k.threads = []) (a : Arrived) (src : Src) (inside : Bool) : k.enter a src inside = k := by
  have hnone : k.th a.tok.thread = none := by unfold Ctx.th; rw [h]; rfl
  unfold Ctx.enter
  rw [hnone]

theorem beside_remains : Beside Ctx.remains where
  enter k a src inside := remains_of_roster (roster_enter k a src inside) fun h => by rw [enter_threadless h]
  modWv k t w f := remains_of_roster (beside_roster.modWv k t w f) fun _ => rfl
  paid k t w := remains_of_roster (beside_roster.paid k t w) fun _ => rfl
  discards _ _ := rfl
  setGran _ _ _ _ := rfl

theorem spared_remains : Spared Ctx.remains where
  scratchSt _ _ _ _ := foldl_keeps Ctx.remains (f := fun k g => k.filled _ g) (fun _ _ => beside_filled beside_remains ..) _ _
  logs _ _ := rfl
  charge _ _ _ _ := rfl

theorem remains_eq_some {k : Ctx} {q : BitVec 4 × List Placed × List Arrived} (h : k.remains = some q) :
    k.threads = [] ∧ (k.state, k.placed, k.tokens) = q := by
  unfold Ctx.remains at h
  split at h
  · next ht => exact ⟨ht, Option.some.inj h⟩
  · cases h

/-! ### A teardown ends (06 R196, R197, 08 R232, steps 3 to 7) -/

/-- The machine without what it holds of a context but the context itself: its lines scrubbed, its keys, domains and launches gone. -/
def State.scrubbedOf (s : State) (c : CtxId) : State :=
  { s with
    mem := (s.mem.dropTlb c true 0).scrub (s.mem.keyedLines (s.ownedKeys c))
    keys := s.keys.filter fun e => !(s.ownedKeys c).contains e.1
    owners := s.owners.filter fun e => e.2 != c
    launchq := s.launchq.filter fun q => q.ctx != c
    touched := s.touched.filter (· != c), victims := s.victims.filter (· != c)
    heirs := s.heirs.filter fun e => e.1 != c
    tearing := s.tearing.filter fun e => e.ctx != c }

/-- A context torn down, its scrub charged to context 0 and told to the house. -/
def State.freed (s : State) (c : CtxId) : State :=
  (((s.scrubbedOf c).modCtx c Ctx.tornDown).modCtx 0 fun k => k.charge (dieSite 0) 2 4).houseEvent

/-- A receipt filed. -/
def State.filed (s : State) (r : Receipt) : State := { s with receipts := s.receipts ++ [r] }

/-- A scrub receipt written at its place, where context 0 is there to write it. -/
def State.receiptPut (s : State) (r : Receipt) : State :=
  match s.ctx 0 with
  | some house => s.devPut house (Config.receiptAddress s.receipts.length) (receiptBytes (Config.identityKey s.firmware.digest) r)
  | none => s

theorem agrees_receiptPut {β : Type} {p : Ctx → β} (hp : Spared p) (s : State) (r : Receipt) : (s.receiptPut r).Agrees p s := by
  unfold State.receiptPut
  split
  · exact agrees_devPut hp ..
  · exact agrees_refl s

theorem finishTeardown_eq {s s1 : State} {k : Ctx} {w : Tearing} (hl : s.flushLogs k.num = (s1, true)) (hw : s1.receiptWaits k w = false) :
    ∃ r d, s.finishTeardown k w = (((s1.freed k.num).receiptPut r).filed r).post k.num { hostEvent 8 with data := d } := by
  refine ⟨{ ctx := k.num, seqFirst := w.first, seqLast := (s1.freed k.num).evseq, classes := s1.scrubList k w },
    BitVec.ofNat 128 (Config.receiptAddress (s1.freed k.num).receipts.length % 2 ^ 64), ?_⟩
  unfold State.finishTeardown
  dsimp only
  rw [hl]
  simp only [hw, Bool.not_true, Bool.or_self, Bool.false_eq_true, if_false]
  rfl

/-- A context freed has nothing left, and no domain is its own. -/
theorem freed_fields (s : State) (c : CtxId) : (s.freed c).receipts = s.receipts ∧ ∀ e ∈ (s.freed c).owners, e.2 ≠ c := by
  have hout := (modCtx_outside ((s.scrubbedOf c).modCtx c Ctx.tornDown) 0 fun k => k.charge (dieSite 0) 2 4).trans
    (modCtx_outside (s.scrubbedOf c) c Ctx.tornDown)
  refine ⟨(congrArg State.receipts hout :), fun e he => ?_⟩
  have howners : (s.freed c).owners = s.owners.filter fun e => e.2 != c := (congrArg State.owners hout :)
  rw [howners] at he
  simpa using (List.mem_filter.1 he).2

theorem freed_remains {s : State} {c : CtxId} {k : Ctx} (hk : s.ctx c = some k) :
    ∃ j, (s.freed c).ctx c = some j ∧ j.remains = some (0, [], []) := by
  have htorn : ((s.scrubbedOf c).modCtx c Ctx.tornDown).ctx c = some k.tornDown := ctx_modCtx (f := Ctx.tornDown) hk rfl
  have hcharged := agrees_modCtx (p := Ctx.remains) (f := fun k => k.charge (dieSite 0) 2 4)
    ((s.scrubbedOf c).modCtx c Ctx.tornDown) 0 (fun _ => rfl) fun _ => rfl
  obtain ⟨j, hj, hjk⟩ := found_of_agrees hcharged htorn
  exact ⟨j, hj, hjk⟩

section
variable {c : CtxId} {s s1 : State} {k : Ctx} (hk : s.ctx c = some k) (hs : k.state = 4) (hl : k.launches = []) (hg : k.gate = 2)
  (hst : k.storesLeft s.mem = false) (hh : ∀ h ∈ k.shares, h.engineRuns = false ∧ h.completes = false)
include hk hs hl hg hst hh

theorem exec_teardown_ends : exec (.teardown c) s
    = .next (s.finishTeardown k ((s.tearing.find? (·.ctx == c)).getD (k.tearingOf s.evseq))) := by
  have hrun : k.shares.any Share.engineRuns = false := List.any_eq_false.2 fun h hm => by simp [(hh h hm).1]
  have hcomp : k.shares.any Share.completes = false := List.any_eq_false.2 fun h hm => by simp [(hh h hm).2]
  show execTeardown c s = _
  simp only [execTeardown, hk, if_pos hs, hl, hg, hst, hrun, hcomp, List.isEmpty_nil, decide_true, Bool.not_false, Bool.and_self, if_true]

theorem answers_teardown_ends (hf : s.flushLogs c = (s1, true))
    (hw : s1.receiptWaits k ((s.tearing.find? (·.ctx == c)).getD (k.tearingOf s.evseq)) = false) :
    answers (.teardown c) s fun t => (∀ e ∈ t.owners, e.2 ≠ c) ∧ t.receipts.length = s.receipts.length + 1 ∧ inCtx t c fun j =>
      j.state = 0 ∧ j.threads = [] ∧ j.placed = [] ∧ j.tokens = [] ∧ ∃ e ∈ j.events, e.kind = 8 := by
  have hflushed : s1.Agrees Ctx.num s := by
    have h := agrees_flushLogs spared_num s c
    rwa [hf] at h
  obtain ⟨i, hi, -⟩ := found_of_agrees hflushed hk
  have hnum := ctx_num hk
  obtain ⟨r, d, hfinish⟩ := finishTeardown_eq (hnum.symm ▸ hf) hw
  rw [hnum] at hfinish
  have hput := agrees_receiptPut spared_remains (s1.freed c) r
  obtain ⟨hreceipts, howners⟩ := freed_fields s1 c
  obtain ⟨j, hj, hjfree⟩ := freed_remains hi
  obtain ⟨m, hm, hmj⟩ := found_of_agrees hput hj
  obtain ⟨hthreads, hrest⟩ := remains_eq_some (hmj.trans hjfree)
  obtain ⟨hstate, hplaced, htokens⟩ : m.state = 0 ∧ m.placed = [] ∧ m.tokens = [] := by simpa using hrest
  have hout := modCtx_outside (((s1.freed c).receiptPut r).filed r) c fun k =>
    { k with events := k.events ++ [{ hostEvent 8 with data := d }] }
  have hkept : ((s1.freed c).receiptPut r).owners = (s1.freed c).owners ∧ ((s1.freed c).receiptPut r).receipts = s.receipts :=
    ⟨(congrArg State.owners hput.outside :), (congrArg State.receipts hput.outside :).trans
      (hreceipts.trans (congrArg State.receipts hflushed.outside :))⟩
  refine answers_of_exec (exec_teardown_ends hk hs hl hg hst hh) ?_
  rw [hfinish]
  refine ⟨fun e he => howners e ?_, (congrArg (fun t : State => t.receipts.length) hout :).trans ?_, _, post_ctx _ (k := m) hm,
    hstate, hthreads, hplaced, htokens, _, mem_posted .., rfl⟩
  · rw [← hkept.1]
    exact (congrArg (e ∈ State.owners ·) hout :) ▸ he
  · show (((s1.freed c).receiptPut r).receipts ++ [r]).length = _
    rw [hkept.2, List.length_append, List.length_singleton]

end

/-! ### The statement -/

/-- Settles O56: each clause by its own law above. A start is followed step by step by induction on its fuel, what its steps leave
being what its end needs. -/
theorem houseSteps : Obligations.HouseSteps :=
  ⟨fun _ _ _ _ hd hen hh hl hc hi => answers_leaseStart hd hen hh hl hc hi,
   fun _ _ _ _ hs => answers_leaseTesting_awaits hs,
   fun _ _ _ _ _ hs hds hroom hrun hneed hfree hk => by
    subst hds
    exact answers_leaseTesting_tests hs hneed hroom hrun hfree hk,
   fun _ _ _ _ hs hneed h => exec_leaseTesting_idle hs hneed h,
   fun _ _ _ _ hs hneed hclear => answers_leaseTesting_ends hs hneed hclear,
   fun _ _ _ hs hk => answers_leaseVerdict_over hs hk,
   fun _ _ _ hs hf hr hd hlow => answers_leaseVerdict_passes hs hf hr hd hlow,
   fun _ _ _ hs => answers_leaseReturn hs,
   fun _ _ _ hu hk h hw => answers_withdrawal hu hk h hw,
   fun _ _ _ _ _ hw he h => answers_retirement_ends hw he h,
   fun _ _ _ hu hk h hw => answers_laneRetired hu hk h hw,
   answers_escalatingError,
   answers_l2WritebackTimeout,
   fun _ h => answers_warmReset h,
   fun _ _ _ _ hw hs h1 => answers_warmStart hw hs h1,
   answers_coldStart,
   fun _ _ _ hk hs hc hh => answers_teardown_begins hk hs hc hh,
   fun _ _ _ _ hk hs hl hg hst hh hf hw => answers_teardown_ends hk hs hl hg hst hh hf hw,
   fun _ s hp => answers_patrolScrub s hp,
   answers_orderlyPowerDown⟩

end Sys2Proof.Machine
end

section
/-! PROOFS. Decoding and encoding undo each other, and what is no instruction is refused: `Obligations.EncodingsRoundTrip`,
`Obligations.DecodingLosesNothing`, `Obligations.ReservedWordsRefused` and `Obligations.WordsOfTheSpec`. -/

namespace Sys2Proof

/-! ### A word put together again from its fields -/

theorem ofBit_bit (w : BitVec 32) (i : Nat) : ofBit (bit w i) = w.extractLsb' i 1 := by
  ext j hj
  obtain rfl : j = 0 := by omega
  simp [ofBit, bit]

theorem formL_dec_enc (l : FormL) : FormL.mk l.word = l := rfl

@[simp] theorem formG_enc_dec (w : BitVec 32) : (FormG.dec w).enc = w := by
  simp only [FormG.enc, FormG.dec, ofBit_bit]
  iterate 5 rw [BitVec.extractLsb'_append_extractLsb'_eq_extractLsb']
  · exact extract_all w
  all_goals rfl

@[simp] theorem formM_enc_dec (w : BitVec 32) : (FormM.dec w).enc = w := by
  simp only [FormM.enc, FormM.dec, ofBit_bit]
  iterate 6 rw [BitVec.extractLsb'_append_extractLsb'_eq_extractLsb']
  · exact extract_all w
  all_goals rfl

@[simp] theorem formX_enc_dec (w : BitVec 32) : (FormX.dec w).enc = w := by
  simp only [FormX.enc, FormX.dec, ofBit_bit]
  iterate 8 rw [BitVec.extractLsb'_append_extractLsb'_eq_extractLsb']
  · exact extract_all w
  all_goals rfl

@[simp] theorem formS_enc_dec (w : BitVec 32) : (FormS.dec w).enc = w := by
  simp only [FormS.enc, FormS.dec, ofBit_bit]
  iterate 5 rw [BitVec.extractLsb'_append_extractLsb'_eq_extractLsb']
  · exact extract_all w
  all_goals rfl

/-- A template without a reserved tag action, under its own opcode (R265, R267, R268). -/
theorem tmpl_enc_dec {w : BitVec 32} {t : Tmpl} (h : Tmpl.dec w = some t) : t.enc (w.extractLsb' 24 8) = w := by
  obtain ⟨a, ha, rfl⟩ := Option.map_eq_some_iff.1 h
  simp only [Tmpl.enc, sel_enc_dec, tagAction_enc_dec ha]
  iterate 5 rw [BitVec.extractLsb'_append_extractLsb'_eq_extractLsb']
  · exact extract_all w
  all_goals rfl

theorem xArg_enc_dec {tmpl side : BitVec 32} {xa : XArg} (h : XArg.dec tmpl side = some xa) :
    xa.t.enc 0x0F#8 = tmpl ∧ xa.l.word = side := by
  unfold XArg.dec at h
  split at h
  case isTrue hop =>
    obtain ⟨t, ht, rfl⟩ := Option.map_eq_some_iff.1 h
    exact ⟨hop ▸ tmpl_enc_dec ht, rfl⟩
  case isFalse => cases h

/-! ### What `decode` answers -/

theorem decode_of_unknown {w : Words} (h : knownOpcode (w.tmpl.extractLsb' 24 8) = false) : decode w = .error .illegalOpcode := by
  simp [decode, h]

theorem decode_of_noTmpl {w : Words} (h : knownOpcode (w.tmpl.extractLsb' 24 8) = true) (ht : Tmpl.dec w.tmpl = none) :
    decode w = .error .illegalTagAction := by
  simp [decode, h, ht]

theorem decode_of_tmpl {w : Words} {t : Tmpl} (h : knownOpcode (w.tmpl.extractLsb' 24 8) = true) (ht : Tmpl.dec w.tmpl = some t) :
    decode w = decodeOp (w.tmpl.extractLsb' 24 8) t w.side (XArg.dec w.xtmpl w.xside) := by
  simp [decode, h, ht]

/-- Words that are an instruction have a known opcode and a template, and are what the opcode map makes of them. -/
theorem decodeOp_of_decode {w : Words} {i : Instr} (h : decode w = .ok i) : ∃ t, Tmpl.dec w.tmpl = some t ∧
    decodeOp (w.tmpl.extractLsb' 24 8) t w.side (XArg.dec w.xtmpl w.xside) = .ok i := by
  cases hk : knownOpcode (w.tmpl.extractLsb' 24 8) with
  | false => rw [decode_of_unknown hk] at h; cases h
  | true =>
    cases ht : Tmpl.dec w.tmpl with
    | none => rw [decode_of_noTmpl hk ht] at h; cases h
    | some t => exact ⟨t, rfl, decode_of_tmpl hk ht ▸ h⟩

/-! ### Decoding what was encoded -/

theorem decode_enc {op : BitVec 8} (hop : knownOpcode op = true) (t : Tmpl) (side xtmpl xside : BitVec 32) :
    decode ⟨t.enc op, side, xtmpl, xside⟩ = decodeOp op t side (XArg.dec xtmpl xside) :=
  (decode_of_tmpl (w := ⟨t.enc op, side, xtmpl, xside⟩) (by rwa [tmpl_enc_opcode]) (tmpl_dec_enc t op)).trans
    (by rw [tmpl_enc_opcode])

/-- An opcode that the map gives an instruction with the fields of one form of side word: its words give the instruction back,
whatever stands in the slot after it. -/
theorem decode_enc_plain {F : Type} {dec : BitVec 32 → F} {enc : F → BitVec 32} {op : BitVec 8} {mk : Tmpl → F → Instr}
    (hf : ∀ f, dec (enc f) = f) (hop : knownOpcode op = true) (hmk : ∀ t side x, decodeOp op t side x = .ok (mk t (dec side)))
    (t : Tmpl) (f : F) (xtmpl xside : BitVec 32) : decode ⟨t.enc op, enc f, xtmpl, xside⟩ = .ok (mk t f) := by
  rw [decode_enc hop, hmk, hf]

/-- So do the words of a three-input instruction, with its XARG slot after it (R269). -/
theorem decode_enc_xarg {F : Type} {dec : BitVec 32 → F} {enc : F → BitVec 32} {op : BitVec 8} {mk : Tmpl → F → XArg → Instr}
    (hf : ∀ f, dec (enc f) = f) (hop : knownOpcode op = true)
    (hmk : ∀ t side xa, decodeOp op t side (some xa) = .ok (mk t (dec side) xa)) (t : Tmpl) (f : F) (xa : XArg) :
    decode ⟨t.enc op, enc f, xa.t.enc 0x0F#8, xa.l.word⟩ = .ok (mk t f xa) := by
  rw [decode_enc hop, xArg_dec_enc, hmk, hf]

/-- Settles O1: the instructions of each form by that form's own round trip; the steps of the machine have no words. -/
theorem encodingsRoundTrip : Obligations.EncodingsRoundTrip := by
  intro i w h
  cases i with
  | mov t l | steer t l | filter t l | gate t l | sink t l | wadv t l | wset t l | wrd t l | trd t l | tnew t l | tend t l
  | seqt t l | call t l | ret t l | bjump t l =>
    cases h; exact decode_enc_plain formL_dec_enc rfl (fun _ _ _ => rfl) ..
  | sel t l xa | fork t l xa =>
    cases h; exact decode_enc_xarg formL_dec_enc rfl (fun _ _ _ => rfl) ..
  | switch t f =>
    cases h; exact decode_enc_plain formS_dec_enc rfl (fun _ _ _ => rfl) ..
  | trap t g | add t g | sub t g | mul t g | mulh t g | mulhn t g | div t g | divn t g | rem t g | remn t g | neg t g
  | abs t g | min t g | max t g | minn t g | maxn t g | addsat t g | subsat t g | and t g | or t g | xor t g | andn t g
  | not t g | shl t g | shr t g | sra t g | rot t g | clz t g | ctz t g | popc t g | brev t g | bfx t g | sext t g | zext t g
  | lea t g | cmp t g | vadd t g | vsub t g | vmul t g | vdiv t g | vsqrt t g | vrsqe t g | vrcpe t g | vexpe t g | vloge t g
  | vmin t g | vmax t g | vabs t g | vneg t g | vcpys t g | vcmp t g | vclass t g | vround t g | vcvt t g | vcvti t g
  | vcvtf t g | vscale t g | vdot t g | vhadd t g | vhmax t g | vhmin t g | vshuf t g | vbcast t g | vpack t g | vunpk t g
  | viadd t g | visub t g | vimul t g | vimin t g | vimax t g | viabs t g | vshl t g | vshr t g | vsra t g | vnarrow t g
  | vquant t g | vdeq t g | vred t g | steal t g | cfgreq t g | dswitch t g | dfence t g | ipin t g | iunpin t g | yield t g
  | ctxst t g | cntrd t g | enrd t g | susrd t g | logrd t g | syscall t g | brk t g | migrq t g | leaseq t g | fresume t g
  | fabort t g =>
    cases h; exact decode_enc_plain formG_dec_enc rfl (fun _ _ _ => rfl) ..
  | mad t g xa | clamp t g xa | bfi t g xa | vfma t g xa | vfms t g xa | vfnma t g xa | vfnms t g xa | vsel t g xa =>
    cases h; exact decode_enc_xarg formG_dec_enc rfl (fun _ _ _ => rfl) ..
  | ld t m | st t m | ldc t m | stf t m | ldi t m | sti t m | mnop t m | pref t m | atadd t m | atand t m | ator t m
  | atxor t m | atmin t m | atmax t m | atminn t m | atmaxn t m | atxchg t m | redadd t m | redmin t m | redmax t m
  | redfadd t m | fence t m | own t m | feq t m | feset t m | clean t m | flush t m | invl t m | launch t m | lstat t m
  | lbar t m | pqput t m | pqget t m | rtget t m | rtdone t m | qput t m | qget t m | qbind t m | qunbind t m | iqput t m
  | iqget t m | iqlook t m | iqcons t m | iqadv t m | iqquiet t m | capget t m | joinw t m | dput t m | dget t m | logset t m
  | keyset t m | pattr t m | xlinv t m =>
    cases h; exact decode_enc_plain formM_dec_enc rfl (fun _ _ _ => rfl) ..
  | atcas t m xa =>
    cases h; exact decode_enc_xarg formM_dec_enc rfl (fun _ _ _ => rfl) ..
  | wload t x | mma t x | mmasp t x | acccfg t x | accrd t x | accspl t x | accrst t x | scacc t x | scaccv t x | rinit t x
  | rstat t x | radv t x | cpy t x | cpy2d t x | gath t x | scat t x | coll t x | ecan t x | strcfg t x | strgo t x
  | strstop t x | sqcfg t x | sqgo t x | chwire t x | chset t x | chpulse t x =>
    cases h; exact decode_enc_plain formX_dec_enc rfl (fun _ _ _ => rfl) ..
  | _ => cases h

/-- Settles O3: each of the words is what its instruction encodes to. -/
theorem wordsOfTheSpec : Obligations.WordsOfTheSpec :=
  ⟨encodingsRoundTrip _ _ rfl, encodingsRoundTrip _ _ rfl, encodingsRoundTrip _ _ rfl, encodingsRoundTrip _ _ rfl,
   encodingsRoundTrip _ _ rfl, encodingsRoundTrip _ _ rfl, encodingsRoundTrip _ _ rfl, encodingsRoundTrip _ _ rfl⟩

/-! ### Encoding what was decoded -/

/-- The opcodes of R269, which take their third operand from an XARG slot, are all known. -/
theorem known_of_threeInput {op : BitVec 8} (h : threeInput op.toNat = true) : knownOpcode op = true := by
  revert op; decide

/-- Without its XARG slot a three-input instruction is none; with it, it encodes to what it was decoded from (R269). -/
theorem decodeOp_of_threeInput {op : BitVec 8} (h : threeInput op.toNat = true) (t : Tmpl) (side : BitVec 32) :
    decodeOp op t side none = .error .xargMissing ∧ ∀ xa, ∃ i v, decodeOp op t side (some xa) = .ok i ∧ encode i = some v
      ∧ v.tmpl = t.enc op ∧ v.side = side ∧ v.xtmpl = xa.t.enc 0x0F#8 ∧ v.xside = xa.l.word := by
  obtain ⟨n, hn⟩ := op
  replace h : n ∈ [0x06, 0x07, 0x1D, 0x2A, 0x39, 0x43, 0x44, 0x45, 0x46, 0x53, 0x81] := List.contains_iff_mem.1 h
  simp only [List.mem_cons, List.not_mem_nil, or_false] at h
  rcases h with rfl | rfl | rfl | rfl | rfl | rfl | rfl | rfl | rfl | rfl | rfl
  all_goals exact ⟨rfl, fun xa => ⟨_, _, rfl, rfl, rfl, by simp, rfl, rfl⟩⟩

/-- Every other opcode's instruction encodes to the template and the side word it was decoded from. -/
theorem encode_of_decodeOp {op : BitVec 8} {t : Tmpl} {side : BitVec 32} {x : Option XArg} {i : Instr}
    (h3 : threeInput op.toNat = false) (h : decodeOp op t side x = .ok i) :
    ∃ v, encode i = some v ∧ v.tmpl = t.enc op ∧ v.side = side := by
  obtain ⟨n, hn⟩ := op
  have hlt : n < 256 := hn
  interval_cases n <;> cases h3 <;> cases h
  all_goals exact ⟨_, rfl, rfl, by simp⟩

/-- Settles O2: the template's fields and the side word's are put together again, and those of the XARG slot where one belongs to
the instruction. -/
theorem decodingLosesNothing : Obligations.DecodingLosesNothing := by
  intro w i h
  obtain ⟨t, ht, hop⟩ := decodeOp_of_decode h
  cases h3 : threeInput (w.tmpl.extractLsb' 24 8).toNat with
  | false =>
    obtain ⟨v, hv, hvt, hvs⟩ := encode_of_decodeOp h3 hop
    exact ⟨v, hv, hvt.trans (tmpl_enc_dec ht), hvs, nofun⟩
  | true =>
    obtain ⟨hnone, hsome⟩ := decodeOp_of_threeInput h3 t w.side
    cases hx : XArg.dec w.xtmpl w.xside with
    | none => rw [hx, hnone] at hop; cases hop
    | some xa =>
      obtain ⟨j, v, hj, hv, hvt, hvs, hvx, hvxs⟩ := hsome xa
      obtain rfl : j = i := Except.ok.inj (hj.symm.trans (hx ▸ hop))
      obtain ⟨hxt, hxs⟩ := xArg_enc_dec hx
      exact ⟨v, hv, hvt.trans (tmpl_enc_dec ht), hvs, fun _ => ⟨hvx.trans hxt, hvxs.trans hxs⟩⟩

/-! ### Words that are no instruction -/

/-- The codes from 0xB on are reserved (R267). -/
theorem tagAction_dec_eq_none {b : BitVec 4} : TagAction.dec b = none ↔ 11 ≤ b.toNat := by
  revert b; decide

theorem tmpl_dec_eq_none {w : BitVec 32} : Tmpl.dec w = none ↔ 11 ≤ (w.extractLsb' 20 4).toNat := by
  rw [Tmpl.dec, Option.map_eq_none_iff, tagAction_dec_eq_none]

theorem xArg_dec_of_otherOpcode {tmpl : BitVec 32} (side : BitVec 32) (h : tmpl.extractLsb' 24 8 ≠ 0x0F#8) :
    XArg.dec tmpl side = none := if_neg h

/-- Settles O4: a reserved tag action leaves no template, and an XARG slot of another opcode is none. -/
theorem reservedWordsRefused : Obligations.ReservedWordsRefused := by
  refine ⟨?tagAction, fun w h => decode_of_unknown h, ?xarg⟩
  case tagAction =>
    intro w h
    cases hk : knownOpcode (w.tmpl.extractLsb' 24 8) with
    | false => exact ⟨_, decode_of_unknown hk⟩
    | true => exact ⟨_, decode_of_noTmpl hk (tmpl_dec_eq_none.2 h)⟩
  case xarg =>
    intro w hact h3 hx
    have ht : Tmpl.dec w.tmpl ≠ none := fun ht => absurd (tmpl_dec_eq_none.1 ht) (by omega)
    obtain ⟨t, ht⟩ := Option.ne_none_iff_exists'.1 ht
    rw [decode_of_tmpl (known_of_threeInput h3) ht, xArg_dec_of_otherOpcode w.xside hx]
    exact (decodeOp_of_threeInput h3 t w.side).1

end Sys2Proof
end

section
/-! PROOFS. What may stop a run: `Obligations.OnlyIllegalSlotsStop`. -/

namespace Sys2Proof.Machine

/-- The meaning of every instruction, encoded or a step of the machine, ends in a next state. -/
theorem exec_eq_next (i : Instr) (s : State) : ∃ t, exec i s = .next t := by
  cases i <;> exact ⟨_, rfl⟩

/-- A firing at a site where no instruction stands passes without effect. -/
theorem step_of_noWords {s : State} {a : Site} {u : Upset} {late : List Site} (hc : s.choice = .fire a u late)
    (hw : s.begun.siteWords a = none) : step s = .next s.begun := by
  unfold step
  rw [hc]
  simp only [hw, ite_self]

theorem step_of_illegalSlot {s : State} {a : Site} {u : Upset} {late : List Site} {w : Words} {e : DecodeErr}
    (hc : s.choice = .fire a u late) (ha : s.admits s.choice = true) (hw : s.begun.siteWords a = some w)
    (he : decode w = .error e) : step s = .fault (.illegalSlot e) := by
  unfold step
  rw [ha, hc]
  simp only [Bool.not_true, Bool.false_eq_true, if_false, hw, he]

/-- What a step comes to: a next state, or the fault of a slot it names whose words are no instruction. -/
theorem step_cases (s : State) : (∃ t, step s = .next t) ∨ ∃ a u late w e, s.choice = .fire a u late
    ∧ s.begun.siteWords a = some w ∧ decode w = .error e ∧ step s = .fault (.illegalSlot e) := by
  cases ha : s.admits s.choice with
  | false => exact .inl ⟨_, step_of_not_admitted ha⟩
  | true =>
    cases hc : s.choice with
    | event i =>
      cases hi : i.opcode with
      | some op => exact .inl ⟨_, step_of_encoded_event hc (by rw [hi]; rfl)⟩
      | none => exact .inl (step_of_event hc hi ha ▸ exec_eq_next i _)
    | fire a u late =>
      cases hw : s.begun.siteWords a with
      | none => exact .inl ⟨_, step_of_noWords hc hw⟩
      | some w =>
        cases hd : decode w with
        | ok i => exact .inl (step_of_fire hc ha hw hd ▸ exec_eq_next i _)
        | error e => exact .inr ⟨a, u, late, w, e, rfl, hw, hd, step_of_illegalSlot hc ha hw hd⟩

/-- Settles O5: a step ends in a meaning's next state, in the state it was begun in, or at an illegal slot. -/
theorem onlyIllegalSlotsStop : Obligations.OnlyIllegalSlotsStop := by
  refine ⟨exec_eq_next, ?faults, ?refusals⟩
  case faults =>
    intro s f hf
    obtain ⟨t, ht⟩ | ⟨a, u, late, w, e, hc, hw, hd, he⟩ := step_cases s
    · cases ht.symm.trans hf
    · cases he.symm.trans hf
      exact ⟨a, u, late, w, e, hc, hw, hd, rfl⟩
  case refusals =>
    intro s r hr
    obtain ⟨t, ht⟩ | ⟨_, _, _, _, _, _, _, _, he⟩ := step_cases s
    · cases ht.symm.trans hr
    · cases he.symm.trans hr

end Sys2Proof.Machine
end

section
/-! PROOFS. What an encoded instruction does, from what it asks of `State.fire`: the steering group, the switch, the transfers by
address, the trap and the instructions of threads (11 R288 to R303). -/

namespace Sys2Proof.Machine

/-! ### From the effect of a firing to what the instruction does -/

/-- An instruction whose firing acts wherever `ok` holds completes there (R284). -/
theorem completes_of_act {i : Instr} {t : Tmpl} {xa : Option XArg} {takesB : Bool} {l : Lits} {ok : State → Fire → Prop}
    {es : State → Fire → List Em} {flags : Fire → BitVec 5} {g : Fire → Ctx → Ctx} {sem : State → Fire → Sem}
    (hx : ∀ s, exec i s = .next (s.fire t xa takesB l (sem s)))
    (ha : ∀ s f, ok s f → sem s f = .act (es s f) (flags f) (g f)) : completes i t xa takesB l ok es flags g := by
  intro s f hf hok ho
  rw [hx, fire_acts hf (ha s f hok) ho]

/-- An instruction whose firing raises a precise fault wherever `ok` holds faults there (R286). -/
theorem faults_of_raise {i : Instr} {t : Tmpl} {xa : Option XArg} {takesB : Bool} {l : Lits} {ok : State → Fire → Prop}
    {c : BitVec 8} {detail : Fire → BitVec 24} {faddr : Fire → BitVec 64} {sem : State → Fire → Sem}
    (hx : ∀ s, exec i s = .next (s.fire t xa takesB l (sem s)))
    (hr : ∀ s f, ok s f → sem s f = .raise c (detail f) (faddr f)) : faults i t xa takesB l ok c 0 detail faddr := by
  intro s f hf hok
  rw [hx, fire_raises hf (hr s f hok)]

/-- So does one whose firing is refused by its probe, with ORIGIN 2 (R286). -/
theorem faults_of_probe {i : Instr} {t : Tmpl} {xa : Option XArg} {takesB : Bool} {l : Lits} {ok : State → Fire → Prop}
    {c : BitVec 8} {detail : Fire → BitVec 24} {faddr : Fire → BitVec 64} {sem : State → Fire → Sem}
    (hx : ∀ s, exec i s = .next (s.fire t xa takesB l (sem s)))
    (hr : ∀ s f, ok s f → sem s f = .probe c (detail f) (faddr f)) : faults i t xa takesB l ok c 2 detail faddr := by
  intro s f hf hok
  rw [hx, fire_probes hf (hr s f hok)]

/-- A predicate is true when its bits 63:0 are not zero (R24). -/
theorem pred_of_ne {v : Value} (h : lo64 v ≠ 0) : pred v = true := bne_iff_ne.2 h

theorem not_pred_of_eq {v : Value} (h : lo64 v = 0) : ¬ pred v = true := fun hp => bne_iff_ne.1 hp h

/-! ### Steering (R288) -/

/-- Settles O15: each instruction by its one effect, or by its predicate's two. -/
theorem steeringResults : Obligations.SteeringResults := by
  unfold Obligations.SteeringResults
  refine ⟨?mov, ?gate, ?fork, ?steerTrue, ?steerFalse, ?filterTrue, ?filterFalse, ?selTrue, ?selFalse, ?sink⟩
  case mov => exact fun _ _ => completes_of_act (fun _ => rfl) fun _ _ _ => rfl
  case gate => exact fun _ _ => completes_of_act (fun _ => rfl) fun _ _ _ => rfl
  case fork => exact fun _ _ _ => completes_of_act (fun _ => rfl) fun _ _ _ => rfl
  case steerTrue => exact fun _ _ => completes_of_act (fun _ => rfl) fun _ _ h => by rw [if_pos (pred_of_ne h)]
  case steerFalse => exact fun _ _ => completes_of_act (fun _ => rfl) fun _ _ h => by rw [if_neg (not_pred_of_eq h)]
  case filterTrue => exact fun _ _ => completes_of_act (fun _ => rfl) fun _ _ h => by rw [if_pos (pred_of_ne h)]
  case filterFalse => exact fun _ _ => completes_of_act (fun _ => rfl) fun _ _ h => by rw [if_neg (not_pred_of_eq h)]
  case selTrue => exact fun _ _ _ => completes_of_act (fun _ => rfl) fun _ _ h => by rw [if_pos (pred_of_ne h)]
  case selFalse => exact fun _ _ _ => completes_of_act (fun _ => rfl) fun _ _ h => by rw [if_neg (not_pred_of_eq h)]
  case sink => exact fun _ _ => completes_of_act (fun _ => rfl) fun _ _ _ => rfl

/-! ### The switch (R298) and the trap (R303) -/

theorem switchPort_below {m : FormS} {a : BitVec 64} (h : a.toNat < m.len.toNat) :
    switchPort m a = some (m.base.toNat + a.toNat) := if_pos h

theorem switchPort_beyond {m : FormS} {a : BitVec 64} (h : m.len.toNat ≤ a.toNat) :
    switchPort m a = if m.deflt then some m.defport.toNat else none := if_neg (Nat.not_lt.2 h)

/-- Settles O17: SWITCH's port, by its index and DEF. -/
theorem switchRoutes : Obligations.SwitchRoutes := by
  unfold Obligations.SwitchRoutes
  refine ⟨?below, ?default, ?beyond⟩
  case below => exact fun _ _ => completes_of_act (fun _ => rfl) fun _ _ h => by rw [switchPort_below h]
  case default => exact fun _ _ => completes_of_act (fun _ => rfl) fun _ _ ⟨h, hd⟩ => by rw [switchPort_beyond h, if_pos hd]
  case beyond => exact fun _ _ => faults_of_raise (fun _ => rfl) fun _ _ ⟨h, hd⟩ => by rw [switchPort_beyond h, hd]; rfl

/-- Settles O19: TRAP by its predicate. -/
theorem trapResults : Obligations.TrapResults := by
  unfold Obligations.TrapResults
  refine ⟨?passes, ?raises⟩
  case passes => exact fun _ _ => completes_of_act (fun _ => rfl) fun _ _ h => by rw [if_neg (not_pred_of_eq h)]
  case raises => exact fun _ _ => faults_of_raise (fun _ => rfl) fun _ _ h => by rw [if_pos (pred_of_ne h)]

/-! ### Transfers by address (R299 to R302) -/

section
variable {s : State} {f : Fire} {addr named : BitVec 64} {port : Nat} {es : List Em}

theorem transfer_to_block (hw : s.launchImageWaits f.k f.x.ln = false) (hb : s.blockTarget f.k f.x.ln addr port = .ok true) :
    transfer s f addr named port es = .act es 0 id := by
  rw [transfer, hw, hb]; rfl

theorem transfer_to_none (hw : s.launchImageWaits f.k f.x.ln = false) (hb : s.blockTarget f.k f.x.ln addr port = .ok false) :
    transfer s f addr named port es = .raise 0x04 0 named := by
  rw [transfer, hw, hb]; rfl

end

/-- Settles O18: each transfer by whether its address names a block; a return word's high bits are tested before. -/
theorem transfersByAddress : Obligations.TransfersByAddress := by
  unfold Obligations.TransfersByAddress
  have word {r : BitVec 72} {x y : Sem} (h : r = 0) : (if (r != 0) = true then x else y) = y := if_neg (by simp [h])
  refine ⟨?bjump, ?call, ?ret, ?bjumpNone, ?callNone, ?retHigh, ?retNone⟩
  case bjump => exact fun _ _ => completes_of_act (fun _ => rfl) fun _ _ ⟨hw, hb⟩ => transfer_to_block hw hb
  case call => exact fun _ _ => completes_of_act (fun _ => rfl) fun _ _ ⟨hw, hb⟩ => transfer_to_block hw hb
  case ret =>
    exact fun _ _ => completes_of_act (fun _ => rfl) fun _ _ ⟨hz, hw, hb⟩ => (word hz).trans (transfer_to_block hw hb)
  case bjumpNone => exact fun _ _ => faults_of_raise (fun _ => rfl) fun _ _ ⟨hw, hb⟩ => transfer_to_none hw hb
  case callNone => exact fun _ _ => faults_of_raise (fun _ => rfl) fun _ _ ⟨hw, hb⟩ => transfer_to_none hw hb
  case retHigh => exact fun _ _ => faults_of_raise (fun _ => rfl) fun _ _ h => if_pos (bne_iff_ne.2 h)
  case retNone =>
    exact fun _ _ => faults_of_raise (fun _ => rfl) fun _ _ ⟨hz, hw, hb⟩ => (word hz).trans (transfer_to_none hw hb)

/-! ### Threads (R293 to R295) -/

/-- The change TEND makes at its firing: STATE 3, and its wave marked as the thread's end (R295). -/
def Fire.endThread (f : Fire) (k : Ctx) : Ctx :=
  (k.modTh f.x.num fun x => { x with state := 3 }).modWv f.x.num f.live fun v => { v with tend := true }

theorem exec_tend (t : Tmpl) (l : FormL) (s : State) :
    exec (.tend t l) s = .next (s.fire t none false (litL l) fun f => .act [] 0 f.endThread) := rfl

/-- What that change leaves of the thread: ended, and its wave marked. -/
theorem th_endThread (f : Fire) {k : Ctx} {x : Thread} (h : k.th f.x.num = some x) :
    (f.endThread k).th f.x.num
      = some (({ x with state := 3 } : Thread).modWv f.live fun v => { v with tend := true }) := by
  unfold Fire.endThread Ctx.modWv
  rw [th_modTh _ _ (f := fun x => x.modWv f.live _) fun _ => rfl, th_modTh _ _ (f := fun x => { x with state := 3 }) fun _ => rfl, h]
  rfl

theorem opens_nil (f : Fire) : f.opens [] := ⟨rfl, .inr rfl⟩

/-- Settles O20: TNEW by its probe, TEND by the change it makes. -/
theorem threadInstructionsAreHeld : Obligations.ThreadInstructionsAreHeld := by
  unfold Obligations.ThreadInstructionsAreHeld
  refine ⟨?held, ?refused, ?ends⟩
  case held => exact fun t l => completes_of_act (fun _ => rfl) fun s f ⟨hw, he⟩ => by rw [hw, he]; rfl
  case refused => exact fun t l c d => faults_of_probe (fun _ => rfl) fun s f ⟨hw, he⟩ => by rw [hw, he]; rfl
  case ends =>
    intro t l s f hf
    refine ⟨f.endThread, by rw [exec_tend, fire_acts hf rfl (opens_nil f)], fun k x hx => ⟨_, th_endThread f hx, rfl, ?_⟩⟩
    intro v hv
    rw [wv_modWv { x with state := 3 } f.live (f := fun v => { v with tend := true }) fun _ => rfl]
    exact congrArg (Option.map _) hv

end Sys2Proof.Machine
end

section
/-! PROOFS. What the integer instructions compute, by exact arithmetic and bit by bit (11 R304 to R315). -/

namespace Sys2Proof.Machine

/-! ### The shapes of the group (R304) -/

/-- An instruction whose firing computes a value, and no flag, computes it (R285). -/
theorem computes_of_result {i : Instr} {t : Tmpl} {xa : Option XArg} {takesB : Bool} {l : Lits} {v : Fire → Value}
    (h : ∀ s, exec i s = .next (s.fire t xa takesB l fun f => f.result (v f))) : computes i t xa takesB l v :=
  completes_of_result (op := fun f => (v f, 0)) h

theorem computesOne_of_exec {mk : Tmpl → FormG → Instr} {op : BitVec 64 → BitVec 64} {law : FormG → BitVec 64 → BitVec 64}
    (hx : ∀ t g s, exec (mk t g) s = intOne t g op s) (hl : ∀ g a, op a = law g a) : computesOne mk law := by
  intro t g
  simp only [← hl]
  exact computes_of_result (hx t g)

theorem computesTwo_of_exec {mk : Tmpl → FormG → Instr} {op law : FormG → BitVec 64 → BitVec 64 → BitVec 64}
    (hx : ∀ t g s, exec (mk t g) s = intTwo t g (op g) s) (hl : ∀ g a b, op g a b = law g a b) : computesTwo mk law := by
  intro t g
  simp only [← hl]
  exact computes_of_result (hx t g)

theorem computesThree_of_exec {mk : Tmpl → FormG → XArg → Instr} {op law : BitVec 64 → BitVec 64 → BitVec 64 → BitVec 64}
    (hx : ∀ t g xa s, exec (mk t g xa) s = intThree t g xa op s) (hl : ∀ a b c, op a b c = law a b c) :
    computesThree mk law := by
  intro t g xa
  simp only [← hl]
  exact computes_of_result (hx t g xa)

/-! ### Sums and selections (R305) -/

theorem intMin_eq (a b : BitVec 64) : intMin a b = BitVec.ofInt 64 (min a.toInt b.toInt) := by
  unfold intMin
  split
  · rw [min_eq_right (by omega), BitVec.ofInt_toInt]
  · rw [min_eq_left (by omega), BitVec.ofInt_toInt]

theorem intMax_eq (a b : BitVec 64) : intMax a b = BitVec.ofInt 64 (max a.toInt b.toInt) := by
  unfold intMax
  split
  · rw [max_eq_right (by omega), BitVec.ofInt_toInt]
  · rw [max_eq_left (by omega), BitVec.ofInt_toInt]

theorem toInt_intMax (a b : BitVec 64) : (intMax a b).toInt = max a.toInt b.toInt := by
  unfold intMax
  split <;> omega

theorem intMinn_eq (a b : BitVec 64) : intMinn a b = BitVec.ofNat 64 (min a.toNat b.toNat) := by
  unfold intMinn
  split
  · rw [min_eq_right (by omega), BitVec.ofNat_toNat, BitVec.setWidth_eq]
  · rw [min_eq_left (by omega), BitVec.ofNat_toNat, BitVec.setWidth_eq]

theorem intMaxn_eq (a b : BitVec 64) : intMaxn a b = BitVec.ofNat 64 (max a.toNat b.toNat) := by
  unfold intMaxn
  split
  · rw [max_eq_right (by omega), BitVec.ofNat_toNat, BitVec.setWidth_eq]
  · rw [max_eq_left (by omega), BitVec.ofNat_toNat, BitVec.setWidth_eq]

/-- Settles O21: the sums as they stand, and each selection by the value it selects. -/
theorem integerArithmetic : Obligations.IntegerArithmetic := by
  unfold Obligations.IntegerArithmetic
  refine ⟨?add, ?sub, ?neg, ?min, ?max, ?minn, ?maxn⟩
  case add => exact computesTwo_of_exec (op := fun _ a b => a + b) (fun _ _ _ => rfl) fun _ _ _ => rfl
  case sub => exact computesTwo_of_exec (op := fun _ a b => a - b) (fun _ _ _ => rfl) fun _ _ _ => rfl
  case neg => exact computesOne_of_exec (op := (0 - ·)) (fun _ _ _ => rfl) fun _ _ => rfl
  case min => exact computesTwo_of_exec (fun _ _ _ => rfl) fun _ => intMin_eq
  case max => exact computesTwo_of_exec (fun _ _ _ => rfl) fun _ => intMax_eq
  case minn => exact computesTwo_of_exec (fun _ _ _ => rfl) fun _ => intMinn_eq
  case maxn => exact computesTwo_of_exec (fun _ _ _ => rfl) fun _ => intMaxn_eq

/-! ### Products (R306) -/

/-- The high half of an exact signed product, from its 128 bits. -/
theorem intMulh_eq (a b : BitVec 64) : intMulh a b = (a.signExtend 128 * b.signExtend 128).extractLsb' 64 64 := by
  have hp : a.signExtend 128 * b.signExtend 128 = BitVec.ofInt 128 (a.toInt * b.toInt) := by
    rw [BitVec.ofInt_mul]; rfl
  apply BitVec.eq_of_toNat_eq
  rw [hp, intMulh, BitVec.extractLsb'_toNat, BitVec.toNat_ofInt, BitVec.toNat_ofInt, Nat.shiftRight_eq_div_pow]
  generalize a.toInt * b.toInt = p
  omega

theorem intMulhn_eq (a b : BitVec 64) : intMulhn a b = (a.zeroExtend 128 * b.zeroExtend 128).extractLsb' 64 64 := by
  apply BitVec.eq_of_toNat_eq
  have ha : (a.zeroExtend 128).toNat = a.toNat := BitVec.toNat_setWidth_of_le (by omega)
  have hb : (b.zeroExtend 128).toNat = b.toNat := BitVec.toNat_setWidth_of_le (by omega)
  rw [intMulhn, BitVec.extractLsb'_toNat, BitVec.toNat_mul, ha, hb, BitVec.toNat_ofNat, Nat.shiftRight_eq_div_pow]
  generalize a.toNat * b.toNat = p
  omega

theorem mul_eq_ofInt (a b : BitVec 64) : a * b = BitVec.ofInt 64 (a.toInt * b.toInt) := by
  rw [BitVec.ofInt_mul, BitVec.ofInt_toInt, BitVec.ofInt_toInt]

theorem mul_eq_ofNat (a b : BitVec 64) : a * b = BitVec.ofNat 64 (a.toNat * b.toNat) :=
  BitVec.eq_of_toNat_eq (by rw [BitVec.toNat_mul, BitVec.toNat_ofNat])

theorem mul_add_eq_ofInt (a b c : BitVec 64) : a * b + c = BitVec.ofInt 64 (a.toInt * b.toInt + c.toInt) := by
  rw [BitVec.ofInt_add, ← mul_eq_ofInt, BitVec.ofInt_toInt]

theorem mul_add_eq_ofNat (a b c : BitVec 64) : a * b + c = BitVec.ofNat 64 (a.toNat * b.toNat + c.toNat) := by
  rw [BitVec.ofNat_add, ← mul_eq_ofNat, BitVec.ofNat_toNat, BitVec.setWidth_eq]

/-- Settles O22: the high halves from 128 bits, the low ones modulo 2^64 in both readings. -/
theorem integerProducts : Obligations.IntegerProducts := by
  unfold Obligations.IntegerProducts
  refine ⟨?mulh, ?mulhn, ?mulInt, ?mulNat, ?madInt, ?madNat⟩
  case mulh => exact computesTwo_of_exec (fun _ _ _ => rfl) fun _ => intMulh_eq
  case mulhn => exact computesTwo_of_exec (fun _ _ _ => rfl) fun _ => intMulhn_eq
  case mulInt => exact computesTwo_of_exec (op := fun _ a b => a * b) (fun _ _ _ => rfl) fun _ => mul_eq_ofInt
  case mulNat => exact computesTwo_of_exec (op := fun _ a b => a * b) (fun _ _ _ => rfl) fun _ => mul_eq_ofNat
  case madInt => exact computesThree_of_exec (op := fun a b c => a * b + c) (fun _ _ _ _ => rfl) mul_add_eq_ofInt
  case madNat => exact computesThree_of_exec (op := fun a b c => a * b + c) (fun _ _ _ _ => rfl) mul_add_eq_ofNat

/-! ### Quotients and remainders (R307) -/

theorem intRem_eq_srem {a b : BitVec 64} (h : b ≠ 0) : intRem a b = a.srem b := by
  rw [intRem, if_neg h, ofExact, ← BitVec.toInt_srem, BitVec.ofInt_toInt]

/-- The dividend is the quotient times the divisor, and the remainder. -/
theorem intDiv_mul_add_intRem (a b : BitVec 64) (h : b ≠ 0) : a = intDiv a b * b + intRem a b := by
  rw [intDiv, intRem, if_neg h, if_neg h, ofExact, ofExact]
  calc a = BitVec.ofInt 64 (a.toInt.tdiv b.toInt * b.toInt + a.toInt.tmod b.toInt) := by
        rw [Int.tdiv_mul_add_tmod, BitVec.ofInt_toInt]
    _ = _ := by rw [BitVec.ofInt_add, BitVec.ofInt_mul, BitVec.ofInt_toInt]

theorem intDivn_mul_add_intRemn (a b : BitVec 64) (h : b ≠ 0) : a = intDivn a b * b + intRemn a b := by
  rw [intDivn, intRemn, if_neg h, if_neg h]
  calc a = BitVec.ofNat 64 (a.toNat / b.toNat * b.toNat + a.toNat % b.toNat) := by
        rw [Nat.div_add_mod', BitVec.ofNat_toNat, BitVec.setWidth_eq]
    _ = _ := by rw [BitVec.ofNat_add, BitVec.ofNat_mul, BitVec.ofNat_toNat, BitVec.setWidth_eq]

/-- The remainder has the dividend's sign. -/
theorem intRem_sign (a b : BitVec 64) (h : b ≠ 0) :
    (0 ≤ a.toInt → 0 ≤ (intRem a b).toInt) ∧ (a.toInt ≤ 0 → (intRem a b).toInt ≤ 0) := by
  rw [intRem_eq_srem h, BitVec.toInt_srem]
  refine ⟨Int.tmod_nonneg _, fun ha => ?_⟩
  have hneg := Int.tmod_nonneg b.toInt (neg_nonneg.2 ha)
  rw [Int.neg_tmod] at hneg
  omega

/-- Settles O23: the model's own quotients and remainders, by their laws. -/
theorem integerDivision : Obligations.IntegerDivision := by
  unfold Obligations.IntegerDivision
  refine ⟨intDiv, intRem, intDivn, intRemn, ?div, ?rem, ?divn, ?remn, ?zero, ?exact, ?corner, ?cornerRem, ?whole, intRem_sign⟩
  case div => exact computesTwo_of_exec (fun _ _ _ => rfl) fun _ _ _ => rfl
  case rem => exact computesTwo_of_exec (fun _ _ _ => rfl) fun _ _ _ => rfl
  case divn => exact computesTwo_of_exec (fun _ _ _ => rfl) fun _ _ _ => rfl
  case remn => exact computesTwo_of_exec (fun _ _ _ => rfl) fun _ _ _ => rfl
  case zero => exact fun _ => ⟨if_pos rfl, if_pos rfl, if_pos rfl, if_pos rfl⟩
  case exact => exact fun _ _ h => ⟨if_neg h, if_neg h⟩
  case corner => decide
  case cornerRem => decide
  case whole => exact fun a b h => ⟨intDiv_mul_add_intRem a b h, intDivn_mul_add_intRemn a b h⟩

/-! ### Saturation (R308) -/

theorem zero_sub_eq_ofInt (a : BitVec 64) : 0 - a = BitVec.ofInt 64 (-a.toInt) := by
  rw [BitVec.ofInt_neg, BitVec.ofInt_toInt]; exact BitVec.zero_sub a

theorem intAbs_eq (a : BitVec 64) : intAbs a = BitVec.ofInt 64 a.toInt.natAbs := by
  unfold intAbs
  split
  · rw [Int.ofNat_natAbs_of_nonpos (by omega), zero_sub_eq_ofInt]
  · rw [Int.natAbs_of_nonneg (by omega), BitVec.ofInt_toInt]

theorem intClamp_eq (a b c : BitVec 64) : intClamp a b c = BitVec.ofInt 64 (min (max a.toInt b.toInt) c.toInt) := by
  rw [intClamp, intMin_eq, toInt_intMax]

/-- Settles O24: by exact integers; the least integer is its own negative and magnitude. -/
theorem integerSaturation : Obligations.IntegerSaturation := by
  unfold Obligations.IntegerSaturation
  refine ⟨?neg, ?abs, ?addsat, ?subsat, ?clamp, ?negMin, ?absMin⟩
  case neg => exact computesOne_of_exec (op := (0 - ·)) (fun _ _ _ => rfl) fun _ => zero_sub_eq_ofInt
  case abs => exact computesOne_of_exec (fun _ _ _ => rfl) fun _ => intAbs_eq
  case addsat => exact computesTwo_of_exec (op := fun _ => intAddsat) (fun _ _ _ => rfl) fun _ _ _ => rfl
  case subsat => exact computesTwo_of_exec (op := fun _ => intSubsat) (fun _ _ _ => rfl) fun _ _ _ => rfl
  case clamp => exact computesThree_of_exec (fun _ _ _ _ => rfl) intClamp_eq
  case negMin => decide
  case absMin => decide

end Sys2Proof.Machine
end

section
/-! PROOFS. What the integer instructions compute bit by bit: bitwise results, shifts, counts, bit fields and extensions; and the
address and comparison instructions (11 R309 to R315). -/

namespace Sys2Proof.Machine

/-! ### Bitwise results (R309) -/

theorem computesWide_of_exec {mk : Tmpl → FormG → Instr} {op : Value → Value → Value}
    (hx : ∀ t g s, exec (mk t g) s = bitTwo t g op s) : computesWide mk op :=
  fun t g => computes_of_result (hx t g)

/-- A 64-bit value in a token leaves bits 127:64 zero (R24). -/
theorem scalar_high (v : BitVec 64) : (scalar v).extractLsb' 64 64 = 0 := by
  refine BitVec.eq_of_getLsbD_eq fun i hi => ?_
  rw [scalar, BitVec.getLsbD_extractLsb', BitVec.getLsbD_setWidth, BitVec.getLsbD_of_ge v (64 + i) (by omega)]
  simp

/-- Settles O25: each operation on the whole of its operands, and the literals of form G. -/
theorem bitwiseResults : Obligations.BitwiseResults := by
  unfold Obligations.BitwiseResults
  refine ⟨?and, ?or, ?xor, ?andn, ?not, fun g => ⟨scalar_high _, scalar_high _⟩⟩
  case and => exact computesWide_of_exec fun _ _ _ => rfl
  case or => exact computesWide_of_exec fun _ _ _ => rfl
  case xor => exact computesWide_of_exec fun _ _ _ => rfl
  case andn => exact computesWide_of_exec fun _ _ _ => rfl
  case not => exact fun _ _ => computes_of_result fun _ => rfl

/-! ### Shifts and rotates (R310) -/

/-- A rotate by the amount modulo 64; by 0 the part that is shifted out on the right is all of A, and so nothing. -/
theorem intRot_eq (a n : BitVec 64) : intRot a n = a.rotateLeft (n.toNat % 64) := by
  rw [BitVec.rotateLeft_def, Nat.mod_mod]
  unfold intRot
  dsimp only
  split
  · next h => rw [h, BitVec.shiftLeft_zero, BitVec.ushiftRight_eq_zero (by omega), BitVec.or_zero]
  · rfl

/-- Settles O26: each shift by its own definition, and the rotate. -/
theorem shiftResults : Obligations.ShiftResults := by
  unfold Obligations.ShiftResults
  refine ⟨?shl, ?shr, ?sra, ?rot⟩
  case shl => exact computesTwo_of_exec (op := fun _ => intShl) (fun _ _ _ => rfl) fun _ _ _ => rfl
  case shr => exact computesTwo_of_exec (op := fun _ => intShr) (fun _ _ _ => rfl) fun _ _ _ => rfl
  case sra => exact computesTwo_of_exec (op := fun _ => intSra) (fun _ _ _ => rfl) fun _ _ _ => rfl
  case rot => exact computesTwo_of_exec (fun _ _ _ => rfl) fun _ => intRot_eq

/-! ### Counts (R311) -/

/-- The leading part of the numbers below n + 1 that a test passes: none, or 0 and the part of those above it. -/
theorem length_takeWhile_range_succ (p : Nat → Bool) (n : Nat) :
    ((List.range (n + 1)).takeWhile p).length = if p 0 then 1 + ((List.range n).takeWhile fun i => p (i + 1)).length else 0 := by
  rw [List.range_succ_eq_map, List.takeWhile_cons]
  split
  · rw [List.takeWhile_map, List.length_cons, List.length_map, Nat.add_comm]; rfl
  · rfl

theorem zerosDown_eq (a : BitVec 64) (n : Nat) :
    zerosDown a n = ((List.range n).takeWhile fun i => !a.getLsbD (n - 1 - i)).length := by
  induction n with
  | zero => rfl
  | succ n ih =>
    have hi (i : Nat) : n - 1 - i = n - (i + 1) := by omega
    rw [length_takeWhile_range_succ, zerosDown, ih]
    simp only [Nat.add_sub_cancel, Nat.sub_zero, hi]
    cases a.getLsbD n <;> rfl

theorem zerosUp_eq (a : BitVec 64) {n : Nat} (h : n ≤ 64) :
    zerosUp a n = ((List.range n).takeWhile fun i => !a.getLsbD (64 - n + i)).length := by
  induction n with
  | zero => rfl
  | succ n ih =>
    have hi (i : Nat) : 64 - (n + 1) + (i + 1) = 64 - n + i := by omega
    have hz : 64 - (n + 1) + 0 = 63 - n := by omega
    rw [length_takeWhile_range_succ, zerosUp, ih (by omega)]
    simp only [hi, hz]
    cases a.getLsbD (63 - n) <;> rfl

theorem onesBelow_eq (a : BitVec 64) (n : Nat) : onesBelow a n = ((List.range n).filter fun i => a.getLsbD i).length := by
  induction n with
  | zero => rfl
  | succ n ih =>
    rw [List.range_succ, List.filter_append, List.length_append, onesBelow, ih, Nat.add_comm]
    cases h : a.getLsbD n <;> simp [h]

/-- Settles O27: the model's counts over all 64 bits, and the reversal bit by bit. -/
theorem bitCounts : Obligations.BitCounts := by
  unfold Obligations.BitCounts
  refine ⟨?clz, ?ctz, ?popc, intBrev, ?brev, ?reversed⟩
  case clz => exact computesOne_of_exec (op := intClz) (fun _ _ _ => rfl) fun _ a => congrArg (BitVec.ofNat 64) (zerosDown_eq a 64)
  case ctz =>
    refine computesOne_of_exec (op := intCtz) (fun _ _ _ => rfl) fun _ a => ?_
    rw [intCtz, zerosUp_eq a le_rfl]
    simp only [Nat.sub_self, Nat.zero_add]
  case popc => exact computesOne_of_exec (op := intPopc) (fun _ _ _ => rfl) fun _ a => congrArg (BitVec.ofNat 64) (onesBelow_eq a 64)
  case brev => exact computesOne_of_exec (fun _ _ _ => rfl) fun _ _ => rfl
  case reversed =>
    intro a i hi
    rw [intBrev, BitVec.getLsbD_reverse, BitVec.getMsbD_eq_getLsbD, decide_eq_true hi, Bool.true_and]

/-! ### Bit fields and extensions (R312, R313) -/

theorem getLsbD_lowOnes {n i : Nat} (hi : i < 64) : (lowOnes n).getLsbD i = decide (i < n) := by
  rw [lowOnes, BitVec.getLsbD_ofNat, decide_eq_true hi, Bool.true_and, Nat.testBit_two_pow_sub_one]

theorem getLsbD_intBfx (a b : BitVec 64) {i : Nat} (hi : i < 64) :
    (intBfx a b).getLsbD i = (decide (i < bfLen b) && a.getLsbD (bfPos b + i)) := by
  rw [intBfx, BitVec.getLsbD_and, BitVec.getLsbD_ushiftRight, getLsbD_lowOnes hi, Bool.and_comm]

/-- Bit i of the inserted field's mask. -/
theorem getLsbD_lowOnes_shiftLeft {n pos i : Nat} (hi : i < 64) :
    (lowOnes n <<< pos).getLsbD i = decide (pos ≤ i ∧ i < pos + n) := by
  rw [BitVec.getLsbD_shiftLeft, getLsbD_lowOnes (by omega), decide_eq_true hi, Bool.true_and, ← decide_not, ← Bool.decide_and]
  exact decide_eq_decide.2 (by omega)

theorem getLsbD_intBfi (a b c : BitVec 64) {i : Nat} (hi : i < 64) :
    (intBfi a b c).getLsbD i
      = if bfPos b ≤ i ∧ i < bfPos b + bfLen b then a.getLsbD (i - bfPos b) else c.getLsbD i := by
  unfold intBfi
  rw [BitVec.getLsbD_or, BitVec.getLsbD_and, BitVec.getLsbD_and, BitVec.getLsbD_not, getLsbD_lowOnes_shiftLeft hi,
    BitVec.getLsbD_shiftLeft]
  split
  · next h => simp [h, hi]
  · next h => simp [h, hi]

theorem getLsbD_intZext {a b : BitVec 64} {i : Nat} (hi : i < 64) (hn : (b.extractLsb' 0 7).toNat < 64) :
    (intZext a b).getLsbD i = (decide (i < (b.extractLsb' 0 7).toNat) && a.getLsbD i) := by
  unfold intZext
  rw [if_neg (by omega), BitVec.getLsbD_and, getLsbD_lowOnes hi, Bool.and_comm]

/-- Below the width a bit is A's, and from there on it is the highest bit of the width. -/
theorem getLsbD_intSext {a b : BitVec 64} {n i : Nat} (hb : (b.extractLsb' 0 7).toNat = n) (h0 : 0 < n) (hn : n < 64) (hi : i < 64) :
    (intSext a b).getLsbD i = a.getLsbD (if i < n then i else n - 1) := by
  unfold intSext
  rw [hb]
  dsimp only
  rw [if_neg (by omega), if_neg (by omega)]
  split
  · next hs =>
    rw [BitVec.getLsbD_or, BitVec.getLsbD_not, getLsbD_lowOnes hi]
    by_cases hin : i < n <;> simp only [hin, hs, hi, if_true, if_false, decide_true, decide_false, Bool.not_true, Bool.not_false,
      Bool.and_false, Bool.and_true, Bool.or_false, Bool.or_true]
  · next hs =>
    rw [BitVec.getLsbD_and, getLsbD_lowOnes hi]
    by_cases hin : i < n <;> simp only [hin, hs, if_true, if_false, decide_true, decide_false, Bool.and_true, Bool.and_false]

/-- Settles O28: each bit of a field and of an extension. -/
theorem bitFieldsAndExtensions : Obligations.BitFieldsAndExtensions := by
  unfold Obligations.BitFieldsAndExtensions
  refine ⟨⟨intBfx, intBfi, ?bfx, ?bfi, ?fields⟩, ⟨intSext, intZext, ?sext, ?zext, ?extensions⟩⟩
  case bfx => exact computesTwo_of_exec (fun _ _ _ => rfl) fun _ _ _ => rfl
  case bfi => exact computesThree_of_exec (fun _ _ _ _ => rfl) fun _ _ _ => rfl
  case fields =>
    rintro a b c _ _ rfl rfl i hi
    exact ⟨getLsbD_intBfx a b hi, getLsbD_intBfi a b c hi⟩
  case sext => exact computesTwo_of_exec (fun _ _ _ => rfl) fun _ _ _ => rfl
  case zext => exact computesTwo_of_exec (fun _ _ _ => rfl) fun _ _ _ => rfl
  case extensions =>
    rintro a b n rfl
    refine ⟨fun h0 => ⟨if_pos h0, ?_⟩, fun hn => ⟨?_, if_pos hn⟩, fun h0 hn i hi => ?_⟩
    · unfold intZext
      rw [h0]
      exact BitVec.and_zero
    · unfold intSext
      dsimp only
      rw [if_neg (by omega), if_pos hn]
    · exact ⟨getLsbD_intSext rfl h0 hn hi, getLsbD_intZext hi hn⟩

/-! ### Addresses (R314) -/

theorem intLea_eq (imm : BitVec 16) (a b : BitVec 64) :
    intLea imm a b = BitVec.ofNat 64 (a.toNat + b.toNat * 2 ^ (imm.extractLsb' 0 3).toNat) := by
  have hk : (imm.extractLsb' 0 3).toNat = imm.toNat % 8 := by rw [BitVec.extractLsb'_toNat, Nat.shiftRight_zero]
  apply BitVec.eq_of_toNat_eq
  rw [hk, intLea, BitVec.toNat_add, BitVec.toNat_shiftLeft, BitVec.toNat_ofNat, Nat.shiftLeft_eq, Nat.add_mod_mod]

/-- A list of offending bits with a member has a lowest. -/
theorem lowest_of_mem {b : Nat} {l : List Nat} (h : b ∈ l) : ∃ c, lowest l = some c := by
  cases l with
  | nil => cases h
  | cons x l =>
    unfold lowest
    split
    · exact ⟨_, rfl⟩
    · exact ⟨_, rfl⟩

/-- A field that must be zero and is not offends (R211). -/
theorem mem_nz_of_field {w : BitVec 32} {lo len : Nat} (h : w.extractLsb' lo len ≠ 0#len) :
    ∃ b, b ∈ nz w (lo + len - 1) lo := by
  by_contra hn
  push Not at hn
  refine h (BitVec.eq_of_getLsbD_eq fun i hi => ?_)
  have hb := hn (lo + i)
  rw [nz, List.mem_filter] at hb
  have hr : lo + i ∈ List.range (lo + len - 1 + 1) := List.mem_range.2 (by omega)
  rw [BitVec.getLsbD_extractLsb', decide_eq_true hi, Bool.true_and, BitVec.getLsbD_zero]
  simpa [hr] using hb

/-- LEA's checks of its side word (R314): bits 15:3 of IMM16 are among those that must be zero. -/
theorem sideBad_lea {side : BitVec 32} {b : Nat} (h : b ∈ nz side 15 3) (usesLit usesCf : Bool) (nin nout : Nat) :
    b ∈ sideBad 0x3C side usesLit usesCf nin nout :=
  List.mem_append_right _ h

/-- LEA's row of the opcode table: form G, with an operand B, no literal and no MATRIX block (R287, R305, R314). -/
theorem lea_row (side : BitVec 32) : formOf 0x3C = .g ∧ takesB 0x3C side = true ∧ allowsLit 0x3C = false
    ∧ needsMatrix 0x3C = false ∧ refusesAct 0x3C .pass = false := ⟨rfl, rfl, rfl, rfl, rfl⟩

/-- With both operands from tokens only the side word can refuse the slot. -/
theorem checkSlot_lea_tokens {t : Tmpl} {side : BitVec 32} {e : SlotEnv} {c : Nat} (ha : t.sa = .tok) (hb : t.sb = .tok)
    (hact : t.act = .pass) (hc : lowest (sideBad 0x3C side false false e.nin e.nout) = some c) :
    checkSlot 0x3C t side none e = some (.reserved 1 c) := by
  obtain ⟨hform, htakes, -, hmatrix, hrefuses⟩ := lea_row side
  have hlit : (Sel.tok == Sel.lit) = false := rfl
  have hcf : (Sel.tok == Sel.cf) = false := rfl
  simp [checkSlot, ha, hb, hact, hform, htakes, hmatrix, hrefuses, hlit, hcf, hc, TagAction.keepsA, TagAction.keepsB]

/-- A literal select refuses it before: at A, else at B. -/
theorem checkSlot_lea_literal {t : Tmpl} (side : BitVec 32) (e : SlotEnv) (hact : t.act = .pass) (h : t.sa = .lit ∨ t.sb = .lit) :
    ∃ b, checkSlot 0x3C t side none e = some (.reserved 2 b) := by
  obtain ⟨hform, htakes, hlit, -, hrefuses⟩ := lea_row side
  by_cases ha : t.sa = .lit
  · exact ⟨18, by simp [checkSlot, ha, hact, hform, htakes, hlit, hrefuses]⟩
  · have hb : t.sb = .lit := h.resolve_left ha
    exact ⟨16, by simp [checkSlot, ha, hb, hact, hform, htakes, hlit, hrefuses]⟩

/-- Settles O29: the sum modulo 2^64, and the two checks that refuse its slot. -/
theorem leaResult : Obligations.LeaResult := by
  unfold Obligations.LeaResult
  refine ⟨?sum, ?imm, fun _ side e hact hlit => checkSlot_lea_literal side e hact hlit⟩
  case sum => exact computesTwo_of_exec (op := fun g => intLea g.imm) (fun _ _ _ => rfl) fun g => intLea_eq g.imm
  case imm =>
    intro t side e ha hb hact _ himm
    obtain ⟨b, hb'⟩ := mem_nz_of_field himm
    obtain ⟨c, hc⟩ := lowest_of_mem (sideBad_lea hb' false false e.nin e.nout)
    exact ⟨c, checkSlot_lea_tokens ha hb hact hc⟩

/-! ### Comparisons (R315) -/

/-- The condition field, as the bits of RM and SAT together. -/
theorem condOf_eq (g : FormG) : condOf g = (g.rm ++ BitVec.ofBool g.sat).toNat := by
  rw [BitVec.toNat_append, BitVec.toNat_ofBool, ← Nat.shiftLeft_add_eq_or_of_lt g.sat.toNat_lt, Nat.shiftLeft_eq]
  rfl

/-- Settles O30: the codes one by one. -/
theorem compareResult : Obligations.CompareResult := by
  unfold Obligations.CompareResult
  refine ⟨intCond, ?cmp, ?codes⟩
  case cmp =>
    refine computesTwo_of_exec (op := fun g a b => BitVec.ofNat 64 (intCond (condOf g) a b).toNat) (fun _ _ _ => rfl) fun g a b => ?_
    rw [condOf_eq]
    cases intCond _ a b <;> rfl
  case codes =>
    exact fun a b => ⟨beq_eq_decide a b, by rw [intCond, bne, beq_eq_decide, decide_not], rfl, rfl, rfl, rfl, rfl, rfl, rfl, rfl⟩

end Sys2Proof.Machine
end

section
/-! PROOFS. The state that refutes `Obligations.WaveAndTagResults`: a WSET over a number that a token has entered, which R291 leaves
out of those it skips. -/

namespace Sys2Proof.Machine

/-! ### What a firing leaves of the threads beside their waves -/

theorem roster_send (k : Ctx) (p : Placed) (t : ThreadId) (fw : WaveId) (urg : Bool) (e : Em) :
    (k.send p t fw urg e).roster = k.roster := foldl_keeps Ctx.roster (fun _ _ => roster_enter ..) _ k

/-- The delivery of a firing's tokens leaves the threads as the firing's own change leaves them, but for their waves. -/
theorem roster_firedCtx (s : State) (f : Fire) (es : List Em) (flags : BitVec 5) (g : Ctx → Ctx) :
    (s.firedCtx f es flags g).roster = (g (f.k.consume f.p f.x.num f.w f.i f.t f.q)).roster := by
  have perfAdd (k : Ctx) (l n b : Nat) : (k.perfAdd l n b).roster = k.roster := rfl
  have touchBlock (k : Ctx) (p : Placed) (n : Nat) : (k.touchBlock p n).roster = k.roster := rfl
  unfold State.firedCtx Fire.apply
  dsimp only
  rw [touchBlock, spared_roster.charge, perfAdd, perfAdd, beside_roster.modWv, foldl_keeps Ctx.roster fun _ _ => roster_send ..]

/-- So they skip the same numbers in both. -/
theorem skips_firedCtx {s : State} {f : Fire} {es : List Em} {flags : BitVec 5} {g : Ctx → Ctx} {t : ThreadId} {y z : Thread}
    (hz : (s.firedCtx f es flags g).th t = some z)
    (hy : (g (f.k.consume f.p f.x.num f.w f.i f.t f.q)).th t = some y) : z.skips = y.skips := by
  have hbare := th_of_roster (roster_firedCtx s f es flags g) t
  rw [hz, hy, Option.map_some, Option.map_some, Option.some.injEq] at hbare
  exact (congrArg Thread.skips hbare :)

/-- A firing puts its context in place of the one of that number, and leaves the others. -/
theorem fired_ctx_cases {s : State} {f : Fire} {k : Ctx} {c : CtxId} (hk : s.ctx c = some k) (es : List Em) (flags : BitVec 5)
    (g : Ctx → Ctx) : (s.fired f es flags g).ctx c = some (s.firedCtx f es flags g) ∨ (s.fired f es flags g).ctx c = some k := by
  by_cases hc : (s.firedCtx f es flags g).num = c
  · exact .inl (fired_ctx hk hc)
  · exact .inr ((ctx_setCtx_other fun h => hc h.symm).trans hk)

/-! ### A WSET over a wave that stands (R291) -/

/-- The template and side word of a WSET whose one destination is slot 1. -/
def wsetTmpl : Tmpl := ⟨.pass, .tok, .tok, 1, 0⟩
def wsetSide : FormL := ⟨0⟩

/-- WSET ready in wave 0 with B = 2, where a token has entered wave 1 already. -/
def wsetOverWave : State :=
  let s := State.reset.withWords ⟨0x09000100#32, 0, 0, 0⟩
  { s with
    focus := ⟨0, 0, 0, 0, 0⟩, upset := .none
    ctxs := s.ctxs.map fun k => { k with
      tokens := k.tokens.map fun a => { a with tok := { a.tok with value := 2 } }
      threads := k.threads.map fun x => { x with waves := x.waves ++ [Wave.fresh 1 0] } } }

/-- Context 0 of that state, and the firing of its slot 0. -/
def wsetCtx : Ctx := (wsetOverWave.ctx 0).getD default
def wsetFire : Fire := (wsetOverWave.ready wsetTmpl none true (litL wsetSide)).getD default

theorem wsetOverWave_ctx : wsetOverWave.ctx 0 = some wsetCtx := by decide +kernel

theorem wsetOverWave_canFire : wsetOverWave.canFire wsetTmpl none true (litL wsetSide) wsetFire := by
  have hready : (wsetOverWave.ready wsetTmpl none true (litL wsetSide)).isSome = true := by decide +kernel
  refine ⟨?_, by decide +kernel, .inr (by decide +kernel), by decide +kernel⟩
  obtain ⟨f, hf⟩ := Option.isSome_iff_exists.1 hready
  rw [wsetFire, hf]
  rfl

/-- B names wave 2, two ahead of the firing's. -/
theorem wsetFire_target : wsetFire.w = 0 ∧ wsetFire.q.b.extractLsb' 0 24 = 2 ∧ wsetFire.x.num = 0
    ∧ ∃ d ∈ wsetFire.all, d ≠ .none := by decide +kernel

theorem wsetFire_opens : wsetFire.opens [wsetFire.pass wsetFire.all wsetFire.q.a wsetFire.q.ta (wsetFire.q.b.extractLsb' 0 24)] :=
  ⟨by decide +kernel, .inl (by decide +kernel)⟩

/-- The thread stands in the context whose operands are consumed. -/
theorem wsetFire_thread : ((wsetFire.k.consume wsetFire.p wsetFire.x.num wsetFire.w wsetFire.i wsetFire.t wsetFire.q).th
    wsetFire.x.num).isSome = true := by decide +kernel

/-- A context after an instruction. -/
def ctxAfter (i : Instr) (s : State) (c : CtxId) : Option Ctx :=
  match exec i s with
  | .next t => t.ctx c
  | _ => none

theorem ctxAfter_of_exec {i : Instr} {s t : State} (c : CtxId) (h : exec i s = .next t) : ctxAfter i s c = t.ctx c := by
  unfold ctxAfter
  rw [h]

/-- No number lies between waves 0 and 2 but the one that is entered, and so none is skipped. -/
theorem wsetOverWave_skips_none : ((ctxAfter (.wset wsetTmpl wsetSide) wsetOverWave 0).bind (·.th 0)).map (·.skips) = some [] := by
  decide +kernel

/-- The firing takes place. -/
theorem wsetOverWave_fires : ctxAfter (.wset wsetTmpl wsetSide) wsetOverWave 0 ≠ some wsetCtx := by decide +kernel

/-- Refutes O16: a WSET does not skip all the numbers between. Those that a token of the thread has entered stand as waves, and R291
skips only the others; the statement asks that each number between be skipped. -/
theorem not_waveAndTagResults : ¬ Obligations.WaveAndTagResults := by
  unfold Obligations.WaveAndTagResults
  rintro ⟨-, -, -, -, hwset, -⟩
  obtain ⟨hw, hb, hnum, hdest⟩ := wsetFire_target
  obtain ⟨g, hx, hskips⟩ := hwset _ _ _ _ wsetOverWave_canFire (by rw [hw, hb]; decide) wsetFire_opens
  obtain ⟨x, hth⟩ := Option.isSome_iff_exists.1 wsetFire_thread
  obtain ⟨y, hy, hall⟩ := hskips (by rw [hw, hb]; decide) hdest _ x hth
  have hctx := (ctxAfter_of_exec 0 hx).trans ((fired_ctx_cases wsetOverWave_ctx _ 0 g).resolve_right fun h =>
    wsetOverWave_fires ((ctxAfter_of_exec 0 hx).trans h))
  have hnone := wsetOverWave_skips_none
  rw [hctx, Option.bind_some, Option.map_eq_some_iff] at hnone
  obtain ⟨z, hz, hzs⟩ := hnone
  have hys : y.skips = [] := (skips_firedCtx (hnum.symm ▸ hz) hy).symm.trans hzs
  have hskipped := hall 1 (by rw [hw]; decide) (by rw [hw, hb]; decide)
  rw [Thread.skippedNo, hys] at hskipped
  cases hskipped

end Sys2Proof.Machine
end

section
/-! PROOFS. Values formed element by element: what each bit of a value and each flag comes from, under the lane mask
(12 R319): `Obligations.VectorLanes`. -/

namespace Sys2Proof.Machine

/-! ### Fields put side by side -/

/-- The fields `f 0` to `f (n − 1)`, each of w bits, from bit 0 up. -/
def joinFields (w : Nat) (f : Nat → Nat) : Nat → Nat
  | 0 => 0
  | n + 1 => joinFields w f n + f n % 2 ^ w * 2 ^ (w * n)

theorem joinFields_lt (w : Nat) (f : Nat → Nat) (n : Nat) : joinFields w f n < 2 ^ (w * n) := by
  induction n with
  | zero => exact Nat.one_pos
  | succ n ih =>
    calc joinFields w f n + f n % 2 ^ w * 2 ^ (w * n)
      _ < 2 ^ (w * n) + f n % 2 ^ w * 2 ^ (w * n) := Nat.add_lt_add_right ih _
      _ = (f n % 2 ^ w + 1) * 2 ^ (w * n) := by ring
      _ ≤ 2 ^ w * 2 ^ (w * n) := Nat.mul_le_mul_right _ (Nat.mod_lt _ (Nat.two_pow_pos w))
      _ = 2 ^ (w * (n + 1)) := by ring

/-- A bit of the whole is a bit of the field it lies in. -/
theorem testBit_joinFields {w : Nat} (hw : 0 < w) (f : Nat → Nat) (n p : Nat) :
    (joinFields w f n).testBit p = (decide (p < w * n) && (f (p / w)).testBit (p % w)) := by
  induction n with
  | zero => simp [joinFields]
  | succ n ih =>
    rw [joinFields, Nat.add_comm, Nat.mul_comm, Nat.testBit_two_pow_mul_add _ (joinFields_lt w f n)]
    by_cases hlow : p < w * n
    · rw [if_pos hlow, ih, decide_eq_true hlow, decide_eq_true (Nat.lt_of_lt_of_le hlow (Nat.mul_le_mul_left w n.le_succ))]
    · have hge : n ≤ p / w := (Nat.le_div_iff_mul_le hw).2 (by rw [Nat.mul_comm]; omega)
      rw [if_neg hlow, Nat.testBit_mod_two_pow]
      by_cases hin : p < w * (n + 1)
      · have hn : p / w = n := Nat.le_antisymm (Nat.lt_succ_iff.1 (Nat.div_lt_of_lt_mul hin)) hge
        have hmod : p % w = p - w * n := by rw [← hn, Nat.mod_eq_sub]
        rw [hn, hmod, decide_eq_true hin, decide_eq_true (by rw [Nat.mul_succ] at hin; omega : p - w * n < w)]
      · rw [decide_eq_false hin, decide_eq_false (by rw [Nat.mul_succ] at hin; omega : ¬ p - w * n < w)]; rfl

theorem foldl_joinFields (w : Nat) (f : Nat → Nat) (n : Nat) :
    (List.range n).foldl (fun acc i => acc + f i % 2 ^ w * 2 ^ (w * i)) 0 = joinFields w f n := by
  induction n with
  | zero => rfl
  | succ n ih => rw [List.range_succ, List.foldl_concat, ih, joinFields]

/-- Two results gathered in one run are gathered each by itself. -/
theorem foldl_pair {α β γ : Type} (f : β → α → β) (g : γ → α → γ) (l : List α) (b : β) (c : γ) :
    l.foldl (fun acc a => (f acc.1 a, g acc.2 a)) (b, c) = (l.foldl f b, l.foldl g c) := by
  induction l generalizing b c with
  | nil => rfl
  | cons a l ih => exact ih _ _

/-- A flag is raised by the whole when some part raises it. -/
theorem getLsbD_foldl_or {w : Nat} {α : Type} (f : α → BitVec w) (l : List α) (x : BitVec w) (j : Nat) :
    (l.foldl (fun acc a => acc ||| f a) x).getLsbD j = (x.getLsbD j || l.any fun a => (f a).getLsbD j) := by
  induction l generalizing x with
  | nil => simp
  | cons a l ih => rw [List.foldl_cons, ih, BitVec.getLsbD_or, List.any_cons, Bool.or_assoc]

/-! ### Elements (R319) -/

theorem elem_lt (v : Value) (w i : Nat) : elem v w i < 2 ^ w := Nat.mod_lt _ (Nat.two_pow_pos w)

theorem testBit_elem (v : Value) (w i q : Nat) : (elem v w i).testBit q = (decide (q < w) && v.getLsbD (w * i + q)) := by
  rw [elem, Nat.testBit_mod_two_pow, Nat.testBit_div_two_pow, BitVec.testBit_toNat, Nat.add_comm]

theorem testBit_elem_mod {w : Nat} (hw : 0 < w) (v : Value) (p : Nat) : (elem v w (p / w)).testBit (p % w) = v.getLsbD p := by
  rw [testBit_elem, decide_eq_true (Nat.mod_lt p hw), Bool.true_and, Nat.div_add_mod]

/-- Each 32-bit lane is A's where the mask names it, else the result's. -/
theorem getLsbD_overLanes (lmask : BitVec 4) (a r : Value) {p : Nat} (hp : p < 128) :
    (overLanes lmask a r).getLsbD p = if lmask.getLsbD (p / 32) then a.getLsbD p else r.getLsbD p := by
  have hlanes : overLanes lmask a r
      = BitVec.ofNat 128 (joinFields 32 (fun j => if lmask.getLsbD j then elem a 32 j else elem r 32 j) 4) := by
    rw [overLanes, ← foldl_joinFields]
    congr 2
    funext n j
    rw [Nat.mod_eq_of_lt (by split <;> exact elem_lt ..)]
  rw [hlanes, BitVec.getLsbD_ofNat, testBit_joinFields (by decide), decide_eq_true hp, Bool.true_and, Bool.true_and]
  split <;> exact testBit_elem_mod (by decide) _ p

/-- The element of which a bit outside the masked lanes is part does not lie in masked lanes as a whole. -/
theorem maskedElem_of_unmasked {w : Nat} (hw : w ∈ [8, 16, 32, 64]) {lmask : BitVec 4} {p : Nat}
    (hm : lmask.getLsbD (p / 32) = false) : maskedElem w (p / w) lmask = false := by
  have hlane : w * (p / w) / 32 = p / 32 ∨ (w * (p / w) + w - 1) / 32 = p / 32 := by
    simp only [List.mem_cons, List.not_mem_nil, or_false] at hw
    rcases hw with rfl | rfl | rfl | rfl <;> omega
  rw [maskedElem]
  rcases hlane with h | h <;> rw [h, hm] <;> simp

theorem width_divides {w : Nat} (hw : w ∈ [8, 16, 32, 64]) : 0 < w ∧ w * (128 / w) = 128 := by
  revert w; decide

section
variable (w : Nat) (lmask : BitVec 4) (a : Value) (op : Nat → Nat × FpFlags)

/-- What the element i of a value comes from: the operation, unless it lies in masked lanes as a whole. -/
def laneResult (i : Nat) : Nat × FpFlags := if maskedElem w i lmask then (0, 0) else op i

theorem buildV_eq : buildV w lmask a op
    = (overLanes lmask a (BitVec.ofNat 128 (joinFields w (fun i => (laneResult w lmask op i).1) (128 / w))),
        (List.range (128 / w)).foldl (fun acc i => acc ||| (laneResult w lmask op i).2) 0) := by
  have hrun : buildV w lmask a op = (fun r : Nat × FpFlags => (overLanes lmask a (BitVec.ofNat 128 r.1), r.2))
      ((List.range (128 / w)).foldl (fun acc i => (acc.1 + (laneResult w lmask op i).1 % 2 ^ w * 2 ^ (w * i),
        acc.2 ||| (laneResult w lmask op i).2)) (0, 0)) := rfl
  rw [hrun, foldl_pair (fun (n : Nat) i => n + (laneResult w lmask op i).1 % 2 ^ w * 2 ^ (w * i))
    (fun (fl : FpFlags) i => fl ||| (laneResult w lmask op i).2), foldl_joinFields w fun i => (laneResult w lmask op i).1]

/-- Every bit of a value formed element by element (R319). -/
theorem getLsbD_buildV (hw : w ∈ [8, 16, 32, 64]) {p : Nat} (hp : p < 128) : (buildV w lmask a op).1.getLsbD p
    = if lmask.getLsbD (p / 32) then a.getLsbD p else (op (p / w)).1.testBit (p % w) := by
  obtain ⟨hpos, hall⟩ := width_divides hw
  rw [buildV_eq, getLsbD_overLanes _ _ _ hp]
  cases hm : lmask.getLsbD (p / 32) with
  | true => rfl
  | false =>
    rw [if_neg Bool.false_ne_true, if_neg Bool.false_ne_true, BitVec.getLsbD_ofNat, testBit_joinFields hpos, hall,
      decide_eq_true hp, laneResult, maskedElem_of_unmasked hw hm]
    rfl

/-- Every flag of such a value (R319). -/
theorem flags_buildV (j : Nat) : (buildV w lmask a op).2.getLsbD j
    = (List.range (128 / w)).any fun i => !maskedElem w i lmask && (op i).2.getLsbD j := by
  rw [buildV_eq, getLsbD_foldl_or, show (0 : FpFlags).getLsbD j = false from BitVec.getLsbD_zero, Bool.false_or]
  congr 1
  funext i
  rw [laneResult]
  cases maskedElem w i lmask with
  | true => exact BitVec.getLsbD_zero
  | false => rfl

end

/-- Settles O31: the value bit by bit, and the flags one by one. -/
theorem vectorLanes : Obligations.VectorLanes := by
  unfold Obligations.VectorLanes
  exact fun w lmask a op hw => ⟨fun _ => getLsbD_buildV w lmask a op hw, flags_buildV w lmask a op⟩

end Sys2Proof.Machine
end

section
/-! PROOFS. The integer and lane instructions, element by element (12 R335 to R338): `Obligations.VectorIntegerResults`. -/

namespace Sys2Proof.Machine

/-! ### Instructions that raise no flag, by their elements (R319) -/

theorem tyWidth_mem (ty : Nat) : tyWidth ty ∈ [8, 16, 32, 64] := by
  unfold tyWidth
  split <;> decide

theorem tyWidth_pos (ty : Nat) : 0 < tyWidth ty := (width_divides (tyWidth_mem ty)).1

theorem lanesBy_of_buildV {ok : FormG → Prop} {op : FormG → Value → Value → Value × FpFlags}
    {law : FormG → Value → Value → Nat → Nat}
    (h : ∀ g a b, ok g → op g a b = buildV (tyWidth g.ty.toNat) g.lmask a fun i => (law g a b i, 0)) : lanesBy ok op law := by
  intro g a b hok
  rw [h g a b hok]
  refine ⟨BitVec.eq_of_getLsbD_eq fun j _ => ?_, fun p hp => getLsbD_buildV _ _ _ _ (tyWidth_mem _) hp⟩
  rw [flags_buildV]
  simp

theorem lanesBy_map1 {ok : FormG → Prop} {op : FormG → Nat → Nat × FpFlags} {law : FormG → Value → Nat → Nat}
    (h : ∀ g a i, ok g → op g (laneOf g a i) = (law g a i, 0)) :
    lanesBy ok (fun g a _ => map1 g a (op g)) fun g a _ => law g a :=
  lanesBy_of_buildV fun g a _ hok => congrArg (buildV _ _ a) (funext fun i => h g a i hok)

theorem lanesBy_map2 {ok : FormG → Prop} {op : FormG → Nat → Nat → Nat × FpFlags} {law : FormG → Value → Value → Nat → Nat}
    (h : ∀ g a b i, ok g → op g (laneOf g a i) (laneOf g b i) = (law g a b i, 0)) :
    lanesBy ok (fun g a b => map2 g a b (op g)) law :=
  lanesBy_of_buildV fun g a b hok => congrArg (buildV _ _ a) (funext fun i => h g a b i hok)

theorem laneTwo_of_exec {mk : Tmpl → FormG → Instr} {ok : FormG → Prop} {op : FormG → Value → Value → Value × FpFlags}
    {law : FormG → Value → Value → Nat → Nat} (hx : ∀ t g s, exec (mk t g) s = vTwo t g (op g) s) (hl : lanesBy ok op law) :
    laneTwo mk ok law :=
  ⟨op, vectorTwo_of_exec hx, hl⟩

theorem laneOne_of_exec {mk : Tmpl → FormG → Instr} {ok : FormG → Prop} {op : FormG → Value → Value × FpFlags}
    {law : FormG → Value → Nat → Nat} (hx : ∀ t g s, exec (mk t g) s = vOne t g (op g) s)
    (hl : lanesBy ok (fun g a _ => op g a) fun g a _ => law g a) : laneOne mk ok law :=
  ⟨op, vectorOne_of_exec hx, hl⟩

/-! ### Integers under a type (09 R234) -/

theorem pow_tyWidth (ty : Nat) : 2 ^ tyWidth ty = 2 * 2 ^ (tyWidth ty - 1) := by
  rw [← Nat.pow_succ', Nat.succ_eq_add_one, Nat.sub_add_cancel (tyWidth_pos ty)]

theorem signed_tyWidth (ty v : Nat) : signed (tyWidth ty) v = (BitVec.ofNat (tyWidth ty) v).toInt := by
  rw [signed, BitVec.toInt_eq_toNat_cond, BitVec.toNat_ofNat, pow_tyWidth]
  split <;> split <;> omega

theorem wrapTo_eq_toNat (w : Nat) (x : Int) : wrapTo w x = (BitVec.ofInt w x).toNat := by
  rw [wrapTo, BitVec.toNat_ofInt]

theorem clampTo_signed {ty : Nat} (h : ty ≤ 6) (x : Int) :
    clampTo ty x = max (-2 ^ (tyWidth ty - 1)) (min (2 ^ (tyWidth ty - 1) - 1) x) := by
  rw [clampTo, intLow, intHigh, isSignedTy, decide_eq_true h, if_pos rfl, if_pos rfl, Nat.cast_pow, Nat.cast_ofNat]

theorem clampTo_unsigned {ty : Nat} (h : ¬ ty ≤ 6) (x : Int) : clampTo ty x = max 0 (min (2 ^ tyWidth ty - 1) x) := by
  rw [clampTo, intLow, intHigh, isSignedTy, decide_eq_false h, if_neg Bool.false_ne_true, if_neg Bool.false_ne_true, Nat.cast_pow,
    Nat.cast_ofNat]

/-- The range of a type lies within 2 to the power of its width on either side of zero (R234). -/
theorem int_range (ty : Nat) : -2 ^ tyWidth ty ≤ intLow ty ∧ intLow ty ≤ intHigh ty ∧ intHigh ty ≤ 2 ^ tyWidth ty := by
  have hpow : (2 : Int) ^ tyWidth ty = 2 * 2 ^ (tyWidth ty - 1) := by exact_mod_cast pow_tyWidth ty
  have hpos : (0 : Int) < 2 ^ (tyWidth ty - 1) := by positivity
  unfold intLow intHigh
  rw [hpow]
  split <;> push_cast [hpow] <;> omega

/-- Beyond the range of a type its nearest value is given (R337). -/
theorem clampTo_below {ty : Nat} {x : Int} (h : x ≤ -2 ^ tyWidth ty) : clampTo ty x = intLow ty := by
  obtain ⟨hlow, hle, -⟩ := int_range ty
  rw [clampTo, min_eq_right (by omega), max_eq_left (by omega)]

theorem clampTo_above {ty : Nat} {x : Int} (h : 2 ^ tyWidth ty ≤ x) : clampTo ty x = intHigh ty := by
  obtain ⟨-, hle, hhigh⟩ := int_range ty
  rw [clampTo, min_eq_left (by omega), max_eq_right hle]

/-- A shift by the width or more leaves the sign alone. -/
theorem ediv_pow_of_width_le {w n : Nat} {x : Int} (hn : w ≤ n) (hlow : -2 ^ w ≤ x) (hhigh : x < 2 ^ w) :
    x / 2 ^ n = if x < 0 then -1 else 0 := by
  have hpow : (2 : Int) ^ w ≤ 2 ^ n := pow_le_pow_right₀ (by decide) hn
  split
  · next h => exact Int.ediv_eq_neg_one_of_neg_of_le h (by omega)
  · next h => exact Int.ediv_eq_zero_of_lt (by omega) (by omega)

section
variable (g : FormG)

theorem laneOf_lt (v : Value) (i : Nat) : laneOf g v i < 2 ^ tyWidth g.ty.toNat := elem_lt ..

theorem intVal_laneOf (v : Value) (i : Nat) : intVal g.ty.toNat (laneOf g v i) = laneInt g v i := by
  unfold intVal laneInt isSignedTy
  simp only [decide_eq_true_eq]
  rw [signed_tyWidth, Nat.mod_eq_of_lt (laneOf_lt g v i)]

/-- An element read under its type is the element modulo 2 to the power of its width. -/
theorem laneInt_emod (v : Value) (i : Nat) : laneInt g v i % (2 ^ tyWidth g.ty.toNat : Nat) = laneOf g v i := by
  have hlt := laneOf_lt g v i
  unfold laneInt
  split
  · rw [BitVec.toInt_eq_toNat_bmod, Int.bmod_emod, BitVec.toNat_ofNat, Nat.mod_eq_of_lt hlt]
    exact Int.emod_eq_of_lt (by omega) (by exact_mod_cast hlt)
  · exact Int.emod_eq_of_lt (by omega) (by exact_mod_cast hlt)

/-- An exact integer is delivered as its low bits, or clamped (R337). -/
theorem deliverInt_eq_fitsTy (x : Int) : deliverInt g.ty.toNat g.sat x = fitsTy g x := by
  have hpos : (0 : Int) < 2 ^ tyWidth g.ty.toNat := by positivity
  unfold deliverInt fitsTy
  cases g.sat with
  | false =>
    rw [if_neg Bool.false_ne_true, if_pos rfl, wrapTo, Nat.cast_pow, Nat.cast_ofNat]
  | true =>
    rw [if_pos rfl, if_neg Bool.noConfusion]
    by_cases h : g.ty.toNat ≤ 6
    · rw [if_pos h, clampTo_signed h, wrapTo_eq_toNat]
    · rw [if_neg h, clampTo_unsigned h, wrapTo, Nat.cast_pow, Nat.cast_ofNat, Int.emod_eq_of_lt (by omega) (by omega)]

/-! ### The element operations (R337, R338) -/

theorem vIntE_eq (op : Int → Int → Int) (a b : Value) (i : Nat) :
    vIntE g op (laneOf g a i) (laneOf g b i) = (fitsTy g (op (laneInt g a i) (laneInt g b i)), 0) := by
  rw [vIntE, intVal_laneOf, intVal_laneOf, deliverInt_eq_fitsTy]

theorem vIextE_min (a b : Value) (i : Nat) : vIextE g false (laneOf g a i) (laneOf g b i)
    = (if laneInt g a i ≤ laneInt g b i then laneOf g a i else laneOf g b i, 0) := by
  rw [vIextE, intVal_laneOf, intVal_laneOf, if_neg Bool.false_ne_true]
  simp only [← not_le, ite_not]

theorem vIextE_max (a b : Value) (i : Nat) : vIextE g true (laneOf g a i) (laneOf g b i)
    = (if laneInt g b i ≤ laneInt g a i then laneOf g a i else laneOf g b i, 0) := by
  rw [vIextE, intVal_laneOf, intVal_laneOf, if_pos rfl]
  simp only [← not_le, ite_not]

theorem vIabsE_eq (a : Value) (i : Nat) : vIabsE g (laneOf g a i) = (fitsTy g ((laneInt g a i).natAbs : Int), 0) := by
  rw [vIabsE, intVal_laneOf, deliverInt_eq_fitsTy]

theorem fitsTy_zero : fitsTy g 0 = 0 := by
  have hpos : (0 : Int) < 2 ^ tyWidth g.ty.toNat := by positivity
  have hlow : (0 : Int) < 2 ^ (tyWidth g.ty.toNat - 1) := by positivity
  unfold fitsTy
  split
  · rfl
  · split
    · rw [min_eq_right (by omega), max_eq_right (by omega)]; simp
    · rw [min_eq_right (by omega), max_eq_right le_rfl]; rfl

/-- The low bits of an element times a power of two are those of the element shifted, whatever its sign (R338). -/
theorem fitsTy_shifted (hs : g.sat = false) (a : Value) (i n : Nat) :
    fitsTy g (laneInt g a i * 2 ^ n) = laneOf g a i * 2 ^ n % 2 ^ tyWidth g.ty.toNat := by
  have hmod : laneInt g a i ≡ laneOf g a i [ZMOD (2 ^ tyWidth g.ty.toNat : Nat)] :=
    laneInt_emod g a i ▸ (Int.mod_modEq _ _).symm
  have hshift : laneInt g a i * 2 ^ n % 2 ^ tyWidth g.ty.toNat = ((laneOf g a i * 2 ^ n % 2 ^ tyWidth g.ty.toNat : Nat) : Int) := by
    exact_mod_cast hmod.mul_right (2 ^ n)
  rw [fitsTy, if_pos hs, hshift, Int.toNat_natCast]

/-- With SAT, an element that is not zero leaves the range of its type when it is shifted by the width or more (R338). -/
theorem deliverInt_shifted_out {ty n : Nat} {x : Int} (hx : x ≠ 0) (hn : tyWidth ty ≤ n) :
    deliverInt ty true (x * 2 ^ n) = wrapTo (tyWidth ty) (if x < 0 then intLow ty else intHigh ty) := by
  have hpow : (2 : Int) ^ tyWidth ty ≤ 2 ^ n := pow_le_pow_right₀ (by decide) hn
  have hpos : (0 : Int) < 2 ^ n := by positivity
  rw [deliverInt, if_pos rfl]
  split
  · next hneg => rw [clampTo_below (by nlinarith)]
  · next hneg => rw [clampTo_above (by nlinarith [show 1 ≤ x by omega])]

theorem vShlE_eq (a b : Value) (i : Nat) : vShlE g (laneOf g a i) (laneOf g b i)
    = (if g.sat = false ∧ tyWidth g.ty.toNat ≤ laneOf g b i then 0 else fitsTy g (laneInt g a i * 2 ^ laneOf g b i), 0) := by
  unfold vShlE
  simp only [intVal_laneOf]
  generalize laneOf g b i = n
  cases hs : g.sat with
  | false =>
    rw [if_neg Bool.false_ne_true]
    by_cases hn : tyWidth g.ty.toNat ≤ n
    · rw [if_pos hn, if_pos ⟨rfl, hn⟩]
    · rw [if_neg hn, if_neg fun h => hn h.2, fitsTy_shifted g hs]
  | true =>
    rw [if_pos rfl, if_neg fun h : true = false ∧ _ => Bool.noConfusion h.1]
    by_cases hz : laneInt g a i = 0
    · rw [if_pos hz, hz, zero_mul, fitsTy_zero]
    · rw [if_neg hz, ← deliverInt_eq_fitsTy, hs]
      by_cases hn : tyWidth g.ty.toNat ≤ n
      · rw [if_pos hn, deliverInt_shifted_out hz hn]
      · rw [if_neg hn, Nat.cast_pow, Nat.cast_ofNat]

theorem vShrE_eq (a n : Nat) : vShrE g a n = (if tyWidth g.ty.toNat ≤ n then 0 else a >>> n, 0) := by
  rw [vShrE, Nat.shiftRight_eq_div_pow]

theorem vSraE_eq (a n : Nat) :
    vSraE g a n = (((BitVec.ofNat (tyWidth g.ty.toNat) a).sshiftRight n).toNat, 0) := by
  rw [vSraE, signed_tyWidth]
  generalize BitVec.ofNat (tyWidth g.ty.toNat) a = x
  have hpow : (2 : Int) ^ tyWidth g.ty.toNat = 2 * 2 ^ (tyWidth g.ty.toNat - 1) := by exact_mod_cast pow_tyWidth _
  have hlow := x.le_toInt
  have hhigh := x.toInt_lt
  have hdiv : x.toInt / ((2 ^ min n (tyWidth g.ty.toNat) : Nat) : Int) = (x.sshiftRight n).toInt := by
    rw [BitVec.toInt_sshiftRight, Int.shiftRight_eq_div_pow, Nat.cast_pow, Nat.cast_pow, Nat.cast_ofNat]
    by_cases hn : tyWidth g.ty.toNat ≤ n
    · rw [min_eq_right hn, ediv_pow_of_width_le hn (by omega) (by omega), ediv_pow_of_width_le le_rfl (by omega) (by omega)]
    · rw [min_eq_left (by omega)]
  rw [hdiv, wrapTo_eq_toNat, BitVec.ofInt_toInt]

end

/-! ### Moving elements (R335, R336) -/

/-- VPACK and VUNPK take no mask, and h is IMM16 itself (R336). -/
theorem lanesBy_unmasked {op : FormG → Value → Value → Value × FpFlags} {law : FormG → Value → Value → Nat → Nat → Nat}
    (h : ∀ g a b, op g a b = buildV (tyWidth g.ty.toNat) 0 a fun i => (law g a b (g.imm.toNat % 2) i, 0)) :
    lanesBy (fun g => g.lmask = 0 ∧ g.imm.toNat ≤ 1) op fun g a b => law g a b g.imm.toNat :=
  lanesBy_of_buildV fun g a b ⟨hmask, himm⟩ => by rw [h, hmask, Nat.mod_eq_of_lt (by omega)]

/-- Settles O34: each instruction by its operation on elements. -/
theorem vectorIntegerResults : Obligations.VectorIntegerResults := by
  unfold Obligations.VectorIntegerResults
  have two {mk : Tmpl → FormG → Instr} {op : FormG → Nat → Nat → Nat × FpFlags} {law : FormG → Value → Value → Nat → Nat}
      {ok : FormG → Prop} (hx : ∀ t g s, exec (mk t g) s = vTwo t g (fun a b => map2 g a b (op g)) s)
      (hl : ∀ g a b i, op g (laneOf g a i) (laneOf g b i) = (law g a b i, 0)) : laneTwo mk ok law :=
    laneTwo_of_exec hx (lanesBy_map2 fun g a b i _ => hl g a b i)
  refine ⟨?viadd, ?visub, ?vimul, ?vimin, ?vimax, ?viabs, ?vshl, ?vshr, ?vsra, ?vshuf, ?vpack, ?vunpk⟩
  case viadd => exact two (fun _ _ _ => rfl) fun g => vIntE_eq g (· + ·)
  case visub => exact two (fun _ _ _ => rfl) fun g => vIntE_eq g (· - ·)
  case vimul => exact two (fun _ _ _ => rfl) fun g => vIntE_eq g (· * ·)
  case vimin => exact two (fun _ _ _ => rfl) vIextE_min
  case vimax => exact two (fun _ _ _ => rfl) vIextE_max
  case viabs =>
    exact laneOne_of_exec (op := fun g a => map1 g a (vIabsE g)) (fun _ _ _ => rfl) (lanesBy_map1 fun g a i _ => vIabsE_eq g a i)
  case vshl => exact two (fun _ _ _ => rfl) vShlE_eq
  case vshr => exact two (fun _ _ _ => rfl) fun g _ _ _ => vShrE_eq g _ _
  case vsra => exact two (fun _ _ _ => rfl) fun g _ _ _ => vSraE_eq g _ _
  case vshuf => exact laneTwo_of_exec (op := shufV) (fun _ _ _ => rfl) (lanesBy_of_buildV fun _ _ _ _ => rfl)
  case vpack => exact laneTwo_of_exec (op := packV) (fun _ _ _ => rfl) (lanesBy_unmasked (law := fun g a b h i =>
      laneOf g (if i % 2 = 0 then a else b) (i / 2 + h * (128 / tyWidth g.ty.toNat / 2))) fun _ _ _ => rfl)
  case vunpk => exact laneTwo_of_exec (op := unpkV) (fun _ _ _ => rfl) (lanesBy_unmasked (law := fun g a b h i =>
      if i < 128 / tyWidth g.ty.toNat / 2 then laneOf g a (2 * i + h)
      else laneOf g b (2 * (i - 128 / tyWidth g.ty.toNat / 2) + h)) fun _ _ _ => rfl)

end Sys2Proof.Machine
end

section
/-! PROOFS. The values of the floating vector instructions: signs, NaNs, infinities and zeros, and the manual's worked examples
(12 R320 to R340): `Obligations.VectorFloatingLaws`. -/

namespace Sys2Proof.Machine

/-! ### The sign of an encoding (09 R235 to R238) -/

/-! A word with its bit k turned: that bit, a field below it, and the whole where it is the top bit. -/

theorem flip_div_mod (v k : Nat) : ((v ^^^ 2 ^ k) / 2 ^ k % 2 = 1) ↔ ¬ v / 2 ^ k % 2 = 1 := by
  have h : (v ^^^ 2 ^ k).testBit k = !v.testBit k := by rw [Nat.testBit_xor, Nat.testBit_two_pow_self, Bool.xor_true]
  rwa [Nat.testBit_eq_decide_div_mod_eq, Nat.testBit_eq_decide_div_mod_eq, ← decide_not, decide_eq_decide] at h

theorem flip_field_below (v : Nat) {k i n : Nat} (h : i + n ≤ k) : (v ^^^ 2 ^ k) / 2 ^ i % 2 ^ n = v / 2 ^ i % 2 ^ n := by
  refine Nat.eq_of_testBit_eq fun j => ?_
  simp only [Nat.testBit_mod_two_pow, Nat.testBit_div_two_pow, Nat.testBit_xor]
  by_cases hj : j < n
  · rw [Nat.testBit_two_pow_of_ne (by omega), Bool.xor_false]
  · simp [hj]

theorem flip_top {v k : Nat} (h : v < 2 * 2 ^ k) : v ^^^ 2 ^ k = v % 2 ^ k + if v / 2 ^ k % 2 = 1 then 0 else 2 ^ k := by
  have hlow : (v ^^^ 2 ^ k) % 2 ^ k = v % 2 ^ k := by simpa using flip_field_below v (show 0 + k ≤ k by omega)
  have hhigh : (v ^^^ 2 ^ k) / 2 ^ k = if v / 2 ^ k % 2 = 1 then 0 else 1 := by
    have hv : v / 2 ^ k < 2 := Nat.div_lt_of_lt_mul (by omega)
    rw [Nat.xor_div_two_pow, Nat.div_self (Nat.two_pow_pos k)]
    interval_cases v / 2 ^ k <;> rfl
  rw [← Nat.div_add_mod (v ^^^ 2 ^ k) (2 ^ k), hlow, hhigh]
  split <;> omega

/-- The sign bit lies above the fraction. -/
theorem fb_le_fmtOf (ty : Nat) : (fmtOf ty).fb ≤ (fmtOf ty).w - 1 := by
  unfold fmtOf
  split <;> decide

/-- An encoding with its sign bit turned holds the value of the other sign. -/
theorem decodeF_flip {f : Fmt} (hf : f.fb ≤ f.w - 1) (v : Nat) : decodeF f (v ^^^ f.signBit) = (decodeF f v).negate := by
  have hsign : ((v ^^^ f.signBit) / f.signBit % 2 = 1) = ¬ v / f.signBit % 2 = 1 := propext (flip_div_mod v _)
  have hexp : (v ^^^ f.signBit) / 2 ^ f.fb % 2 ^ f.eb = v / 2 ^ f.fb % 2 ^ f.eb := flip_field_below v (by unfold Fmt.eb; omega)
  have hfrac : (v ^^^ f.signBit) % 2 ^ f.fb = v % 2 ^ f.fb := by
    simpa [Fmt.signBit] using flip_field_below v (show 0 + f.fb ≤ f.w - 1 by omega)
  simp only [decodeF, hsign, hexp, hfrac, decide_not]
  repeat' split
  all_goals rfl

theorem decF_flip (g : FormG) (v : Nat) : decF g (v ^^^ 2 ^ ((gFmt g).w - 1)) = (decF g v).negate :=
  decodeF_flip (fb_le_fmtOf _) v

/-! ### Values -/

@[simp] theorem negate_nan (s : Bool) : (FV.nan s).negate = .nan s := rfl
@[simp] theorem negate_inf (n : Bool) : (FV.inf n).negate = .inf !n := rfl
@[simp] theorem negate_fin (n : Bool) (m : Nat) (e : Int) : (FV.fin n m e).negate = .fin (!n) m e := rfl
@[simp] theorem isNan_negate (x : FV) : x.negate.isNan = x.isNan := by cases x <;> rfl

theorem isNan_iff {x : FV} : x.isNan = true ↔ ∃ s, x = .nan s := by cases x <;> simp [FV.isNan]

theorem isInf_iff {x : FV} : x.isInf = true ↔ ∃ n, x = .inf n := by cases x <;> simp [FV.isInf]

theorem isZero_iff {x : FV} : x.isZero = true ↔ ∃ n e, x = .fin n 0 e := by
  cases x with
  | fin n m e => cases m <;> simp [FV.isZero]
  | _ => simp [FV.isZero]

/-! ### Products (R321, R322) -/

theorem mulFV_comm (a b : FV) : mulFV a b = mulFV b a := by
  cases a <;> cases b <;> simp [mulFV, Nat.mul_comm, Int.add_comm, Bool.or_comm, bne_comm]

theorem mulFV_negate (a b : FV) : mulFV a.negate b = (mulFV a b).negate := by
  cases a <;> cases b <;> simp [mulFV, apply_ite FV.negate]

theorem isNan_mulFV {a b : FV} (h : a.isNan = true ∨ b.isNan = true) : (mulFV a b).isNan = true := by
  simp only [isNan_iff] at h
  rcases h with ⟨s, rfl⟩ | ⟨s, rfl⟩
  · cases b <;> rfl
  · cases a <;> rfl

theorem mulFV_inf_zero (p q : Bool) (e : Int) : mulFV (.inf p) (.fin q 0 e) = .nan true := rfl

/-! ### Sums (R320, R321) -/

theorem sumExact_of_nan {rm : Nat} {ts : List FV} (h : ts.any FV.isNan = true) : sumExact rm ts = .nan (ts.any FV.signals) :=
  if_pos h

theorem sumExact_comm (rm : Nat) (x y : FV) : sumExact rm [x, y] = sumExact rm [y, x] := by
  cases x <;> cases y <;>
    simp [sumExact, leastExp, FV.isNan, FV.isInf, FV.neg?, FV.signals, Bool.or_comm, Bool.and_comm, Int.add_comm, min_comm]

/-- Infinities of both signs have no sum. -/
theorem sumExact_inf_inf (rm : Nat) (p : Bool) : sumExact rm [.inf p, .inf !p] = .nan true := by cases p <;> rfl

/-! ### Delivered results (R320) -/

section
variable (g : FormG)

theorem delF_nan (nv : Bool) : delF g (.nan nv) = ((gFmt g).nanBits, flagIf nv fNV) := rfl

theorem delF_sum_nan {ts : List FV} (h : ts.any FV.isNan = true) : (delF g (sumExact (gRm g) ts)).1 = (gFmt g).nanBits := by
  rw [sumExact_of_nan h, delF_nan]

theorem delF_product_nan {x y : FV} (h : x.isNan = true ∨ y.isNan = true) :
    (delF g (mulFV x y).exact).1 = (gFmt g).nanBits := by
  obtain ⟨s, hs⟩ := isNan_iff.1 (isNan_mulFV h)
  rw [hs]; rfl

theorem delF_quotient_nan {x y : FV} (h : x.isNan = true ∨ y.isNan = true) : (delF g (divExact x y)).1 = (gFmt g).nanBits := by
  simp only [isNan_iff] at h
  rcases h with ⟨s, rfl⟩ | ⟨s, rfl⟩
  · cases y <;> rfl
  · cases x <;> rfl

/-! ### The elementwise operations (R321, R322) -/

/-- What the fused family adds: the product and C, each with the sign the instruction gives it (R322). -/
theorem vFusedE_eq (negP negC : Bool) (a b c : Nat) : vFusedE g negP negC a b c = delF g (sumExact (gRm g)
    [if negP then (mulFV (decF g a) (decF g b)).negate else mulFV (decF g a) (decF g b),
      if negC then (decF g c).negate else decF g c]) := rfl

theorem vSubE_eq (a b : Nat) : vSubE g a b = vAddE g a (b ^^^ 2 ^ ((gFmt g).w - 1)) := by
  rw [vSubE, vAddE, decF_flip]

theorem vFusedE_negC (n : Bool) (a b c : Nat) :
    vFusedE g n true a b c = vFusedE g n false a b (c ^^^ 2 ^ ((gFmt g).w - 1)) := by
  rw [vFusedE_eq, vFusedE_eq, decF_flip]; rfl

theorem vFusedE_negP (n : Bool) (a b c : Nat) :
    vFusedE g true n a b c = vFusedE g false n (a ^^^ 2 ^ ((gFmt g).w - 1)) b c := by
  rw [vFusedE_eq, vFusedE_eq, decF_flip, mulFV_negate]; rfl

/-- A NaN in the product or in C makes the sum one (R322). -/
theorem vFusedE_nan (n m : Bool) {a b c : Nat} (h : (mulFV (decF g a) (decF g b)).isNan = true ∨ (decF g c).isNan = true) :
    (vFusedE g n m a b c).1 = (gFmt g).nanBits := by
  rw [vFusedE_eq]
  refine delF_sum_nan g ?_
  simp only [List.any_cons, apply_ite FV.isNan, isNan_negate, ite_self]
  rcases h with h | h <;> simp [h]

theorem vAddE_inf_inf {a b : Nat} {p q : Bool} (ha : decF g a = .inf p) (hb : decF g b = .inf q) (h : p ≠ q) :
    vAddE g a b = ((gFmt g).nanBits, fNV) := by
  rw [vAddE, ha, hb, Bool.eq_not.2 h.symm, sumExact_inf_inf]; rfl

theorem vSubE_inf_inf {a b : Nat} {p : Bool} (ha : decF g a = .inf p) (hb : decF g b = .inf p) :
    vSubE g a b = ((gFmt g).nanBits, fNV) := by
  rw [vSubE, ha, hb, negate_inf, sumExact_inf_inf]; rfl

theorem vMulE_inf_zero {a b : Nat} {p q : Bool} {e : Int} (ha : decF g a = .inf p) (hb : decF g b = .fin q 0 e) :
    vMulE g a b = ((gFmt g).nanBits, fNV) := by
  rw [vMulE, ha, hb]; rfl

theorem vFusedE_inf_zero {a b : Nat} {p q : Bool} {e : Int} (ha : decF g a = .inf p) (hb : decF g b = .fin q 0 e)
    (n m : Bool) (c : Nat) : vFusedE g n m a b c = ((gFmt g).nanBits, fNV) := by
  rw [vFusedE_eq, ha, hb, mulFV_inf_zero, negate_nan, ite_self, sumExact_of_nan rfl]; rfl

theorem vDivE_zero_zero {a b : Nat} {p q : Bool} {e d : Int} (ha : decF g a = .fin p 0 e) (hb : decF g b = .fin q 0 d) :
    vDivE g a b = ((gFmt g).nanBits, fNV) := by
  rw [vDivE, ha, hb]; rfl

theorem vDivE_by_zero {a b m : Nat} {p q : Bool} {e d : Int} (ha : decF g a = .fin p m e) (hb : decF g b = .fin q 0 d)
    (hm : m ≠ 0) (hinf : (gFmt g).hasInf = true) : vDivE g a b
      = ((if p ≠ q then 2 ^ ((gFmt g).w - 1) else 0) + (if g.sat then (gFmt g).maxBits else (gFmt g).infBits), fDZ) := by
  have hdiv : divExact (.fin p m e) (.fin q 0 d) = .inf (p != q) true := by simp [divExact, hm]
  rw [vDivE, ha, hb, hdiv, delF, deliver]
  simp only [bne_iff_ne, hinf, if_true, Fmt.signBit, flagIf]
  split <;> rfl

theorem vSqrtE_zero {a : Nat} {p : Bool} {e : Int} (ha : decF g a = .fin p 0 e) :
    vSqrtE g a = (if p then 2 ^ ((gFmt g).w - 1) else 0, 0) := by
  rw [vSqrtE, ha]; rfl

theorem vSqrtE_negative {a m : Nat} {e : Int} (ha : decF g a = .fin true m e) (hm : m ≠ 0) :
    vSqrtE g a = ((gFmt g).nanBits, fNV) := by
  rw [vSqrtE, ha, sqrtExact, if_neg hm]; rfl

theorem vSqrtE_inf {a : Nat} {p : Bool} (ha : decF g a = .inf p) (hinf : (gFmt g).hasInf = true) (hs : g.sat = false) :
    vSqrtE g a = if p then ((gFmt g).nanBits, fNV) else ((gFmt g).infBits, 0) := by
  rw [vSqrtE, ha]
  cases p with
  | true => rfl
  | false =>
    rw [sqrtExact, if_neg Bool.false_ne_true, delF, deliver, hs, hinf]
    exact congrArg (·, _) (Nat.zero_add _)

/-- VCMP against a NaN holds NE alone (R326). -/
theorem vCmpE_nan {a b : Nat} (ht : floatTy g) (h : (decF g a).isNan = true ∨ (decF g b).isNan = true) :
    (vCmpE g a b).1 = if condOf g = 1 then 2 ^ tyWidth g.ty.toNat - 1 else 0 := by
  have hf : isF g.ty.toNat = true := decide_eq_true ht
  have hn : ((decF g a).isNan || (decF g b).isNan) = true := by simpa using h
  unfold vCmpE
  simp only [hf, hn, if_true]

end

/-! ### VMIN, VMAX, VSCALE, VROUND and VCLASS (R324, R328 to R330) -/

theorem minMaxF_nan (f : Fmt) (most : Bool) (a b : Nat) :
    ((decodeF f a).isNan = true → (decodeF f b).isNan = false → (minMaxF f most a b).1 = b)
    ∧ ((decodeF f a).isNan = false → (decodeF f b).isNan = true → (minMaxF f most a b).1 = a)
    ∧ ((decodeF f a).isNan = true → (decodeF f b).isNan = true → (minMaxF f most a b).1 = f.nanBits) := by
  unfold minMaxF
  refine ⟨fun ha hb => ?_, fun ha hb => ?_, fun ha hb => ?_⟩ <;> simp [ha, hb]

/-- Scaling and rounding leave infinities and zeros (R329, R330). -/
theorem scale_round_special {f : Fmt} {v : Nat} (h : (decodeF f v).isInf = true ∨ (decodeF f v).isZero = true) (rm : Nat)
    (sat x : Bool) (k : Int) : scaleBy f rm sat v k = (v, 0) ∧ roundIntegral f rm x v = (v, 0) := by
  simp only [isInf_iff, isZero_iff] at h
  unfold scaleBy roundIntegral
  rcases h with ⟨n, hv⟩ | ⟨n, e, hv⟩ <;> rw [hv] <;> exact ⟨rfl, rfl⟩

/-- The class of an element is one of ten bits (R328). -/
theorem classify_one_bit (f : Fmt) (v : Nat) : ∃ n, n < 10 ∧ classify f v = 2 ^ n := by
  have pick {c : Prop} [Decidable c] {i j : Nat} (hi : i < 10) (hj : j < 10) :
      ∃ n, n < 10 ∧ (if c then 2 ^ i else 2 ^ j) = 2 ^ n := by
    split
    · exact ⟨i, hi, rfl⟩
    · exact ⟨j, hj, rfl⟩
  unfold classify
  split
  · exact pick (by decide) (by decide)
  · exact pick (by decide) (by decide)
  · split
    · exact pick (by decide) (by decide)
    · split <;> exact pick (by decide) (by decide)

/-! ### Signs (R325) -/

section
variable {g : FormG}

theorem signBit_of_floatTy (h : floatTy g) : (gFmt g).signBit = 2 ^ (tyWidth g.ty.toNat - 1) := by
  unfold floatTy at h
  unfold Fmt.signBit gFmt
  interval_cases g.ty.toNat <;> rfl

theorem signedE_eq (h : floatTy g) (a : Nat) (neg : Bool) : signedE g a neg = (if (decF g a).isNan then (gFmt g).nanBits
    else a % 2 ^ (tyWidth g.ty.toNat - 1) + if neg then 2 ^ (tyWidth g.ty.toNat - 1) else 0, 0) := by
  unfold signedE
  rw [← signBit_of_floatTy h]
  split <;> rfl

theorem negBit_eq (h : floatTy g) (a : Nat) : negBit g a = decide (a / 2 ^ (tyWidth g.ty.toNat - 1) % 2 = 1) := by
  rw [negBit, signBit_of_floatTy h]

theorem laneOf_lt_double (v : Value) (i : Nat) : laneOf g v i < 2 * 2 ^ (tyWidth g.ty.toNat - 1) :=
  pow_tyWidth _ ▸ laneOf_lt g v i

theorem vcpys_lane (h : floatTy g) (a b : Value) (i : Nat) : signedE g (laneOf g a i) (negBit g (laneOf g b i))
    = (if (decF g (laneOf g a i)).isNan then (gFmt g).nanBits else laneOf g a i % 2 ^ (tyWidth g.ty.toNat - 1)
        + laneOf g b i / 2 ^ (tyWidth g.ty.toNat - 1) * 2 ^ (tyWidth g.ty.toNat - 1), 0) := by
  have hlt : laneOf g b i / 2 ^ (tyWidth g.ty.toNat - 1) < 2 := Nat.div_lt_of_lt_mul (by
    rw [Nat.mul_comm]; exact laneOf_lt_double b i)
  rw [signedE_eq h, negBit_eq h]
  interval_cases laneOf g b i / 2 ^ (tyWidth g.ty.toNat - 1) <;> simp

theorem vabs_lane (h : floatTy g) (a : Value) (i : Nat) : signedE g (laneOf g a i) false
    = (if (decF g (laneOf g a i)).isNan then (gFmt g).nanBits else laneOf g a i % 2 ^ (tyWidth g.ty.toNat - 1), 0) :=
  signedE_eq h _ false

theorem vneg_lane (h : floatTy g) (a : Value) (i : Nat) : signedE g (laneOf g a i) (!negBit g (laneOf g a i))
    = (if (decF g (laneOf g a i)).isNan then (gFmt g).nanBits else laneOf g a i ^^^ 2 ^ (tyWidth g.ty.toNat - 1), 0) := by
  rw [signedE_eq h, negBit_eq h, flip_top (laneOf_lt_double a i)]
  simp only [← decide_not, decide_eq_true_eq, ite_not]

end

/-! ### VBCAST and VHADD (R334, R335) -/

theorem bcastV_lanes : lanesBy (fun g => g.imm.toNat < 128 / tyWidth g.ty.toNat) (fun g a _ => bcastV g a)
    fun g a _ _ => laneOf g a g.imm.toNat := by
  refine lanesBy_of_buildV fun g a _ himm => ?_
  have hcount : 128 / tyWidth g.ty.toNat ≤ 16 := (by decide : ∀ w ∈ [8, 16, 32, 64], 128 / w ≤ 16) _ (tyWidth_mem _)
  rw [bcastV, map1, Nat.mod_eq_of_lt (by omega)]
  rfl

/-- A number that one element holds, alone in a value. -/
theorem elem_ofNat {w n i : Nat} (hw : w ∈ [8, 16, 32, 64]) (hn : n < 2 ^ w) :
    elem (BitVec.ofNat 128 n) w i = if i = 0 then n else 0 := by
  have hle : w ≤ 128 := (by decide : ∀ w ∈ [8, 16, 32, 64], w ≤ 128) w hw
  have hall : n < 2 ^ 128 := Nat.lt_of_lt_of_le hn (Nat.pow_le_pow_right (by decide) hle)
  rw [elem, BitVec.toNat_ofNat, Nat.mod_eq_of_lt hall]
  cases i with
  | zero => rw [Nat.mul_zero, Nat.pow_zero, Nat.div_one, Nat.mod_eq_of_lt hn, if_pos rfl]
  | succ i =>
    have hhigh : n < 2 ^ (w * (i + 1)) :=
      Nat.lt_of_lt_of_le hn (Nat.pow_le_pow_right (by decide) (Nat.le_mul_of_pos_right _ i.succ_pos))
    rw [Nat.div_eq_of_lt hhigh]; rfl

theorem wrapTo_lt (w : Nat) (x : Int) : wrapTo w x < 2 ^ w := wrapTo_eq_toNat w x ▸ BitVec.isLt _

/-- VHADD of an integer type: the sum of all elements, in element 0 (R334). -/
theorem vHaddV_eq {g : FormG} (h : intTy g) (a : Value) : vHaddV g a
    = (BitVec.ofNat 128 (fitsTy g ((List.range (128 / tyWidth g.ty.toNat)).map (laneInt g a)).sum), 0) := by
  have hf : isF g.ty.toNat = false := decide_eq_false (by obtain ⟨h, -⟩ := h; omega)
  have hmap : (elems g a).map (intVal g.ty.toNat) = (List.range (128 / tyWidth g.ty.toNat)).map (laneInt g a) := by
    rw [elems, List.map_map]
    exact List.map_congr_left fun i _ => intVal_laneOf g a i
  rw [vHaddV, hf, if_neg Bool.false_ne_true, hmap, ← List.sum_eq_foldl, deliverInt_eq_fitsTy]

theorem vHaddV_lane {g : FormG} (h : intTy g) (a : Value) (i : Nat) : laneOf g (vHaddV g a).1 i
    = if i = 0 then fitsTy g ((List.range (128 / tyWidth g.ty.toNat)).map (laneInt g a)).sum else 0 := by
  rw [vHaddV_eq h]
  exact elem_ofNat (tyWidth_mem _) (deliverInt_eq_fitsTy g _ ▸ wrapTo_lt _ _)

/-! ### The worked examples (R322, R332, R340) -/

/-! The fields of a side word that these instructions read; the rest does not matter. -/

theorem vFusedE_reads (g : FormG) : vFusedE g = vFusedE ⟨g.ty, g.rm, g.sat, 0, 0, 0⟩ := rfl
theorem vMulE_reads (g : FormG) : vMulE g = vMulE ⟨g.ty, g.rm, g.sat, 0, 0, 0⟩ := rfl
theorem convertV_reads (g : FormG) : convertV g = convertV ⟨g.ty, g.rm, g.sat, 0, g.lmask, g.imm⟩ := rfl
theorem quantV_reads (g : FormG) : quantV g = quantV ⟨g.ty, g.rm, g.sat, 0, 0, g.imm⟩ := rfl
theorem deqV_reads (g : FormG) : deqV g = deqV ⟨g.ty, g.rm, g.sat, 0, 0, g.imm⟩ := rfl

theorem vFusedE_vMulE_example {g : FormG} (ht : g.ty = 0) (hr : g.rm = 0) (hs : g.sat = false) :
    vFusedE g false false 0x3F800001 0x3F7FFFFE 0xBF800000 = (0xA8800000, 0)
    ∧ vMulE g 0x3F800001 0x3F7FFFFE = (0x3F800000, fNX) := by
  rw [vFusedE_reads, vMulE_reads, ht, hr, hs]
  decide +kernel

theorem convertV_example {g : FormG} (ht : g.ty = 0) (hr : g.rm = 0) (hs : g.sat = true) (hm : g.lmask = 0) (hi : g.imm = 0x2B) :
    convertV g 0x43EB0000BEC00000406000003F800000 0 = (0x7EAC46380000000000000000, fNX ||| fOF) := by
  rw [convertV_reads, ht, hr, hs, hm, hi]
  decide +kernel

/-- VQUANT in its XB mode takes no operand B (R339). -/
theorem quantV_xb {g : FormG} (hi : g.imm = 0x000A) (a b : Value) :
    quantV g a b = (BitVec.ofNat 128 (bqXb (a.toNat % 65536) 4), 0) := by
  unfold quantV
  rw [hi]; rfl

/-- The steps of the example of R340: keys, the exponent byte, mantissas, and the values again. -/
theorem quantV_deqV_example {g : FormG} (ht : g.ty = 0) (hr : g.rm = 0) (hs : g.sat = false) :
    (g.imm = 0x0002 → quantV g 0x000000003F000000BFA0000040400000 0 = (202, 0))
    ∧ (g.imm = 0x000A → ∀ b, quantV g 202 b = (0x7E, 0))
    ∧ (g.imm = 0x0006 → quantV g 0x000000003F000000BFA0000040400000 202 = (0x01E6, fNX))
    ∧ (g.imm = 0x0002 → deqV g 0x01E6 0x7E = (0x000000003F000000BF80000040400000, 0)) := by
  refine ⟨fun hi => ?_, fun hi b => ?_, fun hi => ?_, fun hi => ?_⟩
  · rw [quantV_reads, ht, hr, hs, hi]; decide +kernel
  · rw [quantV_xb hi]; decide +kernel
  · rw [quantV_reads, ht, hr, hs, hi]; decide +kernel
  · rw [deqV_reads, ht, hr, hs, hi]; decide +kernel

/-- Settles O33: each law by the operation's own lemma above. -/
theorem vectorFloatingLaws : Obligations.VectorFloatingLaws := by
  unfold Obligations.VectorFloatingLaws
  refine ⟨?commute, ?difference, ?fusedC, ?fusedP, ?nan, ?infinities, ?infZero, ?byZero, ?root, ?rootInf, ?minMax, ?compare, ?special,
    ?classes, ?vcpys, ?vabs, ?vneg, bcastV_lanes, ?vhadd, ?fusedExample, ?convertExample, ?blockExample⟩
  case commute =>
    exact fun g a b => ⟨congrArg (delF g) (sumExact_comm ..), congrArg (fun x : FV => delF g x.exact) (mulFV_comm ..)⟩
  case difference => exact fun g a b _ _ => vSubE_eq g a b
  case fusedC => exact fun g a b c _ _ n => vFusedE_negC g n a b c
  case fusedP => exact fun g a b c _ _ n => vFusedE_negP g n a b c
  case nan =>
    intro g a b c n m h
    have hsum (y : FV) (hy : y.isNan = (decF g b).isNan) : [decF g a, y].any FV.isNan = true := by simpa [hy] using h
    exact ⟨delF_sum_nan g (hsum _ rfl), delF_sum_nan g (hsum _ (isNan_negate _)), delF_product_nan g h, delF_quotient_nan g h,
      vFusedE_nan g n m (.inl (isNan_mulFV h)), vFusedE_nan g n m (h.imp (fun ha => isNan_mulFV (.inr ha)) id)⟩
  case infinities =>
    intro g a b p q ha hb
    exact ⟨vAddE_inf_inf g ha hb, fun hpq => vSubE_inf_inf g (hpq ▸ ha) hb, by rw [vDivE, ha, hb]; rfl⟩
  case infZero => exact fun g a b p q e ha hb => ⟨vMulE_inf_zero g ha hb, vFusedE_inf_zero g ha hb⟩
  case byZero =>
    exact fun g a b p m e q d ha hb => ⟨fun hm => vDivE_zero_zero g (hm ▸ ha) hb, vDivE_by_zero g ha hb⟩
  case root => exact fun g a p m e ha => ⟨fun hm => vSqrtE_zero g (hm ▸ ha), fun hm hp => vSqrtE_negative g (hp ▸ ha) hm⟩
  case rootInf => exact fun g a p => vSqrtE_inf g
  case minMax => exact minMaxF_nan
  case compare => exact fun g a b => vCmpE_nan g
  case special => exact fun f rm sat x v k h => scale_round_special h rm sat x k
  case classes => exact classify_one_bit
  case vcpys => exact lanesBy_map2 fun g a b i h => vcpys_lane h a b i
  case vabs => exact lanesBy_map1 fun g a i h => vabs_lane h a i
  case vneg => exact lanesBy_map1 fun g a i h => vneg_lane h a i
  case vhadd => exact fun g a h => ⟨by rw [vHaddV_eq h], fun i _ => vHaddV_lane h a i⟩
  case fusedExample => exact fun g => vFusedE_vMulE_example
  case convertExample => exact fun g => convertV_example
  case blockExample => exact fun g => quantV_deqV_example

end Sys2Proof.Machine
end

section
/-! PROOFS. The ordered reduction node: what a firing of VRED adds, releases, holds and refuses (12 R341 to R343):
`Obligations.OrderedReduction`. -/

namespace Sys2Proof.Machine

/-! ### The register of a slot and thread (02 R55) -/

/-- A register is the one of this thread, block and slot. -/
def Vred.isOf (v : Vred) (t : ThreadId) (b : Addr) (i : Nat) : Prop := v.thread = t ∧ v.blk = b ∧ v.slot = i

theorem vredAt_isOf (k : Ctx) (t : ThreadId) (b : Addr) (i : Nat) : (k.vredAt t b i).isOf t b i := by
  unfold Ctx.vredAt
  cases h : k.vreds.find? fun v => v.thread == t && v.blk == b && v.slot == i with
  | none => exact ⟨rfl, rfl, rfl⟩
  | some v =>
    have hkey := List.find?_some h
    simp only [Bool.and_eq_true, beq_iff_eq, and_assoc] at hkey
    exact hkey

theorem vredAt_setVred {v : Vred} {t : ThreadId} {b : Addr} {i : Nat} (h : v.isOf t b i) (k : Ctx) :
    (k.setVred v).vredAt t b i = v := by
  obtain ⟨rfl, rfl, rfl⟩ := h
  unfold Ctx.vredAt Ctx.setVred
  dsimp only
  rw [List.find?_cons_of_pos (by simp only [beq_self_eq_true, Bool.and_self]), Option.getD_some]

theorem isOf_added {v : Vred} {t : ThreadId} {b : Addr} {i : Nat} (h : v.isOf t b i) (g : FormG) (c : Contrib) :
    (v.added g c).isOf t b i := by
  obtain ⟨rfl, rfl, rfl⟩ := h
  unfold Vred.added
  dsimp only
  split <;> exact ⟨rfl, rfl, rfl⟩

/-! ### One addition (R342) -/

theorem addsTo_added (g : FormG) (v : Vred) (c : Contrib) : addsTo g v (v.added g c) c := by
  unfold addsTo Vred.added
  cases c.eor <;> exact ⟨rfl, rfl, rfl, _, rfl, rfl, rfl⟩

section
variable (f : Fire) (g : FormG) (c : Contrib)

/-- The change that an addition makes of the context (R342, R343). -/
def Fire.addContrib (k : Ctx) : Ctx :=
  let k1 := k.setVred (f.vred.added g c)
  if (f.x.wv c.wave).isSome then k1 else { k1 with fpflags := k1.fpflags ||| (vredAdd g f.vred.sum c.value).2 }

theorem vredAdds_eq : f.vredAdds g c = .act (if c.eor then [f.release g c] else []) 0 (f.addContrib g c) := rfl

theorem addsTo_addContrib (k : Ctx) : addsTo g f.vred ((f.addContrib g c k).vredAt f.x.num f.p.blk f.i) c := by
  have hreg : (f.addContrib g c k).vredAt f.x.num f.p.blk f.i = f.vred.added g c := by
    have hset := vredAt_setVred (isOf_added (vredAt_isOf f.k f.x.num f.p.blk f.i) g c) k
    unfold Fire.addContrib
    dsimp only
    split <;> exact hset
  exact hreg ▸ addsTo_added g f.vred c

theorem releasesTo_iff {es : List Em} : releasesTo g f f.vred c es ↔ es = if c.eor then [f.release g c] else [] :=
  ⟨fun ⟨_, hy, he⟩ => he.trans (by rw [hy]; rfl), fun he => ⟨f.vred.youngWith c.wave, rfl, he⟩⟩

end

/-! ### What a firing of VRED comes to (R341) -/

/-- An effect whose emissions nothing holds, at a firing that nothing stops. -/
theorem fireOn_acts {s : State} {f : Fire} {sem : Fire → Sem} {es : List Em} {flags : BitVec 5} {h : Ctx → Ctx}
    (hp : s.powered f.domain = true) (hb : s.unstopped f) (hu : s.upset = .none) (hs : sem f = .act es flags h) (ho : f.opens es) :
    s.fireOn f sem = s.fired f es flags h := by
  obtain ⟨hsend, hgate⟩ := ho
  have hheld : (f.k.gateShut f.p.lcl && es.any f.starts) = false := by rcases hgate with h | h <;> simp [h]
  rw [fireOn_unstopped sem hp hb, hu, hs]
  unfold State.carry State.fired
  unfold Fire.starts at hheld
  simp only [hheld, hsend]
  rfl

section
variable {s : State} {t : Tmpl} {g : FormG} {f : Fire} {tok : Token}

theorem vredAhead_of_token (h : f.q.ta = some tok) : f.vredAhead
    = if tok.seq && tok.seqTag != f.vred.nextSeq && decide (wdist f.vred.nextSeq tok.seqTag < 0x800000)
        && !(f.vred.held.any (·.seqTag == tok.seqTag))
      then some ⟨f.w, tok.seqTag, tok.eor, tok.value, false⟩ else none := by
  rw [Fire.vredAhead, h]; rfl

theorem exec_vred_holds {c : Contrib} (hr : s.ready t none false (litV g false) = some f) (ha : f.vredAhead = some c) :
    exec (.vred t g) s = .next (s.vredHold f c) := by
  show execVred t g s = _
  rw [execVred, hr]
  simp only [ha]

theorem exec_vred_arrived (hr : s.ready t none false (litV g false) = some f) (ha : f.vredAhead = none) :
    exec (.vred t g) s = .next (s.fire t none false (litV g false) fun f => f.vredSem g) := by
  show execVred t g s = _
  rw [execVred, State.fire, hr]
  simp only [ha]

/-- What the firing on a held contribution does (R342). -/
def Fire.dueSem (f : Fire) (g : FormG) : Sem :=
  match f.vred.dueNow with
  | some c => f.vredAdds g c
  | none => .wait

theorem exec_vred_due (hr : s.ready t none false (litV g false) = none) (hd : s.vredDue t = some f) :
    exec (.vred t g) s = .next (s.fireOn f fun f => f.dueSem g) := by
  show execVred t g s = _
  rw [execVred, hr]
  simp only [hd]
  rfl

theorem dueSem_of_due {c : Contrib} (hc : f.vred.dueNow = some c) : f.dueSem g = f.vredAdds g c := by
  rw [Fire.dueSem, hc]

/-! ### A contribution that arrives (R341) -/

/-- A contribution without a sequence tag. -/
theorem vredSem_untagged (h : ∀ tok, f.q.ta = some tok → tok.seq = false) :
    f.vredAhead = none ∧ f.vredSem g = .raise 0x02 0x040000 0 := by
  unfold Fire.vredAhead Fire.vredSem
  cases ha : f.q.ta with
  | none => exact ⟨rfl, rfl⟩
  | some tok => simp [h tok ha]

section
variable (h : f.q.ta = some tok) (hseq : tok.seq = true)
include h hseq

/-- Held already, or behind NEXT: it is neither ahead of it nor NEXT itself. -/
theorem vredSem_refused
    (hbad : 2 ^ 23 ≤ wdist f.vred.nextSeq tok.seqTag ∨ ∃ c ∈ f.vred.held, c.seqTag = tok.seqTag) :
    f.vredAhead = none ∧ f.vredSem g = .raise 0x0C 4 0 := by
  rw [vredAhead_of_token h, Fire.vredSem, h]
  have hor : wdist f.vred.nextSeq tok.seqTag ≥ 0x800000 ∨ f.vred.held.any (·.seqTag == tok.seqTag) = true :=
    hbad.imp id fun ⟨c, hc, he⟩ => List.any_eq_true.2 ⟨c, hc, beq_iff_eq.2 he⟩
  rcases hor with hd | hd <;> simp [hseq, hd]

/-- Ahead of NEXT. -/
theorem vredAhead_later (hne : tok.seqTag ≠ f.vred.nextSeq) (hlt : wdist f.vred.nextSeq tok.seqTag < 2 ^ 23)
    (hheld : ∀ c ∈ f.vred.held, c.seqTag ≠ tok.seqTag) :
    f.vredAhead = some ⟨f.w, tok.seqTag, tok.eor, tok.value, false⟩ := by
  have hany : f.vred.held.any (·.seqTag == tok.seqTag) = false := by simpa using hheld
  rw [vredAhead_of_token h, if_pos]
  simpa [hseq, hne, hany] using hlt

/-- NEXT itself. -/
theorem vredSem_next (hnext : tok.seqTag = f.vred.nextSeq) (hheld : ∀ c ∈ f.vred.held, c.seqTag ≠ f.vred.nextSeq) :
    f.vredAhead = none ∧ f.vredSem g = f.vredAdds g ⟨f.w, tok.seqTag, tok.eor, tok.value, false⟩ := by
  have hany : ¬ ∃ c ∈ f.vred.held, c.seqTag = tok.seqTag := by simpa [hnext] using hheld
  have hdist : wdist f.vred.nextSeq tok.seqTag = 0 := by rw [hnext, wdist, BitVec.sub_self]; rfl
  constructor
  · rw [vredAhead_of_token h, hnext]; simp
  · rw [Fire.vredSem, h]; simp [hseq, hdist, hany]

end

/-! ### What is held (R341) -/

/-- A contribution that is held leaves the memory, and joins those of its register. -/
theorem answers_vredHold {c : Contrib} (hr : s.ready t none false (litV g false) = some f) (ha : f.vredAhead = some c) :
    answers (.vred t g) s fun u => u.mem = s.mem ∧ inCtx u s.focus.ctx fun j =>
      j.vredAt f.x.num f.p.blk f.i = { f.vred with held := f.vred.held ++ [c] } := by
  obtain ⟨k, hk, hfk, -⟩ := firingOf_ctx hr
  have hnum : (f.k.consume f.p f.x.num f.w f.i f.t f.q).num = s.focus.ctx := by
    rw [eq_of_unfired (unfired_consume ..) Ctx.num, hfk]
    exact (ctx_num hk :)
  have hof : ({ f.vred with held := f.vred.held ++ [c] } : Vred).isOf f.x.num f.p.blk f.i := vredAt_isOf f.k f.x.num f.p.blk f.i
  exact answers_of_exec (exec_vred_holds hr ha) ⟨rfl, _, ctx_setCtx hk hnum, vredAt_setVred hof _⟩

end

/-- Settles O35: each clause by what its contribution makes of the firing. -/
theorem orderedReduction : Obligations.OrderedReduction := by
  unfold Obligations.OrderedReduction
  refine ⟨?next, ?due, ?ahead, ?untagged, ?refused⟩
  case next =>
    rintro t g s f tok v es hf htok rfl hseq hnext hheld hes ho
    obtain ⟨ha, hsem⟩ := vredSem_next (g := g) htok hseq hnext hheld
    rw [(releasesTo_iff ..).1 hes] at ho ⊢
    exact ⟨_, (exec_vred_arrived hf.1 ha).trans (congrArg _ (fire_acts hf (hsem.trans (vredAdds_eq ..)) ho)),
      addsTo_addContrib f g _⟩
  case due =>
    rintro t g s f v c es hr hd hp hb hu rfl hc hes ho
    rw [(releasesTo_iff ..).1 hes] at ho ⊢
    exact ⟨_, (exec_vred_due hr hd).trans (congrArg _ (fireOn_acts hp hb hu ((dueSem_of_due hc).trans (vredAdds_eq ..)) ho)),
      addsTo_addContrib f g c⟩
  case ahead =>
    rintro t g s f tok v hr htok rfl hseq hne hlt hheld
    obtain ⟨u, hx, hmem, j, hj, hreg⟩ := answers_vredHold hr (vredAhead_later htok hseq hne hlt hheld)
    exact ⟨u, hx, hmem, j, hj, (congrArg Vred.sum hreg :), (congrArg Vred.nextSeq hreg :),
      (congrArg Vred.held hreg :)⟩
  case untagged =>
    intro t g s f hf h
    obtain ⟨ha, hsem⟩ := vredSem_untagged (g := g) h
    exact (exec_vred_arrived hf.1 ha).trans (congrArg _ (fire_raises hf hsem))
  case refused =>
    rintro t g s f hf ⟨tok, htok, hseq, hbad⟩
    obtain ⟨ha, hsem⟩ := vredSem_refused (g := g) htok hseq hbad
    exact (exec_vred_arrived hf.1 ha).trans (congrArg _ (fire_raises hf hsem))

end Sys2Proof.Machine
end

section
/-! PROOFS. The delivery of form-M operations to the store buffer: what a firing hands over and where it then stands, and the links
that do not fit their wave's chain (13 R345 to R349): `Obligations.MemoryDelivery`. -/

namespace Sys2Proof.Machine

/-! ### What a form-M firing comes to (R347, R349) -/

/-- A result due in the firing's own wave, or to no destination, passes no gate; one due in a later wave passes an open one. -/
theorem not_gated_of_joins {f : Fire} {act : MemAct} {m : FormM} (h : f.joins act m) :
    ((f.deliver act m).out != f.live && (f.deliver act m).rt.any && f.k.gateShut f.p.lcl) = false := by
  obtain ⟨-, -, hlive | hnone | hopen⟩ := h
  · rw [hlive, bne_self_eq_false, Bool.false_and, Bool.false_and]
  · rw [hnone, Bool.and_false, Bool.false_and]
  · rw [hopen, Bool.and_false]

/-- An operation whose links fit is handed over, and nothing is emitted. -/
theorem memory_of_joins {f : Fire} {act : MemAct} {m : FormM} (h : f.joins act m) :
    f.memory act m = .act [] 0 (f.handOver (f.deliver act m)) := by
  have hgate := not_gated_of_joins h
  obtain ⟨hfits, hgo, -⟩ := h
  simp only [Fire.memory, hfits, hgo, hgate, Bool.false_eq_true, if_false]

/-- One whose links do not fit is refused by its probe, before anything else is asked of the firing. -/
theorem memory_of_joinError {f : Fire} {act : MemAct} {m : FormM} {d : BitVec 24}
    (h : joinError (((f.x.wv f.live).map (·.ops)).getD []) (f.deliver act m) = some d) : f.memory act m = .probe 0x0C d 0 := by
  simp only [Fire.memory, h]

/-! ### From the firing to the instruction -/

/-- An instruction that fires as a form-M instruction completes, its operation handed over, wherever its links fit. -/
theorem completes_of_fireM {i : Instr} {t : Tmpl} {m : FormM} {act : MemAct} {xa : Option XArg} {takesB : Bool}
    (hx : ∀ s, exec i s = .next (s.fireM act t m xa takesB)) :
    completes i t xa takesB noLits (fun _ f => f.joins act m) (fun _ _ => []) (fun _ => 0)
      fun f => f.handOver (f.deliver act m) :=
  completes_of_act hx fun _ _ => memory_of_joins

/-- A form-M instruction without an XARG slot delivers: handed over or refused, as its links fit or not. -/
theorem delivers_of_fireM {mk : Tmpl → FormM → Instr} {act : MemAct} {takesB : Bool}
    (hx : ∀ t m s, exec (mk t m) s = .next (s.fireM act t m none takesB)) : delivers mk act takesB := by
  refine ⟨fun t m => completes_of_fireM (hx t m), fun t m => faults_of_probe (hx t m) fun _ f h => ?_⟩
  obtain ⟨d, hd⟩ := Option.ne_none_iff_exists'.1 h
  rw [memory_of_joinError hd, hd, Option.getD_some]

/-! ### Where the operation stands (R348) -/

/-- A wave of a thread that is changed is looked up in the changed thread. -/
theorem ctx_wv_modTh (k : Ctx) (t : ThreadId) {f : Thread → Thread} (hf : ∀ x, (f x).num = x.num) (w : WaveId) :
    (k.modTh t f).wv t w = (k.th t).bind fun x => (f x).wv w := by
  rw [Ctx.wv, th_modTh k t hf, Option.bind_map]
  rfl

/-- A wave appended to a thread's leaves what is found of the others. -/
theorem wv_append_other (x : Thread) {w : WaveId} {v : Wave} (h : v.num ≠ w) :
    ({ x with waves := x.waves ++ [v] } : Thread).wv w = x.wv w := by
  unfold Thread.wv
  rw [List.find?_append, List.find?_singleton, if_neg (by simpa using h), Option.or_none]

/-- A wave that exists is found again when it is needed. -/
theorem wv_needWave {k : Ctx} {t : ThreadId} {w : WaveId} {v : Wave} (h : k.wv t w = some v) (b : Addr) :
    (k.needWave t w b).wv t w = some v := by
  obtain ⟨x, hx, hv⟩ := Option.bind_eq_some_iff.1 h
  rw [Ctx.needWave, ctx_wv_modTh k t fun x => by split <;> rfl]
  simp only [hx, Option.bind_some, hv, Option.isSome_some, if_true]

/-- A token due to one wave of a thread leaves the other waves. -/
theorem wv_owe_other (k : Ctx) (t : ThreadId) {w u : WaveId} (b : Addr) (h : u ≠ w) : (k.owe t w b).wv t u = k.wv t u := by
  rw [Ctx.owe, ctx_wv_modTh k t fun x => by split <;> split <;> rfl]
  refine congrArg _ (funext fun x => ?_)
  by_cases hd : x.isDropped w = true
  · rw [if_pos hd]
    split <;> rfl
  · rw [if_neg hd]
    split
    · exact wv_modWv_other x (f := fun v => { v with holds := v.holds + 1 }) (fun _ => rfl) h
    · exact wv_append_other x (v := Wave.due w b) (Ne.symm h)

/-- An operation handed over is the last of its wave's: a result held due is due to another wave. -/
theorem wv_handOver {f : Fire} {k : Ctx} {v : Wave} (o : MemOp) (h : k.wv f.x.num f.live = some v) :
    (f.handOver o k).wv f.x.num f.live = some { v with ops := v.ops ++ [o] } := by
  have hjoined : ((k.needWave f.x.num f.live f.p.blk).modWv f.x.num f.live fun v => { v with ops := v.ops ++ [o] }).wv
      f.x.num f.live = some { v with ops := v.ops ++ [o] } := by
    rw [ctx_wv_modWv _ _ _ (f := fun v => { v with ops := v.ops ++ [o] }) fun _ => rfl, wv_needWave h]
    rfl
  unfold Fire.handOver
  by_cases hdue : (o.out != f.live && o.rt.any) = true
  · obtain ⟨hother, -⟩ := Bool.and_eq_true_iff.1 hdue
    rw [if_pos hdue, wv_owe_other _ _ _ (Ne.symm (bne_iff_ne.1 hother)), hjoined]
  · rw [if_neg hdue, hjoined]

/-- Settles O36: every instruction by its operation and operands, ATCAS with the operand of its XARG slot. -/
theorem memoryDelivery : Obligations.MemoryDelivery := by
  unfold Obligations.MemoryDelivery
  refine ⟨?ld, ?st, ?ldc, ?stf, ?ldi, ?sti, ?mnop, ?pref, ?fence, ?own, ?feq, ?feset, ?clean, ?flush, ?invl, ?atadd, ?atand, ?ator,
    ?atxor, ?atmin, ?atmax, ?atminn, ?atmaxn, ?atxchg, ?redadd, ?redmin, ?redmax, ?redfadd, ?atcas, ?stands⟩
  case atcas => exact fun _ _ _ => completes_of_fireM fun _ => rfl
  case stands => exact fun _ o _ _ => wv_handOver o
  all_goals exact delivers_of_fireM fun _ _ _ => rfl

end Sys2Proof.Machine
end

section
/-! PROOFS. What a firing of group X checks of its operands and of its completion word, from the bits that the statements name
(14 R367 to R369). -/

namespace Sys2Proof.Machine

/-! ### Bits that must be zero -/

section
variable {v : Value} {rs : List (Nat × Nat)}

theorem zeroBits_eq_none_iff : zeroBits v rs = none ↔ ∀ r ∈ rs, zeroAt v r.1 r.2 := by
  simp only [zeroBits, zeroAt, List.find?_eq_none, List.mem_range, Bool.and_eq_true, List.any_eq_true, decide_eq_true_eq]
  constructor
  · intro h r hr i hlo hhi
    by_cases hi : i < 128
    · exact Bool.eq_false_iff.2 fun hset => h i hi ⟨hset, r, hr, hlo, hhi⟩
    · exact BitVec.getLsbD_of_ge v i (Nat.le_of_not_lt hi)
  · rintro h i - ⟨hset, r, hr, hlo, hhi⟩
    rw [h r hr i hlo hhi] at hset
    cases hset

theorem tokenBits_eq_none (h : ∀ r ∈ rs, zeroAt v r.1 r.2) : tokenBits v rs = none := by
  rw [tokenBits, zeroBits_eq_none_iff.2 h, Option.map_none]

theorem tokenBits_singleton {hi lo : Nat} (h : zeroAt v hi lo) : tokenBits v [(hi, lo)] = none :=
  tokenBits_eq_none (List.forall_mem_singleton.2 h)

theorem zeroCheck_passes {hi lo : Nat} (h : zeroAt v hi lo) : (zeroCheck v hi lo).1 = false := by
  rw [zeroCheck, zeroBits_eq_none_iff.2 (List.forall_mem_singleton.2 h), Option.isSome_none]

end

theorem setBits_eq_nil {v n : Nat} (h : v % 2 ^ n = 0) : setBits v n = [] := by
  refine List.filter_eq_nil_iff.2 fun i hi => ?_
  have hbit := Nat.testBit_mod_two_pow v n i
  rw [h, Nat.zero_testBit, decide_eq_true (List.mem_range.1 hi), Bool.true_and] at hbit
  rw [← hbit]
  exact Bool.false_ne_true

/-- A completion word where R369 allows one passes its checks. -/
theorem wordBad_eq_none {f : Fire} {cw : Nat} (h : f.wordFits cw) (base : Nat) : f.wordBad cw base = none := by
  obtain ⟨haligned, hengine, hreserved⟩ := h
  unfold Fire.wordBad
  rw [setBits_eq_nil haligned]
  simp only [List.head?_nil, hengine, hreserved, Bool.or_self, Bool.false_eq_true, if_false]

/-- Checks of which none fails leave the effect. -/
theorem checks_pass {l : List (Bool × Sem)} (h : l.any (·.1) = false) (ok : Sem) : checks l ok = ok := by
  induction l with
  | nil => rfl
  | cons e r ih =>
    rw [List.any_cons, Bool.or_eq_false_iff] at h
    obtain ⟨he, hr⟩ := h
    exact (if_neg (by rw [he]; exact Bool.false_ne_true)).trans (ih hr)

end Sys2Proof.Machine
end

section
/-! PROOFS. The engine commands at their firing (14 R370, R386 to R388): `Obligations.EngineCommands`. -/

namespace Sys2Proof.Machine

/-- With room, a command is issued with its acceptance (R370, R371). -/
theorem issueEngine_of_room {s : State} {f : Fire} {q : EngCmd} (h : s.engineRoom f q) :
    s.issueEngine f q = .act [f.emit 0] 0 fun k => k.modShare f.p.lcl fun h => { h with cmds := h.cmds ++ [q] } := by
  unfold State.engineRoom at h
  unfold State.issueEngine
  cases harmed : q.armed with
  | true =>
    rw [harmed, if_pos rfl] at h
    have hfree : ((f.k.share f.p.lcl).cmds.any fun c => c.armed && c.fin.isNone && c.slotNo == q.slotNo) = false := by
      simpa only [List.any_eq_false, Bool.and_eq_true, Option.isNone_iff_eq_none, beq_iff_eq, not_and, and_imp] using h
    simp only [hfree, Bool.and_false, Bool.not_true, Bool.false_and, Bool.false_eq_true, if_false]
    rfl
  | false =>
    rw [harmed, if_neg Bool.false_ne_true] at h
    simp only [decide_eq_false (Nat.not_le.2 h), Bool.and_false, Bool.false_and, Bool.false_eq_true, if_false]
    rfl

/-- An instruction whose firing issues its command wherever `ok` holds of it is an engine command. -/
theorem engages_of_issue {mk : Tmpl → FormX → Instr} {takesB : Bool} {act : EngAct} {ok : FormX → Fire → EngCmd → Prop}
    {cmd : EngCmd → EngCmd} {sem : FormX → State → Fire → Sem}
    (hx : ∀ t x s, exec (mk t x) s = .next (s.fireX t x takesB (sem x s)))
    (hs : ∀ x s f, ok x f (f.engine act x) → sem x s f = s.issueEngine f (cmd (f.engine act x))) :
    engages mk takesB act ok cmd := by
  intro t x s f hf hok hroom ho
  rw [hx]
  exact congrArg _ (fire_acts hf ((hs x s f hok).trans (issueEngine_of_room hroom)) ho)

/-- The checks that all engine commands share pass (R369, R386), and then their own decide. -/
theorem engineFire_of_engages {f : Fire} {act : EngAct} {x : FormX} {zeros : List (Nat × Nat)}
    (hz : engZero act = (127, 96) :: (26, 23) :: zeros) (h : f.engages (f.engine act x) zeros) (s : State)
    {own : EngCmd → List (Bool × Sem)} (hown : (own (f.engine act x)).any (·.1) = false) :
    s.engineFire f act x own = s.issueEngine f (f.engine act x) := by
  obtain ⟨hbits, hcount, hword⟩ := h
  simp only [State.engineFire, tokenBits_eq_none (hz ▸ hbits), hcount, if_false, wordBad_eq_none hword 0, checks_pass hown]

/-- The checks of GATH and SCAT pass (R387). -/
theorem indexChecks_pass {q : EngCmd} (hb : zeroAt q.b 127 64) (hsize : vbits q.desc 66 64 ≤ 4) :
    (indexChecks q).any (·.1) = false := by
  simp only [indexChecks, List.any_cons, List.any_nil, zeroCheck_passes hb, decide_eq_false (Nat.not_lt.2 hsize), Bool.or_self]

/-- A firing of GATH or SCAT whose command passes them issues it. -/
theorem engineFire_of_indexed {f : Fire} {act : EngAct} {x : FormX} (hz : engZero act = [(127, 96), (26, 23), (95, 67)]) (s : State)
    (h : f.engages (f.engine act x) [(95, 67)] ∧ zeroAt (f.engine act x).b 127 64 ∧ vbits (f.engine act x).desc 66 64 ≤ 4) :
    s.engineFire f act x indexChecks = s.issueEngine f (f.engine act x) := by
  obtain ⟨he, hb, hsize⟩ := h
  exact engineFire_of_engages hz he s (indexChecks_pass hb hsize)

/-- The checks of CPY pass (R387). -/
theorem cpyChecks_pass {f : Fire} {q : EngCmd} (hboth : ¬(q.fromRing = true ∧ q.toRing = true))
    (hsrc : q.fromRing = true → zeroAt q.a 63 0) (hdst : q.toRing = true → zeroAt q.a 127 64)
    (hring : q.fromRing = true ∨ q.toRing = true → rValid ((f.k.share f.p.lcl).ring q.ringNo) = true) :
    (q.fromRing && q.toRing) = false ∧ (q.fromRing && (zeroCheck q.a 63 0).1) = false
      ∧ (q.toRing && (zeroCheck q.a 127 64).1) = false
      ∧ ((q.fromRing || q.toRing) && !rValid ((f.k.share f.p.lcl).ring q.ringNo)) = false := by
  refine ⟨?_, ?_, ?_, ?_⟩ <;> rw [Bool.and_eq_false_imp]
  · exact fun hf => Bool.eq_false_iff.2 fun ht => hboth ⟨hf, ht⟩
  · exact fun hf => zeroCheck_passes (hsrc hf)
  · exact fun ht => zeroCheck_passes (hdst ht)
  · exact fun h => by rw [hring (Bool.or_eq_true_iff.1 h), Bool.not_true]

/-- Settles O40: each command by the checks that all share and by its own; a COLL by whether it fits its group. -/
theorem engineCommands : Obligations.EngineCommands := by
  unfold Obligations.EngineCommands
  refine ⟨?cpy, ?cpy2d, ?gath, ?scat, ?coll, ?misfit⟩
  case cpy =>
    refine engages_of_issue (fun _ _ _ => rfl) fun x s f ⟨he, hboth, hsrc, hdst, hring⟩ => engineFire_of_engages rfl he s ?_
    obtain ⟨hrings, hsrcs, hdsts, hvalid⟩ := cpyChecks_pass hboth hsrc hdst hring
    simp only [List.any_cons, List.any_nil, hrings, hsrcs, hdsts, hvalid, Bool.or_self]
  case cpy2d =>
    refine engages_of_issue (fun _ _ _ => rfl) fun x s f ⟨he, hrow, hunits⟩ => engineFire_of_engages rfl he s ?_
    simp only [List.any_cons, List.any_nil, decide_eq_false hrow, hunits, bne_self_eq_false, Bool.or_self]
  case gath => exact engages_of_issue (fun _ _ _ => rfl) fun _ s _ => engineFire_of_indexed rfl s
  case scat => exact engages_of_issue (fun _ _ _ => rfl) fun _ s _ => engineFire_of_indexed rfl s
  case coll =>
    refine engages_of_issue (fun _ _ _ => rfl) fun x s f ⟨⟨hbits, hcount, hword⟩, helem, hfit, hother⟩ => ?_
    have halone : ((f.k.collective (f.engine .coll x).collId).any fun c => c.1 == f.p.lcl) = false := by
      simpa only [List.any_eq_false, beq_iff_eq] using hother
    simp only [tokenBits_eq_none (rs := engZero .coll) hbits, hcount, if_false, wordBad_eq_none hword 0, helem, bne_self_eq_false,
      hfit, halone, Bool.false_eq_true, id]
  case misfit =>
    refine engages_of_issue (fun _ _ _ => rfl) fun x s f ⟨⟨hbits, hcount, hword⟩, helem, hmisfit⟩ => ?_
    simp only [tokenBits_eq_none (rs := engZero .coll) hbits, hcount, if_false, wordBad_eq_none hword 0, helem, bne_self_eq_false,
      hmisfit, Bool.false_eq_true, if_true]

end Sys2Proof.Machine
end

section
/-! PROOFS. The instructions of form X that are held until their wave commits (14 R368, R380 to R396):
`Obligations.UnitInstructions`. -/

namespace Sys2Proof.Machine

/-! ### From the effect of a firing to what the instruction does -/

/-- An instruction whose firing is held wherever `ok` holds. -/
theorem holdsX_of_hold {mk : Tmpl → FormX → Instr} {act : DefAct} {ok : FormX → State → Fire → Prop} {cfv : FormX → Fire → Value}
    {data : FormX → State → Fire → List Byte} {sem : FormX → State → Fire → Sem}
    (hx : ∀ t x s, exec (mk t x) s = .next (s.fireX t x false (sem x s)))
    (hs : ∀ x s f, ok x s f → sem x s f = f.hold act x (cfv x f) (data x s f)) : holdsX mk act ok cfv data := by
  intro t x s f hf hok ho
  rw [hx]
  exact congrArg _ (fire_acts hf (hs x s f hok) ho)

/-- Nothing keeps a firing from its emissions when nothing stops it and nothing holds them. -/
theorem goes_of_canFire {s : State} {t : Tmpl} {xa : Option XArg} {takesB : Bool} {l : Lits} {f : Fire} {es : List Em}
    (hf : s.canFire t xa takesB l f) (ho : f.opens es) : s.goes f es = true := by
  obtain ⟨-, hpower, hbreak, hupset⟩ := hf
  obtain ⟨hsend, hgate⟩ := ho
  have hheld : (f.k.gateShut f.p.lcl && es.any f.starts) = false := by rcases hgate with h | h <;> simp [h]
  have hunstopped : (s.dbg.pass == some s.focus || (s.breakpoint f.k.num f.x.num f.p.blk f.i).isNone) = true := by
    rcases hbreak with h | h <;> simp [h]
  unfold Fire.starts at hheld
  simp only [State.goes, hpower, hunstopped, hupset, hsend, hheld, beq_self_eq_true, Option.isNone_none, Bool.not_false,
    Bool.and_self]

/-- A firing that reads a sound record acts on it, and leaves what the reading leaves (R391, R393). -/
theorem fireRecord_acts {s : State} {t : Tmpl} {x : FormX} {f : Fire} {bad : List Byte → Option Nat} {eff : Fire → List Byte → Sem}
    {b : List Byte} {es : List Em} {flags : BitVec 5} {g : Ctx → Ctx} (hf : s.canFire t none false noLits f)
    (hb : s.recordAt f (f.record x) = .ok b) (hsound : bad b = none) (hw : s.recordWaits f (f.record x) = false)
    (he : eff f b = .act es flags g) (ho : f.opens es) :
    s.fireRecord t x bad eff = (s.fired f es flags g).readRecord s f (f.record x) := by
  have hsem : f.recorded s x bad (eff f) = .act es flags g := by
    simp only [Fire.recorded, hb, hw, hsound, he, Bool.false_eq_true, if_false]
  have hgoes : s.goes f (f.recorded s x bad (eff f)).ems = true := by rw [hsem]; exact goes_of_canFire hf ho
  have hfired : s.fireX t x false (fun f => f.recorded s x bad (eff f)) = s.fired f es flags g := fire_acts hf hsem ho
  have hready : s.ready t none false (litX x) = some f := hf.1
  simp only [State.fireRecord, hready, hb, hw, hgoes, hfired, Bool.not_false, Bool.and_self, if_true]

/-! ### The statement -/

/-- Settles O41: each instruction by the checks of its firing, the two that read a record by what it shows. -/
theorem unitInstructions : Obligations.UnitInstructions := by
  unfold Obligations.UnitInstructions
  refine ⟨?acccfg, ?rinit, ?rstat, ?radv, ?ecan, ?strcfg, ?strgo, ?strstop, ?sqcfg, ?sqgo, ?chwire, ?chset, ?chpulse⟩
  case acccfg =>
    refine holdsX_of_hold (fun _ _ _ => rfl) fun x s f ⟨hhigh, hmid, hlow, hvar, hfmt, hnode, htk⟩ => ?_
    have hzero : ∀ r ∈ if x.var = 0 then [(23, 0)] else [], zeroAt f.q.a r.1 r.2 := by
      split
      · exact List.forall_mem_singleton.2 (hvar ‹_›)
      · exact List.forall_mem_nil _
    have hbits : ∀ r ∈ [(127, 64), (46, 35), (26, 24)] ++ (if x.var = 0 then [(23, 0)] else []), zeroAt f.q.a r.1 r.2 :=
      List.forall_mem_append.2
        ⟨List.forall_mem_cons.2 ⟨hhigh, List.forall_mem_cons.2 ⟨hmid, List.forall_mem_singleton.2 hlow⟩⟩, hzero⟩
    have heor : (cfNode (lo64 f.q.a) && decide (cfEor (lo64 f.q.a) = 0)) = false :=
      Bool.and_eq_false_imp.2 fun h => decide_eq_false (hnode h)
    have htgt : (!cfTk (lo64 f.q.a) && (cfTgt (lo64 f.q.a)).extractLsb' 5 3 != 0) = false :=
      Bool.and_eq_false_imp.2 fun h => bne_eq_false_iff_eq.2 (htk (by simpa only [Bool.not_eq_true'] using h))
    simp only [tokenBits_eq_none hbits]
    refine checks_pass ?_ _
    simp only [List.any_cons, List.any_nil, decide_eq_false hfmt, heor, htgt, Bool.or_self]
  case rinit =>
    refine holdsX_of_hold (fun _ _ _ => rfl) fun x s f ⟨hclear, hbits, hset⟩ => ?_
    have hzero : ∀ r ∈ if x.var = 1 then [(127, 0)] else [(34, 34), (11, 0)], zeroAt f.q.a r.1 r.2 := by
      split
      · exact List.forall_mem_singleton.2 (hclear ‹_›)
      · exact List.forall_mem_cons.2 ((hbits ‹_›).imp id List.forall_mem_singleton.2)
    simp only [tokenBits_eq_none hzero]
    refine checks_pass ?_ _
    by_cases h : x.var = 0
    · obtain ⟨hvalid, hbase, hthresh⟩ := hset h
      simp only [List.any_cons, List.any_nil, hvalid, decide_eq_false (Nat.not_lt.2 hbase), decide_eq_false (Nat.not_lt.2 hthresh),
        Bool.not_true, Bool.and_false, Bool.or_self]
    · simp only [List.any_cons, List.any_nil, decide_eq_false h, Bool.false_and, Bool.or_self]
  case rstat => exact fun _ _ => computes_of_result fun _ => rfl
  case radv =>
    refine holdsX_of_hold (fun _ _ _ => rfl) fun x s f ⟨hbits, hvalid, hrows⟩ => ?_
    simp only [tokenBits_singleton hbits]
    refine checks_pass ?_ _
    simp only [List.any_cons, List.any_nil, hvalid, Bool.not_true, decide_eq_false (Nat.not_lt.2 hrows), Bool.or_self]
  case ecan =>
    exact holdsX_of_hold (fun _ _ _ => rfl) fun x s f ⟨hscratch, hmap⟩ => if_pos (Bool.and_eq_true_iff.2 ⟨hscratch, hmap⟩)
  case strcfg => exact fun t x s f b hf hb hsound hw ho => congrArg _ (fireRecord_acts hf hb hsound hw rfl ho)
  case strgo =>
    refine holdsX_of_hold (fun _ _ _ => rfl) fun x s f ⟨u, hu, hcounts⟩ => ?_
    have hrun : (u.used.any fun d => decide (dimCount d = 0)) = false := by simpa using hcounts
    simp only [hu, hrun, Bool.false_eq_true, if_false]
  case strstop => exact holdsX_of_hold (fun _ _ _ => rfl) fun _ _ _ _ => rfl
  case sqcfg => exact fun t x s f b hf hb hsound hw ho => congrArg _ (fireRecord_acts hf hb hsound hw rfl ho)
  case sqgo =>
    refine holdsX_of_hold (fun _ _ _ => rfl) fun x s f ⟨hbits, hdrum⟩ => ?_
    have hdrum : ((f.k.share f.p.lcl).drums.any fun d => d.num == f.q.a.extractLsb' 0 13) = true := by simpa using hdrum
    simp only [tokenBits_singleton hbits, hdrum, if_true]
  case chwire =>
    refine holdsX_of_hold (fun _ _ _ => rfl) fun x s f ⟨hwidth, hentry⟩ => ?_
    generalize (if x.var.getLsbD 2 then f.cfv x else f.q.a) = v at hwidth hentry ⊢
    have hbits : (if x.var.toNat % 4 = 3 then none else zeroBits v [(127, chimeWidth (x.var.toNat % 4))]) = none := by
      split
      · rfl
      · exact zeroBits_eq_none_iff.2 (List.forall_mem_singleton.2 (hwidth ‹_›))
    simp only [hbits, hentry]
  case chset => exact holdsX_of_hold (fun _ _ _ => rfl) fun _ _ _ _ => rfl
  case chpulse => exact holdsX_of_hold (fun _ _ _ => rfl) fun _ _ _ _ => rfl

end Sys2Proof.Machine
end

section
/-! PROOFS. The state that refutes `Obligations.MatrixCommands`: an ACCSPL that stood ready when its PE last fired and meets a full
queue, and so stands back. -/

namespace Sys2Proof.Machine

/-- The template and side word of an ACCSPL whose one destination is slot 1. -/
def accsplTmpl : Tmpl := ⟨.pass, .tok, .tok, 1, 0⟩
def accsplSide : FormX := FormX.dec 0

/-- ACCSPL ready in slot 0 on PE 0 of cluster 0, where it stood ready at the PE's last firing too, while 16 commands stand in the
queue of domain 0. -/
def accsplAtFullQueue : State :=
  let s := State.reset.withWords ⟨0x95000100#32, 0, 0, 0⟩
  { s with
    focus := ⟨0, 0, 0, 0, 0⟩, upset := .none, counted := [(0, [⟨0, 0, 0, 0, 0⟩])]
    ctxs := s.ctxs.map fun k => { k with
      shares := [{ Share.fresh 0 with doms := [(0, { Dom.zero with queue := List.replicate 16 default })] }] } }

/-- The firing of its slot 0. -/
def accsplFire : Fire := (accsplAtFullQueue.ready accsplTmpl none false noLits).getD default

theorem accsplAtFullQueue_canFire : accsplAtFullQueue.canFire accsplTmpl none false noLits accsplFire := by
  have hready : (accsplAtFullQueue.ready accsplTmpl none false noLits).isSome = true := by decide +kernel
  refine ⟨?_, by decide +kernel, .inr (by decide +kernel), by decide +kernel⟩
  obtain ⟨f, hf⟩ := Option.isSome_iff_exists.1 hready
  rw [accsplFire, hf]
  rfl

/-- Its control token is zero, and names a completion word at the start of the scratchpad; its queue is full. -/
theorem accsplFire_token : accsplFire.q.a = 0 ∧ accsplFire.wordFits 0 ∧ 16 ≤ accsplFire.dom.queue.length := by
  unfold Fire.wordFits
  decide +kernel

/-- The sites that stood ready at the last firing of a PE and have not stood back since, after an instruction. -/
def countedAfter (i : Instr) (s : State) (pe : Nat) : Option (List Site) :=
  match exec i s with
  | .next t => some (tgetD t.counted pe [])
  | _ => none

theorem countedAfter_of_exec {i : Instr} {s t : State} (pe : Nat) (h : exec i s = .next t) :
    countedAfter i s pe = some (tgetD t.counted pe []) := by
  unfold countedAfter
  rw [h]

/-- The firing waits, and no longer counts among what stood ready on its PE (R36). -/
theorem accsplAtFullQueue_standsBack : countedAfter (.accspl accsplTmpl accsplSide) accsplAtFullQueue 0 = some []
    ∧ tgetD accsplAtFullQueue.counted 0 [] = [⟨0, 0, 0, 0, 0⟩] := by decide +kernel

/-- Refutes O39: a command that finds its queue of 16 full does wait, but its firing does not leave the state as it was. A firing that
waits holds back nothing else of its PE meanwhile (R36), so it is taken out of what is remembered to have stood ready there. -/
theorem not_matrixCommands : ¬ Obligations.MatrixCommands := by
  unfold Obligations.MatrixCommands
  rintro ⟨-, -, -, -, haccspl, -⟩
  obtain ⟨ha, hword, hfull⟩ := accsplFire_token
  have hzero (hi lo : Nat) : zeroAt accsplFire.q.a hi lo := fun i _ _ => by rw [ha]; exact BitVec.getLsbD_zero
  have hcwoff : vbits accsplFire.q.a 118 96 = 0 := by rw [ha]; rfl
  obtain ⟨-, hheld⟩ := haccspl accsplTmpl accsplSide _ _ accsplAtFullQueue_canFire
    ⟨hzero 5 0, hzero 95 56, hzero 127 119, hcwoff ▸ hword⟩
  obtain ⟨hafter, hbefore⟩ := accsplAtFullQueue_standsBack
  rw [countedAfter_of_exec 0 (hheld hfull), hbefore] at hafter
  cases hafter

end Sys2Proof.Machine
end

section
/-! PROOFS. The queue, table and system instructions of group S: those that hand an operation over, the ones of context 0 alone, the
ones that give a value at once, and those that are held until their wave commits (15 R397 to R436). -/

namespace Sys2Proof.Machine

/-! ### Operations handed over (15 R397, R427 to R430) -/

section
variable {i : Instr} {t : Tmpl} {m : FormM} {act : MemAct} {op : BitVec 8} {takesB : Bool}

/-- An instruction of context 0 alone hands its operation over there, where its links fit. -/
theorem completes_of_fireHouseM (hx : ∀ s, exec i s = .next (s.fireHouseM act op t m takesB)) :
    completes i t none takesB noLits (fun _ f => f.k.num = 0 ∧ f.joins act m) (fun _ _ => []) (fun _ => 0)
      fun f => f.handOver (f.deliver act m) := by
  refine completes_of_act hx fun _ f ⟨hhouse, hjoins⟩ => ?_
  simp only [hhouse, bne_self_eq_false, Bool.false_eq_true, if_false, memory_of_joins hjoins]

/-- Elsewhere it raises PRIVILEGE, with its opcode as the detail. -/
theorem faults_of_fireHouseM {detail : BitVec 24} (hx : ∀ s, exec i s = .next (s.fireHouseM act op t m takesB))
    (hd : op.zeroExtend 24 = detail) :
    faults i t none takesB noLits (fun _ f => f.k.num ≠ 0) 0x14 0 (fun _ => detail) fun _ => 0 :=
  faults_of_raise hx fun _ _ htenant => hd ▸ if_pos (bne_iff_ne.2 htenant)

end

/-- Settles O37: every instruction by its operation and operands, those of context 0 alone by their own firing. -/
theorem queueDelivery : Obligations.QueueDelivery := by
  unfold Obligations.QueueDelivery
  refine ⟨?launch, ?lstat, ?lbar, ?pqput, ?pqget, ?rtget, ?rtdone, ?qput, ?qget, ?qbind, ?qunbind, ?iqput, ?iqget, ?iqlook, ?iqcons,
    ?iqadv, ?iqquiet, ?capget, ?joinw, ?dput, ?dget, ?pattr, ?logset, ?keyset, ?xlinv⟩
  case logset => exact fun _ _ => completes_of_fireHouseM fun _ => rfl
  case keyset => exact fun _ _ => completes_of_fireHouseM fun _ => rfl
  case xlinv => exact fun _ _ => completes_of_fireHouseM fun _ => rfl
  all_goals exact delivers_of_fireM fun _ _ _ => rfl

/-! ### Reserved bits of an operand (15 R399) -/

theorem opBits_eq_none {v : Value} {hi lo : Nat} (h : zeroAt v hi lo) : opBits v [(hi, lo)] = none := by
  rw [opBits, zeroBits_eq_none_iff.2 (List.forall_mem_singleton.2 h), Option.map_none]

/-! ### SUSRD (R426) -/

/-- How many units of each kind there are (06 R194). -/
def unitCount (kind : Nat) : Nat := match kind with | 0 => 96 | 1 => 16 | 2 => 4096 | _ => 128

/-- The unit of a 12-bit number exists exactly when its number is below the count of its kind. -/
theorem lt_unitCount_iff (kind : BitVec 2) (n : BitVec 12) :
    n.toNat < unitCount kind.toNat ↔ unitExists (unitOf kind.toNat n.toNat) = true := by
  have hn : n.toNat % 2 ^ 16 = n.toNat := Nat.mod_eq_of_lt (n.isLt.trans (by decide))
  have hkind : kind.toNat < 4 := kind.isLt
  unfold unitExists unitOf unitCount
  simp only [BitVec.toNat_ofNat, hn]
  generalize kind.toNat = c at hkind
  match c, hkind with
  | 0, _ | 1, _ | 2, _ | 3, _ => exact decide_eq_true_iff.symm

/-- What a firing of SUSRD does (R426). -/
def Fire.susrd (f : Fire) (s : State) (g : FormG) : Sem :=
  let kind := (g.imm.extractLsb' 0 2).toNat
  let n := (f.q.a.extractLsb' 0 12).toNat
  match opBits f.q.a [(127, 12)] with
  | some e => e
  | none =>
    if f.k.num = 0 then
      (if n ≥ unitCount kind then badOperand 0 else f.result (scalar (s.scoreOf (unitOf kind n)).word))
    else if kind != 0 || n ≥ f.k.lclusters || n ≥ 128 then .raise 0x14 0xDA 0
    else f.result (scalar (s.scoreOf (clusterUnit (f.k.phys n))).word)

theorem exec_susrd (t : Tmpl) (g : FormG) (s : State) :
    exec (.susrd t g) s = .next (s.fire t none false noLits fun f => f.susrd s g) := rfl

section
variable {f : Fire} {g : FormG}

/-- In context 0 it gives the score of any unit. -/
theorem susrd_house (s : State) (hhouse : f.k.num = 0) (hbits : zeroAt f.q.a 127 12)
    (hunit : (f.q.a.extractLsb' 0 12).toNat < unitCount (g.imm.extractLsb' 0 2).toNat) :
    f.susrd s g
      = f.result (scalar (s.scoreOf (unitOf (g.imm.extractLsb' 0 2).toNat (f.q.a.extractLsb' 0 12).toNat)).word) := by
  simp only [Fire.susrd, opBits_eq_none hbits, hhouse, if_true, ge_iff_le, if_neg (Nat.not_le.2 hunit)]

/-- Elsewhere it gives the score of one of the context's own clusters. -/
theorem susrd_tenant (s : State) (htenant : f.k.num ≠ 0) (hbits : zeroAt f.q.a 127 12) (hkind : g.imm.extractLsb' 0 2 = 0)
    (hown : (f.q.a.extractLsb' 0 12).toNat < f.k.lclusters) (hlimit : (f.q.a.extractLsb' 0 12).toNat < 128) :
    f.susrd s g = f.result (scalar (s.scoreOf (clusterUnit (f.k.phys (f.q.a.extractLsb' 0 12).toNat))).word) := by
  have hallowed : ((g.imm.extractLsb' 0 2).toNat != 0 || decide ((f.q.a.extractLsb' 0 12).toNat ≥ f.k.lclusters)
      || decide ((f.q.a.extractLsb' 0 12).toNat ≥ 128)) = false := by
    rw [hkind, decide_eq_false (Nat.not_le.2 hown), decide_eq_false (Nat.not_le.2 hlimit)]; rfl
  simp only [Fire.susrd, opBits_eq_none hbits, htenant, if_false, hallowed, Bool.false_eq_true]

/-- And refuses every other unit. -/
theorem susrd_refused (s : State) (htenant : f.k.num ≠ 0) (hbits : zeroAt f.q.a 127 12)
    (hother : g.imm.extractLsb' 0 2 ≠ 0 ∨ f.k.lclusters ≤ (f.q.a.extractLsb' 0 12).toNat) :
    f.susrd s g = .raise 0x14 0xDA 0 := by
  have hrefused : ((g.imm.extractLsb' 0 2).toNat != 0 || decide ((f.q.a.extractLsb' 0 12).toNat ≥ f.k.lclusters)
      || decide ((f.q.a.extractLsb' 0 12).toNat ≥ 128)) = true := by
    rcases hother with hkind | hbeyond
    · have hnum : (g.imm.extractLsb' 0 2).toNat ≠ 0 := fun h => hkind (BitVec.eq_of_toNat_eq h)
      rw [bne_iff_ne.2 hnum]; rfl
    · rw [decide_eq_true hbeyond, Bool.or_true]; rfl
  simp only [Fire.susrd, opBits_eq_none hbits, htenant, if_false, hrefused, if_true]

end

/-- Settles O38: the operations of context 0 alone by their shared firing, SUSRD by the unit it names. -/
theorem privilegedInstructions : Obligations.PrivilegedInstructions := by
  unfold Obligations.PrivilegedInstructions
  refine ⟨?logset, ?keyset, ?xlinv, ?leaseq, ?susrdRefused, ?susrdHouse, ?susrdTenant⟩
  case logset => exact fun _ _ => faults_of_fireHouseM (fun _ => rfl) (by decide)
  case keyset => exact fun _ _ => faults_of_fireHouseM (fun _ => rfl) (by decide)
  case xlinv => exact fun _ _ => faults_of_fireHouseM (fun _ => rfl) (by decide)
  case leaseq => exact fun _ _ => faults_of_raise (fun _ => rfl) fun _ _ htenant => if_pos (bne_iff_ne.2 htenant)
  case susrdRefused =>
    exact fun t g => faults_of_raise (exec_susrd t g) fun s f ⟨htenant, hbits, hother⟩ => susrd_refused s htenant hbits hother
  case susrdHouse =>
    exact fun t g => completes_of_act (exec_susrd t g) fun s f ⟨hhouse, hbits, hunit⟩ =>
      susrd_house s hhouse hbits ((lt_unitCount_iff _ _).2 hunit)
  case susrdTenant =>
    exact fun t g => completes_of_act (exec_susrd t g) fun s f ⟨htenant, hbits, hkind, hown, hlimit⟩ =>
      susrd_tenant s htenant hbits hkind hown hlimit

/-! ### Values given at once (R425 to R427, R431) -/

/-- A ring address is masked for a tenant alone, at word 2 of a range (R427). -/
theorem extract_eq_two_iff (v : BitVec 16) : v.extractLsb' 0 2 = 2 ↔ (v.extractLsb' 0 2).toNat = 2 :=
  ⟨fun h => by rw [h]; rfl, fun h => BitVec.eq_of_toNat_eq h⟩

/-- Settles O42: each instruction by the value it gives. -/
theorem systemReads : Obligations.SystemReads := by
  unfold Obligations.SystemReads
  refine ⟨?cntrd, ?enrd, ?logrdTenant, ?logrdHouse, ?susrd, ?leaseq⟩
  case cntrd => exact fun _ _ => completes_of_act (fun _ => rfl) fun _ _ _ => rfl
  case enrd => exact fun _ _ => computes_of_result fun _ => rfl
  case logrdTenant =>
    refine fun _ g => completes_of_act (fun _ => rfl) fun _ f ⟨htenant, hbits⟩ => ?_
    have hnum : (f.k.num != 0) = true := bne_iff_ne.2 htenant
    simp only [htenant, if_false, opBits_eq_none hbits, hnum, Bool.true_and, Option.bind_some, decide_eq_true_eq, extract_eq_two_iff]
    rfl
  case logrdHouse =>
    refine fun _ g => completes_of_act (fun _ => rfl) fun _ f ⟨hhouse, hbits⟩ => ?_
    simp only [hhouse, if_true, opBits_eq_none hbits, bne_self_eq_false, Bool.false_and, Bool.false_eq_true, if_false]
    rfl
  case susrd =>
    exact fun t g => completes_of_act (exec_susrd t g) fun s f ⟨hhouse, hbits, hunit⟩ => susrd_house s hhouse hbits hunit
  case leaseq =>
    refine fun _ g => completes_of_act (fun _ => rfl) fun _ f ⟨hhouse, hbits⟩ => ?_
    simp only [hhouse, bne_self_eq_false, Bool.false_eq_true, if_false, opBits_eq_none hbits]
    rfl

/-! ### YIELD and BRK (R423, R434) -/

/-- BRK fires where the debug port does not stop it (R434). -/
theorem exec_brk_fires {t : Tmpl} {s : State} {f : Fire} (g : FormG) (hf : s.canFire t none false noLits f)
    (hpass : s.dbg.pass = some s.focus ∨ s.debugging f.k.num f.x.num = false) :
    exec (.brk t g) s = .next (s.fire t none false noLits fun f => .act [f.pass f.all f.q.a f.q.ta f.outWave] 0 id) := by
  have hfires : (s.powered f.domain && s.debugging f.k.num f.x.num && s.dbg.pass != some s.focus) = false := by
    rcases hpass with h | h <;> simp [h]
  change execBrk t g s = _
  simp only [execBrk, hf.1, hfires, Bool.false_eq_true, if_false]
  rfl

/-- It halts its context where the port watches its thread (R434, 02 R75). -/
theorem exec_brk_halts {t : Tmpl} {s : State} {f : Fire} (g : FormG) (hf : s.ready t none false noLits = some f)
    (hpower : s.powered f.domain = true) (hpass : s.dbg.pass ≠ some s.focus) (hwatched : s.debugging f.k.num f.x.num = true)
    (hgoes : s.dbg.halted = false) :
    exec (.brk t g) s = .next (s.debugHalt f.k.num f.x.num f.w 0xFF (some s.focus)) := by
  have hstops : (s.powered f.domain && s.debugging f.k.num f.x.num && s.dbg.pass != some s.focus) = true := by
    rw [hpower, hwatched, bne_iff_ne.2 hpass]; rfl
  change execBrk t g s = _
  simp only [execBrk, hf, hstops, if_true, hgoes, Bool.false_eq_true, if_false]

/-- Settles O43: YIELD by its context's pending events, BRK by the debug port. -/
theorem yieldAndBreak : Obligations.YieldAndBreak := by
  unfold Obligations.YieldAndBreak
  refine ⟨?yields, ?passes, ?halts⟩
  case yields =>
    refine fun _ _ => completes_of_act (fun _ => rfl) fun _ f hcalm => ?_
    simp only [hcalm, Bool.false_eq_true, if_false]
  case passes =>
    intro t g s f hf hpass ho
    rw [exec_brk_fires g hf hpass, fire_acts hf rfl ho]
  case halts =>
    intro t g s f hf hpower hpass hwatched hgoes
    exact ⟨_, exec_brk_halts g hf hpower hpass hwatched hgoes, rfl, rfl, rfl, rfl, modCtx_mem .., fun _ hk => ctx_debugHalt hk ..⟩

/-! ### Instructions held until their wave commits (R398) -/

/-- An instruction whose firing is held wherever `ok` holds, with an acceptance or with its result to come. -/
theorem holdsG_of_hold {mk : Tmpl → FormG → Instr} {act : DefAct} {ok : FormG → State → Fire → Prop} {imm : FormG → BitVec 16}
    {now : Bool} {data : State → Fire → List Byte} {sem : FormG → State → Fire → Sem}
    (hx : ∀ t g s, exec (mk t g) s = .next (s.fireG t (sem g s)))
    (hs : ∀ g s f, ok g s f → sem g s f = .act (if now then [f.emit 0] else []) 0 (f.defer (f.deferred act default (imm g) 0 (data s f)))) :
    holdsG mk act ok imm now data := by
  intro t g s f hf hok ho
  rw [hx]
  exact congrArg _ (fire_acts hf (hs g s f hok) ho)

theorem pinFire_eq {s : State} {f : Fire} {hd : List Byte} (act : DefAct) (hbits : zeroAt f.q.a 127 32)
    (hwaits : s.imageWaits f.k f.p.kimg.toNat = false) (hhead : s.kernelHeader f.k f.p.kimg.toNat = .ok hd)
    (hrange : (f.q.a.extractLsb' 16 16).toNat = 0
      ∨ (f.q.a.extractLsb' 0 16).toNat + (f.q.a.extractLsb' 16 16).toNat ≤ fieldAt hd 0x18 2) :
    s.pinFire act f = awaited f (f.deferred act default 0 0
      (((s.subgraph f.k f.p.kimg.toNat hd (f.q.a.extractLsb' 0 16).toNat (f.q.a.extractLsb' 16 16).toNat).getD []).flatMap
        fun b => leBytes 8 b.toNat)) := by
  have hfits : ((f.q.a.extractLsb' 16 16).toNat != 0
      && decide ((f.q.a.extractLsb' 0 16).toNat + (f.q.a.extractLsb' 16 16).toNat > fieldAt hd 0x18 2)) = false := by
    rcases hrange with h | h
    · rw [h]; rfl
    · rw [decide_eq_false (Nat.not_lt.2 h), Bool.and_false]
  simp only [State.pinFire, opBits_eq_none hbits, hwaits, hhead, hfits, Bool.false_eq_true, if_false]

theorem resolveFire_eq {f : Fire} (act : DefAct) (imm : BitVec 16) (hbits : zeroAt f.q.a 127 32)
    (hrecord : f.q.a.extractLsb' 0 32 ≠ 0) : resolveFire act imm f = awaited f (f.deferred act default imm 0 []) := by
  simp only [resolveFire, opBits_eq_none hbits, if_neg hrecord]

/-- Settles O44: each instruction by the checks of its firing. -/
theorem systemAccepted : Obligations.SystemAccepted := by
  unfold Obligations.SystemAccepted
  refine ⟨?steal, ?cfgreq, ?dswitch, ?migrq, ?undefined⟩
  case steal =>
    refine holdsG_of_hold (fun _ _ _ => rfl) fun g s f ⟨hbits, hleast, hmost⟩ => ?_
    have hcount : (decide ((f.q.a.extractLsb' 0 12).toNat = 0) || decide ((f.q.a.extractLsb' 0 12).toNat > 1536)) = false := by
      rw [decide_eq_false (Nat.one_le_iff_ne_zero.1 hleast), decide_eq_false (Nat.not_lt.2 hmost)]; rfl
    simp only [opBits_eq_none hbits, hcount, Bool.false_eq_true, if_false]
    rfl
  case cfgreq =>
    refine fun hd bs => holdsG_of_hold (fun _ _ _ => rfl) fun g s f ⟨hbits, hwaits, hhead, hsub, hentry, hback⟩ => ?_
    have hlinked : ((((f.p.links[(f.q.a.extractLsb' 20 4).toNat]?).getD none).map (·.1)) == some (bs.headD 0)
        && bs.any fun b => s.linksTo f.k f.p.kimg.toNat hd b f.p.blk (f.q.a.extractLsb' 24 4).toNat) = true := by
      rw [hentry, List.any_eq_true.2 hback, beq_self_eq_true]; rfl
    simp only [opBits_eq_none hbits, hwaits, hhead, hsub, hlinked, Bool.false_eq_true, if_false, if_true]
    rfl
  case dswitch => exact holdsG_of_hold (fun _ _ _ => rfl) fun g s f hvalid => if_pos hvalid
  case migrq =>
    refine holdsG_of_hold (fun _ _ _ => rfl) fun g s f ⟨hbits, hcluster⟩ => ?_
    simp only [opBits_eq_none hbits, ge_iff_le, if_neg (Nat.not_le.2 hcluster)]
    rfl
  case undefined =>
    refine fun t g => faults_of_probe (fun _ => rfl) fun s f hinvalid => ?_
    simp only [hinvalid, Bool.false_eq_true, if_false]

/-- Settles O45: each instruction by the checks of its firing, IPIN and IUNPIN by their image. -/
theorem systemAwaited : Obligations.SystemAwaited := by
  unfold Obligations.SystemAwaited
  refine ⟨?dfence, ?ipin, ?iunpin, ?ctxst, ?syscall, ?fresume, ?fabort⟩
  case dfence => exact holdsG_of_hold (fun _ _ _ => rfl) fun _ _ _ _ => rfl
  case ipin =>
    exact fun hd => holdsG_of_hold (fun _ _ _ => rfl) fun g s f ⟨hbits, hwaits, hhead, hrange⟩ => pinFire_eq _ hbits hwaits hhead hrange
  case iunpin =>
    exact fun hd => holdsG_of_hold (fun _ _ _ => rfl) fun g s f ⟨hbits, hwaits, hhead, hrange⟩ => pinFire_eq _ hbits hwaits hhead hrange
  case ctxst => exact holdsG_of_hold (fun _ _ _ => rfl) fun _ _ _ _ => rfl
  case syscall => exact holdsG_of_hold (fun _ _ _ => rfl) fun _ _ _ _ => rfl
  case fresume => exact holdsG_of_hold (fun _ _ _ => rfl) fun g s f ⟨hbits, hrecord⟩ => resolveFire_eq _ _ hbits hrecord
  case fabort => exact holdsG_of_hold (fun _ _ _ => rfl) fun g s f ⟨hbits, hrecord⟩ => resolveFire_eq _ _ hbits hrecord

end Sys2Proof.Machine
end

section
/-! PROOFS. The memories at reset. -/
namespace Sys2Proof.Machine

/-- Settles O8: at reset there is no byte and no share. -/
theorem resetIsCanonical : Obligations.ResetIsCanonical := by
  unfold Obligations.ResetIsCanonical
  have hmem : State.reset.mem.canonical := ⟨rfl, rfl, fun _ h => absurd h List.not_mem_nil⟩
  exact ⟨hmem, fun _ h => absurd h List.not_mem_nil⟩

end Sys2Proof.Machine
end

section
/-! PROOFS. Canonical memories, the invariant part by part: what a change of a context, of a share or of a memory asks, and what the
parts of a state that meets it meet (03, 04). -/
namespace Sys2Proof.Machine

/-! ### The invariant, part by part -/

/-- The scratchpad of a share is in its canonical form. -/
def Share.canonical (h : Share) : Prop := Memory.wf h.bytes = true

section
variable {s t : State} {k : Ctx} {m : Mems} {h : Share}

theorem State.Inv.of_mem_ctxs (hs : s.Inv) (hk : k ∈ s.ctxs) : k.canonical := hs.2 k hk

theorem State.Inv.ctx {c : CtxId} (hs : s.Inv) (hk : s.ctx c = some k) : k.canonical := hs.2 k (List.mem_of_find?_eq_some hk)

theorem State.Inv.active {c : CtxId} (hs : s.Inv) (hk : s.active c = some k) : k.canonical :=
  hs.ctx (Option.filter_eq_some_iff.1 hk).1

theorem State.Inv.mem (hs : s.Inv) : s.mem.canonical := hs.1

theorem State.Inv.withMem (hs : s.Inv) (hm : m.canonical) : ({ s with mem := m } : State).Inv := ⟨hm, hs.2⟩

theorem State.Inv.setCtx (hs : s.Inv) (hk : k.canonical) : (s.setCtx k).Inv := by
  refine ⟨hs.mem, fun j hj => ?_⟩
  rcases mem_updFirst hj with hj | ⟨_, _, _, rfl⟩
  · exact hs.of_mem_ctxs hj
  · exact hk

theorem State.Inv.modCtx {c : CtxId} {f : Ctx → Ctx} (hs : s.Inv)
    (hf : ∀ k, k.canonical → (f k).canonical) : (s.modCtx c f).Inv := by
  unfold State.modCtx
  split
  · exact hs
  · next k hk => exact hs.setCtx (hf k (hs.ctx hk))

theorem State.Inv.modActive {c : CtxId} {f : Ctx → Ctx} (hs : s.Inv) (hf : ∀ k, k.canonical → (f k).canonical) :
    (s.modActive c f).Inv := by
  unfold State.modActive
  split
  · exact hs
  · next k hk => exact hs.setCtx (hf k (hs.active hk))

theorem State.Inv.mapCtxs {f : Ctx → Ctx} (hs : s.Inv) (hf : ∀ k, k.canonical → (f k).canonical) :
    ({ s with ctxs := s.ctxs.map f } : State).Inv :=
  ⟨hs.mem, List.forall_mem_map.2 fun k hk => hf k (hs.of_mem_ctxs hk)⟩

theorem State.Inv.foldl {α : Type} {f : State → α → State} {l : List α} (hs : s.Inv) (hf : ∀ s a, s.Inv → (f s a).Inv) :
    (l.foldl f s).Inv := foldl_invariant hf l hs

theorem State.Inv.foldlFst {α β : Type} {f : State × β → α → State × β} {l : List α} {q : State × β} (hs : q.1.Inv)
    (hf : ∀ q a, q.1.Inv → (f q a).1.Inv) : (l.foldl f q).1.Inv := foldl_invariant (P := fun q : State × β => q.1.Inv) hf l hs

theorem State.Inv.ite {c : Prop} [Decidable c] (hs : s.Inv) (ht : t.Inv) : (if c then s else t).Inv := by split <;> assumption

theorem Ctx.canonical.foldl {α : Type} {f : Ctx → α → Ctx} {l : List α} (hk : k.canonical)
    (hf : ∀ k a, k.canonical → (f k a).canonical) : (l.foldl f k).canonical := foldl_invariant hf l hk

theorem Ctx.canonical.ite {c : Prop} [Decidable c] {j : Ctx} (hk : k.canonical) (hj : j.canonical) :
    (if c then k else j).canonical := by split <;> assumption

theorem Mems.canonical.foldl {α : Type} {f : Mems → α → Mems} {l : List α} (hm : m.canonical)
    (hf : ∀ m a, m.canonical → (f m a).canonical) : (l.foldl f m).canonical := foldl_invariant hf l hm

theorem Mems.canonical.ite {c : Prop} [Decidable c] {n : Mems} (hm : m.canonical) (hn : n.canonical) :
    (if c then m else n).canonical := by split <;> assumption

theorem memory_wf_foldl {α : Type} {f : List Host.Cell → α → List Host.Cell} {l : List α} {b : List Host.Cell}
    (hb : Memory.wf b = true) (hf : ∀ b a, Memory.wf b = true → Memory.wf (f b a) = true) : Memory.wf (l.foldl f b) = true :=
  foldl_invariant (P := fun b => Memory.wf b = true) hf l hb

theorem Mems.canonical.withHbm {b : List Host.Cell} (hm : m.canonical) (hb : Memory.wf b = true) :
    ({ m with hbm := b } : Mems).canonical := ⟨hb, hm.2⟩

theorem Mems.canonical.withHost {b : List Host.Cell} (hm : m.canonical) (hb : Memory.wf b = true) :
    ({ m with host := b } : Mems).canonical := ⟨hm.1, hb, hm.2.2⟩

theorem Mems.canonical.hbm (hm : m.canonical) : Memory.wf m.hbm = true := hm.1

theorem Mems.canonical.host (hm : m.canonical) : Memory.wf m.host = true := hm.2.1

theorem Mems.canonical.withPeer {q : Nat} {b : List Host.Cell} (hm : m.canonical) (hb : Memory.wf b = true) :
    ({ m with peer := tset m.peer q b } : Mems).canonical := by
  have hset : ∀ t : Tab (List Host.Cell), (∀ e ∈ t, Memory.wf e.2 = true) → ∀ e ∈ tset t q b, Memory.wf e.2 = true := by
    intro t ht
    induction t with
    | nil => exact List.forall_mem_singleton.2 hb
    | cons x r ih =>
      obtain ⟨hx, hr⟩ := List.forall_mem_cons.1 ht
      unfold tset
      split
      · exact List.forall_mem_cons.2 ⟨hb, ht⟩
      · split
        · exact List.forall_mem_cons.2 ⟨hb, hr⟩
        · exact List.forall_mem_cons.2 ⟨hx, ih hr⟩
  exact ⟨hm.1, hm.2.1, hset _ hm.2.2⟩

theorem Mems.canonical.peer {q : Nat} (hm : m.canonical) : Memory.wf (tgetD m.peer q []) = true := by
  have hget : ∀ t : Tab (List Host.Cell), (∀ e ∈ t, Memory.wf e.2 = true) → Memory.wf (tgetD t q []) = true := by
    intro t ht
    induction t with
    | nil => rfl
    | cons x r ih =>
      obtain ⟨hx, hr⟩ := List.forall_mem_cons.1 ht
      unfold tgetD tget
      split
      · exact hx
      · exact ih hr
  exact hget _ hm.2.2

theorem Share.canonical.foldl {α : Type} {f : Share → α → Share} {l : List α} (hh : h.canonical)
    (hf : ∀ h a, h.canonical → (f h a).canonical) : (l.foldl f h).canonical := foldl_invariant hf l hh

theorem Share.canonical.ite {c : Prop} [Decidable c] {g : Share} (hh : h.canonical) (hg : g.canonical) :
    (if c then h else g).canonical := by split <;> assumption

theorem Share.canonical.withBytes {off : Nat} {bs : List Byte} (hh : h.canonical) :
    ({ h with bytes := wrN h.bytes off bs } : Share).canonical := memory_wf_wrN off bs hh

/-! ### Shares -/

theorem Ctx.canonical.share {l : Nat} (hk : k.canonical) : (k.share l).canonical := scratchWf_of_canonical hk l

theorem Ctx.canonical.setShare (hk : k.canonical) (hh : h.canonical) : (k.setShare h).canonical := by
  have hput : ∀ (l : List Share), (∀ g ∈ l, g.canonical) → ∀ g ∈ putShare h l, g.canonical := by
    intro l hl
    induction l with
    | nil => exact List.forall_mem_singleton.2 hh
    | cons x r ih =>
      obtain ⟨hx, hr⟩ := List.forall_mem_cons.1 hl
      unfold putShare
      split
      · exact List.forall_mem_cons.2 ⟨hh, hl⟩
      · split
        · exact List.forall_mem_cons.2 ⟨hh, hr⟩
        · exact List.forall_mem_cons.2 ⟨hx, ih hr⟩
  exact hput _ hk

theorem Ctx.canonical.modShare {l : Nat} {f : Share → Share} (hk : k.canonical) (hf : ∀ h, h.canonical → (f h).canonical) :
    (k.modShare l f).canonical := hk.setShare (hf _ hk.share)

theorem Ctx.canonical.mapShares {f : Share → Share} (hk : k.canonical) (hf : ∀ h, h.canonical → (f h).canonical) :
    ({ k with shares := k.shares.map f } : Ctx).canonical := List.forall_mem_map.2 fun h hh => hf h (hk h hh)

/-! ### What may come to pass -/

/-- The state an operation's performance leaves meets the invariant. -/
def Perf.Inv : Perf → Prop
  | .done s _ _ => s.Inv
  | .wait s => s.Inv
  | .part s _ => s.Inv

/-- The change of its context that the effect of a firing makes keeps the canonical form. -/
def Sem.keeps : Sem → Prop
  | .act _ _ g => ∀ k, k.canonical → (g k).canonical
  | .strike _ _ _ g => ∀ k, k.canonical → (g k).canonical
  | _ => True

/-- The next state, if any, meets the invariant. -/
def Out.Inv : Out → Prop
  | .next s => s.Inv
  | _ => True

def UnitOut.Inv : UnitOut → Prop
  | .moved s _ _ => s.Inv
  | _ => True

def Filed.Inv : Filed → Prop
  | .written s _ => s.Inv
  | _ => True

theorem Sem.keeps.ite {c : Prop} [Decidable c] {x y : Sem} (hx : x.keeps) (hy : y.keeps) : (if c then x else y).keeps := by
  split <;> assumption

theorem Perf.Inv.ite {c : Prop} [Decidable c] {p q : Perf} (hp : p.Inv) (hq : q.Inv) : (if c then p else q).Inv := by
  split <;> assumption

theorem State.Inv.getD {o : Option State} (hs : s.Inv) (ho : ∀ t, o = some t → t.Inv) : (o.getD s).Inv := by
  cases o with
  | none => exact hs
  | some t => exact ho t rfl

theorem UnitOut.Inv.ite {c : Prop} [Decidable c] {u o : UnitOut} (hu : u.Inv) (ho : o.Inv) : (if c then u else o).Inv := by
  split <;> assumption

theorem UnitOut.Inv.of_eq {u o : UnitOut} (hu : u.Inv) (e : u = o) : o.Inv := e ▸ hu

theorem State.Inv.of_moved {u : UnitOut} {t : State} {ts : List (Nat × Nat)} {n : Nat} (hu : u.Inv) (e : u = .moved t ts n) :
    t.Inv := hu.of_eq e

theorem State.Inv.of_written {r : Filed} {t : State} {n : BitVec 32} (hr : r.Inv) (e : r = .written t n) : t.Inv := by
  subst e
  exact hr

end

end Sys2Proof.Machine
end

section
/-! PROOFS. Canonical memories: firings, accesses to memory, and writes of registers (01 to 04, 07, 11). -/
namespace Sys2Proof.Machine

section
variable {s : State} {k : Ctx} {m : Mems} {h : Share}

/-! ### Contexts, threads and waves (02) -/

theorem Ctx.canonical.setTh {x : Thread} (hk : k.canonical) : (k.setTh x).canonical := hk

theorem Ctx.canonical.modTh {t : ThreadId} {f : Thread → Thread} (hk : k.canonical) : (k.modTh t f).canonical := hk

theorem Ctx.canonical.modWv {t : ThreadId} {w : WaveId} {f : Wave → Wave} (hk : k.canonical) : (k.modWv t w f).canonical := hk

theorem Ctx.canonical.modLn {n : BitVec 32} {f : Launch → Launch} (hk : k.canonical) : (k.modLn n f).canonical := hk

theorem Share.canonical.setDom {d : Nat} {x : Dom} (hh : h.canonical) : (h.setDom d x).canonical := hh

theorem Ctx.canonical.perfAdd {l n by_ : Nat} (hk : k.canonical) : (k.perfAdd l n by_).canonical := hk.modShare fun _ hh => hh

theorem Ctx.canonical.charge {site cls event : Nat} (hk : k.canonical) : (k.charge site cls event).canonical := hk

theorem Ctx.canonical.enter {a : Arrived} {src : Src} {inside : Bool} (hk : k.canonical) :
    (k.enter a src inside).canonical := by
  unfold Ctx.enter
  split
  · exact hk
  · exact .ite (.ite hk hk) hk

theorem Ctx.canonical.owe {t : ThreadId} {w : WaveId} {b : Addr} (hk : k.canonical) : (k.owe t w b).canonical := hk

theorem Ctx.canonical.paid {t : ThreadId} {w : WaveId} (hk : k.canonical) : (k.paid t w).canonical := hk

theorem Ctx.canonical.send {p : Placed} {t : ThreadId} {fw : WaveId} {urg : Bool} {e : Em} (hk : k.canonical) :
    (k.send p t fw urg e).canonical :=
  hk.foldl fun _ _ hk => hk.enter

theorem Share.canonical.setGran {g : Nat} {x : Gran} (hh : h.canonical) : (h.setGran g x).canonical := hh

theorem Ctx.canonical.put {t : ThreadId} {fw w : WaveId} {r : Route} {v1 v2 : Value} (hk : k.canonical) :
    (k.put t fw w r v1 v2).canonical :=
  (hk.foldl fun _ _ hk => hk.enter).foldl fun _ _ hk => hk.enter

theorem Ctx.canonical.bind {th : ThreadId} {w : WaveId} {own : BitVec 8} {v : Value} (hk : k.canonical) :
    (k.bind th w own v).canonical := by
  unfold Ctx.bind
  split
  · exact hk
  · exact .ite (.paid (.ite hk.modWv.put hk.modWv.put)) (.ite hk.modWv.put hk.modWv.put)

theorem Ctx.canonical.answerAll {bytes : List Byte} {rs : List Reader}
    (hk : k.canonical) : (k.answerAll bytes rs).canonical := by
  induction rs generalizing k with
  | nil => exact hk
  | cons r rs ih => exact ih hk.bind

theorem Ctx.canonical.filled {l g : Nat} (hk : k.canonical) : (k.filled l g).canonical :=
  (hk.setShare hk.share.setGran).answerAll

theorem Share.canonical.settle {g : Nat} (hh : h.canonical) : (h.settle g).canonical := hh.withBytes.ite hh

theorem Ctx.canonical.endHolds {t : ThreadId} {w : WaveId} (hk : k.canonical) : (k.endHolds t w).canonical :=
  hk.mapShares fun _ hh => hh

theorem Share.canonical.unlink {t : ThreadId} {gone : WaveId → Bool} (hh : h.canonical) : (h.unlink t gone).canonical := hh

theorem Ctx.canonical.restoreHolds {t : ThreadId} {gone : WaveId → Bool} (hk : k.canonical) :
    (k.restoreHolds t gone).canonical :=
  hk.foldl fun _ _ hk => hk.filled

theorem Ctx.canonical.squashWaves {t : ThreadId} {gone : WaveId → Bool} (hk : k.canonical) : (k.squashWaves t gone).canonical :=
  .modTh (.mapShares hk fun _ hh => .unlink hh)

theorem Ctx.canonical.dropWaves {t : ThreadId} {gone : WaveId → Bool} (hk : k.canonical) : (k.dropWaves t gone).canonical :=
  hk.squashWaves.restoreHolds

theorem Ctx.canonical.raise {t : ThreadId} {r : FaultRec} (hk : k.canonical) : (k.raise t r).canonical := by
  unfold Ctx.raise
  split
  · exact hk
  · exact hk.ite hk.squashWaves.modTh.restoreHolds

theorem Ctx.canonical.raiseAt {t : ThreadId} {b : Addr} {n : Seen} {w : WaveId} {cause origin : BitVec 8} {detail : BitVec 24}
    {faddr : BitVec 64} (hk : k.canonical) : (k.raiseAt t b n w cause origin detail faddr).canonical := by
  unfold Ctx.raiseAt
  split
  · exact hk
  · exact hk.raise

theorem Ctx.canonical.emitLate {c : Committed} {blk : Addr} {seen : Seen} {r : Route} {v1 v2 : Value} (hk : k.canonical) :
    (k.emitLate c blk seen r v1 v2).canonical := by
  unfold Ctx.emitLate
  split
  · exact hk
  · exact hk.ite (hk.raiseAt.ite (.ite (.paid (.ite hk hk.put)) (.ite hk hk.put)))

theorem Ctx.canonical.modeFall {l d : Nat} (hk : k.canonical) : (k.modeFall l d).canonical :=
  (hk.setShare hk.share.setDom).ite hk

theorem Ctx.canonical.modesFall (hk : k.canonical) : k.modesFall.canonical := hk.foldl fun _ _ hk => hk.modeFall

theorem Ctx.canonical.oweResult {c : Committed} (hk : k.canonical) : (k.oweResult c).1.canonical := by
  unfold Ctx.oweResult
  split
  · exact hk
  · split
    · exact hk
    · exact hk

theorem Ctx.canonical.oweResults (hk : k.canonical) : k.oweResults.canonical :=
  foldl_invariant (P := fun q : Ctx × List Committed => q.1.canonical) (fun _ _ hq => hq.oweResult) _ hk

theorem Ctx.canonical.feedHeld (hk : k.canonical) : k.feedHeld.canonical := .oweResults (.foldl hk fun _ _ hk => hk.enter)

theorem Ctx.canonical.refeed {t : ThreadId} (hk : k.canonical) : (k.refeed t).canonical := by
  unfold Ctx.refeed
  split
  · exact hk
  · exact (hk.setTh.foldl fun _ _ hk => hk.foldl fun _ _ hk2 => hk2.owe).foldl fun _ _ hk => hk.enter

/-! ### Firings (01, 02) -/

theorem Ctx.canonical.take {p : Placed} {t : ThreadId} {w : WaveId} {i : Nat} {b used : Bool} (hk : k.canonical) :
    (k.take p t w i b used).canonical :=
  .ite hk hk

theorem Ctx.canonical.keep {p : Placed} {i : Nat} {b used : Bool} {tok : Option Token} (hk : k.canonical) :
    (k.keep p i b used tok).canonical := by
  unfold Ctx.keep
  split
  · exact .ite hk hk
  · exact hk

theorem Ctx.canonical.consume {p : Placed} {t : ThreadId} {w : WaveId} {i : Nat} {m : Tmpl} {q : Args} (hk : k.canonical) :
    (k.consume p t w i m q).canonical :=
  hk.take.take.take.keep.keep

theorem Sem.keeps.result {f : Fire} {v : Value} {flags : BitVec 5} : (f.result v flags).keeps := fun _ hk => hk

theorem Ctx.canonical.apply {f : Fire} {es : List Em} {flags : BitVec 5} {g : Ctx → Ctx} (hk : f.k.canonical)
    (hf : ∀ a : Ctx, a.canonical → (g a).canonical) : (f.apply es flags g).canonical :=
  ((hf _ hk.consume).foldl fun _ _ hk => hk.send).modWv.perfAdd.perfAdd

theorem Ctx.canonical.touchBlock {p : Placed} {tick : Nat} (hk : k.canonical) : (k.touchBlock p tick).canonical := hk

theorem State.Inv.usePower {d : Nat} (hs : s.Inv) : (s.usePower d).Inv := hs

theorem State.Inv.debugHalt {c : CtxId} {t : ThreadId} {w : WaveId} {cause : BitVec 8} {stopped : Option Site} (hs : s.Inv) :
    (s.debugHalt c t w cause stopped).Inv :=
  hs.modCtx fun _ hk => hk

theorem State.Inv.setScore {u : RetUnit} {r : Score} (hs : s.Inv) : (s.setScore u r).Inv := hs

theorem State.Inv.flashScore {u : RetUnit} (hs : s.Inv) : (s.flashScore u).Inv := hs

theorem State.Inv.addScore {u : RetUnit} {d : Int} (hs : s.Inv) : (s.addScore u d).Inv := .ite hs hs

theorem State.Inv.fireFault {f : Fire} {cause origin : BitVec 8} {detail : BitVec 24} {faddr : BitVec 64} (hs : s.Inv)
    (hk : f.k.canonical) : (s.fireFault f cause origin detail faddr).Inv :=
  hs.setCtx hk.raise

theorem State.Inv.firingOf {f : Fire} {m : Tmpl} {xt : Option Tmpl} {get : Ctx → Thread → Placed → Option Args} (hs : s.Inv)
    (e : s.firingOf m xt get = some f) : f.k.canonical := by
  unfold State.firingOf at e
  split at e
  · cases e
  · next k hk =>
    split at e
    · cases e
    · split at e
      · cases e
      · split at e
        · cases e
        · cases e
          exact (hs.active hk : k.canonical)

theorem State.Inv.ready {f : Fire} {m : Tmpl} {xa : Option XArg} {takesB : Bool} {l : Lits} (hs : s.Inv)
    (e : s.ready m xa takesB l = some f) : f.k.canonical := hs.firingOf e

theorem State.Inv.holdFiring {f : Fire} (hs : s.Inv) : (s.holdFiring f).Inv := hs.modCtx fun _ hk => hk

theorem State.Inv.took {f : Fire} (hs : s.Inv) : (s.took f).Inv := hs

theorem State.Inv.stoodBack {f : Fire} (hs : s.Inv) : (s.stoodBack f).Inv := hs

theorem State.Inv.firingSpent {f : Fire} (hs : s.Inv) : (s.firingSpent f).Inv := hs.modCtx fun _ hk => hk.perfAdd.perfAdd.charge

/-- What comes of a firing keeps the invariant when the effect that it carries out keeps the form of its context. -/
theorem State.Inv.carry {f : Fire} {r : Sem} (hs : s.Inv) (hk : f.k.canonical) (hr : r.keeps) : (s.carry f r).Inv := by
  unfold State.carry
  split
  · exact hs.stoodBack
  · exact hs.holdFiring
  · exact (hs.fireFault hk).firingSpent
  · exact (hs.fireFault hk).firingSpent
  · exact ((hs.fireFault hk).modCtx hr).firingSpent
  · split
    · exact hs.holdFiring
    · split
      · exact (hs.fireFault hk).firingSpent
      · exact hs.stoodBack
      · exact (hs.setCtx (hk.apply hr).charge.touchBlock).took

/-- A firing that stands ready, met by a breakpoint, an upset or its own effect. -/
theorem State.Inv.fireOn {f : Fire} {sem : Fire → Sem} (hs : s.Inv) (hk : f.k.canonical)
    (hf : ∀ a : Fire, a.k.canonical → (sem a).keeps) : (s.fireOn f sem).Inv := by
  unfold State.fireOn
  split
  · exact hs
  · split
    · exact hs.ite hs.debugHalt
    · split
      · exact (hs.fireFault hk).addScore.firingSpent
      · exact (hs.fireFault hk).firingSpent
      · exact hs.carry hk (hf _ hk)

theorem State.Inv.fire {m : Tmpl} {xa : Option XArg} {takesB : Bool} {l : Lits} {sem : Fire → Sem} (hs : s.Inv)
    (hf : ∀ a : Fire, a.k.canonical → (sem a).keeps) : (s.fire m xa takesB l sem).Inv := by
  unfold State.fire
  split
  · exact hs
  · next e => exact hs.fireOn (hs.ready e) fun _ hk => hf _ hk

/-! ### Reaching memory (03, 04) -/

theorem Mems.canonical.cacheAt {e : Tlb} (hm : m.canonical) : (m.cacheAt e).canonical := hm

theorem Mems.canonical.passL2 {line : Nat} {by_ : Option CtxId} (hm : m.canonical) : (m.passL2 line by_).canonical := hm

theorem Mems.canonical.rekey {key : Option Nat} {line : Nat} (hm : m.canonical) : (m.rekey key line).canonical := by
  unfold Mems.rekey
  split
  · exact hm
  · split
    · exact hm.ite (hm.withHbm (memory_wf_wrN _ _ hm.hbm))
    · exact hm

theorem Mems.canonical.homeWrite {c : CtxId} {key : Option Nat} {pa : Nat} {bytes : List Byte} (hm : m.canonical) :
    (m.homeWrite c key pa bytes).canonical :=
  hm.rekey.passL2.withHbm (memory_wf_wrN _ _ hm.rekey.passL2.hbm)

theorem Mems.canonical.setDir {line : Nat} {e : DirEntry} (hm : m.canonical) : (m.setDir line e).canonical := by
  unfold Mems.setDir
  split
  · exact hm
  · dsimp only
    split
    · exact hm
    · exact hm

theorem Mems.canonical.uncopy {clu : Nat} {kind : LineKind} {line : Nat} (hm : m.canonical) :
    (m.uncopy clu kind line).canonical :=
  hm

theorem Mems.canonical.unshare {clu line : Nat} (hm : m.canonical) : (m.unshare clu line).canonical := hm.setDir

theorem memory_wf_cleanBytes {b : List Host.Cell} (e : L1Line) (hb : Memory.wf b = true) : Memory.wf (cleanBytes b e) =
    true := by
  refine foldl_invariant (P := fun b => Memory.wf b = true) (fun b i hb => ?_) _ hb
  split
  · exact memory_wf_wr _ _ hb
  · exact hb

theorem Mems.canonical.cleanLine {e : L1Line} (hm : m.canonical) : (m.cleanLine e).canonical := by
  have hkey : (if e.dirty = 0 then m else (m.rekey e.key e.line).passL2 e.line (some e.ctx)).canonical := hm.ite hm.rekey.passL2
  exact hkey.withHbm (memory_wf_cleanBytes e hkey.hbm)

theorem Mems.canonical.evict {e : L1Line} (hm : m.canonical) : (m.evict e).canonical := by
  unfold Mems.evict
  split
  · exact hm.cleanLine.uncopy
  · exact hm.uncopy.unshare
  · exact hm.uncopy

theorem Mems.canonical.fill {e : L1Line} (hm : m.canonical) : (m.fill e).canonical := by
  unfold Mems.fill
  dsimp only
  split
  · exact hm.evict
  · exact hm

theorem Mems.canonical.allShared {kind : LineKind} {line : Nat} (hm : m.canonical) : (m.allShared kind line).canonical := hm

theorem Mems.canonical.touch {clu : Nat} {kind : LineKind} {line : Nat} (hm : m.canonical) :
    (m.touch clu kind line).canonical := by
  unfold Mems.touch
  split
  · exact hm
  · exact hm

theorem Mems.canonical.hcLoad {clu line : Nat} (hm : m.canonical) : (m.hcLoad clu line).canonical :=
  hm.touch.ite hm.allShared.setDir.fill

theorem Mems.canonical.hostLoad {clu line : Nat} (hm : m.canonical) : (m.hostLoad clu line).canonical :=
  hm.touch.ite hm.allShared.fill

theorem Mems.canonical.hcStore {clu line : Nat} (hm : m.canonical) : (m.hcStore clu line).canonical :=
  .ite (.touch (.setDir hm)) (.fill (.setDir hm))

theorem Mems.canonical.hcRecall {line : Nat} (hm : m.canonical) : (m.hcRecall line).canonical := .setDir hm

theorem Mems.canonical.plainLine {clu : Nat} {kind : LineKind} {line : Nat} {st : Mesi} (hm : m.canonical) :
    (m.plainLine clu kind line st).canonical := by
  unfold Mems.plainLine
  split
  · exact hm.touch
  · exact hm.fill

theorem Mems.canonical.scLine {clu : Nat} {key : Option Nat} {line : Nat} (hm : m.canonical) :
    (m.scLine clu key line).canonical := by
  unfold Mems.scLine
  split
  · exact hm.touch
  · refine .fill (.passL2 ?_)
    split
    · exact hm.evict
    · exact hm

theorem Mems.canonical.scDiscard {clu : Nat} (hm : m.canonical) : (m.scDiscard clu).canonical := hm

theorem Mems.canonical.scClean {clu : Nat} (hm : m.canonical) : (m.scClean clu).canonical := hm.foldl fun _ _ hm => hm.cleanLine

theorem Mems.canonical.hcPeek {line : Nat} (hm : m.canonical) : (m.hcPeek line).canonical := hm.allShared.setDir.ite hm

theorem Mems.canonical.loadEffect {a : Agent} {p : Piece} (hm : m.canonical) : (m.loadEffect a p).canonical := by
  unfold Mems.loadEffect
  dsimp only
  split
  · exact (hm.hcPeek.ite hm).passL2
  · split
    · exact (hm.passL2.ite hm).hcLoad
    · exact (hm.passL2.ite hm).scLine
    · exact (hm.passL2.ite hm).plainLine
    · exact hm.passL2.ite hm
  · exact hm.hostLoad
  · exact hm.allShared
  · exact hm

theorem Mems.canonical.peek {ps : List Piece} (hm : m.canonical) : (m.peek ps).canonical := hm.foldl fun _ _ hm => hm.loadEffect

theorem Mems.canonical.hostDrop {line : Nat} {keep : Option Nat} (hm : m.canonical) : (m.hostDrop line keep).canonical := hm

theorem Mems.canonical.storeAt {c : CtxId} {a : Agent} {p : Piece} {bytes : List Byte} {through : Bool} (hm : m.canonical) :
    (m.storeAt c a p bytes through).canonical := by
  unfold Mems.storeAt
  dsimp only
  split
  · split
    · refine .homeWrite ?_
      split
      · exact hm.hcStore
      · exact hm.hcRecall
    · split
      · exact hm.homeWrite
      · exact .ite (.homeWrite hm.scLine) hm.scLine
    · refine .homeWrite ?_
      split
      · exact hm.plainLine
      · exact hm
    · exact hm.homeWrite
  · refine .withHost ?_ (memory_wf_wrN _ _ (Mems.canonical.host ?_))
    · split
      · exact hm.hostDrop.plainLine
      · exact hm.hostDrop
    · split
      · exact hm.hostDrop.plainLine
      · exact hm.hostDrop
  · exact hm.withHost (memory_wf_wrN _ _ hm.host)
  · exact hm.withPeer (memory_wf_wrN _ _ hm.peer)
  · exact hm

theorem Ctx.canonical.scratchSt {l off : Nat} {bytes : List Byte} (hk : k.canonical) : (k.scratchSt l off bytes).canonical :=
  (hk.modShare fun _ hh => (hh.foldl fun _ _ hh => hh.settle).withBytes).foldl fun _ _ hk => hk.filled

theorem State.Inv.storePiece {c : CtxId} {a : Agent} {p : Piece} {bytes : List Byte} {through : Bool} (hs : s.Inv) :
    (s.storePiece c a p bytes through).Inv := by
  unfold State.storePiece
  split
  · exact hs.modCtx fun _ hk => hk.scratchSt
  · exact hs.withMem hs.mem.storeAt

theorem State.Inv.storePieces {c : CtxId} {a : Agent} {through : Bool} {ps : List Piece} {bytes : List Byte} (hs : s.Inv) :
    (s.storePieces c a through ps bytes).Inv := by
  induction ps generalizing s bytes with
  | nil => exact hs
  | cons p ps ih => exact ih hs.storePiece

theorem State.Inv.devWrite {t : State} {va : Nat} {bytes : List Byte} (hs : s.Inv)
    (e : s.devWrite k va bytes = .ok t) : t.Inv := by
  unfold State.devWrite at e
  split at e
  · cases e
  · split at e
    · cases e
    · cases e
      exact hs.storePieces

theorem State.Inv.devPut {va : Nat} {bytes : List Byte} (hs : s.Inv) : (s.devPut k va bytes).Inv := by
  unfold State.devPut
  split
  · next e => exact hs.devWrite e
  · exact hs

theorem State.Inv.ringPut {t : State} {base log2n size : Nat} {overwrite : Bool} {mk : Nat → List Byte} (hs : s.Inv)
    (e : s.ringPut k base log2n size overwrite mk = .ok (some t)) : t.Inv := by
  unfold State.ringPut at e
  split at e
  · cases e
  · dsimp only at e
    split at e
    · cases e
    · split at e
      · cases e
      · next s1 hrecord =>
        split at e
        · cases e
        · next s2 hcount =>
          cases e
          exact ((hs.devWrite hrecord).devWrite hcount).devPut.devPut

theorem State.Inv.logWrite {c : CtxId} {range : Nat} {r : LogRange} {q : Nat × Nat × BitVec 8 × Nat} (hs : s.Inv) :
    (s.logWrite c range r q).1.Inv := by
  unfold State.logWrite
  split
  · exact hs
  · split
    · exact hs
    · split
      · next e => exact hs.ringPut e
      · exact hs
      · exact hs

theorem State.Inv.logOne {c : CtxId} {va pa : Nat} {kinds : BitVec 8} {range : Nat} (hs : s.Inv) :
    (s.logOne c va pa kinds range).1.Inv := by
  unfold State.logOne
  split
  · exact hs
  · split
    · exact hs
    · dsimp only
      split
      · split
        · exact hs.logWrite.modCtx fun _ hk => hk
        · exact hs
      · exact hs.modCtx fun _ hk => hk

theorem State.Inv.logCount {c : CtxId} {ps : List Piece} {kinds : BitVec 8} (hs : s.Inv) : (s.logCount c ps kinds).1.Inv := by
  unfold State.logCount
  refine hs.foldlFst fun _ _ hs => ?_
  split
  · exact hs
  · exact hs.foldlFst fun _ _ hs2 => hs2.logOne

theorem State.Inv.logAccess {c : CtxId} {ps : List Piece} {kinds : BitVec 8} (hs : s.Inv) : (s.logAccess c ps kinds).Inv :=
  hs.logCount

theorem Mems.canonical.acquire {clu : Nat} {ord scp : BitVec 2} (hm : m.canonical) : (m.acquire clu ord scp).canonical :=
  hm.scDiscard.ite hm

theorem Mems.canonical.release {clu : Nat} {ord scp : BitVec 2} (hm : m.canonical) : (m.release clu ord scp).canonical :=
  hm.scClean.ite hm

/-! ### Token and control instructions (11) -/

theorem transfer_keeps {f : Fire} {addr named : BitVec 64} {port : Nat} {es : List Em} :
    (transfer s f addr named port es).keeps := by
  unfold transfer
  split
  · trivial
  · split
    · trivial
    · trivial
    · exact fun _ hk => hk

theorem execMov_inv {t : Tmpl} {l : FormL} (hs : s.Inv) : (execMov t l s).Inv := hs.fire fun _ _ _ hk => hk

theorem execSteer_inv {t : Tmpl} {l : FormL} (hs : s.Inv) : (execSteer t l s).Inv := hs.fire fun _ _ _ hk => hk

theorem execFilter_inv {t : Tmpl} {l : FormL} (hs : s.Inv) : (execFilter t l s).Inv := hs.fire fun _ _ _ hk => hk

theorem execGate_inv {t : Tmpl} {l : FormL} (hs : s.Inv) : (execGate t l s).Inv := hs.fire fun _ _ _ hk => hk

theorem execSink_inv {t : Tmpl} {l : FormL} (hs : s.Inv) : (execSink t l s).Inv := hs.fire fun _ _ _ hk => hk

theorem execSel_inv {t : Tmpl} {l : FormL} {xa : XArg} (hs : s.Inv) : (execSel t l xa s).Inv := hs.fire fun _ _ _ hk => hk

theorem execFork_inv {t : Tmpl} {l : FormL} {xa : XArg} (hs : s.Inv) : (execFork t l xa s).Inv := hs.fire fun _ _ _ hk => hk

theorem execWadv_inv {t : Tmpl} {l : FormL} (hs : s.Inv) : (execWadv t l s).Inv := hs.fire fun _ _ _ hk => hk

theorem execWset_inv {t : Tmpl} {l : FormL} (hs : s.Inv) : (execWset t l s).Inv :=
  .fire hs fun _ _ => .ite trivial fun _ hk => .ite hk hk

theorem execWrd_inv {t : Tmpl} {l : FormL} (hs : s.Inv) : (execWrd t l s).Inv := hs.fire fun _ _ => .result

theorem execTrd_inv {t : Tmpl} {l : FormL} (hs : s.Inv) : (execTrd t l s).Inv := hs.fire fun _ _ => .result

theorem execSeqt_inv {t : Tmpl} {l : FormL} (hs : s.Inv) : (execSeqt t l s).Inv := hs.fire fun _ _ _ hk => hk

theorem Ctx.canonical.defer {f : Fire} {d : DefOp} (hk : k.canonical) : (f.defer d k).canonical := hk

theorem execTnew_inv {t : Tmpl} {l : FormL} (hs : s.Inv) : (execTnew t l s).Inv := by
  unfold execTnew
  refine hs.fire fun _ _ => ?_
  split
  · trivial
  · split
    · trivial
    · exact fun _ hk => hk.defer

theorem execTend_inv {t : Tmpl} {l : FormL} (hs : s.Inv) : (execTend t l s).Inv := hs.fire fun _ _ _ hk => hk

theorem execSwitch_inv {t : Tmpl} {m : FormS} (hs : s.Inv) : (execSwitch t m s).Inv := by
  unfold execSwitch
  refine hs.fire fun _ _ => ?_
  split
  · trivial
  · exact fun _ hk => hk

theorem execCall_inv {t : Tmpl} {l : FormL} (hs : s.Inv) : (execCall t l s).Inv := hs.fire fun _ _ => transfer_keeps

theorem execRet_inv {t : Tmpl} {l : FormL} (hs : s.Inv) : (execRet t l s).Inv := .fire hs fun _ _ => .ite trivial transfer_keeps

theorem execBjump_inv {t : Tmpl} {l : FormL} (hs : s.Inv) : (execBjump t l s).Inv := hs.fire fun _ _ => transfer_keeps

theorem execTrap_inv {t : Tmpl} {g : FormG} (hs : s.Inv) : (execTrap t g s).Inv :=
  .fire hs fun _ _ => .ite trivial fun _ hk => hk

/-! ### Registers and the debug port (02, 07) -/

theorem State.Inv.setSpine {die n : Nat} {r : SpineFreq} (hs : s.Inv) : (s.setSpine die n r).Inv := hs

theorem State.Inv.houseEvent (hs : s.Inv) : s.houseEvent.Inv := hs

theorem State.Inv.post {c : CtxId} {e : HostEvent} (hs : s.Inv) : (s.post c e).Inv := hs.modCtx fun _ hk => hk

theorem State.Inv.halt (hs : s.Inv) : s.halt.Inv := hs.modCtx fun _ hk => hk

theorem State.Inv.unhalt (hs : s.Inv) : s.unhalt.Inv := hs.modCtx fun _ hk => .ite (.feedHeld hk) hk

theorem State.Inv.stepOne (hs : s.Inv) : s.stepOne.Inv := hs.modCtx fun _ hk => .ite (.feedHeld hk) hk

theorem State.Inv.writeSpineFreq {die n : Nat} {code : BitVec 7} (hs : s.Inv) : (s.writeSpineFreq die n code).Inv := hs.ite hs

theorem State.Inv.writeSpsel {clu dom : Nat} {sp : BitVec 3} (hs : s.Inv) : (s.writeSpsel clu dom sp).Inv := hs

theorem State.Inv.setPower {die : Nat} {r : PwrCtl} (hs : s.Inv) : (s.setPower die r).Inv := hs

theorem State.Inv.setLeasing {die : Nat} {r : LeaseCtl} (hs : s.Inv) : (s.setLeasing die r).Inv := hs

theorem State.Inv.houseWord {pa : Nat} {v : BitVec 64} (hs : s.Inv) : (s.houseWord pa v).Inv :=
  hs.withMem (hs.mem.withHbm (memory_wf_wrN _ _ hs.mem.hbm))

theorem State.Inv.writeDbgCtl {v : BitVec 64} (hs : s.Inv) : (s.writeDbgCtl v).Inv :=
  .ite (.stepOne (hs.unhalt.ite hs)) (.ite (.halt (hs.unhalt.ite hs)) (hs.unhalt.ite hs))

theorem State.Inv.setHdm {start size key : Nat} (hs : s.Inv) : (s.setHdm start size key).Inv := hs.ite (hs.withMem hs.mem)

theorem State.Inv.setRoute {p : Nat} {on : Bool} (hs : s.Inv) : (s.setRoute p on).Inv := hs.withMem hs.mem

theorem State.Inv.setPeerBind {c p : Nat} {on : Bool} {far : Nat} (hs : s.Inv) : (s.setPeerBind c p on far).Inv :=
  hs.withMem hs.mem

theorem State.Inv.writeReg {r : WReg} {v : BitVec 64} (hs : s.Inv) : (s.writeReg r v).Inv := by
  unfold State.writeReg
  split
  · exact hs.writeSpineFreq
  · exact hs.writeSpsel
  · exact hs.setPower
  · exact hs.setLeasing
  · exact hs
  · exact hs
  · exact .ite hs hs
  · exact hs
  · exact hs
  · exact hs.writeDbgCtl
  · exact hs
  · exact hs
  · exact hs.modCtx fun _ hk => hk
  · exact hs.modCtx fun _ hk => hk
  · exact hs.modCtx fun _ hk => hk
  · exact hs.modCtx fun _ hk => hk
  · exact hs.modCtx fun _ hk => hk
  · exact hs.modCtx fun _ hk => hk
  · exact hs.houseWord
  · exact hs.setHdm
  · exact hs
  · exact hs.setRoute
  · exact hs.setPeerBind
  · exact hs
  · exact hs
  · exact hs
  · exact hs
  · exact hs
  · exact hs
  · exact hs
  · exact hs
  · exact hs
  · exact hs
  · exact hs

theorem State.Inv.barWrite {off : Nat} {v : BitVec 64} (hs : s.Inv) : (s.barWrite off v).Inv := by
  unfold State.barWrite
  split
  · exact hs.writeReg
  · exact hs.modCtx fun _ hk => hk
  · exact hs

end

end Sys2Proof.Machine
end

section
/-! PROOFS. Canonical memories: store buffers, queues and launches (04, 05). -/
namespace Sys2Proof.Machine

section
variable {s : State} {k : Ctx} {m : Mems} {h : Share}

/-! ### Store buffers (04) -/

theorem Ctx.canonical.handOver {f : Fire} {o : MemOp} (hk : k.canonical) : (f.handOver o k).canonical := .ite hk hk

theorem Sem.keeps.memory {f : Fire} {act : MemAct} {m : FormM} : (f.memory act m).keeps := by
  unfold Fire.memory
  dsimp only
  split
  · trivial
  · split
    · trivial
    · exact .ite trivial fun _ hk => .handOver hk
    · trivial

theorem State.Inv.fireM {act : MemAct} {t : Tmpl} {m : FormM} {xa : Option XArg} {takesB : Bool} (hs : s.Inv) :
    (s.fireM act t m xa takesB).Inv :=
  hs.fire fun _ _ => .memory

theorem State.Inv.fireHouseM {act : MemAct} {op : BitVec 8} {t : Tmpl} {m : FormM} {takesB : Bool} (hs : s.Inv) :
    (s.fireHouseM act op t m takesB).Inv :=
  .fire hs fun _ _ => .ite trivial .memory

theorem Ctx.canonical.reserve {th : ThreadId} {w : WaveId} {o : MemOp} (hk : k.canonical) : (k.reserve th w o).canonical := by
  unfold Ctx.reserve
  refine .foldl hk fun _ _ hk => ?_
  split
  · exact .ite (.modShare hk fun _ hh => .setGran hh) (.ite (.modShare hk fun _ hh => hh) hk)
  · exact hk

theorem Ctx.canonical.chargeN {site cls event n : Nat} (hk : k.canonical) : (k.chargeN site cls event n).canonical :=
  hk.foldl fun _ _ hk => hk.charge

theorem Ctx.canonical.chargePiece {clu : Nat} {write : Bool} {p : Piece} (hk : k.canonical) :
    (k.chargePiece m clu write p).canonical := by
  unfold Ctx.chargePiece
  dsimp only
  split
  · exact hk.charge
  · exact hk.charge
  · exact (hk.charge.ite hk.charge).chargeN
  · exact ((hk.ite hk.charge).charge.ite (hk.ite hk.charge)).chargeN
  · exact hk.charge

theorem Ctx.canonical.chargeHome {clu : Nat} {write : Bool} {p : Piece} (hk : k.canonical) :
    (k.chargeHome m clu write p).canonical := by
  unfold Ctx.chargeHome
  split
  · exact hk.charge.chargeN
  · exact hk.charge
  · exact hk.charge

theorem State.Inv.engineSpend {c : CtxId} {clu : Nat} {write : Bool} {ps : List Piece} (hs : s.Inv) :
    (s.engineSpend c clu write ps).Inv :=
  hs.modCtx fun _ hk => hk.foldl fun _ _ hk => hk.chargeHome

theorem State.Inv.devSpend {va n : Nat} {write : Bool} (hs : s.Inv) : (s.devSpend k va n write).Inv := by
  unfold State.devSpend
  split
  · exact hs.engineSpend
  · exact hs

theorem State.Inv.spend {c : CtxId} {lcl clu : Nat} {write : Bool} {ps : List Piece} (hs : s.Inv) :
    (s.spend c lcl clu write ps).Inv :=
  hs.foldl fun _ _ hs => hs.modCtx fun _ hk => hk.chargePiece.perfAdd.ite hk.chargePiece

theorem State.Inv.releaseAt {c : CtxId} {clu : Nat} {ord scp : BitVec 2} (hs : s.Inv) : (s.releaseAt c clu ord scp).Inv := by
  unfold State.releaseAt
  extract_lets dirty s1
  have hcounted : s1.Inv := (hs.modCtx fun _ hk => hk.foldl fun _ _ hk => hk.charge).ite hs
  exact hcounted.withMem hcounted.mem.release

theorem State.Inv.acquireLate {c : CtxId} {lcl clu : Nat} (hs : s.Inv) : (s.acquireLate c lcl clu).Inv := by
  unfold State.acquireLate
  split
  · exact hs
  · next k hk =>
    exact hs.ite ((hs.setCtx (k := { k with discards := k.discards.filter (· != lcl) }) (hs.ctx hk : k.canonical)).withMem
      hs.mem.scDiscard)

theorem State.Inv.account {c : CtxId} {lcl clu : Nat} {kinds : BitVec 8} {ps : List Piece} (hs : s.Inv) :
    (s.account c lcl clu kinds ps).Inv :=
  hs.acquireLate.spend.logAccess

theorem State.Inv.readPieces {c : CtxId} {clu : Nat} {ps : List Piece} (hs : s.Inv) : (s.readPieces c clu ps).1.Inv :=
  hs.withMem (hs.mem.foldl fun _ _ hm => hm.loadEffect)

theorem State.Inv.seenBytes {x : Thread} {w : WaveId} {o : MemOp} {ps : List Piece} (hs : s.Inv) :
    (s.seenBytes k x w o ps).1.Inv :=
  hs.withMem (hs.mem.foldl fun _ _ hm => hm.loadEffect)

theorem State.Inv.scBefore {c : CtxId} {clu : Nat} {o : MemOp} (hs : s.Inv) : (s.scBefore c clu o).Inv :=
  (hs.releaseAt.withMem hs.releaseAt.mem.acquire).ite hs

theorem State.Inv.corrected {ps : List Piece} {ecc : Option (BitVec 2)} (hs : s.Inv) : (s.corrected ps ecc).Inv := by
  unfold State.corrected
  split
  · exact hs
  · split
    · exact hs.addScore
    · exact hs

theorem Ctx.canonical.bankWait {me : ThreadId × WaveId × BitVec 8} {ps : List Piece} (hk : k.canonical) :
    (k.bankWait me ps).canonical :=
  hk.foldl fun _ _ hk => hk.modShare fun _ hh => hh.ite hh.setGran

theorem Ctx.canonical.bankGo {me : ThreadId × WaveId × BitVec 8} {ps : List Piece} (hk : k.canonical) :
    (k.bankGo me ps).canonical :=
  hk.foldl fun _ _ hk => hk.modShare fun _ hh => hh.setGran

theorem Ctx.canonical.scratchFill {sti : Option (ThreadId × WaveId)} {l off : Nat} {bytes : List Byte} (hk : k.canonical) :
    (k.scratchFill sti l off bytes).canonical :=
  (hk.modShare fun _ hh => hh.settle.withBytes.setGran).filled

theorem Ctx.canonical.feset {l g : Nat} {full : Bool} (hk : k.canonical) : (k.feset l g full).canonical :=
  (hk.setShare hk.share.withBytes.setGran).answerAll.ite (hk.setShare hk.share.setGran)

theorem Mems.canonical.atomPoint {clu : Nat} {p : Piece} (hm : m.canonical) : (m.atomPoint clu p).1.canonical := by
  unfold Mems.atomPoint
  split
  · split
    · exact hm.hcStore
    · split
      · exact hm.evict
      · exact hm
    · exact hm.plainLine
    · exact hm.passL2
  · exact hm.hostDrop.plainLine
  · exact hm

theorem State.Inv.performRmw {c : CtxId} {clu : Nat} {o : MemOp} {hurt : Bool} (hs : s.Inv) :
    (s.performRmw c clu o hurt).1.Inv := by
  unfold State.performRmw
  split
  · refine .logAccess ?_
    split
    · exact hs.withMem hs.mem.atomPoint
    · exact (hs.withMem hs.mem.atomPoint).storePiece
  · exact hs

theorem Mems.canonical.tame {clu : Nat} {kind : LineKind} {line : Nat} (hm : m.canonical) : (m.tame clu kind line).canonical :=
  hm

theorem Mems.canonical.maintain {clu : Nat} {drop : Bool} {p : Piece} (hm : m.canonical) :
    (m.maintain clu drop p).canonical := by
  unfold Mems.maintain
  dsimp only
  split
  · split
    · split
      · exact hm.evict
      · exact hm
    · exact hm.tame
    · split
      · exact hm.evict
      · exact hm
    · split
      · exact hm.cleanLine
      · exact hm
    · split
      · exact hm.evict
      · exact hm
    · exact hm.tame
    · exact hm
  · exact hm.uncopy.ite hm.tame
  · exact hm

theorem State.Inv.maintainAt {c : CtxId} {clu : Nat} {drop : Bool} {ps : List Piece} (hs : s.Inv) :
    (s.maintainAt c clu drop ps).Inv := by
  refine hs.foldl fun s p hs => ?_
  extract_lets back s1
  have hcounted : s1.Inv := (hs.modCtx fun _ hk => hk.charge.ite hk.charge).ite hs
  exact hcounted.withMem hcounted.mem.maintain

theorem Mems.canonical.prefetch {clu : Nat} {p : Piece} (hm : m.canonical) : (m.prefetch clu p).canonical := hm.loadEffect

theorem Ctx.canonical.flip {l tile : Nat} {th : ThreadId} {w : WaveId} (hk : k.canonical) : (k.flip l tile th w).canonical :=
  hk.modShare fun _ hh => hh

theorem State.Inv.storeControl {p : Piece} {bytes : List Byte} (hs : s.Inv) : (s.storeControl p bytes).Inv := by
  unfold State.storeControl
  split
  · split
    · exact hs.writeReg
    · exact hs
  · exact hs

theorem State.Inv.storeTo {c : CtxId} {clu : Nat} {o : MemOp} {ps : List Piece} {bytes : List Byte} (hs : s.Inv) :
    (s.storeTo c clu o ps bytes).Inv :=
  (hs.foldl fun _ _ hs => hs.storeControl).ite hs.storePieces

theorem State.Inv.poisonOf {o : MemOp} (hs : s.Inv) : (s.poisonOf o).Inv := hs.withMem hs.mem

theorem State.Inv.doPlain {c : CtxId} {clu : Nat} {me : Committed} {o : MemOp} {hurt : Bool} (hs : s.Inv) :
    (s.doPlain c clu me o hurt).1.Inv := by
  unfold State.doPlain
  split
  · exact hs.logAccess.storeTo
  · refine hs.logAccess.foldl fun _ _ hs => ?_
    split
    · exact hs.modCtx fun _ hk => hk.scratchFill
    · exact hs
  · refine hs.logAccess.foldl fun _ _ hs => ?_
    split
    · exact hs.modCtx fun _ hk => hk.scratchFill
    · exact hs
  · refine hs.logAccess.foldl fun _ _ hs => ?_
    split
    · exact hs.modCtx fun _ hk => hk.feset
    · exact hs
  · exact hs.performRmw
  · exact hs.performRmw
  · exact hs.performRmw
  · exact hs.foldl fun _ _ hs => hs.modCtx fun _ hk => hk.flip
  · exact hs.maintainAt
  · exact hs.maintainAt
  · exact hs

theorem Perf.Inv.storeByte {c : CtxId} {lcl clu : Nat} {o : MemOp} {pick : Nat} (hs : s.Inv) :
    (s.storeByte c lcl clu o pick).Inv :=
  .ite ((hs.spend.logAccess.ite hs).storeTo) ((hs.spend.logAccess.ite hs).storeTo)

theorem Perf.Inv.performPlain {c : CtxId} {me : Committed} {o : MemOp} {pick : Nat} {ecc : Option (BitVec 2)} (hs : s.Inv) :
    (s.performPlain c me o pick ecc).Inv := by
  unfold State.performPlain
  split
  · exact hs
  · next k hctx =>
    have hk := hs.ctx hctx
    extract_lets clu who writes hurt s1 s2
    have hgone : s1.Inv := .corrected (.releaseAt (hs.setCtx hk.bankGo))
    have hbad : s2.Inv := hgone.poisonOf.ite hgone
    have hdone : ((s2.spend c me.lcl clu writes o.ps).doPlain c clu me o hurt).1.Inv := hbad.spend.doPlain
    generalize (s2.spend c me.lcl clu writes o.ps).doPlain c clu me o hurt = q at hdone
    exact .ite hs (.ite hs (.ite hs (.ite (hs.setCtx hk.bankWait)
      (.ite (.storeByte hbad) (State.Inv.ite (hdone.withMem hdone.mem.acquire) hdone)))))

/-! ### Queues (05) -/

theorem State.Inv.queueSet {q : Queue} {head tail : Nat} (hs : s.Inv) : (s.queueSet k q head tail).Inv := hs.devPut

theorem Ctx.canonical.park {me : Park} (hk : k.canonical) : (k.park me).canonical := hk.ite hk

theorem Ctx.canonical.unpark {me : Park} (hk : k.canonical) : (k.unpark me).canonical := hk

theorem Perf.Inv.doQput {me : Committed} {o : MemOp} (hs : s.Inv) (hk : k.canonical) : (s.doQput k me o).Inv :=
  .ite (hs.setCtx hk.park) (((hs.setCtx hk.unpark).withMem hs.mem.release).devPut.queueSet)

theorem Perf.Inv.doQget {me : Committed} {o : MemOp} (hs : s.Inv) : (s.doQget k me o).Inv :=
  .ite hs (hs.queueSet.withMem hs.queueSet.mem.acquire)

theorem Ctx.canonical.sweepBinds (hk : k.canonical) : k.sweepBinds.canonical := hk

theorem Perf.Inv.doQbind {me : Committed} {o : MemOp} (hs : s.Inv) : (s.doQbind k me o).Inv :=
  hs.devPut.devPut.modCtx fun _ hk => hk

theorem Perf.Inv.doQunbind {o : MemOp} (hs : s.Inv) : (s.doQunbind k o).Inv :=
  .ite (hs.devPut.modCtx fun _ hk => .sweepBinds hk) hs

theorem State.Inv.irecsSet {q : Queue} {ins : Nat} {rs : List IRec} (hs : s.Inv) : (s.irecsSet k q ins rs).Inv :=
  (hs.foldl fun _ _ hs => hs.devPut).queueSet

theorem State.Inv.frontSet {q : Queue} {p t : Nat} (hs : s.Inv) : (s.frontSet k q p t).Inv := hs.devPut

theorem Ctx.canonical.arrAdd {j : Ctx} {d : Addr} {cap : Nat} {r : IRec} (hk : k.canonical) (e : k.arrAdd d cap r = some j) :
    j.canonical := by
  unfold Ctx.arrAdd at e
  split at e
  · cases e
    exact hk
  · split at e
    · cases e
    · cases e
      exact hk

theorem Perf.Inv.doIqput {me : Committed} {o : MemOp} {win : Nat} (hs : s.Inv) (hk : k.canonical) :
    (s.doIqput k me o win).Inv :=
  .ite ((hs.withMem hs.mem.release).frontSet) (.ite (hs.setCtx hk.park)
    (((hs.withMem hs.mem.release).frontSet.setCtx hk.unpark).irecsSet))

theorem Perf.Inv.doIqadv {o : MemOp} (hs : s.Inv) : (s.doIqadv k o).Inv := hs.frontSet

theorem Perf.Inv.doIqlook {o : MemOp} (hs : s.Inv) : (s.doIqlook k o).Inv := by
  unfold State.doIqlook
  dsimp only
  split
  · exact hs
  · exact hs

theorem Perf.Inv.doIqcons {o : MemOp} (hs : s.Inv) : (s.doIqcons k o).Inv := .ite hs (hs.irecsSet.modCtx fun _ hk => hk)

theorem Perf.Inv.doIqquiet {o : MemOp} (hs : s.Inv) : (s.doIqquiet k o).Inv := hs

theorem Perf.Inv.doPqput {me : Committed} {o : MemOp} (hs : s.Inv) (hk : k.canonical) : (s.doPqput k me o).Inv := hs.setCtx hk

theorem Perf.Inv.doPqget {me : Committed} {pick : Nat} (hs : s.Inv) (hk : k.canonical) : (s.doPqget k me pick).Inv := by
  unfold State.doPqget
  dsimp only
  split
  · exact hs
  · exact hs.setCtx hk

theorem State.Inv.handOver {giver taker : Nat} (hs : s.Inv) : (s.handOver k giver taker).Inv :=
  (hs.foldl fun _ _ hs => hs.releaseAt).withMem ((hs.foldl fun _ _ hs => hs.releaseAt).mem.acquire)

theorem Perf.Inv.doRtget {me : Committed} {o : MemOp} (hs : s.Inv) : (s.doRtget k me o).Inv := by
  unfold State.doRtget
  split
  · exact hs
  · dsimp only
    split
    · exact hs.modCtx fun _ hk => hk.modLn
    · exact .ite hs (hs.handOver.modCtx fun _ hk => hk.modLn)

theorem Perf.Inv.doRtdone {me : Committed} {o : MemOp} (hs : s.Inv) (hk : k.canonical) : (s.doRtdone k me o).Inv :=
  hs.setCtx hk.modLn

theorem Perf.Inv.doCapget (hs : s.Inv) : (s.doCapget k).Inv := by
  unfold State.doCapget
  split
  · exact hs
  · exact .ite hs hs.devPut.devPut

/-- The definition is unfolded as a function: applied to its arguments, its kernel check would evaluate the list of records. -/
theorem Perf.Inv.doIqget {me : Committed} {o : MemOp} (hs : s.Inv) (hk : k.canonical) : (s.doIqget k me o).Inv := by
  have hdef : @State.doIqget = @State.doIqget := rfl
  conv at hdef => rhs; delta State.doIqget
  rw [hdef]
  cases hrecs : s.irecs k (s.queue k o.desc) with
  | nil =>
    simp only [hrecs]
    exact hs
  | cons r rest =>
    simp only [hrecs]
    split
    · exact hs.irecsSet.withMem hs.irecsSet.mem.acquire
    · split
      · exact hs.withMem hs.mem.acquire
      · next k1 hadd =>
        have hadded := (hs.setCtx (hk.arrAdd hadd)).irecsSet (k := k) (q := s.queue k o.desc) (ins := 0) (rs := rest)
        exact hadded.withMem hadded.mem.acquire

/-! ### Launches (05) -/

theorem State.Inv.releaseAll {scp : BitVec 2} (hs : s.Inv) : (s.releaseAll k scp).Inv := hs.foldl fun _ _ hs => hs.releaseAt

theorem State.Inv.report {c : CtxId} {r : LaunchRec} {fromHost : Bool} {status cause detail : Nat} {num : BitVec 32}
    (hs : s.Inv) : (s.report c r fromHost status cause detail num).Inv := by
  unfold State.report
  split
  · exact hs
  · exact (hs.releaseAll.devSpend.devPut.ite hs.releaseAll).post

theorem Ctx.canonical.register {rows : List (BitVec 128)} (hk : k.canonical) : (k.register rows).canonical := hk.ite hk

theorem Ctx.canonical.enrol {q : QRec} {rows : List (BitVec 128)} (hk : k.canonical) : (k.enrol q rows).canonical := hk.register

theorem execLaunchAdmission_inv {die : Nat} (hs : s.Inv) : (execLaunchAdmission die s).Inv := by
  unfold execLaunchAdmission
  split
  · exact hs
  · split
    · exact hs
    · next e =>
      have hk := hs.ctx e
      dsimp only
      split
      · exact hs
      · split
        · exact .report hs
        · split
          · exact hs
          · split
            · exact hs
            · exact .setCtx hs hk.enrol

theorem Ctx.canonical.spawn {ln : Launch} {leads : List (Addr × Nat)} {idx : List Nat} (hk : k.canonical) :
    (k.spawn ln leads idx).canonical := by
  unfold Ctx.spawn
  split
  · exact hk
  · exact .foldl hk fun _ _ hk => hk.enter

theorem State.Inv.pinOne {c : CtxId} {ln : BitVec 32} {lcl : Nat} {origin : Bool} {b : Addr} (hs : s.Inv) :
    (s.pinOne c ln lcl origin b).1.Inv := by
  unfold State.pinOne
  split
  · exact hs
  · next e =>
    have hk := hs.ctx e
    split
    · exact hs
    · split
      · exact hs
      · dsimp only
        split
        · exact hs
        · exact hs.setCtx hk

theorem State.Inv.pinAll {c : CtxId} {ln : BitVec 32} {lcl : Nat} {origin : Bool} {bs : List Addr} (hs : s.Inv) :
    (s.pinAll c ln lcl origin bs).1.Inv :=
  hs.foldlFst fun _ _ hs => hs.pinOne

theorem State.Inv.beginPlacing {c : CtxId} {n : Launch} (hs : s.Inv) : (s.beginPlacing c n).Inv := by
  unfold State.beginPlacing
  extract_lets s1
  have hpinned : s1.Inv := by
    refine .ite (hs.foldl fun _ _ hs => ?_) hs
    split
    · exact hs
    · exact hs.pinAll
  split
  · exact hs
  · next k hctx =>
    have hk := hpinned.ctx hctx
    exact hpinned.setCtx hk

theorem execThreadCreation_inv {c : CtxId} {ln : BitVec 32} (hs : s.Inv) : (execThreadCreation c ln s).Inv := by
  unfold execThreadCreation
  split
  · exact hs
  · next e =>
    have hk := hs.active e
    split
    · exact hs
    · exact hs.ite (hs.beginPlacing.ite (hs.ite (hs.setCtx ((hk.foldl fun _ _ hk => hk.spawn).modLn))))

theorem Ctx.canonical.arrive {e : Committed} (hk : k.canonical) : (k.arrive e).canonical := by
  unfold Ctx.arrive
  split
  · exact hk.modLn
  · exact hk

theorem Perf.Inv.doLbar {me : Committed} {o : MemOp} (hs : s.Inv) : (s.doLbar k me o).Inv := by
  unfold State.doLbar
  split
  · exact .ite (hs.withMem hs.mem.release) (hs.withMem hs.mem.release)
  · exact hs

theorem State.Inv.leaveBarrier {c : CtxId} {scp : BitVec 2} {phase : Value} {e : Committed} (hs : s.Inv) :
    (s.leaveBarrier c scp phase e).Inv := by
  unfold State.leaveBarrier
  split
  · next e' _ =>
    have hk := hs.ctx e'
    refine .withMem (hs.setCtx (.emitLate ?_)) hs.mem.acquire
    dsimp only
    split
    · exact .arrive hk
    · exact hk
  · exact hs

theorem execBarrierRelease_inv {c : CtxId} {ln : BitVec 32} {level inst : Nat} (hs : s.Inv) :
    (execBarrierRelease c ln level inst s).Inv := by
  unfold execBarrierRelease
  split
  · exact hs
  · next e =>
    have hk := hs.ctx e
    split
    · exact hs
    · exact hs.ite ((hs.setCtx hk.modLn).foldl fun _ _ hs => hs.leaveBarrier)

theorem Ctx.canonical.endThread {t : ThreadId} (hk : k.canonical) : (k.endThread t).canonical := by
  unfold Ctx.endThread
  split
  · exact hk
  · exact .modLn (.sweepBinds hk.dropWaves)

theorem Ctx.canonical.forget {n : BitVec 32} (hk : k.canonical) : (k.forget n).canonical := .modesFall hk

theorem execLaunchCompletion_inv {c : CtxId} {ln : BitVec 32} (hs : s.Inv) : (execLaunchCompletion c ln s).Inv := by
  unfold execLaunchCompletion
  split
  · exact hs
  · split
    · exact hs
    · exact hs.ite (hs.report.modCtx fun _ hk => hk.forget)

theorem State.Inv.dropUnadmitted {c : CtxId} {n : BitVec 32} {cause : BitVec 8} {detail : BitVec 16} (hs : s.Inv) :
    (s.dropUnadmitted c n cause detail).Inv :=
  .foldl (.modCtx hs fun _ hk => hk) fun _ _ hs => hs.report

theorem Ctx.canonical.cutLaunch {n : BitVec 32} {cause : BitVec 8} {detail : BitVec 16} (hk : k.canonical) :
    (k.cutLaunch n cause detail).canonical :=
  .modLn (hk.foldl fun _ _ hk => hk.endThread)

theorem State.Inv.unbindAll {c : CtxId} {n : BitVec 32} (hs : s.Inv) : (s.unbindAll c n).Inv := by
  unfold State.unbindAll
  split
  · exact hs
  · exact hs.foldl fun _ _ hs => hs.devPut

theorem State.Inv.cutFamily {c : CtxId} {fam : List (BitVec 32)} {cause : BitVec 8} {detail : BitVec 16} (hs : s.Inv) :
    (s.cutFamily c fam cause detail).Inv :=
  hs.foldl fun _ _ hs => hs.unbindAll.dropUnadmitted.modCtx fun _ hk => hk.cutLaunch

theorem execLaunchAbort_inv {c : CtxId} {ln : BitVec 32} (hs : s.Inv) : (execLaunchAbort c ln s).Inv := by
  unfold execLaunchAbort
  split
  · exact hs
  · split
    · exact hs
    · exact hs.cutFamily.ite (hs.ite (hs.report.modCtx fun _ hk => hk.forget))

theorem Perf.Inv.doLaunch {me : Committed} {o : MemOp} (hs : s.Inv) : (s.doLaunch k me o).Inv :=
  .ite (.ite hs hs.releaseAt.report) (.ite hs hs.releaseAt)

end

end Sys2Proof.Machine
end

section
/-! PROOFS. Canonical memories: placement, the system instructions, and the units of a share (02, 06, 14, 15). -/
namespace Sys2Proof.Machine

section
variable {s : State} {k : Ctx} {m : Mems} {h : Share}

/-! ### Placement (02, 06) -/

theorem State.Inv.own {c : CtxId} {clu : Nat} {at_ : List (Nat × Nat)} (hs : s.Inv) : (s.own c clu at_).Inv := hs

theorem Ctx.canonical.evict {p : Placed} (hk : k.canonical) : (k.evict p).canonical :=
  .ite (.foldl (.perfAdd hk) fun _ _ hk => hk.modeFall) (.perfAdd hk)

theorem Ctx.canonical.spill {p : Placed} {fuel : Nat} (hk : k.canonical) : (k.spill p fuel).canonical := by
  induction fuel generalizing k with
  | zero => exact hk
  | succ fuel ih =>
    unfold Ctx.spill
    split
    · exact hk
    · split
      · exact ih (.perfAdd hk)
      · exact hk.raiseAt

theorem Ctx.canonical.evictFit {p : Placed} (hk : k.canonical) : (k.evictFit p).canonical := by
  unfold Ctx.evictFit
  dsimp only
  split
  · exact hk.evict
  · split
    · exact hk
    · split
      · exact hk
      · exact hk.raiseAt

theorem Ctx.canonical.makeRoom {clu : Nat} (hk : k.canonical) : (k.makeRoom clu).canonical := by
  unfold Ctx.makeRoom
  split
  · exact hk.evictFit
  · split
    · exact hk.spill.ite hk.spill.evictFit
    · exact hk

theorem State.Inv.placeFail {l : Nat} {b : Addr} {who : Option (Thread × WaveId)} {e : PFail} (hs : s.Inv) (hk : k.canonical) :
    (s.placeFail k l b who e).Inv := by
  unfold State.placeFail
  split
  · exact hs.setCtx hk.raise
  · exact hs.setCtx hk

theorem Ctx.canonical.chargeFetch {ps : List Piece} {clu : Nat} (hk : k.canonical) : (k.chargeFetch m ps clu).canonical :=
  hk.foldl fun _ _ hk => hk.chargeHome

theorem Ctx.canonical.lead {ln : BitVec 32} {l : Nat} {b : Addr} {ps : List (Addr × Nat)} (hk : k.canonical) :
    (k.lead ln l b ps).canonical :=
  hk

theorem Ctx.canonical.install {n : Launch} {l seat : Nat} {b : Addr} {at_ : List (Nat × Nat)} {m : BlockImage} {ws : List PSlot}
    {cf : List Value} {tick : Nat} (hk : k.canonical) : (k.install n l seat b at_ m ws cf tick).canonical :=
  .ite (.foldl (.modLn (.perfAdd hk)) fun _ _ hk => hk.modShare fun _ hh => hh.setDom) (.modLn (.perfAdd hk))

theorem execBlockPlacement_inv {c : CtxId} {l : Nat} {b : Addr} {at_ : List (Nat × Nat)} (hs : s.Inv) :
    (execBlockPlacement c l b at_ s).Inv := by
  unfold execBlockPlacement
  split
  · exact hs
  · next e =>
    have hk := hs.active e
    split
    · exact hs
    · split
      · exact hs
      · split
        · exact hs
        · split
          · split
            · exact hs.placeFail hk
            · exact hs.setCtx hk.lead
          · split
            · dsimp only
              split
              · exact hs
              · split
                · exact (hs.withMem hs.mem.peek).logAccess
                · next e5 =>
                  exact (hs.withMem hs.mem.peek).logAccess.placeFail (((hs.withMem hs.mem.peek).logAccess.ctx e5).chargeFetch)
            · dsimp only
              split
              · exact hs
              · split
                · exact hs.setCtx hk.makeRoom
                · exact hs.ite ((hs.withMem hs.mem.peek).logAccess.modCtx fun _ hk => hk.chargeFetch.install)

theorem execBlockMove_inv {c : CtxId} {l : Nat} {b : Addr} {at_ : List (Nat × Nat)} (hs : s.Inv) :
    (execBlockMove c l b at_ s).Inv := by
  unfold execBlockMove
  split
  · exact hs
  · split
    · exact hs
    · exact hs.ite (hs.modCtx fun _ hk => hk)

theorem execTokenForward_inv {c : CtxId} {l : Nat} {b : Addr} (hs : s.Inv) : (execTokenForward c l b s).Inv := by
  unfold execTokenForward
  refine hs.modActive fun _ hk => ?_
  split
  · exact hk
  · exact .ite hk hk

theorem execStaleBlockEviction_inv {c : CtxId} {l : Nat} {b : Addr} (hs : s.Inv) : (execStaleBlockEviction c l b s).Inv := by
  unfold execStaleBlockEviction
  refine hs.modActive fun _ hk => ?_
  split
  · exact hk
  · exact hk.evictFit

/-! ### System instructions (15) -/

theorem Ctx.canonical.ctxstClear {idx : Nat} {a : Value} (hk : k.canonical) : (k.ctxstClear idx a).canonical :=
  .ite hk (.ite hk hk)

theorem Ctx.canonical.readStatus {e : Committed} (hk : k.canonical) : (k.readStatus e).1.canonical := by
  unfold Ctx.readStatus
  split
  · split
    · exact hk
    · exact hk.ctxstClear.ite hk
  · exact hk

theorem Ctx.canonical.readStatuses {es : List Committed} (hk : k.canonical) : (k.readStatuses es).1.canonical := by
  induction es generalizing k with
  | nil => exact hk
  | cons e es ih => exact ih hk.readStatus

theorem badOperand_keeps {bit : Nat} : (badOperand bit).keeps := trivial

theorem opBits_keeps {a : Value} {rs : List (Nat × Nat)} {x : Sem} (e : opBits a rs = some x) : x.keeps := by
  obtain ⟨_, -, rfl⟩ := Option.map_eq_some_iff.1 e
  trivial

theorem immediate_none_keeps {f : Fire} {v : Value} : (immediate f none v).keeps := .result

theorem immediate_keeps {f : Fire} {bad : Option Sem} {v : Value} (hbad : ∀ x, bad = some x → x.keeps) :
    (immediate f bad v).keeps := by
  cases bad with
  | none => exact .result
  | some x => exact hbad x rfl

theorem accepted_keeps {f : Fire} {d : DefOp} : (accepted f d).keeps := fun _ hk => hk.defer

theorem awaited_keeps {f : Fire} {d : DefOp} : (awaited f d).keeps := fun _ hk => hk.defer

theorem State.Inv.fireG {t : Tmpl} {sem : Fire → Sem} (hs : s.Inv) (hf : ∀ a : Fire, a.k.canonical → (sem a).keeps) :
    (s.fireG t sem).Inv :=
  hs.fire fun _ hk => hf _ hk

theorem execCntrd_inv {t : Tmpl} {g : FormG} (hs : s.Inv) : (execCntrd t g s).Inv := hs.fireG fun _ _ => immediate_none_keeps

theorem execEnrd_inv {t : Tmpl} {g : FormG} (hs : s.Inv) : (execEnrd t g s).Inv := hs.fireG fun _ _ => immediate_none_keeps

theorem execSusrd_inv {t : Tmpl} {g : FormG} (hs : s.Inv) : (execSusrd t g s).Inv := by
  unfold execSusrd
  refine State.Inv.fireG hs fun _ _ => ?_
  dsimp only
  split
  · next e => exact opBits_keeps e
  · exact .ite (.ite badOperand_keeps .result) (.ite trivial .result)

theorem execLogrd_inv {t : Tmpl} {g : FormG} (hs : s.Inv) : (execLogrd t g s).Inv := by
  unfold execLogrd
  refine hs.fireG fun _ _ => ?_
  dsimp only
  split
  · next e => exact opBits_keeps e
  · exact .result

theorem execLeaseq_inv {t : Tmpl} {g : FormG} (hs : s.Inv) : (execLeaseq t g s).Inv :=
  State.Inv.fireG hs fun _ _ => .ite trivial (immediate_keeps fun _ e => opBits_keeps e)

theorem execYield_inv {t : Tmpl} {g : FormG} (hs : s.Inv) : (execYield t g s).Inv :=
  State.Inv.fireG hs fun _ _ => .ite (.ite trivial trivial) fun _ hk => hk

theorem execBrk_inv {t : Tmpl} {g : FormG} (hs : s.Inv) : (execBrk t g s).Inv := by
  unfold execBrk
  split
  · exact hs
  · exact (hs.ite hs.debugHalt).ite (hs.fireG fun _ _ _ hk => hk)

theorem execSteal_inv {t : Tmpl} {g : FormG} (hs : s.Inv) : (execSteal t g s).Inv := by
  unfold execSteal
  refine hs.fireG fun _ _ => ?_
  split
  · next e => exact opBits_keeps e
  · exact .ite badOperand_keeps accepted_keeps

theorem execCfgreq_inv {t : Tmpl} {g : FormG} (hs : s.Inv) : (execCfgreq t g s).Inv := by
  unfold execCfgreq
  refine hs.fireG fun _ _ => ?_
  split
  · next e => exact opBits_keeps e
  · dsimp only
    split
    · trivial
    · split
      · trivial
      · split
        · trivial
        · exact .ite accepted_keeps trivial

theorem execDswitch_inv {t : Tmpl} {g : FormG} (hs : s.Inv) : (execDswitch t g s).Inv :=
  hs.fireG fun _ _ => .ite accepted_keeps trivial

theorem execMigrq_inv {t : Tmpl} {g : FormG} (hs : s.Inv) : (execMigrq t g s).Inv := by
  unfold execMigrq
  refine hs.fireG fun _ _ => ?_
  split
  · next e => exact opBits_keeps e
  · exact .ite badOperand_keeps accepted_keeps

theorem execDfence_inv {t : Tmpl} {g : FormG} (hs : s.Inv) : (execDfence t g s).Inv := hs.fireG fun _ _ => awaited_keeps

theorem Sem.keeps.pinFire {act : DefAct} {f : Fire} : (s.pinFire act f).keeps := by
  unfold State.pinFire
  split
  · next e => exact opBits_keeps e
  · dsimp only
    split
    · trivial
    · split
      · trivial
      · exact .ite badOperand_keeps awaited_keeps

theorem execIpin_inv {t : Tmpl} {g : FormG} (hs : s.Inv) : (execIpin t g s).Inv := hs.fireG fun _ _ => .pinFire

theorem execIunpin_inv {t : Tmpl} {g : FormG} (hs : s.Inv) : (execIunpin t g s).Inv := hs.fireG fun _ _ => .pinFire

theorem execCtxst_inv {t : Tmpl} {g : FormG} (hs : s.Inv) : (execCtxst t g s).Inv := hs.fireG fun _ _ => awaited_keeps

theorem execSyscall_inv {t : Tmpl} {g : FormG} (hs : s.Inv) : (execSyscall t g s).Inv := hs.fireG fun _ _ => awaited_keeps

theorem resolveFire_keeps {act : DefAct} {imm : BitVec 16} {f : Fire} : (resolveFire act imm f).keeps := by
  unfold resolveFire
  split
  · next e => exact opBits_keeps e
  · exact .ite badOperand_keeps awaited_keeps

theorem execFresume_inv {t : Tmpl} {g : FormG} (hs : s.Inv) : (execFresume t g s).Inv := hs.fireG fun _ _ => resolveFire_keeps

theorem execFabort_inv {t : Tmpl} {g : FormG} (hs : s.Inv) : (execFabort t g s).Inv := hs.fireG fun _ _ => resolveFire_keeps

theorem State.Inv.writeEvent {e : HostEvent} (hs : s.Inv) : (s.writeEvent k e).Inv := hs.devSpend.devPut.modCtx fun _ hk => hk

theorem Perf.Inv.doTnew {me : Committed} {d : DefOp} (hs : s.Inv) (hk : k.canonical) : (s.doTnew k me d).Inv := by
  unfold State.doTnew
  split
  · exact hs
  · split
    · exact hs.setCtx (.enter hk)
    · exact hs

theorem Ctx.canonical.advanceGen {sel : BitVec 4} (hk : k.canonical) : (k.advanceGen sel).canonical := hk

theorem Perf.Inv.doDswitch {d : DefOp} (hs : s.Inv) (hk : k.canonical) : (s.doDswitch k d).Inv :=
  .ite hs (hs.setCtx hk.advanceGen)

theorem Ctx.canonical.unpinBlocks {lcl : Nat} {bs : List Addr} (hk : k.canonical) : (k.unpinBlocks lcl bs).1.canonical := hk

theorem Ctx.canonical.markPinned {lcl : Nat} (hk : k.canonical) : (k.markPinned lcl).canonical := hk

theorem Share.canonical.rerun {t : ThreadId} (hh : h.canonical) : (h.rerun t).canonical := hh

theorem Ctx.canonical.resume {t : ThreadId} (hk : k.canonical) : (k.resume t).canonical :=
  .refeed (.mapShares hk fun _ hh => .rerun hh)

theorem State.Inv.abandon {x : Thread} {launch : Bool} (hs : s.Inv) (hk : k.canonical) : (s.abandon k x launch).Inv :=
  (hs.setCtx hk.modLn).cutFamily.ite (hs.setCtx hk.endThread)

theorem Perf.Inv.doSystem {me : Committed} {d : DefOp} {pick : Nat} (hs : s.Inv) (hk : k.canonical) :
    (s.doSystem k me d pick).Inv := by
  unfold State.doSystem
  split
  · exact .doTnew hs hk
  · exact .doDswitch hs hk
  · exact hs
  · exact State.Inv.modCtx (.pinAll hs) fun _ hk => .markPinned hk
  · exact State.Inv.setCtx hs (.unpinBlocks hk)
  · exact .ite (State.Inv.ite (State.Inv.setCtx hs (.ctxstClear hk)) hs) hs
  · exact .ite hs (State.Inv.writeEvent hs)
  · exact State.Inv.ite (State.Inv.setCtx hs (.modShare hk fun _ hh => hh)) hs
  · split
    · exact State.Inv.setCtx hs (.resume hk)
    · exact hs
  · split
    · exact State.Inv.abandon hs hk
    · exact hs
  · exact State.Inv.ite hs (State.Inv.setCtx hs hk)
  · exact State.Inv.setCtx hs hk
  · exact hs

theorem Perf.Inv.doKeyset {o : MemOp} (hs : s.Inv) : (s.doKeyset k o).Inv := by
  unfold State.doKeyset
  split
  · split
    · exact hs
    · exact hs.devPut
  · exact hs.modCtx fun _ hk => hk
  · exact hs.modCtx fun _ hk => hk

theorem State.Inv.flushRange {c : CtxId} {range fuel : Nat} (hs : s.Inv) : (s.flushRange c range fuel).1.Inv := by
  induction fuel generalizing s with
  | zero => exact hs
  | succ fuel ih =>
    unfold State.flushRange
    split
    · exact hs
    · split
      · exact hs
      · dsimp only
        split
        · exact ih (hs.logWrite.modCtx fun _ hk => hk)
        · exact hs

theorem State.Inv.flushLogs {c : CtxId} (hs : s.Inv) : (s.flushLogs c).1.Inv := by
  unfold State.flushLogs
  split
  · exact hs
  · exact hs.foldlFst fun _ _ hs => hs.flushRange

theorem Perf.Inv.doLogset {o : MemOp} (hs : s.Inv) : (s.doLogset o).Inv := by
  unfold State.doLogset
  extract_lets n
  have hflushed : (s.flushRange o.logCtx o.logRange (n + 1)).1.Inv := hs.flushRange
  generalize s.flushRange o.logCtx o.logRange (n + 1) = q at hflushed
  exact .ite hflushed (hflushed.modCtx fun _ hk => hk)

theorem Mems.canonical.dropTlb {c : CtxId} {all : Bool} {vpn : Nat} (hm : m.canonical) : (m.dropTlb c all vpn).canonical := hm

theorem Perf.Inv.doXlinv {o : MemOp} (hs : s.Inv) : (s.doXlinv o).Inv := hs.withMem hs.mem

theorem Perf.Inv.doDput {o : MemOp} (hs : s.Inv) : (s.doDput k o).Inv := by
  unfold State.doDput
  split
  · exact hs
  · split
    · exact hs
    · next e => exact ((hs.devWrite e).modCtx fun _ hk => hk.advanceGen).ite (hs.devWrite e)

theorem Mems.canonical.recallPage {pg : Nat × Nat} (hm : m.canonical) : (m.recallPage pg).canonical :=
  hm.foldl fun _ _ hm => hm.evict

theorem Mems.canonical.setAttr {ea : Nat} {e : BitVec 64} {level coh owner : Nat} (hm : m.canonical) :
    (m.setAttr ea e level coh owner).canonical :=
  hm.withHbm (memory_wf_foldl hm.hbm fun _ _ h => memory_wf_wrN _ _ h)

theorem Ctx.canonical.reprobe {x : Thread} {w : WaveId} {o : MemOp} (hk : k.canonical) : (s.reprobe x w o k).canonical := by
  unfold State.reprobe
  split
  · exact hk.modWv
  · exact hk.raiseAt

theorem Ctx.canonical.reprobeDrain {x : Thread} {w : WaveId} {o : MemOp} (hk : k.canonical) :
    (s.reprobeDrain x w o k).canonical := by
  unfold State.reprobeDrain
  split
  · exact hk.modWv
  · exact hk.raise

theorem Ctx.canonical.reprobeAll {pg : Nat × Nat} (hk : k.canonical) : (s.reprobeAll pg k).canonical :=
  hk.foldl fun _ _ hk => hk.foldl fun _ _ hk2 => (hk2.foldl fun _ _ hk3 => hk3.reprobe).foldl fun _ _ hk3 => hk3.reprobeDrain

theorem Mems.canonical.shootDown {pg : Nat × Nat} (hm : m.canonical) : (m.shootDown pg).canonical := hm

theorem Perf.Inv.doPattr {me : Committed} {o : MemOp} (hs : s.Inv) : (s.doPattr k me o).Inv := by
  unfold State.doPattr
  dsimp only
  split
  · exact hs
  · exact .ite hs ((hs.withMem ((hs.mem.ite hs.mem.recallPage.setAttr).shootDown)).mapCtxs fun _ hk => hk.reprobeAll)

theorem execDfenceCompletion_inv {c : CtxId} (hs : s.Inv) : (execDfenceCompletion c s).Inv := by
  unfold execDfenceCompletion
  refine hs.modCtx fun _ hk => ?_
  dsimp only
  split
  · exact hk
  · refine .foldl hk fun _ _ hk => ?_
    split
    · exact hk.emitLate
    · exact hk

/-! ### Rings, chimes, drums and streams (02, 14) -/

theorem rfAt_keeps {place bit : Nat} : (rfAt place bit).keeps := trivial

theorem tokenBits_keeps {v : Value} {rs : List (Nat × Nat)} {x : Sem} (e : tokenBits v rs = some x) : x.keeps := by
  obtain ⟨_, -, rfl⟩ := Option.map_eq_some_iff.1 e
  trivial

theorem Sem.keeps.checks_nil {r : Sem} (hr : r.keeps) : (checks [] r).keeps := hr

theorem Sem.keeps.checks_cons {b : Bool} {x r : Sem} {l : List (Bool × Sem)} (hx : x.keeps) (hr : (checks l r).keeps) :
    (checks ((b, x) :: l) r).keeps :=
  hx.ite hr

theorem State.Inv.fireX {t : Tmpl} {x : FormX} {takesB : Bool} {sem : Fire → Sem} (hs : s.Inv)
    (hf : ∀ a : Fire, a.k.canonical → (sem a).keeps) : (s.fireX t x takesB sem).Inv :=
  hs.fire fun _ hk => hf _ hk

theorem Sem.keeps.hold {f : Fire} {act : DefAct} {x : FormX} {cfv : Value} {data : List Byte} : (f.hold act x cfv data).keeps :=
  accepted_keeps

theorem Share.canonical.setRing {n : Nat} {r : Ring} (hh : h.canonical) : (h.setRing n r).canonical := hh

theorem Share.canonical.pulse {src : Nat} (hh : h.canonical) : (h.pulse src).canonical := hh

theorem Share.canonical.pulseKind {kind unit : Nat} (hh : h.canonical) : (h.pulseKind kind unit).canonical :=
  hh.foldl fun _ _ hh => hh.pulse

theorem Share.canonical.pulseEngine {n : Nat} (hh : h.canonical) : (h.pulseEngine n).canonical := hh.pulse.ite hh

theorem Share.canonical.ringTail {n by_ : Nat} (hh : h.canonical) : (h.ringTail n by_).canonical :=
  hh.setRing.pulseKind.ite hh.setRing

theorem Share.canonical.ringHead {n by_ : Nat} (hh : h.canonical) : (h.ringHead n by_).canonical := hh.setRing

theorem Ctx.canonical.fillRun {l off : Nat} {bytes : List Byte} (hk : k.canonical) : (k.fillRun l off bytes).canonical :=
  (hk.modShare fun _ hh => (hh.foldl fun _ _ hh => hh.settle).withBytes).foldl fun _ _ hk => hk.filled

theorem Ctx.canonical.engineRun {l off : Nat} {bytes : List Byte} (hk : k.canonical) : (k.engineRun l off bytes).canonical :=
  hk.modShare fun _ hh => (hh.foldl fun _ _ hh => hh.settle).withBytes.foldl fun _ _ hh => hh.setGran

theorem Ctx.canonical.flipBack {ts : List (Nat × Nat)} (hk : k.canonical) : (k.flipBack ts).canonical :=
  .foldl hk fun _ _ hk => .foldl (.modShare hk fun _ hh => hh) fun _ _ hk2 => .filled hk2

theorem execRinit_inv {t : Tmpl} {x : FormX} (hs : s.Inv) : (execRinit t x s).Inv := by
  unfold execRinit
  refine hs.fireX fun _ _ => ?_
  dsimp only
  split
  · next e => exact tokenBits_keeps e
  · exact .checks_cons rfAt_keeps (.checks_cons rfAt_keeps (.checks_cons rfAt_keeps (.checks_nil .hold)))

theorem execRstat_inv {t : Tmpl} {x : FormX} (hs : s.Inv) : (execRstat t x s).Inv := hs.fireX fun _ _ => .result

theorem execRadv_inv {t : Tmpl} {x : FormX} (hs : s.Inv) : (execRadv t x s).Inv := by
  unfold execRadv
  refine hs.fireX fun _ _ => ?_
  dsimp only
  split
  · next e => exact tokenBits_keeps e
  · exact .checks_cons rfAt_keeps (.checks_cons rfAt_keeps (.checks_nil .hold))

theorem Perf.Inv.doRinit {me : Committed} {d : DefOp} (hs : s.Inv) (hk : k.canonical) : (s.doRinit k me d).Inv :=
  .ite hs (hs.setCtx (hk.modShare fun _ hh => hh.setRing))

theorem Perf.Inv.doRadv {me : Committed} {d : DefOp} (hs : s.Inv) (hk : k.canonical) : (s.doRadv k me d).Inv :=
  .ite hs (.ite (.ite (hs.setCtx (hk.modShare fun _ hh => hh.ringTail)) hs)
    (.ite (hs.setCtx (hk.modShare fun _ hh => hh.ringHead)) hs))

theorem Ctx.canonical.injectFault {i : Inject} {t : ThreadId} {w : WaveId} {b : Addr} {origin : BitVec 8} {unit : Nat}
    (hk : k.canonical) : (k.injectFault i t w b origin unit).canonical := by
  unfold Ctx.injectFault
  split
  · exact hk.raise
  · exact hk.raise
  · exact hk

theorem Share.canonical.startArm {slot : Nat} (hh : h.canonical) : (h.startArm slot).canonical := hh

theorem Share.canonical.goDrum {n : Nat} (hh : h.canonical) : (h.goDrum n).canonical := hh

theorem Share.canonical.goStream {n : Nat} (hh : h.canonical) : (h.goStream n).canonical := hh

theorem Share.canonical.startOut {ps : List Nat} {i : Nat} (hh : h.canonical) : (h.startOut ps i).canonical := by
  unfold Share.startOut
  dsimp only
  split
  · exact hh
  · split
    · exact hh.foldl fun _ _ hh => hh.startArm
    · exact hh.goDrum
    · exact hh.goStream
    · exact hh
    · exact hh

theorem Ctx.canonical.injectDue {l i : Nat} (hk : k.canonical) : (Ctx.injectDue l k i).canonical := by
  unfold Ctx.injectDue
  dsimp only
  split
  · exact hk.setShare hk.share
  · split
    · exact hk
    · split
      · exact hk
      · exact .enter (.setShare hk (hk.share : (k.share l).canonical))
    · exact .injectFault (.setShare hk (hk.share : (k.share l).canonical))

theorem execChimeEvaluation_inv {c : CtxId} {l : Nat} (hs : s.Inv) : (execChimeEvaluation c l s).Inv :=
  State.Inv.modActive hs fun _ hk =>
    .ite hk (.foldl (.setShare hk (.foldl (Ctx.canonical.share hk) fun _ _ hh => .startOut hh)) fun _ _ hk => .injectDue hk)

theorem execChimeCounterFire_inv {c : CtxId} {l n : Nat} (hs : s.Inv) : (execChimeCounterFire c l n s).Inv :=
  State.Inv.modActive hs fun _ hk => .ite (.modShare hk fun _ hh => hh) hk

theorem execChwire_inv {t : Tmpl} {x : FormX} (hs : s.Inv) : (execChwire t x s).Inv := by
  unfold execChwire
  refine hs.fireX fun _ _ => ?_
  dsimp only
  split
  · exact rfAt_keeps
  · split
    · exact rfAt_keeps
    · exact .hold

theorem execChset_inv {t : Tmpl} {x : FormX} (hs : s.Inv) : (execChset t x s).Inv := hs.fireX fun _ _ => .hold

theorem execChpulse_inv {t : Tmpl} {x : FormX} (hs : s.Inv) : (execChpulse t x s).Inv := hs.fireX fun _ _ => .hold

theorem State.Inv.readRecord {t : State} {f : Fire} {va : BitVec 64} (hs : t.Inv) : (t.readRecord s f va).Inv :=
  hs.account.readPieces

theorem Sem.keeps.recorded {f : Fire} {x : FormX} {bad : List Byte → Option Nat} {eff : List Byte → Sem}
    (hf : ∀ (a : List Byte), (eff a).keeps) : (f.recorded s x bad eff).keeps := by
  unfold Fire.recorded
  split
  · trivial
  · split
    · trivial
    · split
      · exact rfAt_keeps
      · exact hf _

theorem State.Inv.fireRecord {t : Tmpl} {x : FormX} {bad : List Byte → Option Nat} {eff : Fire → List Byte → Sem} (hs : s.Inv)
    (hf : ∀ f bs, f.k.canonical → (eff f bs).keeps) : (s.fireRecord t x bad eff).Inv := by
  unfold State.fireRecord
  extract_lets r
  have hfired : r.Inv := hs.fireX fun _ hk => .recorded fun _ => hf _ _ hk
  split
  · exact hfired
  · split
    · exact hfired
    · exact hfired.readRecord.ite hfired

theorem execSqcfg_inv {t : Tmpl} {x : FormX} (hs : s.Inv) : (execSqcfg t x s).Inv := hs.fireRecord fun _ _ _ _ hk => hk.defer

theorem execSqgo_inv {t : Tmpl} {x : FormX} (hs : s.Inv) : (execSqgo t x s).Inv := by
  unfold execSqgo
  refine hs.fireX fun _ _ => ?_
  split
  · next e => exact tokenBits_keeps e
  · exact .ite .hold rfAt_keeps

theorem Ctx.canonical.makeDrum {me : Committed} {d : DefOp} (hk : k.canonical) : (k.makeDrum me d).canonical :=
  hk.modShare fun _ hh => hh

theorem Share.canonical.modDrum {n : BitVec 13} {f : Drum → Drum} (hh : h.canonical) : (h.modDrum n f).canonical := hh

theorem execDrumEmit_inv {c : CtxId} {l : Nat} {n : BitVec 13} (hs : s.Inv) : (execDrumEmit c l n s).Inv := by
  unfold execDrumEmit
  split
  · exact hs
  · next e =>
    have hk := hs.active e
    split
    · exact hs
    · dsimp only
      split
      · exact hs
      · exact hs.setCtx (hk.modShare fun _ hh => hh.modDrum)
      · split
        · exact hs
        · split
          · exact hs
          · exact hs.ite ((hs.setCtx (((hk.modShare fun _ hh => hh.modDrum).foldl fun _ _ hk =>
              hk.enter).perfAdd.perfAdd.charge.touchBlock)).usePower)
        · exact hs.setCtx ((hk.modShare fun _ hh => hh.modDrum).injectFault)

theorem execDrumEnd_inv {c : CtxId} {l : Nat} {n : BitVec 13} (hs : s.Inv) : (execDrumEnd c l n s).Inv :=
  hs.modActive fun _ hk => (hk.modShare fun _ hh => hh.modDrum.pulseKind).ite hk

theorem execStrcfg_inv {t : Tmpl} {x : FormX} (hs : s.Inv) : (execStrcfg t x s).Inv := hs.fireRecord fun _ _ _ => .hold

theorem execStrgo_inv {t : Tmpl} {x : FormX} (hs : s.Inv) : (execStrgo t x s).Inv := by
  unfold execStrgo
  refine hs.fireX fun _ _ => ?_
  split
  · exact rfAt_keeps
  · exact .ite rfAt_keeps .hold

theorem execStrstop_inv {t : Tmpl} {x : FormX} (hs : s.Inv) : (execStrstop t x s).Inv := hs.fireX fun _ _ => .hold

theorem Share.canonical.stopStream {n : Nat} (hh : h.canonical) : (h.stopStream n).canonical := hh

theorem Share.canonical.setAgen {n : Nat} {u : Agen} (hh : h.canonical) : (h.setAgen n u).canonical := hh

theorem Ctx.canonical.streamFault {l n : Nat} {u : Agen} {x : Thread} {w : WaveId} {e : Fail} {addr : BitVec 64}
    (hk : k.canonical) : (k.streamFault l n u x w e addr).canonical :=
  (hk.modShare fun _ hh => hh.setAgen).raise

theorem State.Inv.fed {c : CtxId} {l n : Nat} {u : Agen} {t : ThreadId} {w : WaveId} {o : MemOp} {used : List Arrived}
    {b : List Byte} (hs : s.Inv) : (s.fed c l n u t w o used b).Inv :=
  (hs.withMem hs.mem.acquire).modCtx fun _ hk => .enter (.modShare hk fun _ hh => hh)

theorem State.Inv.feed {l n pick : Nat} {u : Agen} {x : Thread} {w : WaveId} {o : MemOp} {used : List Arrived} (hs : s.Inv) :
    (s.feed k l n pick u x w o used).Inv := by
  unfold State.feed
  extract_lets clu s1
  have hread : s1.Inv := (hs.account.ite hs).scBefore
  have hseen : ∀ ps, (s1.seenBytes k x w o ps).1.Inv := fun _ => hread.seenBytes
  exact .ite (.ite (.fed (hseen _)) (.modCtx (hseen _) fun _ hk => hk.modShare fun _ hh => hh.setAgen)) (.fed (hseen _))

theorem execStreamElement_inv {c : CtxId} {l n pick : Nat} (hs : s.Inv) : (execStreamElement c l n pick s).Inv := by
  unfold execStreamElement
  split
  · exact hs
  · next e =>
    have hk := hs.active e
    split
    · exact hs
    · extract_lets
      split
      · exact hs
      · split
        · split
          · exact hs
          · split
            · exact hs.setCtx hk.streamFault
            · split
              · exact hs.setCtx hk.streamFault
              · extract_lets
                split
                · exact hs.setCtx (.modShare (.modWv hk) fun _ hh => hh)
                · split
                  · exact hs
                  · split
                    · exact hs.spend.modCtx fun _ hk => hk.streamFault
                    · exact hs.corrected.feed
        · exact hs
        · exact hs.setCtx ((hk.modShare fun _ hh => hh.setAgen).injectFault)

theorem execStreamEnd_inv {c : CtxId} {l n : Nat} (hs : s.Inv) : (execStreamEnd c l n s).Inv := by
  unfold execStreamEnd
  refine hs.modActive fun _ hk => ?_
  split
  · exact hk
  · exact (hk.modShare fun _ hh => hh.setAgen.pulseKind).ite hk

theorem State.Inv.endElement {l n : Nat} {t : State} (hs : s.Inv) (e : s.endElement k l n = some t) : t.Inv := by
  unfold State.endElement at e
  split at e
  · cases e
    exact hs
  · extract_lets w index o at e
    split at e
    · extract_lets o1 at e
      split at e
      · cases e
      · cases e
        have hseen : ∀ (t : State) ps, t.Inv → (t.seenBytes k ‹_› w o1 ps).1.Inv := fun _ _ ht => ht.seenBytes
        exact .fed (.foldlFst hs fun q _ hq => hseen q.1 _ hq)
    · cases e
      exact hs

theorem Perf.Inv.doUnits {me : Committed} {d : DefOp} (hs : s.Inv) (hk : k.canonical) : (s.doUnits k me d).Inv := by
  have hshare : ∀ f : Share → Share, (∀ h, h.canonical → (f h).canonical) → (s.setCtx (k.modShare me.lcl f)).Inv :=
    fun _ hf => hs.setCtx (hk.modShare hf)
  unfold State.doUnits
  extract_lets share n stopped
  have hstopped : ∀ f : Share → Share, (∀ h, h.canonical → (f h).canonical) → (stopped f).Inv := by
    intro f hf
    show Perf.Inv (match s.endElement k me.lcl n with | some t => _ | none => _)
    split
    · next t he => exact (hs.endElement he).modCtx fun _ hk => hk.modShare hf
    · exact hs
  split
  · exact .doRinit hs hk
  · exact .doRadv hs hk
  · exact hstopped _ fun _ hh => hh.stopStream.setAgen
  · exact hshare _ fun _ hh => hh.goStream
  · exact hstopped _ fun _ hh => hh.stopStream
  · exact hs.setCtx hk.makeDrum
  · exact hshare _ fun _ hh => hh.goDrum
  · exact hshare _ fun _ hh => hh
  · exact hshare _ fun _ hh => hh
  · exact hshare _ fun _ hh => hh.pulse
  · exact hs

/-! ### Commands of the matrix path (14) -/

theorem Ctx.canonical.modDom {l d : Nat} {f : Dom → Dom} (hk : k.canonical) : (k.modDom l d f).canonical :=
  hk.modShare fun _ hh => hh.setDom

theorem Ctx.canonical.endDom {l d : Nat} {c : DomCmd} {e : BitVec 8 × BitVec 24} (hk : k.canonical) :
    (k.endDom l d c e).canonical :=
  (((hk.paid.ite hk).modDom.fillRun.charge.modShare fun _ hh => hh.pulseEngine).ite
    ((hk.paid.ite hk).modDom.fillRun.charge)).modeFall.ite ((hk.paid.ite hk).modDom)

theorem Ctx.canonical.enqueue {f : Fire} {c : DomCmd} (hk : k.canonical) : (f.enqueue c k).canonical :=
  hk.modDom.owe.ite hk.modDom

theorem Sem.keeps.issue {f : Fire} {c : DomCmd} : (f.issue c).keeps := .ite trivial fun _ hk => .enqueue hk

theorem Fire.wordBad_keeps {f : Fire} {cw base : Nat} {x : Sem} (e : f.wordBad cw base = some x) : x.keeps := by
  unfold Fire.wordBad at e
  split at e
  · cases e
    trivial
  · dsimp only at e
    split at e
    · cases e
      trivial
    · cases e

theorem keeps_of_or {a b : Option Sem} {x : Sem} (ha : ∀ x, a = some x → x.keeps) (hb : ∀ x, b = some x → x.keeps)
    (e : a.or b = some x) : x.keeps := (Option.or_eq_some_iff.1 e).elim (ha x) fun h => hb x h.2

theorem execWload_inv {t : Tmpl} {x : FormX} (hs : s.Inv) : (execWload t x s).Inv := by
  unfold execWload
  refine hs.fireX fun _ _ => ?_
  dsimp only
  split
  · next e => exact keeps_of_or (fun _ e2 => tokenBits_keeps e2) (fun _ e2 => Fire.wordBad_keeps e2) e
  · exact .checks_cons rfAt_keeps (.checks_cons rfAt_keeps (.checks_cons rfAt_keeps (.checks_nil .issue)))

theorem Sem.keeps.multiply {f : Fire} {act : DomAct} {x : FormX} : (f.multiply act x).keeps := by
  unfold Fire.multiply
  dsimp only
  split
  · next e => exact keeps_of_or (fun _ e2 => tokenBits_keeps e2) (fun _ e2 => Fire.wordBad_keeps e2) e
  · exact .checks_cons rfAt_keeps (.checks_cons rfAt_keeps
      (.checks_cons rfAt_keeps (.checks_cons rfAt_keeps
      (.checks_cons rfAt_keeps (.checks_cons rfAt_keeps
      (.checks_cons rfAt_keeps (.checks_cons rfAt_keeps
      (.checks_cons (fun _ hk => .enqueue hk) (.checks_cons trivial (.checks_cons rfAt_keeps (.checks_nil .issue)))))))))))

theorem execMma_inv {t : Tmpl} {x : FormX} (hs : s.Inv) : (execMma t x s).Inv := hs.fireX fun _ _ => .multiply

theorem execMmasp_inv {t : Tmpl} {x : FormX} (hs : s.Inv) : (execMmasp t x s).Inv := hs.fireX fun _ _ => .multiply

theorem execAcccfg_inv {t : Tmpl} {x : FormX} (hs : s.Inv) : (execAcccfg t x s).Inv := by
  unfold execAcccfg
  refine hs.fireX fun _ _ => ?_
  dsimp only
  split
  · next e => exact tokenBits_keeps e
  · exact .checks_cons rfAt_keeps (.checks_cons rfAt_keeps (.checks_cons rfAt_keeps (.checks_nil .hold)))

theorem execAccrd_inv {t : Tmpl} {x : FormX} (hs : s.Inv) : (execAccrd t x s).Inv := by
  unfold execAccrd
  refine hs.fireX fun _ _ => ?_
  dsimp only
  split
  · next e => exact keeps_of_or (fun _ e2 => tokenBits_keeps e2) (fun _ e2 => Fire.wordBad_keeps e2) e
  · exact .checks_cons rfAt_keeps (.checks_cons rfAt_keeps (.checks_nil .issue))

theorem Sem.keeps.spillTile {f : Fire} {act : DomAct} {x : FormX} : (f.spillTile act x).keeps := by
  unfold Fire.spillTile
  split
  · next e => exact keeps_of_or (fun _ e2 => tokenBits_keeps e2) (fun _ e2 => Fire.wordBad_keeps e2) e
  · exact .issue

theorem execAccspl_inv {t : Tmpl} {x : FormX} (hs : s.Inv) : (execAccspl t x s).Inv := hs.fireX fun _ _ => .spillTile

theorem execAccrst_inv {t : Tmpl} {x : FormX} (hs : s.Inv) : (execAccrst t x s).Inv := hs.fireX fun _ _ => .spillTile

theorem execScacc_inv {t : Tmpl} {x : FormX} (hs : s.Inv) : (execScacc t x s).Inv := by
  unfold execScacc
  refine hs.fireX fun _ _ => ?_
  dsimp only
  split
  · next e => exact keeps_of_or (fun _ e2 => tokenBits_keeps e2) (fun _ e2 => Fire.wordBad_keeps e2) e
  · exact .checks_cons rfAt_keeps (.checks_cons rfAt_keeps (.checks_nil .issue))

theorem execScaccv_inv {t : Tmpl} {x : FormX} (hs : s.Inv) : (execScaccv t x s).Inv := by
  unfold execScaccv
  refine hs.fireX fun _ _ => ?_
  dsimp only
  split
  · next e => exact keeps_of_or (fun _ e2 => tokenBits_keeps e2) (fun _ e2 => Fire.wordBad_keeps e2) e
  · exact .checks_cons rfAt_keeps (.checks_cons rfAt_keeps (.checks_cons rfAt_keeps (.checks_nil .issue)))

/-! ### Steps of the matrix path (14) -/

theorem State.Inv.enginePeek {c : CtxId} {clu : Nat} {ps : List Piece} (hs : s.Inv) : (s.enginePeek c clu ps).Inv :=
  hs.logAccess.engineSpend.withMem hs.logAccess.engineSpend.mem.peek

theorem State.Inv.engineWrite {c : CtxId} {ps : List Piece} {bytes : List Byte}
    (hs : s.Inv) : (s.engineWrite c ps bytes).Inv := by
  induction ps generalizing s bytes with
  | nil => exact hs
  | cons p ps ih =>
    refine ih ?_
    split
    · exact hs.modCtx fun _ hk => hk.engineRun
    · exact hs.storePiece

theorem Ctx.canonical.setHead {l d : Nat} {c : DomCmd} (hk : k.canonical) : (k.setHead l d c).canonical := hk.modDom

theorem Ctx.canonical.finish {l d : Nat} {c : DomCmd} {count : Nat} {e : BitVec 8 × BitVec 24} (hk : k.canonical) :
    (k.finish l d c count e).canonical :=
  hk.setHead.endDom

theorem Ctx.canonical.chargeRows {clu n : Nat} (hk : k.canonical) : (k.chargeRows clu n).canonical := by
  induction n generalizing k with
  | zero => exact hk
  | succ n ih => exact ih hk.charge

theorem execWloadExecute_inv {c : CtxId} {l d : Nat} {ecc : Option (BitVec 2)} (hs : s.Inv) :
    (execWloadExecute c l d ecc s).Inv := by
  unfold execWloadExecute
  refine hs.modActive fun _ hk => ?_
  split
  · exact hk
  · dsimp only
    split
    · exact hk.finish
    · split
      · exact hk
      · split
        · exact hk.modDom.finish
        · exact hk.modDom.finish
        · exact (hk.modDom.modShare fun _ hh => hh.ringHead).charge.chargeRows.finish

theorem execMatrixAcceptance_inv {c : CtxId} {l d : Nat} (hs : s.Inv) : (execMatrixAcceptance c l d s).Inv := by
  unfold execMatrixAcceptance
  refine hs.modActive fun _ hk => ?_
  split
  · exact hk
  · dsimp only
    split
    · exact hk
    · split
      · exact hk.finish
      · split
        · exact hk
        · split
          · exact hk.finish
          · exact hk.finish
          · exact hk.finish.ite (hk.setHead.modDom.ite (hk.setHead.modDom.owe.ite hk.setHead.modDom.paid))

theorem Ctx.canonical.rowSpent {l : Nat} {q : DomCmd} (hk : k.canonical) : (k.rowSpent l q).canonical :=
  hk.perfAdd.charge.charge

theorem Ctx.canonical.rowDone {l d : Nat} {q : DomCmd} {outs : List (List Int × Nat)} (hk : k.canonical) :
    (k.rowDone l d q outs).canonical := by
  unfold Ctx.rowDone
  extract_lets dd tgt ns k1 q1 k2 k3 due
  have hadded : k1.canonical := hk.modDom.modShare fun _ hh => hh.ringHead
  have hspent : k2.canonical := hadded.setHead.rowSpent
  have hgiven : k3.canonical := hspent.modDom
  exact hspent.ite (hgiven.endDom.ite hgiven.setHead)

theorem execMatrixRow_inv {c : CtxId} {l d : Nat} {glitch : Option Glitch} {ecc : Option (BitVec 2)} (hs : s.Inv) :
    (execMatrixRow c l d glitch ecc s).Inv := by
  unfold execMatrixRow
  split
  · exact hs
  · next e =>
    have hk := hs.active e
    split
    · exact hs
    · dsimp only
      split
      · exact hs
      · split
        · exact hs.setCtx hk.endDom
        · split
          · exact hs
          · split
            · exact hs.setCtx hk.endDom
            · split
              · exact hs
              · split
                · exact hs.setCtx hk.endDom
                · exact hs.setCtx hk.endDom
                · exact (hs.setCtx hk.endDom).ite (((hs.setCtx hk.rowDone).ite
                    ((hs.setCtx hk.rowSpent.endDom).addScore)).usePower)

theorem Ctx.canonical.appendTile {l n : Nat} {es : List (BitVec 64)} (hk : k.canonical) : (k.appendTile l n es).canonical :=
  (hk.foldl fun _ _ hk => hk.fillRun.charge).modShare fun _ hh => hh.ringTail

theorem Ctx.canonical.released {l d tile : Nat} {failed : Bool} (hk : k.canonical) :
    (k.released l d tile failed).canonical := by
  unfold Ctx.released
  split
  · exact hk
  · exact hk.modDom.endDom.ite hk.modDom

theorem Ctx.canonical.releaseToken {q : DomCmd} {tgt : BitVec 8} {tile : Nat} (hk : k.canonical) :
    (k.releaseToken q tgt tile).canonical := by
  unfold Ctx.releaseToken
  split
  · exact hk.enter.ite hk
  · exact hk

theorem execAccumulatorRelease_inv {c : CtxId} {l d tile : Nat} (hs : s.Inv) : (execAccumulatorRelease c l d tile s).Inv := by
  unfold execAccumulatorRelease
  refine hs.modActive fun _ hk => ?_
  dsimp only
  split
  · exact hk
  · split
    · exact hk.modDom.released
    · split
      · exact hk
      · refine .released (.charge (.modDom ?_))
        split
        · exact hk.appendTile
        · split
          · exact hk.releaseToken.ite hk
          · exact hk

theorem Perf.Inv.doAcccfg {_me : Committed} {o : DefOp} (hs : s.Inv) (hk : k.canonical) : (s.doAcccfg k _me o).Inv :=
  .ite hs (hs.setCtx hk.modDom.charge)

theorem State.Inv.spillRun {l d : Nat} {q : DomCmd} {ecc : Option (BitVec 2)} (hs : s.Inv) : (s.spillRun k l d q ecc).Inv := by
  unfold State.spillRun
  extract_lets va save t back kinds
  have hback : ∀ s f n e, s.Inv → (∀ k, k.canonical → (f k).canonical) → (back s f n e).Inv :=
    fun _ _ _ _ hs hf => hs.modCtx fun _ hk => (hf _ hk).flipBack.finish
  split
  · exact hs
  · exact hback _ _ _ _ hs fun _ hk => hk
  · next ps _ =>
    split
    · exact hback _ _ _ _ hs fun _ hk => hk
    · extract_lets s1 b s2
      have hcounted : s1.Inv := hs.logAccess.engineSpend.corrected.modCtx fun _ hk => hk.charge
      have hread : s2.Inv := hcounted.withMem hcounted.mem.peek
      exact hs.ite (.ite (hback _ _ _ _ hcounted.engineWrite fun _ hk => hk)
        (.ite (hback _ _ _ _ hread fun _ hk => hk) (hback _ _ _ _ hread fun _ hk => hk.modDom)))

theorem State.Inv.scaleRun {l d : Nat} {q : DomCmd} {ecc : Option (BitVec 2)} (hs : s.Inv) (hk : k.canonical) :
    (s.scaleRun k l d q ecc).Inv := by
  unfold State.scaleRun
  dsimp only
  split
  · exact hs.setCtx ((hk.flipBack.ite hk).finish)
  · split
    · exact hs.setCtx hk.modDom.charge.finish
    · split
      · exact hs
      · exact hs.setCtx hk.flipBack.finish
      · split
        · exact hs.setCtx hk.flipBack.finish
        · exact hs.ite (hs.logAccess.engineSpend.modCtx fun _ hk => hk.modDom.charge.flipBack.finish)

theorem execAccumulatorCommandExecute_inv {c : CtxId} {l d : Nat} {ecc : Option (BitVec 2)} (hs : s.Inv) :
    (execAccumulatorCommandExecute c l d ecc s).Inv := by
  unfold execAccumulatorCommandExecute
  split
  · exact hs
  · next e =>
    have hk := hs.active e
    split
    · exact hs
    · split
      · exact hs.setCtx hk.finish
      · split
        · exact hs
        · split
          · exact (hs.setCtx hk.appendTile.charge.finish).ite hs
          · exact hs.spillRun
          · exact hs.spillRun
          · exact hs.scaleRun hk

/-! ### Engine commands (14) -/

theorem Sem.keeps.issueEngine {f : Fire} {q : EngCmd} : (s.issueEngine f q).keeps :=
  .ite trivial (.ite trivial fun _ hk => .modShare hk fun _ hh => hh)

theorem zeroCheck_keeps {a : Value} {hi lo : Nat} : (zeroCheck a hi lo).2.keeps := rfAt_keeps

theorem Sem.keeps.engineFire {f : Fire} {act : EngAct} {x : FormX} {own : EngCmd → List (Bool × Sem)}
    (hown : ∀ q r, r.keeps → (checks (own q) r).keeps) : (s.engineFire f act x own).keeps := by
  unfold State.engineFire
  extract_lets q
  split
  · next x hbits => exact tokenBits_keeps hbits
  · split
    · exact rfAt_keeps
    · split
      · next x hword => exact Fire.wordBad_keeps hword
      · exact hown _ _ .issueEngine

theorem execCpy_inv {t : Tmpl} {x : FormX} (hs : s.Inv) : (execCpy t x s).Inv :=
  hs.fireX fun _ _ => .engineFire fun _ _ h => .checks_cons rfAt_keeps
    (.checks_cons zeroCheck_keeps (.checks_cons zeroCheck_keeps (.checks_cons rfAt_keeps h.checks_nil)))

theorem execCpy2d_inv {t : Tmpl} {x : FormX} (hs : s.Inv) : (execCpy2d t x s).Inv :=
  hs.fireX fun _ _ => .engineFire fun _ _ h => .checks_cons rfAt_keeps (.checks_cons rfAt_keeps h.checks_nil)

theorem execGath_inv {t : Tmpl} {x : FormX} (hs : s.Inv) : (execGath t x s).Inv :=
  hs.fireX fun _ _ => .engineFire fun _ _ h => .checks_nil (.ite rfAt_keeps (.checks_cons rfAt_keeps h.checks_nil))

theorem execScat_inv {t : Tmpl} {x : FormX} (hs : s.Inv) : (execScat t x s).Inv :=
  hs.fireX fun _ _ => .engineFire fun _ _ h => .checks_nil (.ite rfAt_keeps (.checks_cons rfAt_keeps h.checks_nil))

theorem execColl_inv {t : Tmpl} {x : FormX} (hs : s.Inv) : (execColl t x s).Inv := by
  unfold execColl
  refine State.Inv.fireX hs fun _ _ => ?_
  dsimp only
  split
  · next e => exact tokenBits_keeps e
  · split
    · exact rfAt_keeps
    · split
      · next e2 => exact Fire.wordBad_keeps e2
      · exact .ite rfAt_keeps (.ite .issueEngine (.ite trivial .issueEngine))

theorem execCollectiveStart_inv {c : CtxId} {id : BitVec 16} (hs : s.Inv) : (execCollectiveStart c id s).Inv := by
  unfold execCollectiveStart
  refine hs.modActive fun _ hk => ?_
  dsimp only
  split
  · exact hk
  · exact hk.ite (hk.mapShares fun _ hh => hh)

theorem UnitOut.Inv.putUnit {l dst : Nat} {ecc : Option (BitVec 2)} {sp : List Piece} {found : List Byte} {by_ : Nat}
    (hs : s.Inv) : (s.putUnit k l dst ecc sp found by_).Inv := by
  unfold State.putUnit
  split
  · trivial
  · trivial
  · split
    · trivial
    · exact .ite trivial (State.Inv.engineWrite (.engineSpend (.logAccess (.enginePeek hs))))

theorem UnitOut.Inv.moveUnit {l src dst n : Nat} {ecc : Option (BitVec 2)} {overlap : Nat → Bool} {by_ : Nat} {ix : List Piece}
    (hs : s.Inv) : (s.moveUnit k l src dst n ecc overlap by_ ix).Inv := by
  unfold State.moveUnit
  split
  · trivial
  · trivial
  · exact .putUnit hs

theorem UnitOut.Inv.fromRingUnit {l : Nat} {q : EngCmd} {ecc : Option (BitVec 2)} (hs : s.Inv) :
    (s.fromRingUnit k l q ecc).Inv := by
  unfold State.fromRingUnit
  dsimp only
  split
  · trivial
  · split
    · next e => exact State.Inv.modCtx (.of_moved (.putUnit hs) e) fun _ hk => hk.charge.modShare fun _ hh => hh.ringHead
    · exact .putUnit hs

theorem UnitOut.Inv.toRingUnit {l : Nat} {q : EngCmd} {ecc : Option (BitVec 2)} (hs : s.Inv) :
    (s.toRingUnit k l q ecc).Inv := by
  unfold State.toRingUnit
  dsimp only
  split
  · trivial
  · split
    · trivial
    · trivial
    · split
      · trivial
      · exact .ite trivial (State.Inv.modCtx (.enginePeek hs) fun _ hk => .modShare (.fillRun (.charge hk)) fun _ hh =>
          .ringTail hh)

theorem UnitOut.Inv.collUnit {l : Nat} {q : EngCmd} {ecc : Option (BitVec 2)} (hs : s.Inv) : (s.collUnit k l q ecc).Inv := by
  unfold State.collUnit
  dsimp only
  split
  · trivial
  · trivial
  · exact .putUnit hs

theorem UnitOut.Inv.indexed {l : Nat} {q : EngCmd} {b n : Nat} {o : UnitOut} (e : s.indexed k l q b n = .inl o) : o.Inv := by
  unfold State.indexed at e
  split at e
  · cases e
    trivial
  · cases e
    trivial
  · cases e

theorem UnitOut.Inv.unit {l : Nat} {q : EngCmd} {ecc : Option (BitVec 2)} (hs : s.Inv) : (s.unit k l q ecc).Inv := by
  unfold State.unit
  split
  · exact .ite (.fromRingUnit hs) (.ite (.toRingUnit hs) (.moveUnit hs))
  · exact .moveUnit hs
  · split
    · next o he => exact .indexed he
    · exact .moveUnit hs
  · split
    · next o he => exact .indexed he
    · exact .moveUnit hs
  · exact .collUnit hs

theorem Ctx.canonical.modCmd {l i : Nat} {f : EngCmd → EngCmd} (hk : k.canonical) : (k.modCmd l i f).canonical :=
  hk.modShare fun _ hh => hh

theorem execEngineUnit_inv {c : CtxId} {l i pick : Nat} {ecc : Option (BitVec 2)} (hs : s.Inv) :
    (execEngineUnit c l i pick ecc s).Inv := by
  unfold execEngineUnit
  split
  · exact hs
  · next e =>
    have hk := hs.active e
    split
    · exact hs
    · split
      · exact hs
      · split
        · exact hs.ite (hs.setCtx hk.modCmd)
        · split
          · exact hs
          · split
            · exact hs.setCtx hk.modCmd
            · split
              · exact hs.ite ((hs.setCtx hk.modCmd).releaseAt)
              · split
                · exact hs
                · exact hs.setCtx hk.modCmd
                · next e2 => exact State.Inv.modCtx (.of_moved (.unit hs.corrected) e2) fun _ hk => hk.modCmd

theorem Ctx.canonical.endEngine {l : Nat} {q : EngCmd} {e : BitVec 8 × BitVec 24} (hk : k.canonical) :
    (k.endEngine l q e).canonical := by
  unfold Ctx.endEngine
  extract_lets k1 k2
  have hfreed : k1.canonical := .flipBack (hk.modShare fun _ hh => hh)
  have hended : k2.canonical := hfreed.fillRun.charge
  exact .ite (hended.modShare fun _ hh => hh.pulseEngine) hended

theorem execCommandCompletion_inv {c : CtxId} {l i : Nat} (hs : s.Inv) : (execCommandCompletion c l i s).Inv := by
  unfold execCommandCompletion
  refine hs.modCtx fun _ hk => ?_
  dsimp only
  split
  · exact hk
  · split
    · exact hk.endEngine.ite hk
    · split
      · exact hk.endDom
      · exact hk

theorem execEcan_inv {t : Tmpl} {x : FormX} (hs : s.Inv) : (execEcan t x s).Inv := hs.fireX fun _ _ => .ite .hold trivial

theorem Ctx.canonical.cancelAt {l off : Nat} (hk : k.canonical) : (k.cancelAt l off).canonical := hk.mapShares fun _ hh => hh

theorem Perf.Inv.doEcan {o : DefOp} (hs : s.Inv) (hk : k.canonical) : (s.doEcan k o).Inv := hs.setCtx hk.cancelAt

end

end Sys2Proof.Machine
end

section
/-! PROOFS. Canonical memories: commit, faults, context switches, migration and power (04, 06, 08). -/
namespace Sys2Proof.Machine

section
variable {s : State} {k : Ctx} {m : Mems} {h : Share}

/-! ### Steps of the store buffer (04) -/

theorem Ctx.canonical.entered {th : ThreadId} {w : WaveId} {o : MemOp} (hk : k.canonical) : (k.entered th w o).canonical :=
  hk.modWv.reserve.ite (hk.modWv.reserve.put.paid.ite hk.modWv.reserve.put)

theorem State.Inv.hint {x : Thread} {o : MemOp} (hs : s.Inv) : (s.hint k x o).Inv :=
  (hs.spend.withMem (hs.spend.mem.foldl fun _ _ hm => hm.prefetch)).ite hs

theorem State.Inv.countRuns {clu : Nat} {rs : List (Nat × Nat × BitVec 8)} {t : State} (hs2 : t.Inv) :
    (s.countRuns k clu rs t).Inv :=
  hs2.foldl fun _ _ hs => hs.logAccess.engineSpend

theorem Ctx.canonical.roomFor {x : Thread} {w : WaveId} {j : Ctx} (hk : k.canonical) (e : s.roomFor k x w = some j) :
    j.canonical := by
  unfold State.roomFor at e
  extract_lets at e
  split at e
  · cases e
    exact hk
  · split at e
    · cases e
      exact hk
    · cases e

theorem execMemoryOrderEntry_inv {c : CtxId} {th : ThreadId} {w : WaveId} {own : BitVec 8} (hs : s.Inv) :
    (execMemoryOrderEntry c th w own s).Inv := by
  unfold execMemoryOrderEntry
  split
  · exact hs
  · next k hctx =>
    have hk := hs.active hctx
    split
    · split
      · exact hs
      · refine State.Inv.ite hs (.ite (hs.setCtx hk.raiseAt) (.ite hs ?_))
        split
        · exact hs.setCtx hk.perfAdd
        · next k1 hroom =>
          have hk1 := hk.roomFor hroom
          split
          · exact (hs.setCtx hk1).hint.modCtx fun _ hk => hk.entered
          · exact .ite (hs.setCtx hk1.entered) (.ite hs (hs.setCtx hk1.raiseAt))
    · exact hs

theorem Ctx.canonical.modOp {th : ThreadId} {w : WaveId} {own : BitVec 8} {f : MemOp → MemOp} (hk : k.canonical) :
    (k.modOp th w own f).canonical :=
  hk.modWv

theorem Ctx.canonical.markBound {th : ThreadId} {w : WaveId} {own : BitVec 8} (hk : k.canonical) :
    (k.markBound th w own).canonical :=
  hk.modOp

theorem State.Inv.loadValue {x : Thread} {w : WaveId} {o : MemOp} (hs : s.Inv) : (s.loadValue k x w o).1.Inv := by
  have hseen : ((s.account k.num x.lcl (k.phys x.lcl) kRead o.ps).seenBytes k x w o o.ps).1.Inv := hs.account.seenBytes
  exact hseen

theorem State.Inv.bound {c : CtxId} {clu : Nat} {th : ThreadId} {w : WaveId} {o : MemOp} {v : Value} (hs : s.Inv) :
    (s.bound c clu th w o v).Inv :=
  (hs.modCtx fun _ hk => hk.bind).withMem ((hs.modCtx fun _ hk => hk.bind).mem.acquire)

theorem Ctx.canonical.parkReader {th : ThreadId} {w : WaveId} {o : MemOp} {l g off : Nat} (hk : k.canonical) :
    (k.parkReader th w o l g off).canonical :=
  hk.raiseAt.ite ((hk.modShare fun _ hh => hh.setGran).modOp)

theorem Ctx.canonical.takeHold {th : ThreadId} {w : WaveId} {l g : Nat} (hk : k.canonical) : (k.takeHold th w l g).canonical :=
  hk.modShare fun _ hh => hh.setGran

theorem State.Inv.loadByte {x : Thread} {w : WaveId} {o : MemOp} {pick : Nat} (hs : s.Inv) : (s.loadByte k x w o pick).Inv := by
  unfold State.loadByte
  extract_lets clu i s1
  have hread : s1.Inv := hs.account.ite hs
  have hseen : ∀ ps, (s1.seenBytes k x w o ps).1.Inv := fun _ => hread.seenBytes
  exact .ite (.bound (hseen _)) (.modCtx (hseen _) fun _ hk => hk.modOp)

theorem State.Inv.presenceLoad {x : Thread} {w : WaveId} {o : MemOp} (hs : s.Inv) : (s.presenceLoad k x w o).Inv := by
  have hload : (s.loadValue k x w o).1.Inv := hs.loadValue
  unfold State.presenceLoad
  generalize s.loadValue k x w o = q at hload
  split
  · exact hs
  · exact .ite (.bound (.ite (hload.modCtx fun _ hk => hk.takeHold) hload)) (hs.account.modCtx fun _ hk => hk.parkReader)

theorem State.Inv.join {x : Thread} {w : WaveId} {o : MemOp} (hs : s.Inv) : (s.join k x w o).Inv := by
  have hload : (s.loadValue k x w o).1.Inv := hs.loadValue
  unfold State.join
  generalize s.loadValue k x w o = q at hload
  exact .ite (hload.modCtx fun _ hk => hk.modOp) hload.bound

theorem State.Inv.doLoad {s0 : State} {x : Thread} {w : WaveId} {o : MemOp} {pick : Nat} (hs : s0.Inv) (hk : k.canonical) :
    (s0.doLoad k x w o pick).Inv := by
  unfold State.doLoad
  dsimp only
  split
  · exact hs.scBefore.loadByte.ite hs.scBefore.loadValue.bound
  · exact hs.scBefore.presenceLoad
  · exact hs.scBefore.presenceLoad
  · exact hs.scBefore.account.bound
  · exact hs.scBefore.join
  · exact hs.scBefore.bound
  · exact hs.scBefore.countRuns.bound
  · exact hs.scBefore.maintainAt.modCtx fun _ hk => hk.markBound
  · exact (hs.scBefore.setCtx hk.markBound).withMem hs.scBefore.mem.acquire
  · exact hs.scBefore

theorem Mems.canonical.stray {n : Nat} (hm : m.canonical) : (m.stray n).canonical := by
  unfold Mems.stray
  split
  · exact hm
  · split
    · exact hm.evict
    · exact hm

theorem execLoadBind_inv {c : CtxId} {th : ThreadId} {w : WaveId} {own : BitVec 8} {pick : Nat} {ecc : Option (BitVec 2)}
    (hs : s.Inv) : (execLoadBind c th w own pick ecc s).Inv := by
  unfold execLoadBind
  extract_lets torn t
  have ht : t.Inv := hs.ite (hs.withMem hs.mem.stray)
  split
  · exact ht
  · next k hctx =>
    have hk := ht.active hctx
    split
    · refine State.Inv.ite ht ?_
      split
      · exact ht.spend.modCtx fun _ hk => hk.raiseAt
      · exact ht.corrected.doLoad hk
    · exact ht

theorem Ctx.canonical.settleWave {t : ThreadId} {w : WaveId} (hk : k.canonical) : (k.settleWave t w).canonical := hk

theorem Ctx.canonical.arriveAll {es : List Committed} (hk : k.canonical) : (k.arriveAll es).canonical :=
  hk.foldl fun _ _ hk => hk.ite hk.arrive

theorem Ctx.canonical.commit {x : Thread} {v : Wave} (hk : k.canonical) : (k.commit x v).canonical := by
  have hread : (({ k with fpflags := k.fpflags ||| v.flags ||| k.sumFlags x.num v.num } : Ctx).readStatuses
      (v.handedOver.map (committedOf x v))).1.canonical := .readStatuses hk
  unfold Ctx.commit
  generalize ({ k with fpflags := k.fpflags ||| v.flags ||| k.sumFlags x.num v.num } : Ctx).readStatuses _ = q at hread
  obtain ⟨k0, es⟩ := q
  dsimp -zeta only
  extract_lets k1 k2 k3
  have hleft : k2.canonical := .endHolds (.modTh (.settleWave hread))
  have howed : k3.canonical := .oweResults (.arriveAll hleft)
  exact .ite howed.endThread howed

theorem State.Inv.afterCommit {c : CtxId} {x : Thread} {w : WaveId} (hs : s.Inv) : (s.afterCommit c x w).Inv := by
  have hhalted : (s.modCtx c fun k => { k with halted := true }).Inv := hs.modCtx fun _ hk => hk
  exact .ite hhalted hs

theorem State.Inv.tryCommit {c : CtxId} {th : ThreadId} (hs : s.Inv) : (s.tryCommit c th).Inv := by
  unfold State.tryCommit
  split
  · exact hs
  · next e =>
    have hk := hs.active e
    split
    · split
      · exact hs.setCtx hk.raiseAt
      · split
        · exact hs
        · split
          · exact hs.setCtx hk.park
          · exact (hs.setCtx hk.commit).afterCommit
    · exact hs

theorem execWaveCommit_inv {c : CtxId} {th : ThreadId} (hs : s.Inv) : (execWaveCommit c th s).Inv := hs.tryCommit

theorem Perf.Inv.amend {r : Perf} {f : State → State} (hr : r.Inv) (hf : ∀ s, s.Inv → (f s).Inv) : (r.amend f).Inv := by
  cases r with
  | done t v1 v2 => exact hf t hr
  | wait t => exact hr
  | part t o => exact hr

theorem Perf.Inv.performAct {me : Committed} {o : MemOp} {pick : Nat} {ecc : Option (BitVec 2)} (hs : s.Inv)
    (hk : k.canonical) : (s.performAct k me o pick ecc).Inv := by
  unfold State.performAct
  split
  · exact hs.releaseAt
  · exact .doLaunch hs
  · exact .doLbar hs
  · exact .doPqput hs hk
  · exact .doPqget hs hk
  · exact .doRtget hs
  · exact .doRtdone hs hk
  · exact .doQput hs hk
  · exact .doQget hs
  · exact .doQbind hs
  · exact .doQunbind hs
  · exact .doIqput hs hk
  · exact .doIqget hs hk
  · exact .doIqlook hs
  · exact .doIqcons hs
  · exact .doIqadv hs
  · exact .doIqquiet hs
  · exact .doCapget hs
  · exact .doDput hs
  · exact .doLogset hs
  · exact .doKeyset hs
  · exact .doPattr hs
  · exact .doXlinv hs
  · exact .performPlain hs
  · exact .performPlain hs
  · exact .performPlain hs
  · exact .performPlain hs
  · exact .performPlain hs
  · exact .performPlain hs
  · exact .performPlain hs
  · exact .performPlain hs
  · exact .performPlain hs
  · exact .performPlain hs
  · exact hs
  · exact hs
  · exact hs
  · exact hs
  · exact hs
  · exact hs
  · exact hs
  · exact hs
  · exact hs
  · exact hs

theorem Perf.Inv.performMem {me : Committed} {o : MemOp} {pick : Nat} {ecc : Option (BitVec 2)} (hs : s.Inv)
    (hk : k.canonical) : (s.performMem k me o pick ecc).Inv :=
  .ite hs (.amend (.performAct hs hk) fun _ hs => hs.countRuns.corrected)

theorem Perf.Inv.performDfr {me : Committed} {d : DefOp} {pick : Nat} (hs : s.Inv) (hk : k.canonical) :
    (s.performDfr k me d pick).Inv := by
  unfold State.performDfr
  split
  · exact .doAcccfg hs hk
  · exact .doEcan hs hk
  · exact .doUnits hs hk
  · exact .doUnits hs hk
  · exact .doUnits hs hk
  · exact .doUnits hs hk
  · exact .doUnits hs hk
  · exact .doUnits hs hk
  · exact .doUnits hs hk
  · exact .doUnits hs hk
  · exact .doUnits hs hk
  · exact .doUnits hs hk
  · exact .doSystem hs hk
  · exact .doSystem hs hk
  · exact .doSystem hs hk
  · exact .doSystem hs hk
  · exact .doSystem hs hk
  · exact .doSystem hs hk
  · exact .doSystem hs hk
  · exact .doSystem hs hk
  · exact .doSystem hs hk
  · exact .doSystem hs hk
  · exact .doSystem hs hk
  · exact .doSystem hs hk

theorem Ctx.canonical.leaves {me : Committed} (hk : k.canonical) : (k.leaves me).canonical := hk

theorem Ctx.canonical.unparkItem {me : Committed} (hk : k.canonical) : (k.unparkItem me).canonical := by
  unfold Ctx.unparkItem
  split
  · exact hk.unpark
  · exact hk

/-- What is left of an operation whose performance has come to `r`. -/
theorem State.Inv.settle {r : Perf} {c : CtxId} {me : Committed} (hr : r.Inv) : (r.settle c me).Inv := by
  cases r with
  | done t v1 v2 => exact .modCtx hr fun _ hk => hk.unparkItem.leaves.emitLate
  | wait t => exact .ite hr (.modCtx hr fun _ hk => hk)
  | part t o => exact .modCtx hr fun _ hk => hk

theorem State.Inv.queueError {me : Committed} {o : MemOp} {detail : BitVec 2} (hs : s.Inv) (hk : k.canonical) :
    (s.queueError k me o detail).Inv := by
  unfold State.queueError
  split
  · exact hs.ite (hs.setCtx hk.raiseAt)
  · exact hs

theorem State.Inv.performOne {c : CtxId} {me : Committed} {pick : Nat} {ecc : Option (BitVec 2)} (hs : s.Inv) :
    (s.performOne c me pick ecc).Inv := by
  unfold State.performOne
  split
  · exact hs
  · next e =>
    have hk := hs.ctx e
    split
    · split
      · exact hs.queueError hk
      · exact .settle (.performMem hs hk)
    · exact .settle (.performDfr hs hk)

theorem execStorePerform_inv {c : CtxId} {th : ThreadId} {n pick : Nat} {ecc : Option (BitVec 2)} (hs : s.Inv) :
    (execStorePerform c th n pick ecc s).Inv := by
  unfold execStorePerform
  split
  · exact hs
  · split
    · exact hs
    · exact hs.ite hs.performOne

theorem execCommittedOperationWaitEnd_inv {c : CtxId} {th : ThreadId} {pick : Nat} (hs : s.Inv) :
    (execCommittedOperationWaitEnd c th pick s).Inv := by
  unfold execCommittedOperationWaitEnd
  split
  · exact hs
  · split
    · exact hs
    · exact hs.performOne

theorem execParkedQueueServe_inv {c : CtxId} {th : ThreadId} {pick : Nat} (hs : s.Inv) :
    (execParkedQueueServe c th pick s).Inv := by
  unfold execParkedQueueServe
  split
  · exact hs
  · split
    · exact hs.ite hs.performOne
    · exact hs.tryCommit.ite hs

/-! ### Faults, stalls and page walks (08) -/

theorem State.Inv.ringSpend {base log2n size : Nat} (hs : s.Inv) : (s.ringSpend k base log2n size).Inv :=
  hs.devSpend.devSpend.devSpend

theorem Filed.Inv.file {r : FaultRec} (hs : s.Inv) : (s.file k r).Inv := by
  unfold State.file
  split
  · trivial
  · split
    · trivial
    · trivial
    · next e => exact (hs.ringPut e).ringSpend

theorem Ctx.canonical.condemn {ln : BitVec 32} {r : FaultRec} (hk : k.canonical) : (k.condemn ln r).canonical := hk.modLn

theorem Ctx.canonical.numbered {t : ThreadId} {r : FaultRec} {seq : BitVec 32} (hk : k.canonical) :
    (k.numbered t r seq).canonical :=
  hk.modTh

theorem State.Inv.writeHeld {c : CtxId} {fuel : Nat} (hs : s.Inv) : (s.writeHeld c fuel).Inv := by
  induction fuel generalizing s with
  | zero => exact hs
  | succ fuel ih =>
    unfold State.writeHeld
    split
    · exact hs
    · next k hctx =>
      have hk := hs.ctx hctx
      split
      · exact hs
      · split
        · exact hs
        · exact ih (hs.setCtx (.condemn hk))
        · next hfile => exact ih (.modCtx (.of_written (.file hs) hfile) fun _ hk => .numbered hk)

theorem State.Inv.deliver {x : Thread} {r : FaultRec} (hs : s.Inv) (hk : k.canonical) : (s.deliver k x r).Inv := by
  unfold State.deliver
  extract_lets k1 faultq k2 s1
  have hk1 : k1.canonical := hk
  have hk2 : k2.canonical := .ite hk1 hk1.condemn
  have hs1 : s1.Inv := hs.setCtx hk2
  split
  · exact .ite (hs1.setCtx hk2) (hs1.setCtx hk2.condemn)
  · split
    · exact hs1.setCtx hk2.condemn
    · exact hs1.setCtx hk2
    · next s2 _ hfile => exact (State.Inv.of_written (.file hs1) hfile).modCtx fun _ hk => hk.numbered

theorem execFaultDelivery_inv {c : CtxId} {th : ThreadId} (hs : s.Inv) : (execFaultDelivery c th s).Inv := by
  unfold execFaultDelivery
  split
  · exact hs
  · dsimp only
    split
    · exact hs
    · split
      · exact hs.writeHeld
      · next e =>
        split
        · exact (hs.writeHeld.deliver (hs.writeHeld.ctx e)).ite hs.writeHeld
        · exact hs.writeHeld

theorem State.Inv.capacity {c : CtxId} {cause : BitVec 8} {unit : Nat} {moved : List Nat} (hs : s.Inv) :
    (s.capacity c cause unit moved).Inv := by
  unfold State.capacity
  split
  · exact hs
  · next k hctx =>
    extract_lets k1 s1 s2
    have hk1 : k1.canonical := (hs.ctx hctx : k.canonical)
    have hs1 : s1.Inv := hs.setCtx hk1
    refine .post (.houseEvent (?_ : s2.Inv))
    unfold s2
    split
    · exact hs1
    · split
      · next t hput => exact (hs1.ringPut hput).ringSpend
      · exact hs1

theorem Ctx.canonical.stall {pe slot : Nat} (hk : k.canonical) : (k.stall pe slot).canonical := by
  unfold Ctx.stall
  split
  · exact hk
  · exact hk.raise

theorem sweepCtx_inv {last found : List CtxId} {pe slot : Nat} (hk : k.canonical) : (sweepCtx last found pe slot k).canonical :=
  hk.ite (.ite hk.stall hk)

theorem execStallSweep_inv {pe slot : Nat} (hs : s.Inv) : (execStallSweep pe slot s).Inv :=
  hs.mapCtxs fun _ hk => sweepCtx_inv hk

theorem execPageWalk_inv {c : CtxId} {w : Walk} (hs : s.Inv) : (execPageWalk c w s).Inv := by
  unfold execPageWalk
  split
  · exact hs
  · dsimp only
    split
    · exact hs
    · split
      · exact hs
      · exact (hs.withMem hs.mem.cacheAt.cacheAt).modCtx fun _ hk => hk.foldl fun _ _ hk2 => hk2.charge

/-! ### Context switches and migration (08) -/

theorem Ctx.canonical.squash {t : ThreadId} (hk : k.canonical) : (k.squash t).canonical := by
  unfold Ctx.squash
  split
  · exact hk
  · split
    · exact hk
    · exact hk.dropWaves.modTh

theorem Ctx.canonical.squashAll {ts : List ThreadId} (hk : k.canonical) : (k.squashAll ts).canonical :=
  hk.foldl fun _ _ hk => hk.squash

theorem Ctx.canonical.refeedAll {ts : List ThreadId} (hk : k.canonical) : (k.refeedAll ts).canonical := by
  unfold Ctx.refeedAll
  refine hk.foldl fun _ _ hk => ?_
  split
  · exact hk.refeed.ite hk
  · exact hk

theorem Ctx.canonical.reissue {ts : List ThreadId} (hk : k.canonical) : (k.reissue ts).canonical := hk

theorem Ctx.canonical.gateAll (hk : k.canonical) : k.gateAll.canonical := hk.mapShares fun _ hh => hh

theorem Share.canonical.cancelRunning (hh : h.canonical) : h.cancelRunning.canonical := hh

theorem Ctx.canonical.force (hk : k.canonical) : k.force.canonical :=
  hk.gateAll.squashAll.mapShares fun _ hh => hh.cancelRunning

theorem execPreemptionGate_inv {c : CtxId} (hs : s.Inv) : (execPreemptionGate c s).Inv := by
  unfold execPreemptionGate
  split
  · exact hs
  · next e =>
    have hk := hs.ctx e
    exact hs.ite (hs.setCtx (hk.force.ite hk.gateAll))

theorem execQuiescenceReport_inv {c : CtxId} (hs : s.Inv) : (execQuiescenceReport c s).Inv := by
  unfold execQuiescenceReport
  split
  · exact hs
  · next e =>
    have hk := hs.active e
    exact hs.ite (hs.setCtx hk.squashAll)

theorem execPreemptionForce_inv {c : CtxId} (hs : s.Inv) : (execPreemptionForce c s).Inv :=
  hs.modCtx fun _ hk => hk.ite (hk.force.ite (hk.squashAll.ite hk))

theorem Ctx.canonical.leaveFabric (hk : k.canonical) : k.leaveFabric.canonical := hk.mapShares fun _ hh => hh

theorem Ctx.canonical.setMap {ps : List Nat} (hk : k.canonical) : (k.setMap ps).canonical := hk

theorem State.Inv.repin {c : CtxId} {l : List Pin} (hs : s.Inv) : (s.repin c l).Inv := hs.foldl fun _ _ hs => hs.pinOne

theorem State.Inv.reloadAll {c : CtxId} {mine : Nat → Bool} (hs : s.Inv) : (s.reloadAll c mine).Inv :=
  .modCtx hs fun _ hk => .foldl (.mapShares hk fun _ hh => .ite hh hh) fun _ _ hk => .chargeN hk

theorem execRestore_inv {c : CtxId} {phys : List Nat} (hs : s.Inv) : (execRestore c phys s).Inv := by
  unfold execRestore
  split
  · exact hs
  · next k hctx =>
    extract_lets ps before mapped k1 s1 s2 s3 moved s4
    have hk1 : k1.canonical := (hs.ctx hctx : k.canonical)
    have hloaded : s1.Inv := .reloadAll (.repin (hs.setCtx hk1))
    have hmem : s2.Inv := hloaded.withMem (hloaded.mem.foldl fun _ _ hm => hm.scDiscard)
    have hfed : s3.Inv := hmem.modCtx fun _ hk => hk.reissue.refeedAll.feedHeld.charge
    exact State.Inv.ite hs (.post (.houseEvent (hfed.ite hfed.capacity)))

theorem Ctx.canonical.gateShares {plan : List (Nat × Nat)} {cause : BitVec 8} (hk : k.canonical) :
    (k.gateShares plan cause).canonical :=
  .foldl hk fun _ _ hk => .modShare hk fun _ hh => hh

theorem Ctx.canonical.dropRequests {from_ l : Nat} {cause : BitVec 8} (hk : k.canonical) :
    (k.dropRequests from_ l cause).canonical :=
  hk.mapShares fun _ hh => .ite hh hh

theorem execMigrationGate_inv {c : CtxId} {l : Nat} {cause : BitVec 8} (hs : s.Inv) : (execMigrationGate c l cause s).Inv := by
  unfold execMigrationGate
  refine hs.modCtx fun _ hk => ?_
  split
  · exact hk
  · split
    · exact hk
    · split
      · exact hk.gateShares
      · split
        · exact hk.dropRequests
        · exact hk.gateShares

theorem Ctx.canonical.putOut {p : Placed} (hk : k.canonical) : (k.putOut p).canonical := hk.evictFit.evict.ite hk.evictFit

theorem State.Inv.freeCtxDomains {c : CtxId} {clu : Nat} (hs : s.Inv) : (s.freeCtxDomains c clu).Inv := by
  unfold State.freeCtxDomains
  split
  · exact hs
  · exact hs.ite hs

theorem Mems.canonical.cleanForMove {clu : Nat} (hm : m.canonical) : (m.cleanForMove clu).canonical := hm.scClean

theorem Ctx.canonical.forwardAll {ts : List ThreadId} (hk : k.canonical) : (k.forwardAll ts).canonical := hk

theorem Ctx.canonical.fitPins {ls : List Nat} (hk : k.canonical) : (k.fitPins ls).canonical := hk

theorem Ctx.canonical.settleShares {plan : List (Nat × Nat)} (hk : k.canonical) : (k.settleShares plan).canonical :=
  .foldl hk fun _ _ hk => .charge (.modShare hk fun _ hh => hh)

theorem Ctx.canonical.ungate {plan : List (Nat × Nat)} (hk : k.canonical) : (k.ungate plan).canonical :=
  .feedHeld (.refeedAll (.reissue (hk.foldl fun _ _ hk => hk.modShare fun _ hh => hh)))

theorem Ctx.canonical.retarget {l : Nat} {plan : List (Nat × Nat)} {cause : BitVec 8} (hk : k.canonical) :
    (s.retarget k l plan cause).canonical := by
  unfold State.retarget
  split
  · exact hk.ungate
  · exact hk.gateShares

theorem State.Inv.resettle {c : CtxId} {p : Placed} {must : Bool} {t : State} (hs : s.Inv) (e : s.resettle c p must = some t) :
    t.Inv := by
  unfold State.resettle at e
  split at e
  · cases e
  · split at e
    · cases e
      exact hs.own.modCtx fun _ hk => hk
    · split at e
      · cases e
      · cases e
        exact hs.modCtx fun _ hk => .putOut hk

theorem State.Inv.resettleAll {c : CtxId} {l : List (Placed × Bool)} {t : State} (hs : s.Inv) (e : s.resettleAll c l = some t) :
    t.Inv := by
  induction l generalizing s with
  | nil =>
    cases e
    exact hs
  | cons p l ih =>
    unfold State.resettleAll at e
    split at e
    · cases e
    · next u hu => exact ih (hs.resettle hu) e

theorem State.Inv.lifted {plan : List (Nat × Nat)} (hs : s.Inv) (hk : k.canonical) : (s.lifted k plan).Inv :=
  (hs.withMem (hs.mem.foldl fun _ _ hm => hm.cleanForMove)).setCtx (.forwardAll hk)

theorem State.Inv.landed {plan : List (Nat × Nat)} (hs : s.Inv) : (s.landed k plan).Inv := by
  unfold State.landed
  extract_lets s3
  have hloaded : s3.Inv := .reloadAll (hs.foldl fun _ _ hs => hs.freeCtxDomains)
  exact hloaded.withMem (hloaded.mem.foldl fun _ _ hm => hm.scDiscard)

theorem State.Inv.moved {plan : List (Nat × Nat)} {cause : BitVec 8} (hs : s.Inv) : (s.moved k plan cause).Inv := by
  unfold State.moved
  extract_lets s5 map
  have hsettled : s5.Inv := hs.landed.modCtx fun _ hk => hk.fitPins.settleShares.reissue.refeedAll.feedHeld
  exact hsettled.ite hsettled.capacity

/-- A move of shares, stage by stage: lifted off their clusters, resettled, landed and gone on. -/
theorem State.Inv.moveShares {plan : List (Nat × Nat)} {cause : BitVec 8} {t : State} (hs : s.Inv) (hk : k.canonical)
    (e : s.moveShares k plan cause = some t) : t.Inv := by
  obtain ⟨order, s2, hs2, rfl⟩ := moveShares_some e
  exact ((hs.lifted hk).resettleAll hs2).moved

theorem execMigrationMove_inv {c : CtxId} {l : Nat} (hs : s.Inv) : (execMigrationMove c l s).Inv := by
  unfold execMigrationMove
  split
  · exact hs
  · next k hctx =>
    have hk := hs.ctx hctx
    split
    · exact hs
    · exact State.Inv.ite hs (.ite (hs.setCtx hk.retarget)
        (.ite hs (.ite (hs.setCtx hk) (.ite hs (hs.getD fun _ => hs.moveShares hk)))))

theorem execSwitchOutResident_inv {c : CtxId} (hs : s.Inv) : (execSwitchOutResident c s).Inv := hs.modCtx fun _ hk => .ite hk hk

theorem execSwitchInResident_inv {c : CtxId} (hs : s.Inv) : (execSwitchInResident c s).Inv :=
  hs.modCtx fun _ hk => .ite (.feedHeld hk) hk

theorem State.Inv.giveFree {die fuel : Nat} (hs : s.Inv) : (s.giveFree die fuel).Inv := by
  induction fuel generalizing s with
  | zero => exact hs
  | succ fuel ih =>
    unfold State.giveFree
    split
    · exact hs
    · split
      · exact hs
      · exact ih hs

theorem Ctx.canonical.loseDomain {d : Nat} (hk : k.canonical) : (k.loseDomain d).canonical :=
  hk.mapShares fun _ hh => .ite hh hh

theorem State.Inv.takeDomain {d : Nat} {c : Option CtxId} (hs : s.Inv) (hk : k.canonical) : (s.takeDomain k d c).Inv :=
  (hs.setCtx (hk.foldl fun _ _ hk => hk.evictFit)).ite (hs.setCtx ((hk.foldl fun _ _ hk => hk.evictFit).loseDomain))

theorem leastBy_mem {α : Type} {key : α → Nat} {l : List α} {a : α} (e : leastBy key l = some a) : a ∈ l := by
  induction l generalizing a with
  | nil => cases e
  | cons x l ih =>
    unfold leastBy at e
    split at e
    · cases e
      exact List.mem_cons_self
    · next y hy =>
      split at e
      · cases e
        exact List.mem_cons_of_mem _ (ih hy)
      · cases e
        exact List.mem_cons_self

/-- The context from which a domain may be reclaimed is one of the state's own. -/
theorem State.Inv.reclaimable {die d : Nat} {w : Want} (hs : s.Inv) (e : s.reclaimable die w = some (k, d)) : k.canonical := by
  unfold State.reclaimable at e
  split at e
  · cases e
  · obtain ⟨j, hj, hmem⟩ := List.mem_flatMap.1 (leastBy_mem e)
    obtain ⟨_, -, hpair⟩ := List.mem_map.1 hmem
    cases hpair
    exact hs.of_mem_ctxs (List.mem_filter.1 hj).1

theorem State.Inv.reclaim {die fuel : Nat} (hs : s.Inv) : (s.reclaim die fuel).Inv := by
  induction fuel generalizing s with
  | zero => exact hs
  | succ fuel ih =>
    unfold State.reclaim
    split
    · exact hs
    · split
      · exact hs
      · next w _ _ k d hwant =>
        have htaken := hs.takeDomain (d := d) (c := some w.ctx) (hs.reclaimable hwant)
        exact .ite (ih htaken) htaken

theorem State.Inv.houseLeaves {ds : List Nat} (hs : s.Inv) : (s.houseLeaves ds).Inv := by
  unfold State.houseLeaves
  refine hs.foldl fun _ _ hs => ?_
  split
  · next e =>
    have hk := hs.ctx e
    exact hs.takeDomain hk
  · exact hs

theorem State.Inv.setLease {die entry : Nat} {e : Lease} (hs : s.Inv) : (s.setLease die entry e).Inv := hs

theorem State.Inv.endTest {die entry : Nat} (hs : s.Inv) : (s.endTest die entry).Inv := .ite (.setLease (.houseLeaves hs)) hs

theorem execGrantInterval_inv {die : Nat} (hs : s.Inv) : (execGrantInterval die s).Inv := by
  unfold execGrantInterval
  extract_lets s0 s1
  have hended : s0.Inv := hs.foldl fun _ _ hs => hs.endTest
  have hgiven : s1.Inv := hended.giveFree.reclaim
  clear_value s1
  exact hgiven

theorem State.Inv.bequeath {c : CtxId} (hs : s.Inv) : (s.bequeath c).Inv := hs

theorem execContextSaveReport_inv {c : CtxId} (hs : s.Inv) : (execContextSaveReport c s).Inv := by
  unfold execContextSaveReport
  split
  · exact hs
  · exact hs.ite (hs.ite (((hs.flushLogs.withMem (hs.flushLogs.mem.foldl fun _ _ hm => hm.scClean)).bequeath.modCtx fun _ hk =>
      hk.charge.leaveFabric).houseEvent.post))

/-! ### Power and heat (06) -/

theorem Ctx.canonical.fold {site : Nat} (hk : k.canonical) : (k.fold site).canonical := hk

theorem Ctx.canonical.foldAt {clu : Nat} (hk : k.canonical) : (Ctx.foldAt clu k).canonical := hk

theorem State.Inv.foldSites {clu : Nat} (hs : s.Inv) : (s.foldSites clu).Inv := hs.mapCtxs fun _ hk => hk.foldAt

theorem State.Inv.fireBallast {clu d n : Nat} (hs : s.Inv) : (s.fireBallast clu d n).Inv := .modCtx hs fun _ hk => hk.chargeN

theorem State.Inv.endBallast {clu d : Nat} (hs : s.Inv) : (s.endBallast clu d).Inv := hs.ite hs.fireBallast

theorem State.Inv.turnDomain {clu d : Nat} {above : Bool} {g : BitVec 16} (hs : s.Inv) : (s.turnDomain clu d above g).Inv :=
  .modCtx hs fun _ hk => hk

theorem execPowerInterval_inv {clu spine cycles : Nat} {turn : PowerTurn} (hs : s.Inv) :
    (execPowerInterval clu spine cycles turn s).Inv := by
  unfold execPowerInterval
  extract_lets ds s0 above s1 s2 s3
  have hended : s0.Inv := (hs.foldl fun _ _ hs => hs.endBallast).foldSites
  have hturned : s1.Inv := hended.foldl fun _ _ hs => hs.turnDomain
  exact State.Inv.ite hs (State.Inv.ite hturned hturned)

theorem execBallastFiring_inv {clu dom : Nat} (hs : s.Inv) : (execBallastFiring clu dom s).Inv := hs.ite hs.fireBallast

theorem State.Inv.sense {clu : Nat} {temp : BitVec 12} (hs : s.Inv) : (s.sense clu temp).Inv := hs

theorem Ctx.canonical.askAll {clu : Nat} {cause : BitVec 8} (hk : k.canonical) : (Ctx.askAll clu cause k).canonical :=
  hk.ite (hk.foldl fun _ _ hk => hk.modShare fun _ hh => .ite hh hh)

theorem execThermalHot_inv {clu : Nat} {temp : BitVec 12} (hs : s.Inv) : (execThermalHot clu temp s).Inv :=
  hs.ite (hs.sense.mapCtxs fun _ hk => hk.askAll)

theorem execThrottleTick_inv {clu : Nat} {temp : BitVec 12} (hs : s.Inv) : (execThrottleTick clu temp s).Inv :=
  hs.ite (State.Inv.ite (hs.sense.foldl fun _ _ hs => hs.setSpine)
    (State.Inv.ite (hs.sense.foldl fun _ _ hs => hs.setSpine) hs.sense))

theorem Ctx.canonical.tripCtx {clu : Nat} (hk : k.canonical) : (s.tripCtx clu k).canonical := by
  unfold State.tripCtx
  split
  · exact hk
  · split
    · exact hk.force
    · split
      · exact hk.ite hk.force
      · exact hk.gateShares.squashAll

theorem execThermalTrip_inv {clu : Nat} {temp : BitVec 12} (hs : s.Inv) : (execThermalTrip clu temp s).Inv :=
  hs.ite (State.Inv.mapCtxs hs fun _ hk => hk.tripCtx)

theorem execHotClear_inv {clu : Nat} {temp : BitVec 12} (hs : s.Inv) : (execHotClear clu temp s).Inv := hs.ite hs

theorem execCoolantFault_inv {flow inlet : Nat} (hs : s.Inv) : (execCoolantFault flow inlet s).Inv := hs.ite hs

theorem execCoolantConditionClear_inv {flow inlet : Nat} (hs : s.Inv) : (execCoolantConditionClear flow inlet s).Inv :=
  hs.ite hs

end

end Sys2Proof.Machine
end

section
/-! PROOFS. Canonical memories: the house context, resets, and the host (06, 08, 16). -/
namespace Sys2Proof.Machine

section
variable {s : State} {k : Ctx} {m : Mems} {h : Share}

/-! ### Leases, retirement, resets, teardown (06, 08) -/

theorem State.Inv.chargeHouse {u : RetUnit} {event : Nat} (hs : s.Inv) : (s.chargeHouse u event).Inv :=
  hs.modCtx fun _ hk => hk.charge

theorem State.Inv.setReach (hs : s.Inv) : s.setReach.Inv := hs.withMem hs.mem

theorem State.Inv.dropLane {lane : Nat} (hs : s.Inv) : (s.dropLane lane).Inv := .setReach hs

theorem State.Inv.beginOut {u : RetUnit} {cause : BitVec 8} (hs : s.Inv) : (s.beginOut u cause).Inv := by
  unfold State.beginOut
  split
  · exact hs.mapCtxs fun _ hk => hk.askAll
  · exact hs.setReach
  · exact hs.withMem hs.mem
  · exact hs

theorem State.Inv.copied {u : RetUnit} (hs : s.Inv) : (s.copied u).Inv := .ite (.withMem hs (State.Inv.mem hs)) hs

theorem State.Inv.record {u : RetUnit} {reason : BitVec 8} (hs : s.Inv) : (s.record u reason).Inv := by
  unfold State.record
  split
  · exact hs
  · dsimp only
    split
    · exact .setReach hs
    · exact .dropLane (.setScore hs)
    · exact hs

theorem State.Inv.retire {u : RetUnit} {reason : BitVec 8} (hs : s.Inv) : (s.retire u reason).Inv :=
  hs.record.record.ite hs.record

theorem State.Inv.beginRetire {u : RetUnit} {reason : BitVec 8} (hs : s.Inv) : (s.beginRetire u reason).Inv :=
  hs.ite (hs.retire.ite (.beginOut hs))

theorem Mems.canonical.scrubCluster {clu : Nat} (hm : m.canonical) : (m.scrubCluster clu).canonical :=
  hm.scClean.foldl fun _ _ hm => hm.evict

theorem State.Inv.scrubUnit {w : Withdrawal} {scrubbed : Bool} (hs : s.Inv) : (s.scrubUnit w scrubbed).Inv := by
  unfold State.scrubUnit
  extract_lets s1
  have hscrubbed : s1.Inv := (hs.withMem hs.mem.scrubCluster).ite hs
  exact .ite hscrubbed hscrubbed

theorem State.Inv.closeLease {e : Lease} (hs : s.Inv) : (s.closeLease e).Inv := hs

theorem State.Inv.freeLeases {u : RetUnit} (hs : s.Inv) : (s.freeLeases u).Inv := hs.foldl fun _ _ hs => hs.closeLease

theorem execRetirement_inv {u : RetUnit} {how : RetireHow} (hs : s.Inv) : (execRetirement u how s).Inv := by
  unfold execRetirement
  split
  · exact hs.beginOut.ite (State.Inv.setReach (.freeLeases (.retire (.scrubUnit (.copied hs)))))
  · exact hs.beginRetire.ite hs

theorem execControlLogicError_inv {u : RetUnit} (hs : s.Inv) : (execControlLogicError u s).Inv := hs.beginRetire.ite hs

theorem execLeaseStart_inv {die : Nat} {u : RetUnit} (hs : s.Inv) : (execLeaseStart die u s).Inv := by
  unfold execLeaseStart
  extract_lets r s1
  have hcounted : s1.Inv := hs.houseEvent
  refine State.Inv.ite hs ?_
  split
  · exact hs
  · exact .beginOut (.chargeHouse hcounted)

theorem execLeaseTesting_inv {die entry : Nat} {failed : Bool} (hs : s.Inv) : (execLeaseTesting die entry failed s).Inv :=
  State.Inv.ite (State.Inv.ite (.copied hs) (State.Inv.beginOut hs))
    (State.Inv.ite (State.Inv.ite (State.Inv.endTest hs) (State.Inv.ite hs (State.Inv.modCtx (.setLease hs) fun _ hk => hk)))
    hs)

theorem execLeaseVerdict_inv {die entry : Nat} (hs : s.Inv) : (execLeaseVerdict die entry s).Inv := by
  unfold execLeaseVerdict
  extract_lets e u s1 s2
  have hscored : s1.Inv := .flashScore (.houseEvent hs.addScore)
  have hclosed : s2.Inv := hscored.setLease
  exact State.Inv.ite hs.houseLeaves.setLease
    (.ite (.ite hscored.scrubUnit.retire.closeLease.setLease (hclosed.beginOut.ite hclosed)) hs)

theorem Ctx.canonical.unfold {p : Nat} (hk : k.canonical) : (s.unfold p k).canonical :=
  .ite hk (.foldl hk fun _ _ hk => .ite (.modShare hk fun _ hh => hh) hk)

theorem execLeaseReturn_inv {die entry : Nat} (hs : s.Inv) : (execLeaseReturn die entry s).Inv :=
  hs.ite ((hs.closeLease.setLease.copied.chargeHouse.setReach.mapCtxs fun _ hk => hk.unfold).ite
    hs.closeLease.setLease.copied.chargeHouse.setReach)

theorem execEscalatingError_inv {f : Failing} {more : List Failing} (hs : s.Inv) : (execEscalatingError f more s).Inv := hs

theorem State.Inv.loseLines {ls : List Nat} (hs : s.Inv) : (s.loseLines ls).Inv := hs.withMem hs.mem

theorem execL2WritebackTimeout_inv {lost : List Nat} (hs : s.Inv) : (execL2WritebackTimeout lost s).Inv := hs.loseLines

theorem State.Inv.hostReturns {line : Nat} {dirty : Option (List Byte)} (hs : s.Inv) : (s.hostReturns line dirty).Inv := by
  unfold State.hostReturns
  refine hs.withMem (.setDir ?_)
  split
  · exact hs.mem.homeWrite
  · exact hs.mem

theorem State.Inv.hostGivesBack (hs : s.Inv) : s.hostGivesBack.Inv := hs.foldl fun _ _ hs => hs.hostReturns

theorem Ctx.canonical.clearFabric : k.clearFabric.canonical := fun _ h => absurd h List.not_mem_nil

theorem Ctx.canonical.throughReset (hk : k.canonical) : k.throughReset.canonical := .ite hk .clearFabric

theorem State.Inv.beginWarm {s0 : State} (hs : s0.Inv) : s0.beginWarm.Inv :=
  ((hs.hostGivesBack.foldl fun _ _ hs => hs.ite hs.closeLease).mapCtxs fun _ hk => hk.throughReset).setReach

theorem State.Inv.beginCold (hs : s.Inv) : s.beginCold.Inv := by
  obtain ⟨-, hhost, hpeer⟩ := hs.mem
  exact ⟨⟨rfl, hhost, hpeer⟩, fun _ h => absurd h List.not_mem_nil⟩

theorem State.Inv.builtInTest {failed : List RetUnit} (hs : s.Inv) : (s.builtInTest failed).Inv :=
  hs.foldl fun _ _ hs => hs.scrubUnit.retire

theorem State.Inv.disable (hs : s.Inv) : s.disable.Inv := (hs.foldl fun _ _ hs => hs.setScore).foldl fun _ _ hs => .ite hs hs

theorem State.Inv.readRecords (hs : s.Inv) : s.readRecords.Inv := .disable (.ite hs hs)

theorem State.Inv.reportAll {c : CtxId} (hs : s.Inv) : (s.reportAll c).Inv := by
  unfold State.reportAll
  split
  · exact hs
  · exact ((hs.foldl fun _ _ hs => hs.unbindAll.report).foldl fun _ _ hs => hs.report).modCtx fun _ hk => hk

theorem State.Inv.endStart (hs : s.Inv) : s.endStart.Inv := .ite hs (.foldl (.houseEvent hs) fun _ _ hs => hs.reportAll)

theorem State.Inv.endStep {failed : List RetUnit} (hs : s.Inv) : (s.endStep failed).Inv := by
  unfold State.endStep
  extract_lets n s1
  have htested : s1.Inv := hs.builtInTest.ite (hs.readRecords.ite hs)
  exact .ite htested.endStart htested

theorem State.Inv.runStart {failed : List RetUnit} {last fuel : Nat} (hs : s.Inv) : (s.runStart failed last fuel).Inv := by
  induction fuel generalizing s with
  | zero => exact hs
  | succ fuel ih => exact hs.ite (ih hs.endStep)

theorem State.Inv.goOn {run : StartRun} {failed : List RetUnit} (hs : s.Inv) : (s.goOn run failed).Inv :=
  .ite hs.runStart hs.runStart

theorem execWarmReset_inv (hs : s.Inv) : (execWarmReset s).Inv := hs.beginCold.ite hs.beginWarm

theorem execColdStart_inv {run : StartRun} {failed : List RetUnit} (hs : s.Inv) : (execColdStart run failed s).Inv :=
  (hs.beginCold.ite hs).goOn

theorem Mems.canonical.scrub {lines : List Nat} (hm : m.canonical) : (m.scrub lines).canonical :=
  hm.withHbm (memory_wf_foldl hm.hbm fun _ _ h => memory_wf_wipe _ _ h)

theorem Ctx.canonical.fresh {c : CtxId} {d : CtxDescr} : (Ctx.fresh c d).canonical := fun _ h => absurd h List.not_mem_nil

theorem Ctx.canonical.tornDown : k.tornDown.canonical := fun _ h => absurd h List.not_mem_nil

theorem State.Inv.finishTeardown {w : Tearing} (hs : s.Inv) : (s.finishTeardown k w).Inv := by
  unfold State.finishTeardown
  extract_lets c
  have hflushed : (s.flushLogs c).1.Inv := hs.flushLogs
  generalize s.flushLogs c = q at hflushed
  obtain ⟨s1, ok⟩ := q
  refine .ite hflushed ?_
  extract_lets classes keys s2 s3 r a s4
  have hscrubbed : s2.Inv := State.Inv.withMem hflushed (State.Inv.mem hflushed).dropTlb.scrub
  have hcounted : s3.Inv := ((hscrubbed.modCtx fun _ _ => .tornDown).modCtx fun _ hk => hk.charge).houseEvent
  have hreceipt : s4.Inv := by
    unfold s4
    split
    · exact hcounted.devPut
    · exact hcounted
  exact .post hreceipt

theorem State.Inv.beginTeardown (hs : s.Inv) : (s.beginTeardown k).Inv :=
  .modCtx (hs.houseEvent.foldl fun _ _ hs => hs.report) fun _ hk => .mapShares (.gateAll hk) fun _ hh => hh

theorem execTeardown_inv {c : CtxId} (hs : s.Inv) : (execTeardown c s).Inv := by
  unfold execTeardown
  split
  · exact hs
  · exact (hs.finishTeardown.ite hs).ite (hs.ite hs.beginTeardown)

theorem execPatrolScrub_inv {corrected : List Nat} (hs : s.Inv) : (execPatrolScrub corrected s).Inv :=
  (hs.foldl fun _ _ hs => hs.addScore).modCtx fun _ hk => hk.foldl fun _ _ hk => hk.charge

/-! ### The host and other modules (16) -/

theorem execQueueDispatch_inv {c : CtxId} {desc : Addr} (hs : s.Inv) : (execQueueDispatch c desc s).Inv := by
  unfold execQueueDispatch
  split
  · exact hs
  · split
    · extract_lets q runs v x s1 s2
      have hput : s1.Inv := hs.queueSet
      have hstarted : s2.Inv := hput.countRuns.modCtx fun _ hk => .enter hk
      exact State.Inv.ite hs (hstarted.withMem hstarted.mem.acquire)
    · exact hs

theorem execHostDoorbell_inv {c : CtxId} {prod : BitVec 32} (hs : s.Inv) : (execHostDoorbell c prod s).Inv :=
  State.Inv.barWrite (.modCtx hs fun _ hk => hk)

theorem State.Inv.consume {r : LaunchRec} (hs : s.Inv) : (s.consume k r).Inv := by
  unfold State.consume
  dsimp only
  split
  · exact hs
  · split
    · exact hs.report.modCtx fun _ hk => hk
    · exact hs.ite (.modCtx hs fun _ hk => hk)

theorem execHostCommand_inv {c : CtxId} (hs : s.Inv) : (execHostCommand c s).Inv := by
  unfold execHostCommand
  split
  · exact hs
  · next k _ =>
    extract_lets n va r
    exact State.Inv.ite hs (.ite (.modCtx (.post hs) fun _ hk => hk) (.devSpend (.consume hs)))

theorem execHostEventWrite_inv {c : CtxId} {cons : BitVec 32} (hs : s.Inv) : (execHostEventWrite c cons s).Inv := by
  have hread : (s.modCtx c fun k => { k with evcons := cons }).Inv := hs.modCtx fun _ hk => hk
  unfold execHostEventWrite
  split
  · exact hs
  · next k hctx =>
    extract_lets s1
    have hs1 : s1.Inv := hs.setCtx (hread.ctx hctx)
    split
    · exact hs1
    · exact State.Inv.ite (hs1.writeEvent.modCtx fun _ hk => hk) hs1

theorem Mems.canonical.recallBias {page : Nat} (hm : m.canonical) : (m.recallBias page).canonical := hm.recallPage

theorem State.Inv.backInvalidate {page : Nat} {hostData : List (Nat × List Byte)} (hs : s.Inv) :
    (s.backInvalidate page hostData).Inv :=
  hs.foldl fun _ _ hs => hs.hostReturns

theorem State.Inv.setBias {page : Nat} {toHost : Bool} (hs : s.Inv) : (s.setBias page toHost).Inv := hs.withMem hs.mem

theorem State.Inv.setBiasReq {byHouse : Bool} {r : BiasReq} (hs : s.Inv) : (s.setBiasReq byHouse r).Inv := .ite hs hs

theorem State.Inv.endBias {byHouse : Bool} {result : BitVec 2} (hs : s.Inv) : (s.endBias byHouse result).Inv := hs.setBiasReq

theorem State.Inv.biasStep {byHouse toHost : Bool} {page : BitVec 40} {change : State → State} (hs : s.Inv)
    (hf : ∀ a : State, a.Inv → (change a).Inv) : (s.biasStep byHouse toHost page change).Inv :=
  .ite hs (.ite (.endBias hs) (.ite (.endBias (.setBias (hf _ hs)))
    (.ite (.endBias hs) (.setBiasReq (.withMem hs (State.Inv.mem hs))))))

theorem State.Inv.recallFor {page : Nat} (hs : s.Inv) : (s.recallFor page).Inv :=
  (hs.withMem hs.mem.recallBias).modCtx fun _ hk => hk.chargeN

theorem execBiasToHost_inv {byHouse : Bool} {page : BitVec 40} {_hostData : List (Nat × List Byte)} (hs : s.Inv) :
    (execBiasToHost byHouse page _hostData s).Inv :=
  hs.biasStep fun _ hs => hs.recallFor

theorem execBiasToDevice_inv {byHouse : Bool} {page : BitVec 40} {hostData : List (Nat × List Byte)} (hs : s.Inv) :
    (execBiasToDevice byHouse page hostData s).Inv :=
  hs.biasStep fun _ hs => hs.backInvalidate

theorem State.Inv.hostAccess {pa : Nat} {cacheable : Bool} {write : Option (List Byte)} {n : Nat} (hs : s.Inv) :
    (s.hostAccess pa cacheable write n).Inv := by
  unfold State.hostAccess
  dsimp only
  split
  · refine .withMem ?_ (.setDir (State.Inv.mem ?_))
    · split
      · exact hs
      · exact hs.withMem hs.mem.homeWrite
    · split
      · exact hs
      · exact hs.withMem hs.mem.homeWrite
  · split
    · exact hs
    · exact hs.withMem hs.mem.homeWrite

theorem State.Inv.chargeCxl {pa : Nat} (hs : s.Inv) : (s.chargeCxl pa).Inv := hs.modCtx fun _ hk => hk.charge.charge

theorem execHostMemoryRequest_inv {pa : Nat} {cacheable : Bool} {write : Option (List Byte)} {n : Nat} (hs : s.Inv) :
    (execHostMemoryRequest pa cacheable write n s).Inv :=
  State.Inv.ite hs (hs.ite (State.Inv.ite ((hs.ite hs.recallFor.setBias).chargeCxl)
    ((hs.ite hs.recallFor.setBias).chargeCxl.hostAccess)))

theorem execHostSnoopResponse_inv {line : Nat} {dirty : Option (List Byte)} {keepShared : Bool} (hs : s.Inv) :
    (execHostSnoopResponse line dirty keepShared s).Inv :=
  hs.ite ((hs.hostReturns.withMem hs.hostReturns.mem.setDir).ite hs.hostReturns)

theorem execHostCacheSnoop_inv {line : Nat} {invalidate : Bool} (hs : s.Inv) : (execHostCacheSnoop line invalidate s).Inv :=
  .withMem hs (Mems.canonical.ite (State.Inv.mem hs) (State.Inv.mem hs))

theorem execSpdmRequest_inv {req index : BitVec 8} {nonce : BitVec 256} (hs : s.Inv) :
    (execSpdmRequest req index nonce s).Inv := by
  unfold execSpdmRequest
  split
  · exact hs
  · split
    · exact State.Inv.ite hs hs
    · exact State.Inv.ite hs hs
    · exact State.Inv.ite hs hs
    · exact hs

theorem State.Inv.answer {code : BitVec 8} {detail : BitVec 24} {b : List Byte} (hs : s.Inv) : (s.answer code detail b).Inv :=
  hs

theorem State.Inv.peerStore {ps : List Piece} {b : List Byte} (hs : s.Inv) : (s.peerStore k ps b).Inv :=
  (hs.engineSpend.withMem (hs.mem.foldl fun _ _ hm => hm.hcRecall)).storePieces.logAccess

theorem State.Inv.peerRmw {va n : Nat} {new : Nat → Option Nat} (hs : s.Inv) : (s.peerRmw k va n new).Inv := by
  unfold State.peerRmw
  split
  · exact hs.answer
  · extract_lets old kinds m s0 s1
    have hspent : s0.Inv := hs.engineSpend
    have hdone : s1.Inv := by
      unfold s1
      split
      · exact hspent.withMem hs.mem.peek
      · exact (hspent.withMem (hs.mem.foldl fun _ _ hm => hm.hcRecall)).storePieces
    exact .ite hs.answer (.ite hs (.ite hs.answer hdone.logAccess.answer))

theorem State.Inv.chargePeer {peer : BitVec 8} {c : CtxId} (hs : s.Inv) : (s.chargePeer peer c).Inv :=
  hs.modCtx fun _ hk => hk.charge

theorem execPeerRequest_inv {peer : BitVec 8} {c : CtxId} {req : PeerReq}
    (hs : s.Inv) : (execPeerRequest peer c req s).Inv := by
  unfold execPeerRequest
  extract_lets t failed
  have ht : t.Inv := hs.chargePeer
  split
  · exact ht.answer
  · next k _ =>
    have hfailed : ∀ e, (failed e).Inv := fun _ => ht.answer
    refine State.Inv.ite (hfailed _) ?_
    split
    · split
      · exact hfailed _
      · exact .ite ht (.ite ht.answer (ht.engineSpend.withMem ht.mem.peek).logAccess.answer)
    · split
      · exact hfailed _
      · exact ht.ite ht.peerStore
    · exact ht.peerRmw
    · exact ht.peerRmw

theorem execLinkWidthChange_inv {link : Nat} {lanes : BitVec 4} (hs : s.Inv) : (execLinkWidthChange link lanes s).Inv :=
  hs.ite (State.Inv.setReach hs)

theorem execLinkCorrectedError_inv {link : Nat} {lane : Option Nat} (hs : s.Inv) :
    (execLinkCorrectedError link lane s).Inv := by
  unfold execLinkCorrectedError
  split
  · exact hs
  · dsimp only
    split
    · exact hs.addScore.addScore.ite hs.addScore
    · exact hs.addScore

theorem execFarModuleConnect_inv {link : Nat} {peer : Option (BitVec 8)} {lanes : BitVec 4} (hs : s.Inv) :
    (execFarModuleConnect link peer lanes s).Inv := by
  unfold execFarModuleConnect
  split
  · exact hs
  · split
    · exact State.Inv.setReach hs
    · exact hs.ite (State.Inv.setReach hs)

theorem execGondolaVisit_inv {g : GondolaTok} (hs : s.Inv) : (execGondolaVisit g s).Inv := hs.mapCtxs fun _ hk => .ite hk hk

theorem State.Inv.giveWork {c : CtxId} (hs : s.Inv) : (s.giveWork c).Inv := by
  unfold State.giveWork
  split
  · exact .ite (.modCtx hs fun _ hk => hk) hs
  · refine hs.modCtx fun _ hk => ?_
    split
    · exact hk
    · split
      · exact hk
      · exact hk.modLn

theorem State.Inv.takeWork {w : Stolen} (hs : s.Inv) (hk : k.canonical) : (s.takeWork k w).Inv := by
  unfold State.takeWork
  extract_lets s1
  have hacquired : s1.Inv := hs.withMem (hs.mem.foldl fun _ _ hm => hm.acquire)
  split
  · exact hacquired
  · exact hacquired.setCtx hk.modLn
  · exact hacquired
  · exact hacquired
  · exact hacquired

theorem execStealHandshake_inv {c : CtxId} {thief : BitVec 8} {work : Stolen} (hs : s.Inv) :
    (execStealHandshake c thief work s).Inv := by
  unfold execStealHandshake
  split
  · exact hs
  · next k hctx =>
    have hk := hs.ctx hctx
    have hcleaned : (k.physSet.foldl Mems.scClean s.mem).canonical := hs.mem.foldl fun _ _ hm => hm.scClean
    split
    · exact State.Inv.ite hs (hs.takeWork hk)
    · split
      · exact hs.setCtx hk.modLn
      · exact hs.setCtx hk.modLn
      all_goals
        split
        · exact hs
        · exact State.Inv.ite hs (.giveWork (hs.withMem hcleaned))

theorem execCxlLinkTraining_inv {up : Bool} {lanes rate : Nat} (hs : s.Inv) : (execCxlLinkTraining up lanes rate s).Inv :=
  State.Inv.ite hs (State.Inv.ite hs hs)

theorem execSpinefreqWrite_inv {die spine : Nat} {code : BitVec 7} (hs : s.Inv) : (execSpinefreqWrite die spine code s).Inv :=
  hs.writeSpineFreq.ite hs

theorem execSpselWrite_inv {clu dom : Nat} {spine : BitVec 3} (hs : s.Inv) : (execSpselWrite clu dom spine s).Inv :=
  State.Inv.ite hs hs

theorem execRegisterWrite_inv {r : WReg} {v : BitVec 64} (hs : s.Inv) : (execRegisterWrite r v s).Inv := hs.writeReg

theorem execDbgHalt_inv (hs : s.Inv) : (execDbgHalt s).Inv := hs.halt.ite hs

theorem execDbgResume_inv (hs : s.Inv) : (execDbgResume s).Inv := hs.unhalt.ite hs

theorem execDbgStep_inv (hs : s.Inv) : (execDbgStep s).Inv := hs.stepOne.ite hs

theorem execFirmwareUpdate_inv {img : FirmwareImage} (hs : s.Inv) : (execFirmwareUpdate img s).Inv := State.Inv.ite hs hs

theorem execOrderlyPowerDown_inv (hs : s.Inv) : (execOrderlyPowerDown s).Inv := hs.foldl fun _ _ hs => hs.flashScore

theorem State.Inv.addCtx (hs : s.Inv) (hk : k.canonical) : ({ s with ctxs := s.ctxs ++ [k] } : State).Inv :=
  ⟨hs.mem, List.forall_mem_append.2 ⟨hs.2, List.forall_mem_singleton.2 hk⟩⟩

theorem execContextCreation_inv {c : CtxId} {d : CtxDescr} (hs : s.Inv) : (execContextCreation c d s).Inv := by
  unfold execContextCreation
  extract_lets k
  have hk : k.canonical := .setMap .fresh
  split
  · exact State.Inv.ite (hs.setCtx hk).houseEvent hs
  · exact State.Inv.ite (hs.addCtx hk).houseEvent hs

end

end Sys2Proof.Machine
end

section
/-! PROOFS. Canonical memories: the instructions and the step: `Obligations.StepKeepsMemoriesCanonical`. -/
namespace Sys2Proof.Machine

section
variable {s : State} {k : Ctx} {m : Mems} {h : Share}

/-! ### Integer instructions (11) -/

theorem intOne_inv {t : Tmpl} {g : FormG} {op : BitVec 64 → BitVec 64} (hs : s.Inv) : (intOne t g op s).Inv :=
  hs.fire fun _ _ => .result

theorem intTwo_inv {t : Tmpl} {g : FormG} {op : BitVec 64 → BitVec 64 → BitVec 64} (hs : s.Inv) : (intTwo t g op s).Inv :=
  hs.fire fun _ _ => .result

theorem intThree_inv {t : Tmpl} {g : FormG} {xa : XArg} {op : BitVec 64 → BitVec 64 → BitVec 64 → BitVec 64} (hs : s.Inv) :
    (intThree t g xa op s).Inv :=
  hs.fire fun _ _ => .result

theorem bitTwo_inv {t : Tmpl} {g : FormG} {op : Value → Value → Value} (hs : s.Inv) : (bitTwo t g op s).Inv :=
  hs.fire fun _ _ => .result

theorem execAdd_inv {t : Tmpl} {g : FormG} (hs : s.Inv) : (execAdd t g s).Inv := intTwo_inv hs

theorem execSub_inv {t : Tmpl} {g : FormG} (hs : s.Inv) : (execSub t g s).Inv := intTwo_inv hs

theorem execMul_inv {t : Tmpl} {g : FormG} (hs : s.Inv) : (execMul t g s).Inv := intTwo_inv hs

theorem execMulh_inv {t : Tmpl} {g : FormG} (hs : s.Inv) : (execMulh t g s).Inv := intTwo_inv hs

theorem execMulhn_inv {t : Tmpl} {g : FormG} (hs : s.Inv) : (execMulhn t g s).Inv := intTwo_inv hs

theorem execDiv_inv {t : Tmpl} {g : FormG} (hs : s.Inv) : (execDiv t g s).Inv := intTwo_inv hs

theorem execDivn_inv {t : Tmpl} {g : FormG} (hs : s.Inv) : (execDivn t g s).Inv := intTwo_inv hs

theorem execRem_inv {t : Tmpl} {g : FormG} (hs : s.Inv) : (execRem t g s).Inv := intTwo_inv hs

theorem execRemn_inv {t : Tmpl} {g : FormG} (hs : s.Inv) : (execRemn t g s).Inv := intTwo_inv hs

theorem execMin_inv {t : Tmpl} {g : FormG} (hs : s.Inv) : (execMin t g s).Inv := intTwo_inv hs

theorem execMax_inv {t : Tmpl} {g : FormG} (hs : s.Inv) : (execMax t g s).Inv := intTwo_inv hs

theorem execMinn_inv {t : Tmpl} {g : FormG} (hs : s.Inv) : (execMinn t g s).Inv := intTwo_inv hs

theorem execMaxn_inv {t : Tmpl} {g : FormG} (hs : s.Inv) : (execMaxn t g s).Inv := intTwo_inv hs

theorem execAddsat_inv {t : Tmpl} {g : FormG} (hs : s.Inv) : (execAddsat t g s).Inv := intTwo_inv hs

theorem execSubsat_inv {t : Tmpl} {g : FormG} (hs : s.Inv) : (execSubsat t g s).Inv := intTwo_inv hs

theorem execShl_inv {t : Tmpl} {g : FormG} (hs : s.Inv) : (execShl t g s).Inv := intTwo_inv hs

theorem execShr_inv {t : Tmpl} {g : FormG} (hs : s.Inv) : (execShr t g s).Inv := intTwo_inv hs

theorem execSra_inv {t : Tmpl} {g : FormG} (hs : s.Inv) : (execSra t g s).Inv := intTwo_inv hs

theorem execRot_inv {t : Tmpl} {g : FormG} (hs : s.Inv) : (execRot t g s).Inv := intTwo_inv hs

theorem execBfx_inv {t : Tmpl} {g : FormG} (hs : s.Inv) : (execBfx t g s).Inv := intTwo_inv hs

theorem execSext_inv {t : Tmpl} {g : FormG} (hs : s.Inv) : (execSext t g s).Inv := intTwo_inv hs

theorem execZext_inv {t : Tmpl} {g : FormG} (hs : s.Inv) : (execZext t g s).Inv := intTwo_inv hs

theorem execLea_inv {t : Tmpl} {g : FormG} (hs : s.Inv) : (execLea t g s).Inv := intTwo_inv hs

theorem execCmp_inv {t : Tmpl} {g : FormG} (hs : s.Inv) : (execCmp t g s).Inv := intTwo_inv hs

theorem execNeg_inv {t : Tmpl} {g : FormG} (hs : s.Inv) : (execNeg t g s).Inv := intOne_inv hs

theorem execAbs_inv {t : Tmpl} {g : FormG} (hs : s.Inv) : (execAbs t g s).Inv := intOne_inv hs

theorem execClz_inv {t : Tmpl} {g : FormG} (hs : s.Inv) : (execClz t g s).Inv := intOne_inv hs

theorem execCtz_inv {t : Tmpl} {g : FormG} (hs : s.Inv) : (execCtz t g s).Inv := intOne_inv hs

theorem execPopc_inv {t : Tmpl} {g : FormG} (hs : s.Inv) : (execPopc t g s).Inv := intOne_inv hs

theorem execBrev_inv {t : Tmpl} {g : FormG} (hs : s.Inv) : (execBrev t g s).Inv := intOne_inv hs

theorem execMad_inv {t : Tmpl} {g : FormG} {xa : XArg} (hs : s.Inv) : (execMad t g xa s).Inv := intThree_inv hs

theorem execClamp_inv {t : Tmpl} {g : FormG} {xa : XArg} (hs : s.Inv) : (execClamp t g xa s).Inv := intThree_inv hs

theorem execBfi_inv {t : Tmpl} {g : FormG} {xa : XArg} (hs : s.Inv) : (execBfi t g xa s).Inv := intThree_inv hs

theorem execAnd_inv {t : Tmpl} {g : FormG} (hs : s.Inv) : (execAnd t g s).Inv := bitTwo_inv hs

theorem execOr_inv {t : Tmpl} {g : FormG} (hs : s.Inv) : (execOr t g s).Inv := bitTwo_inv hs

theorem execXor_inv {t : Tmpl} {g : FormG} (hs : s.Inv) : (execXor t g s).Inv := bitTwo_inv hs

theorem execAndn_inv {t : Tmpl} {g : FormG} (hs : s.Inv) : (execAndn t g s).Inv := bitTwo_inv hs

theorem execNot_inv {t : Tmpl} {g : FormG} (hs : s.Inv) : (execNot t g s).Inv := hs.fire fun _ _ => .result

/-! ### Instructions on memories (13) -/

theorem execLd_inv {t : Tmpl} {m : FormM} (hs : s.Inv) : (execLd t m s).Inv := hs.fireM

theorem execSt_inv {t : Tmpl} {m : FormM} (hs : s.Inv) : (execSt t m s).Inv := hs.fireM

theorem execLdc_inv {t : Tmpl} {m : FormM} (hs : s.Inv) : (execLdc t m s).Inv := hs.fireM

theorem execStf_inv {t : Tmpl} {m : FormM} (hs : s.Inv) : (execStf t m s).Inv := hs.fireM

theorem execLdi_inv {t : Tmpl} {m : FormM} (hs : s.Inv) : (execLdi t m s).Inv := hs.fireM

theorem execSti_inv {t : Tmpl} {m : FormM} (hs : s.Inv) : (execSti t m s).Inv := hs.fireM

theorem execMnop_inv {t : Tmpl} {m : FormM} (hs : s.Inv) : (execMnop t m s).Inv := hs.fireM

theorem execPref_inv {t : Tmpl} {m : FormM} (hs : s.Inv) : (execPref t m s).Inv := hs.fireM

theorem execAtadd_inv {t : Tmpl} {m : FormM} (hs : s.Inv) : (execAtadd t m s).Inv := hs.fireM

theorem execAtand_inv {t : Tmpl} {m : FormM} (hs : s.Inv) : (execAtand t m s).Inv := hs.fireM

theorem execAtor_inv {t : Tmpl} {m : FormM} (hs : s.Inv) : (execAtor t m s).Inv := hs.fireM

theorem execAtxor_inv {t : Tmpl} {m : FormM} (hs : s.Inv) : (execAtxor t m s).Inv := hs.fireM

theorem execAtmin_inv {t : Tmpl} {m : FormM} (hs : s.Inv) : (execAtmin t m s).Inv := hs.fireM

theorem execAtmax_inv {t : Tmpl} {m : FormM} (hs : s.Inv) : (execAtmax t m s).Inv := hs.fireM

theorem execAtminn_inv {t : Tmpl} {m : FormM} (hs : s.Inv) : (execAtminn t m s).Inv := hs.fireM

theorem execAtmaxn_inv {t : Tmpl} {m : FormM} (hs : s.Inv) : (execAtmaxn t m s).Inv := hs.fireM

theorem execAtxchg_inv {t : Tmpl} {m : FormM} (hs : s.Inv) : (execAtxchg t m s).Inv := hs.fireM

theorem execAtcas_inv {t : Tmpl} {m : FormM} {xa : XArg} (hs : s.Inv) : (execAtcas t m xa s).Inv := hs.fireM

theorem execRedadd_inv {t : Tmpl} {m : FormM} (hs : s.Inv) : (execRedadd t m s).Inv := hs.fireM

theorem execRedmin_inv {t : Tmpl} {m : FormM} (hs : s.Inv) : (execRedmin t m s).Inv := hs.fireM

theorem execRedmax_inv {t : Tmpl} {m : FormM} (hs : s.Inv) : (execRedmax t m s).Inv := hs.fireM

theorem execRedfadd_inv {t : Tmpl} {m : FormM} (hs : s.Inv) : (execRedfadd t m s).Inv := hs.fireM

theorem execFence_inv {t : Tmpl} {m : FormM} (hs : s.Inv) : (execFence t m s).Inv := hs.fireM

theorem execOwn_inv {t : Tmpl} {m : FormM} (hs : s.Inv) : (execOwn t m s).Inv := hs.fireM

theorem execFeq_inv {t : Tmpl} {m : FormM} (hs : s.Inv) : (execFeq t m s).Inv := hs.fireM

theorem execFeset_inv {t : Tmpl} {m : FormM} (hs : s.Inv) : (execFeset t m s).Inv := hs.fireM

theorem execClean_inv {t : Tmpl} {m : FormM} (hs : s.Inv) : (execClean t m s).Inv := hs.fireM

theorem execFlush_inv {t : Tmpl} {m : FormM} (hs : s.Inv) : (execFlush t m s).Inv := hs.fireM

theorem execInvl_inv {t : Tmpl} {m : FormM} (hs : s.Inv) : (execInvl t m s).Inv := hs.fireM

/-! ### Vector instructions (12) -/

theorem vOne_inv {t : Tmpl} {g : FormG} {op : Value → Value × FpFlags} (hs : s.Inv) : (vOne t g op s).Inv :=
  hs.fire fun _ _ => .result

theorem vTwo_inv {t : Tmpl} {g : FormG} {op : Value → Value → Value × FpFlags} (hs : s.Inv) : (vTwo t g op s).Inv :=
  hs.fire fun _ _ => .result

theorem vMaybe_inv {t : Tmpl} {g : FormG} {takesB : Bool} {op : Value → Value → Value × FpFlags} (hs : s.Inv) :
    (vMaybe t g takesB op s).Inv :=
  hs.fire fun _ _ => .result

theorem vThree_inv {t : Tmpl} {g : FormG} {xa : XArg} {op : Value → Value → Value → Value × FpFlags} (hs : s.Inv) :
    (vThree t g xa op s).Inv :=
  hs.fire fun _ _ => .result

theorem Ctx.canonical.setVred {v : Vred} (hk : k.canonical) : (k.setVred v).canonical := hk

theorem Sem.keeps.vredAdds {f : Fire} {g : FormG} {c : Contrib} : (f.vredAdds g c).keeps := fun _ hk => .ite hk hk

theorem Sem.keeps.vredSem {f : Fire} {g : FormG} : (f.vredSem g).keeps := by
  unfold Fire.vredSem
  split
  · trivial
  · exact .ite trivial (.ite trivial .vredAdds)

theorem State.Inv.vredHold {f : Fire} {c : Contrib} (hs : s.Inv) (hk : f.k.canonical) : (s.vredHold f c).Inv :=
  hs.setCtx hk.consume.setVred

theorem State.Inv.vredDue {t : Tmpl} {f : Fire} (hs : s.Inv) (e : s.vredDue t = some f) : f.k.canonical := hs.firingOf e

theorem execVred_inv {t : Tmpl} {g : FormG} (hs : s.Inv) : (execVred t g s).Inv := by
  unfold execVred
  split
  · next f hready =>
    have hk := hs.ready hready
    split
    · exact hs.vredHold hk
    · exact hs.fireOn hk fun _ _ => .vredSem
  · split
    · next f hdue =>
      refine hs.fireOn (hs.vredDue hdue) fun _ _ => ?_
      split
      · exact .vredAdds
      · trivial
    · exact hs

theorem execVadd_inv {t : Tmpl} {g : FormG} (hs : s.Inv) : (execVadd t g s).Inv := vTwo_inv hs

theorem execVsub_inv {t : Tmpl} {g : FormG} (hs : s.Inv) : (execVsub t g s).Inv := vTwo_inv hs

theorem execVmul_inv {t : Tmpl} {g : FormG} (hs : s.Inv) : (execVmul t g s).Inv := vTwo_inv hs

theorem execVfma_inv {t : Tmpl} {g : FormG} {xa : XArg} (hs : s.Inv) : (execVfma t g xa s).Inv := vThree_inv hs

theorem execVfms_inv {t : Tmpl} {g : FormG} {xa : XArg} (hs : s.Inv) : (execVfms t g xa s).Inv := vThree_inv hs

theorem execVfnma_inv {t : Tmpl} {g : FormG} {xa : XArg} (hs : s.Inv) : (execVfnma t g xa s).Inv := vThree_inv hs

theorem execVfnms_inv {t : Tmpl} {g : FormG} {xa : XArg} (hs : s.Inv) : (execVfnms t g xa s).Inv := vThree_inv hs

theorem execVdiv_inv {t : Tmpl} {g : FormG} (hs : s.Inv) : (execVdiv t g s).Inv := vTwo_inv hs

theorem execVsqrt_inv {t : Tmpl} {g : FormG} (hs : s.Inv) : (execVsqrt t g s).Inv := vOne_inv hs

theorem execVrsqe_inv {t : Tmpl} {g : FormG} (hs : s.Inv) : (execVrsqe t g s).Inv := vOne_inv hs

theorem execVrcpe_inv {t : Tmpl} {g : FormG} (hs : s.Inv) : (execVrcpe t g s).Inv := vOne_inv hs

theorem execVexpe_inv {t : Tmpl} {g : FormG} (hs : s.Inv) : (execVexpe t g s).Inv := vOne_inv hs

theorem execVloge_inv {t : Tmpl} {g : FormG} (hs : s.Inv) : (execVloge t g s).Inv := vOne_inv hs

theorem execVmin_inv {t : Tmpl} {g : FormG} (hs : s.Inv) : (execVmin t g s).Inv := vTwo_inv hs

theorem execVmax_inv {t : Tmpl} {g : FormG} (hs : s.Inv) : (execVmax t g s).Inv := vTwo_inv hs

theorem execVabs_inv {t : Tmpl} {g : FormG} (hs : s.Inv) : (execVabs t g s).Inv := vOne_inv hs

theorem execVneg_inv {t : Tmpl} {g : FormG} (hs : s.Inv) : (execVneg t g s).Inv := vOne_inv hs

theorem execVcpys_inv {t : Tmpl} {g : FormG} (hs : s.Inv) : (execVcpys t g s).Inv := vTwo_inv hs

theorem execVcmp_inv {t : Tmpl} {g : FormG} (hs : s.Inv) : (execVcmp t g s).Inv := vTwo_inv hs

theorem execVsel_inv {t : Tmpl} {g : FormG} {xa : XArg} (hs : s.Inv) : (execVsel t g xa s).Inv := vThree_inv hs

theorem execVclass_inv {t : Tmpl} {g : FormG} (hs : s.Inv) : (execVclass t g s).Inv := vOne_inv hs

theorem execVround_inv {t : Tmpl} {g : FormG} (hs : s.Inv) : (execVround t g s).Inv := vOne_inv hs

theorem execVcvt_inv {t : Tmpl} {g : FormG} (hs : s.Inv) : (execVcvt t g s).Inv := vMaybe_inv hs

theorem execVcvti_inv {t : Tmpl} {g : FormG} (hs : s.Inv) : (execVcvti t g s).Inv := vMaybe_inv hs

theorem execVcvtf_inv {t : Tmpl} {g : FormG} (hs : s.Inv) : (execVcvtf t g s).Inv := vMaybe_inv hs

theorem execVscale_inv {t : Tmpl} {g : FormG} (hs : s.Inv) : (execVscale t g s).Inv := hs.fire fun _ _ => .result

theorem execVdot_inv {t : Tmpl} {g : FormG} (hs : s.Inv) : (execVdot t g s).Inv := vTwo_inv hs

theorem execVhadd_inv {t : Tmpl} {g : FormG} (hs : s.Inv) : (execVhadd t g s).Inv := vOne_inv hs

theorem execVhmax_inv {t : Tmpl} {g : FormG} (hs : s.Inv) : (execVhmax t g s).Inv := vOne_inv hs

theorem execVhmin_inv {t : Tmpl} {g : FormG} (hs : s.Inv) : (execVhmin t g s).Inv := vOne_inv hs

theorem execVshuf_inv {t : Tmpl} {g : FormG} (hs : s.Inv) : (execVshuf t g s).Inv := vTwo_inv hs

theorem execVbcast_inv {t : Tmpl} {g : FormG} (hs : s.Inv) : (execVbcast t g s).Inv := vOne_inv hs

theorem execVpack_inv {t : Tmpl} {g : FormG} (hs : s.Inv) : (execVpack t g s).Inv := vTwo_inv hs

theorem execVunpk_inv {t : Tmpl} {g : FormG} (hs : s.Inv) : (execVunpk t g s).Inv := vTwo_inv hs

theorem execViadd_inv {t : Tmpl} {g : FormG} (hs : s.Inv) : (execViadd t g s).Inv := vTwo_inv hs

theorem execVisub_inv {t : Tmpl} {g : FormG} (hs : s.Inv) : (execVisub t g s).Inv := vTwo_inv hs

theorem execVimul_inv {t : Tmpl} {g : FormG} (hs : s.Inv) : (execVimul t g s).Inv := vTwo_inv hs

theorem execVimin_inv {t : Tmpl} {g : FormG} (hs : s.Inv) : (execVimin t g s).Inv := vTwo_inv hs

theorem execVimax_inv {t : Tmpl} {g : FormG} (hs : s.Inv) : (execVimax t g s).Inv := vTwo_inv hs

theorem execViabs_inv {t : Tmpl} {g : FormG} (hs : s.Inv) : (execViabs t g s).Inv := vOne_inv hs

theorem execVshl_inv {t : Tmpl} {g : FormG} (hs : s.Inv) : (execVshl t g s).Inv := vTwo_inv hs

theorem execVshr_inv {t : Tmpl} {g : FormG} (hs : s.Inv) : (execVshr t g s).Inv := vTwo_inv hs

theorem execVsra_inv {t : Tmpl} {g : FormG} (hs : s.Inv) : (execVsra t g s).Inv := vTwo_inv hs

theorem execVnarrow_inv {t : Tmpl} {g : FormG} (hs : s.Inv) : (execVnarrow t g s).Inv := vMaybe_inv hs

theorem execVquant_inv {t : Tmpl} {g : FormG} (hs : s.Inv) : (execVquant t g s).Inv := vMaybe_inv hs

theorem execVdeq_inv {t : Tmpl} {g : FormG} (hs : s.Inv) : (execVdeq t g s).Inv := vTwo_inv hs

/-! ### Instructions on queues and tables (15) -/

theorem execLaunch_inv {t : Tmpl} {m : FormM} (hs : s.Inv) : (execLaunch t m s).Inv := hs.fireM

theorem execLstat_inv {t : Tmpl} {m : FormM} (hs : s.Inv) : (execLstat t m s).Inv := hs.fireM

theorem execLbar_inv {t : Tmpl} {m : FormM} (hs : s.Inv) : (execLbar t m s).Inv := hs.fireM

theorem execPqput_inv {t : Tmpl} {m : FormM} (hs : s.Inv) : (execPqput t m s).Inv := hs.fireM

theorem execPqget_inv {t : Tmpl} {m : FormM} (hs : s.Inv) : (execPqget t m s).Inv := hs.fireM

theorem execRtget_inv {t : Tmpl} {m : FormM} (hs : s.Inv) : (execRtget t m s).Inv := hs.fireM

theorem execRtdone_inv {t : Tmpl} {m : FormM} (hs : s.Inv) : (execRtdone t m s).Inv := hs.fireM

theorem execQput_inv {t : Tmpl} {m : FormM} (hs : s.Inv) : (execQput t m s).Inv := hs.fireM

theorem execQget_inv {t : Tmpl} {m : FormM} (hs : s.Inv) : (execQget t m s).Inv := hs.fireM

theorem execQbind_inv {t : Tmpl} {m : FormM} (hs : s.Inv) : (execQbind t m s).Inv := hs.fireM

theorem execQunbind_inv {t : Tmpl} {m : FormM} (hs : s.Inv) : (execQunbind t m s).Inv := hs.fireM

theorem execIqput_inv {t : Tmpl} {m : FormM} (hs : s.Inv) : (execIqput t m s).Inv := hs.fireM

theorem execIqget_inv {t : Tmpl} {m : FormM} (hs : s.Inv) : (execIqget t m s).Inv := hs.fireM

theorem execIqlook_inv {t : Tmpl} {m : FormM} (hs : s.Inv) : (execIqlook t m s).Inv := hs.fireM

theorem execIqcons_inv {t : Tmpl} {m : FormM} (hs : s.Inv) : (execIqcons t m s).Inv := hs.fireM

theorem execIqadv_inv {t : Tmpl} {m : FormM} (hs : s.Inv) : (execIqadv t m s).Inv := hs.fireM

theorem execIqquiet_inv {t : Tmpl} {m : FormM} (hs : s.Inv) : (execIqquiet t m s).Inv := hs.fireM

theorem execCapget_inv {t : Tmpl} {m : FormM} (hs : s.Inv) : (execCapget t m s).Inv := hs.fireM

theorem execJoinw_inv {t : Tmpl} {m : FormM} (hs : s.Inv) : (execJoinw t m s).Inv := hs.fireM

theorem execDput_inv {t : Tmpl} {m : FormM} (hs : s.Inv) : (execDput t m s).Inv := hs.fireM

theorem execDget_inv {t : Tmpl} {m : FormM} (hs : s.Inv) : (execDget t m s).Inv := hs.fireM

theorem execPattr_inv {t : Tmpl} {m : FormM} (hs : s.Inv) : (execPattr t m s).Inv := hs.fireM

theorem execLogset_inv {t : Tmpl} {m : FormM} (hs : s.Inv) : (execLogset t m s).Inv := hs.fireHouseM

theorem execKeyset_inv {t : Tmpl} {m : FormM} (hs : s.Inv) : (execKeyset t m s).Inv := hs.fireHouseM

theorem execXlinv_inv {t : Tmpl} {m : FormM} (hs : s.Inv) : (execXlinv t m s).Inv := hs.fireHouseM

/-! ### Every instruction -/

/-- Each instruction and each event, by the lemma of its own performance. -/
theorem exec_inv {i : Instr} (hs : s.Inv) : Out.Inv (exec i s) := by
  unfold exec
  split
  · exact execBlockPlacement_inv hs
  · exact execBlockMove_inv hs
  · exact execTokenForward_inv hs
  · exact execStaleBlockEviction_inv hs
  · exact execMemoryOrderEntry_inv hs
  · exact execLoadBind_inv hs
  · exact execStorePerform_inv hs
  · exact execWaveCommit_inv hs
  · exact execCommittedOperationWaitEnd_inv hs
  · exact execPageWalk_inv hs
  · exact execFaultDelivery_inv hs
  · exact execStallSweep_inv hs
  · exact execLaunchAdmission_inv hs
  · exact execThreadCreation_inv hs
  · exact execLaunchCompletion_inv hs
  · exact execLaunchAbort_inv hs
  · exact execGrantInterval_inv hs
  · exact execPreemptionGate_inv hs
  · exact execQuiescenceReport_inv hs
  · exact execContextSaveReport_inv hs
  · exact execPreemptionForce_inv hs
  · exact execRestore_inv hs
  · exact execMigrationGate_inv hs
  · exact execMigrationMove_inv hs
  · exact execThermalHot_inv hs
  · exact execThrottleTick_inv hs
  · exact execThermalTrip_inv hs
  · exact execCoolantFault_inv hs
  · exact execLeaseStart_inv hs
  · exact execLeaseTesting_inv hs
  · exact execLeaseVerdict_inv hs
  · exact execLeaseReturn_inv hs
  · exact execRetirement_inv hs
  · exact execControlLogicError_inv hs
  · exact execEscalatingError_inv hs
  · exact execWarmReset_inv hs
  · exact execL2WritebackTimeout_inv hs
  · exact execColdStart_inv hs
  · exact execTeardown_inv hs
  · exact execPatrolScrub_inv hs
  · exact execPowerInterval_inv hs
  · exact execBallastFiring_inv hs
  · exact execChimeEvaluation_inv hs
  · exact execChimeCounterFire_inv hs
  · exact execDrumEmit_inv hs
  · exact execDrumEnd_inv hs
  · exact execStreamElement_inv hs
  · exact execStreamEnd_inv hs
  · exact execWloadExecute_inv hs
  · exact execMatrixAcceptance_inv hs
  · exact execMatrixRow_inv hs
  · exact execAccumulatorRelease_inv hs
  · exact execEngineUnit_inv hs
  · exact execCommandCompletion_inv hs
  · exact execCollectiveStart_inv hs
  · exact execQueueDispatch_inv hs
  · exact execParkedQueueServe_inv hs
  · exact execBarrierRelease_inv hs
  · exact execGondolaVisit_inv hs
  · exact execStealHandshake_inv hs
  · exact execHostDoorbell_inv hs
  · exact execHostCommand_inv hs
  · exact execHostEventWrite_inv hs
  · exact execBiasToHost_inv hs
  · exact execBiasToDevice_inv hs
  · exact execHostMemoryRequest_inv hs
  · exact execHostSnoopResponse_inv hs
  · exact execSpdmRequest_inv hs
  · exact execPeerRequest_inv hs
  · exact execLinkWidthChange_inv hs
  · exact execLinkCorrectedError_inv hs
  · exact execSpinefreqWrite_inv hs
  · exact execSpselWrite_inv hs
  · exact execDbgHalt_inv hs
  · exact execDbgResume_inv hs
  · exact execDbgStep_inv hs
  · exact execDfenceCompletion_inv hs
  · exact execFirmwareUpdate_inv hs
  · exact execRegisterWrite_inv hs
  · exact execMov_inv hs
  · exact execSteer_inv hs
  · exact execFilter_inv hs
  · exact execGate_inv hs
  · exact execSink_inv hs
  · exact execSel_inv hs
  · exact execFork_inv hs
  · exact execWadv_inv hs
  · exact execWset_inv hs
  · exact execWrd_inv hs
  · exact execTrd_inv hs
  · exact execTnew_inv hs
  · exact execTend_inv hs
  · exact execSeqt_inv hs
  · exact execSwitch_inv hs
  · exact execCall_inv hs
  · exact execRet_inv hs
  · exact execBjump_inv hs
  · exact execTrap_inv hs
  · exact execAdd_inv hs
  · exact execSub_inv hs
  · exact execMul_inv hs
  · exact execMulh_inv hs
  · exact execMulhn_inv hs
  · exact execMad_inv hs
  · exact execDiv_inv hs
  · exact execDivn_inv hs
  · exact execRem_inv hs
  · exact execRemn_inv hs
  · exact execNeg_inv hs
  · exact execAbs_inv hs
  · exact execMin_inv hs
  · exact execMax_inv hs
  · exact execMinn_inv hs
  · exact execMaxn_inv hs
  · exact execAddsat_inv hs
  · exact execSubsat_inv hs
  · exact execClamp_inv hs
  · exact execAnd_inv hs
  · exact execOr_inv hs
  · exact execXor_inv hs
  · exact execAndn_inv hs
  · exact execNot_inv hs
  · exact execShl_inv hs
  · exact execShr_inv hs
  · exact execSra_inv hs
  · exact execRot_inv hs
  · exact execClz_inv hs
  · exact execCtz_inv hs
  · exact execPopc_inv hs
  · exact execBrev_inv hs
  · exact execBfx_inv hs
  · exact execBfi_inv hs
  · exact execSext_inv hs
  · exact execZext_inv hs
  · exact execLea_inv hs
  · exact execCmp_inv hs
  · exact execVadd_inv hs
  · exact execVsub_inv hs
  · exact execVmul_inv hs
  · exact execVfma_inv hs
  · exact execVfms_inv hs
  · exact execVfnma_inv hs
  · exact execVfnms_inv hs
  · exact execVdiv_inv hs
  · exact execVsqrt_inv hs
  · exact execVrsqe_inv hs
  · exact execVrcpe_inv hs
  · exact execVexpe_inv hs
  · exact execVloge_inv hs
  · exact execVmin_inv hs
  · exact execVmax_inv hs
  · exact execVabs_inv hs
  · exact execVneg_inv hs
  · exact execVcpys_inv hs
  · exact execVcmp_inv hs
  · exact execVsel_inv hs
  · exact execVclass_inv hs
  · exact execVround_inv hs
  · exact execVcvt_inv hs
  · exact execVcvti_inv hs
  · exact execVcvtf_inv hs
  · exact execVscale_inv hs
  · exact execVdot_inv hs
  · exact execVhadd_inv hs
  · exact execVhmax_inv hs
  · exact execVhmin_inv hs
  · exact execVshuf_inv hs
  · exact execVbcast_inv hs
  · exact execVpack_inv hs
  · exact execVunpk_inv hs
  · exact execViadd_inv hs
  · exact execVisub_inv hs
  · exact execVimul_inv hs
  · exact execVimin_inv hs
  · exact execVimax_inv hs
  · exact execViabs_inv hs
  · exact execVshl_inv hs
  · exact execVshr_inv hs
  · exact execVsra_inv hs
  · exact execVnarrow_inv hs
  · exact execVquant_inv hs
  · exact execVdeq_inv hs
  · exact execVred_inv hs
  · exact execLd_inv hs
  · exact execSt_inv hs
  · exact execLdc_inv hs
  · exact execStf_inv hs
  · exact execLdi_inv hs
  · exact execSti_inv hs
  · exact execMnop_inv hs
  · exact execPref_inv hs
  · exact execAtadd_inv hs
  · exact execAtand_inv hs
  · exact execAtor_inv hs
  · exact execAtxor_inv hs
  · exact execAtmin_inv hs
  · exact execAtmax_inv hs
  · exact execAtminn_inv hs
  · exact execAtmaxn_inv hs
  · exact execAtxchg_inv hs
  · exact execAtcas_inv hs
  · exact execRedadd_inv hs
  · exact execRedmin_inv hs
  · exact execRedmax_inv hs
  · exact execRedfadd_inv hs
  · exact execFence_inv hs
  · exact execOwn_inv hs
  · exact execFeq_inv hs
  · exact execFeset_inv hs
  · exact execClean_inv hs
  · exact execFlush_inv hs
  · exact execInvl_inv hs
  · exact execWload_inv hs
  · exact execMma_inv hs
  · exact execMmasp_inv hs
  · exact execAcccfg_inv hs
  · exact execAccrd_inv hs
  · exact execAccspl_inv hs
  · exact execAccrst_inv hs
  · exact execScacc_inv hs
  · exact execScaccv_inv hs
  · exact execRinit_inv hs
  · exact execRstat_inv hs
  · exact execRadv_inv hs
  · exact execCpy_inv hs
  · exact execCpy2d_inv hs
  · exact execGath_inv hs
  · exact execScat_inv hs
  · exact execColl_inv hs
  · exact execEcan_inv hs
  · exact execStrcfg_inv hs
  · exact execStrgo_inv hs
  · exact execStrstop_inv hs
  · exact execSqcfg_inv hs
  · exact execSqgo_inv hs
  · exact execChwire_inv hs
  · exact execChset_inv hs
  · exact execChpulse_inv hs
  · exact execLaunch_inv hs
  · exact execLstat_inv hs
  · exact execLbar_inv hs
  · exact execPqput_inv hs
  · exact execPqget_inv hs
  · exact execRtget_inv hs
  · exact execRtdone_inv hs
  · exact execQput_inv hs
  · exact execQget_inv hs
  · exact execQbind_inv hs
  · exact execQunbind_inv hs
  · exact execIqput_inv hs
  · exact execIqget_inv hs
  · exact execIqlook_inv hs
  · exact execIqcons_inv hs
  · exact execIqadv_inv hs
  · exact execIqquiet_inv hs
  · exact execSteal_inv hs
  · exact execCapget_inv hs
  · exact execCfgreq_inv hs
  · exact execJoinw_inv hs
  · exact execDswitch_inv hs
  · exact execDfence_inv hs
  · exact execDput_inv hs
  · exact execDget_inv hs
  · exact execIpin_inv hs
  · exact execIunpin_inv hs
  · exact execYield_inv hs
  · exact execCtxst_inv hs
  · exact execCntrd_inv hs
  · exact execEnrd_inv hs
  · exact execSusrd_inv hs
  · exact execLogset_inv hs
  · exact execLogrd_inv hs
  · exact execKeyset_inv hs
  · exact execPattr_inv hs
  · exact execXlinv_inv hs
  · exact execSyscall_inv hs
  · exact execBrk_inv hs
  · exact execMigrq_inv hs
  · exact execLeaseq_inv hs
  · exact execFresume_inv hs
  · exact execFabort_inv hs
  · exact execAccumulatorCommandExecute_inv hs
  · exact execContextCreation_inv hs
  · exact execSwitchOutResident_inv hs
  · exact execSwitchInResident_inv hs
  · exact execOrderlyPowerDown_inv hs
  · exact execHotClear_inv hs
  · exact execCoolantConditionClear_inv hs
  · exact execFarModuleConnect_inv hs
  · exact execCxlLinkTraining_inv hs
  · exact execHostCacheSnoop_inv hs

/-! ### The step -/

/-- A step runs the chosen event, or the decoded word of the chosen site, from the state begun. -/
theorem step_inv (hs : s.Inv) : Out.Inv (step s) := by
  have hbegun : s.begun.Inv := hs
  unfold step
  split
  · exact hbegun
  · split
    · split
      · exact hbegun
      · exact exec_inv hbegun
    · split
      · exact hbegun
      · split
        · trivial
        · exact exec_inv (s := { s.begun with focus := _, upset := _ }) hbegun

end

/-- Settles O9: the performance of every instruction and event keeps the invariant, function by function of the model. -/
theorem stepKeepsMemoriesCanonical : Obligations.StepKeepsMemoriesCanonical := by
  unfold Obligations.StepKeepsMemoriesCanonical
  intro s t hs hstep
  have hnext : Out.Inv (step s) := step_inv hs
  rw [hstep] at hnext
  exact hnext

end Sys2Proof.Machine
end
